-- ==== Sys2Proof/Word.lean ====
section
/-! DEFINITION. The word of the part and its plainest arithmetic (00_scope.md, Numbers and units). -/

namespace Sys2Proof

/-- A word is 40 bits, [39:0]. -/
abbrev Word := BitVec 40

/-- A byte of memory. -/
abbrev Byte := BitVec 8

end Sys2Proof
end

