-- ==== Sys2Proof/Config.lean ====
section
/-! DEFINITION. The free values: constants without a body, for what the spec leaves open. -/

namespace Sys2Proof.Config

/-- A fresh word that nothing constrains, one for each value of the state's counter (log entry 4). -/
opaque freeWord : Nat → Word

/-- The forwarding latency of the time link, in units: fixed and calibrated, its value not stated (R45). -/
opaque tlForward : Nat

/-- The gain of the phase correction of the step clock, in 2⁻⁴⁰ for each picosecond of alignment error: the correction
is proportional to the error, its factor is not stated (R55, log entry 62). -/
opaque steerGain : Nat

/-- What a SECDED read of an entry with three or more wrong bits returns (log entry 6). -/
opaque eccWord : Nat → Word → Word

/-- How such a read judges the entry: 0 clean, 1 corrected, 2 double-bit (log entry 6). -/
opaque eccKind : Nat → Word → Nat

/-- Whether the part is a WK9640-X and not a WK9640-E (HST_ID.CODE, R444). -/
opaque productX : Bool

end Sys2Proof.Config
end

