-- ==== Sys2Proof/Operand.lean ====
section
/-! DEFINITION. The operand forms of the engine instruction set that the commands carry (Chapter 7), and what the
flash reports while an archive command runs (Chapter 13). -/

namespace Sys2Proof

/-- The second operand of an ALU instruction: Xb, IMM21 sign-extended, or IMM40 of the 80-bit form (R185). -/
inductive AluSrc where
  | reg (b : Fin 16)
  | imm (i : BitVec 21)
  | imm40 (w : Word)
  deriving DecidableEq, Repr

/-- The amount of a SHIFT: AMT or Xb[5:0] (R186). -/
inductive ShiftAmt where
  | imm (k : BitVec 6)
  | reg (b : Fin 16)
  deriving DecidableEq, Repr

/-- The immediate of MVI: IMM21 sign-extended or IMM40 (Table 7.6). -/
inductive MoveImm where
  | imm (i : BitVec 21)
  | imm40 (w : Word)
  deriving DecidableEq, Repr

/-- The addressing modes of LD and ST (Table 7.7). -/
inductive AddrMode where
  | plain
  | postM
  | postImm (i : BitVec 18)
  | indexed
  deriving DecidableEq, Repr

/-- The address of NLD and NST: Xa, or IMM40 of the 80-bit form (R194). -/
inductive NetAddr where
  | reg (a : Fin 16)
  | imm40 (w : Word)
  deriving DecidableEq, Repr

/-- What the flash of an archive reports while a command, the patrol or the cleaner runs (R327-R330): sector reads that
used the ladder, sectors of the object that stayed uncorrectable, programs or erases that failed and blocks retired for
reads, the usable blocks these cost, and the new SPARE and WEAR where they change. -/
structure Media where
  retries : Nat := 0
  uncorr  : List Nat := []
  fails   : Nat := 0
  soft    : Nat := 0
  lost    : Nat := 0
  spare   : Option (BitVec 16) := none
  low     : Bool := false
  wear    : Option (BitVec 8) := none
  deriving DecidableEq, Repr

end Sys2Proof
end

