-- ==== Sys2Proof/Syntax.lean ====
section
/-! DEFINITION. The commands of the block: one constructor per row of spec/opcode_table.json, with the row's operands. -/

namespace Sys2Proof

/-- A region, 0 to 3. -/
abbrev Region := Fin 4

/-- A flat tile, 0 to 63 (R4). -/
abbrev Tile := Fin 64

/-- A cell of the device: 1,024 · flat tile + 64 · cluster + cell. -/
abbrev Cell := Fin 65536

/-- A test lane LN00 to LN47. -/
abbrev Lane := Fin 48

/-- A queue of a tile. -/
abbrev QueueIx := Fin 16

/-- A processor: stream engine SE*n* is *n*, supervisor RS*r* is 64 + *r*. -/
abbrev Proc := Fin 68

/-- The commands, in the order of the table. -/
inductive Instr where
  /-- A write to a register field that has no row of its own takes effect under its access type, with reserved encodings ignored (R7). -/
  | registerWrite (addr : Nat) (value : BitVec 64)
  /-- In each scheduled step the crossbars, switch boxes, route-in writes and queue ports act as the schedule entry says (R79). -/
  | scheduledStep (dt : Nat)
  /-- After S scheduled steps, the 8 boundary steps commit state, release queue entries and update the fabric pins (R14). -/
  | strideBoundary (dt : Nat) (lands : BitVec 64) (driven : BitVec 64)
  /-- The boundary that opens the first executed stride of a start discards shadows, releases due entries, re-applies the pins and applies pending RWQ values (R467). -/
  | firstBoundary (dt : Nat) (lands : BitVec 64) (driven : BitVec 64)
  /-- While strides are not running, the held stride number advances whenever device time passes an ideal boundary (R54). -/
  | heldStrideAdvance
  /-- A cell applies a 3-input truth table to every bit position of operands A, B and C (R73). -/
  | slice3 (cell : Cell) (instr : BitVec 80)
  /-- A cell looks up four selected bits in a 16-entry table and replaces bit Q of A with the result (R74). -/
  | lut4 (cell : Cell) (instr : BitVec 80)
  /-- A cell ripples a carry through segmented propagate and generate tables and outputs the sum, the carry-out or the overflow (R75). -/
  | chain (cell : Cell) (instr : BitVec 80)
  /-- A cell rotates or shifts A by a constant amount and merges the result into B under mask C (R76). -/
  | rot (cell : Cell) (instr : BitVec 80)
  /-- A cell folds the bits of A selected by C into one bit and places it in bit Q of a copy of B (R77). -/
  | reduce (cell : Cell) (instr : BitVec 80)
  /-- A cell NOP reads nothing, writes nothing and leaves the route-out register unchanged (R78). -/
  | nop (cell : Cell)
  /-- A cell writes a corrected word back in the first following step in which its compute write port is idle (R91). -/
  | correctionWriteBack (cell : Cell)
  /-- The scrubber reads data-memory entries in physical order in idle port cycles and counts completed passes (R93). -/
  | cellScrub (cell : Cell)
  /-- A write that changes a clock tree's source completes the high phase, holds the output low and restarts on the new source (R119). -/
  | rckSourceSwitch (region : Region) (tree : Fin 8)
  /-- When the old clock source gives no falling edge within 1 µs, the tree forces the switch and sets FORCED (R119). -/
  | rckForced (region : Region) (tree : Fin 8)
  /-- Reading TIM_NOW_FRAC latches the matching TSEC into TIM_NOW_SEC (R35). -/
  | timNowFracRead (dt : Nat)
  /-- Reading TIM_PPS_IN_FRAC latches TIM_PPS_IN_SEC (R35). -/
  | timPpsInFracRead
  /-- Reading TIM_STRIDE_LO latches TIM_STRIDE_HI (R35). -/
  | timStrideLoRead
  /-- Reading TIM_TS_INFO removes the oldest timestamp FIFO entry and latches its time (R42). -/
  | timTsInfoRead
  /-- A write of TIM_RATE stores the value clamped to ±100 ppm, and it applies from the next time-base tick (R34). -/
  | timRateWrite (value : Word)
  /-- A write of TIM_ADJ_SEC arms a step of device time by the offset for the next time-base tick (R36). -/
  | timAdjSecWrite (value : Word)
  /-- At the next tick the device applies the step of device time, or ignores it with ADJ_BAD, and logs TIME_STEP (R36). -/
  | timeStep
  /-- A write of TIM_STRIDE_CFG changes P only in BLANK, LOADING or FROZEN, and otherwise sets P_REFUSED (R50). -/
  | timStrideCfgWrite (value : Word)
  /-- PPS_OUT rises in the tick in which TFRAC returns to 0 (R37). -/
  | ppsOut
  /-- PPS_OUT falls after WIDTH nanoseconds (R37). -/
  | ppsOutFall
  /-- A PPS_IN edge latches device time and sets PPS_IN_NEW (R38). -/
  | ppsInEdge (rising : Bool) (dt : Nat)
  /-- REF_IN absent or off-frequency for 10 µs switches the synthesis to the oscillator and logs REF_LOST (R39). -/
  | refLost
  /-- After 10 µs of a valid input, REF_IN becomes qualified and REF_VALID sets (R39). -/
  | refQualified
  /-- A write of REF_SEL arms a switch to REF_IN, or switches to the oscillator at once (R40). -/
  | refSelWrite (sel : BitVec 2)
  /-- A PTP event message crossing a management port is timestamped into the timestamp FIFO (R41). -/
  | ptpEventMessage (port : Fin 2) (transmit : Bool) (msg : BitVec 4) (seq : BitVec 16) (ipv6 : Bool) (stamp : Nat)
  /-- The time-link master launches a time frame at every microsecond of its device time (R45). -/
  | timeFrameLaunch
  /-- A module that receives a time frame timestamps it, forwards it and publishes its offset, or, as master, measures the ring delay (R45). -/
  | timeFrame (sec : Word) (frac : Word) (hop : Nat) (ringDly : Nat) (valid : Bool) (arrival : Nat)
  /-- A member with no valid frame for 8 µs clears TL_LOCK and logs TL_LOST (R47). -/
  | tlLost
  /-- A 32-byte write of the gun ports enqueues a launch entry, or refuses it as BAD_PUSH, GUN_FULL or a past action (R59). -/
  | gunPush (region : Region) (s0 : Word) (s1 : Word) (s2 : Word) (s3 : Word) (whole : Bool) (dt : Nat)
  /-- A CANCEL entry removes every unfired entry of its unit with a matching TAG and logs them (R61). -/
  | cancel (region : Region) (cls : BitVec 4) (index : BitVec 6) (tag : BitVec 24) (frac : Word) (dt : Nat)
  /-- A queued action fires at the first edge of its unit's clock at or after its gun time (R62). -/
  | gunFire (region : Region) (cls : BitVec 4) (index : BitVec 6) (dt : Nat)
  /-- The gun controller issues a unit's wake request at the gun time less the resume latency and the guard (R64). -/
  | gunWake (region : Region) (cls : BitVec 4) (index : BitVec 6)
  /-- TX_SRC takes ARG[1:0] at the fired UI and the transmit source restarts (R232). -/
  | patStart (lane : Lane) (arg : Word)
  /-- TX_SRC becomes FILL at the fired UI (R232). -/
  | patStop (lane : Lane)
  /-- MUTE becomes 1 at the fired UI and the land goes to electrical idle (R217). -/
  | txMute (lane : Lane)
  /-- MUTE becomes 0 at the fired UI, in phase with the running stream (R217). -/
  | txUnmute (lane : Lane)
  /-- An INJECT action starts a sequence of N injection events with the kind of LN_INJ_CFG (R239). -/
  | inject (lane : Lane) (arg : Word)
  /-- At the first stride boundary at or after its gun time, the lane's receive feed starts with the next lane stride (R231). -/
  | rxqStart (lane : Lane)
  /-- At a stride boundary, the lane's receive feed stops after the current lane stride (R231). -/
  | rxqStop (lane : Lane)
  /-- An ARM checks the channel in order, and then takes it out of IDLE or refuses it (R271). -/
  | heatArm (region : Region) (channel : Fin 16) (auto : Option Bool)
  /-- An immediate DISARM truncates a heat in POST, or returns the channel to IDLE (R272). -/
  | heatDisarm (region : Region) (channel : Fin 16)
  /-- A FINISH lets a heat in POST run to its end and then stops the channel (R272). -/
  | heatFinish (region : Region) (channel : Fin 16)
  /-- A FORCE is a trigger of the channel stamped at its firing instant (R272). -/
  | heatForce (region : Region) (channel : Fin 16)
  /-- A START on an isolated zone restores it when needed and runs it from a stride boundary (R379). -/
  | zoneStart (region : Region) (zone : Fin 16)
  /-- An ISOLATE on a running zone isolates it at the next stride boundary, or at once in FROZEN (R379). -/
  | zoneIsolate (region : Region) (zone : Fin 16)
  /-- The gun action IRQ raises interrupt source 18 of an engine or supervisor, with the class that ARG[0] gives (R158). -/
  | gunIrq (proc : Proc) (fast : Bool)
  /-- The gun action EVENT raises combiner event 44 + ARG[1:0], stamped with the gun time (R265). -/
  | gunEvent (region : Region) (index : Fin 4) (stamp : Nat)
  /-- A RUN command resumes a halted engine at SE_PC (R168). -/
  | run (proc : Proc)
  /-- A HALT command stops issue at the next acceptance point and lets in-flight results land (R168). -/
  | halt (proc : Proc)
  /-- A STEP command makes a halted engine issue one instruction and then halt again (R168). -/
  | step (proc : Proc)
  /-- An engine reset stops issue, lets results land and ends the processor's DMA as ABORT does (R177). -/
  | engineReset (proc : Proc)
  /-- An E reset ends once the last DMA response has arrived, and the processor halts or starts at ENTRY (R65). -/
  | engineResetEnd (proc : Proc)
  /-- A write of QC_SIZE sets a queue's range and resets its pointers, or is refused with a reason (R123). -/
  | qcSizeWrite (tile : Tile) (queue : QueueIx) (value : Word)
  /-- A polling reader's write of QC_RD frees words of an outbound queue, or is refused with QUEUE_PTR (R132). -/
  | qcRdWrite (tile : Tile) (queue : QueueIx) (value : Word)
  /-- TRUNCATE keeps a queue's oldest words up to the new length and discards the rest (R134). -/
  | truncate (tile : Tile) (queue : QueueIx) (len : BitVec 16)
  /-- FLUSH discards every word and pending mark of a queue (R134). -/
  | flush (tile : Tile) (queue : QueueIx)
  /-- A queue command completes and the queue grants credits again (R134). -/
  | queueCommandDone (tile : Tile) (queue : QueueIx)
  /-- A write of QC_LANE sets the lane's direct-port groups, and leaves the enable at 0 with CFG_ERR when a group rule fails (R133). -/
  | qcLaneWrite (tile : Tile) (value : Word)
  /-- The tile scrubs queue memory row by row in idle port-S cycles (R122). -/
  | queueMemoryScrub (tile : Tile) (row : Fin 98304)
  /-- The device scrubs one scratchpad row per idle cycle taken as maintenance (R138). -/
  | scratchpadScrub (tile : Tile) (row : Fin 16384)
  /-- A DMA-class request that has waited STARVE_THR engine cycles reports SPD_STARVE once (R136). -/
  | spdStarve (tile : Tile) (word : Fin 131072) (cycles : Nat)
  /-- A write of START begins a destructive or preserving march, or is refused (R139). -/
  | marchStart (tile : Tile) (value : Word)
  /-- A march completes and reports passed or failed (R139). -/
  | marchDone (tile : Tile)
  /-- A write of VALID copies a row into its spare and redirects it, or copies it back, or is refused as a duplicate (R141). -/
  | repair (tile : Tile) (queueMem : Bool) (index : Fin 24) (value : Word)
  /-- The repair copy completes, the redirection takes force and DONE sets (R141). -/
  | repairDone (tile : Tile) (queueMem : Bool) (index : Fin 24)
  /-- ADD (ALU or ALUI form) writes Xa + Xb and sets the flags, with optional saturation (R185). -/
  | add (proc : Proc) (sat : Bool) (rd : Fin 16) (ra : Fin 16) (b : AluSrc)
  /-- ADC writes Xa + Xb + C and sets the flags (R185). -/
  | adc (proc : Proc) (sat : Bool) (rd : Fin 16) (ra : Fin 16) (b : AluSrc)
  /-- SUB writes Xa − Xb and sets the flags (R185). -/
  | sub (proc : Proc) (sat : Bool) (rd : Fin 16) (ra : Fin 16) (b : AluSrc)
  /-- SBC writes Xa − Xb − (1 − C) and sets the flags (R185). -/
  | sbc (proc : Proc) (sat : Bool) (rd : Fin 16) (ra : Fin 16) (b : AluSrc)
  /-- AND writes the bitwise AND of its operands (R185). -/
  | andOp (proc : Proc) (sat : Bool) (rd : Fin 16) (ra : Fin 16) (b : AluSrc)
  /-- OR writes the bitwise OR of its operands (R185). -/
  | orOp (proc : Proc) (sat : Bool) (rd : Fin 16) (ra : Fin 16) (b : AluSrc)
  /-- XOR writes the bitwise XOR of its operands (R185). -/
  | xorOp (proc : Proc) (sat : Bool) (rd : Fin 16) (ra : Fin 16) (b : AluSrc)
  /-- ANDN writes Xa AND NOT Xb (R185). -/
  | andn (proc : Proc) (sat : Bool) (rd : Fin 16) (ra : Fin 16) (b : AluSrc)
  /-- CMP sets the flags of Xa − Xb and writes no register (R185). -/
  | cmp (proc : Proc) (sat : Bool) (ra : Fin 16) (b : AluSrc)
  /-- TST sets the flags of Xa AND Xb and writes no register (R185). -/
  | tst (proc : Proc) (sat : Bool) (ra : Fin 16) (b : AluSrc)
  /-- MIN writes the signed minimum of its operands (R185). -/
  | min (proc : Proc) (sat : Bool) (rd : Fin 16) (ra : Fin 16) (b : AluSrc)
  /-- MAX writes the signed maximum of its operands (R185). -/
  | max (proc : Proc) (sat : Bool) (rd : Fin 16) (ra : Fin 16) (b : AluSrc)
  /-- ABS writes the absolute value of Xa (R185). -/
  | abs (proc : Proc) (sat : Bool) (rd : Fin 16) (ra : Fin 16)
  /-- NEG writes 0 − Xa (R185). -/
  | neg (proc : Proc) (sat : Bool) (rd : Fin 16) (ra : Fin 16)
  /-- PCNT writes the number of ones in Xa (R185). -/
  | pcnt (proc : Proc) (sat : Bool) (rd : Fin 16) (ra : Fin 16)
  /-- LZC writes the number of leading zeros of Xa (R185). -/
  | lzc (proc : Proc) (sat : Bool) (rd : Fin 16) (ra : Fin 16)
  /-- SHL shifts Xa left, setting V on signed overflow (R186). -/
  | shl (proc : Proc) (sat : Bool) (rd : Fin 16) (ra : Fin 16) (k : ShiftAmt)
  /-- SHR shifts Xa right logically (R186). -/
  | shr (proc : Proc) (sat : Bool) (rd : Fin 16) (ra : Fin 16) (k : ShiftAmt)
  /-- SAR shifts Xa right arithmetically (R186). -/
  | sar (proc : Proc) (sat : Bool) (rd : Fin 16) (ra : Fin 16) (k : ShiftAmt)
  /-- ROL rotates Xa left by k mod 40 (R186). -/
  | rol (proc : Proc) (sat : Bool) (rd : Fin 16) (ra : Fin 16) (k : ShiftAmt)
  /-- MV copies Xa to Xd (R187). -/
  | mv (proc : Proc) (rd : Fin 16) (ra : Fin 16)
  /-- MVI loads a short or 40-bit immediate into Xd (R187). -/
  | mvi (proc : Proc) (rd : Fin 16) (v : MoveImm)
  /-- MVFR reads any register of the bank in force into Xd (R187). -/
  | mvfr (proc : Proc) (rd : Fin 16) (code : Fin 64)
  /-- MVTR writes Xa to any register of the bank in force, with width conversion (R187). -/
  | mvtr (proc : Proc) (code : Fin 64) (ra : Fin 16)
  /-- MVTI writes a 40-bit immediate to any register (R187). -/
  | mvti (proc : Proc) (code : Fin 64) (imm : Word)
  /-- LD loads 1, 2 or 4 scratchpad words into X registers, with post-modify (R188). -/
  | ld (proc : Proc) (width : Fin 4) (xt : Fin 16) (pn : Fin 8) (am : AddrMode)
  /-- ST stores 1, 2 or 4 X registers to the scratchpad, with post-modify (R188). -/
  | st (proc : Proc) (width : Fin 4) (xt : Fin 16) (pn : Fin 8) (am : AddrMode)
  /-- BCC branches on a condition of the flags, with two delay slots (R189). -/
  | bcc (proc : Proc) (cond : Fin 16) (target : BitVec 15)
  /-- CALL writes the link and branches to TARGET (R190). -/
  | call (proc : Proc) (rd : Fin 16) (target : BitVec 15)
  /-- JR branches to the address in Xa (R190). -/
  | jr (proc : Proc) (ra : Fin 16)
  /-- CALLR writes the link and branches to the address in Xa (R190). -/
  | callr (proc : Proc) (rd : Fin 16) (ra : Fin 16)
  /-- RTI restores SR from ISR and returns to IRA, or faults in the shadow bank (R162). -/
  | rti (proc : Proc)
  /-- RTF returns from a FAST handler to FRA after the switch back to the main bank (R162). -/
  | rtf (proc : Proc)
  /-- BDEC decrements Xn and branches while the result is not zero (R191). -/
  | bdec (proc : Proc) (rn : Fin 16) (target : BitVec 15)
  /-- MPY replaces An with Xa.lo × Xb.lo (R192). -/
  | mpy (proc : Proc) (sat : Bool) (n : Fin 4) (ra : Fin 16) (rb : Fin 16)
  /-- MAC adds Xa.lo × Xb.lo to An, with overflow under R155 (R192). -/
  | mac (proc : Proc) (sat : Bool) (n : Fin 4) (ra : Fin 16) (rb : Fin 16)
  /-- MSU subtracts Xa.lo × Xb.lo from An (R192). -/
  | msu (proc : Proc) (sat : Bool) (n : Fin 4) (ra : Fin 16) (rb : Fin 16)
  /-- MACR accumulates as MAC does and rounds at CR.RPOS (R157). -/
  | macr (proc : Proc) (sat : Bool) (n : Fin 4) (ra : Fin 16) (rb : Fin 16)
  /-- CMUL replaces an accumulator pair with a complex product (R154). -/
  | cmul (proc : Proc) (sat : Bool) (pair : Fin 2) (ra : Fin 16) (rb : Fin 16)
  /-- CMAC adds a complex product to an accumulator pair (R154). -/
  | cmac (proc : Proc) (sat : Bool) (pair : Fin 2) (ra : Fin 16) (rb : Fin 16)
  /-- CMULJ replaces the pair with Xa × conj(Xb) (R154). -/
  | cmulj (proc : Proc) (sat : Bool) (pair : Fin 2) (ra : Fin 16) (rb : Fin 16)
  /-- CMACJ adds Xa × conj(Xb) to the pair (R154). -/
  | cmacj (proc : Proc) (sat : Bool) (pair : Fin 2) (ra : Fin 16) (rb : Fin 16)
  /-- DMPY replaces the pair with dual products that share Xc (R154). -/
  | dmpy (proc : Proc) (sat : Bool) (pair : Fin 2) (ra : Fin 16) (rb : Fin 16) (rc : Fin 16)
  /-- DMAC adds dual products that share Xc to the pair (R154). -/
  | dmac (proc : Proc) (sat : Bool) (pair : Fin 2) (ra : Fin 16) (rb : Fin 16) (rc : Fin 16)
  /-- MUL40 forms the exact signed 80-bit product in an accumulator pair (R154). -/
  | mul40 (proc : Proc) (sat : Bool) (pair : Fin 2) (ra : Fin 16) (rb : Fin 16)
  /-- MUL40U forms the exact unsigned 80-bit product in an accumulator pair (R154). -/
  | mul40u (proc : Proc) (sat : Bool) (pair : Fin 2) (ra : Fin 16) (rb : Fin 16)
  /-- EXT extracts An shifted right by k, rounded convergently, into Xd (R156). -/
  | ext (proc : Proc) (sat : Bool) (rd : Fin 16) (n : Fin 4) (k : Fin 64)
  /-- ACLR clears An (R192). -/
  | aclr (proc : Proc) (n : Fin 4)
  /-- AADD adds Xa, sign-extended, to An (R192). -/
  | aadd (proc : Proc) (sat : Bool) (n : Fin 4) (ra : Fin 16)
  /-- ASUB subtracts Xa, sign-extended, from An (R192). -/
  | asub (proc : Proc) (sat : Bool) (n : Fin 4) (ra : Fin 16)
  /-- AADDA adds Am to An (R192). -/
  | aadda (proc : Proc) (sat : Bool) (n : Fin 4) (m : Fin 4)
  /-- ASL shifts An left by k (R192). -/
  | asl (proc : Proc) (sat : Bool) (n : Fin 4) (k : Fin 64)
  /-- ASR shifts An right arithmetically by k (R192). -/
  | asr (proc : Proc) (n : Fin 4) (k : Fin 64)
  /-- ANEG negates An (R192). -/
  | aneg (proc : Proc) (sat : Bool) (n : Fin 4)
  /-- MFS reads a register slot of the processor's own block into Xd (R193). -/
  | mfs (proc : Proc) (rd : Fin 16) (slot : Fin 64)
  /-- MTS writes Xa to a register slot of the processor's own block (R193). -/
  | mts (proc : Proc) (slot : Fin 64) (ra : Fin 16)
  /-- HURDLE completes at once when BP is set, and otherwise waits for the next release point (R164). -/
  | hurdle (proc : Proc) (rd : Fin 16)
  /-- HURDLE.N clears BP and waits for the next release point (R164). -/
  | hurdleN (proc : Proc) (rd : Fin 16)
  /-- WAITI waits until an enabled interrupt request is pending (R166). -/
  | waiti (proc : Proc)
  /-- A waiting WAITI completes once an enabled request becomes pending (R166). -/
  | waitiComplete (proc : Proc)
  /-- WAITC starts a wait of Xn engine cycles (R166). -/
  | waitc (proc : Proc) (ra : Fin 16)
  /-- A WAITC wait ends when its cycle count expires (R166). -/
  | waitcExpiry (proc : Proc)
  /-- DMAGO starts a DMA channel at the descriptor in Xa, or is refused on a busy channel (R193). -/
  | dmago (proc : Proc) (ra : Fin 16) (ch : Fin 4)
  /-- NLD reads a word over the network and stalls until the response returns (R173). -/
  | nld (proc : Proc) (rd : Fin 16) (a : NetAddr)
  /-- NST posts a network write, stalling when 32 are outstanding (R173). -/
  | nst (proc : Proc) (rb : Fin 16) (a : NetAddr)
  /-- NFENCE waits until every earlier NST has been acknowledged (R173). -/
  | nfence (proc : Proc)
  /-- ECTL applies RUN, HALT, STEP or an engine reset to an engine of the supervisor's region (R173). -/
  | ectl (proc : Proc) (ra : Fin 16) (cmd : Fin 4)
  /-- An engine NOP issues in one cycle and changes nothing (R180). -/
  | engineNop (proc : Proc)
  /-- An instruction with a reserved or disallowed encoding raises RSV_INSN without effect (R181). -/
  | reservedInstruction (proc : Proc) (first : Word) (second : Word)
  /-- An accepted normal interrupt saves IRA and ISR, clears IE and issues the handler in the main bank (R160). -/
  | normalInterrupt (proc : Proc)
  /-- An accepted FAST interrupt saves FRA, switches to the shadow bank and issues the handler (R161). -/
  | fastInterrupt (proc : Proc)
  /-- A write to SE_DOORBELL or SUP_DOORBELL stores the value and raises the DOORBELL source (R158). -/
  | doorbell (proc : Proc) (value : Word)
  /-- A write of SE_DMA_DESC with GO starts a descriptor chain, or is refused on a busy channel (R169). -/
  | dmaGo (proc : Proc) (channel : Fin 4) (addr : BitVec 17)
  /-- ABORT stops issue, waits for the outstanding responses and writes back ABORTED (R171). -/
  | dmaAbort (proc : Proc) (channel : Fin 4) (count : Nat)
  /-- A descriptor completes, writes back its status and chains, or stops the channel on an error (R171). -/
  | dmaDescriptorComplete (proc : Proc) (channel : Fin 4) (stamps : List Nat)
  /-- A write of instruction memory is accepted only while the engine is HALTED or in FAULT, and parity is generated (R146). -/
  | seImemWrite (proc : Proc) (addr : Nat) (value : Word)
  /-- SE_DBG_DATA reaches the selected register only while the engine is HALTED or in FAULT (R178). -/
  | seDbgDataAccess (proc : Proc) (write : Bool) (value : Word)
  /-- Any write to SUP_WDOG_KICK restarts the watchdog count (R174). -/
  | wdogKick (region : Region)
  /-- At half of TIMEOUT the watchdog raises its interrupt source (R174). -/
  | wdogWarning (region : Region)
  /-- At TIMEOUT the watchdog issues WDOG and applies a warm or region reset (R174). -/
  | wdog (region : Region)
  /-- Complete trace lines move from the staging areas to the trace buffer or the memory ring (R202). -/
  | traceLineDeliver (region : Region)
  /-- A cycle counter that saturates without an anchor emits a SYNC with reason LONG (R198). -/
  | syncLong (proc : Proc)
  /-- A write of SINK starts the trace sink and resets its pointers, or is refused (R205). -/
  | sinkStart (region : Region) (value : Word)
  /-- A write of SINK = 0b00 begins to stop the sink: the unit flushes the lines and delivers them (R205). -/
  | sinkStop (region : Region)
  /-- The sink stops once every staged line has been delivered, and BUSY clears (R205). -/
  | sinkStopped (region : Region)
  /-- Clearing a source's EN bit emits STOP with reason DISABLED and closes its line (R207). -/
  | trcSrcWrite (region : Region) (value : Word)
  /-- A write of EN = 1 starts a cold acquisition, or is refused with CFG_ERR for a bad rate or mode (R210). -/
  | laneEnable (lane : Lane) (value : Word)
  /-- A write of EN = 0 turns the lane off and disarms the heat channels that use it (R272). -/
  | laneDisable (lane : Lane)
  /-- A write that changes TX_SRC cuts the PCS unit in progress and starts the new source at the next UI (R215). -/
  | txSrcWrite (lane : Lane) (src : BitVec 2)
  /-- A change of LOOP selects the loopback and restarts CDR acquisition (R242). -/
  | loopWrite (lane : Lane) (loop : BitVec 2)
  /-- A write of the transmit FFE is refused when C0 ≤ 0 or the sum of the coefficients exceeds 64 (R214). -/
  | lnTxFfeWrite (lane : Lane) (value : Word)
  /-- CLR_CNT zeroes the checker, FEC and PCS counters at once (R236). -/
  | clrCnt (lane : Lane)
  /-- A write of LN_SLIP moves the RAW40 word boundary one bit later (R223). -/
  | slip (lane : Lane)
  /-- A write of GO starts a sequence of N injection events (R238). -/
  | injectGo (lane : Lane) (value : Word)
  /-- STOP ends an injection sequence at once (R238). -/
  | injectStop (lane : Lane)
  /-- An injection event applies its kind on the next UI or unit, every PERIOD units (R237). -/
  | injectionEvent (lane : Lane)
  /-- START clears every histogram bin and begins accumulating (R240). -/
  | histStart (lane : Lane) (value : Word)
  /-- The histogram sets DONE once N samples have been taken (R240). -/
  | histDone (lane : Lane)
  /-- Reading LN_TS_INFO removes the oldest match timestamp and latches it (R241). -/
  | lnTsInfoRead (lane : Lane)
  /-- Reading LN_CHK_BITS_LO latches LN_CHK_BITS_HI and LN_CHK_ERR (R236). -/
  | lnChkBitsLoRead (lane : Lane)
  /-- A decoded word passes under GATE to the RX queues and the WORD tap (R222). -/
  | decodedWord (lane : Lane) (adc : List (BitVec 8)) (levels : List (Fin 4)) (behind : Bool) (time : Nat)
  /-- A decoded codeword updates the FEC counters and histogram (R230). -/
  | fecCodeword (lane : Lane)
  /-- In QUEUE mode the lane takes the words of one PCS unit, or sends the fill unit and counts UNDER (R216). -/
  | laneTxUnit (lane : Lane)
  /-- A peak ADC code below LOS_THR for 1 µs declares loss of signal (R218). -/
  | lossOfSignal (lane : Lane)
  /-- The CDR loses lock and the loss is reported (R218). -/
  | lnCdrLoss (lane : Lane)
  /-- A transmit PLL that loses lock idles the transmitter and restarts the acquisition (R245). -/
  | lnPllLoss (lane : Lane)
  /-- The PCS or FEC decoder locks its alignment and ALIGN sets (R224). -/
  | pcsAlignLock (lane : Lane)
  /-- The decoder loses alignment, returns to hunting and counts LOSSES (R224). -/
  | lnAlignLoss (lane : Lane)
  /-- The pattern checker locks and starts counting bits and errors (R236). -/
  | checkerLock (lane : Lane)
  /-- 128 errors in a window of 1,024 bits drop the checker's lock (R236). -/
  | lnChkLoss (lane : Lane)
  /-- An acquisition phase ends once its condition holds, and the next phase begins (R244). -/
  | acquisitionPhaseDone (lane : Lane) (agc : BitVec 8) (freq : BitVec 16) (mse : BitVec 16)
  /-- A return to ON not complete within 2 ms sets RELOCK_LATE (R244). -/
  | lnRelockLate (lane : Lane)
  /-- A lane detector fires on a LEVEL crossing, a WORD match or a STATUS condition (R257). -/
  | laneDetectorEvent (lane : Lane)
  /-- ARM begins a new SNAP record and clears the record state (R253). -/
  | windowArm (lane : Lane)
  /-- A FORCE write acts as a window trigger at the element being written (R253). -/
  | windowForce (lane : Lane)
  /-- A TAP change takes effect at the next line boundary and restarts the element counter (R248). -/
  | tapChange (lane : Lane)
  /-- Once PRE elements are filled, the SNAP window becomes ARMED (R253). -/
  | prefillDone (lane : Lane)
  /-- The SNAP window stops after the record ends, clipping it if needed, and becomes DONE (R252). -/
  | snapDone (lane : Lane)
  /-- The combiner processes a held event in stamp order and delivers it to every consumer (R260). -/
  | eventProcess (region : Region)
  /-- A stage that is not completed by its deadline returns the sequencer to stage 0 (R261). -/
  | stageTimeout (region : Region)
  /-- A write of EN = 1 starts the sequencer in stage 0, or is refused (R262). -/
  | sequencerEnable (region : Region) (value : Word)
  /-- A write of TRG_SW raises event 48 + INDEX (R265). -/
  | softwareEvent (region : Region) (index : Fin 4) (dt : Nat)
  /-- A selected TRIG_IN edge reaches every combiner with one stamp (R256). -/
  | trigInEdge (pin : Fin 4) (rising : Bool) (dt : Nat)
  /-- An event that a region puts on its trigger bus line arrives at every region as event 52 + r (R263). -/
  | busEvent (region : Region)
  /-- TRIG_OUT changes at the stamp plus DELAY in PULSE or TOGGLE mode (R264). -/
  | trigOutEdge (region : Region)
  /-- A TRIG_OUT pulse ends after WIDTH nanoseconds (R264). -/
  | trigOutPulseEnd (region : Region)
  /-- Capture ends at element e + POST, and the channel begins writing the heat's close (R275). -/
  | captureEnd (region : Region) (channel : Fin 16)
  /-- Once header block 0 is acknowledged, the heat is CLOSED and HEAT_DONE increments (R275). -/
  | heatClosed (region : Region) (channel : Fin 16)
  /-- Once its re-arm conditions are met, the channel takes a slot, writes an OPEN header and becomes ready (R276). -/
  | channelReady (region : Region) (channel : Fin 16)
  /-- A copy overtaken by the window writer jumps ahead and records a gap (R282). -/
  | windowOverrun (region : Region) (channel : Fin 16)
  /-- A partial read request is served at its node and answered with RDATA (R297). -/
  | rd (src : BitVec 8) (tag : BitVec 16) (addr : Word) (wen : BitVec 12)
  /-- A read of 1 to 10 whole lines is served at its node (R297). -/
  | rdl (src : BitVec 8) (tag : BitVec 16) (addr : Word) (lines : Fin 16)
  /-- A partial write request is served at its node and answered with WACK (R297). -/
  | wr (src : BitVec 8) (tag : BitVec 16) (addr : Word) (wen : BitVec 12) (stride : Nat) (words : List Word)
  /-- A write of 1 to 10 whole lines is served at its node (R297). -/
  | wrl (src : BitVec 8) (tag : BitVec 16) (addr : Word) (lines : Fin 16) (stride : Nat) (words : List Word) (checks : List (BitVec 8))
  /-- A read response delivers its words and status to the requester, matched by TAG (R297). -/
  | rdata (dst : BitVec 8) (tag : BitVec 16)
  /-- A write acknowledgement delivers its status to the requester (R297). -/
  | wack (dst : BitVec 8) (tag : BitVec 16)
  /-- A LEASE asks a node for request-queue entries, which it grants or queues (R302). -/
  | lease (port : Fin 128) (node : Fin 128) (entries : Fin 8)
  /-- A GRANT gives leased entries, and held requests are injected against them (R302). -/
  | grant (node : Fin 128)
  /-- A RECALL makes the port return its unused entries at once (R302). -/
  | recall (port : Fin 128) (node : Fin 128)
  /-- A RETURN gives unused entries back to the node (R302). -/
  | returnOp (port : Fin 128) (node : Fin 128) (entries : Fin 8)
  /-- Entries unused for LEASE_IDLE are returned (R302). -/
  | leaseIdle (port : Fin 128) (node : Fin 128)
  /-- A LAUNCH packet delivers a fired gun action to its unit (R297). -/
  | launch (region : Region) (cls : BitVec 4) (index : BitVec 6) (action : BitVec 6) (arg : Word) (stamp : Nat)
  /-- A PWR packet carries a power handshake (R297). -/
  | pwr (port : Fin 128) (dest : Fin 128)
  /-- A packet with a reserved encoding is discarded, and a REQ is answered with BAD_DESC (R297). -/
  | nocFormat (router : Tile) (reply : Option (Bool × BitVec 8 × BitVec 16))
  /-- A flit with a bad CRC is replayed from the sender's replay buffer (R304). -/
  | nocCrc (router : Tile) (output : Fin 4) (fails : Fin 16)
  /-- A port that received less than its reservation in a 1 µs window counts a shortfall (R305). -/
  | nocBwShort (router : Tile) (service : Bool)
  /-- SWAP starts a checked, device-wide exchange of the routing tables (R301). -/
  | swap (immediate : Bool) (timeout : BitVec 10)
  /-- CANCEL ends a waiting swap request (R301). -/
  | swapCancel
  /-- The table check completes, and the swap either proceeds or ends with TABLE_BAD (R301). -/
  | tableCheckDone
  /-- A QUIESCE swap that does not empty the buffers in time ends with TIMEOUT (R301). -/
  | nocSwapTimeout
  /-- A closing node enters OFFLINE once every granted entry has been consumed or returned (R307). -/
  | nodeOffline (router : Tile) (service : Bool)
  /-- A write of EN starts the probe collector, or is refused (R309). -/
  | probeCollectorStart (region : Region)
  /-- A probe record of a matching head flit is staged and written to the ring, or dropped (R309). -/
  | probeRecord (region : Region)
  /-- A port reads every block once per period in class M and corrects it (R321). -/
  | memoryScrub (region : Region)
  /-- GO starts writing zeros into a range of blocks, or is refused (R320). -/
  | memInit (region : Region)
  /-- The memory initialisation completes (R320). -/
  | memInitDone (region : Region)
  /-- A write of VALID copies a row to a spare and redirects it, or is refused as a duplicate (R322). -/
  | memoryRepair (region : Region) (index : Fin 32) (value : Word)
  /-- The repair redirection takes force and DONE sets (R322). -/
  | memoryRepairDone (region : Region) (index : Fin 32)
  /-- A port counts a shortfall of a channel's reservation in a 1 µs window (R319). -/
  | memBwShort (region : Region) (channel : Fin 8)
  /-- An archive WRITE creates an object from blocks of main memory (R332). -/
  | write (region : Region) (index : Fin 16) (media : Media)
  /-- An archive READ copies blocks of an object to main memory (R332). -/
  | read (region : Region) (index : Fin 16) (media : Media)
  /-- An archive DELETE removes an object (R332). -/
  | delete (region : Region) (index : Fin 16)
  /-- An archive STAT writes an object's record to main memory (R332). -/
  | stat (region : Region) (index : Fin 16)
  /-- An archive FORMAT erases every object and restarts numbering, when permitted (R332). -/
  | format (region : Region) (index : Fin 16)
  /-- A finished archive command writes its completion record to the ring (R333). -/
  | archiveCommandComplete (region : Region) (index : Fin 16)
  /-- A write of ARC_BIND with VALID binds a heat channel and sets NEXT (R335). -/
  | arcBind (region : Region) (index : Fin 16) (value : Word)
  /-- While NEXT < HEAT_DONE, the engine archives the heat and advances NEXT and HEAT_RP (R335). -/
  | heatArchive (region : Region) (index : Fin 16) (media : Media)
  /-- A bound heat whose copy met DOMAIN_OFFLINE is tried again every 100 µs (R334). -/
  | offlineRetry (region : Region) (index : Fin 16) (media : Media)
  /-- The engine patrols programmed pages and relocates weak page groups (R328). -/
  | patrol (region : Region) (media : Media)
  /-- The cleaner and wear levelling move live data out of erase blocks (R330). -/
  | cleaner (region : Region) (media : Media)
  /-- The engine finishes rebuilding the directory after P and sets READY (R326). -/
  | archiveReady (region : Region) (cut : Bool) (media : Media)
  /-- LOAD starts a full load from main memory (R365). -/
  | load
  /-- LOAD_PARTIAL starts a partial load of an isolated zone from main memory (R381). -/
  | loadPartial
  /-- LOAD_SLOT starts a full load from a slot of the configuration store (R365). -/
  | loadSlot (slot : Fin 2)
  /-- STORE copies a stream from memory into a slot (R367). -/
  | store (slot : Fin 2)
  /-- The store copy completes and VALID sets when the header CRC matches (R367). -/
  | storeDone (programmed : Bool)
  /-- ERASE clears a slot (R365). -/
  | erase (slot : Fin 2)
  /-- ABORT ends the running load with CAUSE ABORTED (R365). -/
  | abort
  /-- Load step 3 finishes clearing every row, and the hunt for the sync word begins (R368). -/
  | clearDone
  /-- The sync word and the header are received and checked in order (R342). -/
  | header (skip : Option Nat) (words : List Word)
  /-- A NOOP stream command does nothing (R346). -/
  | noop (word : Word)
  /-- A FRAME command is checked and written whole, or ends the load (R348). -/
  | frame (words : List Word)
  /-- COPY writes the payload of the last FRAME to a new address (R349). -/
  | copy (word : Word)
  /-- WREG stores a value for a stream register, applied at END (R350). -/
  | wreg (word : Word) (value : Word)
  /-- ZDOM stages a domain value of the zone for its START (R351). -/
  | zdom (word : Word) (value : Word)
  /-- FORWARD passes N words to the relay link (R351). -/
  | forward (words : List Word)
  /-- END checks the length, the tag and the signature, and ends the stream with a result (R352). -/
  | endOp (word : Word) (tagOk : Bool) (sigOk : Bool)
  /-- Load step 7 applies the values, after which supervisors start and CFG_DONE is released (R368). -/
  | applyDone
  /-- The background copy of the base rows completes (R371). -/
  | retDone
  /-- No stream byte for TIMEOUT ms ends the load with CAUSE TIMEOUT (R370). -/
  | loadTimeout
  /-- CFG_DONE read high for 200 ns is taken as high (R376). -/
  | cfgDoneHigh
  /-- The start command falls at CFG_DONE high (EDGE) or at CFG_START (TIMED) (R377). -/
  | synchronousStart
  /-- PROG_N low for 1 µs starts a full load (R364). -/
  | progN
  /-- The rising edge of PROG_N continues the load according to BOOT_SRC, or aborts it (R364). -/
  | progNRise
  /-- A relay START opens a stream and starts or continues a full load (R375). -/
  | relayStart
  /-- A relay END block closes the stream and checks its count and CRC (R372). -/
  | relayEnd (agrees : Bool)
  /-- A loss of relay lock, alignment or buffer room ends the load with LINK_LOST (R372). -/
  | linkLost
  /-- Under RELAY_FLASH, no stream within 2 s starts a load from slot 0 (R362). -/
  | relayWaitTimeout
  /-- RESTORE rewrites an isolated zone's data memories from the initial values (R379). -/
  | restore (region : Region) (zone : Fin 16)
  /-- RELOAD rewrites every row of an isolated zone from the base rows (R379). -/
  | reload (region : Region) (zone : Fin 16)
  /-- A restore or reload completes and PRIMED sets (R379). -/
  | restoreDone (region : Region) (zone : Fin 16)
  /-- GO programs a fuse item, or is refused (R383). -/
  | fuseProgram (target : BitVec 5)
  /-- Fuse programming completes with its result (R383). -/
  | fuseProgramDone (ok : Bool)
  /-- A RUN request wakes a region or cancels its entry (R392). -/
  | runRequest (region : Option (Fin 4))
  /-- A request for IDLE begins the entry steps, or is refused (R392). -/
  | idleRequest (region : Option (Fin 4))
  /-- A request for DOZE begins the entry steps, or is refused (R392). -/
  | dozeRequest (region : Option (Fin 4))
  /-- A request for SLEEP begins the entry steps, or is refused (R392). -/
  | sleepRequest (region : Option (Fin 4))
  /-- An entry step ends once its condition holds, and the next step runs (R393). -/
  | entryStep (region : Region)
  /-- An entry not complete within ENTRY_TIMEOUT unwinds its steps (R394). -/
  | pwrEntryTimeout (region : Region)
  /-- A regulator poll settles a voltage request, or reports a fault (R395). -/
  | regulatorPoll (rail : Fin 64) (good : Bool) (fault : Bool) (status : BitVec 16)
  /-- A voltage request not settled in 2 ms times out (R395). -/
  | pwrRegTimeout (rail : Fin 64) (command : BitVec 8) (res : Fin 4) (status : BitVec 16)
  /-- An enabled wake source wakes a region in a low-power state (R396). -/
  | wakeEvent (region : Region) (source : Fin 8)
  /-- An exit step completes, and after X5 the region reports RUN (R397). -/
  | exitStep (region : Region)
  /-- VIN rising or failing, or a rail fault, starts the P reset sequence (R400). -/
  | powerOnReset (supply : Bool)
  /-- The P sequence completes and the device acts on BOOT_SRC (R400). -/
  | pDone (boot : BitVec 3) (pull : BitVec 2) (untrained : List (Fin 4 × Fin 8))
  /-- RESET_N low holds every unit in reset (R400). -/
  | coldReset
  /-- The rising edge of RESET_N samples the straps and restarts the device (R400). -/
  | coldResetRelease (boot : BitVec 3) (pull : BitVec 2) (untrained : List (Fin 4 × Fin 8))
  /-- A W reset freezes the device and restores it from the retained configuration (R400). -/
  | warmReset (source : Fin 16)
  /-- A W reset ends in FROZEN, or in BLANK when no configuration is kept (R22). -/
  | warmResetEnd
  /-- A G reset freezes the device and resets one region's units (R400). -/
  | regionReset (region : Region) (source : Fin 16)
  /-- A G reset completes and records REGION_RESET (R400). -/
  | regionResetEnd (region : Region)
  /-- A Z reset isolates a zone and restores its tiles (R400). -/
  | zoneReset (region : Region) (zone : Fin 16)
  /-- The restore of the zone's last tile completes, and PRIMED sets (R400). -/
  | zoneResetEnd (region : Region) (zone : Fin 16)
  /-- Every 1 ms the module judges its temperature thresholds and drives THERM_N and ALERT_N (R458). -/
  | temperatureCheck (caseT : BitVec 12) (die : BitVec 12) (osc : BitVec 12) (vin : BitVec 16) (iin : BitVec 16) (ov : Bool) (uv : Bool)
  /-- The hottest die at 125 °C for 100 µs turns the core rails off (R458). -/
  | thermalTrip
  /-- An error record is judged against the policy table, stored and forwarded (R407). -/
  | record
  /-- FREEZE_N low for 20 ns requests a freeze under PIN_MODE (R413). -/
  | freezeN (low : Bool)
  /-- FREEZE_END raises FRZ_END for a freeze at stride end (R415). -/
  | freezeEnd
  /-- FREEZE_NOW raises FRZ_NOW for a freeze at once (R416). -/
  | freezeNow
  /-- FREEZE_AT arms a freeze after the stride in progress at a given time (R417). -/
  | freezeAt
  /-- At its time, FREEZE_AT raises FRZ_END (R417). -/
  | freezeAtTime
  /-- Every region stops at the freeze point and the device enters FROZEN (R415). -/
  | freezeStop
  /-- A FREEZE packet makes a region's supervisor halt the processors named in HALT (R418). -/
  | freeze (region : Region)
  /-- RESUME issues the start command at once, or is refused (R421). -/
  | resume
  /-- RESUME_AT arms a start command for a given time (R421). -/
  | resumeAt
  /-- At its time, RESUME_AT issues the start command (R421). -/
  | resumeAtTime
  /-- CANCEL_AT removes any waiting FREEZE_AT and RESUME_AT (R422). -/
  | cancelAt
  /-- Reading ERR_REG_REC0 removes the oldest record and latches its other words (R426). -/
  | errRegRec0Read (region : Region)
  /-- Kind 0x01 inverts bits of a cell data-memory entry (R411). -/
  | injectDataBit
  /-- Kind 0x02 inverts the parity bit of a cell instruction row (R411). -/
  | injectInstructionParity
  /-- Kind 0x03 ORs an extra source into a box select in a given step (R411). -/
  | injectSelMulti
  /-- Kind 0x04 makes a box output drive its line in a given step (R411). -/
  | injectLineMulti
  /-- Kind 0x05 inverts the parity of a schedule-entry part (R411). -/
  | injectSpar
  /-- Kind 0x06 inverts bits of a queue-memory word (R411). -/
  | injectQueueBit
  /-- Kind 0x07 inverts bits of a scratchpad word (R411). -/
  | injectScratchpadBit
  /-- Kind 0x08 makes the next march miscompare a given row (R411). -/
  | injectMarchFail
  /-- Kind 0x09 inverts the parity bit of a processor instruction word (R411). -/
  | injectEngineParity
  /-- Kind 0x0A makes a DMA channel's next descriptor write back an error status (R411). -/
  | injectDmaErr
  /-- Kind 0x0B makes a lane's transmit PLL lose lock once (R411). -/
  | injectPllLoss
  /-- Kind 0x0C makes a lane's CDR lose lock once (R411). -/
  | injectCdrLoss
  /-- Kind 0x0D sends bad CRCs on a router output (R411). -/
  | injectLinkCrc
  /-- Kind 0x0E sends one REQ with a reserved OP to the tile's router (R411). -/
  | injectNocFormat
  /-- Kind 0x0F makes a heat channel's next data-block write fail (R411). -/
  | injectHeatWriteErr
  /-- Kind 0x10 makes the next flash sector read fail its ladder (R411). -/
  | injectArcUncorr
  /-- Kind 0x11 makes the next page-group program report failure (R411). -/
  | injectArcProgFail
  /-- Kind 0x12 makes the next voltage request to a rail never settle (R411). -/
  | injectRegTimeout
  /-- Kind 0x13 ignores TL_IN frames for 10 µs (R411). -/
  | injectTlLost
  /-- Kind 0x14 takes REF_IN as absent for 20 µs (R411). -/
  | injectRefLost
  /-- EXTEST drives the boundary-scan cells and enters TEST (R425). -/
  | extest (lands : Nat) (next : Nat)
  /-- IDCODE selects the 32-bit identification register (R423). -/
  | idcode
  /-- SAMPLE/PRELOAD captures and preloads the boundary-scan register (R423). -/
  | samplePreload (lands : Nat) (next : Nat)
  /-- HIGHZ floats the outputs and enters TEST (R425). -/
  | highz
  /-- CLAMP holds the outputs from the boundary-scan register and enters TEST (R425). -/
  | clamp
  /-- EXTEST_PULSE performs an IEEE 1149.6 test and enters TEST (R425). -/
  | extestPulse (lands : Nat) (next : Nat)
  /-- EXTEST_TRAIN performs an IEEE 1149.6 test and enters TEST (R425). -/
  | extestTrain (lands : Nat) (next : Nat)
  /-- MEMACC issues a read or write of the device address space at Update-DR (R424). -/
  | memacc (op : BitVec 2) (addr : Word) (data : Word)
  /-- BYPASS selects the 1-bit bypass register (R423). -/
  | bypass
  /-- A BAR0 read returns register slots and completes with zero data on an error (R428). -/
  | bar0Read (offset : BitVec 28) (len : Nat) (late : Bool)
  /-- A BAR0 write goes out as one WR per 64-byte range, skipping partial slots (R428). -/
  | bar0Write (offset : BitVec 28) (data : List (Option (BitVec 8)))
  /-- A BAR2 read reads main memory through the movable window (R431). -/
  | bar2Read (offset : BitVec 36) (len : Nat) (late : Bool)
  /-- A BAR2 write writes main memory, merging partial words (R431). -/
  | bar2Write (offset : BitVec 36) (data : List (Option (BitVec 8)))
  /-- A write of GIB moves the BAR2 window for later requests (R431). -/
  | bar2BaseWrite (gib : BitVec 7)
  /-- A host read with no response after RD_LIMIT completes with zero data (R429). -/
  | rdTimeout (tag : BitVec 16)
  /-- A write of HST_DMA_DB adds descriptors to a channel, or is ignored with DB_ERR (R434). -/
  | dmaDoorbell (channel : Fin 8) (pi : BitVec 16)
  /-- A write of EN starts a host DMA channel with first-pass indices (R434). -/
  | hostDmaEnable (channel : Fin 8) (en : Bool)
  /-- RESTART clears STOPPED and resumes at CI (R435). -/
  | hostDmaRestart (channel : Fin 8)
  /-- ABORT stops a channel and writes ABORTED for incomplete descriptors (R435). -/
  | hostDmaAbort (channel : Fin 8) (count : Nat) (bytes : List (BitVec 8))
  /-- A host descriptor completes, writes its completion record and advances CI (R435). -/
  | hostDmaComplete (channel : Fin 8) (bytes : List (BitVec 8)) (stamps : List Nat) (failAt : Option Nat)
  /-- A write of HST_IRQ_ACK re-signals a level vector whose condition still holds (R436). -/
  | irqAck (vector : BitVec 8)
  /-- A write of HST_HDBn stores the value and signals vector 64 + n (R437). -/
  | hostDoorbell (index : Fin 64) (value : Word)
  /-- Unmasking a vector sends its pending message (R436). -/
  | msixUnmask (vector : Option (Fin 256))
  /-- PERST_N low holds the host interface in reset (R438). -/
  | perstN
  /-- PERST_N rising trains the link and resets the host interface's registers (R438). -/
  | perstNRise
  /-- A write of EN turns a management port on, or is refused (R439). -/
  | mgtEnable (port : Fin 2) (value : Word)
  /-- An accepted frame is written to the receive ring and notified (R440). -/
  | mgtFrameReceive (port : Fin 2) (frame : List (BitVec 8)) (badFcs : Bool) (stamp : Nat)
  /-- A write of TX_WP makes transmit entries ready, or is ignored (R440). -/
  | mgtTxWpWrite (port : Fin 2) (value : Word)
  /-- The port sends the next ready transmit entry and advances TX_RP (R440). -/
  | mgtFrameTransmit (port : Fin 2) (stamp : Nat)
  /-- CLEAR_FAULTS clears the latched status bits and releases ALERT_N (R441). -/
  | clearFaults
  /-- CAPABILITY returns 0xB0 (R441). -/
  | capability
  /-- STATUS_WORD returns the summary status bits (R441). -/
  | statusWord
  /-- STATUS_INPUT returns the VIN fault bits (R441). -/
  | statusInput
  /-- STATUS_TEMPERATURE returns the temperature fault bits (R441). -/
  | statusTemperature
  /-- STATUS_CML returns the communication fault bits (R441). -/
  | statusCml
  /-- READ_VIN returns VIN in LINEAR11 (R441). -/
  | readVin
  /-- READ_IIN returns the input current (R441). -/
  | readIin
  /-- READ_TEMPERATURE_1 returns the case temperature (R441). -/
  | readTemperature1
  /-- READ_TEMPERATURE_2 returns the hottest die temperature (R441). -/
  | readTemperature2
  /-- READ_TEMPERATURE_3 returns the reference oscillator temperature (R441). -/
  | readTemperature3
  /-- READ_PIN returns the input power (R441). -/
  | readPin (milliwatts : Nat)
  /-- PMBUS_REVISION returns 0x33 (R441). -/
  | pmbusRevision
  /-- MFR_ID returns NALAUSKO (R441). -/
  | mfrId
  /-- MFR_MODEL returns the ordering code (R441). -/
  | mfrModel
  /-- MFR_REVISION returns B1 (R441). -/
  | mfrRevision
  /-- MFR_SPECIFIC_00 returns the device mode (R441). -/
  | mfrSpecific00
  /-- MFR_SPECIFIC_01 returns HST_ID (R441). -/
  | mfrSpecific01
  /-- MFR_SPECIFIC_02 returns the occupancy of the device error ring (R441). -/
  | mfrSpecific02
  /-- An unlisted command, or a write to a read-only command, is NACKed and sets CML (R441). -/
  | smbusInvalidCommand (kind : Fin 3)
  /-- Answering the alert response address releases ALERT_N (R442). -/
  | alertResponse
  /-- Every period of the 1 GHz time-base clock, device time advances by 1,024 units plus the rate adjustment, with TSEC carrying when TFRAC passes 999,999,999 (R33). -/
  | timeBaseTick
  /-- A write of PWR_LANE sets a lane's own power target, and the lane leaves ON for DOZE or SLEEP at once or begins to return toward ON (R388). -/
  | pwrLaneWrite (region : Region) (value : Word)
  /-- A management port gains or loses block lock, or sees a local fault, and LINK_UP follows (R439). -/
  | mgtLinkUp (port : Fin 2) (up : Bool)
  /-- The relay receiver locks each CFG_RX lane and deskews the lanes, or loses that lock outside a stream, and LANE_LOCK and ALIGNED follow (R372). -/
  | relayLaneLock (lock : BitVec 4) (aligned : Bool)
  /-- The host moves the function between D0 and D3hot, or the link between L0 and L2, and the device drives or releases WAKE_N and sends the pending messages (R438). -/
  | pciePowerState (d3 : Bool) (l2 : Bool)
  /-- A host test command takes the device from BLANK or FROZEN into TEST (R19). -/
  | hostTestCommand
  deriving DecidableEq, Repr

end Sys2Proof
end

