-- ==== Sys2Proof/Decode.lean ====
section
/-! DEFINITION. The command that a word of the opcode table spells. No row of the table gives bits: its commands come
from outside the part, and none of them is spelled by a word. -/

namespace Sys2Proof

/-- No row of the table gives bits (log entry 1), so no word spells a command. -/
def decodeTableWord (_nbits _w : Nat) : Option Instr := none

end Sys2Proof
end

