-- ==== Sys2Proof/Machine/RegMap.lean ====
section
/-! DEFINITION. The register map: every register of Tables 2.5 to 18.12 with its place (R31, R443) and every
field with its bits, access type (R7), reset value, reset classes (R9) and reserved encodings (R6). -/

namespace Sys2Proof.Machine

/-- The four register blocks of R443: the device block, a region's block, a tile's block and the part of a
tile's block that tiles 0 to 11 of a region have for their lane. -/
inductive Blk where
  | dev | region | tile | laneTile
  deriving DecidableEq, Repr

/-- The access types of Table 0.3. -/
inductive Acc where
  | RW | RO | WO | W1C | W1S | RC | RWL | RWQ
  deriving DecidableEq, Repr

/-- The reset classes of Table 0.4. -/
inductive RClass where
  | P | C | W | G | Z | E
  deriving DecidableEq, Repr

/-- Every register of the part, by its name. -/
inductive Reg where
  | HST_ID | HST_MODE | HST_CTRL | HST_ERR | HST_ERR_ADDR | HST_BAR2_BASE | HST_IRQ_ACK | HST_HDB
  | HST_MGT_CFG | HST_MGT_MAC_LO | HST_MGT_MAC_HI | HST_MGT_RX_BASE | HST_MGT_RX_N | HST_MGT_RX_WP | HST_MGT_RX_RP | HST_MGT_TX_BASE
  | HST_MGT_TX_N | HST_MGT_TX_WP | HST_MGT_TX_RP | HST_MGT_CNT0 | HST_MGT_CNT1 | HST_MGT_NOTIFY | TIM_NOW_FRAC | TIM_NOW_SEC
  | TIM_CTRL | TIM_STATUS | TIM_RATE | TIM_ADJ_FRAC | TIM_ADJ_SEC | TIM_EPOCH_FRAC | TIM_EPOCH_SEC | TIM_STRIDE_CFG
  | TIM_STRIDE_LO | TIM_STRIDE_HI | TIM_STRIDE_OFS | TIM_ALIGN | TIM_PPS_CFG | TIM_PPS_IN_FRAC | TIM_PPS_IN_SEC | TIM_TL_CFG
  | TIM_TL_STAT | TIM_TL_OFS | TIM_TS_INFO | TIM_TS_FRAC | TIM_TS_SEC | PWR_DEV_REQ | PWR_DEV_STAT | PWR_CTRL
  | PWR_REG_STAT | PWR_TEMP | PWR_VIN | RST_CMD | RST_STATUS | RST_CAUSE | NOC_CTRL | NOC_SWAP
  | NOC_SWAP_STAT | ERR_FRZ_CFG | ERR_FRZ_CMD | ERR_FRZ_STAT | ERR_FRZ_STRIDE | ERR_FRZ_MISSED | ERR_FRZ_TIME_FRAC | ERR_FRZ_TIME_SEC
  | ERR_RESUME_FRAC | ERR_RESUME_SEC | ERR_DEV_HEAD | ERR_DEV_TAIL | ERR_DEV_STAT | ERR_RDO_ADDR | ERR_INJ_TGT | ERR_INJ_ARG
  | ERR_INJ_CTRL | ERR_POL | ERR_DEV_LOG | SE_CTRL | SE_STATUS | SE_BOOT | SE_PC | SE_FAULT
  | SE_OVF_PC | SE_IRQ_EN | SE_IRQ_CLASS | SE_IRQ_PEND | SE_DOORBELL | SE_HURDLE | SE_STALL | SUP_WDOG
  | SUP_WDOG_KICK | SUP_NSTAT | SE_DMA_DESC | SE_DMA_STAT | SE_DBG_SEL | SE_DBG_DATA | SE_IMEM | SUP_IMEM
  | SUP_DMEM | TRC_CTRL | TRC_SRC | TRC_STATUS | TRC_WP | TRC_RP | TRC_MEM_BASE | TRC_MEM_LEN
  | TRC_DROP | TRC_STALL | TRC_BUF | RTE_CTRL | RTE_STATUS | RTE_CONT_CNT | RTE_FIRST | RTE_FIRST_STRIDE
  | RTE_DOM | FAB_PIN_CFG | FAB_PIN_IN | FAB_PIN_OUT | FAB_RCK_CFG | FAB_RCK_STAT | TIM_GUN_PORT | TIM_GUN_STAT
  | TIM_WAKE_GUARD | TIM_LOG_HEAD | TIM_LOG | TRG_SEQ_CTRL | TRG_SEQ_STAT | TRG_STATUS | TRG_TIN_CFG | TRG_TOUT_CFG
  | TRG_BUS_SEL | TRG_SW | TRG_LOG_MASK0 | TRG_LOG_MASK1 | TRG_LOG_HEAD | TRG_S_COND0 | TRG_S_COND1 | TRG_S_RST0
  | TRG_S_RST1 | TRG_S_TIMEOUT | TRG_LOG | ACQ_STATUS | ACQ_FIRST | ACQ_FIRST_STRIDE | ACQ_BUF | HEAT_CTRL
  | HEAT_SRC | HEAT_TRIG | HEAT_PRE | HEAT_POST | HEAT_BASE | HEAT_SLOT | HEAT_NSLOT | HEAT_HOLDOFF
  | HEAT_FELT | HEAT_BW | HEAT_NOTIFY | HEAT_STAT | HEAT_WP | HEAT_DONE | HEAT_RP | MEM_CTRL
  | MEM_STATUS | MEM_RES_LIMIT | MEM_RES_STAT | MEM_SCRUB | MEM_CE_CNT | MEM_FIRST | MEM_FIRST_ADDR | MEM_FIRST_STRIDE
  | MEM_INIT_BASE | MEM_INIT_LEN | MEM_INIT_CTRL | MEM_REPAIR | ARC_CTRL | ARC_STATUS | ARC_CMD_STAT | ARC_NEXT_OBJ
  | ARC_CMD_PORT | ARC_CPL_BASE | ARC_CPL_LEN | ARC_CPL_WP | ARC_CPL_RP | ARC_FREE | ARC_HEALTH | ARC_ECC
  | ARC_PATROL | ARC_BIND | CFG_STATUS | CFG_CMD | CFG_CTRL | CFG_SRC_ADDR | CFG_SRC_LEN | CFG_SRC_LIMIT
  | CFG_PROGRESS | CFG_FAIL | CFG_START_FRAC | CFG_START_SEC | CFG_DESIGN_ID | CFG_USER | CFG_SLOT | CFG_RELAY
  | CFG_ZCMD | CFG_ZONE | CFG_FUSE_STAT | CFG_FUSE_CMD | CFG_FUSE_DATA | PWR_REQ | PWR_STAT | PWR_WAKE_EN
  | PWR_WAKE_PEND | PWR_LANE | PWR_MISSED | PWR_TIMES | ERR_REG_REC0 | ERR_REG_REC1 | ERR_REG_REC2 | ERR_REG_STAT
  | NOC_PC_CTRL | NOC_PC_BASE | NOC_PC_LEN | NOC_PC_WP | NOC_PC_RP | NOC_PC_DROP | CELL_CTRL | CELL_STATUS
  | CELL_SBE_CNT | CELL_FIRST | CELL_FIRST_STRIDE | CELL_SCRUB | QC_CFG | QC_SIZE | QC_WR | QC_RD
  | QC_WM | QC_STAT | QC_CNT | QC_CMD | QC_LANE | QC_STATUS | QC_FIRST | QC_FIRST_STRIDE
  | QC_SBE_CNT | QC_REPAIR | SPD_CTRL | SPD_STATUS | SPD_SBE_CNT | SPD_DMA_STALL | SPD_FIRST | SPD_FIRST_STRIDE
  | SPD_MARCH_CTRL | SPD_MARCH_STAT | SPD_REPAIR | NOC_RSTAT | NOC_LINK_ERR | NOC_RES | NOC_RES_STAT | NOC_PRB_CFG
  | NOC_PRB_FILT | NOC_PRB_CNT | NOC_TBL_ACT | NOC_TBL_PEND | TRG_WIN_CTRL | TRG_WIN_PRE | TRG_WIN_STAT | TRG_WIN_CLIP
  | TRG_WIN_CNT_LO | TRG_WIN_CNT_HI | TRG_WIN_TRIG_E | TRG_WIN_TRIG_INFO | TRG_WIN_TRIG_FRAC | TRG_WIN_TRIG_SEC | TRG_WIN_FS_FRAC | TRG_WIN_FS_SEC
  | TRG_WIN_DEAD | TRG_DET_CFG | TRG_DET_MATCH | TRG_DET_MASK | TRG_WIN_LTIME | LN_CTRL | LN_RATE | LN_PCS
  | LN_STATUS | LN_TX_FFE | LN_TX_CFG | LN_TX_FILL0 | LN_TX_FILL1 | LN_PAT0 | LN_PAT1 | LN_PAT_CFG
  | LN_RX_CFG | LN_EQ_STAT | LN_PCS_CNT | LN_CHK_BITS_LO | LN_CHK_BITS_HI | LN_CHK_ERR | LN_INJ_CFG | LN_INJ_CTRL
  | LN_HIST_CFG | LN_HIST_N | LN_TS_MATCH | LN_TS_MASK | LN_TS_INFO | LN_TS_FRAC | LN_TS_SEC | LN_SLIP
  | LN_FFE | LN_DFE | LN_FEC_CW_LO | LN_FEC_CW_HI | LN_FEC_CORR | LN_FEC_UNCORR | LN_FEC_HIST | LN_HIST
  | SUP_CTRL | SUP_STATUS | SUP_BOOT | SUP_PC | SUP_FAULT | SUP_OVF_PC | SUP_IRQ_EN | SUP_IRQ_CLASS
  | SUP_IRQ_PEND | SUP_DOORBELL | SUP_HURDLE | SUP_STALL | SUP_DMA_DESC | SUP_DMA_STAT | SUP_DBG_SEL | SUP_DBG_DATA
  deriving DecidableEq, Repr

/-- Where a register lies: its block, its byte offset in the block, how many there are and their spacing. -/
structure Place where
  blk    : Blk
  offset : Nat
  count  : Nat := 1
  stride : Nat := 8
  deriving DecidableEq, Repr

/-- A register field: the row of its register table. `by_` lists the classes of its Reset by column; `configured`
marks the fields whose value after W, G and Z is the configured one; `reserved` lists the encodings R6 ignores. -/
structure Fld where
  reg        : Reg
  hi         : Nat
  lo         : Nat
  acc        : Acc
  reset      : Nat
  by_        : List RClass
  configured : Bool := false
  reserved   : List (Nat × Nat) := []
  deriving DecidableEq, Repr

/-- Reset by P, C. -/
def RClass.pc : List RClass := [.P, .C]
/-- Reset by P, C, W. -/
def RClass.pcw : List RClass := [.P, .C, .W]
/-- Reset by P, C, W, G. -/
def RClass.pcwg : List RClass := [.P, .C, .W, .G]
/-- Reset by P, C, W, G, E. -/
def RClass.pcwge : List RClass := [.P, .C, .W, .G, .E]
/-- Reset by P, C, W, G, Z. -/
def RClass.pcwgz : List RClass := [.P, .C, .W, .G, .Z]
/-- Reset by P, C, W, G, Z, E. -/
def RClass.pcwgze : List RClass := [.P, .C, .W, .G, .Z, .E]
/-- Reset by P alone. -/
def RClass.pOnly : List RClass := [.P]
/-- No class restores the field (a dash, or live). -/
def RClass.never : List RClass := []

/-- The place of each register (R443 with the offset table of its chapter). -/
def Reg.place : Reg → Place
  | .HST_ID => ⟨.dev, 0x0, 1, 0x8⟩
  | .HST_MODE => ⟨.dev, 0x8, 1, 0x8⟩
  | .HST_CTRL => ⟨.dev, 0x10, 1, 0x8⟩
  | .HST_ERR => ⟨.dev, 0x18, 1, 0x8⟩
  | .HST_ERR_ADDR => ⟨.dev, 0x20, 1, 0x8⟩
  | .HST_BAR2_BASE => ⟨.dev, 0x28, 1, 0x8⟩
  | .HST_IRQ_ACK => ⟨.dev, 0x30, 1, 0x8⟩
  | .HST_HDB => ⟨.dev, 0x100, 64, 0x8⟩
  | .HST_MGT_CFG => ⟨.dev, 0x400, 2, 0x80⟩
  | .HST_MGT_MAC_LO => ⟨.dev, 0x408, 2, 0x80⟩
  | .HST_MGT_MAC_HI => ⟨.dev, 0x410, 2, 0x80⟩
  | .HST_MGT_RX_BASE => ⟨.dev, 0x418, 2, 0x80⟩
  | .HST_MGT_RX_N => ⟨.dev, 0x420, 2, 0x80⟩
  | .HST_MGT_RX_WP => ⟨.dev, 0x428, 2, 0x80⟩
  | .HST_MGT_RX_RP => ⟨.dev, 0x430, 2, 0x80⟩
  | .HST_MGT_TX_BASE => ⟨.dev, 0x438, 2, 0x80⟩
  | .HST_MGT_TX_N => ⟨.dev, 0x440, 2, 0x80⟩
  | .HST_MGT_TX_WP => ⟨.dev, 0x448, 2, 0x80⟩
  | .HST_MGT_TX_RP => ⟨.dev, 0x450, 2, 0x80⟩
  | .HST_MGT_CNT0 => ⟨.dev, 0x458, 2, 0x80⟩
  | .HST_MGT_CNT1 => ⟨.dev, 0x460, 2, 0x80⟩
  | .HST_MGT_NOTIFY => ⟨.dev, 0x468, 2, 0x80⟩
  | .TIM_NOW_FRAC => ⟨.dev, 0x10000, 1, 0x8⟩
  | .TIM_NOW_SEC => ⟨.dev, 0x10008, 1, 0x8⟩
  | .TIM_CTRL => ⟨.dev, 0x10010, 1, 0x8⟩
  | .TIM_STATUS => ⟨.dev, 0x10018, 1, 0x8⟩
  | .TIM_RATE => ⟨.dev, 0x10020, 1, 0x8⟩
  | .TIM_ADJ_FRAC => ⟨.dev, 0x10028, 1, 0x8⟩
  | .TIM_ADJ_SEC => ⟨.dev, 0x10030, 1, 0x8⟩
  | .TIM_EPOCH_FRAC => ⟨.dev, 0x10038, 1, 0x8⟩
  | .TIM_EPOCH_SEC => ⟨.dev, 0x10040, 1, 0x8⟩
  | .TIM_STRIDE_CFG => ⟨.dev, 0x10048, 1, 0x8⟩
  | .TIM_STRIDE_LO => ⟨.dev, 0x10050, 1, 0x8⟩
  | .TIM_STRIDE_HI => ⟨.dev, 0x10058, 1, 0x8⟩
  | .TIM_STRIDE_OFS => ⟨.dev, 0x10060, 1, 0x8⟩
  | .TIM_ALIGN => ⟨.dev, 0x10068, 1, 0x8⟩
  | .TIM_PPS_CFG => ⟨.dev, 0x10070, 1, 0x8⟩
  | .TIM_PPS_IN_FRAC => ⟨.dev, 0x10078, 1, 0x8⟩
  | .TIM_PPS_IN_SEC => ⟨.dev, 0x10080, 1, 0x8⟩
  | .TIM_TL_CFG => ⟨.dev, 0x10088, 1, 0x8⟩
  | .TIM_TL_STAT => ⟨.dev, 0x10090, 1, 0x8⟩
  | .TIM_TL_OFS => ⟨.dev, 0x10098, 1, 0x8⟩
  | .TIM_TS_INFO => ⟨.dev, 0x100A0, 1, 0x8⟩
  | .TIM_TS_FRAC => ⟨.dev, 0x100A8, 1, 0x8⟩
  | .TIM_TS_SEC => ⟨.dev, 0x100B0, 1, 0x8⟩
  | .PWR_DEV_REQ => ⟨.dev, 0x20000, 1, 0x8⟩
  | .PWR_DEV_STAT => ⟨.dev, 0x20008, 1, 0x8⟩
  | .PWR_CTRL => ⟨.dev, 0x20010, 1, 0x8⟩
  | .PWR_REG_STAT => ⟨.dev, 0x20018, 1, 0x8⟩
  | .PWR_TEMP => ⟨.dev, 0x20020, 1, 0x8⟩
  | .PWR_VIN => ⟨.dev, 0x20028, 1, 0x8⟩
  | .RST_CMD => ⟨.dev, 0x30000, 1, 0x8⟩
  | .RST_STATUS => ⟨.dev, 0x30008, 1, 0x8⟩
  | .RST_CAUSE => ⟨.dev, 0x30010, 1, 0x8⟩
  | .NOC_CTRL => ⟨.dev, 0x40000, 1, 0x8⟩
  | .NOC_SWAP => ⟨.dev, 0x40008, 1, 0x8⟩
  | .NOC_SWAP_STAT => ⟨.dev, 0x40010, 1, 0x8⟩
  | .ERR_FRZ_CFG => ⟨.dev, 0x80000, 1, 0x8⟩
  | .ERR_FRZ_CMD => ⟨.dev, 0x80008, 1, 0x8⟩
  | .ERR_FRZ_STAT => ⟨.dev, 0x80010, 1, 0x8⟩
  | .ERR_FRZ_STRIDE => ⟨.dev, 0x80018, 1, 0x8⟩
  | .ERR_FRZ_MISSED => ⟨.dev, 0x80020, 1, 0x8⟩
  | .ERR_FRZ_TIME_FRAC => ⟨.dev, 0x80028, 1, 0x8⟩
  | .ERR_FRZ_TIME_SEC => ⟨.dev, 0x80030, 1, 0x8⟩
  | .ERR_RESUME_FRAC => ⟨.dev, 0x80038, 1, 0x8⟩
  | .ERR_RESUME_SEC => ⟨.dev, 0x80040, 1, 0x8⟩
  | .ERR_DEV_HEAD => ⟨.dev, 0x80048, 1, 0x8⟩
  | .ERR_DEV_TAIL => ⟨.dev, 0x80050, 1, 0x8⟩
  | .ERR_DEV_STAT => ⟨.dev, 0x80058, 1, 0x8⟩
  | .ERR_RDO_ADDR => ⟨.dev, 0x80060, 1, 0x8⟩
  | .ERR_INJ_TGT => ⟨.dev, 0x80068, 1, 0x8⟩
  | .ERR_INJ_ARG => ⟨.dev, 0x80070, 1, 0x8⟩
  | .ERR_INJ_CTRL => ⟨.dev, 0x80078, 1, 0x8⟩
  | .ERR_POL => ⟨.dev, 0x90000, 1280, 0x8⟩
  | .ERR_DEV_LOG => ⟨.dev, 0xA0000, 1024, 0x8⟩
  | .SE_CTRL => ⟨.tile, 0x0, 1, 0x8⟩
  | .SE_STATUS => ⟨.tile, 0x8, 1, 0x8⟩
  | .SE_BOOT => ⟨.tile, 0x10, 1, 0x8⟩
  | .SE_PC => ⟨.tile, 0x18, 1, 0x8⟩
  | .SE_FAULT => ⟨.tile, 0x20, 1, 0x8⟩
  | .SE_OVF_PC => ⟨.tile, 0x28, 1, 0x8⟩
  | .SE_IRQ_EN => ⟨.tile, 0x30, 1, 0x8⟩
  | .SE_IRQ_CLASS => ⟨.tile, 0x38, 1, 0x8⟩
  | .SE_IRQ_PEND => ⟨.tile, 0x40, 1, 0x8⟩
  | .SE_DOORBELL => ⟨.tile, 0x48, 1, 0x8⟩
  | .SE_HURDLE => ⟨.tile, 0x50, 1, 0x8⟩
  | .SE_STALL => ⟨.tile, 0x58, 1, 0x8⟩
  | .SUP_WDOG => ⟨.region, 0x60, 1, 0x8⟩
  | .SUP_WDOG_KICK => ⟨.region, 0x68, 1, 0x8⟩
  | .SUP_NSTAT => ⟨.region, 0x70, 1, 0x8⟩
  | .SE_DMA_DESC => ⟨.tile, 0x80, 4, 0x10⟩
  | .SE_DMA_STAT => ⟨.tile, 0x88, 4, 0x10⟩
  | .SE_DBG_SEL => ⟨.tile, 0xC0, 1, 0x8⟩
  | .SE_DBG_DATA => ⟨.tile, 0xC8, 1, 0x8⟩
  | .SE_IMEM => ⟨.tile, 0x20000, 16384, 0x8⟩
  | .SUP_IMEM => ⟨.region, 0x40000, 32768, 0x8⟩
  | .SUP_DMEM => ⟨.region, 0x80000, 65536, 0x8⟩
  | .TRC_CTRL => ⟨.region, 0x100000, 1, 0x8⟩
  | .TRC_SRC => ⟨.region, 0x100008, 1, 0x8⟩
  | .TRC_STATUS => ⟨.region, 0x100010, 1, 0x8⟩
  | .TRC_WP => ⟨.region, 0x100018, 1, 0x8⟩
  | .TRC_RP => ⟨.region, 0x100020, 1, 0x8⟩
  | .TRC_MEM_BASE => ⟨.region, 0x100028, 1, 0x8⟩
  | .TRC_MEM_LEN => ⟨.region, 0x100030, 1, 0x8⟩
  | .TRC_DROP => ⟨.region, 0x100038, 1, 0x8⟩
  | .TRC_STALL => ⟨.region, 0x100040, 1, 0x8⟩
  | .TRC_BUF => ⟨.region, 0x110000, 24576, 0x8⟩
  | .RTE_CTRL => ⟨.region, 0x140000, 1, 0x8⟩
  | .RTE_STATUS => ⟨.region, 0x140008, 1, 0x8⟩
  | .RTE_CONT_CNT => ⟨.region, 0x140010, 1, 0x8⟩
  | .RTE_FIRST => ⟨.region, 0x140018, 1, 0x8⟩
  | .RTE_FIRST_STRIDE => ⟨.region, 0x140020, 1, 0x8⟩
  | .RTE_DOM => ⟨.region, 0x141000, 272, 0x8⟩
  | .FAB_PIN_CFG => ⟨.region, 0x150000, 16, 0x8⟩
  | .FAB_PIN_IN => ⟨.region, 0x150080, 1, 0x8⟩
  | .FAB_PIN_OUT => ⟨.region, 0x150088, 1, 0x8⟩
  | .FAB_RCK_CFG => ⟨.region, 0x1500C0, 8, 0x8⟩
  | .FAB_RCK_STAT => ⟨.region, 0x150100, 1, 0x8⟩
  | .TIM_GUN_PORT => ⟨.region, 0x160000, 4, 0x8⟩
  | .TIM_GUN_STAT => ⟨.region, 0x160020, 1, 0x8⟩
  | .TIM_WAKE_GUARD => ⟨.region, 0x160028, 1, 0x8⟩
  | .TIM_LOG_HEAD => ⟨.region, 0x160030, 1, 0x8⟩
  | .TIM_LOG => ⟨.region, 0x160800, 256, 0x8⟩
  | .TRG_SEQ_CTRL => ⟨.region, 0x170000, 1, 0x8⟩
  | .TRG_SEQ_STAT => ⟨.region, 0x170008, 1, 0x8⟩
  | .TRG_STATUS => ⟨.region, 0x170010, 1, 0x8⟩
  | .TRG_TIN_CFG => ⟨.region, 0x170018, 1, 0x8⟩
  | .TRG_TOUT_CFG => ⟨.region, 0x170020, 1, 0x8⟩
  | .TRG_BUS_SEL => ⟨.region, 0x170028, 1, 0x8⟩
  | .TRG_SW => ⟨.region, 0x170030, 1, 0x8⟩
  | .TRG_LOG_MASK0 => ⟨.region, 0x170038, 1, 0x8⟩
  | .TRG_LOG_MASK1 => ⟨.region, 0x170040, 1, 0x8⟩
  | .TRG_LOG_HEAD => ⟨.region, 0x170048, 1, 0x8⟩
  | .TRG_S_COND0 => ⟨.region, 0x170100, 4, 0x28⟩
  | .TRG_S_COND1 => ⟨.region, 0x170108, 4, 0x28⟩
  | .TRG_S_RST0 => ⟨.region, 0x170110, 4, 0x28⟩
  | .TRG_S_RST1 => ⟨.region, 0x170118, 4, 0x28⟩
  | .TRG_S_TIMEOUT => ⟨.region, 0x170120, 4, 0x28⟩
  | .TRG_LOG => ⟨.region, 0x170800, 256, 0x8⟩
  | .ACQ_STATUS => ⟨.region, 0x180000, 1, 0x8⟩
  | .ACQ_FIRST => ⟨.region, 0x180008, 1, 0x8⟩
  | .ACQ_FIRST_STRIDE => ⟨.region, 0x180010, 1, 0x8⟩
  | .ACQ_BUF => ⟨.region, 0x180018, 1, 0x8⟩
  | .HEAT_CTRL => ⟨.region, 0x180800, 16, 0x80⟩
  | .HEAT_SRC => ⟨.region, 0x180808, 16, 0x80⟩
  | .HEAT_TRIG => ⟨.region, 0x180810, 16, 0x80⟩
  | .HEAT_PRE => ⟨.region, 0x180818, 16, 0x80⟩
  | .HEAT_POST => ⟨.region, 0x180820, 16, 0x80⟩
  | .HEAT_BASE => ⟨.region, 0x180828, 16, 0x80⟩
  | .HEAT_SLOT => ⟨.region, 0x180830, 16, 0x80⟩
  | .HEAT_NSLOT => ⟨.region, 0x180838, 16, 0x80⟩
  | .HEAT_HOLDOFF => ⟨.region, 0x180840, 16, 0x80⟩
  | .HEAT_FELT => ⟨.region, 0x180848, 16, 0x80⟩
  | .HEAT_BW => ⟨.region, 0x180850, 16, 0x80⟩
  | .HEAT_NOTIFY => ⟨.region, 0x180858, 16, 0x80⟩
  | .HEAT_STAT => ⟨.region, 0x180860, 16, 0x80⟩
  | .HEAT_WP => ⟨.region, 0x180868, 16, 0x80⟩
  | .HEAT_DONE => ⟨.region, 0x180870, 16, 0x80⟩
  | .HEAT_RP => ⟨.region, 0x180878, 16, 0x80⟩
  | .MEM_CTRL => ⟨.region, 0x190000, 1, 0x8⟩
  | .MEM_STATUS => ⟨.region, 0x190008, 1, 0x8⟩
  | .MEM_RES_LIMIT => ⟨.region, 0x190010, 1, 0x8⟩
  | .MEM_RES_STAT => ⟨.region, 0x190018, 1, 0x8⟩
  | .MEM_SCRUB => ⟨.region, 0x190020, 1, 0x8⟩
  | .MEM_CE_CNT => ⟨.region, 0x190028, 1, 0x8⟩
  | .MEM_FIRST => ⟨.region, 0x190030, 1, 0x8⟩
  | .MEM_FIRST_ADDR => ⟨.region, 0x190038, 1, 0x8⟩
  | .MEM_FIRST_STRIDE => ⟨.region, 0x190040, 1, 0x8⟩
  | .MEM_INIT_BASE => ⟨.region, 0x190048, 1, 0x8⟩
  | .MEM_INIT_LEN => ⟨.region, 0x190050, 1, 0x8⟩
  | .MEM_INIT_CTRL => ⟨.region, 0x190058, 1, 0x8⟩
  | .MEM_REPAIR => ⟨.region, 0x190100, 32, 0x8⟩
  | .ARC_CTRL => ⟨.region, 0x1A0000, 1, 0x8⟩
  | .ARC_STATUS => ⟨.region, 0x1A0008, 1, 0x8⟩
  | .ARC_CMD_STAT => ⟨.region, 0x1A0010, 1, 0x8⟩
  | .ARC_NEXT_OBJ => ⟨.region, 0x1A0018, 1, 0x8⟩
  | .ARC_CMD_PORT => ⟨.region, 0x1A0020, 4, 0x8⟩
  | .ARC_CPL_BASE => ⟨.region, 0x1A0040, 1, 0x8⟩
  | .ARC_CPL_LEN => ⟨.region, 0x1A0048, 1, 0x8⟩
  | .ARC_CPL_WP => ⟨.region, 0x1A0050, 1, 0x8⟩
  | .ARC_CPL_RP => ⟨.region, 0x1A0058, 1, 0x8⟩
  | .ARC_FREE => ⟨.region, 0x1A0060, 1, 0x8⟩
  | .ARC_HEALTH => ⟨.region, 0x1A0068, 1, 0x8⟩
  | .ARC_ECC => ⟨.region, 0x1A0070, 1, 0x8⟩
  | .ARC_PATROL => ⟨.region, 0x1A0078, 1, 0x8⟩
  | .ARC_BIND => ⟨.region, 0x1A0100, 16, 0x8⟩
  | .CFG_STATUS => ⟨.region, 0x1B0000, 1, 0x8⟩
  | .CFG_CMD => ⟨.region, 0x1B0008, 1, 0x8⟩
  | .CFG_CTRL => ⟨.region, 0x1B0010, 1, 0x8⟩
  | .CFG_SRC_ADDR => ⟨.region, 0x1B0018, 1, 0x8⟩
  | .CFG_SRC_LEN => ⟨.region, 0x1B0020, 1, 0x8⟩
  | .CFG_SRC_LIMIT => ⟨.region, 0x1B0028, 1, 0x8⟩
  | .CFG_PROGRESS => ⟨.region, 0x1B0030, 1, 0x8⟩
  | .CFG_FAIL => ⟨.region, 0x1B0038, 1, 0x8⟩
  | .CFG_START_FRAC => ⟨.region, 0x1B0040, 1, 0x8⟩
  | .CFG_START_SEC => ⟨.region, 0x1B0048, 1, 0x8⟩
  | .CFG_DESIGN_ID => ⟨.region, 0x1B0050, 1, 0x8⟩
  | .CFG_USER => ⟨.region, 0x1B0058, 4, 0x8⟩
  | .CFG_SLOT => ⟨.region, 0x1B0078, 2, 0x8⟩
  | .CFG_RELAY => ⟨.region, 0x1B0088, 1, 0x8⟩
  | .CFG_ZCMD => ⟨.region, 0x1B00C0, 1, 0x8⟩
  | .CFG_ZONE => ⟨.region, 0x1B0100, 16, 0x8⟩
  | .CFG_FUSE_STAT => ⟨.region, 0x1B0200, 1, 0x8⟩
  | .CFG_FUSE_CMD => ⟨.region, 0x1B0208, 1, 0x8⟩
  | .CFG_FUSE_DATA => ⟨.region, 0x1B0210, 10, 0x8⟩
  | .PWR_REQ => ⟨.region, 0x1C0000, 1, 0x8⟩
  | .PWR_STAT => ⟨.region, 0x1C0008, 1, 0x8⟩
  | .PWR_WAKE_EN => ⟨.region, 0x1C0010, 1, 0x8⟩
  | .PWR_WAKE_PEND => ⟨.region, 0x1C0018, 1, 0x8⟩
  | .PWR_LANE => ⟨.region, 0x1C0020, 1, 0x8⟩
  | .PWR_MISSED => ⟨.region, 0x1C0028, 1, 0x8⟩
  | .PWR_TIMES => ⟨.region, 0x1C0030, 1, 0x8⟩
  | .ERR_REG_REC0 => ⟨.region, 0x1D0000, 1, 0x8⟩
  | .ERR_REG_REC1 => ⟨.region, 0x1D0008, 1, 0x8⟩
  | .ERR_REG_REC2 => ⟨.region, 0x1D0010, 1, 0x8⟩
  | .ERR_REG_STAT => ⟨.region, 0x1D0018, 1, 0x8⟩
  | .NOC_PC_CTRL => ⟨.region, 0x1E0000, 1, 0x8⟩
  | .NOC_PC_BASE => ⟨.region, 0x1E0008, 1, 0x8⟩
  | .NOC_PC_LEN => ⟨.region, 0x1E0010, 1, 0x8⟩
  | .NOC_PC_WP => ⟨.region, 0x1E0018, 1, 0x8⟩
  | .NOC_PC_RP => ⟨.region, 0x1E0020, 1, 0x8⟩
  | .NOC_PC_DROP => ⟨.region, 0x1E0028, 1, 0x8⟩
  | .CELL_CTRL => ⟨.tile, 0x1000, 1, 0x8⟩
  | .CELL_STATUS => ⟨.tile, 0x1008, 1, 0x8⟩
  | .CELL_SBE_CNT => ⟨.tile, 0x1010, 1, 0x8⟩
  | .CELL_FIRST => ⟨.tile, 0x1018, 1, 0x8⟩
  | .CELL_FIRST_STRIDE => ⟨.tile, 0x1020, 1, 0x8⟩
  | .CELL_SCRUB => ⟨.tile, 0x1028, 1, 0x8⟩
  | .QC_CFG => ⟨.tile, 0x2000, 16, 0x40⟩
  | .QC_SIZE => ⟨.tile, 0x2008, 16, 0x40⟩
  | .QC_WR => ⟨.tile, 0x2010, 16, 0x40⟩
  | .QC_RD => ⟨.tile, 0x2018, 16, 0x40⟩
  | .QC_WM => ⟨.tile, 0x2020, 16, 0x40⟩
  | .QC_STAT => ⟨.tile, 0x2028, 16, 0x40⟩
  | .QC_CNT => ⟨.tile, 0x2030, 16, 0x40⟩
  | .QC_CMD => ⟨.tile, 0x2038, 16, 0x40⟩
  | .QC_LANE => ⟨.tile, 0x2400, 1, 0x8⟩
  | .QC_STATUS => ⟨.tile, 0x2408, 1, 0x8⟩
  | .QC_FIRST => ⟨.tile, 0x2410, 1, 0x8⟩
  | .QC_FIRST_STRIDE => ⟨.tile, 0x2418, 1, 0x8⟩
  | .QC_SBE_CNT => ⟨.tile, 0x2420, 1, 0x8⟩
  | .QC_REPAIR => ⟨.tile, 0x2500, 24, 0x8⟩
  | .SPD_CTRL => ⟨.tile, 0x3000, 1, 0x8⟩
  | .SPD_STATUS => ⟨.tile, 0x3008, 1, 0x8⟩
  | .SPD_SBE_CNT => ⟨.tile, 0x3010, 1, 0x8⟩
  | .SPD_DMA_STALL => ⟨.tile, 0x3018, 1, 0x8⟩
  | .SPD_FIRST => ⟨.tile, 0x3020, 1, 0x8⟩
  | .SPD_FIRST_STRIDE => ⟨.tile, 0x3028, 1, 0x8⟩
  | .SPD_MARCH_CTRL => ⟨.tile, 0x3030, 1, 0x8⟩
  | .SPD_MARCH_STAT => ⟨.tile, 0x3038, 1, 0x8⟩
  | .SPD_REPAIR => ⟨.tile, 0x3100, 8, 0x8⟩
  | .NOC_RSTAT => ⟨.tile, 0x4000, 1, 0x8⟩
  | .NOC_LINK_ERR => ⟨.tile, 0x4008, 1, 0x8⟩
  | .NOC_RES => ⟨.tile, 0x4010, 1, 0x8⟩
  | .NOC_RES_STAT => ⟨.tile, 0x4018, 1, 0x8⟩
  | .NOC_PRB_CFG => ⟨.tile, 0x4020, 1, 0x8⟩
  | .NOC_PRB_FILT => ⟨.tile, 0x4028, 1, 0x8⟩
  | .NOC_PRB_CNT => ⟨.tile, 0x4030, 2, 0x8⟩
  | .NOC_TBL_ACT => ⟨.tile, 0x4100, 64, 0x8⟩
  | .NOC_TBL_PEND => ⟨.tile, 0x4300, 64, 0x8⟩
  | .TRG_WIN_CTRL => ⟨.laneTile, 0x40000, 1, 0x8⟩
  | .TRG_WIN_PRE => ⟨.laneTile, 0x40008, 1, 0x8⟩
  | .TRG_WIN_STAT => ⟨.laneTile, 0x40010, 1, 0x8⟩
  | .TRG_WIN_CLIP => ⟨.laneTile, 0x40018, 1, 0x8⟩
  | .TRG_WIN_CNT_LO => ⟨.laneTile, 0x40020, 1, 0x8⟩
  | .TRG_WIN_CNT_HI => ⟨.laneTile, 0x40028, 1, 0x8⟩
  | .TRG_WIN_TRIG_E => ⟨.laneTile, 0x40030, 1, 0x8⟩
  | .TRG_WIN_TRIG_INFO => ⟨.laneTile, 0x40038, 1, 0x8⟩
  | .TRG_WIN_TRIG_FRAC => ⟨.laneTile, 0x40040, 1, 0x8⟩
  | .TRG_WIN_TRIG_SEC => ⟨.laneTile, 0x40048, 1, 0x8⟩
  | .TRG_WIN_FS_FRAC => ⟨.laneTile, 0x40050, 1, 0x8⟩
  | .TRG_WIN_FS_SEC => ⟨.laneTile, 0x40058, 1, 0x8⟩
  | .TRG_WIN_DEAD => ⟨.laneTile, 0x40060, 1, 0x8⟩
  | .TRG_DET_CFG => ⟨.laneTile, 0x40080, 2, 0x18⟩
  | .TRG_DET_MATCH => ⟨.laneTile, 0x40088, 2, 0x18⟩
  | .TRG_DET_MASK => ⟨.laneTile, 0x40090, 2, 0x18⟩
  | .TRG_WIN_LTIME => ⟨.laneTile, 0x60000, 16384, 0x8⟩
  | .LN_CTRL => ⟨.laneTile, 0x41000, 1, 0x8⟩
  | .LN_RATE => ⟨.laneTile, 0x41008, 1, 0x8⟩
  | .LN_PCS => ⟨.laneTile, 0x41010, 1, 0x8⟩
  | .LN_STATUS => ⟨.laneTile, 0x41018, 1, 0x8⟩
  | .LN_TX_FFE => ⟨.laneTile, 0x41020, 1, 0x8⟩
  | .LN_TX_CFG => ⟨.laneTile, 0x41028, 1, 0x8⟩
  | .LN_TX_FILL0 => ⟨.laneTile, 0x41030, 1, 0x8⟩
  | .LN_TX_FILL1 => ⟨.laneTile, 0x41038, 1, 0x8⟩
  | .LN_PAT0 => ⟨.laneTile, 0x41040, 1, 0x8⟩
  | .LN_PAT1 => ⟨.laneTile, 0x41048, 1, 0x8⟩
  | .LN_PAT_CFG => ⟨.laneTile, 0x41050, 1, 0x8⟩
  | .LN_RX_CFG => ⟨.laneTile, 0x41058, 1, 0x8⟩
  | .LN_EQ_STAT => ⟨.laneTile, 0x41060, 1, 0x8⟩
  | .LN_PCS_CNT => ⟨.laneTile, 0x41068, 1, 0x8⟩
  | .LN_CHK_BITS_LO => ⟨.laneTile, 0x41070, 1, 0x8⟩
  | .LN_CHK_BITS_HI => ⟨.laneTile, 0x41078, 1, 0x8⟩
  | .LN_CHK_ERR => ⟨.laneTile, 0x41080, 1, 0x8⟩
  | .LN_INJ_CFG => ⟨.laneTile, 0x41088, 1, 0x8⟩
  | .LN_INJ_CTRL => ⟨.laneTile, 0x41090, 1, 0x8⟩
  | .LN_HIST_CFG => ⟨.laneTile, 0x41098, 1, 0x8⟩
  | .LN_HIST_N => ⟨.laneTile, 0x410A0, 1, 0x8⟩
  | .LN_TS_MATCH => ⟨.laneTile, 0x410A8, 1, 0x8⟩
  | .LN_TS_MASK => ⟨.laneTile, 0x410B0, 1, 0x8⟩
  | .LN_TS_INFO => ⟨.laneTile, 0x410B8, 1, 0x8⟩
  | .LN_TS_FRAC => ⟨.laneTile, 0x410C0, 1, 0x8⟩
  | .LN_TS_SEC => ⟨.laneTile, 0x410C8, 1, 0x8⟩
  | .LN_SLIP => ⟨.laneTile, 0x410D0, 1, 0x8⟩
  | .LN_FFE => ⟨.laneTile, 0x41100, 24, 0x8⟩
  | .LN_DFE => ⟨.laneTile, 0x411C0, 1, 0x8⟩
  | .LN_FEC_CW_LO => ⟨.laneTile, 0x41200, 1, 0x8⟩
  | .LN_FEC_CW_HI => ⟨.laneTile, 0x41208, 1, 0x8⟩
  | .LN_FEC_CORR => ⟨.laneTile, 0x41210, 1, 0x8⟩
  | .LN_FEC_UNCORR => ⟨.laneTile, 0x41218, 1, 0x8⟩
  | .LN_FEC_HIST => ⟨.laneTile, 0x41220, 17, 0x8⟩
  | .LN_HIST => ⟨.laneTile, 0x41800, 256, 0x8⟩
  | .SUP_CTRL => ⟨.region, 0x0, 1, 0x8⟩
  | .SUP_STATUS => ⟨.region, 0x8, 1, 0x8⟩
  | .SUP_BOOT => ⟨.region, 0x10, 1, 0x8⟩
  | .SUP_PC => ⟨.region, 0x18, 1, 0x8⟩
  | .SUP_FAULT => ⟨.region, 0x20, 1, 0x8⟩
  | .SUP_OVF_PC => ⟨.region, 0x28, 1, 0x8⟩
  | .SUP_IRQ_EN => ⟨.region, 0x30, 1, 0x8⟩
  | .SUP_IRQ_CLASS => ⟨.region, 0x38, 1, 0x8⟩
  | .SUP_IRQ_PEND => ⟨.region, 0x40, 1, 0x8⟩
  | .SUP_DOORBELL => ⟨.region, 0x48, 1, 0x8⟩
  | .SUP_HURDLE => ⟨.region, 0x50, 1, 0x8⟩
  | .SUP_STALL => ⟨.region, 0x58, 1, 0x8⟩
  | .SUP_DMA_DESC => ⟨.region, 0x80, 2, 0x10⟩
  | .SUP_DMA_STAT => ⟨.region, 0x88, 2, 0x10⟩
  | .SUP_DBG_SEL => ⟨.region, 0xC0, 1, 0x8⟩
  | .SUP_DBG_DATA => ⟨.region, 0xC8, 1, 0x8⟩

/-- HST_ID.PART (R444). -/
def F.HST_ID.PART : Fld := { reg := .HST_ID, hi := 39, lo := 24, acc := .RO, reset := 0x9640, by_ := RClass.never }
/-- HST_ID.REV (R444). -/
def F.HST_ID.REV : Fld := { reg := .HST_ID, hi := 23, lo := 16, acc := .RO, reset := 0xb1, by_ := RClass.never }
/-- HST_ID.CODE (R444). -/
def F.HST_ID.CODE : Fld := { reg := .HST_ID, hi := 15, lo := 12, acc := .RO, reset := 0, by_ := RClass.never }
/-- HST_MODE.MODE (R444). -/
def F.HST_MODE.MODE : Fld := { reg := .HST_MODE, hi := 39, lo := 37, acc := .RO, reset := 0, by_ := RClass.never }
/-- HST_CTRL.RD_LIMIT (R444). -/
def F.HST_CTRL.RD_LIMIT : Fld := { reg := .HST_CTRL, hi := 39, lo := 30, acc := .RW, reset := 0x3e8, by_ := RClass.pc }
/-- HST_CTRL.SMB_ADDR (R444). -/
def F.HST_CTRL.SMB_ADDR : Fld := { reg := .HST_CTRL, hi := 29, lo := 23, acc := .RW, reset := 0x5c, by_ := RClass.pOnly }
/-- HST_ERR.ADDR_UNMAPPED (R444). -/
def F.HST_ERR.ADDR_UNMAPPED : Fld := { reg := .HST_ERR, hi := 39, lo := 39, acc := .W1C, reset := 0, by_ := RClass.pc }
/-- HST_ERR.DOMAIN_OFFLINE (R444). -/
def F.HST_ERR.DOMAIN_OFFLINE : Fld := { reg := .HST_ERR, hi := 38, lo := 38, acc := .W1C, reset := 0, by_ := RClass.pc }
/-- HST_ERR.DATA_ERR (R444). -/
def F.HST_ERR.DATA_ERR : Fld := { reg := .HST_ERR, hi := 37, lo := 37, acc := .W1C, reset := 0, by_ := RClass.pc }
/-- HST_ERR.OTHER (R444). -/
def F.HST_ERR.OTHER : Fld := { reg := .HST_ERR, hi := 36, lo := 36, acc := .W1C, reset := 0, by_ := RClass.pc }
/-- HST_ERR.RD_TIMEOUT (R444). -/
def F.HST_ERR.RD_TIMEOUT : Fld := { reg := .HST_ERR, hi := 35, lo := 35, acc := .W1C, reset := 0, by_ := RClass.pc }
/-- HST_ERR.SIZE (R444). -/
def F.HST_ERR.SIZE : Fld := { reg := .HST_ERR, hi := 34, lo := 34, acc := .W1C, reset := 0, by_ := RClass.pc }
/-- HST_ERR.FIRST_STATUS (R444). -/
def F.HST_ERR.FIRST_STATUS : Fld := { reg := .HST_ERR, hi := 33, lo := 30, acc := .RO, reset := 0, by_ := RClass.pc }
/-- HST_ERR_ADDR.ADDR (R444). -/
def F.HST_ERR_ADDR.ADDR : Fld := { reg := .HST_ERR_ADDR, hi := 39, lo := 0, acc := .RO, reset := 0, by_ := RClass.pc }
/-- HST_BAR2_BASE.GIB (R444). -/
def F.HST_BAR2_BASE.GIB : Fld := { reg := .HST_BAR2_BASE, hi := 6, lo := 0, acc := .RW, reset := 0, by_ := RClass.pc, reserved := [(65, 127)] }
/-- HST_IRQ_ACK.VECTOR (R444). -/
def F.HST_IRQ_ACK.VECTOR : Fld := { reg := .HST_IRQ_ACK, hi := 7, lo := 0, acc := .WO, reset := 0, by_ := RClass.never }
/-- HST_HDB.VALUE (R444). -/
def F.HST_HDB.VALUE : Fld := { reg := .HST_HDB, hi := 39, lo := 0, acc := .RW, reset := 0, by_ := RClass.pc }
/-- HST_MGT_CFG.EN (R444). -/
def F.HST_MGT_CFG.EN : Fld := { reg := .HST_MGT_CFG, hi := 39, lo := 39, acc := .RW, reset := 0, by_ := RClass.pc }
/-- HST_MGT_CFG.RATE (R444). -/
def F.HST_MGT_CFG.RATE : Fld := { reg := .HST_MGT_CFG, hi := 38, lo := 38, acc := .RW, reset := 0, by_ := RClass.pc }
/-- HST_MGT_CFG.FEC (R444). -/
def F.HST_MGT_CFG.FEC : Fld := { reg := .HST_MGT_CFG, hi := 37, lo := 37, acc := .RW, reset := 0, by_ := RClass.pc }
/-- HST_MGT_CFG.PROMISC (R444). -/
def F.HST_MGT_CFG.PROMISC : Fld := { reg := .HST_MGT_CFG, hi := 36, lo := 36, acc := .RW, reset := 0, by_ := RClass.pc }
/-- HST_MGT_CFG.HIRQ (R444). -/
def F.HST_MGT_CFG.HIRQ : Fld := { reg := .HST_MGT_CFG, hi := 35, lo := 35, acc := .RW, reset := 0, by_ := RClass.pc }
/-- HST_MGT_CFG.LINK_UP (R444). -/
def F.HST_MGT_CFG.LINK_UP : Fld := { reg := .HST_MGT_CFG, hi := 34, lo := 34, acc := .RO, reset := 0, by_ := RClass.never }
/-- HST_MGT_CFG.CFG_ERR (R444). -/
def F.HST_MGT_CFG.CFG_ERR : Fld := { reg := .HST_MGT_CFG, hi := 33, lo := 33, acc := .W1C, reset := 0, by_ := RClass.pc }
/-- HST_MGT_MAC_LO.MAC (R444). -/
def F.HST_MGT_MAC_LO.MAC : Fld := { reg := .HST_MGT_MAC_LO, hi := 23, lo := 0, acc := .RW, reset := 0, by_ := RClass.pc }
/-- HST_MGT_MAC_HI.MAC (R444). -/
def F.HST_MGT_MAC_HI.MAC : Fld := { reg := .HST_MGT_MAC_HI, hi := 23, lo := 0, acc := .RW, reset := 0, by_ := RClass.pc }
/-- HST_MGT_RX_BASE.ADDR (R444). -/
def F.HST_MGT_RX_BASE.ADDR : Fld := { reg := .HST_MGT_RX_BASE, hi := 39, lo := 6, acc := .RW, reset := 0, by_ := RClass.pc }
/-- HST_MGT_RX_N.N (R444). -/
def F.HST_MGT_RX_N.N : Fld := { reg := .HST_MGT_RX_N, hi := 12, lo := 0, acc := .RW, reset := 0, by_ := RClass.pc, reserved := [(4097, 8191)] }
/-- HST_MGT_RX_WP.COUNT (R444). -/
def F.HST_MGT_RX_WP.COUNT : Fld := { reg := .HST_MGT_RX_WP, hi := 39, lo := 0, acc := .RO, reset := 0, by_ := RClass.pc }
/-- HST_MGT_RX_RP.COUNT (R444). -/
def F.HST_MGT_RX_RP.COUNT : Fld := { reg := .HST_MGT_RX_RP, hi := 39, lo := 0, acc := .RW, reset := 0, by_ := RClass.pc }
/-- HST_MGT_TX_BASE.ADDR (R444). -/
def F.HST_MGT_TX_BASE.ADDR : Fld := { reg := .HST_MGT_TX_BASE, hi := 39, lo := 6, acc := .RW, reset := 0, by_ := RClass.pc }
/-- HST_MGT_TX_N.N (R444). -/
def F.HST_MGT_TX_N.N : Fld := { reg := .HST_MGT_TX_N, hi := 12, lo := 0, acc := .RW, reset := 0, by_ := RClass.pc, reserved := [(4097, 8191)] }
/-- HST_MGT_TX_WP.COUNT (R444). -/
def F.HST_MGT_TX_WP.COUNT : Fld := { reg := .HST_MGT_TX_WP, hi := 39, lo := 0, acc := .RW, reset := 0, by_ := RClass.pc }
/-- HST_MGT_TX_RP.COUNT (R444). -/
def F.HST_MGT_TX_RP.COUNT : Fld := { reg := .HST_MGT_TX_RP, hi := 39, lo := 0, acc := .RO, reset := 0, by_ := RClass.pc }
/-- HST_MGT_CNT0.RX_FRAMES (R444). -/
def F.HST_MGT_CNT0.RX_FRAMES : Fld := { reg := .HST_MGT_CNT0, hi := 39, lo := 20, acc := .RC, reset := 0, by_ := RClass.pcw }
/-- HST_MGT_CNT0.TX_FRAMES (R444). -/
def F.HST_MGT_CNT0.TX_FRAMES : Fld := { reg := .HST_MGT_CNT0, hi := 19, lo := 0, acc := .RC, reset := 0, by_ := RClass.pcw }
/-- HST_MGT_CNT1.RX_DROP (R444). -/
def F.HST_MGT_CNT1.RX_DROP : Fld := { reg := .HST_MGT_CNT1, hi := 39, lo := 30, acc := .RC, reset := 0, by_ := RClass.pcw }
/-- HST_MGT_CNT1.RX_BAD (R444). -/
def F.HST_MGT_CNT1.RX_BAD : Fld := { reg := .HST_MGT_CNT1, hi := 29, lo := 20, acc := .RC, reset := 0, by_ := RClass.pcw }
/-- HST_MGT_CNT1.TX_BAD (R444). -/
def F.HST_MGT_CNT1.TX_BAD : Fld := { reg := .HST_MGT_CNT1, hi := 19, lo := 10, acc := .RC, reset := 0, by_ := RClass.pcw }
/-- HST_MGT_NOTIFY.ADDR (R444). -/
def F.HST_MGT_NOTIFY.ADDR : Fld := { reg := .HST_MGT_NOTIFY, hi := 39, lo := 3, acc := .RW, reset := 0, by_ := RClass.pc }
/-- TIM_NOW_FRAC.FRAC (R68). -/
def F.TIM_NOW_FRAC.FRAC : Fld := { reg := .TIM_NOW_FRAC, hi := 39, lo := 0, acc := .RO, reset := 0, by_ := RClass.pc }
/-- TIM_NOW_SEC.SEC (R68). -/
def F.TIM_NOW_SEC.SEC : Fld := { reg := .TIM_NOW_SEC, hi := 39, lo := 0, acc := .RO, reset := 0, by_ := RClass.pc }
/-- TIM_CTRL.REF_SEL (R68). -/
def F.TIM_CTRL.REF_SEL : Fld := { reg := .TIM_CTRL, hi := 15, lo := 14, acc := .RW, reset := 0, by_ := RClass.pc, reserved := [(2, 3)] }
/-- TIM_CTRL.PPS_OUT_EN (R68). -/
def F.TIM_CTRL.PPS_OUT_EN : Fld := { reg := .TIM_CTRL, hi := 13, lo := 13, acc := .RW, reset := 0, by_ := RClass.pc }
/-- TIM_CTRL.REF_OUT_EN (R68). -/
def F.TIM_CTRL.REF_OUT_EN : Fld := { reg := .TIM_CTRL, hi := 12, lo := 12, acc := .RW, reset := 0, by_ := RClass.pc }
/-- TIM_CTRL.STEP_POLICY (R68). -/
def F.TIM_CTRL.STEP_POLICY : Fld := { reg := .TIM_CTRL, hi := 11, lo := 10, acc := .RW, reset := 0, by_ := RClass.pc, reserved := [(2, 3)] }
/-- TIM_CTRL.TS_EN0 (R68). -/
def F.TIM_CTRL.TS_EN0 : Fld := { reg := .TIM_CTRL, hi := 9, lo := 9, acc := .RW, reset := 0, by_ := RClass.pc }
/-- TIM_CTRL.TS_EN1 (R68). -/
def F.TIM_CTRL.TS_EN1 : Fld := { reg := .TIM_CTRL, hi := 8, lo := 8, acc := .RW, reset := 0, by_ := RClass.pc }
/-- TIM_CTRL.ONE_STEP0 (R68). -/
def F.TIM_CTRL.ONE_STEP0 : Fld := { reg := .TIM_CTRL, hi := 7, lo := 7, acc := .RW, reset := 0, by_ := RClass.pc }
/-- TIM_CTRL.ONE_STEP1 (R68). -/
def F.TIM_CTRL.ONE_STEP1 : Fld := { reg := .TIM_CTRL, hi := 6, lo := 6, acc := .RW, reset := 0, by_ := RClass.pc }
/-- TIM_CTRL.SERVO_STATE (R68). -/
def F.TIM_CTRL.SERVO_STATE : Fld := { reg := .TIM_CTRL, hi := 3, lo := 2, acc := .RW, reset := 0, by_ := RClass.pc }
/-- TIM_STATUS.TB_LOCK (R68). -/
def F.TIM_STATUS.TB_LOCK : Fld := { reg := .TIM_STATUS, hi := 23, lo := 23, acc := .RO, reset := 0, by_ := RClass.never }
/-- TIM_STATUS.STEP_LOCK (R68). -/
def F.TIM_STATUS.STEP_LOCK : Fld := { reg := .TIM_STATUS, hi := 22, lo := 22, acc := .RO, reset := 0, by_ := RClass.never }
/-- TIM_STATUS.REF_VALID (R68). -/
def F.TIM_STATUS.REF_VALID : Fld := { reg := .TIM_STATUS, hi := 21, lo := 21, acc := .RO, reset := 0, by_ := RClass.never }
/-- TIM_STATUS.ALIGNED (R68). -/
def F.TIM_STATUS.ALIGNED : Fld := { reg := .TIM_STATUS, hi := 20, lo := 20, acc := .RO, reset := 0, by_ := RClass.never }
/-- TIM_STATUS.TL_LOCK (R68). -/
def F.TIM_STATUS.TL_LOCK : Fld := { reg := .TIM_STATUS, hi := 19, lo := 19, acc := .RO, reset := 0, by_ := RClass.never }
/-- TIM_STATUS.STEER_CLAMP (R68). -/
def F.TIM_STATUS.STEER_CLAMP : Fld := { reg := .TIM_STATUS, hi := 18, lo := 18, acc := .RO, reset := 0, by_ := RClass.never }
/-- TIM_STATUS.ALIGN_LOST (R68). -/
def F.TIM_STATUS.ALIGN_LOST : Fld := { reg := .TIM_STATUS, hi := 17, lo := 17, acc := .W1C, reset := 0, by_ := RClass.pcw }
/-- TIM_STATUS.STEP_DONE (R68). -/
def F.TIM_STATUS.STEP_DONE : Fld := { reg := .TIM_STATUS, hi := 16, lo := 16, acc := .W1C, reset := 0, by_ := RClass.pcw }
/-- TIM_STATUS.ADJ_BAD (R68). -/
def F.TIM_STATUS.ADJ_BAD : Fld := { reg := .TIM_STATUS, hi := 15, lo := 15, acc := .W1C, reset := 0, by_ := RClass.pcw }
/-- TIM_STATUS.PPS_IN_NEW (R68). -/
def F.TIM_STATUS.PPS_IN_NEW : Fld := { reg := .TIM_STATUS, hi := 14, lo := 14, acc := .W1C, reset := 0, by_ := RClass.pcw }
/-- TIM_STATUS.REF_ACTIVE (R68). -/
def F.TIM_STATUS.REF_ACTIVE : Fld := { reg := .TIM_STATUS, hi := 13, lo := 13, acc := .RO, reset := 0, by_ := RClass.never }
/-- TIM_STATUS.P_REFUSED (R68). -/
def F.TIM_STATUS.P_REFUSED : Fld := { reg := .TIM_STATUS, hi := 12, lo := 12, acc := .W1C, reset := 0, by_ := RClass.pcw }
/-- TIM_STATUS.TS_DROPS (R68). -/
def F.TIM_STATUS.TS_DROPS : Fld := { reg := .TIM_STATUS, hi := 7, lo := 0, acc := .RC, reset := 0, by_ := RClass.pcw }
/-- TIM_RATE.RATE (R68). -/
def F.TIM_RATE.RATE : Fld := { reg := .TIM_RATE, hi := 39, lo := 0, acc := .RW, reset := 0, by_ := RClass.pc }
/-- TIM_ADJ_FRAC.FRAC (R68). -/
def F.TIM_ADJ_FRAC.FRAC : Fld := { reg := .TIM_ADJ_FRAC, hi := 39, lo := 0, acc := .RW, reset := 0, by_ := RClass.pc }
/-- TIM_ADJ_SEC.SEC (R68). -/
def F.TIM_ADJ_SEC.SEC : Fld := { reg := .TIM_ADJ_SEC, hi := 39, lo := 0, acc := .RW, reset := 0, by_ := RClass.pc }
/-- TIM_EPOCH_FRAC.FRAC (R68). -/
def F.TIM_EPOCH_FRAC.FRAC : Fld := { reg := .TIM_EPOCH_FRAC, hi := 39, lo := 0, acc := .RW, reset := 0, by_ := RClass.pc }
/-- TIM_EPOCH_SEC.SEC (R68). -/
def F.TIM_EPOCH_SEC.SEC : Fld := { reg := .TIM_EPOCH_SEC, hi := 39, lo := 0, acc := .RW, reset := 0, by_ := RClass.pc }
/-- TIM_STRIDE_CFG.S (R68). -/
def F.TIM_STRIDE_CFG.S : Fld := { reg := .TIM_STRIDE_CFG, hi := 39, lo := 28, acc := .RO, reset := 0, by_ := RClass.pc }
/-- TIM_STRIDE_CFG.SLEW (R68). -/
def F.TIM_STRIDE_CFG.SLEW : Fld := { reg := .TIM_STRIDE_CFG, hi := 27, lo := 21, acc := .RW, reset := 0x14, by_ := RClass.pc, reserved := [(101, 127)] }
/-- TIM_STRIDE_CFG.P (R68). -/
def F.TIM_STRIDE_CFG.P : Fld := { reg := .TIM_STRIDE_CFG, hi := 10, lo := 0, acc := .RW, reset := 0x280, by_ := RClass.pc, reserved := [(0, 639), (1025, 2047)] }
/-- TIM_STRIDE_LO.NUM (R68). -/
def F.TIM_STRIDE_LO.NUM : Fld := { reg := .TIM_STRIDE_LO, hi := 39, lo := 0, acc := .RO, reset := 0, by_ := RClass.pc }
/-- TIM_STRIDE_HI.NUM (R68). -/
def F.TIM_STRIDE_HI.NUM : Fld := { reg := .TIM_STRIDE_HI, hi := 39, lo := 0, acc := .RO, reset := 0, by_ := RClass.pc }
/-- TIM_STRIDE_OFS.K (R68). -/
def F.TIM_STRIDE_OFS.K : Fld := { reg := .TIM_STRIDE_OFS, hi := 39, lo := 0, acc := .RO, reset := 0, by_ := RClass.pc }
/-- TIM_ALIGN.ERR_PS (R68). -/
def F.TIM_ALIGN.ERR_PS : Fld := { reg := .TIM_ALIGN, hi := 39, lo := 16, acc := .RO, reset := 0, by_ := RClass.never }
/-- TIM_ALIGN.TOL_PS (R68). -/
def F.TIM_ALIGN.TOL_PS : Fld := { reg := .TIM_ALIGN, hi := 15, lo := 0, acc := .RW, reset := 0x64, by_ := RClass.pc }
/-- TIM_PPS_CFG.PPS_IN_EDGE (R68). -/
def F.TIM_PPS_CFG.PPS_IN_EDGE : Fld := { reg := .TIM_PPS_CFG, hi := 39, lo := 39, acc := .RW, reset := 0, by_ := RClass.pc }
/-- TIM_PPS_CFG.WIDTH (R68). -/
def F.TIM_PPS_CFG.WIDTH : Fld := { reg := .TIM_PPS_CFG, hi := 29, lo := 0, acc := .RW, reset := 0x5f5e100, by_ := RClass.pc, reserved := [(1000000000, 1073741823)] }
/-- TIM_PPS_IN_FRAC.FRAC (R68). -/
def F.TIM_PPS_IN_FRAC.FRAC : Fld := { reg := .TIM_PPS_IN_FRAC, hi := 39, lo := 0, acc := .RO, reset := 0, by_ := RClass.pc }
/-- TIM_PPS_IN_SEC.SEC (R68). -/
def F.TIM_PPS_IN_SEC.SEC : Fld := { reg := .TIM_PPS_IN_SEC, hi := 39, lo := 0, acc := .RO, reset := 0, by_ := RClass.pc }
/-- TIM_TL_CFG.ROLE (R68). -/
def F.TIM_TL_CFG.ROLE : Fld := { reg := .TIM_TL_CFG, hi := 39, lo := 38, acc := .RW, reset := 0, by_ := RClass.pc, reserved := [(3, 3)] }
/-- TIM_TL_CFG.RING_N (R68). -/
def F.TIM_TL_CFG.RING_N : Fld := { reg := .TIM_TL_CFG, hi := 37, lo := 33, acc := .RW, reset := 2, by_ := RClass.pc, reserved := [(0, 1), (17, 31)] }
/-- TIM_TL_CFG.HOPDLY (R68). -/
def F.TIM_TL_CFG.HOPDLY : Fld := { reg := .TIM_TL_CFG, hi := 23, lo := 0, acc := .RW, reset := 0, by_ := RClass.pc }
/-- TIM_TL_STAT.RING_DLY (R68). -/
def F.TIM_TL_STAT.RING_DLY : Fld := { reg := .TIM_TL_STAT, hi := 39, lo := 16, acc := .RO, reset := 0, by_ := RClass.never }
/-- TIM_TL_STAT.POSITION (R68). -/
def F.TIM_TL_STAT.POSITION : Fld := { reg := .TIM_TL_STAT, hi := 15, lo := 11, acc := .RO, reset := 0, by_ := RClass.never }
/-- TIM_TL_STAT.CRC_ERR (R68). -/
def F.TIM_TL_STAT.CRC_ERR : Fld := { reg := .TIM_TL_STAT, hi := 9, lo := 0, acc := .RC, reset := 0, by_ := RClass.pcw }
/-- TIM_TL_OFS.OFS (R68). -/
def F.TIM_TL_OFS.OFS : Fld := { reg := .TIM_TL_OFS, hi := 39, lo := 0, acc := .RO, reset := 0, by_ := RClass.never }
/-- TIM_TS_INFO.VALID (R68). -/
def F.TIM_TS_INFO.VALID : Fld := { reg := .TIM_TS_INFO, hi := 39, lo := 39, acc := .RC, reset := 0, by_ := RClass.pcw }
/-- TIM_TS_INFO.PORT (R68). -/
def F.TIM_TS_INFO.PORT : Fld := { reg := .TIM_TS_INFO, hi := 38, lo := 38, acc := .RO, reset := 0, by_ := RClass.pcw }
/-- TIM_TS_INFO.DIR (R68). -/
def F.TIM_TS_INFO.DIR : Fld := { reg := .TIM_TS_INFO, hi := 37, lo := 37, acc := .RO, reset := 0, by_ := RClass.pcw }
/-- TIM_TS_INFO.MSG (R68). -/
def F.TIM_TS_INFO.MSG : Fld := { reg := .TIM_TS_INFO, hi := 36, lo := 33, acc := .RO, reset := 0, by_ := RClass.pcw }
/-- TIM_TS_INFO.SEQ (R68). -/
def F.TIM_TS_INFO.SEQ : Fld := { reg := .TIM_TS_INFO, hi := 32, lo := 17, acc := .RO, reset := 0, by_ := RClass.pcw }
/-- TIM_TS_FRAC.FRAC (R68). -/
def F.TIM_TS_FRAC.FRAC : Fld := { reg := .TIM_TS_FRAC, hi := 39, lo := 0, acc := .RO, reset := 0, by_ := RClass.pcw }
/-- TIM_TS_SEC.SEC (R68). -/
def F.TIM_TS_SEC.SEC : Fld := { reg := .TIM_TS_SEC, hi := 39, lo := 0, acc := .RO, reset := 0, by_ := RClass.pcw }
/-- PWR_DEV_REQ.CMD (R404). -/
def F.PWR_DEV_REQ.CMD : Fld := { reg := .PWR_DEV_REQ, hi := 39, lo := 37, acc := .WO, reset := 0, by_ := RClass.never }
/-- PWR_DEV_STAT.STATE (R404). -/
def F.PWR_DEV_STAT.STATE : Fld := { reg := .PWR_DEV_STAT, hi := 39, lo := 32, acc := .RO, reset := 0, by_ := RClass.never }
/-- PWR_DEV_STAT.BUSY (R404). -/
def F.PWR_DEV_STAT.BUSY : Fld := { reg := .PWR_DEV_STAT, hi := 31, lo := 28, acc := .RO, reset := 0, by_ := RClass.never }
/-- PWR_DEV_STAT.RESULT (R404). -/
def F.PWR_DEV_STAT.RESULT : Fld := { reg := .PWR_DEV_STAT, hi := 27, lo := 24, acc := .RO, reset := 0, by_ := RClass.pcw }
/-- PWR_CTRL.ENTRY_TIMEOUT (R404). -/
def F.PWR_CTRL.ENTRY_TIMEOUT : Fld := { reg := .PWR_CTRL, hi := 39, lo := 24, acc := .RW, reset := 0x2710, by_ := RClass.pc }
/-- PWR_REG_STAT.RAIL (R404). -/
def F.PWR_REG_STAT.RAIL : Fld := { reg := .PWR_REG_STAT, hi := 39, lo := 34, acc := .RO, reset := 0, by_ := RClass.pc }
/-- PWR_REG_STAT.CMD (R404). -/
def F.PWR_REG_STAT.CMD : Fld := { reg := .PWR_REG_STAT, hi := 33, lo := 26, acc := .RO, reset := 0, by_ := RClass.pc }
/-- PWR_REG_STAT.RES (R404). -/
def F.PWR_REG_STAT.RES : Fld := { reg := .PWR_REG_STAT, hi := 25, lo := 23, acc := .RO, reset := 0, by_ := RClass.pc }
/-- PWR_REG_STAT.TIMEOUTS (R404). -/
def F.PWR_REG_STAT.TIMEOUTS : Fld := { reg := .PWR_REG_STAT, hi := 22, lo := 16, acc := .RC, reset := 0, by_ := RClass.pc }
/-- PWR_REG_STAT.STATUS_WORD (R404). -/
def F.PWR_REG_STAT.STATUS_WORD : Fld := { reg := .PWR_REG_STAT, hi := 15, lo := 0, acc := .RO, reset := 0, by_ := RClass.pc }
/-- PWR_TEMP.OSC_T (R404). -/
def F.PWR_TEMP.OSC_T : Fld := { reg := .PWR_TEMP, hi := 39, lo := 28, acc := .RO, reset := 0, by_ := RClass.never }
/-- PWR_TEMP.CASE_T (R404). -/
def F.PWR_TEMP.CASE_T : Fld := { reg := .PWR_TEMP, hi := 27, lo := 16, acc := .RO, reset := 0, by_ := RClass.never }
/-- PWR_TEMP.DIE_MAX_T (R404). -/
def F.PWR_TEMP.DIE_MAX_T : Fld := { reg := .PWR_TEMP, hi := 15, lo := 4, acc := .RO, reset := 0, by_ := RClass.never }
/-- PWR_VIN.VIN (R404). -/
def F.PWR_VIN.VIN : Fld := { reg := .PWR_VIN, hi := 39, lo := 24, acc := .RO, reset := 0, by_ := RClass.never }
/-- PWR_VIN.IIN (R404). -/
def F.PWR_VIN.IIN : Fld := { reg := .PWR_VIN, hi := 23, lo := 8, acc := .RO, reset := 0, by_ := RClass.never }
/-- RST_CMD.CMD (R404). -/
def F.RST_CMD.CMD : Fld := { reg := .RST_CMD, hi := 39, lo := 37, acc := .WO, reset := 0, by_ := RClass.never }
/-- RST_CMD.REGION (R404). -/
def F.RST_CMD.REGION : Fld := { reg := .RST_CMD, hi := 36, lo := 35, acc := .WO, reset := 0, by_ := RClass.never }
/-- RST_CMD.ZONE (R404). -/
def F.RST_CMD.ZONE : Fld := { reg := .RST_CMD, hi := 34, lo := 31, acc := .WO, reset := 0, by_ := RClass.never }
/-- RST_CMD.KEY (R404). -/
def F.RST_CMD.KEY : Fld := { reg := .RST_CMD, hi := 30, lo := 15, acc := .WO, reset := 0, by_ := RClass.never }
/-- RST_STATUS.P_DONE (R404). -/
def F.RST_STATUS.P_DONE : Fld := { reg := .RST_STATUS, hi := 39, lo := 39, acc := .RO, reset := 0, by_ := RClass.never }
/-- RST_STATUS.BUSY (R404). -/
def F.RST_STATUS.BUSY : Fld := { reg := .RST_STATUS, hi := 38, lo := 38, acc := .RO, reset := 0, by_ := RClass.never }
/-- RST_STATUS.REGION_BUSY (R404). -/
def F.RST_STATUS.REGION_BUSY : Fld := { reg := .RST_STATUS, hi := 37, lo := 34, acc := .RO, reset := 0, by_ := RClass.never }
/-- RST_STATUS.KEY_ERR (R404). -/
def F.RST_STATUS.KEY_ERR : Fld := { reg := .RST_STATUS, hi := 33, lo := 33, acc := .W1C, reset := 0, by_ := RClass.pc }
/-- RST_CAUSE.CLASS (R404). -/
def F.RST_CAUSE.CLASS : Fld := { reg := .RST_CAUSE, hi := 39, lo := 37, acc := .RO, reset := 1, by_ := RClass.pOnly }
/-- RST_CAUSE.SRC (R404). -/
def F.RST_CAUSE.SRC : Fld := { reg := .RST_CAUSE, hi := 36, lo := 33, acc := .RO, reset := 1, by_ := RClass.pOnly }
/-- RST_CAUSE.REGION (R404). -/
def F.RST_CAUSE.REGION : Fld := { reg := .RST_CAUSE, hi := 32, lo := 31, acc := .RO, reset := 0, by_ := RClass.pOnly }
/-- RST_CAUSE.ZONE (R404). -/
def F.RST_CAUSE.ZONE : Fld := { reg := .RST_CAUSE, hi := 30, lo := 27, acc := .RO, reset := 0, by_ := RClass.pOnly }
/-- RST_CAUSE.WARM_COUNT (R404). -/
def F.RST_CAUSE.WARM_COUNT : Fld := { reg := .RST_CAUSE, hi := 26, lo := 16, acc := .RO, reset := 0, by_ := RClass.pOnly }
/-- NOC_CTRL.LEASE_IDLE (R311). -/
def F.NOC_CTRL.LEASE_IDLE : Fld := { reg := .NOC_CTRL, hi := 9, lo := 0, acc := .RW, reset := 0x64, by_ := RClass.pc }
/-- NOC_SWAP.CMD (R311). -/
def F.NOC_SWAP.CMD : Fld := { reg := .NOC_SWAP, hi := 39, lo := 38, acc := .WO, reset := 0, by_ := RClass.never }
/-- NOC_SWAP.MODE (R311). -/
def F.NOC_SWAP.MODE : Fld := { reg := .NOC_SWAP, hi := 37, lo := 37, acc := .RW, reset := 0, by_ := RClass.pc }
/-- NOC_SWAP.TIMEOUT (R311). -/
def F.NOC_SWAP.TIMEOUT : Fld := { reg := .NOC_SWAP, hi := 9, lo := 0, acc := .RW, reset := 0x64, by_ := RClass.pc }
/-- NOC_SWAP_STAT.STATE (R311). -/
def F.NOC_SWAP_STAT.STATE : Fld := { reg := .NOC_SWAP_STAT, hi := 39, lo := 37, acc := .RO, reset := 0, by_ := RClass.pc }
/-- NOC_SWAP_STAT.RES (R311). -/
def F.NOC_SWAP_STAT.RES : Fld := { reg := .NOC_SWAP_STAT, hi := 36, lo := 34, acc := .RO, reset := 0, by_ := RClass.pc }
/-- NOC_SWAP_STAT.SRC (R311). -/
def F.NOC_SWAP_STAT.SRC : Fld := { reg := .NOC_SWAP_STAT, hi := 33, lo := 28, acc := .RO, reset := 0, by_ := RClass.pc }
/-- NOC_SWAP_STAT.DST (R311). -/
def F.NOC_SWAP_STAT.DST : Fld := { reg := .NOC_SWAP_STAT, hi := 27, lo := 22, acc := .RO, reset := 0, by_ := RClass.pc }
/-- NOC_SWAP_STAT.RULE (R311). -/
def F.NOC_SWAP_STAT.RULE : Fld := { reg := .NOC_SWAP_STAT, hi := 21, lo := 19, acc := .RO, reset := 0, by_ := RClass.pc }
/-- NOC_SWAP_STAT.COUNT (R311). -/
def F.NOC_SWAP_STAT.COUNT : Fld := { reg := .NOC_SWAP_STAT, hi := 18, lo := 0, acc := .RO, reset := 0, by_ := RClass.pc }
/-- ERR_FRZ_CFG.PIN_MODE (R426). -/
def F.ERR_FRZ_CFG.PIN_MODE : Fld := { reg := .ERR_FRZ_CFG, hi := 39, lo := 38, acc := .RW, reset := 1, by_ := RClass.pc, reserved := [(3, 3)] }
/-- ERR_FRZ_CFG.HALT (R426). -/
def F.ERR_FRZ_CFG.HALT : Fld := { reg := .ERR_FRZ_CFG, hi := 37, lo := 36, acc := .RW, reset := 0, by_ := RClass.pc }
/-- ERR_FRZ_CMD.CMD (R426). -/
def F.ERR_FRZ_CMD.CMD : Fld := { reg := .ERR_FRZ_CMD, hi := 39, lo := 37, acc := .WO, reset := 0, by_ := RClass.never }
/-- ERR_FRZ_CMD.RES (R426). -/
def F.ERR_FRZ_CMD.RES : Fld := { reg := .ERR_FRZ_CMD, hi := 36, lo := 34, acc := .RO, reset := 0, by_ := RClass.pcw }
/-- ERR_FRZ_STAT.CAUSE (R426). -/
def F.ERR_FRZ_STAT.CAUSE : Fld := { reg := .ERR_FRZ_STAT, hi := 39, lo := 37, acc := .RO, reset := 0, by_ := RClass.pc }
/-- ERR_FRZ_STAT.PARTIAL (R426). -/
def F.ERR_FRZ_STAT.PARTIAL : Fld := { reg := .ERR_FRZ_STAT, hi := 36, lo := 36, acc := .RO, reset := 0, by_ := RClass.pc }
/-- ERR_FRZ_STAT.LATE (R426). -/
def F.ERR_FRZ_STAT.LATE : Fld := { reg := .ERR_FRZ_STAT, hi := 35, lo := 35, acc := .W1C, reset := 0, by_ := RClass.pc }
/-- ERR_FRZ_STAT.STEP (R426). -/
def F.ERR_FRZ_STAT.STEP : Fld := { reg := .ERR_FRZ_STAT, hi := 34, lo := 24, acc := .RO, reset := 0, by_ := RClass.pc }
/-- ERR_FRZ_STAT.CODE (R426). -/
def F.ERR_FRZ_STAT.CODE : Fld := { reg := .ERR_FRZ_STAT, hi := 23, lo := 8, acc := .RO, reset := 0, by_ := RClass.pc }
/-- ERR_FRZ_STAT.REGION (R426). -/
def F.ERR_FRZ_STAT.REGION : Fld := { reg := .ERR_FRZ_STAT, hi := 7, lo := 6, acc := .RO, reset := 0, by_ := RClass.pc }
/-- ERR_FRZ_STAT.PENDING_AT (R426). -/
def F.ERR_FRZ_STAT.PENDING_AT : Fld := { reg := .ERR_FRZ_STAT, hi := 5, lo := 5, acc := .RO, reset := 0, by_ := RClass.never }
/-- ERR_FRZ_STRIDE.NUM (R426). -/
def F.ERR_FRZ_STRIDE.NUM : Fld := { reg := .ERR_FRZ_STRIDE, hi := 39, lo := 0, acc := .RO, reset := 0, by_ := RClass.pc }
/-- ERR_FRZ_MISSED.COUNT (R426). -/
def F.ERR_FRZ_MISSED.COUNT : Fld := { reg := .ERR_FRZ_MISSED, hi := 39, lo := 0, acc := .RO, reset := 0, by_ := RClass.pc }
/-- ERR_FRZ_TIME_FRAC.FRAC (R426). -/
def F.ERR_FRZ_TIME_FRAC.FRAC : Fld := { reg := .ERR_FRZ_TIME_FRAC, hi := 39, lo := 0, acc := .RW, reset := 0, by_ := RClass.pc }
/-- ERR_FRZ_TIME_SEC.SEC (R426). -/
def F.ERR_FRZ_TIME_SEC.SEC : Fld := { reg := .ERR_FRZ_TIME_SEC, hi := 39, lo := 0, acc := .RW, reset := 0, by_ := RClass.pc }
/-- ERR_RESUME_FRAC.FRAC (R426). -/
def F.ERR_RESUME_FRAC.FRAC : Fld := { reg := .ERR_RESUME_FRAC, hi := 39, lo := 0, acc := .RW, reset := 0, by_ := RClass.pc }
/-- ERR_RESUME_SEC.SEC (R426). -/
def F.ERR_RESUME_SEC.SEC : Fld := { reg := .ERR_RESUME_SEC, hi := 39, lo := 0, acc := .RW, reset := 0, by_ := RClass.pc }
/-- ERR_DEV_HEAD.COUNT (R426). -/
def F.ERR_DEV_HEAD.COUNT : Fld := { reg := .ERR_DEV_HEAD, hi := 8, lo := 0, acc := .RO, reset := 0, by_ := RClass.pc }
/-- ERR_DEV_TAIL.COUNT (R426). -/
def F.ERR_DEV_TAIL.COUNT : Fld := { reg := .ERR_DEV_TAIL, hi := 8, lo := 0, acc := .RW, reset := 0, by_ := RClass.pc }
/-- ERR_DEV_STAT.LOST (R426). -/
def F.ERR_DEV_STAT.LOST : Fld := { reg := .ERR_DEV_STAT, hi := 39, lo := 24, acc := .RC, reset := 0, by_ := RClass.pc }
/-- ERR_DEV_STAT.FULL (R426). -/
def F.ERR_DEV_STAT.FULL : Fld := { reg := .ERR_DEV_STAT, hi := 23, lo := 23, acc := .RO, reset := 0, by_ := RClass.never }
/-- ERR_DEV_STAT.EVT (R426). -/
def F.ERR_DEV_STAT.EVT : Fld := { reg := .ERR_DEV_STAT, hi := 22, lo := 22, acc := .W1C, reset := 0, by_ := RClass.pcw }
/-- ERR_RDO_ADDR.ADDR (R426). -/
def F.ERR_RDO_ADDR.ADDR : Fld := { reg := .ERR_RDO_ADDR, hi := 39, lo := 0, acc := .RO, reset := 0, by_ := RClass.pcw }
/-- ERR_INJ_TGT.REGION (R426). -/
def F.ERR_INJ_TGT.REGION : Fld := { reg := .ERR_INJ_TGT, hi := 39, lo := 38, acc := .RW, reset := 0, by_ := RClass.pc }
/-- ERR_INJ_TGT.TILE (R426). -/
def F.ERR_INJ_TGT.TILE : Fld := { reg := .ERR_INJ_TGT, hi := 37, lo := 34, acc := .RW, reset := 0, by_ := RClass.pc }
/-- ERR_INJ_TGT.CLUSTER (R426). -/
def F.ERR_INJ_TGT.CLUSTER : Fld := { reg := .ERR_INJ_TGT, hi := 33, lo := 30, acc := .RW, reset := 0, by_ := RClass.pc }
/-- ERR_INJ_TGT.CELL (R426). -/
def F.ERR_INJ_TGT.CELL : Fld := { reg := .ERR_INJ_TGT, hi := 29, lo := 24, acc := .RW, reset := 0, by_ := RClass.pc }
/-- ERR_INJ_ARG.ARG (R426). -/
def F.ERR_INJ_ARG.ARG : Fld := { reg := .ERR_INJ_ARG, hi := 39, lo := 0, acc := .RW, reset := 0, by_ := RClass.pc }
/-- ERR_INJ_CTRL.GO (R426). -/
def F.ERR_INJ_CTRL.GO : Fld := { reg := .ERR_INJ_CTRL, hi := 39, lo := 39, acc := .WO, reset := 0, by_ := RClass.never }
/-- ERR_INJ_CTRL.ARMED (R426). -/
def F.ERR_INJ_CTRL.ARMED : Fld := { reg := .ERR_INJ_CTRL, hi := 38, lo := 38, acc := .RO, reset := 0, by_ := RClass.never }
/-- ERR_INJ_CTRL.KIND (R426). -/
def F.ERR_INJ_CTRL.KIND : Fld := { reg := .ERR_INJ_CTRL, hi := 37, lo := 33, acc := .RW, reset := 0, by_ := RClass.pc }
/-- ERR_INJ_CTRL.RES (R426). -/
def F.ERR_INJ_CTRL.RES : Fld := { reg := .ERR_INJ_CTRL, hi := 32, lo := 30, acc := .RO, reset := 0, by_ := RClass.pc }
/-- ERR_POL.QUIET (R426). -/
def F.ERR_POL.QUIET : Fld := { reg := .ERR_POL, hi := 3, lo := 3, acc := .RW, reset := 0, by_ := RClass.pc }
/-- ERR_POL.ACTION (R426). -/
def F.ERR_POL.ACTION : Fld := { reg := .ERR_POL, hi := 2, lo := 0, acc := .RW, reset := 0, by_ := RClass.pc, reserved := [(5, 7)] }
/-- ERR_DEV_LOG.SLOT (R426). -/
def F.ERR_DEV_LOG.SLOT : Fld := { reg := .ERR_DEV_LOG, hi := 39, lo := 0, acc := .RO, reset := 0, by_ := RClass.pc }
/-- SE_CTRL.RESET (R178). -/
def F.SE_CTRL.RESET : Fld := { reg := .SE_CTRL, hi := 2, lo := 2, acc := .WO, reset := 0, by_ := RClass.never }
/-- SE_CTRL.CMD (R178). -/
def F.SE_CTRL.CMD : Fld := { reg := .SE_CTRL, hi := 1, lo := 0, acc := .WO, reset := 0, by_ := RClass.never }
/-- SE_STATUS.STATE (R178). -/
def F.SE_STATUS.STATE : Fld := { reg := .SE_STATUS, hi := 39, lo := 37, acc := .RO, reset := 0, by_ := RClass.pcwgze }
/-- SE_STATUS.FBANK (R178). -/
def F.SE_STATUS.FBANK : Fld := { reg := .SE_STATUS, hi := 36, lo := 36, acc := .RO, reset := 0, by_ := RClass.pcwgze }
/-- SE_STATUS.BP (R178). -/
def F.SE_STATUS.BP : Fld := { reg := .SE_STATUS, hi := 35, lo := 35, acc := .RO, reset := 0, by_ := RClass.pcwgze }
/-- SE_STATUS.EVT (R178). -/
def F.SE_STATUS.EVT : Fld := { reg := .SE_STATUS, hi := 34, lo := 32, acc := .W1C, reset := 0, by_ := RClass.pcwgze }
/-- SE_BOOT.BOOT_RUN (R178). -/
def F.SE_BOOT.BOOT_RUN : Fld := { reg := .SE_BOOT, hi := 39, lo := 39, acc := .RW, reset := 0, by_ := RClass.pcwgz, configured := true }
/-- SE_BOOT.ENTRY (R178). -/
def F.SE_BOOT.ENTRY : Fld := { reg := .SE_BOOT, hi := 38, lo := 25, acc := .RW, reset := 0, by_ := RClass.pcwgz, configured := true }
/-- SE_BOOT.VBASE (R178). -/
def F.SE_BOOT.VBASE : Fld := { reg := .SE_BOOT, hi := 24, lo := 11, acc := .RW, reset := 0, by_ := RClass.pcwgz, configured := true }
/-- SE_PC.PC (R178). -/
def F.SE_PC.PC : Fld := { reg := .SE_PC, hi := 13, lo := 0, acc := .RW, reset := 0, by_ := RClass.pcwgze }
/-- SE_FAULT.CAUSE (R178). -/
def F.SE_FAULT.CAUSE : Fld := { reg := .SE_FAULT, hi := 39, lo := 36, acc := .RO, reset := 0, by_ := RClass.pcwgze }
/-- SE_FAULT.BANK (R178). -/
def F.SE_FAULT.BANK : Fld := { reg := .SE_FAULT, hi := 35, lo := 35, acc := .RO, reset := 0, by_ := RClass.pcwgze }
/-- SE_FAULT.PC (R178). -/
def F.SE_FAULT.PC : Fld := { reg := .SE_FAULT, hi := 13, lo := 0, acc := .RO, reset := 0, by_ := RClass.pcwgze }
/-- SE_OVF_PC.BANK (R178). -/
def F.SE_OVF_PC.BANK : Fld := { reg := .SE_OVF_PC, hi := 14, lo := 14, acc := .RO, reset := 0, by_ := RClass.pcwgze }
/-- SE_OVF_PC.PC (R178). -/
def F.SE_OVF_PC.PC : Fld := { reg := .SE_OVF_PC, hi := 13, lo := 0, acc := .RO, reset := 0, by_ := RClass.pcwgze }
/-- SE_IRQ_EN.EN (R178). -/
def F.SE_IRQ_EN.EN : Fld := { reg := .SE_IRQ_EN, hi := 31, lo := 0, acc := .RW, reset := 0, by_ := RClass.pcwgze }
/-- SE_IRQ_CLASS.FAST (R178). -/
def F.SE_IRQ_CLASS.FAST : Fld := { reg := .SE_IRQ_CLASS, hi := 31, lo := 0, acc := .RW, reset := 0, by_ := RClass.pcwgze }
/-- SE_IRQ_PEND.EDGE (R178). -/
def F.SE_IRQ_PEND.EDGE : Fld := { reg := .SE_IRQ_PEND, hi := 31, lo := 16, acc := .W1C, reset := 0, by_ := RClass.pcwgze }
/-- SE_IRQ_PEND.LEVEL (R178). -/
def F.SE_IRQ_PEND.LEVEL : Fld := { reg := .SE_IRQ_PEND, hi := 15, lo := 0, acc := .RO, reset := 0, by_ := RClass.never }
/-- SE_DOORBELL.VALUE (R178). -/
def F.SE_DOORBELL.VALUE : Fld := { reg := .SE_DOORBELL, hi := 39, lo := 0, acc := .RW, reset := 0, by_ := RClass.pcwgze }
/-- SE_HURDLE.EN (R178). -/
def F.SE_HURDLE.EN : Fld := { reg := .SE_HURDLE, hi := 39, lo := 39, acc := .RW, reset := 0, by_ := RClass.pcwgze }
/-- SE_HURDLE.MISS (R178). -/
def F.SE_HURDLE.MISS : Fld := { reg := .SE_HURDLE, hi := 23, lo := 0, acc := .RC, reset := 0, by_ := RClass.pcwgze }
/-- SE_STALL.CYCLES (R178). -/
def F.SE_STALL.CYCLES : Fld := { reg := .SE_STALL, hi := 39, lo := 0, acc := .RC, reset := 0, by_ := RClass.pcwgze }
/-- SUP_WDOG.EN (R178). -/
def F.SUP_WDOG.EN : Fld := { reg := .SUP_WDOG, hi := 39, lo := 39, acc := .RWL, reset := 0, by_ := RClass.pc }
/-- SUP_WDOG.LOCK (R178). -/
def F.SUP_WDOG.LOCK : Fld := { reg := .SUP_WDOG, hi := 38, lo := 38, acc := .W1S, reset := 0, by_ := RClass.pc }
/-- SUP_WDOG.TIMEOUT (R178). -/
def F.SUP_WDOG.TIMEOUT : Fld := { reg := .SUP_WDOG, hi := 31, lo := 0, acc := .RWL, reset := 0, by_ := RClass.pc }
/-- SUP_WDOG_KICK.ANY (R178). -/
def F.SUP_WDOG_KICK.ANY : Fld := { reg := .SUP_WDOG_KICK, hi := 39, lo := 0, acc := .WO, reset := 0, by_ := RClass.never }
/-- SUP_NSTAT.NERR (R178). -/
def F.SUP_NSTAT.NERR : Fld := { reg := .SUP_NSTAT, hi := 39, lo := 39, acc := .W1C, reset := 0, by_ := RClass.pcwge }
/-- SUP_NSTAT.STATUS (R178). -/
def F.SUP_NSTAT.STATUS : Fld := { reg := .SUP_NSTAT, hi := 38, lo := 35, acc := .RO, reset := 0, by_ := RClass.pcwge }
/-- SUP_NSTAT.OUTSTANDING (R178). -/
def F.SUP_NSTAT.OUTSTANDING : Fld := { reg := .SUP_NSTAT, hi := 5, lo := 0, acc := .RO, reset := 0, by_ := RClass.never }
/-- SE_DMA_DESC.GO (R178). -/
def F.SE_DMA_DESC.GO : Fld := { reg := .SE_DMA_DESC, hi := 39, lo := 39, acc := .WO, reset := 0, by_ := RClass.never }
/-- SE_DMA_DESC.ABORT (R178). -/
def F.SE_DMA_DESC.ABORT : Fld := { reg := .SE_DMA_DESC, hi := 38, lo := 38, acc := .WO, reset := 0, by_ := RClass.never }
/-- SE_DMA_DESC.ADDR (R178). -/
def F.SE_DMA_DESC.ADDR : Fld := { reg := .SE_DMA_DESC, hi := 16, lo := 0, acc := .RW, reset := 0, by_ := RClass.pcwgze }
/-- SE_DMA_STAT.BUSY (R178). -/
def F.SE_DMA_STAT.BUSY : Fld := { reg := .SE_DMA_STAT, hi := 39, lo := 39, acc := .RO, reset := 0, by_ := RClass.pcwgze }
/-- SE_DMA_STAT.REFUSED (R178). -/
def F.SE_DMA_STAT.REFUSED : Fld := { reg := .SE_DMA_STAT, hi := 38, lo := 38, acc := .W1C, reset := 0, by_ := RClass.pcwgze }
/-- SE_DMA_STAT.ERR (R178). -/
def F.SE_DMA_STAT.ERR : Fld := { reg := .SE_DMA_STAT, hi := 37, lo := 37, acc := .W1C, reset := 0, by_ := RClass.pcwgze }
/-- SE_DMA_STAT.STATUS (R178). -/
def F.SE_DMA_STAT.STATUS : Fld := { reg := .SE_DMA_STAT, hi := 36, lo := 33, acc := .RO, reset := 0, by_ := RClass.pcwgze }
/-- SE_DMA_STAT.CUR (R178). -/
def F.SE_DMA_STAT.CUR : Fld := { reg := .SE_DMA_STAT, hi := 16, lo := 0, acc := .RO, reset := 0, by_ := RClass.pcwgze }
/-- SE_DBG_SEL.BANK (R178). -/
def F.SE_DBG_SEL.BANK : Fld := { reg := .SE_DBG_SEL, hi := 39, lo := 39, acc := .RW, reset := 0, by_ := RClass.pc }
/-- SE_DBG_SEL.REG (R178). -/
def F.SE_DBG_SEL.REG : Fld := { reg := .SE_DBG_SEL, hi := 5, lo := 0, acc := .RW, reset := 0, by_ := RClass.pc, reserved := [(61, 63)] }
/-- SE_DBG_DATA.DATA (R178). -/
def F.SE_DBG_DATA.DATA : Fld := { reg := .SE_DBG_DATA, hi := 39, lo := 0, acc := .RW, reset := 0, by_ := RClass.never }
/-- SE_IMEM.WORD (R146). -/
def F.SE_IMEM.WORD : Fld := { reg := .SE_IMEM, hi := 39, lo := 0, acc := .RW, reset := 0, by_ := RClass.never }
/-- SUP_IMEM.WORD (R146). -/
def F.SUP_IMEM.WORD : Fld := { reg := .SUP_IMEM, hi := 39, lo := 0, acc := .RW, reset := 0, by_ := RClass.never }
/-- SUP_DMEM.WORD (R172). -/
def F.SUP_DMEM.WORD : Fld := { reg := .SUP_DMEM, hi := 39, lo := 0, acc := .RW, reset := 0, by_ := RClass.never }
/-- TRC_CTRL.SINK (R208). -/
def F.TRC_CTRL.SINK : Fld := { reg := .TRC_CTRL, hi := 39, lo := 38, acc := .RW, reset := 0, by_ := RClass.pcwg, reserved := [(3, 3)] }
/-- TRC_CTRL.MODE (R208). -/
def F.TRC_CTRL.MODE : Fld := { reg := .TRC_CTRL, hi := 37, lo := 37, acc := .RW, reset := 0, by_ := RClass.pcwg }
/-- TRC_CTRL.CYC_EN (R208). -/
def F.TRC_CTRL.CYC_EN : Fld := { reg := .TRC_CTRL, hi := 36, lo := 36, acc := .RW, reset := 0, by_ := RClass.pcwg }
/-- TRC_CTRL.SYNC_INT (R208). -/
def F.TRC_CTRL.SYNC_INT : Fld := { reg := .TRC_CTRL, hi := 35, lo := 24, acc := .RW, reset := 0x10, by_ := RClass.pcwg }
/-- TRC_CTRL.THR (R208). -/
def F.TRC_CTRL.THR : Fld := { reg := .TRC_CTRL, hi := 22, lo := 12, acc := .RW, reset := 0x400, by_ := RClass.pcwg }
/-- TRC_SRC.STALL (R208). -/
def F.TRC_SRC.STALL : Fld := { reg := .TRC_SRC, hi := 33, lo := 17, acc := .RW, reset := 0, by_ := RClass.pcwg }
/-- TRC_SRC.EN (R208). -/
def F.TRC_SRC.EN : Fld := { reg := .TRC_SRC, hi := 16, lo := 0, acc := .RW, reset := 0, by_ := RClass.pcwg }
/-- TRC_STATUS.BUSY (R208). -/
def F.TRC_STATUS.BUSY : Fld := { reg := .TRC_STATUS, hi := 22, lo := 22, acc := .RO, reset := 0, by_ := RClass.never }
/-- TRC_STATUS.CFG_ERR (R208). -/
def F.TRC_STATUS.CFG_ERR : Fld := { reg := .TRC_STATUS, hi := 21, lo := 21, acc := .W1C, reset := 0, by_ := RClass.pcwg }
/-- TRC_STATUS.SINK_ERR (R208). -/
def F.TRC_STATUS.SINK_ERR : Fld := { reg := .TRC_STATUS, hi := 20, lo := 20, acc := .W1C, reset := 0, by_ := RClass.pcwg }
/-- TRC_STATUS.WRAPPED (R208). -/
def F.TRC_STATUS.WRAPPED : Fld := { reg := .TRC_STATUS, hi := 19, lo := 19, acc := .W1C, reset := 0, by_ := RClass.pcwg }
/-- TRC_STATUS.DED (R208). -/
def F.TRC_STATUS.DED : Fld := { reg := .TRC_STATUS, hi := 18, lo := 18, acc := .W1C, reset := 0, by_ := RClass.pcwg }
/-- TRC_STATUS.OVF (R208). -/
def F.TRC_STATUS.OVF : Fld := { reg := .TRC_STATUS, hi := 16, lo := 0, acc := .W1C, reset := 0, by_ := RClass.pcwg }
/-- TRC_WP.COUNT (R208). -/
def F.TRC_WP.COUNT : Fld := { reg := .TRC_WP, hi := 39, lo := 0, acc := .RO, reset := 0, by_ := RClass.pcwg }
/-- TRC_RP.COUNT (R208). -/
def F.TRC_RP.COUNT : Fld := { reg := .TRC_RP, hi := 39, lo := 0, acc := .RW, reset := 0, by_ := RClass.pcwg }
/-- TRC_MEM_BASE.ADDR (R208). -/
def F.TRC_MEM_BASE.ADDR : Fld := { reg := .TRC_MEM_BASE, hi := 39, lo := 6, acc := .RW, reset := 0, by_ := RClass.pcwg }
/-- TRC_MEM_LEN.BLOCKS (R208). -/
def F.TRC_MEM_LEN.BLOCKS : Fld := { reg := .TRC_MEM_LEN, hi := 31, lo := 0, acc := .RW, reset := 0, by_ := RClass.pcwg }
/-- TRC_DROP.BYTES (R208). -/
def F.TRC_DROP.BYTES : Fld := { reg := .TRC_DROP, hi := 39, lo := 0, acc := .RC, reset := 0, by_ := RClass.pcwg }
/-- TRC_STALL.CYCLES (R208). -/
def F.TRC_STALL.CYCLES : Fld := { reg := .TRC_STALL, hi := 39, lo := 0, acc := .RC, reset := 0, by_ := RClass.pcwg }
/-- TRC_BUF.WORD (R203). -/
def F.TRC_BUF.WORD : Fld := { reg := .TRC_BUF, hi := 39, lo := 0, acc := .RO, reset := 0, by_ := RClass.never }
/-- RTE_CTRL.CONT_POL (R120). -/
def F.RTE_CTRL.CONT_POL : Fld := { reg := .RTE_CTRL, hi := 1, lo := 0, acc := .RW, reset := 0, by_ := RClass.pc, reserved := [(2, 3)] }
/-- RTE_STATUS.XSEL_RSV (R120). -/
def F.RTE_STATUS.XSEL_RSV : Fld := { reg := .RTE_STATUS, hi := 3, lo := 3, acc := .W1C, reset := 0, by_ := RClass.pcwgz }
/-- RTE_STATUS.SPAR (R120). -/
def F.RTE_STATUS.SPAR : Fld := { reg := .RTE_STATUS, hi := 2, lo := 2, acc := .W1C, reset := 0, by_ := RClass.pcwgz }
/-- RTE_STATUS.LINE_MULTI (R120). -/
def F.RTE_STATUS.LINE_MULTI : Fld := { reg := .RTE_STATUS, hi := 1, lo := 1, acc := .W1C, reset := 0, by_ := RClass.pcwgz }
/-- RTE_STATUS.SEL_MULTI (R120). -/
def F.RTE_STATUS.SEL_MULTI : Fld := { reg := .RTE_STATUS, hi := 0, lo := 0, acc := .W1C, reset := 0, by_ := RClass.pcwgz }
/-- RTE_CONT_CNT.COUNT (R120). -/
def F.RTE_CONT_CNT.COUNT : Fld := { reg := .RTE_CONT_CNT, hi := 31, lo := 0, acc := .RC, reset := 0, by_ := RClass.pcwgz }
/-- RTE_FIRST.KIND (R120). -/
def F.RTE_FIRST.KIND : Fld := { reg := .RTE_FIRST, hi := 39, lo := 37, acc := .RO, reset := 0, by_ := RClass.pcwgz }
/-- RTE_FIRST.TILE (R120). -/
def F.RTE_FIRST.TILE : Fld := { reg := .RTE_FIRST, hi := 36, lo := 33, acc := .RO, reset := 0, by_ := RClass.pcwgz }
/-- RTE_FIRST.CLUSTER (R120). -/
def F.RTE_FIRST.CLUSTER : Fld := { reg := .RTE_FIRST, hi := 32, lo := 29, acc := .RO, reset := 0, by_ := RClass.pcwgz }
/-- RTE_FIRST.UNIT (R120). -/
def F.RTE_FIRST.UNIT : Fld := { reg := .RTE_FIRST, hi := 28, lo := 22, acc := .RO, reset := 0, by_ := RClass.pcwgz }
/-- RTE_FIRST.STEP (R120). -/
def F.RTE_FIRST.STEP : Fld := { reg := .RTE_FIRST, hi := 21, lo := 11, acc := .RO, reset := 0, by_ := RClass.pcwgz }
/-- RTE_FIRST.DRIVERS (R120). -/
def F.RTE_FIRST.DRIVERS : Fld := { reg := .RTE_FIRST, hi := 10, lo := 6, acc := .RO, reset := 0, by_ := RClass.pcwgz }
/-- RTE_FIRST_STRIDE.NUM (R120). -/
def F.RTE_FIRST_STRIDE.NUM : Fld := { reg := .RTE_FIRST_STRIDE, hi := 39, lo := 0, acc := .RO, reset := 0, by_ := RClass.pcwgz }
/-- RTE_DOM.DIV (R120). -/
def F.RTE_DOM.DIV : Fld := { reg := .RTE_DOM, hi := 39, lo := 23, acc := .RWQ, reset := 0, by_ := RClass.pcwgz, configured := true, reserved := [(65537, 131071)] }
/-- RTE_DOM.PHASE (R120). -/
def F.RTE_DOM.PHASE : Fld := { reg := .RTE_DOM, hi := 15, lo := 0, acc := .RWQ, reset := 0, by_ := RClass.pcwgz, configured := true }
/-- FAB_PIN_CFG.MODE (R120). -/
def F.FAB_PIN_CFG.MODE : Fld := { reg := .FAB_PIN_CFG, hi := 7, lo := 5, acc := .RWQ, reset := 0, by_ := RClass.pc, reserved := [(4, 7)] }
/-- FAB_PIN_CFG.PULL (R120). -/
def F.FAB_PIN_CFG.PULL : Fld := { reg := .FAB_PIN_CFG, hi := 4, lo := 3, acc := .RWQ, reset := 0, by_ := RClass.pc, reserved := [(3, 3)] }
/-- FAB_PIN_CFG.RCK (R120). -/
def F.FAB_PIN_CFG.RCK : Fld := { reg := .FAB_PIN_CFG, hi := 2, lo := 0, acc := .RWQ, reset := 0, by_ := RClass.pc }
/-- FAB_PIN_IN.LEVEL (R120). -/
def F.FAB_PIN_IN.LEVEL : Fld := { reg := .FAB_PIN_IN, hi := 15, lo := 0, acc := .RO, reset := 0, by_ := RClass.never }
/-- FAB_PIN_OUT.OE (R120). -/
def F.FAB_PIN_OUT.OE : Fld := { reg := .FAB_PIN_OUT, hi := 31, lo := 16, acc := .RO, reset := 0, by_ := RClass.never }
/-- FAB_PIN_OUT.LEVEL (R120). -/
def F.FAB_PIN_OUT.LEVEL : Fld := { reg := .FAB_PIN_OUT, hi := 15, lo := 0, acc := .RO, reset := 0, by_ := RClass.never }
/-- FAB_RCK_CFG.TABLE (R120). -/
def F.FAB_RCK_CFG.TABLE : Fld := { reg := .FAB_RCK_CFG, hi := 20, lo := 16, acc := .RW, reset := 0, by_ := RClass.pc, reserved := [(17, 31)] }
/-- FAB_RCK_CFG.SEL (R120). -/
def F.FAB_RCK_CFG.SEL : Fld := { reg := .FAB_RCK_CFG, hi := 15, lo := 12, acc := .RW, reset := 0, by_ := RClass.pc }
/-- FAB_RCK_CFG.SRC (R120). -/
def F.FAB_RCK_CFG.SRC : Fld := { reg := .FAB_RCK_CFG, hi := 10, lo := 8, acc := .RW, reset := 0, by_ := RClass.pc, reserved := [(6, 7)] }
/-- FAB_RCK_CFG.DIV_M1 (R120). -/
def F.FAB_RCK_CFG.DIV_M1 : Fld := { reg := .FAB_RCK_CFG, hi := 7, lo := 0, acc := .RW, reset := 0, by_ := RClass.pc }
/-- FAB_RCK_STAT.FORCED (R120). -/
def F.FAB_RCK_STAT.FORCED : Fld := { reg := .FAB_RCK_STAT, hi := 15, lo := 8, acc := .W1C, reset := 0, by_ := RClass.pcw }
/-- FAB_RCK_STAT.RUN (R120). -/
def F.FAB_RCK_STAT.RUN : Fld := { reg := .FAB_RCK_STAT, hi := 7, lo := 0, acc := .RO, reset := 0, by_ := RClass.never }
/-- TIM_GUN_PORT.SLOT (R68). -/
def F.TIM_GUN_PORT.SLOT : Fld := { reg := .TIM_GUN_PORT, hi := 39, lo := 0, acc := .WO, reset := 0, by_ := RClass.never }
/-- TIM_GUN_STAT.FULL (R68). -/
def F.TIM_GUN_STAT.FULL : Fld := { reg := .TIM_GUN_STAT, hi := 39, lo := 32, acc := .RC, reset := 0, by_ := RClass.pcwg }
/-- TIM_GUN_STAT.BAD_PUSH (R68). -/
def F.TIM_GUN_STAT.BAD_PUSH : Fld := { reg := .TIM_GUN_STAT, hi := 31, lo := 24, acc := .RC, reset := 0, by_ := RClass.pcwg }
/-- TIM_GUN_STAT.LATE (R68). -/
def F.TIM_GUN_STAT.LATE : Fld := { reg := .TIM_GUN_STAT, hi := 23, lo := 0, acc := .RC, reset := 0, by_ := RClass.pcwg }
/-- TIM_WAKE_GUARD.NS (R68). -/
def F.TIM_WAKE_GUARD.NS : Fld := { reg := .TIM_WAKE_GUARD, hi := 23, lo := 0, acc := .RW, reset := 0x3e8, by_ := RClass.pc }
/-- TIM_LOG_HEAD.IDX (R68). -/
def F.TIM_LOG_HEAD.IDX : Fld := { reg := .TIM_LOG_HEAD, hi := 5, lo := 0, acc := .RO, reset := 0, by_ := RClass.pcwg }
/-- TIM_LOG.SLOT (R67). -/
def F.TIM_LOG.SLOT : Fld := { reg := .TIM_LOG, hi := 39, lo := 0, acc := .RO, reset := 0, by_ := RClass.never }
/-- TRG_SEQ_CTRL.EN (R268). -/
def F.TRG_SEQ_CTRL.EN : Fld := { reg := .TRG_SEQ_CTRL, hi := 39, lo := 39, acc := .RW, reset := 0, by_ := RClass.pcwg }
/-- TRG_SEQ_CTRL.LAST (R268). -/
def F.TRG_SEQ_CTRL.LAST : Fld := { reg := .TRG_SEQ_CTRL, hi := 38, lo := 37, acc := .RW, reset := 0, by_ := RClass.pc }
/-- TRG_SEQ_CTRL.SETTLE (R268). -/
def F.TRG_SEQ_CTRL.SETTLE : Fld := { reg := .TRG_SEQ_CTRL, hi := 35, lo := 26, acc := .RW, reset := 0x40, by_ := RClass.pc, reserved := [(0, 15)] }
/-- TRG_SEQ_CTRL.STAGE (R268). -/
def F.TRG_SEQ_CTRL.STAGE : Fld := { reg := .TRG_SEQ_CTRL, hi := 25, lo := 24, acc := .RO, reset := 0, by_ := RClass.pcwg }
/-- TRG_SEQ_CTRL.CFG_ERR (R268). -/
def F.TRG_SEQ_CTRL.CFG_ERR : Fld := { reg := .TRG_SEQ_CTRL, hi := 23, lo := 23, acc := .W1C, reset := 0, by_ := RClass.pcwg }
/-- TRG_SEQ_STAT.FIRES (R268). -/
def F.TRG_SEQ_STAT.FIRES : Fld := { reg := .TRG_SEQ_STAT, hi := 39, lo := 20, acc := .RC, reset := 0, by_ := RClass.pcwg }
/-- TRG_SEQ_STAT.TIMEOUTS (R268). -/
def F.TRG_SEQ_STAT.TIMEOUTS : Fld := { reg := .TRG_SEQ_STAT, hi := 19, lo := 0, acc := .RC, reset := 0, by_ := RClass.pcwg }
/-- TRG_STATUS.LATE (R268). -/
def F.TRG_STATUS.LATE : Fld := { reg := .TRG_STATUS, hi := 39, lo := 24, acc := .RC, reset := 0, by_ := RClass.pcwg }
/-- TRG_STATUS.EVT (R268). -/
def F.TRG_STATUS.EVT : Fld := { reg := .TRG_STATUS, hi := 23, lo := 22, acc := .W1C, reset := 0, by_ := RClass.pcwg }
/-- TRG_TIN_CFG.EDGE (R268). -/
def F.TRG_TIN_CFG.EDGE : Fld := { reg := .TRG_TIN_CFG, hi := 7, lo := 0, acc := .RW, reset := 0, by_ := RClass.pc }
/-- TRG_TOUT_CFG.SEL (R268). -/
def F.TRG_TOUT_CFG.SEL : Fld := { reg := .TRG_TOUT_CFG, hi := 39, lo := 33, acc := .RW, reset := 0x7f, by_ := RClass.pc, reserved := [(65, 126)] }
/-- TRG_TOUT_CFG.MODE (R268). -/
def F.TRG_TOUT_CFG.MODE : Fld := { reg := .TRG_TOUT_CFG, hi := 32, lo := 32, acc := .RW, reset := 0, by_ := RClass.pc }
/-- TRG_TOUT_CFG.DELAY (R268). -/
def F.TRG_TOUT_CFG.DELAY : Fld := { reg := .TRG_TOUT_CFG, hi := 31, lo := 16, acc := .RW, reset := 0, by_ := RClass.pc }
/-- TRG_TOUT_CFG.WIDTH (R268). -/
def F.TRG_TOUT_CFG.WIDTH : Fld := { reg := .TRG_TOUT_CFG, hi := 15, lo := 0, acc := .RW, reset := 0x64, by_ := RClass.pc }
/-- TRG_BUS_SEL.SEL (R268). The spec names 0 to 64 and 127 only; 65 to 126 are taken as reserved. DESIGN CHOICE (log entry 75). -/
def F.TRG_BUS_SEL.SEL : Fld := { reg := .TRG_BUS_SEL, hi := 6, lo := 0, acc := .RW, reset := 0x7f, by_ := RClass.pc, reserved := [(65, 126)] }
/-- TRG_SW.INDEX (R268). -/
def F.TRG_SW.INDEX : Fld := { reg := .TRG_SW, hi := 1, lo := 0, acc := .WO, reset := 0, by_ := RClass.never }
/-- TRG_LOG_MASK0.EVENTS (R268). -/
def F.TRG_LOG_MASK0.EVENTS : Fld := { reg := .TRG_LOG_MASK0, hi := 39, lo := 0, acc := .RW, reset := 0, by_ := RClass.pc }
/-- TRG_LOG_MASK1.SEQ (R268). -/
def F.TRG_LOG_MASK1.SEQ : Fld := { reg := .TRG_LOG_MASK1, hi := 24, lo := 24, acc := .RW, reset := 0, by_ := RClass.pc }
/-- TRG_LOG_MASK1.EVENTS (R268). -/
def F.TRG_LOG_MASK1.EVENTS : Fld := { reg := .TRG_LOG_MASK1, hi := 23, lo := 0, acc := .RW, reset := 0, by_ := RClass.pc }
/-- TRG_LOG_HEAD.IDX (R268). -/
def F.TRG_LOG_HEAD.IDX : Fld := { reg := .TRG_LOG_HEAD, hi := 5, lo := 0, acc := .RO, reset := 0, by_ := RClass.pcwg }
/-- TRG_S_COND0.EVENTS (R268). -/
def F.TRG_S_COND0.EVENTS : Fld := { reg := .TRG_S_COND0, hi := 39, lo := 0, acc := .RW, reset := 0, by_ := RClass.pc }
/-- TRG_S_COND1.COUNT (R268). -/
def F.TRG_S_COND1.COUNT : Fld := { reg := .TRG_S_COND1, hi := 39, lo := 24, acc := .RW, reset := 1, by_ := RClass.pc }
/-- TRG_S_COND1.EVENTS (R268). -/
def F.TRG_S_COND1.EVENTS : Fld := { reg := .TRG_S_COND1, hi := 23, lo := 0, acc := .RW, reset := 0, by_ := RClass.pc }
/-- TRG_S_RST0.EVENTS (R268). -/
def F.TRG_S_RST0.EVENTS : Fld := { reg := .TRG_S_RST0, hi := 39, lo := 0, acc := .RW, reset := 0, by_ := RClass.pc }
/-- TRG_S_RST1.EVENTS (R268). -/
def F.TRG_S_RST1.EVENTS : Fld := { reg := .TRG_S_RST1, hi := 23, lo := 0, acc := .RW, reset := 0, by_ := RClass.pc }
/-- TRG_S_TIMEOUT.NS (R268). -/
def F.TRG_S_TIMEOUT.NS : Fld := { reg := .TRG_S_TIMEOUT, hi := 31, lo := 0, acc := .RW, reset := 0, by_ := RClass.pc }
/-- TRG_LOG.SLOT (R266). -/
def F.TRG_LOG.SLOT : Fld := { reg := .TRG_LOG, hi := 39, lo := 0, acc := .RO, reset := 0, by_ := RClass.never }
/-- ACQ_STATUS.EVT (R291). -/
def F.ACQ_STATUS.EVT : Fld := { reg := .ACQ_STATUS, hi := 5, lo := 0, acc := .W1C, reset := 0, by_ := RClass.pcwg }
/-- ACQ_FIRST.KIND (R291). -/
def F.ACQ_FIRST.KIND : Fld := { reg := .ACQ_FIRST, hi := 39, lo := 37, acc := .RO, reset := 0, by_ := RClass.pcwg }
/-- ACQ_FIRST.CHANNEL (R291). -/
def F.ACQ_FIRST.CHANNEL : Fld := { reg := .ACQ_FIRST, hi := 36, lo := 33, acc := .RO, reset := 0, by_ := RClass.pcwg }
/-- ACQ_FIRST_STRIDE.NUM (R291). -/
def F.ACQ_FIRST_STRIDE.NUM : Fld := { reg := .ACQ_FIRST_STRIDE, hi := 39, lo := 0, acc := .RO, reset := 0, by_ := RClass.pcwg }
/-- ACQ_BUF.QUOTA (R291). -/
def F.ACQ_BUF.QUOTA : Fld := { reg := .ACQ_BUF, hi := 29, lo := 15, acc := .RO, reset := 0, by_ := RClass.never }
/-- ACQ_BUF.USED (R291). -/
def F.ACQ_BUF.USED : Fld := { reg := .ACQ_BUF, hi := 14, lo := 0, acc := .RO, reset := 0, by_ := RClass.never }
/-- HEAT_CTRL.ARM (R291). -/
def F.HEAT_CTRL.ARM : Fld := { reg := .HEAT_CTRL, hi := 39, lo := 39, acc := .WO, reset := 0, by_ := RClass.never }
/-- HEAT_CTRL.DISARM (R291). -/
def F.HEAT_CTRL.DISARM : Fld := { reg := .HEAT_CTRL, hi := 38, lo := 38, acc := .WO, reset := 0, by_ := RClass.never }
/-- HEAT_CTRL.FINISH (R291). -/
def F.HEAT_CTRL.FINISH : Fld := { reg := .HEAT_CTRL, hi := 37, lo := 37, acc := .WO, reset := 0, by_ := RClass.never }
/-- HEAT_CTRL.FORCE (R291). -/
def F.HEAT_CTRL.FORCE : Fld := { reg := .HEAT_CTRL, hi := 36, lo := 36, acc := .WO, reset := 0, by_ := RClass.never }
/-- HEAT_CTRL.AUTO (R291). -/
def F.HEAT_CTRL.AUTO : Fld := { reg := .HEAT_CTRL, hi := 35, lo := 35, acc := .RW, reset := 0, by_ := RClass.pc }
/-- HEAT_CTRL.OVERRUN_OK (R291). -/
def F.HEAT_CTRL.OVERRUN_OK : Fld := { reg := .HEAT_CTRL, hi := 34, lo := 34, acc := .RW, reset := 0, by_ := RClass.pc }
/-- HEAT_CTRL.WRAP (R291). -/
def F.HEAT_CTRL.WRAP : Fld := { reg := .HEAT_CTRL, hi := 33, lo := 33, acc := .RW, reset := 0, by_ := RClass.pc }
/-- HEAT_CTRL.WHOLD (R291). -/
def F.HEAT_CTRL.WHOLD : Fld := { reg := .HEAT_CTRL, hi := 32, lo := 32, acc := .RW, reset := 0, by_ := RClass.pc }
/-- HEAT_SRC.KIND (R291). -/
def F.HEAT_SRC.KIND : Fld := { reg := .HEAT_SRC, hi := 39, lo := 39, acc := .RW, reset := 0, by_ := RClass.pc }
/-- HEAT_SRC.UNIT (R291). -/
def F.HEAT_SRC.UNIT : Fld := { reg := .HEAT_SRC, hi := 38, lo := 35, acc := .RW, reset := 0, by_ := RClass.pc }
/-- HEAT_SRC.CMASK (R291). -/
def F.HEAT_SRC.CMASK : Fld := { reg := .HEAT_SRC, hi := 34, lo := 19, acc := .RW, reset := 0, by_ := RClass.pc }
/-- HEAT_SRC.BUF (R291). -/
def F.HEAT_SRC.BUF : Fld := { reg := .HEAT_SRC, hi := 18, lo := 4, acc := .RW, reset := 0, by_ := RClass.pc, reserved := [(16385, 32767)] }
/-- HEAT_TRIG.SEL (R291). -/
def F.HEAT_TRIG.SEL : Fld := { reg := .HEAT_TRIG, hi := 39, lo := 33, acc := .RW, reset := 0x7f, by_ := RClass.pc, reserved := [(65, 126)] }
/-- HEAT_PRE.NUM (R291). -/
def F.HEAT_PRE.NUM : Fld := { reg := .HEAT_PRE, hi := 39, lo := 0, acc := .RW, reset := 0, by_ := RClass.pc }
/-- HEAT_POST.NUM (R291). -/
def F.HEAT_POST.NUM : Fld := { reg := .HEAT_POST, hi := 39, lo := 0, acc := .RW, reset := 0, by_ := RClass.pc }
/-- HEAT_BASE.ADDR (R291). -/
def F.HEAT_BASE.ADDR : Fld := { reg := .HEAT_BASE, hi := 39, lo := 6, acc := .RW, reset := 0, by_ := RClass.pc }
/-- HEAT_SLOT.EVB (R291). -/
def F.HEAT_SLOT.EVB : Fld := { reg := .HEAT_SLOT, hi := 39, lo := 32, acc := .RW, reset := 1, by_ := RClass.pc }
/-- HEAT_SLOT.BLOCKS (R291). -/
def F.HEAT_SLOT.BLOCKS : Fld := { reg := .HEAT_SLOT, hi := 31, lo := 0, acc := .RW, reset := 0, by_ := RClass.pc }
/-- HEAT_NSLOT.NUM (R291). -/
def F.HEAT_NSLOT.NUM : Fld := { reg := .HEAT_NSLOT, hi := 23, lo := 0, acc := .RW, reset := 0, by_ := RClass.pc }
/-- HEAT_HOLDOFF.KIND (R291). -/
def F.HEAT_HOLDOFF.KIND : Fld := { reg := .HEAT_HOLDOFF, hi := 39, lo := 39, acc := .RW, reset := 0, by_ := RClass.pc }
/-- HEAT_HOLDOFF.VALUE (R291). -/
def F.HEAT_HOLDOFF.VALUE : Fld := { reg := .HEAT_HOLDOFF, hi := 38, lo := 0, acc := .RW, reset := 0, by_ := RClass.pc }
/-- HEAT_FELT.FELT (R291). -/
def F.HEAT_FELT.FELT : Fld := { reg := .HEAT_FELT, hi := 39, lo := 39, acc := .RW, reset := 0, by_ := RClass.pc }
/-- HEAT_FELT.DECIM (R291). -/
def F.HEAT_FELT.DECIM : Fld := { reg := .HEAT_FELT, hi := 24, lo := 0, acc := .RW, reset := 0, by_ := RClass.pc, reserved := [(16777217, 33554431)] }
/-- HEAT_BW.QUARTERS (R291). -/
def F.HEAT_BW.QUARTERS : Fld := { reg := .HEAT_BW, hi := 11, lo := 0, acc := .RW, reset := 0, by_ := RClass.pc }
/-- HEAT_NOTIFY.ADDR (R291). -/
def F.HEAT_NOTIFY.ADDR : Fld := { reg := .HEAT_NOTIFY, hi := 39, lo := 3, acc := .RW, reset := 0, by_ := RClass.pc }
/-- HEAT_STAT.STATE (R291). -/
def F.HEAT_STAT.STATE : Fld := { reg := .HEAT_STAT, hi := 39, lo := 37, acc := .RO, reset := 0, by_ := RClass.pcwg }
/-- HEAT_STAT.CLOSING (R291). -/
def F.HEAT_STAT.CLOSING : Fld := { reg := .HEAT_STAT, hi := 36, lo := 36, acc := .RO, reset := 0, by_ := RClass.never }
/-- HEAT_STAT.RES (R291). -/
def F.HEAT_STAT.RES : Fld := { reg := .HEAT_STAT, hi := 35, lo := 32, acc := .RO, reset := 0, by_ := RClass.pcwg }
/-- HEAT_STAT.CFG_ERR (R291). -/
def F.HEAT_STAT.CFG_ERR : Fld := { reg := .HEAT_STAT, hi := 31, lo := 31, acc := .W1C, reset := 0, by_ := RClass.pcwg }
/-- HEAT_STAT.FS (R291). -/
def F.HEAT_STAT.FS : Fld := { reg := .HEAT_STAT, hi := 30, lo := 15, acc := .RO, reset := 0, by_ := RClass.pcwg }
/-- HEAT_WP.SEQ (R291). -/
def F.HEAT_WP.SEQ : Fld := { reg := .HEAT_WP, hi := 39, lo := 0, acc := .RO, reset := 0, by_ := RClass.pc }
/-- HEAT_DONE.SEQ (R291). -/
def F.HEAT_DONE.SEQ : Fld := { reg := .HEAT_DONE, hi := 39, lo := 0, acc := .RO, reset := 0, by_ := RClass.pc }
/-- HEAT_RP.SEQ (R291). -/
def F.HEAT_RP.SEQ : Fld := { reg := .HEAT_RP, hi := 39, lo := 0, acc := .RW, reset := 0, by_ := RClass.pc }
/-- MEM_CTRL.DIAG (R337). -/
def F.MEM_CTRL.DIAG : Fld := { reg := .MEM_CTRL, hi := 39, lo := 39, acc := .RW, reset := 0, by_ := RClass.pc }
/-- MEM_CTRL.DIAG_SRCID (R337). -/
def F.MEM_CTRL.DIAG_SRCID : Fld := { reg := .MEM_CTRL, hi := 38, lo := 31, acc := .RW, reset := 0xff, by_ := RClass.pc }
/-- MEM_CTRL.SCRUB_EN (R337). -/
def F.MEM_CTRL.SCRUB_EN : Fld := { reg := .MEM_CTRL, hi := 30, lo := 30, acc := .RW, reset := 1, by_ := RClass.pc }
/-- MEM_CTRL.AUTO_REPAIR (R337). -/
def F.MEM_CTRL.AUTO_REPAIR : Fld := { reg := .MEM_CTRL, hi := 29, lo := 29, acc := .RW, reset := 0, by_ := RClass.pc }
/-- MEM_STATUS.READY (R337). -/
def F.MEM_STATUS.READY : Fld := { reg := .MEM_STATUS, hi := 39, lo := 39, acc := .RO, reset := 0, by_ := RClass.never }
/-- MEM_STATUS.INIT_BUSY (R337). -/
def F.MEM_STATUS.INIT_BUSY : Fld := { reg := .MEM_STATUS, hi := 38, lo := 38, acc := .RO, reset := 0, by_ := RClass.never }
/-- MEM_STATUS.EVT (R337). -/
def F.MEM_STATUS.EVT : Fld := { reg := .MEM_STATUS, hi := 37, lo := 33, acc := .W1C, reset := 0, by_ := RClass.pcwg }
/-- MEM_RES_LIMIT.LIMIT (R337). -/
def F.MEM_RES_LIMIT.LIMIT : Fld := { reg := .MEM_RES_LIMIT, hi := 39, lo := 28, acc := .RW, reset := 0xda, by_ := RClass.pc, reserved := [(241, 4095)] }
/-- MEM_RES_LIMIT.USED (R337). -/
def F.MEM_RES_LIMIT.USED : Fld := { reg := .MEM_RES_LIMIT, hi := 27, lo := 16, acc := .RO, reset := 0, by_ := RClass.never }
/-- MEM_RES_STAT.SHORT (R337). -/
def F.MEM_RES_STAT.SHORT : Fld := { reg := .MEM_RES_STAT, hi := 39, lo := 0, acc := .RC, reset := 0, by_ := RClass.pcwg }
/-- MEM_SCRUB.PERIOD (R337). -/
def F.MEM_SCRUB.PERIOD : Fld := { reg := .MEM_SCRUB, hi := 39, lo := 32, acc := .RW, reset := 0x18, by_ := RClass.pc }
/-- MEM_SCRUB.PASSES (R337). -/
def F.MEM_SCRUB.PASSES : Fld := { reg := .MEM_SCRUB, hi := 31, lo := 0, acc := .RO, reset := 0, by_ := RClass.pc }
/-- MEM_CE_CNT.COUNT (R337). -/
def F.MEM_CE_CNT.COUNT : Fld := { reg := .MEM_CE_CNT, hi := 39, lo := 0, acc := .RC, reset := 0, by_ := RClass.pcwg }
/-- MEM_FIRST.KIND (R337). -/
def F.MEM_FIRST.KIND : Fld := { reg := .MEM_FIRST, hi := 39, lo := 37, acc := .RO, reset := 0, by_ := RClass.pcwg }
/-- MEM_FIRST.CHANNEL (R337). -/
def F.MEM_FIRST.CHANNEL : Fld := { reg := .MEM_FIRST, hi := 36, lo := 34, acc := .RO, reset := 0, by_ := RClass.pcwg }
/-- MEM_FIRST.SRCID (R337). -/
def F.MEM_FIRST.SRCID : Fld := { reg := .MEM_FIRST, hi := 33, lo := 26, acc := .RO, reset := 0, by_ := RClass.pcwg }
/-- MEM_FIRST_ADDR.ADDR (R337). -/
def F.MEM_FIRST_ADDR.ADDR : Fld := { reg := .MEM_FIRST_ADDR, hi := 39, lo := 6, acc := .RO, reset := 0, by_ := RClass.pcwg }
/-- MEM_FIRST_STRIDE.NUM (R337). -/
def F.MEM_FIRST_STRIDE.NUM : Fld := { reg := .MEM_FIRST_STRIDE, hi := 39, lo := 0, acc := .RO, reset := 0, by_ := RClass.pcwg }
/-- MEM_INIT_BASE.ADDR (R337). -/
def F.MEM_INIT_BASE.ADDR : Fld := { reg := .MEM_INIT_BASE, hi := 39, lo := 6, acc := .RW, reset := 0, by_ := RClass.pc }
/-- MEM_INIT_LEN.BLOCKS (R337). -/
def F.MEM_INIT_LEN.BLOCKS : Fld := { reg := .MEM_INIT_LEN, hi := 31, lo := 0, acc := .RW, reset := 0, by_ := RClass.pc }
/-- MEM_INIT_CTRL.GO (R337). -/
def F.MEM_INIT_CTRL.GO : Fld := { reg := .MEM_INIT_CTRL, hi := 39, lo := 39, acc := .WO, reset := 0, by_ := RClass.never }
/-- MEM_INIT_CTRL.REFUSED (R337). -/
def F.MEM_INIT_CTRL.REFUSED : Fld := { reg := .MEM_INIT_CTRL, hi := 38, lo := 38, acc := .RO, reset := 0, by_ := RClass.pc }
/-- MEM_REPAIR.VALID (R337). -/
def F.MEM_REPAIR.VALID : Fld := { reg := .MEM_REPAIR, hi := 39, lo := 39, acc := .RW, reset := 0, by_ := RClass.pc }
/-- MEM_REPAIR.DONE (R337). -/
def F.MEM_REPAIR.DONE : Fld := { reg := .MEM_REPAIR, hi := 38, lo := 38, acc := .RO, reset := 0, by_ := RClass.pc }
/-- MEM_REPAIR.AUTO (R337). -/
def F.MEM_REPAIR.AUTO : Fld := { reg := .MEM_REPAIR, hi := 37, lo := 37, acc := .RO, reset := 0, by_ := RClass.pc }
/-- MEM_REPAIR.DUP (R337). -/
def F.MEM_REPAIR.DUP : Fld := { reg := .MEM_REPAIR, hi := 36, lo := 36, acc := .RO, reset := 0, by_ := RClass.pc }
/-- MEM_REPAIR.BANK (R337). -/
def F.MEM_REPAIR.BANK : Fld := { reg := .MEM_REPAIR, hi := 20, lo := 18, acc := .RW, reset := 0, by_ := RClass.pc }
/-- MEM_REPAIR.ROW (R337). -/
def F.MEM_REPAIR.ROW : Fld := { reg := .MEM_REPAIR, hi := 17, lo := 0, acc := .RW, reset := 0, by_ := RClass.pc }
/-- ARC_CTRL.EN (R337). -/
def F.ARC_CTRL.EN : Fld := { reg := .ARC_CTRL, hi := 39, lo := 39, acc := .RW, reset := 0, by_ := RClass.pc }
/-- ARC_CTRL.FMT_EN (R337). -/
def F.ARC_CTRL.FMT_EN : Fld := { reg := .ARC_CTRL, hi := 38, lo := 38, acc := .RW, reset := 0, by_ := RClass.pc }
/-- ARC_CTRL.PATROL_EN (R337). -/
def F.ARC_CTRL.PATROL_EN : Fld := { reg := .ARC_CTRL, hi := 37, lo := 37, acc := .RW, reset := 1, by_ := RClass.pc }
/-- ARC_STATUS.READY (R337). -/
def F.ARC_STATUS.READY : Fld := { reg := .ARC_STATUS, hi := 39, lo := 39, acc := .RO, reset := 0, by_ := RClass.never }
/-- ARC_STATUS.FULL (R337). -/
def F.ARC_STATUS.FULL : Fld := { reg := .ARC_STATUS, hi := 38, lo := 38, acc := .RO, reset := 0, by_ := RClass.never }
/-- ARC_STATUS.WRAPPED (R337). -/
def F.ARC_STATUS.WRAPPED : Fld := { reg := .ARC_STATUS, hi := 37, lo := 37, acc := .W1C, reset := 0, by_ := RClass.pcwg }
/-- ARC_STATUS.EVT (R337). -/
def F.ARC_STATUS.EVT : Fld := { reg := .ARC_STATUS, hi := 36, lo := 31, acc := .W1C, reset := 0, by_ := RClass.pcwg }
/-- ARC_CMD_STAT.DEPTH (R337). -/
def F.ARC_CMD_STAT.DEPTH : Fld := { reg := .ARC_CMD_STAT, hi := 39, lo := 35, acc := .RO, reset := 0, by_ := RClass.never }
/-- ARC_CMD_STAT.REFUSED (R337). -/
def F.ARC_CMD_STAT.REFUSED : Fld := { reg := .ARC_CMD_STAT, hi := 34, lo := 20, acc := .RC, reset := 0, by_ := RClass.pcwg }
/-- ARC_NEXT_OBJ.OBJ (R337). -/
def F.ARC_NEXT_OBJ.OBJ : Fld := { reg := .ARC_NEXT_OBJ, hi := 39, lo := 0, acc := .RO, reset := 1, by_ := RClass.never }
/-- ARC_CMD_PORT.SLOT (R337). -/
def F.ARC_CMD_PORT.SLOT : Fld := { reg := .ARC_CMD_PORT, hi := 39, lo := 0, acc := .WO, reset := 0, by_ := RClass.never }
/-- ARC_CPL_BASE.ADDR (R337). -/
def F.ARC_CPL_BASE.ADDR : Fld := { reg := .ARC_CPL_BASE, hi := 39, lo := 6, acc := .RW, reset := 0, by_ := RClass.pc }
/-- ARC_CPL_LEN.BLOCKS (R337). -/
def F.ARC_CPL_LEN.BLOCKS : Fld := { reg := .ARC_CPL_LEN, hi := 31, lo := 0, acc := .RW, reset := 0, by_ := RClass.pc }
/-- ARC_CPL_WP.COUNT (R337). -/
def F.ARC_CPL_WP.COUNT : Fld := { reg := .ARC_CPL_WP, hi := 39, lo := 0, acc := .RO, reset := 0, by_ := RClass.pcwg }
/-- ARC_CPL_RP.COUNT (R337). -/
def F.ARC_CPL_RP.COUNT : Fld := { reg := .ARC_CPL_RP, hi := 39, lo := 0, acc := .RW, reset := 0, by_ := RClass.pcwg }
/-- ARC_FREE.BLOCKS (R337). -/
def F.ARC_FREE.BLOCKS : Fld := { reg := .ARC_FREE, hi := 39, lo := 0, acc := .RO, reset := 0, by_ := RClass.never }
/-- ARC_HEALTH.WEAR (R337). -/
def F.ARC_HEALTH.WEAR : Fld := { reg := .ARC_HEALTH, hi := 39, lo := 32, acc := .RO, reset := 0, by_ := RClass.never }
/-- ARC_HEALTH.GROWN (R337). -/
def F.ARC_HEALTH.GROWN : Fld := { reg := .ARC_HEALTH, hi := 31, lo := 16, acc := .RO, reset := 0, by_ := RClass.never }
/-- ARC_HEALTH.SPARE (R337). -/
def F.ARC_HEALTH.SPARE : Fld := { reg := .ARC_HEALTH, hi := 15, lo := 0, acc := .RO, reset := 0, by_ := RClass.never }
/-- ARC_ECC.RETRIES (R337). -/
def F.ARC_ECC.RETRIES : Fld := { reg := .ARC_ECC, hi := 39, lo := 20, acc := .RC, reset := 0, by_ := RClass.pcwg }
/-- ARC_ECC.UNCORR (R337). -/
def F.ARC_ECC.UNCORR : Fld := { reg := .ARC_ECC, hi := 19, lo := 0, acc := .RC, reset := 0, by_ := RClass.pcwg }
/-- ARC_PATROL.DAYS (R337). -/
def F.ARC_PATROL.DAYS : Fld := { reg := .ARC_PATROL, hi := 39, lo := 32, acc := .RW, reset := 7, by_ := RClass.pc }
/-- ARC_PATROL.THR (R337). -/
def F.ARC_PATROL.THR : Fld := { reg := .ARC_PATROL, hi := 31, lo := 24, acc := .RW, reset := 0x3c, by_ := RClass.pc, reserved := [(101, 255)] }
/-- ARC_BIND.VALID (R337). -/
def F.ARC_BIND.VALID : Fld := { reg := .ARC_BIND, hi := 39, lo := 39, acc := .RW, reset := 0, by_ := RClass.pc }
/-- ARC_BIND.ADV_RP (R337). -/
def F.ARC_BIND.ADV_RP : Fld := { reg := .ARC_BIND, hi := 38, lo := 38, acc := .RW, reset := 0, by_ := RClass.pc }
/-- ARC_BIND.REGION (R337). -/
def F.ARC_BIND.REGION : Fld := { reg := .ARC_BIND, hi := 37, lo := 36, acc := .RW, reset := 0, by_ := RClass.pc }
/-- ARC_BIND.CHANNEL (R337). -/
def F.ARC_BIND.CHANNEL : Fld := { reg := .ARC_BIND, hi := 35, lo := 32, acc := .RW, reset := 0, by_ := RClass.pc }
/-- ARC_BIND.NEXT (R337). -/
def F.ARC_BIND.NEXT : Fld := { reg := .ARC_BIND, hi := 31, lo := 0, acc := .RO, reset := 0, by_ := RClass.pc }
/-- CFG_STATUS.STEP (R385). -/
def F.CFG_STATUS.STEP : Fld := { reg := .CFG_STATUS, hi := 39, lo := 37, acc := .RO, reset := 0, by_ := RClass.never }
/-- CFG_STATUS.PARTIAL (R385). -/
def F.CFG_STATUS.PARTIAL : Fld := { reg := .CFG_STATUS, hi := 36, lo := 36, acc := .RO, reset := 0, by_ := RClass.pc }
/-- CFG_STATUS.SRC (R385). -/
def F.CFG_STATUS.SRC : Fld := { reg := .CFG_STATUS, hi := 35, lo := 33, acc := .RO, reset := 0, by_ := RClass.pc }
/-- CFG_STATUS.RESULT (R385). -/
def F.CFG_STATUS.RESULT : Fld := { reg := .CFG_STATUS, hi := 32, lo := 25, acc := .RO, reset := 0, by_ := RClass.pc }
/-- CFG_STATUS.CAUSE (R385). -/
def F.CFG_STATUS.CAUSE : Fld := { reg := .CFG_STATUS, hi := 24, lo := 22, acc := .RO, reset := 0, by_ := RClass.pc }
/-- CFG_STATUS.CROWN (R385). -/
def F.CFG_STATUS.CROWN : Fld := { reg := .CFG_STATUS, hi := 21, lo := 21, acc := .RO, reset := 0, by_ := RClass.pc }
/-- CFG_STATUS.CROWN_TRIED (R385). -/
def F.CFG_STATUS.CROWN_TRIED : Fld := { reg := .CFG_STATUS, hi := 20, lo := 20, acc := .RO, reset := 0, by_ := RClass.pc }
/-- CFG_STATUS.DONE_IN (R385). -/
def F.CFG_STATUS.DONE_IN : Fld := { reg := .CFG_STATUS, hi := 19, lo := 19, acc := .RO, reset := 0, by_ := RClass.never }
/-- CFG_STATUS.DONE_OUT (R385). -/
def F.CFG_STATUS.DONE_OUT : Fld := { reg := .CFG_STATUS, hi := 18, lo := 18, acc := .RO, reset := 0, by_ := RClass.never }
/-- CFG_STATUS.LOCKED (R385). -/
def F.CFG_STATUS.LOCKED : Fld := { reg := .CFG_STATUS, hi := 17, lo := 17, acc := .RO, reset := 0, by_ := RClass.pc }
/-- CFG_STATUS.RET_DONE (R385). -/
def F.CFG_STATUS.RET_DONE : Fld := { reg := .CFG_STATUS, hi := 16, lo := 16, acc := .RO, reset := 0, by_ := RClass.never }
/-- CFG_STATUS.STRAP_ERR (R385). -/
def F.CFG_STATUS.STRAP_ERR : Fld := { reg := .CFG_STATUS, hi := 15, lo := 15, acc := .RO, reset := 0, by_ := RClass.pc }
/-- CFG_STATUS.LATE_START (R385). -/
def F.CFG_STATUS.LATE_START : Fld := { reg := .CFG_STATUS, hi := 14, lo := 14, acc := .W1C, reset := 0, by_ := RClass.pc }
/-- CFG_STATUS.BOOT_SRC (R385). -/
def F.CFG_STATUS.BOOT_SRC : Fld := { reg := .CFG_STATUS, hi := 13, lo := 11, acc := .RO, reset := 0, by_ := RClass.pc }
/-- CFG_STATUS.PULL_SEL (R385). -/
def F.CFG_STATUS.PULL_SEL : Fld := { reg := .CFG_STATUS, hi := 10, lo := 9, acc := .RO, reset := 0, by_ := RClass.pc }
/-- CFG_CMD.CMD (R385). -/
def F.CFG_CMD.CMD : Fld := { reg := .CFG_CMD, hi := 39, lo := 37, acc := .WO, reset := 0, by_ := RClass.never }
/-- CFG_CMD.SLOT (R385). -/
def F.CFG_CMD.SLOT : Fld := { reg := .CFG_CMD, hi := 36, lo := 36, acc := .WO, reset := 0, by_ := RClass.never }
/-- CFG_CMD.RES (R385). -/
def F.CFG_CMD.RES : Fld := { reg := .CFG_CMD, hi := 35, lo := 33, acc := .RO, reset := 0, by_ := RClass.pc }
/-- CFG_CTRL.HOLD_DONE (R385). -/
def F.CFG_CTRL.HOLD_DONE : Fld := { reg := .CFG_CTRL, hi := 39, lo := 39, acc := .RW, reset := 0, by_ := RClass.pc }
/-- CFG_CTRL.RELEASE_BLANK (R385). -/
def F.CFG_CTRL.RELEASE_BLANK : Fld := { reg := .CFG_CTRL, hi := 38, lo := 38, acc := .RW, reset := 0, by_ := RClass.pc }
/-- CFG_CTRL.START_MODE (R385). -/
def F.CFG_CTRL.START_MODE : Fld := { reg := .CFG_CTRL, hi := 37, lo := 37, acc := .RW, reset := 0, by_ := RClass.pc }
/-- CFG_CTRL.CROWN_EN (R385). -/
def F.CFG_CTRL.CROWN_EN : Fld := { reg := .CFG_CTRL, hi := 36, lo := 36, acc := .RW, reset := 1, by_ := RClass.pc }
/-- CFG_CTRL.TIMEOUT (R385). -/
def F.CFG_CTRL.TIMEOUT : Fld := { reg := .CFG_CTRL, hi := 35, lo := 20, acc := .RW, reset := 0x3e8, by_ := RClass.pc }
/-- CFG_SRC_ADDR.ADDR (R385). -/
def F.CFG_SRC_ADDR.ADDR : Fld := { reg := .CFG_SRC_ADDR, hi := 39, lo := 6, acc := .RW, reset := 0, by_ := RClass.pc }
/-- CFG_SRC_LEN.BYTES (R385). -/
def F.CFG_SRC_LEN.BYTES : Fld := { reg := .CFG_SRC_LEN, hi := 39, lo := 0, acc := .RW, reset := 0, by_ := RClass.pc }
/-- CFG_SRC_LIMIT.BYTES (R385). -/
def F.CFG_SRC_LIMIT.BYTES : Fld := { reg := .CFG_SRC_LIMIT, hi := 39, lo := 0, acc := .RW, reset := 0, by_ := RClass.pc }
/-- CFG_PROGRESS.BYTES (R385). -/
def F.CFG_PROGRESS.BYTES : Fld := { reg := .CFG_PROGRESS, hi := 39, lo := 0, acc := .RO, reset := 0, by_ := RClass.pc }
/-- CFG_FAIL.VALID (R385). -/
def F.CFG_FAIL.VALID : Fld := { reg := .CFG_FAIL, hi := 39, lo := 39, acc := .RO, reset := 0, by_ := RClass.pc }
/-- CFG_FAIL.ADDR (R385). -/
def F.CFG_FAIL.ADDR : Fld := { reg := .CFG_FAIL, hi := 20, lo := 0, acc := .RO, reset := 0, by_ := RClass.pc }
/-- CFG_START_FRAC.FRAC (R385). -/
def F.CFG_START_FRAC.FRAC : Fld := { reg := .CFG_START_FRAC, hi := 39, lo := 0, acc := .RW, reset := 0, by_ := RClass.pc }
/-- CFG_START_SEC.SEC (R385). -/
def F.CFG_START_SEC.SEC : Fld := { reg := .CFG_START_SEC, hi := 39, lo := 0, acc := .RW, reset := 0, by_ := RClass.pc }
/-- CFG_DESIGN_ID.ID (R385). -/
def F.CFG_DESIGN_ID.ID : Fld := { reg := .CFG_DESIGN_ID, hi := 39, lo := 0, acc := .RO, reset := 0, by_ := RClass.pc }
/-- CFG_USER.VALUE (R385). -/
def F.CFG_USER.VALUE : Fld := { reg := .CFG_USER, hi := 39, lo := 0, acc := .RO, reset := 0, by_ := RClass.pc }
/-- CFG_SLOT.VALID (R385). -/
def F.CFG_SLOT.VALID : Fld := { reg := .CFG_SLOT, hi := 39, lo := 39, acc := .RO, reset := 0, by_ := RClass.never }
/-- CFG_SLOT.LEN (R385). -/
def F.CFG_SLOT.LEN : Fld := { reg := .CFG_SLOT, hi := 32, lo := 0, acc := .RO, reset := 0, by_ := RClass.never }
/-- CFG_RELAY.LANE_LOCK (R385). -/
def F.CFG_RELAY.LANE_LOCK : Fld := { reg := .CFG_RELAY, hi := 39, lo := 36, acc := .RO, reset := 0, by_ := RClass.never }
/-- CFG_RELAY.ALIGNED (R385). -/
def F.CFG_RELAY.ALIGNED : Fld := { reg := .CFG_RELAY, hi := 35, lo := 35, acc := .RO, reset := 0, by_ := RClass.never }
/-- CFG_RELAY.TX_ACTIVE (R385). -/
def F.CFG_RELAY.TX_ACTIVE : Fld := { reg := .CFG_RELAY, hi := 34, lo := 34, acc := .RO, reset := 0, by_ := RClass.never }
/-- CFG_RELAY.ERR (R385). -/
def F.CFG_RELAY.ERR : Fld := { reg := .CFG_RELAY, hi := 33, lo := 24, acc := .RC, reset := 0, by_ := RClass.pc }
/-- CFG_ZCMD.CMD (R385). -/
def F.CFG_ZCMD.CMD : Fld := { reg := .CFG_ZCMD, hi := 39, lo := 37, acc := .WO, reset := 0, by_ := RClass.never }
/-- CFG_ZCMD.ZONE (R385). -/
def F.CFG_ZCMD.ZONE : Fld := { reg := .CFG_ZCMD, hi := 36, lo := 33, acc := .WO, reset := 0, by_ := RClass.never }
/-- CFG_ZCMD.RES (R385). -/
def F.CFG_ZCMD.RES : Fld := { reg := .CFG_ZCMD, hi := 32, lo := 30, acc := .RO, reset := 0, by_ := RClass.pcwg }
/-- CFG_ZONE.STATE (R385). -/
def F.CFG_ZONE.STATE : Fld := { reg := .CFG_ZONE, hi := 39, lo := 38, acc := .RO, reset := 0, by_ := RClass.pc }
/-- CFG_ZONE.PRIMED (R385). -/
def F.CFG_ZONE.PRIMED : Fld := { reg := .CFG_ZONE, hi := 37, lo := 37, acc := .RO, reset := 0, by_ := RClass.pc }
/-- CFG_ZONE.PARTIAL_ABORT (R385). -/
def F.CFG_ZONE.PARTIAL_ABORT : Fld := { reg := .CFG_ZONE, hi := 36, lo := 36, acc := .RO, reset := 0, by_ := RClass.pc }
/-- CFG_ZONE.RESULT (R385). -/
def F.CFG_ZONE.RESULT : Fld := { reg := .CFG_ZONE, hi := 35, lo := 28, acc := .RO, reset := 0, by_ := RClass.pc }
/-- CFG_ZONE.ADDR (R385). -/
def F.CFG_ZONE.ADDR : Fld := { reg := .CFG_ZONE, hi := 27, lo := 7, acc := .RO, reset := 0, by_ := RClass.pc }
/-- CFG_FUSE_STAT.KEY_OK (R385). -/
def F.CFG_FUSE_STAT.KEY_OK : Fld := { reg := .CFG_FUSE_STAT, hi := 39, lo := 36, acc := .RO, reset := 0, by_ := RClass.never }
/-- CFG_FUSE_STAT.HASH_OK (R385). -/
def F.CFG_FUSE_STAT.HASH_OK : Fld := { reg := .CFG_FUSE_STAT, hi := 35, lo := 32, acc := .RO, reset := 0, by_ := RClass.never }
/-- CFG_FUSE_STAT.REQ_ENC (R385). -/
def F.CFG_FUSE_STAT.REQ_ENC : Fld := { reg := .CFG_FUSE_STAT, hi := 31, lo := 31, acc := .RO, reset := 0, by_ := RClass.never }
/-- CFG_FUSE_STAT.REQ_SIG (R385). -/
def F.CFG_FUSE_STAT.REQ_SIG : Fld := { reg := .CFG_FUSE_STAT, hi := 30, lo := 30, acc := .RO, reset := 0, by_ := RClass.never }
/-- CFG_FUSE_STAT.PERM_LOCK (R385). -/
def F.CFG_FUSE_STAT.PERM_LOCK : Fld := { reg := .CFG_FUSE_STAT, hi := 29, lo := 29, acc := .RO, reset := 0, by_ := RClass.never }
/-- CFG_FUSE_STAT.FUSE_LOCK (R385). -/
def F.CFG_FUSE_STAT.FUSE_LOCK : Fld := { reg := .CFG_FUSE_STAT, hi := 28, lo := 28, acc := .RO, reset := 0, by_ := RClass.never }
/-- CFG_FUSE_STAT.RES (R385). -/
def F.CFG_FUSE_STAT.RES : Fld := { reg := .CFG_FUSE_STAT, hi := 27, lo := 25, acc := .RO, reset := 0, by_ := RClass.pc }
/-- CFG_FUSE_CMD.TARGET (R385). -/
def F.CFG_FUSE_CMD.TARGET : Fld := { reg := .CFG_FUSE_CMD, hi := 39, lo := 35, acc := .WO, reset := 0, by_ := RClass.never }
/-- CFG_FUSE_CMD.GO (R385). -/
def F.CFG_FUSE_CMD.GO : Fld := { reg := .CFG_FUSE_CMD, hi := 34, lo := 34, acc := .WO, reset := 0, by_ := RClass.never }
/-- CFG_FUSE_DATA.BYTES (R385). -/
def F.CFG_FUSE_DATA.BYTES : Fld := { reg := .CFG_FUSE_DATA, hi := 39, lo := 0, acc := .WO, reset := 0, by_ := RClass.never }
/-- PWR_REQ.CMD (R404). -/
def F.PWR_REQ.CMD : Fld := { reg := .PWR_REQ, hi := 39, lo := 37, acc := .WO, reset := 0, by_ := RClass.never }
/-- PWR_STAT.STATE (R404). -/
def F.PWR_STAT.STATE : Fld := { reg := .PWR_STAT, hi := 39, lo := 38, acc := .RO, reset := 0, by_ := RClass.never }
/-- PWR_STAT.TARGET (R404). -/
def F.PWR_STAT.TARGET : Fld := { reg := .PWR_STAT, hi := 37, lo := 36, acc := .RO, reset := 0, by_ := RClass.pcwg }
/-- PWR_STAT.BUSY (R404). -/
def F.PWR_STAT.BUSY : Fld := { reg := .PWR_STAT, hi := 35, lo := 35, acc := .RO, reset := 0, by_ := RClass.never }
/-- PWR_STAT.DIR (R404). -/
def F.PWR_STAT.DIR : Fld := { reg := .PWR_STAT, hi := 34, lo := 33, acc := .RO, reset := 0, by_ := RClass.never }
/-- PWR_STAT.STEP (R404). -/
def F.PWR_STAT.STEP : Fld := { reg := .PWR_STAT, hi := 32, lo := 29, acc := .RO, reset := 0, by_ := RClass.never }
/-- PWR_STAT.RESULT (R404). -/
def F.PWR_STAT.RESULT : Fld := { reg := .PWR_STAT, hi := 28, lo := 25, acc := .RO, reset := 0, by_ := RClass.pcwg }
/-- PWR_STAT.DELAY (R404). -/
def F.PWR_STAT.DELAY : Fld := { reg := .PWR_STAT, hi := 24, lo := 17, acc := .RO, reset := 0, by_ := RClass.never }
/-- PWR_STAT.DELAY_LAST (R404). -/
def F.PWR_STAT.DELAY_LAST : Fld := { reg := .PWR_STAT, hi := 16, lo := 9, acc := .RO, reset := 0, by_ := RClass.pcwg }
/-- PWR_STAT.EVT (R404). -/
def F.PWR_STAT.EVT : Fld := { reg := .PWR_STAT, hi := 8, lo := 6, acc := .W1C, reset := 0, by_ := RClass.pcwg }
/-- PWR_WAKE_EN.EN (R404). -/
def F.PWR_WAKE_EN.EN : Fld := { reg := .PWR_WAKE_EN, hi := 7, lo := 1, acc := .RW, reset := 0, by_ := RClass.pc }
/-- PWR_WAKE_EN.GUN (R404). -/
def F.PWR_WAKE_EN.GUN : Fld := { reg := .PWR_WAKE_EN, hi := 0, lo := 0, acc := .RO, reset := 1, by_ := RClass.never }
/-- PWR_WAKE_PEND.LAST (R404). -/
def F.PWR_WAKE_PEND.LAST : Fld := { reg := .PWR_WAKE_PEND, hi := 11, lo := 8, acc := .RO, reset := 0, by_ := RClass.pcwg }
/-- PWR_WAKE_PEND.PEND (R404). -/
def F.PWR_WAKE_PEND.PEND : Fld := { reg := .PWR_WAKE_PEND, hi := 7, lo := 0, acc := .W1C, reset := 0, by_ := RClass.pcwg }
/-- PWR_LANE.TARGET (R404). -/
def F.PWR_LANE.TARGET : Fld := { reg := .PWR_LANE, hi := 23, lo := 0, acc := .RW, reset := 0, by_ := RClass.pc }
/-- PWR_MISSED.COUNT (R404). -/
def F.PWR_MISSED.COUNT : Fld := { reg := .PWR_MISSED, hi := 39, lo := 0, acc := .RO, reset := 0, by_ := RClass.pcwg }
/-- PWR_TIMES.ENTRY (R404). -/
def F.PWR_TIMES.ENTRY : Fld := { reg := .PWR_TIMES, hi := 39, lo := 20, acc := .RO, reset := 0, by_ := RClass.pcwg }
/-- PWR_TIMES.EXIT (R404). -/
def F.PWR_TIMES.EXIT : Fld := { reg := .PWR_TIMES, hi := 19, lo := 0, acc := .RO, reset := 0, by_ := RClass.pcwg }
/-- ERR_REG_REC0.WORD (R426). -/
def F.ERR_REG_REC0.WORD : Fld := { reg := .ERR_REG_REC0, hi := 39, lo := 0, acc := .RO, reset := 0, by_ := RClass.pcwg }
/-- ERR_REG_REC1.WORD (R426). -/
def F.ERR_REG_REC1.WORD : Fld := { reg := .ERR_REG_REC1, hi := 39, lo := 0, acc := .RO, reset := 0, by_ := RClass.pcwg }
/-- ERR_REG_REC2.WORD (R426). -/
def F.ERR_REG_REC2.WORD : Fld := { reg := .ERR_REG_REC2, hi := 39, lo := 0, acc := .RO, reset := 0, by_ := RClass.pcwg }
/-- ERR_REG_STAT.COUNT (R426). -/
def F.ERR_REG_STAT.COUNT : Fld := { reg := .ERR_REG_STAT, hi := 39, lo := 34, acc := .RO, reset := 0, by_ := RClass.never }
/-- ERR_REG_STAT.LOST (R426). -/
def F.ERR_REG_STAT.LOST : Fld := { reg := .ERR_REG_STAT, hi := 33, lo := 24, acc := .RC, reset := 0, by_ := RClass.pcwg }
/-- NOC_PC_CTRL.EN (R311). -/
def F.NOC_PC_CTRL.EN : Fld := { reg := .NOC_PC_CTRL, hi := 39, lo := 39, acc := .RW, reset := 0, by_ := RClass.pcwg }
/-- NOC_PC_CTRL.WRAPPED (R311). -/
def F.NOC_PC_CTRL.WRAPPED : Fld := { reg := .NOC_PC_CTRL, hi := 38, lo := 38, acc := .W1C, reset := 0, by_ := RClass.pcwg }
/-- NOC_PC_CTRL.SINK_ERR (R311). -/
def F.NOC_PC_CTRL.SINK_ERR : Fld := { reg := .NOC_PC_CTRL, hi := 37, lo := 37, acc := .W1C, reset := 0, by_ := RClass.pcwg }
/-- NOC_PC_CTRL.CFG_ERR (R311). -/
def F.NOC_PC_CTRL.CFG_ERR : Fld := { reg := .NOC_PC_CTRL, hi := 36, lo := 36, acc := .W1C, reset := 0, by_ := RClass.pcwg }
/-- NOC_PC_BASE.ADDR (R311). -/
def F.NOC_PC_BASE.ADDR : Fld := { reg := .NOC_PC_BASE, hi := 39, lo := 6, acc := .RW, reset := 0, by_ := RClass.pc }
/-- NOC_PC_LEN.BLOCKS (R311). -/
def F.NOC_PC_LEN.BLOCKS : Fld := { reg := .NOC_PC_LEN, hi := 31, lo := 0, acc := .RW, reset := 0, by_ := RClass.pc }
/-- NOC_PC_WP.COUNT (R311). -/
def F.NOC_PC_WP.COUNT : Fld := { reg := .NOC_PC_WP, hi := 39, lo := 0, acc := .RO, reset := 0, by_ := RClass.pcwg }
/-- NOC_PC_RP.COUNT (R311). -/
def F.NOC_PC_RP.COUNT : Fld := { reg := .NOC_PC_RP, hi := 39, lo := 0, acc := .RW, reset := 0, by_ := RClass.pcwg }
/-- NOC_PC_DROP.NUM (R311). -/
def F.NOC_PC_DROP.NUM : Fld := { reg := .NOC_PC_DROP, hi := 39, lo := 0, acc := .RC, reset := 0, by_ := RClass.pcwg }
/-- CELL_CTRL.SBE_THR (R97). -/
def F.CELL_CTRL.SBE_THR : Fld := { reg := .CELL_CTRL, hi := 23, lo := 8, acc := .RW, reset := 0x100, by_ := RClass.pc }
/-- CELL_CTRL.SCRUB_EN (R97). -/
def F.CELL_CTRL.SCRUB_EN : Fld := { reg := .CELL_CTRL, hi := 0, lo := 0, acc := .RW, reset := 1, by_ := RClass.pc }
/-- CELL_STATUS.SBE_RATE (R97). -/
def F.CELL_STATUS.SBE_RATE : Fld := { reg := .CELL_STATUS, hi := 4, lo := 4, acc := .W1C, reset := 0, by_ := RClass.pcwgz }
/-- CELL_STATUS.RSV_ENC (R97). -/
def F.CELL_STATUS.RSV_ENC : Fld := { reg := .CELL_STATUS, hi := 3, lo := 3, acc := .W1C, reset := 0, by_ := RClass.pcwgz }
/-- CELL_STATUS.WR_CLASH (R97). -/
def F.CELL_STATUS.WR_CLASH : Fld := { reg := .CELL_STATUS, hi := 2, lo := 2, acc := .W1C, reset := 0, by_ := RClass.pcwgz }
/-- CELL_STATUS.IPAR (R97). -/
def F.CELL_STATUS.IPAR : Fld := { reg := .CELL_STATUS, hi := 1, lo := 1, acc := .W1C, reset := 0, by_ := RClass.pcwgz }
/-- CELL_STATUS.DED (R97). -/
def F.CELL_STATUS.DED : Fld := { reg := .CELL_STATUS, hi := 0, lo := 0, acc := .W1C, reset := 0, by_ := RClass.pcwgz }
/-- CELL_SBE_CNT.COUNT (R97). -/
def F.CELL_SBE_CNT.COUNT : Fld := { reg := .CELL_SBE_CNT, hi := 31, lo := 0, acc := .RC, reset := 0, by_ := RClass.pcwgz }
/-- CELL_FIRST.KIND (R97). -/
def F.CELL_FIRST.KIND : Fld := { reg := .CELL_FIRST, hi := 39, lo := 37, acc := .RO, reset := 0, by_ := RClass.pcwgz }
/-- CELL_FIRST.CLUSTER (R97). -/
def F.CELL_FIRST.CLUSTER : Fld := { reg := .CELL_FIRST, hi := 36, lo := 33, acc := .RO, reset := 0, by_ := RClass.pcwgz }
/-- CELL_FIRST.CELL (R97). -/
def F.CELL_FIRST.CELL : Fld := { reg := .CELL_FIRST, hi := 32, lo := 27, acc := .RO, reset := 0, by_ := RClass.pcwgz }
/-- CELL_FIRST.ADDR (R97). -/
def F.CELL_FIRST.ADDR : Fld := { reg := .CELL_FIRST, hi := 26, lo := 16, acc := .RO, reset := 0, by_ := RClass.pcwgz }
/-- CELL_FIRST.MAINT (R97). -/
def F.CELL_FIRST.MAINT : Fld := { reg := .CELL_FIRST, hi := 15, lo := 15, acc := .RO, reset := 0, by_ := RClass.pcwgz }
/-- CELL_FIRST.STEP (R97). -/
def F.CELL_FIRST.STEP : Fld := { reg := .CELL_FIRST, hi := 14, lo := 4, acc := .RO, reset := 0, by_ := RClass.pcwgz }
/-- CELL_FIRST.SHADOW (R97). -/
def F.CELL_FIRST.SHADOW : Fld := { reg := .CELL_FIRST, hi := 3, lo := 3, acc := .RO, reset := 0, by_ := RClass.pcwgz }
/-- CELL_FIRST_STRIDE.NUM (R97). -/
def F.CELL_FIRST_STRIDE.NUM : Fld := { reg := .CELL_FIRST_STRIDE, hi := 39, lo := 0, acc := .RO, reset := 0, by_ := RClass.pcwgz }
/-- CELL_SCRUB.PASSES (R97). -/
def F.CELL_SCRUB.PASSES : Fld := { reg := .CELL_SCRUB, hi := 39, lo := 16, acc := .RO, reset := 0, by_ := RClass.pcwgz }
/-- QC_CFG.MODE (R143). -/
def F.QC_CFG.MODE : Fld := { reg := .QC_CFG, hi := 39, lo := 38, acc := .RW, reset := 0, by_ := RClass.pcwgz, configured := true, reserved := [(3, 3)] }
/-- QC_CFG.DIR (R143). -/
def F.QC_CFG.DIR : Fld := { reg := .QC_CFG, hi := 37, lo := 37, acc := .RW, reset := 0, by_ := RClass.pcwgz, configured := true }
/-- QC_CFG.PORT (R143). -/
def F.QC_CFG.PORT : Fld := { reg := .QC_CFG, hi := 36, lo := 35, acc := .RW, reset := 0, by_ := RClass.pcwgz, configured := true, reserved := [(2, 3)] }
/-- QC_CFG.D (R143). -/
def F.QC_CFG.D : Fld := { reg := .QC_CFG, hi := 31, lo := 26, acc := .RW, reset := 1, by_ := RClass.pcwgz, configured := true, reserved := [(0, 0)] }
/-- QC_CFG.LATE_POL (R143). -/
def F.QC_CFG.LATE_POL : Fld := { reg := .QC_CFG, hi := 25, lo := 25, acc := .RWQ, reset := 0, by_ := RClass.pcwgz, configured := true }
/-- QC_CFG.HDR (R143). -/
def F.QC_CFG.HDR : Fld := { reg := .QC_CFG, hi := 24, lo := 24, acc := .RWQ, reset := 0, by_ := RClass.pcwgz, configured := true }
/-- QC_CFG.SRC (R143). -/
def F.QC_CFG.SRC : Fld := { reg := .QC_CFG, hi := 23, lo := 16, acc := .RW, reset := 0xff, by_ := RClass.pcwgz, configured := true }
/-- QC_SIZE.BASE (R143). -/
def F.QC_SIZE.BASE : Fld := { reg := .QC_SIZE, hi := 30, lo := 16, acc := .RW, reset := 0, by_ := RClass.pcwgz, configured := true }
/-- QC_SIZE.LEN (R143). -/
def F.QC_SIZE.LEN : Fld := { reg := .QC_SIZE, hi := 15, lo := 0, acc := .RW, reset := 0, by_ := RClass.pcwgz, configured := true, reserved := [(32769, 65535)] }
/-- QC_WR.PTR (R143). -/
def F.QC_WR.PTR : Fld := { reg := .QC_WR, hi := 18, lo := 0, acc := .RO, reset := 0, by_ := RClass.pcwgz }
/-- QC_RD.PTR (R143). -/
def F.QC_RD.PTR : Fld := { reg := .QC_RD, hi := 18, lo := 0, acc := .RW, reset := 0, by_ := RClass.pcwgz }
/-- QC_WM.HI (R143). -/
def F.QC_WM.HI : Fld := { reg := .QC_WM, hi := 37, lo := 19, acc := .RW, reset := 0, by_ := RClass.pcwgz, configured := true }
/-- QC_WM.LO (R143). -/
def F.QC_WM.LO : Fld := { reg := .QC_WM, hi := 18, lo := 0, acc := .RW, reset := 0, by_ := RClass.pcwgz, configured := true }
/-- QC_STAT.RES (R143). -/
def F.QC_STAT.RES : Fld := { reg := .QC_STAT, hi := 39, lo := 37, acc := .RO, reset := 0, by_ := RClass.pcwgz }
/-- QC_STAT.HI (R143). -/
def F.QC_STAT.HI : Fld := { reg := .QC_STAT, hi := 36, lo := 36, acc := .RO, reset := 0, by_ := RClass.pcwgz }
/-- QC_STAT.LO (R143). -/
def F.QC_STAT.LO : Fld := { reg := .QC_STAT, hi := 35, lo := 35, acc := .RO, reset := 0, by_ := RClass.pcwgz }
/-- QC_STAT.COUNT (R143). -/
def F.QC_STAT.COUNT : Fld := { reg := .QC_STAT, hi := 18, lo := 0, acc := .RO, reset := 0, by_ := RClass.pcwgz }
/-- QC_CNT.LATE (R143). -/
def F.QC_CNT.LATE : Fld := { reg := .QC_CNT, hi := 39, lo := 30, acc := .RC, reset := 0, by_ := RClass.pcwgz }
/-- QC_CNT.DROP (R143). -/
def F.QC_CNT.DROP : Fld := { reg := .QC_CNT, hi := 29, lo := 20, acc := .RC, reset := 0, by_ := RClass.pcwgz }
/-- QC_CNT.OVF (R143). -/
def F.QC_CNT.OVF : Fld := { reg := .QC_CNT, hi := 19, lo := 10, acc := .RC, reset := 0, by_ := RClass.pcwgz }
/-- QC_CNT.UNDER (R143). -/
def F.QC_CNT.UNDER : Fld := { reg := .QC_CNT, hi := 9, lo := 0, acc := .RC, reset := 0, by_ := RClass.pcwgz }
/-- QC_CMD.CMD (R143). -/
def F.QC_CMD.CMD : Fld := { reg := .QC_CMD, hi := 39, lo := 37, acc := .WO, reset := 0, by_ := RClass.never }
/-- QC_CMD.ARG (R143). -/
def F.QC_CMD.ARG : Fld := { reg := .QC_CMD, hi := 36, lo := 21, acc := .WO, reset := 0, by_ := RClass.never }
/-- QC_CMD.DISCARD (R143). -/
def F.QC_CMD.DISCARD : Fld := { reg := .QC_CMD, hi := 18, lo := 0, acc := .RO, reset := 0, by_ := RClass.pcwgz }
/-- QC_LANE.RX_EN (R143). -/
def F.QC_LANE.RX_EN : Fld := { reg := .QC_LANE, hi := 39, lo := 39, acc := .RW, reset := 0, by_ := RClass.pcwgz, configured := true }
/-- QC_LANE.RX_Q (R143). -/
def F.QC_LANE.RX_Q : Fld := { reg := .QC_LANE, hi := 38, lo := 35, acc := .RW, reset := 0, by_ := RClass.pcwgz, configured := true }
/-- QC_LANE.RX_K (R143). -/
def F.QC_LANE.RX_K : Fld := { reg := .QC_LANE, hi := 34, lo := 32, acc := .RW, reset := 0, by_ := RClass.pcwgz, configured := true, reserved := [(5, 7)] }
/-- QC_LANE.TX_EN (R143). -/
def F.QC_LANE.TX_EN : Fld := { reg := .QC_LANE, hi := 31, lo := 31, acc := .RW, reset := 0, by_ := RClass.pcwgz, configured := true }
/-- QC_LANE.TX_Q (R143). -/
def F.QC_LANE.TX_Q : Fld := { reg := .QC_LANE, hi := 30, lo := 27, acc := .RW, reset := 0, by_ := RClass.pcwgz, configured := true }
/-- QC_LANE.TX_K (R143). -/
def F.QC_LANE.TX_K : Fld := { reg := .QC_LANE, hi := 26, lo := 24, acc := .RW, reset := 0, by_ := RClass.pcwgz, configured := true, reserved := [(5, 7)] }
/-- QC_LANE.CFG_ERR (R143). -/
def F.QC_LANE.CFG_ERR : Fld := { reg := .QC_LANE, hi := 23, lo := 23, acc := .W1C, reset := 0, by_ := RClass.pcwgz }
/-- QC_STATUS.EVT (R143). -/
def F.QC_STATUS.EVT : Fld := { reg := .QC_STATUS, hi := 4, lo := 0, acc := .W1C, reset := 0, by_ := RClass.pcwgz }
/-- QC_FIRST.KIND (R143). -/
def F.QC_FIRST.KIND : Fld := { reg := .QC_FIRST, hi := 39, lo := 37, acc := .RO, reset := 0, by_ := RClass.pcwgz }
/-- QC_FIRST.QUEUE (R143). -/
def F.QC_FIRST.QUEUE : Fld := { reg := .QC_FIRST, hi := 36, lo := 33, acc := .RO, reset := 0, by_ := RClass.pcwgz }
/-- QC_FIRST.PTR (R143). -/
def F.QC_FIRST.PTR : Fld := { reg := .QC_FIRST, hi := 32, lo := 14, acc := .RO, reset := 0, by_ := RClass.pcwgz }
/-- QC_FIRST_STRIDE.NUM (R143). -/
def F.QC_FIRST_STRIDE.NUM : Fld := { reg := .QC_FIRST_STRIDE, hi := 39, lo := 0, acc := .RO, reset := 0, by_ := RClass.pcwgz }
/-- QC_SBE_CNT.COUNT (R143). -/
def F.QC_SBE_CNT.COUNT : Fld := { reg := .QC_SBE_CNT, hi := 31, lo := 0, acc := .RC, reset := 0, by_ := RClass.pcwgz }
/-- QC_REPAIR.VALID (R143). -/
def F.QC_REPAIR.VALID : Fld := { reg := .QC_REPAIR, hi := 39, lo := 39, acc := .RW, reset := 0, by_ := RClass.pc }
/-- QC_REPAIR.DONE (R143). -/
def F.QC_REPAIR.DONE : Fld := { reg := .QC_REPAIR, hi := 38, lo := 38, acc := .RO, reset := 0, by_ := RClass.pc }
/-- QC_REPAIR.AUTO (R143). -/
def F.QC_REPAIR.AUTO : Fld := { reg := .QC_REPAIR, hi := 37, lo := 37, acc := .RO, reset := 0, by_ := RClass.pc }
/-- QC_REPAIR.DUP (R143). -/
def F.QC_REPAIR.DUP : Fld := { reg := .QC_REPAIR, hi := 36, lo := 36, acc := .RO, reset := 0, by_ := RClass.pc }
/-- QC_REPAIR.ROW (R143). -/
def F.QC_REPAIR.ROW : Fld := { reg := .QC_REPAIR, hi := 13, lo := 0, acc := .RW, reset := 0, by_ := RClass.pc }
/-- SPD_CTRL.STARVE_THR (R143). -/
def F.SPD_CTRL.STARVE_THR : Fld := { reg := .SPD_CTRL, hi := 23, lo := 8, acc := .RW, reset := 0x1000, by_ := RClass.pc }
/-- SPD_CTRL.QSCRUB_EN (R143). -/
def F.SPD_CTRL.QSCRUB_EN : Fld := { reg := .SPD_CTRL, hi := 1, lo := 1, acc := .RW, reset := 1, by_ := RClass.pc }
/-- SPD_CTRL.SCRUB_EN (R143). -/
def F.SPD_CTRL.SCRUB_EN : Fld := { reg := .SPD_CTRL, hi := 0, lo := 0, acc := .RW, reset := 1, by_ := RClass.pc }
/-- SPD_STATUS.EVT (R143). -/
def F.SPD_STATUS.EVT : Fld := { reg := .SPD_STATUS, hi := 3, lo := 0, acc := .W1C, reset := 0, by_ := RClass.pcwg }
/-- SPD_SBE_CNT.COUNT (R143). -/
def F.SPD_SBE_CNT.COUNT : Fld := { reg := .SPD_SBE_CNT, hi := 31, lo := 0, acc := .RC, reset := 0, by_ := RClass.pcwg }
/-- SPD_DMA_STALL.CYCLES (R143). -/
def F.SPD_DMA_STALL.CYCLES : Fld := { reg := .SPD_DMA_STALL, hi := 39, lo := 0, acc := .RC, reset := 0, by_ := RClass.pcwge }
/-- SPD_FIRST.KIND (R143). -/
def F.SPD_FIRST.KIND : Fld := { reg := .SPD_FIRST, hi := 39, lo := 37, acc := .RO, reset := 0, by_ := RClass.pcwg }
/-- SPD_FIRST.WORD (R143). -/
def F.SPD_FIRST.WORD : Fld := { reg := .SPD_FIRST, hi := 36, lo := 20, acc := .RO, reset := 0, by_ := RClass.pcwg }
/-- SPD_FIRST_STRIDE.NUM (R143). -/
def F.SPD_FIRST_STRIDE.NUM : Fld := { reg := .SPD_FIRST_STRIDE, hi := 39, lo := 0, acc := .RO, reset := 0, by_ := RClass.pcwg }
/-- SPD_MARCH_CTRL.START (R143). -/
def F.SPD_MARCH_CTRL.START : Fld := { reg := .SPD_MARCH_CTRL, hi := 39, lo := 39, acc := .WO, reset := 0, by_ := RClass.never }
/-- SPD_MARCH_CTRL.TARGET (R143). -/
def F.SPD_MARCH_CTRL.TARGET : Fld := { reg := .SPD_MARCH_CTRL, hi := 38, lo := 38, acc := .RW, reset := 0, by_ := RClass.pc }
/-- SPD_MARCH_CTRL.KIND (R143). -/
def F.SPD_MARCH_CTRL.KIND : Fld := { reg := .SPD_MARCH_CTRL, hi := 37, lo := 37, acc := .RW, reset := 0, by_ := RClass.pc }
/-- SPD_MARCH_CTRL.AUTO_REPAIR (R143). -/
def F.SPD_MARCH_CTRL.AUTO_REPAIR : Fld := { reg := .SPD_MARCH_CTRL, hi := 36, lo := 36, acc := .RW, reset := 0, by_ := RClass.pc }
/-- SPD_MARCH_STAT.STATE (R143). -/
def F.SPD_MARCH_STAT.STATE : Fld := { reg := .SPD_MARCH_STAT, hi := 39, lo := 38, acc := .RO, reset := 0, by_ := RClass.pc }
/-- SPD_MARCH_STAT.REFUSED (R143). -/
def F.SPD_MARCH_STAT.REFUSED : Fld := { reg := .SPD_MARCH_STAT, hi := 37, lo := 37, acc := .RO, reset := 0, by_ := RClass.pc }
/-- SPD_MARCH_STAT.FAILS (R143). -/
def F.SPD_MARCH_STAT.FAILS : Fld := { reg := .SPD_MARCH_STAT, hi := 36, lo := 21, acc := .RO, reset := 0, by_ := RClass.pc }
/-- SPD_MARCH_STAT.SUB (R143). -/
def F.SPD_MARCH_STAT.SUB : Fld := { reg := .SPD_MARCH_STAT, hi := 20, lo := 18, acc := .RO, reset := 0, by_ := RClass.pc }
/-- SPD_MARCH_STAT.ROW (R143). -/
def F.SPD_MARCH_STAT.ROW : Fld := { reg := .SPD_MARCH_STAT, hi := 17, lo := 4, acc := .RO, reset := 0, by_ := RClass.pc }
/-- SPD_REPAIR.VALID (R143). -/
def F.SPD_REPAIR.VALID : Fld := { reg := .SPD_REPAIR, hi := 39, lo := 39, acc := .RW, reset := 0, by_ := RClass.pc }
/-- SPD_REPAIR.DONE (R143). -/
def F.SPD_REPAIR.DONE : Fld := { reg := .SPD_REPAIR, hi := 38, lo := 38, acc := .RO, reset := 0, by_ := RClass.pc }
/-- SPD_REPAIR.AUTO (R143). -/
def F.SPD_REPAIR.AUTO : Fld := { reg := .SPD_REPAIR, hi := 37, lo := 37, acc := .RO, reset := 0, by_ := RClass.pc }
/-- SPD_REPAIR.DUP (R143). -/
def F.SPD_REPAIR.DUP : Fld := { reg := .SPD_REPAIR, hi := 36, lo := 36, acc := .RO, reset := 0, by_ := RClass.pc }
/-- SPD_REPAIR.ROW (R143). -/
def F.SPD_REPAIR.ROW : Fld := { reg := .SPD_REPAIR, hi := 13, lo := 0, acc := .RW, reset := 0, by_ := RClass.pc, reserved := [(8192, 16383)] }
/-- NOC_RSTAT.LINK_UP (R311). -/
def F.NOC_RSTAT.LINK_UP : Fld := { reg := .NOC_RSTAT, hi := 39, lo := 36, acc := .RO, reset := 0, by_ := RClass.never }
/-- NOC_RSTAT.EVT (R311). -/
def F.NOC_RSTAT.EVT : Fld := { reg := .NOC_RSTAT, hi := 35, lo := 32, acc := .W1C, reset := 0, by_ := RClass.pcwg }
/-- NOC_RSTAT.CFG_ERR (R311). -/
def F.NOC_RSTAT.CFG_ERR : Fld := { reg := .NOC_RSTAT, hi := 31, lo := 31, acc := .W1C, reset := 0, by_ := RClass.pcwg }
/-- NOC_RSTAT.NODE_L (R311). -/
def F.NOC_RSTAT.NODE_L : Fld := { reg := .NOC_RSTAT, hi := 30, lo := 29, acc := .RO, reset := 0, by_ := RClass.never }
/-- NOC_RSTAT.NODE_S (R311). -/
def F.NOC_RSTAT.NODE_S : Fld := { reg := .NOC_RSTAT, hi := 28, lo := 27, acc := .RO, reset := 0, by_ := RClass.never }
/-- NOC_LINK_ERR.E (R311). -/
def F.NOC_LINK_ERR.E : Fld := { reg := .NOC_LINK_ERR, hi := 39, lo := 30, acc := .RC, reset := 0, by_ := RClass.pcwg }
/-- NOC_LINK_ERR.W (R311). -/
def F.NOC_LINK_ERR.W : Fld := { reg := .NOC_LINK_ERR, hi := 29, lo := 20, acc := .RC, reset := 0, by_ := RClass.pcwg }
/-- NOC_LINK_ERR.N (R311). -/
def F.NOC_LINK_ERR.N : Fld := { reg := .NOC_LINK_ERR, hi := 19, lo := 10, acc := .RC, reset := 0, by_ := RClass.pcwg }
/-- NOC_LINK_ERR.S (R311). -/
def F.NOC_LINK_ERR.S : Fld := { reg := .NOC_LINK_ERR, hi := 9, lo := 0, acc := .RC, reset := 0, by_ := RClass.pcwg }
/-- NOC_RES.LOCAL (R311). -/
def F.NOC_RES.LOCAL : Fld := { reg := .NOC_RES, hi := 39, lo := 28, acc := .RW, reset := 0, by_ := RClass.pc, reserved := [(193, 4095)] }
/-- NOC_RES.SVC (R311). -/
def F.NOC_RES.SVC : Fld := { reg := .NOC_RES, hi := 27, lo := 16, acc := .RW, reset := 0, by_ := RClass.pc, reserved := [(193, 4095)] }
/-- NOC_RES_STAT.SHORT_L (R311). -/
def F.NOC_RES_STAT.SHORT_L : Fld := { reg := .NOC_RES_STAT, hi := 39, lo := 20, acc := .RC, reset := 0, by_ := RClass.pcwg }
/-- NOC_RES_STAT.SHORT_S (R311). -/
def F.NOC_RES_STAT.SHORT_S : Fld := { reg := .NOC_RES_STAT, hi := 19, lo := 0, acc := .RC, reset := 0, by_ := RClass.pcwg }
/-- NOC_PRB_CFG.MODE0 (R311). -/
def F.NOC_PRB_CFG.MODE0 : Fld := { reg := .NOC_PRB_CFG, hi := 39, lo := 38, acc := .RW, reset := 0, by_ := RClass.pc }
/-- NOC_PRB_CFG.MODE1 (R311). -/
def F.NOC_PRB_CFG.MODE1 : Fld := { reg := .NOC_PRB_CFG, hi := 37, lo := 36, acc := .RW, reset := 0, by_ := RClass.pc }
/-- NOC_PRB_CFG.POINT (R311). -/
def F.NOC_PRB_CFG.POINT : Fld := { reg := .NOC_PRB_CFG, hi := 35, lo := 33, acc := .RW, reset := 0, by_ := RClass.pc }
/-- NOC_PRB_CFG.TRACE (R311). -/
def F.NOC_PRB_CFG.TRACE : Fld := { reg := .NOC_PRB_CFG, hi := 32, lo := 32, acc := .RW, reset := 0, by_ := RClass.pc }
/-- NOC_PRB_FILT.CLASS (R311). -/
def F.NOC_PRB_FILT.CLASS : Fld := { reg := .NOC_PRB_FILT, hi := 39, lo := 38, acc := .RW, reset := 0, by_ := RClass.pc, reserved := [(3, 3)] }
/-- NOC_PRB_FILT.CLASS_ANY (R311). -/
def F.NOC_PRB_FILT.CLASS_ANY : Fld := { reg := .NOC_PRB_FILT, hi := 37, lo := 37, acc := .RW, reset := 1, by_ := RClass.pc }
/-- NOC_PRB_FILT.OP (R311). -/
def F.NOC_PRB_FILT.OP : Fld := { reg := .NOC_PRB_FILT, hi := 36, lo := 32, acc := .RW, reset := 0, by_ := RClass.pc }
/-- NOC_PRB_FILT.OP_ANY (R311). -/
def F.NOC_PRB_FILT.OP_ANY : Fld := { reg := .NOC_PRB_FILT, hi := 31, lo := 31, acc := .RW, reset := 1, by_ := RClass.pc }
/-- NOC_PRB_FILT.SRCID (R311). -/
def F.NOC_PRB_FILT.SRCID : Fld := { reg := .NOC_PRB_FILT, hi := 30, lo := 23, acc := .RW, reset := 0, by_ := RClass.pc }
/-- NOC_PRB_FILT.SRC_ANY (R311). -/
def F.NOC_PRB_FILT.SRC_ANY : Fld := { reg := .NOC_PRB_FILT, hi := 22, lo := 22, acc := .RW, reset := 1, by_ := RClass.pc }
/-- NOC_PRB_FILT.DST (R311). -/
def F.NOC_PRB_FILT.DST : Fld := { reg := .NOC_PRB_FILT, hi := 21, lo := 16, acc := .RW, reset := 0, by_ := RClass.pc }
/-- NOC_PRB_FILT.DST_ANY (R311). -/
def F.NOC_PRB_FILT.DST_ANY : Fld := { reg := .NOC_PRB_FILT, hi := 15, lo := 15, acc := .RW, reset := 1, by_ := RClass.pc }
/-- NOC_PRB_CNT.NUM (R311). -/
def F.NOC_PRB_CNT.NUM : Fld := { reg := .NOC_PRB_CNT, hi := 39, lo := 0, acc := .RC, reset := 0, by_ := RClass.pcwg }
/-- NOC_TBL_ACT.OUT (R311). -/
def F.NOC_TBL_ACT.OUT : Fld := { reg := .NOC_TBL_ACT, hi := 2, lo := 0, acc := .RO, reset := 0, by_ := RClass.pc }
/-- NOC_TBL_PEND.OUT (R311). -/
def F.NOC_TBL_PEND.OUT : Fld := { reg := .NOC_TBL_PEND, hi := 2, lo := 0, acc := .RW, reset := 0, by_ := RClass.pc, reserved := [(5, 7)] }
/-- TRG_WIN_CTRL.MODE (R268). -/
def F.TRG_WIN_CTRL.MODE : Fld := { reg := .TRG_WIN_CTRL, hi := 39, lo := 38, acc := .RW, reset := 0, by_ := RClass.pc, reserved := [(2, 3)] }
/-- TRG_WIN_CTRL.ARM (R268). -/
def F.TRG_WIN_CTRL.ARM : Fld := { reg := .TRG_WIN_CTRL, hi := 37, lo := 37, acc := .WO, reset := 0, by_ := RClass.never }
/-- TRG_WIN_CTRL.FORCE (R268). -/
def F.TRG_WIN_CTRL.FORCE : Fld := { reg := .TRG_WIN_CTRL, hi := 36, lo := 36, acc := .WO, reset := 0, by_ := RClass.never }
/-- TRG_WIN_CTRL.TRIG_SEL (R268). -/
def F.TRG_WIN_CTRL.TRIG_SEL : Fld := { reg := .TRG_WIN_CTRL, hi := 35, lo := 29, acc := .RW, reset := 0x7f, by_ := RClass.pc, reserved := [(65, 126)] }
/-- TRG_WIN_PRE.PRE (R268). -/
def F.TRG_WIN_PRE.PRE : Fld := { reg := .TRG_WIN_PRE, hi := 39, lo := 20, acc := .RW, reset := 0, by_ := RClass.pc }
/-- TRG_WIN_PRE.POST (R268). -/
def F.TRG_WIN_PRE.POST : Fld := { reg := .TRG_WIN_PRE, hi := 19, lo := 0, acc := .RW, reset := 0, by_ := RClass.pc }
/-- TRG_WIN_STAT.STATE (R268). -/
def F.TRG_WIN_STAT.STATE : Fld := { reg := .TRG_WIN_STAT, hi := 39, lo := 37, acc := .RO, reset := 0, by_ := RClass.pcwg }
/-- TRG_WIN_STAT.CLIPPED (R268). -/
def F.TRG_WIN_STAT.CLIPPED : Fld := { reg := .TRG_WIN_STAT, hi := 36, lo := 36, acc := .RO, reset := 0, by_ := RClass.pcwg }
/-- TRG_WIN_STAT.FS (R268). -/
def F.TRG_WIN_STAT.FS : Fld := { reg := .TRG_WIN_STAT, hi := 35, lo := 20, acc := .RO, reset := 0, by_ := RClass.pcwg }
/-- TRG_WIN_STAT.STALE (R268). -/
def F.TRG_WIN_STAT.STALE : Fld := { reg := .TRG_WIN_STAT, hi := 19, lo := 12, acc := .RO, reset := 0, by_ := RClass.pcwg }
/-- TRG_WIN_STAT.CFG_ERR (R268). -/
def F.TRG_WIN_STAT.CFG_ERR : Fld := { reg := .TRG_WIN_STAT, hi := 11, lo := 11, acc := .W1C, reset := 0, by_ := RClass.pcwg }
/-- TRG_WIN_STAT.EVT (R268). -/
def F.TRG_WIN_STAT.EVT : Fld := { reg := .TRG_WIN_STAT, hi := 10, lo := 9, acc := .W1C, reset := 0, by_ := RClass.pcwg }
/-- TRG_WIN_CLIP.CUT (R268). -/
def F.TRG_WIN_CLIP.CUT : Fld := { reg := .TRG_WIN_CLIP, hi := 19, lo := 0, acc := .RO, reset := 0, by_ := RClass.pcwg }
/-- TRG_WIN_CNT_LO.NUM (R268). -/
def F.TRG_WIN_CNT_LO.NUM : Fld := { reg := .TRG_WIN_CNT_LO, hi := 39, lo := 0, acc := .RO, reset := 0, by_ := RClass.pc }
/-- TRG_WIN_CNT_HI.NUM (R268). -/
def F.TRG_WIN_CNT_HI.NUM : Fld := { reg := .TRG_WIN_CNT_HI, hi := 39, lo := 0, acc := .RO, reset := 0, by_ := RClass.pc }
/-- TRG_WIN_TRIG_E.NUM (R268). -/
def F.TRG_WIN_TRIG_E.NUM : Fld := { reg := .TRG_WIN_TRIG_E, hi := 39, lo := 0, acc := .RO, reset := 0, by_ := RClass.pcwg }
/-- TRG_WIN_TRIG_INFO.EVENT (R268). -/
def F.TRG_WIN_TRIG_INFO.EVENT : Fld := { reg := .TRG_WIN_TRIG_INFO, hi := 39, lo := 33, acc := .RO, reset := 0, by_ := RClass.pcwg }
/-- TRG_WIN_TRIG_INFO.FRAC (R268). -/
def F.TRG_WIN_TRIG_INFO.FRAC : Fld := { reg := .TRG_WIN_TRIG_INFO, hi := 32, lo := 25, acc := .RO, reset := 0, by_ := RClass.pcwg }
/-- TRG_WIN_TRIG_FRAC.FRAC (R268). -/
def F.TRG_WIN_TRIG_FRAC.FRAC : Fld := { reg := .TRG_WIN_TRIG_FRAC, hi := 39, lo := 0, acc := .RO, reset := 0, by_ := RClass.pcwg }
/-- TRG_WIN_TRIG_SEC.SEC (R268). -/
def F.TRG_WIN_TRIG_SEC.SEC : Fld := { reg := .TRG_WIN_TRIG_SEC, hi := 39, lo := 0, acc := .RO, reset := 0, by_ := RClass.pcwg }
/-- TRG_WIN_FS_FRAC.FRAC (R268). -/
def F.TRG_WIN_FS_FRAC.FRAC : Fld := { reg := .TRG_WIN_FS_FRAC, hi := 39, lo := 0, acc := .RO, reset := 0, by_ := RClass.pcwg }
/-- TRG_WIN_FS_SEC.SEC (R268). -/
def F.TRG_WIN_FS_SEC.SEC : Fld := { reg := .TRG_WIN_FS_SEC, hi := 39, lo := 0, acc := .RO, reset := 0, by_ := RClass.pcwg }
/-- TRG_WIN_DEAD.NS (R268). -/
def F.TRG_WIN_DEAD.NS : Fld := { reg := .TRG_WIN_DEAD, hi := 39, lo := 0, acc := .RO, reset := 0, by_ := RClass.pcwg }
/-- TRG_DET_CFG.KIND (R268). -/
def F.TRG_DET_CFG.KIND : Fld := { reg := .TRG_DET_CFG, hi := 39, lo := 38, acc := .RW, reset := 0, by_ := RClass.pc }
/-- TRG_DET_CFG.SLOPE (R268). -/
def F.TRG_DET_CFG.SLOPE : Fld := { reg := .TRG_DET_CFG, hi := 37, lo := 36, acc := .RW, reset := 0, by_ := RClass.pc, reserved := [(3, 3)] }
/-- TRG_DET_CFG.THR (R268). -/
def F.TRG_DET_CFG.THR : Fld := { reg := .TRG_DET_CFG, hi := 35, lo := 28, acc := .RW, reset := 0, by_ := RClass.pc }
/-- TRG_DET_CFG.HYST (R268). -/
def F.TRG_DET_CFG.HYST : Fld := { reg := .TRG_DET_CFG, hi := 27, lo := 21, acc := .RW, reset := 0, by_ := RClass.pc }
/-- TRG_DET_CFG.STAT_SEL (R268). -/
def F.TRG_DET_CFG.STAT_SEL : Fld := { reg := .TRG_DET_CFG, hi := 20, lo := 18, acc := .RW, reset := 0, by_ := RClass.pc, reserved := [(6, 7)] }
/-- TRG_DET_MATCH.WORD (R268). -/
def F.TRG_DET_MATCH.WORD : Fld := { reg := .TRG_DET_MATCH, hi := 39, lo := 0, acc := .RW, reset := 0, by_ := RClass.pc }
/-- TRG_DET_MASK.BITS (R268). -/
def F.TRG_DET_MASK.BITS : Fld := { reg := .TRG_DET_MASK, hi := 39, lo := 0, acc := .RW, reset := 0, by_ := RClass.pc }
/-- TRG_WIN_LTIME.FRAC (R268). -/
def F.TRG_WIN_LTIME.FRAC : Fld := { reg := .TRG_WIN_LTIME, hi := 39, lo := 0, acc := .RO, reset := 0, by_ := RClass.never }
/-- LN_CTRL.EN (R247). -/
def F.LN_CTRL.EN : Fld := { reg := .LN_CTRL, hi := 39, lo := 39, acc := .RW, reset := 0, by_ := RClass.pc }
/-- LN_CTRL.FEED (R247). -/
def F.LN_CTRL.FEED : Fld := { reg := .LN_CTRL, hi := 38, lo := 38, acc := .RW, reset := 0, by_ := RClass.pcwg }
/-- LN_CTRL.LOOP (R247). -/
def F.LN_CTRL.LOOP : Fld := { reg := .LN_CTRL, hi := 37, lo := 36, acc := .RW, reset := 0, by_ := RClass.pc, reserved := [(3, 3)] }
/-- LN_CTRL.TX_POL (R247). -/
def F.LN_CTRL.TX_POL : Fld := { reg := .LN_CTRL, hi := 35, lo := 35, acc := .RW, reset := 0, by_ := RClass.pc }
/-- LN_CTRL.RX_POL (R247). -/
def F.LN_CTRL.RX_POL : Fld := { reg := .LN_CTRL, hi := 34, lo := 34, acc := .RW, reset := 0, by_ := RClass.pc }
/-- LN_CTRL.TX_SRC (R247). -/
def F.LN_CTRL.TX_SRC : Fld := { reg := .LN_CTRL, hi := 33, lo := 32, acc := .RW, reset := 0, by_ := RClass.pc }
/-- LN_CTRL.MUTE (R247). -/
def F.LN_CTRL.MUTE : Fld := { reg := .LN_CTRL, hi := 31, lo := 31, acc := .RW, reset := 0, by_ := RClass.pc }
/-- LN_CTRL.PARK (R247). -/
def F.LN_CTRL.PARK : Fld := { reg := .LN_CTRL, hi := 30, lo := 29, acc := .RW, reset := 0, by_ := RClass.pc, reserved := [(3, 3)] }
/-- LN_CTRL.CLR_CNT (R247). -/
def F.LN_CTRL.CLR_CNT : Fld := { reg := .LN_CTRL, hi := 28, lo := 28, acc := .WO, reset := 0, by_ := RClass.never }
/-- LN_RATE.MOD (R247). -/
def F.LN_RATE.MOD : Fld := { reg := .LN_RATE, hi := 39, lo := 39, acc := .RW, reset := 0, by_ := RClass.pc }
/-- LN_RATE.GRAY (R247). -/
def F.LN_RATE.GRAY : Fld := { reg := .LN_RATE, hi := 38, lo := 38, acc := .RW, reset := 1, by_ := RClass.pc }
/-- LN_RATE.PRECODE (R247). -/
def F.LN_RATE.PRECODE : Fld := { reg := .LN_RATE, hi := 37, lo := 37, acc := .RW, reset := 0, by_ := RClass.pc }
/-- LN_RATE.BAUD (R247). -/
def F.LN_RATE.BAUD : Fld := { reg := .LN_RATE, hi := 36, lo := 10, acc := .RW, reset := 0, by_ := RClass.pc }
/-- LN_PCS.MODE (R247). -/
def F.LN_PCS.MODE : Fld := { reg := .LN_PCS, hi := 39, lo := 37, acc := .RW, reset := 0, by_ := RClass.pc, reserved := [(4, 7)] }
/-- LN_PCS.SCR (R247). -/
def F.LN_PCS.SCR : Fld := { reg := .LN_PCS, hi := 36, lo := 36, acc := .RW, reset := 1, by_ := RClass.pc }
/-- LN_PCS.GATE (R247). -/
def F.LN_PCS.GATE : Fld := { reg := .LN_PCS, hi := 35, lo := 35, acc := .RW, reset := 1, by_ := RClass.pc }
/-- LN_PCS.COMMA_SET (R247). -/
def F.LN_PCS.COMMA_SET : Fld := { reg := .LN_PCS, hi := 34, lo := 32, acc := .RW, reset := 2, by_ := RClass.pc }
/-- LN_PCS.COMMA_B0 (R247). -/
def F.LN_PCS.COMMA_B0 : Fld := { reg := .LN_PCS, hi := 31, lo := 31, acc := .RW, reset := 1, by_ := RClass.pc }
/-- LN_PCS.FEC_DET_ONLY (R247). -/
def F.LN_PCS.FEC_DET_ONLY : Fld := { reg := .LN_PCS, hi := 30, lo := 30, acc := .RW, reset := 0, by_ := RClass.pc }
/-- LN_STATUS.GRP_ON (R247). -/
def F.LN_STATUS.GRP_ON : Fld := { reg := .LN_STATUS, hi := 39, lo := 39, acc := .RO, reset := 0, by_ := RClass.never }
/-- LN_STATUS.PLL_LOCK (R247). -/
def F.LN_STATUS.PLL_LOCK : Fld := { reg := .LN_STATUS, hi := 38, lo := 38, acc := .RO, reset := 0, by_ := RClass.never }
/-- LN_STATUS.SIG (R247). -/
def F.LN_STATUS.SIG : Fld := { reg := .LN_STATUS, hi := 37, lo := 37, acc := .RO, reset := 0, by_ := RClass.never }
/-- LN_STATUS.CDR_LOCK (R247). -/
def F.LN_STATUS.CDR_LOCK : Fld := { reg := .LN_STATUS, hi := 36, lo := 36, acc := .RO, reset := 0, by_ := RClass.never }
/-- LN_STATUS.ADAPT_DONE (R247). -/
def F.LN_STATUS.ADAPT_DONE : Fld := { reg := .LN_STATUS, hi := 35, lo := 35, acc := .RO, reset := 0, by_ := RClass.never }
/-- LN_STATUS.ALIGN (R247). -/
def F.LN_STATUS.ALIGN : Fld := { reg := .LN_STATUS, hi := 34, lo := 34, acc := .RO, reset := 0, by_ := RClass.never }
/-- LN_STATUS.CHK_LOCK (R247). -/
def F.LN_STATUS.CHK_LOCK : Fld := { reg := .LN_STATUS, hi := 33, lo := 33, acc := .RO, reset := 0, by_ := RClass.never }
/-- LN_STATUS.PSTATE (R247). -/
def F.LN_STATUS.PSTATE : Fld := { reg := .LN_STATUS, hi := 32, lo := 31, acc := .RO, reset := 0, by_ := RClass.never }
/-- LN_STATUS.CFG_ERR (R247). -/
def F.LN_STATUS.CFG_ERR : Fld := { reg := .LN_STATUS, hi := 30, lo := 30, acc := .W1C, reset := 0, by_ := RClass.pcwg }
/-- LN_STATUS.RELOCK_LATE (R247). -/
def F.LN_STATUS.RELOCK_LATE : Fld := { reg := .LN_STATUS, hi := 29, lo := 29, acc := .W1C, reset := 0, by_ := RClass.pcwg }
/-- LN_STATUS.INJ_NA (R247). -/
def F.LN_STATUS.INJ_NA : Fld := { reg := .LN_STATUS, hi := 28, lo := 28, acc := .W1C, reset := 0, by_ := RClass.pcwg }
/-- LN_STATUS.EVT (R247). -/
def F.LN_STATUS.EVT : Fld := { reg := .LN_STATUS, hi := 27, lo := 22, acc := .W1C, reset := 0, by_ := RClass.pcwg }
/-- LN_TX_FFE.CM2 (R247). -/
def F.LN_TX_FFE.CM2 : Fld := { reg := .LN_TX_FFE, hi := 39, lo := 32, acc := .RW, reset := 0, by_ := RClass.pc }
/-- LN_TX_FFE.CM1 (R247). -/
def F.LN_TX_FFE.CM1 : Fld := { reg := .LN_TX_FFE, hi := 31, lo := 24, acc := .RW, reset := 0, by_ := RClass.pc }
/-- LN_TX_FFE.C0 (R247). -/
def F.LN_TX_FFE.C0 : Fld := { reg := .LN_TX_FFE, hi := 23, lo := 16, acc := .RW, reset := 0x40, by_ := RClass.pc }
/-- LN_TX_FFE.CP1 (R247). -/
def F.LN_TX_FFE.CP1 : Fld := { reg := .LN_TX_FFE, hi := 15, lo := 8, acc := .RW, reset := 0, by_ := RClass.pc }
/-- LN_TX_FFE.CP2 (R247). -/
def F.LN_TX_FFE.CP2 : Fld := { reg := .LN_TX_FFE, hi := 7, lo := 0, acc := .RW, reset := 0, by_ := RClass.pc }
/-- LN_TX_CFG.SWING (R247). -/
def F.LN_TX_CFG.SWING : Fld := { reg := .LN_TX_CFG, hi := 39, lo := 32, acc := .RW, reset := 0x80, by_ := RClass.pc }
/-- LN_TX_CFG.INNER (R247). -/
def F.LN_TX_CFG.INNER : Fld := { reg := .LN_TX_CFG, hi := 31, lo := 26, acc := .RW, reset := 0, by_ := RClass.pc }
/-- LN_TX_FILL0.WORD (R247). -/
def F.LN_TX_FILL0.WORD : Fld := { reg := .LN_TX_FILL0, hi := 39, lo := 0, acc := .RW, reset := 0, by_ := RClass.pc }
/-- LN_TX_FILL1.WORD (R247). -/
def F.LN_TX_FILL1.WORD : Fld := { reg := .LN_TX_FILL1, hi := 39, lo := 0, acc := .RW, reset := 0x1000000, by_ := RClass.pc }
/-- LN_PAT0.BITS (R247). -/
def F.LN_PAT0.BITS : Fld := { reg := .LN_PAT0, hi := 39, lo := 0, acc := .RW, reset := 0, by_ := RClass.pc }
/-- LN_PAT1.BITS (R247). -/
def F.LN_PAT1.BITS : Fld := { reg := .LN_PAT1, hi := 39, lo := 0, acc := .RW, reset := 0, by_ := RClass.pc }
/-- LN_PAT_CFG.PRBS (R247). -/
def F.LN_PAT_CFG.PRBS : Fld := { reg := .LN_PAT_CFG, hi := 39, lo := 37, acc := .RW, reset := 5, by_ := RClass.pc, reserved := [(6, 7)] }
/-- LN_PAT_CFG.INV (R247). -/
def F.LN_PAT_CFG.INV : Fld := { reg := .LN_PAT_CFG, hi := 36, lo := 36, acc := .RW, reset := 0, by_ := RClass.pc }
/-- LN_PAT_CFG.LEN_M1 (R247). -/
def F.LN_PAT_CFG.LEN_M1 : Fld := { reg := .LN_PAT_CFG, hi := 35, lo := 29, acc := .RW, reset := 0x4f, by_ := RClass.pc, reserved := [(80, 127)] }
/-- LN_PAT_CFG.CHK (R247). -/
def F.LN_PAT_CFG.CHK : Fld := { reg := .LN_PAT_CFG, hi := 28, lo := 27, acc := .RW, reset := 0, by_ := RClass.pc, reserved := [(3, 3)] }
/-- LN_PAT_CFG.CHK_INV (R247). -/
def F.LN_PAT_CFG.CHK_INV : Fld := { reg := .LN_PAT_CFG, hi := 26, lo := 26, acc := .RW, reset := 0, by_ := RClass.pc }
/-- LN_RX_CFG.ADAPT (R247). -/
def F.LN_RX_CFG.ADAPT : Fld := { reg := .LN_RX_CFG, hi := 39, lo := 38, acc := .RW, reset := 0, by_ := RClass.pc, reserved := [(3, 3)] }
/-- LN_RX_CFG.CURSOR (R247). -/
def F.LN_RX_CFG.CURSOR : Fld := { reg := .LN_RX_CFG, hi := 37, lo := 33, acc := .RW, reset := 4, by_ := RClass.pc, reserved := [(24, 31)] }
/-- LN_RX_CFG.DFE_EN (R247). -/
def F.LN_RX_CFG.DFE_EN : Fld := { reg := .LN_RX_CFG, hi := 32, lo := 32, acc := .RW, reset := 1, by_ := RClass.pc }
/-- LN_RX_CFG.SSC (R247). -/
def F.LN_RX_CFG.SSC : Fld := { reg := .LN_RX_CFG, hi := 31, lo := 31, acc := .RW, reset := 0, by_ := RClass.pc }
/-- LN_RX_CFG.TAP (R247). -/
def F.LN_RX_CFG.TAP : Fld := { reg := .LN_RX_CFG, hi := 30, lo := 28, acc := .RW, reset := 0, by_ := RClass.pc, reserved := [(4, 7)] }
/-- LN_RX_CFG.LOS_THR (R247). -/
def F.LN_RX_CFG.LOS_THR : Fld := { reg := .LN_RX_CFG, hi := 27, lo := 20, acc := .RW, reset := 0x10, by_ := RClass.pc }
/-- LN_EQ_STAT.MSE (R247). -/
def F.LN_EQ_STAT.MSE : Fld := { reg := .LN_EQ_STAT, hi := 39, lo := 24, acc := .RO, reset := 0, by_ := RClass.never }
/-- LN_EQ_STAT.AGC (R247). -/
def F.LN_EQ_STAT.AGC : Fld := { reg := .LN_EQ_STAT, hi := 23, lo := 16, acc := .RO, reset := 0, by_ := RClass.never }
/-- LN_EQ_STAT.FREQ (R247). -/
def F.LN_EQ_STAT.FREQ : Fld := { reg := .LN_EQ_STAT, hi := 15, lo := 0, acc := .RO, reset := 0, by_ := RClass.never }
/-- LN_PCS_CNT.LOSSES (R247). -/
def F.LN_PCS_CNT.LOSSES : Fld := { reg := .LN_PCS_CNT, hi := 39, lo := 30, acc := .RO, reset := 0, by_ := RClass.pcwg }
/-- LN_PCS_CNT.CODE_ERR (R247). -/
def F.LN_PCS_CNT.CODE_ERR : Fld := { reg := .LN_PCS_CNT, hi := 29, lo := 0, acc := .RO, reset := 0, by_ := RClass.pcwg }
/-- LN_CHK_BITS_LO.NUM (R247). -/
def F.LN_CHK_BITS_LO.NUM : Fld := { reg := .LN_CHK_BITS_LO, hi := 39, lo := 0, acc := .RO, reset := 0, by_ := RClass.pcwg }
/-- LN_CHK_BITS_HI.NUM (R247). -/
def F.LN_CHK_BITS_HI.NUM : Fld := { reg := .LN_CHK_BITS_HI, hi := 39, lo := 0, acc := .RO, reset := 0, by_ := RClass.pcwg }
/-- LN_CHK_ERR.NUM (R247). -/
def F.LN_CHK_ERR.NUM : Fld := { reg := .LN_CHK_ERR, hi := 39, lo := 0, acc := .RO, reset := 0, by_ := RClass.pcwg }
/-- LN_INJ_CFG.DIR (R247). -/
def F.LN_INJ_CFG.DIR : Fld := { reg := .LN_INJ_CFG, hi := 39, lo := 39, acc := .RW, reset := 0, by_ := RClass.pc }
/-- LN_INJ_CFG.KIND (R247). -/
def F.LN_INJ_CFG.KIND : Fld := { reg := .LN_INJ_CFG, hi := 38, lo := 36, acc := .RW, reset := 0, by_ := RClass.pc, reserved := [(6, 7)] }
/-- LN_INJ_CFG.LEN (R247). -/
def F.LN_INJ_CFG.LEN : Fld := { reg := .LN_INJ_CFG, hi := 35, lo := 30, acc := .RW, reset := 1, by_ := RClass.pc }
/-- LN_INJ_CFG.PERIOD (R247). -/
def F.LN_INJ_CFG.PERIOD : Fld := { reg := .LN_INJ_CFG, hi := 29, lo := 0, acc := .RW, reset := 1, by_ := RClass.pc }
/-- LN_INJ_CTRL.GO (R247). -/
def F.LN_INJ_CTRL.GO : Fld := { reg := .LN_INJ_CTRL, hi := 39, lo := 39, acc := .WO, reset := 0, by_ := RClass.never }
/-- LN_INJ_CTRL.STOP (R247). -/
def F.LN_INJ_CTRL.STOP : Fld := { reg := .LN_INJ_CTRL, hi := 38, lo := 38, acc := .WO, reset := 0, by_ := RClass.never }
/-- LN_INJ_CTRL.CONT (R247). -/
def F.LN_INJ_CTRL.CONT : Fld := { reg := .LN_INJ_CTRL, hi := 37, lo := 37, acc := .RW, reset := 0, by_ := RClass.pc }
/-- LN_INJ_CTRL.BUSY (R247). -/
def F.LN_INJ_CTRL.BUSY : Fld := { reg := .LN_INJ_CTRL, hi := 36, lo := 36, acc := .RO, reset := 0, by_ := RClass.never }
/-- LN_INJ_CTRL.REMAIN (R247). -/
def F.LN_INJ_CTRL.REMAIN : Fld := { reg := .LN_INJ_CTRL, hi := 31, lo := 16, acc := .RO, reset := 0, by_ := RClass.pcwg }
/-- LN_INJ_CTRL.N (R247). -/
def F.LN_INJ_CTRL.N : Fld := { reg := .LN_INJ_CTRL, hi := 15, lo := 0, acc := .RW, reset := 1, by_ := RClass.pc }
/-- LN_HIST_CFG.START (R247). -/
def F.LN_HIST_CFG.START : Fld := { reg := .LN_HIST_CFG, hi := 39, lo := 39, acc := .WO, reset := 0, by_ := RClass.never }
/-- LN_HIST_CFG.DONE (R247). -/
def F.LN_HIST_CFG.DONE : Fld := { reg := .LN_HIST_CFG, hi := 38, lo := 38, acc := .RO, reset := 0, by_ := RClass.pcwg }
/-- LN_HIST_CFG.SRC (R247). -/
def F.LN_HIST_CFG.SRC : Fld := { reg := .LN_HIST_CFG, hi := 37, lo := 36, acc := .RW, reset := 0, by_ := RClass.pc, reserved := [(3, 3)] }
/-- LN_HIST_CFG.PH (R247). -/
def F.LN_HIST_CFG.PH : Fld := { reg := .LN_HIST_CFG, hi := 35, lo := 29, acc := .RW, reset := 0, by_ := RClass.pc, reserved := [(32, 95)] }
/-- LN_HIST_CFG.COND (R247). -/
def F.LN_HIST_CFG.COND : Fld := { reg := .LN_HIST_CFG, hi := 28, lo := 26, acc := .RW, reset := 0, by_ := RClass.pc, reserved := [(5, 7)] }
/-- LN_HIST_CFG.DECIM (R247). -/
def F.LN_HIST_CFG.DECIM : Fld := { reg := .LN_HIST_CFG, hi := 25, lo := 22, acc := .RW, reset := 0, by_ := RClass.pc }
/-- LN_HIST_N.NUM (R247). -/
def F.LN_HIST_N.NUM : Fld := { reg := .LN_HIST_N, hi := 39, lo := 0, acc := .RW, reset := 0, by_ := RClass.pc }
/-- LN_TS_MATCH.WORD (R247). -/
def F.LN_TS_MATCH.WORD : Fld := { reg := .LN_TS_MATCH, hi := 39, lo := 0, acc := .RW, reset := 0, by_ := RClass.pc }
/-- LN_TS_MASK.BITS (R247). -/
def F.LN_TS_MASK.BITS : Fld := { reg := .LN_TS_MASK, hi := 39, lo := 0, acc := .RW, reset := 0, by_ := RClass.pc }
/-- LN_TS_INFO.VALID (R247). -/
def F.LN_TS_INFO.VALID : Fld := { reg := .LN_TS_INFO, hi := 39, lo := 39, acc := .RC, reset := 0, by_ := RClass.pcwg }
/-- LN_TS_INFO.DROPS (R247). -/
def F.LN_TS_INFO.DROPS : Fld := { reg := .LN_TS_INFO, hi := 38, lo := 31, acc := .RC, reset := 0, by_ := RClass.pcwg }
/-- LN_TS_FRAC.FRAC (R247). -/
def F.LN_TS_FRAC.FRAC : Fld := { reg := .LN_TS_FRAC, hi := 39, lo := 0, acc := .RO, reset := 0, by_ := RClass.pcwg }
/-- LN_TS_SEC.SEC (R247). -/
def F.LN_TS_SEC.SEC : Fld := { reg := .LN_TS_SEC, hi := 39, lo := 0, acc := .RO, reset := 0, by_ := RClass.pcwg }
/-- LN_SLIP.SLIP (R247). -/
def F.LN_SLIP.SLIP : Fld := { reg := .LN_SLIP, hi := 0, lo := 0, acc := .WO, reset := 0, by_ := RClass.never }
/-- LN_FFE.COEF (R247). -/
def F.LN_FFE.COEF : Fld := { reg := .LN_FFE, hi := 9, lo := 0, acc := .RW, reset := 0, by_ := RClass.pc }
/-- LN_DFE.D1 (R247). -/
def F.LN_DFE.D1 : Fld := { reg := .LN_DFE, hi := 9, lo := 0, acc := .RW, reset := 0, by_ := RClass.pc }
/-- LN_FEC_CW_LO.NUM (R247). -/
def F.LN_FEC_CW_LO.NUM : Fld := { reg := .LN_FEC_CW_LO, hi := 39, lo := 0, acc := .RO, reset := 0, by_ := RClass.pcwg }
/-- LN_FEC_CW_HI.NUM (R247). -/
def F.LN_FEC_CW_HI.NUM : Fld := { reg := .LN_FEC_CW_HI, hi := 39, lo := 0, acc := .RO, reset := 0, by_ := RClass.pcwg }
/-- LN_FEC_CORR.NUM (R247). -/
def F.LN_FEC_CORR.NUM : Fld := { reg := .LN_FEC_CORR, hi := 39, lo := 0, acc := .RO, reset := 0, by_ := RClass.pcwg }
/-- LN_FEC_UNCORR.NUM (R247). -/
def F.LN_FEC_UNCORR.NUM : Fld := { reg := .LN_FEC_UNCORR, hi := 39, lo := 0, acc := .RO, reset := 0, by_ := RClass.pcwg }
/-- LN_FEC_HIST.NUM (R247). -/
def F.LN_FEC_HIST.NUM : Fld := { reg := .LN_FEC_HIST, hi := 39, lo := 0, acc := .RO, reset := 0, by_ := RClass.pcwg }
/-- LN_HIST.NUM (R247). -/
def F.LN_HIST.NUM : Fld := { reg := .LN_HIST, hi := 39, lo := 0, acc := .RO, reset := 0, by_ := RClass.pcwg }
/-- SUP_CTRL.RESET (R178). -/
def F.SUP_CTRL.RESET : Fld := { reg := .SUP_CTRL, hi := 2, lo := 2, acc := .WO, reset := 0, by_ := RClass.never }
/-- SUP_CTRL.CMD (R178). -/
def F.SUP_CTRL.CMD : Fld := { reg := .SUP_CTRL, hi := 1, lo := 0, acc := .WO, reset := 0, by_ := RClass.never }
/-- SUP_STATUS.STATE (R178). -/
def F.SUP_STATUS.STATE : Fld := { reg := .SUP_STATUS, hi := 39, lo := 37, acc := .RO, reset := 0, by_ := RClass.pcwge }
/-- SUP_STATUS.FBANK (R178). -/
def F.SUP_STATUS.FBANK : Fld := { reg := .SUP_STATUS, hi := 36, lo := 36, acc := .RO, reset := 0, by_ := RClass.pcwge }
/-- SUP_STATUS.BP (R178). -/
def F.SUP_STATUS.BP : Fld := { reg := .SUP_STATUS, hi := 35, lo := 35, acc := .RO, reset := 0, by_ := RClass.pcwge }
/-- SUP_STATUS.EVT (R178). -/
def F.SUP_STATUS.EVT : Fld := { reg := .SUP_STATUS, hi := 34, lo := 31, acc := .W1C, reset := 0, by_ := RClass.pcwge }
/-- SUP_BOOT.BOOT_RUN (R178). -/
def F.SUP_BOOT.BOOT_RUN : Fld := { reg := .SUP_BOOT, hi := 39, lo := 39, acc := .RW, reset := 0, by_ := RClass.pcwg, configured := true }
/-- SUP_BOOT.ENTRY (R178). -/
def F.SUP_BOOT.ENTRY : Fld := { reg := .SUP_BOOT, hi := 38, lo := 24, acc := .RW, reset := 0, by_ := RClass.pcwg, configured := true }
/-- SUP_BOOT.VBASE (R178). -/
def F.SUP_BOOT.VBASE : Fld := { reg := .SUP_BOOT, hi := 23, lo := 9, acc := .RW, reset := 0, by_ := RClass.pcwg, configured := true }
/-- SUP_PC.PC (R178). -/
def F.SUP_PC.PC : Fld := { reg := .SUP_PC, hi := 14, lo := 0, acc := .RW, reset := 0, by_ := RClass.pcwge }
/-- SUP_FAULT.CAUSE (R178). -/
def F.SUP_FAULT.CAUSE : Fld := { reg := .SUP_FAULT, hi := 39, lo := 36, acc := .RO, reset := 0, by_ := RClass.pcwge }
/-- SUP_FAULT.BANK (R178). -/
def F.SUP_FAULT.BANK : Fld := { reg := .SUP_FAULT, hi := 35, lo := 35, acc := .RO, reset := 0, by_ := RClass.pcwge }
/-- SUP_FAULT.PC (R178). -/
def F.SUP_FAULT.PC : Fld := { reg := .SUP_FAULT, hi := 14, lo := 0, acc := .RO, reset := 0, by_ := RClass.pcwge }
/-- SUP_OVF_PC.BANK (R178). -/
def F.SUP_OVF_PC.BANK : Fld := { reg := .SUP_OVF_PC, hi := 15, lo := 15, acc := .RO, reset := 0, by_ := RClass.pcwge }
/-- SUP_OVF_PC.PC (R178). -/
def F.SUP_OVF_PC.PC : Fld := { reg := .SUP_OVF_PC, hi := 14, lo := 0, acc := .RO, reset := 0, by_ := RClass.pcwge }
/-- SUP_IRQ_EN.EN (R178). -/
def F.SUP_IRQ_EN.EN : Fld := { reg := .SUP_IRQ_EN, hi := 31, lo := 0, acc := .RW, reset := 0, by_ := RClass.pcwge }
/-- SUP_IRQ_CLASS.FAST (R178). -/
def F.SUP_IRQ_CLASS.FAST : Fld := { reg := .SUP_IRQ_CLASS, hi := 31, lo := 0, acc := .RW, reset := 0, by_ := RClass.pcwge }
/-- SUP_IRQ_PEND.EDGE (R178). -/
def F.SUP_IRQ_PEND.EDGE : Fld := { reg := .SUP_IRQ_PEND, hi := 31, lo := 16, acc := .W1C, reset := 0, by_ := RClass.pcwge }
/-- SUP_IRQ_PEND.LEVEL (R178). -/
def F.SUP_IRQ_PEND.LEVEL : Fld := { reg := .SUP_IRQ_PEND, hi := 15, lo := 0, acc := .RO, reset := 0, by_ := RClass.never }
/-- SUP_DOORBELL.VALUE (R178). -/
def F.SUP_DOORBELL.VALUE : Fld := { reg := .SUP_DOORBELL, hi := 39, lo := 0, acc := .RW, reset := 0, by_ := RClass.pcwge }
/-- SUP_HURDLE.EN (R178). -/
def F.SUP_HURDLE.EN : Fld := { reg := .SUP_HURDLE, hi := 39, lo := 39, acc := .RW, reset := 0, by_ := RClass.pcwge }
/-- SUP_HURDLE.MISS (R178). -/
def F.SUP_HURDLE.MISS : Fld := { reg := .SUP_HURDLE, hi := 23, lo := 0, acc := .RC, reset := 0, by_ := RClass.pcwge }
/-- SUP_STALL.CYCLES (R178). -/
def F.SUP_STALL.CYCLES : Fld := { reg := .SUP_STALL, hi := 39, lo := 0, acc := .RC, reset := 0, by_ := RClass.pcwge }
/-- SUP_DMA_DESC.GO (R178). -/
def F.SUP_DMA_DESC.GO : Fld := { reg := .SUP_DMA_DESC, hi := 39, lo := 39, acc := .WO, reset := 0, by_ := RClass.never }
/-- SUP_DMA_DESC.ABORT (R178). -/
def F.SUP_DMA_DESC.ABORT : Fld := { reg := .SUP_DMA_DESC, hi := 38, lo := 38, acc := .WO, reset := 0, by_ := RClass.never }
/-- SUP_DMA_DESC.ADDR (R178). -/
def F.SUP_DMA_DESC.ADDR : Fld := { reg := .SUP_DMA_DESC, hi := 15, lo := 0, acc := .RW, reset := 0, by_ := RClass.pcwge }
/-- SUP_DMA_STAT.BUSY (R178). -/
def F.SUP_DMA_STAT.BUSY : Fld := { reg := .SUP_DMA_STAT, hi := 39, lo := 39, acc := .RO, reset := 0, by_ := RClass.pcwge }
/-- SUP_DMA_STAT.REFUSED (R178). -/
def F.SUP_DMA_STAT.REFUSED : Fld := { reg := .SUP_DMA_STAT, hi := 38, lo := 38, acc := .W1C, reset := 0, by_ := RClass.pcwge }
/-- SUP_DMA_STAT.ERR (R178). -/
def F.SUP_DMA_STAT.ERR : Fld := { reg := .SUP_DMA_STAT, hi := 37, lo := 37, acc := .W1C, reset := 0, by_ := RClass.pcwge }
/-- SUP_DMA_STAT.STATUS (R178). -/
def F.SUP_DMA_STAT.STATUS : Fld := { reg := .SUP_DMA_STAT, hi := 36, lo := 33, acc := .RO, reset := 0, by_ := RClass.pcwge }
/-- SUP_DMA_STAT.CUR (R178). -/
def F.SUP_DMA_STAT.CUR : Fld := { reg := .SUP_DMA_STAT, hi := 15, lo := 0, acc := .RO, reset := 0, by_ := RClass.pcwge }
/-- SUP_DBG_SEL.BANK (R178). -/
def F.SUP_DBG_SEL.BANK : Fld := { reg := .SUP_DBG_SEL, hi := 39, lo := 39, acc := .RW, reset := 0, by_ := RClass.pc }
/-- SUP_DBG_SEL.REG (R178). -/
def F.SUP_DBG_SEL.REG : Fld := { reg := .SUP_DBG_SEL, hi := 5, lo := 0, acc := .RW, reset := 0, by_ := RClass.pc, reserved := [(17, 23), (61, 63)] }
/-- SUP_DBG_DATA.DATA (R178). -/
def F.SUP_DBG_DATA.DATA : Fld := { reg := .SUP_DBG_DATA, hi := 39, lo := 0, acc := .RW, reset := 0, by_ := RClass.never }

/-- The fields of each register; a bit that no field covers is reserved and reads as zero (R5). -/
def Reg.fields : Reg → List Fld
  | .HST_ID => [F.HST_ID.PART, F.HST_ID.REV, F.HST_ID.CODE]
  | .HST_MODE => [F.HST_MODE.MODE]
  | .HST_CTRL => [F.HST_CTRL.RD_LIMIT, F.HST_CTRL.SMB_ADDR]
  | .HST_ERR => [F.HST_ERR.ADDR_UNMAPPED, F.HST_ERR.DOMAIN_OFFLINE, F.HST_ERR.DATA_ERR, F.HST_ERR.OTHER, F.HST_ERR.RD_TIMEOUT, F.HST_ERR.SIZE, F.HST_ERR.FIRST_STATUS]
  | .HST_ERR_ADDR => [F.HST_ERR_ADDR.ADDR]
  | .HST_BAR2_BASE => [F.HST_BAR2_BASE.GIB]
  | .HST_IRQ_ACK => [F.HST_IRQ_ACK.VECTOR]
  | .HST_HDB => [F.HST_HDB.VALUE]
  | .HST_MGT_CFG => [F.HST_MGT_CFG.EN, F.HST_MGT_CFG.RATE, F.HST_MGT_CFG.FEC, F.HST_MGT_CFG.PROMISC, F.HST_MGT_CFG.HIRQ, F.HST_MGT_CFG.LINK_UP, F.HST_MGT_CFG.CFG_ERR]
  | .HST_MGT_MAC_LO => [F.HST_MGT_MAC_LO.MAC]
  | .HST_MGT_MAC_HI => [F.HST_MGT_MAC_HI.MAC]
  | .HST_MGT_RX_BASE => [F.HST_MGT_RX_BASE.ADDR]
  | .HST_MGT_RX_N => [F.HST_MGT_RX_N.N]
  | .HST_MGT_RX_WP => [F.HST_MGT_RX_WP.COUNT]
  | .HST_MGT_RX_RP => [F.HST_MGT_RX_RP.COUNT]
  | .HST_MGT_TX_BASE => [F.HST_MGT_TX_BASE.ADDR]
  | .HST_MGT_TX_N => [F.HST_MGT_TX_N.N]
  | .HST_MGT_TX_WP => [F.HST_MGT_TX_WP.COUNT]
  | .HST_MGT_TX_RP => [F.HST_MGT_TX_RP.COUNT]
  | .HST_MGT_CNT0 => [F.HST_MGT_CNT0.RX_FRAMES, F.HST_MGT_CNT0.TX_FRAMES]
  | .HST_MGT_CNT1 => [F.HST_MGT_CNT1.RX_DROP, F.HST_MGT_CNT1.RX_BAD, F.HST_MGT_CNT1.TX_BAD]
  | .HST_MGT_NOTIFY => [F.HST_MGT_NOTIFY.ADDR]
  | .TIM_NOW_FRAC => [F.TIM_NOW_FRAC.FRAC]
  | .TIM_NOW_SEC => [F.TIM_NOW_SEC.SEC]
  | .TIM_CTRL => [F.TIM_CTRL.REF_SEL, F.TIM_CTRL.PPS_OUT_EN, F.TIM_CTRL.REF_OUT_EN, F.TIM_CTRL.STEP_POLICY, F.TIM_CTRL.TS_EN0, F.TIM_CTRL.TS_EN1, F.TIM_CTRL.ONE_STEP0, F.TIM_CTRL.ONE_STEP1, F.TIM_CTRL.SERVO_STATE]
  | .TIM_STATUS => [F.TIM_STATUS.TB_LOCK, F.TIM_STATUS.STEP_LOCK, F.TIM_STATUS.REF_VALID, F.TIM_STATUS.ALIGNED, F.TIM_STATUS.TL_LOCK, F.TIM_STATUS.STEER_CLAMP, F.TIM_STATUS.ALIGN_LOST, F.TIM_STATUS.STEP_DONE, F.TIM_STATUS.ADJ_BAD, F.TIM_STATUS.PPS_IN_NEW, F.TIM_STATUS.REF_ACTIVE, F.TIM_STATUS.P_REFUSED, F.TIM_STATUS.TS_DROPS]
  | .TIM_RATE => [F.TIM_RATE.RATE]
  | .TIM_ADJ_FRAC => [F.TIM_ADJ_FRAC.FRAC]
  | .TIM_ADJ_SEC => [F.TIM_ADJ_SEC.SEC]
  | .TIM_EPOCH_FRAC => [F.TIM_EPOCH_FRAC.FRAC]
  | .TIM_EPOCH_SEC => [F.TIM_EPOCH_SEC.SEC]
  | .TIM_STRIDE_CFG => [F.TIM_STRIDE_CFG.S, F.TIM_STRIDE_CFG.SLEW, F.TIM_STRIDE_CFG.P]
  | .TIM_STRIDE_LO => [F.TIM_STRIDE_LO.NUM]
  | .TIM_STRIDE_HI => [F.TIM_STRIDE_HI.NUM]
  | .TIM_STRIDE_OFS => [F.TIM_STRIDE_OFS.K]
  | .TIM_ALIGN => [F.TIM_ALIGN.ERR_PS, F.TIM_ALIGN.TOL_PS]
  | .TIM_PPS_CFG => [F.TIM_PPS_CFG.PPS_IN_EDGE, F.TIM_PPS_CFG.WIDTH]
  | .TIM_PPS_IN_FRAC => [F.TIM_PPS_IN_FRAC.FRAC]
  | .TIM_PPS_IN_SEC => [F.TIM_PPS_IN_SEC.SEC]
  | .TIM_TL_CFG => [F.TIM_TL_CFG.ROLE, F.TIM_TL_CFG.RING_N, F.TIM_TL_CFG.HOPDLY]
  | .TIM_TL_STAT => [F.TIM_TL_STAT.RING_DLY, F.TIM_TL_STAT.POSITION, F.TIM_TL_STAT.CRC_ERR]
  | .TIM_TL_OFS => [F.TIM_TL_OFS.OFS]
  | .TIM_TS_INFO => [F.TIM_TS_INFO.VALID, F.TIM_TS_INFO.PORT, F.TIM_TS_INFO.DIR, F.TIM_TS_INFO.MSG, F.TIM_TS_INFO.SEQ]
  | .TIM_TS_FRAC => [F.TIM_TS_FRAC.FRAC]
  | .TIM_TS_SEC => [F.TIM_TS_SEC.SEC]
  | .PWR_DEV_REQ => [F.PWR_DEV_REQ.CMD]
  | .PWR_DEV_STAT => [F.PWR_DEV_STAT.STATE, F.PWR_DEV_STAT.BUSY, F.PWR_DEV_STAT.RESULT]
  | .PWR_CTRL => [F.PWR_CTRL.ENTRY_TIMEOUT]
  | .PWR_REG_STAT => [F.PWR_REG_STAT.RAIL, F.PWR_REG_STAT.CMD, F.PWR_REG_STAT.RES, F.PWR_REG_STAT.TIMEOUTS, F.PWR_REG_STAT.STATUS_WORD]
  | .PWR_TEMP => [F.PWR_TEMP.OSC_T, F.PWR_TEMP.CASE_T, F.PWR_TEMP.DIE_MAX_T]
  | .PWR_VIN => [F.PWR_VIN.VIN, F.PWR_VIN.IIN]
  | .RST_CMD => [F.RST_CMD.CMD, F.RST_CMD.REGION, F.RST_CMD.ZONE, F.RST_CMD.KEY]
  | .RST_STATUS => [F.RST_STATUS.P_DONE, F.RST_STATUS.BUSY, F.RST_STATUS.REGION_BUSY, F.RST_STATUS.KEY_ERR]
  | .RST_CAUSE => [F.RST_CAUSE.CLASS, F.RST_CAUSE.SRC, F.RST_CAUSE.REGION, F.RST_CAUSE.ZONE, F.RST_CAUSE.WARM_COUNT]
  | .NOC_CTRL => [F.NOC_CTRL.LEASE_IDLE]
  | .NOC_SWAP => [F.NOC_SWAP.CMD, F.NOC_SWAP.MODE, F.NOC_SWAP.TIMEOUT]
  | .NOC_SWAP_STAT => [F.NOC_SWAP_STAT.STATE, F.NOC_SWAP_STAT.RES, F.NOC_SWAP_STAT.SRC, F.NOC_SWAP_STAT.DST, F.NOC_SWAP_STAT.RULE, F.NOC_SWAP_STAT.COUNT]
  | .ERR_FRZ_CFG => [F.ERR_FRZ_CFG.PIN_MODE, F.ERR_FRZ_CFG.HALT]
  | .ERR_FRZ_CMD => [F.ERR_FRZ_CMD.CMD, F.ERR_FRZ_CMD.RES]
  | .ERR_FRZ_STAT => [F.ERR_FRZ_STAT.CAUSE, F.ERR_FRZ_STAT.PARTIAL, F.ERR_FRZ_STAT.LATE, F.ERR_FRZ_STAT.STEP, F.ERR_FRZ_STAT.CODE, F.ERR_FRZ_STAT.REGION, F.ERR_FRZ_STAT.PENDING_AT]
  | .ERR_FRZ_STRIDE => [F.ERR_FRZ_STRIDE.NUM]
  | .ERR_FRZ_MISSED => [F.ERR_FRZ_MISSED.COUNT]
  | .ERR_FRZ_TIME_FRAC => [F.ERR_FRZ_TIME_FRAC.FRAC]
  | .ERR_FRZ_TIME_SEC => [F.ERR_FRZ_TIME_SEC.SEC]
  | .ERR_RESUME_FRAC => [F.ERR_RESUME_FRAC.FRAC]
  | .ERR_RESUME_SEC => [F.ERR_RESUME_SEC.SEC]
  | .ERR_DEV_HEAD => [F.ERR_DEV_HEAD.COUNT]
  | .ERR_DEV_TAIL => [F.ERR_DEV_TAIL.COUNT]
  | .ERR_DEV_STAT => [F.ERR_DEV_STAT.LOST, F.ERR_DEV_STAT.FULL, F.ERR_DEV_STAT.EVT]
  | .ERR_RDO_ADDR => [F.ERR_RDO_ADDR.ADDR]
  | .ERR_INJ_TGT => [F.ERR_INJ_TGT.REGION, F.ERR_INJ_TGT.TILE, F.ERR_INJ_TGT.CLUSTER, F.ERR_INJ_TGT.CELL]
  | .ERR_INJ_ARG => [F.ERR_INJ_ARG.ARG]
  | .ERR_INJ_CTRL => [F.ERR_INJ_CTRL.GO, F.ERR_INJ_CTRL.ARMED, F.ERR_INJ_CTRL.KIND, F.ERR_INJ_CTRL.RES]
  | .ERR_POL => [F.ERR_POL.QUIET, F.ERR_POL.ACTION]
  | .ERR_DEV_LOG => [F.ERR_DEV_LOG.SLOT]
  | .SE_CTRL => [F.SE_CTRL.RESET, F.SE_CTRL.CMD]
  | .SE_STATUS => [F.SE_STATUS.STATE, F.SE_STATUS.FBANK, F.SE_STATUS.BP, F.SE_STATUS.EVT]
  | .SE_BOOT => [F.SE_BOOT.BOOT_RUN, F.SE_BOOT.ENTRY, F.SE_BOOT.VBASE]
  | .SE_PC => [F.SE_PC.PC]
  | .SE_FAULT => [F.SE_FAULT.CAUSE, F.SE_FAULT.BANK, F.SE_FAULT.PC]
  | .SE_OVF_PC => [F.SE_OVF_PC.BANK, F.SE_OVF_PC.PC]
  | .SE_IRQ_EN => [F.SE_IRQ_EN.EN]
  | .SE_IRQ_CLASS => [F.SE_IRQ_CLASS.FAST]
  | .SE_IRQ_PEND => [F.SE_IRQ_PEND.EDGE, F.SE_IRQ_PEND.LEVEL]
  | .SE_DOORBELL => [F.SE_DOORBELL.VALUE]
  | .SE_HURDLE => [F.SE_HURDLE.EN, F.SE_HURDLE.MISS]
  | .SE_STALL => [F.SE_STALL.CYCLES]
  | .SUP_WDOG => [F.SUP_WDOG.EN, F.SUP_WDOG.LOCK, F.SUP_WDOG.TIMEOUT]
  | .SUP_WDOG_KICK => [F.SUP_WDOG_KICK.ANY]
  | .SUP_NSTAT => [F.SUP_NSTAT.NERR, F.SUP_NSTAT.STATUS, F.SUP_NSTAT.OUTSTANDING]
  | .SE_DMA_DESC => [F.SE_DMA_DESC.GO, F.SE_DMA_DESC.ABORT, F.SE_DMA_DESC.ADDR]
  | .SE_DMA_STAT => [F.SE_DMA_STAT.BUSY, F.SE_DMA_STAT.REFUSED, F.SE_DMA_STAT.ERR, F.SE_DMA_STAT.STATUS, F.SE_DMA_STAT.CUR]
  | .SE_DBG_SEL => [F.SE_DBG_SEL.BANK, F.SE_DBG_SEL.REG]
  | .SE_DBG_DATA => [F.SE_DBG_DATA.DATA]
  | .SE_IMEM => [F.SE_IMEM.WORD]
  | .SUP_IMEM => [F.SUP_IMEM.WORD]
  | .SUP_DMEM => [F.SUP_DMEM.WORD]
  | .TRC_CTRL => [F.TRC_CTRL.SINK, F.TRC_CTRL.MODE, F.TRC_CTRL.CYC_EN, F.TRC_CTRL.SYNC_INT, F.TRC_CTRL.THR]
  | .TRC_SRC => [F.TRC_SRC.STALL, F.TRC_SRC.EN]
  | .TRC_STATUS => [F.TRC_STATUS.BUSY, F.TRC_STATUS.CFG_ERR, F.TRC_STATUS.SINK_ERR, F.TRC_STATUS.WRAPPED, F.TRC_STATUS.DED, F.TRC_STATUS.OVF]
  | .TRC_WP => [F.TRC_WP.COUNT]
  | .TRC_RP => [F.TRC_RP.COUNT]
  | .TRC_MEM_BASE => [F.TRC_MEM_BASE.ADDR]
  | .TRC_MEM_LEN => [F.TRC_MEM_LEN.BLOCKS]
  | .TRC_DROP => [F.TRC_DROP.BYTES]
  | .TRC_STALL => [F.TRC_STALL.CYCLES]
  | .TRC_BUF => [F.TRC_BUF.WORD]
  | .RTE_CTRL => [F.RTE_CTRL.CONT_POL]
  | .RTE_STATUS => [F.RTE_STATUS.XSEL_RSV, F.RTE_STATUS.SPAR, F.RTE_STATUS.LINE_MULTI, F.RTE_STATUS.SEL_MULTI]
  | .RTE_CONT_CNT => [F.RTE_CONT_CNT.COUNT]
  | .RTE_FIRST => [F.RTE_FIRST.KIND, F.RTE_FIRST.TILE, F.RTE_FIRST.CLUSTER, F.RTE_FIRST.UNIT, F.RTE_FIRST.STEP, F.RTE_FIRST.DRIVERS]
  | .RTE_FIRST_STRIDE => [F.RTE_FIRST_STRIDE.NUM]
  | .RTE_DOM => [F.RTE_DOM.DIV, F.RTE_DOM.PHASE]
  | .FAB_PIN_CFG => [F.FAB_PIN_CFG.MODE, F.FAB_PIN_CFG.PULL, F.FAB_PIN_CFG.RCK]
  | .FAB_PIN_IN => [F.FAB_PIN_IN.LEVEL]
  | .FAB_PIN_OUT => [F.FAB_PIN_OUT.OE, F.FAB_PIN_OUT.LEVEL]
  | .FAB_RCK_CFG => [F.FAB_RCK_CFG.TABLE, F.FAB_RCK_CFG.SEL, F.FAB_RCK_CFG.SRC, F.FAB_RCK_CFG.DIV_M1]
  | .FAB_RCK_STAT => [F.FAB_RCK_STAT.FORCED, F.FAB_RCK_STAT.RUN]
  | .TIM_GUN_PORT => [F.TIM_GUN_PORT.SLOT]
  | .TIM_GUN_STAT => [F.TIM_GUN_STAT.FULL, F.TIM_GUN_STAT.BAD_PUSH, F.TIM_GUN_STAT.LATE]
  | .TIM_WAKE_GUARD => [F.TIM_WAKE_GUARD.NS]
  | .TIM_LOG_HEAD => [F.TIM_LOG_HEAD.IDX]
  | .TIM_LOG => [F.TIM_LOG.SLOT]
  | .TRG_SEQ_CTRL => [F.TRG_SEQ_CTRL.EN, F.TRG_SEQ_CTRL.LAST, F.TRG_SEQ_CTRL.SETTLE, F.TRG_SEQ_CTRL.STAGE, F.TRG_SEQ_CTRL.CFG_ERR]
  | .TRG_SEQ_STAT => [F.TRG_SEQ_STAT.FIRES, F.TRG_SEQ_STAT.TIMEOUTS]
  | .TRG_STATUS => [F.TRG_STATUS.LATE, F.TRG_STATUS.EVT]
  | .TRG_TIN_CFG => [F.TRG_TIN_CFG.EDGE]
  | .TRG_TOUT_CFG => [F.TRG_TOUT_CFG.SEL, F.TRG_TOUT_CFG.MODE, F.TRG_TOUT_CFG.DELAY, F.TRG_TOUT_CFG.WIDTH]
  | .TRG_BUS_SEL => [F.TRG_BUS_SEL.SEL]
  | .TRG_SW => [F.TRG_SW.INDEX]
  | .TRG_LOG_MASK0 => [F.TRG_LOG_MASK0.EVENTS]
  | .TRG_LOG_MASK1 => [F.TRG_LOG_MASK1.SEQ, F.TRG_LOG_MASK1.EVENTS]
  | .TRG_LOG_HEAD => [F.TRG_LOG_HEAD.IDX]
  | .TRG_S_COND0 => [F.TRG_S_COND0.EVENTS]
  | .TRG_S_COND1 => [F.TRG_S_COND1.COUNT, F.TRG_S_COND1.EVENTS]
  | .TRG_S_RST0 => [F.TRG_S_RST0.EVENTS]
  | .TRG_S_RST1 => [F.TRG_S_RST1.EVENTS]
  | .TRG_S_TIMEOUT => [F.TRG_S_TIMEOUT.NS]
  | .TRG_LOG => [F.TRG_LOG.SLOT]
  | .ACQ_STATUS => [F.ACQ_STATUS.EVT]
  | .ACQ_FIRST => [F.ACQ_FIRST.KIND, F.ACQ_FIRST.CHANNEL]
  | .ACQ_FIRST_STRIDE => [F.ACQ_FIRST_STRIDE.NUM]
  | .ACQ_BUF => [F.ACQ_BUF.QUOTA, F.ACQ_BUF.USED]
  | .HEAT_CTRL => [F.HEAT_CTRL.ARM, F.HEAT_CTRL.DISARM, F.HEAT_CTRL.FINISH, F.HEAT_CTRL.FORCE, F.HEAT_CTRL.AUTO, F.HEAT_CTRL.OVERRUN_OK, F.HEAT_CTRL.WRAP, F.HEAT_CTRL.WHOLD]
  | .HEAT_SRC => [F.HEAT_SRC.KIND, F.HEAT_SRC.UNIT, F.HEAT_SRC.CMASK, F.HEAT_SRC.BUF]
  | .HEAT_TRIG => [F.HEAT_TRIG.SEL]
  | .HEAT_PRE => [F.HEAT_PRE.NUM]
  | .HEAT_POST => [F.HEAT_POST.NUM]
  | .HEAT_BASE => [F.HEAT_BASE.ADDR]
  | .HEAT_SLOT => [F.HEAT_SLOT.EVB, F.HEAT_SLOT.BLOCKS]
  | .HEAT_NSLOT => [F.HEAT_NSLOT.NUM]
  | .HEAT_HOLDOFF => [F.HEAT_HOLDOFF.KIND, F.HEAT_HOLDOFF.VALUE]
  | .HEAT_FELT => [F.HEAT_FELT.FELT, F.HEAT_FELT.DECIM]
  | .HEAT_BW => [F.HEAT_BW.QUARTERS]
  | .HEAT_NOTIFY => [F.HEAT_NOTIFY.ADDR]
  | .HEAT_STAT => [F.HEAT_STAT.STATE, F.HEAT_STAT.CLOSING, F.HEAT_STAT.RES, F.HEAT_STAT.CFG_ERR, F.HEAT_STAT.FS]
  | .HEAT_WP => [F.HEAT_WP.SEQ]
  | .HEAT_DONE => [F.HEAT_DONE.SEQ]
  | .HEAT_RP => [F.HEAT_RP.SEQ]
  | .MEM_CTRL => [F.MEM_CTRL.DIAG, F.MEM_CTRL.DIAG_SRCID, F.MEM_CTRL.SCRUB_EN, F.MEM_CTRL.AUTO_REPAIR]
  | .MEM_STATUS => [F.MEM_STATUS.READY, F.MEM_STATUS.INIT_BUSY, F.MEM_STATUS.EVT]
  | .MEM_RES_LIMIT => [F.MEM_RES_LIMIT.LIMIT, F.MEM_RES_LIMIT.USED]
  | .MEM_RES_STAT => [F.MEM_RES_STAT.SHORT]
  | .MEM_SCRUB => [F.MEM_SCRUB.PERIOD, F.MEM_SCRUB.PASSES]
  | .MEM_CE_CNT => [F.MEM_CE_CNT.COUNT]
  | .MEM_FIRST => [F.MEM_FIRST.KIND, F.MEM_FIRST.CHANNEL, F.MEM_FIRST.SRCID]
  | .MEM_FIRST_ADDR => [F.MEM_FIRST_ADDR.ADDR]
  | .MEM_FIRST_STRIDE => [F.MEM_FIRST_STRIDE.NUM]
  | .MEM_INIT_BASE => [F.MEM_INIT_BASE.ADDR]
  | .MEM_INIT_LEN => [F.MEM_INIT_LEN.BLOCKS]
  | .MEM_INIT_CTRL => [F.MEM_INIT_CTRL.GO, F.MEM_INIT_CTRL.REFUSED]
  | .MEM_REPAIR => [F.MEM_REPAIR.VALID, F.MEM_REPAIR.DONE, F.MEM_REPAIR.AUTO, F.MEM_REPAIR.DUP, F.MEM_REPAIR.BANK, F.MEM_REPAIR.ROW]
  | .ARC_CTRL => [F.ARC_CTRL.EN, F.ARC_CTRL.FMT_EN, F.ARC_CTRL.PATROL_EN]
  | .ARC_STATUS => [F.ARC_STATUS.READY, F.ARC_STATUS.FULL, F.ARC_STATUS.WRAPPED, F.ARC_STATUS.EVT]
  | .ARC_CMD_STAT => [F.ARC_CMD_STAT.DEPTH, F.ARC_CMD_STAT.REFUSED]
  | .ARC_NEXT_OBJ => [F.ARC_NEXT_OBJ.OBJ]
  | .ARC_CMD_PORT => [F.ARC_CMD_PORT.SLOT]
  | .ARC_CPL_BASE => [F.ARC_CPL_BASE.ADDR]
  | .ARC_CPL_LEN => [F.ARC_CPL_LEN.BLOCKS]
  | .ARC_CPL_WP => [F.ARC_CPL_WP.COUNT]
  | .ARC_CPL_RP => [F.ARC_CPL_RP.COUNT]
  | .ARC_FREE => [F.ARC_FREE.BLOCKS]
  | .ARC_HEALTH => [F.ARC_HEALTH.WEAR, F.ARC_HEALTH.GROWN, F.ARC_HEALTH.SPARE]
  | .ARC_ECC => [F.ARC_ECC.RETRIES, F.ARC_ECC.UNCORR]
  | .ARC_PATROL => [F.ARC_PATROL.DAYS, F.ARC_PATROL.THR]
  | .ARC_BIND => [F.ARC_BIND.VALID, F.ARC_BIND.ADV_RP, F.ARC_BIND.REGION, F.ARC_BIND.CHANNEL, F.ARC_BIND.NEXT]
  | .CFG_STATUS => [F.CFG_STATUS.STEP, F.CFG_STATUS.PARTIAL, F.CFG_STATUS.SRC, F.CFG_STATUS.RESULT, F.CFG_STATUS.CAUSE, F.CFG_STATUS.CROWN, F.CFG_STATUS.CROWN_TRIED, F.CFG_STATUS.DONE_IN, F.CFG_STATUS.DONE_OUT, F.CFG_STATUS.LOCKED, F.CFG_STATUS.RET_DONE, F.CFG_STATUS.STRAP_ERR, F.CFG_STATUS.LATE_START, F.CFG_STATUS.BOOT_SRC, F.CFG_STATUS.PULL_SEL]
  | .CFG_CMD => [F.CFG_CMD.CMD, F.CFG_CMD.SLOT, F.CFG_CMD.RES]
  | .CFG_CTRL => [F.CFG_CTRL.HOLD_DONE, F.CFG_CTRL.RELEASE_BLANK, F.CFG_CTRL.START_MODE, F.CFG_CTRL.CROWN_EN, F.CFG_CTRL.TIMEOUT]
  | .CFG_SRC_ADDR => [F.CFG_SRC_ADDR.ADDR]
  | .CFG_SRC_LEN => [F.CFG_SRC_LEN.BYTES]
  | .CFG_SRC_LIMIT => [F.CFG_SRC_LIMIT.BYTES]
  | .CFG_PROGRESS => [F.CFG_PROGRESS.BYTES]
  | .CFG_FAIL => [F.CFG_FAIL.VALID, F.CFG_FAIL.ADDR]
  | .CFG_START_FRAC => [F.CFG_START_FRAC.FRAC]
  | .CFG_START_SEC => [F.CFG_START_SEC.SEC]
  | .CFG_DESIGN_ID => [F.CFG_DESIGN_ID.ID]
  | .CFG_USER => [F.CFG_USER.VALUE]
  | .CFG_SLOT => [F.CFG_SLOT.VALID, F.CFG_SLOT.LEN]
  | .CFG_RELAY => [F.CFG_RELAY.LANE_LOCK, F.CFG_RELAY.ALIGNED, F.CFG_RELAY.TX_ACTIVE, F.CFG_RELAY.ERR]
  | .CFG_ZCMD => [F.CFG_ZCMD.CMD, F.CFG_ZCMD.ZONE, F.CFG_ZCMD.RES]
  | .CFG_ZONE => [F.CFG_ZONE.STATE, F.CFG_ZONE.PRIMED, F.CFG_ZONE.PARTIAL_ABORT, F.CFG_ZONE.RESULT, F.CFG_ZONE.ADDR]
  | .CFG_FUSE_STAT => [F.CFG_FUSE_STAT.KEY_OK, F.CFG_FUSE_STAT.HASH_OK, F.CFG_FUSE_STAT.REQ_ENC, F.CFG_FUSE_STAT.REQ_SIG, F.CFG_FUSE_STAT.PERM_LOCK, F.CFG_FUSE_STAT.FUSE_LOCK, F.CFG_FUSE_STAT.RES]
  | .CFG_FUSE_CMD => [F.CFG_FUSE_CMD.TARGET, F.CFG_FUSE_CMD.GO]
  | .CFG_FUSE_DATA => [F.CFG_FUSE_DATA.BYTES]
  | .PWR_REQ => [F.PWR_REQ.CMD]
  | .PWR_STAT => [F.PWR_STAT.STATE, F.PWR_STAT.TARGET, F.PWR_STAT.BUSY, F.PWR_STAT.DIR, F.PWR_STAT.STEP, F.PWR_STAT.RESULT, F.PWR_STAT.DELAY, F.PWR_STAT.DELAY_LAST, F.PWR_STAT.EVT]
  | .PWR_WAKE_EN => [F.PWR_WAKE_EN.EN, F.PWR_WAKE_EN.GUN]
  | .PWR_WAKE_PEND => [F.PWR_WAKE_PEND.LAST, F.PWR_WAKE_PEND.PEND]
  | .PWR_LANE => [F.PWR_LANE.TARGET]
  | .PWR_MISSED => [F.PWR_MISSED.COUNT]
  | .PWR_TIMES => [F.PWR_TIMES.ENTRY, F.PWR_TIMES.EXIT]
  | .ERR_REG_REC0 => [F.ERR_REG_REC0.WORD]
  | .ERR_REG_REC1 => [F.ERR_REG_REC1.WORD]
  | .ERR_REG_REC2 => [F.ERR_REG_REC2.WORD]
  | .ERR_REG_STAT => [F.ERR_REG_STAT.COUNT, F.ERR_REG_STAT.LOST]
  | .NOC_PC_CTRL => [F.NOC_PC_CTRL.EN, F.NOC_PC_CTRL.WRAPPED, F.NOC_PC_CTRL.SINK_ERR, F.NOC_PC_CTRL.CFG_ERR]
  | .NOC_PC_BASE => [F.NOC_PC_BASE.ADDR]
  | .NOC_PC_LEN => [F.NOC_PC_LEN.BLOCKS]
  | .NOC_PC_WP => [F.NOC_PC_WP.COUNT]
  | .NOC_PC_RP => [F.NOC_PC_RP.COUNT]
  | .NOC_PC_DROP => [F.NOC_PC_DROP.NUM]
  | .CELL_CTRL => [F.CELL_CTRL.SBE_THR, F.CELL_CTRL.SCRUB_EN]
  | .CELL_STATUS => [F.CELL_STATUS.SBE_RATE, F.CELL_STATUS.RSV_ENC, F.CELL_STATUS.WR_CLASH, F.CELL_STATUS.IPAR, F.CELL_STATUS.DED]
  | .CELL_SBE_CNT => [F.CELL_SBE_CNT.COUNT]
  | .CELL_FIRST => [F.CELL_FIRST.KIND, F.CELL_FIRST.CLUSTER, F.CELL_FIRST.CELL, F.CELL_FIRST.ADDR, F.CELL_FIRST.MAINT, F.CELL_FIRST.STEP, F.CELL_FIRST.SHADOW]
  | .CELL_FIRST_STRIDE => [F.CELL_FIRST_STRIDE.NUM]
  | .CELL_SCRUB => [F.CELL_SCRUB.PASSES]
  | .QC_CFG => [F.QC_CFG.MODE, F.QC_CFG.DIR, F.QC_CFG.PORT, F.QC_CFG.D, F.QC_CFG.LATE_POL, F.QC_CFG.HDR, F.QC_CFG.SRC]
  | .QC_SIZE => [F.QC_SIZE.BASE, F.QC_SIZE.LEN]
  | .QC_WR => [F.QC_WR.PTR]
  | .QC_RD => [F.QC_RD.PTR]
  | .QC_WM => [F.QC_WM.HI, F.QC_WM.LO]
  | .QC_STAT => [F.QC_STAT.RES, F.QC_STAT.HI, F.QC_STAT.LO, F.QC_STAT.COUNT]
  | .QC_CNT => [F.QC_CNT.LATE, F.QC_CNT.DROP, F.QC_CNT.OVF, F.QC_CNT.UNDER]
  | .QC_CMD => [F.QC_CMD.CMD, F.QC_CMD.ARG, F.QC_CMD.DISCARD]
  | .QC_LANE => [F.QC_LANE.RX_EN, F.QC_LANE.RX_Q, F.QC_LANE.RX_K, F.QC_LANE.TX_EN, F.QC_LANE.TX_Q, F.QC_LANE.TX_K, F.QC_LANE.CFG_ERR]
  | .QC_STATUS => [F.QC_STATUS.EVT]
  | .QC_FIRST => [F.QC_FIRST.KIND, F.QC_FIRST.QUEUE, F.QC_FIRST.PTR]
  | .QC_FIRST_STRIDE => [F.QC_FIRST_STRIDE.NUM]
  | .QC_SBE_CNT => [F.QC_SBE_CNT.COUNT]
  | .QC_REPAIR => [F.QC_REPAIR.VALID, F.QC_REPAIR.DONE, F.QC_REPAIR.AUTO, F.QC_REPAIR.DUP, F.QC_REPAIR.ROW]
  | .SPD_CTRL => [F.SPD_CTRL.STARVE_THR, F.SPD_CTRL.QSCRUB_EN, F.SPD_CTRL.SCRUB_EN]
  | .SPD_STATUS => [F.SPD_STATUS.EVT]
  | .SPD_SBE_CNT => [F.SPD_SBE_CNT.COUNT]
  | .SPD_DMA_STALL => [F.SPD_DMA_STALL.CYCLES]
  | .SPD_FIRST => [F.SPD_FIRST.KIND, F.SPD_FIRST.WORD]
  | .SPD_FIRST_STRIDE => [F.SPD_FIRST_STRIDE.NUM]
  | .SPD_MARCH_CTRL => [F.SPD_MARCH_CTRL.START, F.SPD_MARCH_CTRL.TARGET, F.SPD_MARCH_CTRL.KIND, F.SPD_MARCH_CTRL.AUTO_REPAIR]
  | .SPD_MARCH_STAT => [F.SPD_MARCH_STAT.STATE, F.SPD_MARCH_STAT.REFUSED, F.SPD_MARCH_STAT.FAILS, F.SPD_MARCH_STAT.SUB, F.SPD_MARCH_STAT.ROW]
  | .SPD_REPAIR => [F.SPD_REPAIR.VALID, F.SPD_REPAIR.DONE, F.SPD_REPAIR.AUTO, F.SPD_REPAIR.DUP, F.SPD_REPAIR.ROW]
  | .NOC_RSTAT => [F.NOC_RSTAT.LINK_UP, F.NOC_RSTAT.EVT, F.NOC_RSTAT.CFG_ERR, F.NOC_RSTAT.NODE_L, F.NOC_RSTAT.NODE_S]
  | .NOC_LINK_ERR => [F.NOC_LINK_ERR.E, F.NOC_LINK_ERR.W, F.NOC_LINK_ERR.N, F.NOC_LINK_ERR.S]
  | .NOC_RES => [F.NOC_RES.LOCAL, F.NOC_RES.SVC]
  | .NOC_RES_STAT => [F.NOC_RES_STAT.SHORT_L, F.NOC_RES_STAT.SHORT_S]
  | .NOC_PRB_CFG => [F.NOC_PRB_CFG.MODE0, F.NOC_PRB_CFG.MODE1, F.NOC_PRB_CFG.POINT, F.NOC_PRB_CFG.TRACE]
  | .NOC_PRB_FILT => [F.NOC_PRB_FILT.CLASS, F.NOC_PRB_FILT.CLASS_ANY, F.NOC_PRB_FILT.OP, F.NOC_PRB_FILT.OP_ANY, F.NOC_PRB_FILT.SRCID, F.NOC_PRB_FILT.SRC_ANY, F.NOC_PRB_FILT.DST, F.NOC_PRB_FILT.DST_ANY]
  | .NOC_PRB_CNT => [F.NOC_PRB_CNT.NUM]
  | .NOC_TBL_ACT => [F.NOC_TBL_ACT.OUT]
  | .NOC_TBL_PEND => [F.NOC_TBL_PEND.OUT]
  | .TRG_WIN_CTRL => [F.TRG_WIN_CTRL.MODE, F.TRG_WIN_CTRL.ARM, F.TRG_WIN_CTRL.FORCE, F.TRG_WIN_CTRL.TRIG_SEL]
  | .TRG_WIN_PRE => [F.TRG_WIN_PRE.PRE, F.TRG_WIN_PRE.POST]
  | .TRG_WIN_STAT => [F.TRG_WIN_STAT.STATE, F.TRG_WIN_STAT.CLIPPED, F.TRG_WIN_STAT.FS, F.TRG_WIN_STAT.STALE, F.TRG_WIN_STAT.CFG_ERR, F.TRG_WIN_STAT.EVT]
  | .TRG_WIN_CLIP => [F.TRG_WIN_CLIP.CUT]
  | .TRG_WIN_CNT_LO => [F.TRG_WIN_CNT_LO.NUM]
  | .TRG_WIN_CNT_HI => [F.TRG_WIN_CNT_HI.NUM]
  | .TRG_WIN_TRIG_E => [F.TRG_WIN_TRIG_E.NUM]
  | .TRG_WIN_TRIG_INFO => [F.TRG_WIN_TRIG_INFO.EVENT, F.TRG_WIN_TRIG_INFO.FRAC]
  | .TRG_WIN_TRIG_FRAC => [F.TRG_WIN_TRIG_FRAC.FRAC]
  | .TRG_WIN_TRIG_SEC => [F.TRG_WIN_TRIG_SEC.SEC]
  | .TRG_WIN_FS_FRAC => [F.TRG_WIN_FS_FRAC.FRAC]
  | .TRG_WIN_FS_SEC => [F.TRG_WIN_FS_SEC.SEC]
  | .TRG_WIN_DEAD => [F.TRG_WIN_DEAD.NS]
  | .TRG_DET_CFG => [F.TRG_DET_CFG.KIND, F.TRG_DET_CFG.SLOPE, F.TRG_DET_CFG.THR, F.TRG_DET_CFG.HYST, F.TRG_DET_CFG.STAT_SEL]
  | .TRG_DET_MATCH => [F.TRG_DET_MATCH.WORD]
  | .TRG_DET_MASK => [F.TRG_DET_MASK.BITS]
  | .TRG_WIN_LTIME => [F.TRG_WIN_LTIME.FRAC]
  | .LN_CTRL => [F.LN_CTRL.EN, F.LN_CTRL.FEED, F.LN_CTRL.LOOP, F.LN_CTRL.TX_POL, F.LN_CTRL.RX_POL, F.LN_CTRL.TX_SRC, F.LN_CTRL.MUTE, F.LN_CTRL.PARK, F.LN_CTRL.CLR_CNT]
  | .LN_RATE => [F.LN_RATE.MOD, F.LN_RATE.GRAY, F.LN_RATE.PRECODE, F.LN_RATE.BAUD]
  | .LN_PCS => [F.LN_PCS.MODE, F.LN_PCS.SCR, F.LN_PCS.GATE, F.LN_PCS.COMMA_SET, F.LN_PCS.COMMA_B0, F.LN_PCS.FEC_DET_ONLY]
  | .LN_STATUS => [F.LN_STATUS.GRP_ON, F.LN_STATUS.PLL_LOCK, F.LN_STATUS.SIG, F.LN_STATUS.CDR_LOCK, F.LN_STATUS.ADAPT_DONE, F.LN_STATUS.ALIGN, F.LN_STATUS.CHK_LOCK, F.LN_STATUS.PSTATE, F.LN_STATUS.CFG_ERR, F.LN_STATUS.RELOCK_LATE, F.LN_STATUS.INJ_NA, F.LN_STATUS.EVT]
  | .LN_TX_FFE => [F.LN_TX_FFE.CM2, F.LN_TX_FFE.CM1, F.LN_TX_FFE.C0, F.LN_TX_FFE.CP1, F.LN_TX_FFE.CP2]
  | .LN_TX_CFG => [F.LN_TX_CFG.SWING, F.LN_TX_CFG.INNER]
  | .LN_TX_FILL0 => [F.LN_TX_FILL0.WORD]
  | .LN_TX_FILL1 => [F.LN_TX_FILL1.WORD]
  | .LN_PAT0 => [F.LN_PAT0.BITS]
  | .LN_PAT1 => [F.LN_PAT1.BITS]
  | .LN_PAT_CFG => [F.LN_PAT_CFG.PRBS, F.LN_PAT_CFG.INV, F.LN_PAT_CFG.LEN_M1, F.LN_PAT_CFG.CHK, F.LN_PAT_CFG.CHK_INV]
  | .LN_RX_CFG => [F.LN_RX_CFG.ADAPT, F.LN_RX_CFG.CURSOR, F.LN_RX_CFG.DFE_EN, F.LN_RX_CFG.SSC, F.LN_RX_CFG.TAP, F.LN_RX_CFG.LOS_THR]
  | .LN_EQ_STAT => [F.LN_EQ_STAT.MSE, F.LN_EQ_STAT.AGC, F.LN_EQ_STAT.FREQ]
  | .LN_PCS_CNT => [F.LN_PCS_CNT.LOSSES, F.LN_PCS_CNT.CODE_ERR]
  | .LN_CHK_BITS_LO => [F.LN_CHK_BITS_LO.NUM]
  | .LN_CHK_BITS_HI => [F.LN_CHK_BITS_HI.NUM]
  | .LN_CHK_ERR => [F.LN_CHK_ERR.NUM]
  | .LN_INJ_CFG => [F.LN_INJ_CFG.DIR, F.LN_INJ_CFG.KIND, F.LN_INJ_CFG.LEN, F.LN_INJ_CFG.PERIOD]
  | .LN_INJ_CTRL => [F.LN_INJ_CTRL.GO, F.LN_INJ_CTRL.STOP, F.LN_INJ_CTRL.CONT, F.LN_INJ_CTRL.BUSY, F.LN_INJ_CTRL.REMAIN, F.LN_INJ_CTRL.N]
  | .LN_HIST_CFG => [F.LN_HIST_CFG.START, F.LN_HIST_CFG.DONE, F.LN_HIST_CFG.SRC, F.LN_HIST_CFG.PH, F.LN_HIST_CFG.COND, F.LN_HIST_CFG.DECIM]
  | .LN_HIST_N => [F.LN_HIST_N.NUM]
  | .LN_TS_MATCH => [F.LN_TS_MATCH.WORD]
  | .LN_TS_MASK => [F.LN_TS_MASK.BITS]
  | .LN_TS_INFO => [F.LN_TS_INFO.VALID, F.LN_TS_INFO.DROPS]
  | .LN_TS_FRAC => [F.LN_TS_FRAC.FRAC]
  | .LN_TS_SEC => [F.LN_TS_SEC.SEC]
  | .LN_SLIP => [F.LN_SLIP.SLIP]
  | .LN_FFE => [F.LN_FFE.COEF]
  | .LN_DFE => [F.LN_DFE.D1]
  | .LN_FEC_CW_LO => [F.LN_FEC_CW_LO.NUM]
  | .LN_FEC_CW_HI => [F.LN_FEC_CW_HI.NUM]
  | .LN_FEC_CORR => [F.LN_FEC_CORR.NUM]
  | .LN_FEC_UNCORR => [F.LN_FEC_UNCORR.NUM]
  | .LN_FEC_HIST => [F.LN_FEC_HIST.NUM]
  | .LN_HIST => [F.LN_HIST.NUM]
  | .SUP_CTRL => [F.SUP_CTRL.RESET, F.SUP_CTRL.CMD]
  | .SUP_STATUS => [F.SUP_STATUS.STATE, F.SUP_STATUS.FBANK, F.SUP_STATUS.BP, F.SUP_STATUS.EVT]
  | .SUP_BOOT => [F.SUP_BOOT.BOOT_RUN, F.SUP_BOOT.ENTRY, F.SUP_BOOT.VBASE]
  | .SUP_PC => [F.SUP_PC.PC]
  | .SUP_FAULT => [F.SUP_FAULT.CAUSE, F.SUP_FAULT.BANK, F.SUP_FAULT.PC]
  | .SUP_OVF_PC => [F.SUP_OVF_PC.BANK, F.SUP_OVF_PC.PC]
  | .SUP_IRQ_EN => [F.SUP_IRQ_EN.EN]
  | .SUP_IRQ_CLASS => [F.SUP_IRQ_CLASS.FAST]
  | .SUP_IRQ_PEND => [F.SUP_IRQ_PEND.EDGE, F.SUP_IRQ_PEND.LEVEL]
  | .SUP_DOORBELL => [F.SUP_DOORBELL.VALUE]
  | .SUP_HURDLE => [F.SUP_HURDLE.EN, F.SUP_HURDLE.MISS]
  | .SUP_STALL => [F.SUP_STALL.CYCLES]
  | .SUP_DMA_DESC => [F.SUP_DMA_DESC.GO, F.SUP_DMA_DESC.ABORT, F.SUP_DMA_DESC.ADDR]
  | .SUP_DMA_STAT => [F.SUP_DMA_STAT.BUSY, F.SUP_DMA_STAT.REFUSED, F.SUP_DMA_STAT.ERR, F.SUP_DMA_STAT.STATUS, F.SUP_DMA_STAT.CUR]
  | .SUP_DBG_SEL => [F.SUP_DBG_SEL.BANK, F.SUP_DBG_SEL.REG]
  | .SUP_DBG_DATA => [F.SUP_DBG_DATA.DATA]

/-- Every register. -/
def Reg.list1 : List Reg :=
  [.HST_ID, .HST_MODE, .HST_CTRL, .HST_ERR, .HST_ERR_ADDR, .HST_BAR2_BASE, .HST_IRQ_ACK, .HST_HDB, .HST_MGT_CFG, .HST_MGT_MAC_LO, .HST_MGT_MAC_HI, .HST_MGT_RX_BASE, .HST_MGT_RX_N, .HST_MGT_RX_WP, .HST_MGT_RX_RP, .HST_MGT_TX_BASE, .HST_MGT_TX_N, .HST_MGT_TX_WP, .HST_MGT_TX_RP, .HST_MGT_CNT0, .HST_MGT_CNT1, .HST_MGT_NOTIFY, .TIM_NOW_FRAC, .TIM_NOW_SEC, .TIM_CTRL, .TIM_STATUS, .TIM_RATE, .TIM_ADJ_FRAC, .TIM_ADJ_SEC, .TIM_EPOCH_FRAC, .TIM_EPOCH_SEC, .TIM_STRIDE_CFG, .TIM_STRIDE_LO, .TIM_STRIDE_HI, .TIM_STRIDE_OFS, .TIM_ALIGN, .TIM_PPS_CFG, .TIM_PPS_IN_FRAC, .TIM_PPS_IN_SEC, .TIM_TL_CFG]
def Reg.list2 : List Reg :=
  [.TIM_TL_STAT, .TIM_TL_OFS, .TIM_TS_INFO, .TIM_TS_FRAC, .TIM_TS_SEC, .PWR_DEV_REQ, .PWR_DEV_STAT, .PWR_CTRL, .PWR_REG_STAT, .PWR_TEMP, .PWR_VIN, .RST_CMD, .RST_STATUS, .RST_CAUSE, .NOC_CTRL, .NOC_SWAP, .NOC_SWAP_STAT, .ERR_FRZ_CFG, .ERR_FRZ_CMD, .ERR_FRZ_STAT, .ERR_FRZ_STRIDE, .ERR_FRZ_MISSED, .ERR_FRZ_TIME_FRAC, .ERR_FRZ_TIME_SEC, .ERR_RESUME_FRAC, .ERR_RESUME_SEC, .ERR_DEV_HEAD, .ERR_DEV_TAIL, .ERR_DEV_STAT, .ERR_RDO_ADDR, .ERR_INJ_TGT, .ERR_INJ_ARG, .ERR_INJ_CTRL, .ERR_POL, .ERR_DEV_LOG, .SE_CTRL, .SE_STATUS, .SE_BOOT, .SE_PC, .SE_FAULT]
def Reg.list3 : List Reg :=
  [.SE_OVF_PC, .SE_IRQ_EN, .SE_IRQ_CLASS, .SE_IRQ_PEND, .SE_DOORBELL, .SE_HURDLE, .SE_STALL, .SUP_WDOG, .SUP_WDOG_KICK, .SUP_NSTAT, .SE_DMA_DESC, .SE_DMA_STAT, .SE_DBG_SEL, .SE_DBG_DATA, .SE_IMEM, .SUP_IMEM, .SUP_DMEM, .TRC_CTRL, .TRC_SRC, .TRC_STATUS, .TRC_WP, .TRC_RP, .TRC_MEM_BASE, .TRC_MEM_LEN, .TRC_DROP, .TRC_STALL, .TRC_BUF, .RTE_CTRL, .RTE_STATUS, .RTE_CONT_CNT, .RTE_FIRST, .RTE_FIRST_STRIDE, .RTE_DOM, .FAB_PIN_CFG, .FAB_PIN_IN, .FAB_PIN_OUT, .FAB_RCK_CFG, .FAB_RCK_STAT, .TIM_GUN_PORT, .TIM_GUN_STAT]
def Reg.list4 : List Reg :=
  [.TIM_WAKE_GUARD, .TIM_LOG_HEAD, .TIM_LOG, .TRG_SEQ_CTRL, .TRG_SEQ_STAT, .TRG_STATUS, .TRG_TIN_CFG, .TRG_TOUT_CFG, .TRG_BUS_SEL, .TRG_SW, .TRG_LOG_MASK0, .TRG_LOG_MASK1, .TRG_LOG_HEAD, .TRG_S_COND0, .TRG_S_COND1, .TRG_S_RST0, .TRG_S_RST1, .TRG_S_TIMEOUT, .TRG_LOG, .ACQ_STATUS, .ACQ_FIRST, .ACQ_FIRST_STRIDE, .ACQ_BUF, .HEAT_CTRL, .HEAT_SRC, .HEAT_TRIG, .HEAT_PRE, .HEAT_POST, .HEAT_BASE, .HEAT_SLOT, .HEAT_NSLOT, .HEAT_HOLDOFF, .HEAT_FELT, .HEAT_BW, .HEAT_NOTIFY, .HEAT_STAT, .HEAT_WP, .HEAT_DONE, .HEAT_RP, .MEM_CTRL]
def Reg.list5 : List Reg :=
  [.MEM_STATUS, .MEM_RES_LIMIT, .MEM_RES_STAT, .MEM_SCRUB, .MEM_CE_CNT, .MEM_FIRST, .MEM_FIRST_ADDR, .MEM_FIRST_STRIDE, .MEM_INIT_BASE, .MEM_INIT_LEN, .MEM_INIT_CTRL, .MEM_REPAIR, .ARC_CTRL, .ARC_STATUS, .ARC_CMD_STAT, .ARC_NEXT_OBJ, .ARC_CMD_PORT, .ARC_CPL_BASE, .ARC_CPL_LEN, .ARC_CPL_WP, .ARC_CPL_RP, .ARC_FREE, .ARC_HEALTH, .ARC_ECC, .ARC_PATROL, .ARC_BIND, .CFG_STATUS, .CFG_CMD, .CFG_CTRL, .CFG_SRC_ADDR, .CFG_SRC_LEN, .CFG_SRC_LIMIT, .CFG_PROGRESS, .CFG_FAIL, .CFG_START_FRAC, .CFG_START_SEC, .CFG_DESIGN_ID, .CFG_USER, .CFG_SLOT, .CFG_RELAY]
def Reg.list6 : List Reg :=
  [.CFG_ZCMD, .CFG_ZONE, .CFG_FUSE_STAT, .CFG_FUSE_CMD, .CFG_FUSE_DATA, .PWR_REQ, .PWR_STAT, .PWR_WAKE_EN, .PWR_WAKE_PEND, .PWR_LANE, .PWR_MISSED, .PWR_TIMES, .ERR_REG_REC0, .ERR_REG_REC1, .ERR_REG_REC2, .ERR_REG_STAT, .NOC_PC_CTRL, .NOC_PC_BASE, .NOC_PC_LEN, .NOC_PC_WP, .NOC_PC_RP, .NOC_PC_DROP, .CELL_CTRL, .CELL_STATUS, .CELL_SBE_CNT, .CELL_FIRST, .CELL_FIRST_STRIDE, .CELL_SCRUB, .QC_CFG, .QC_SIZE, .QC_WR, .QC_RD, .QC_WM, .QC_STAT, .QC_CNT, .QC_CMD, .QC_LANE, .QC_STATUS, .QC_FIRST, .QC_FIRST_STRIDE]
def Reg.list7 : List Reg :=
  [.QC_SBE_CNT, .QC_REPAIR, .SPD_CTRL, .SPD_STATUS, .SPD_SBE_CNT, .SPD_DMA_STALL, .SPD_FIRST, .SPD_FIRST_STRIDE, .SPD_MARCH_CTRL, .SPD_MARCH_STAT, .SPD_REPAIR, .NOC_RSTAT, .NOC_LINK_ERR, .NOC_RES, .NOC_RES_STAT, .NOC_PRB_CFG, .NOC_PRB_FILT, .NOC_PRB_CNT, .NOC_TBL_ACT, .NOC_TBL_PEND, .TRG_WIN_CTRL, .TRG_WIN_PRE, .TRG_WIN_STAT, .TRG_WIN_CLIP, .TRG_WIN_CNT_LO, .TRG_WIN_CNT_HI, .TRG_WIN_TRIG_E, .TRG_WIN_TRIG_INFO, .TRG_WIN_TRIG_FRAC, .TRG_WIN_TRIG_SEC, .TRG_WIN_FS_FRAC, .TRG_WIN_FS_SEC, .TRG_WIN_DEAD, .TRG_DET_CFG, .TRG_DET_MATCH, .TRG_DET_MASK, .TRG_WIN_LTIME, .LN_CTRL, .LN_RATE, .LN_PCS]
def Reg.list8 : List Reg :=
  [.LN_STATUS, .LN_TX_FFE, .LN_TX_CFG, .LN_TX_FILL0, .LN_TX_FILL1, .LN_PAT0, .LN_PAT1, .LN_PAT_CFG, .LN_RX_CFG, .LN_EQ_STAT, .LN_PCS_CNT, .LN_CHK_BITS_LO, .LN_CHK_BITS_HI, .LN_CHK_ERR, .LN_INJ_CFG, .LN_INJ_CTRL, .LN_HIST_CFG, .LN_HIST_N, .LN_TS_MATCH, .LN_TS_MASK, .LN_TS_INFO, .LN_TS_FRAC, .LN_TS_SEC, .LN_SLIP, .LN_FFE, .LN_DFE, .LN_FEC_CW_LO, .LN_FEC_CW_HI, .LN_FEC_CORR, .LN_FEC_UNCORR, .LN_FEC_HIST, .LN_HIST, .SUP_CTRL, .SUP_STATUS, .SUP_BOOT, .SUP_PC, .SUP_FAULT, .SUP_OVF_PC, .SUP_IRQ_EN, .SUP_IRQ_CLASS]
def Reg.list9 : List Reg :=
  [.SUP_IRQ_PEND, .SUP_DOORBELL, .SUP_HURDLE, .SUP_STALL, .SUP_DMA_DESC, .SUP_DMA_STAT, .SUP_DBG_SEL, .SUP_DBG_DATA]
/-- Every register, once. -/
def Reg.all : List Reg := Reg.list1 ++ Reg.list2 ++ Reg.list3 ++ Reg.list4 ++ Reg.list5 ++ Reg.list6 ++ Reg.list7 ++ Reg.list8 ++ Reg.list9

end Sys2Proof.Machine
end

