-- ==== Sys2Proof/Machine/State.lean ====
section
/-! DEFINITION. The state of the part as plain data: every register slot, every memory and every piece of
state the spec gives a unit beside its registers, and the queue of waiting commands. -/

namespace Sys2Proof.Machine

/-- The device modes of Table 1.5. -/
inductive Mode where
  | blank | loading | run | frozen | idle | doze | sleep | test
  deriving DecidableEq, Repr

/-- Why a command stops the model. No command of this part stops it: every rule of the spec gives an effect. The
one constructor is raised by no meaning; it keeps the type inhabited (safe). -/
inductive Fault where
  | unreachable
  deriving DecidableEq, Repr

/-- Why a command has no meaning. `notModelled` is raised by the dispatcher for a command that has no meaning yet
(safe: the model stops). -/
inductive Refusal where
  | notModelled (mnemonic : String)
  deriving DecidableEq, Repr

/-- An error record of R13 in the layout of R405, before the aggregator has judged it (R407). -/
structure ErrRec where
  w0 : Word
  w1 : Word
  w2 : Word
  deriving DecidableEq, Repr

/-- A time frame of the time link (R45): the marker's time, the hop count and the ring delay it distributes. -/
structure TlFrame where
  sec     : Word
  frac    : Word
  hop     : Nat
  ringDly : Nat
  deriving DecidableEq, Repr

/-- An entry of the timestamp FIFO (R42). -/
structure TsEntry where
  port     : Nat
  transmit : Bool
  msg      : Nat
  seq      : Nat
  stamp    : Nat
  deriving DecidableEq, Repr

/-- A start of strides that waits for its first boundary (R53): the instant of the start command in device time and
the first stride chosen. -/
structure StartReq where
  command : Nat
  first   : Nat
  deriving DecidableEq, Repr

/-- The time base and the stride (Chapter 2). Times are counted in units of 1/1024 ns since the TAI epoch. -/
structure TimeBase where
  now        : Nat := 0                 -- device time at the last tick, in units
  sub        : Nat := 0                 -- the accumulated fraction of a unit, in 2⁻⁴⁰ units
  stepArmed  : Bool := false            -- a step of device time waits for the next tick (R36)
  refArmed   : Bool := false            -- a switch to REF_IN is armed (R40)
  ppsOut     : Bool := false            -- level of PPS_OUT
  ppsUntil   : Option Nat := none       -- device time at which PPS_OUT falls
  tsFifo     : List TsEntry := []       -- timestamp FIFO, oldest first
  lastPtp    : Option TsEntry := none   -- the event message rewritten last as one-step (R43)
  strideNum  : Nat := 0                 -- the stride number held (R51, R54)
  lastExec   : Option Nat := none       -- the last stride number executed since P or C (R53)
  epoch      : Nat := 0                 -- the epoch read at the last start (R52)
  running    : Bool := false            -- strides run
  start      : Option StartReq := none  -- a start that waits for its first boundary
  step       : Nat := 0                 -- the next scheduled step of the stride in progress
  tlRing     : Nat := 0                 -- ring delay the master last measured (R45)
  tlOut      : Option TlFrame := none   -- the frame last sent on TL_OUT
  tlIgnore   : Nat := 0                 -- device time until which an injection ignores TL_IN (R411)
  ppsDue     : Bool := false            -- a second was reached by counting, PPS_OUT is due (R37)
  ppsInSec   : Nat := 0                 -- TSEC of the last PPS_IN edge, before it is latched
  phase      : Int := 0                 -- instant of the command under way, in units from the last tick (R33)
  refOut     : Option Nat := none       -- device time of the last rising edge of REF_OUT (R37)
  pdReqs     : List (Nat × (Nat × Nat)) := [] -- last Pdelay_Req received by a port: sequence number and stamp (R43)
  steer      : Int := 0                 -- phase correction of the step clock, in 2⁻⁴⁰ (R55)
  missed     : Nat := 0                 -- missed strides of the last start (R53)
  deriving DecidableEq, Repr

/-- A launch entry of Table 2.2 in a gun queue, with what decides its log reason. -/
structure GunEntry where
  region  : Nat
  cls     : Nat
  index   : Nat
  action  : Nat
  tag     : Nat
  time    : Nat
  arg     : Word
  past    : Bool := false               -- its gun time was not later than device time on arrival (R60)
  stepped : Bool := false               -- a forward step of device time passed it (R58)
  woken   : Bool := false               -- its unit was not running when it became due (R64)
  waited  : Bool := false               -- it waited for strides to start (R65)
  deriving DecidableEq, Repr

/-- The divider of a regional clock tree and the switching of its source (R118, R119). -/
structure Rck where
  src       : Nat := 0                  -- source in force
  sel       : Nat := 0
  table     : Nat := 0
  div       : Nat := 0                  -- DIV_M1 in force since the last rise of the output
  count     : Nat := 0                  -- rising edges of the source since then, 0 before the next rise
  high      : Bool := false             -- output level
  switching : Bool := false             -- a switch of the source is in progress
  deriving DecidableEq, Repr

/-- The park overlay of a border port (R380): the word it carries and whether a line drive drives. -/
structure ParkVal where
  word   : Word
  drives : Bool
  deriving DecidableEq, Repr

/-- Cells, schedule memories, switch boxes and fabric pins (Chapters 3 and 4), sparse: an entry that is not listed
has the cleared value of R88 and R345. Cell c of cluster l has index 64·l + c, cluster k of flat tile t index 16·t + k. -/
structure Fabric where
  imem     : List (Nat × BitVec 80) := []  -- 2048·cell + row
  ipar     : List (Nat × Nat) := []        -- parity bits of the row that are wrong, one per half
  dmem     : List (Nat × Word) := []       -- 2·(1024·cell + word) + entry
  dmemErr  : List (Nat × Nat) := []        -- inverted bits of the stored 47-bit codeword, by entry
  role     : List (Nat × Bool) := []       -- which entry of the word is the committed one
  smap     : List (Nat × Bool) := []       -- state map
  dirty    : List (Nat × Bool) := []       -- dirty flags
  domain   : List (Nat × Nat) := []        -- domain number of the cell
  routeOut : List (Nat × Word) := []       -- route-out register of the cell
  fixes    : List (Nat × Word) := []       -- correction write-backs that wait, by entry (R91)
  scrubPos : List (Nat × Nat) := []        -- next entry the cell's scrubber reads
  passes   : List (Nat × Nat) := []        -- completed scrub passes of the cell
  sel      : List (Nat × Nat) := []        -- box selects, 32·(2048·cluster + step) + output
  co       : List (Nat × Nat) := []        -- CO selects, 8·(2048·cluster + step) + k, 0x7F when not listed
  route    : List (Nat × Nat) := []        -- route entries, 64·(2048·cluster + step) + cell, 0xFE000 when not listed
  spar     : List (Nat × Bool) := []       -- parity errors of parts, 104·(2048·cluster + step) + part
  selInj   : List (Nat × Nat) := []        -- sources an injection ORs into a select, once (R411)
  drvInj   : List (Nat × Bool) := []       -- line drives an injection makes drive, once (R411)
  injNext  : Option (Nat × Option Nat) := none -- an injection for the stride after the one in progress: key, source
  out      : List (Nat × Word) := []       -- box output registers, 32·cluster + output
  drive    : List (Nat × Bool) := []       -- line-drive outputs that drive
  park     : List (Nat × ParkVal) := []    -- park overlay of isolated zones
  bridge   : List (Nat × List Word) := []  -- the four stages of a bridge channel, by driving output
  qinPend  : List (Nat × Word) := []       -- words loaded into QIN, pushed in the next step (R127), by cluster
  pi       : List (Nat × Word) := []       -- PI sample of a fabric pin, by flat tile
  pinLevel : List (Nat × Bool) := []       -- output level in force
  pinOE    : List (Nat × Bool) := []       -- output enable in force
  pinPark  : List (Nat × Bool) := []       -- a park policy of high impedance is in force
  rck      : List (Nat × Rck) := []        -- 8·region + tree
  deriving DecidableEq, Repr

/-- A value pending in an RWQ field (R8): the slot address, the field's bits and the value. -/
structure RwqEntry where
  addr  : Nat
  hi    : Nat
  lo    : Nat
  value : Nat
  deriving DecidableEq, Repr

/-- A declared zone: a rectangle of tiles, by its corner columns and rows (R378). -/
structure ZoneRect where
  x0 : Nat
  y0 : Nat
  x1 : Nat
  y1 : Nat
  deriving DecidableEq, Repr

/-- What a zone waits for and what its loads have staged (R379, R381). The zone's state is CFG_ZONE.STATE. -/
structure Zone where
  rect     : Option ZoneRect := none     -- declared in the loaded configuration
  isoPend  : Bool := false               -- an ISOLATE waits for its stride boundary
  startPend : Bool := false              -- a START waits for its stride boundary
  restoring : Nat := 0                   -- 0 none, 1 RESTORE, 2 RELOAD in progress
  thenStart : Bool := false              -- a START waits for that restore
  zreset   : Bool := false               -- a Z reset of the zone runs
  deriving DecidableEq, Repr

/-- The freeze lines, who raised them, and what a freeze keeps until the resume (R413-R422). -/
structure Frz where
  endReq   : Bool := false               -- FRZ_END
  nowReq   : Bool := false               -- FRZ_NOW
  cause    : Nat := 0                    -- ERR_FRZ_STAT.CAUSE of the freeze
  code     : Nat := 0                    -- event code of an escalation or contention
  region   : Nat := 0                    -- region that raised it
  rec0     : Word := 0                   -- word 0 of the FREEZE record: scope and coordinate of the cause
  partialAt : Option Nat := none         -- last scheduled step of a partial stride
  stopAt   : Nat := 0                    -- device time of the stop
  atTime   : Option Nat := none          -- a FREEZE_AT waits for this device time
  atFrozen : Bool := false               -- it was accepted in FROZEN (R413)
  resumeAt : Option Nat := none          -- a RESUME_AT waits
  pinLow   : Bool := false               -- FREEZE_N is low
  packets  : List Nat := []              -- regions whose FREEZE packet is on its way (R418)
  haltMode : Nat := 0                    -- HALT of those packets
  halted   : List Nat := []              -- processors the freeze halted (R418)
  test     : Option Mode := none         -- the mode TEST was entered from
  testReq  : Bool := false               -- TEST follows the freeze in progress (R425)
  testWrong : Bool := false              -- the last host test command was refused with WRONG_MODE (R19, log entry 69)
  locked   : Bool := false               -- a scan instruction under the debug lock halts every processor (R425)
  deriving DecidableEq, Repr

/-- A response in the network on its way to its requester (R297): a read response with its words, or a write
acknowledgement. -/
structure Resp where
  isRead : Bool
  dst    : Nat
  tag    : Nat
  status : Nat
  words  : List Word := []
  checks : List Nat := []                -- bytes 60 to 63 of the lines read in the diagnostic view (R27, R316)
  node   : Nat := 0                      -- the node that answers, 2·router + (0 local, 1 service)
  late   : Bool := false                 -- its requester was reset since: it is discarded on arrival (R401)
  old    : Bool := false                 -- of a request injected before the last swap (R303)
  deriving DecidableEq, Repr

/-- Words a queue holds that no boundary has released: their release stride (0 for the next boundary, R124), the
word offset they start at and their number (R128). -/
structure Mark where
  stride : Nat
  off    : Nat
  n      : Nat
  deriving DecidableEq, Repr

/-- A network push that waits for free lines (R124). A packet of several lines is acknowledged with its last waiting
line (`ack`), with the first status other than OK of the lines before it. -/
structure Push where
  src    : Nat
  tag    : Nat
  stride : Nat
  words  : List Word
  ack    : Bool := true
  status : Nat := 0
  late   : Bool := false                 -- its requester was reset since (R401)
  old    : Bool := false                 -- injected before the last swap (R303)
  deriving DecidableEq, Repr

/-- A queue beside its registers: the released words as runs of offset and length, oldest first, the pending marks,
the write pointer, and the header of the stride (R123-R128). -/
structure QueueSt where
  rel     : List (Nat × Nat) := []
  marks   : List Mark := []
  wr      : Nat := 0
  snap    : Nat := 0            -- released words at the start of the stride (R126)
  hdrDone : Bool := false       -- the header was popped in this stride
  waiting : List Push := []     -- pushes that wait for free lines, oldest first
  cmdBusy : Bool := false       -- a queue command runs, no credit is granted (R134)
  deriving DecidableEq, Repr

/-- A tile beside its registers: the lane's word counts, the march and its failing rows (R133, R139-R141). -/
structure TileSt where
  laneRx     : Nat := 0
  laneTx     : Nat := 0
  march      : Bool := false
  marchQm    : Bool := false            -- TARGET of the march that runs
  marchKeep  : Bool := false            -- KIND of the march that runs
  marchFails : List (Nat × Nat) := []   -- rows an injection makes the next march miscompare: sub-array, row
  repairBusy : List Nat := []           -- repair registers whose copy runs: n, or 100 + n for queue memory
  deriving DecidableEq, Repr

/-- The memory of a region beside its registers (R320-R322). -/
structure MemSt where
  initRun : Option (Nat × Nat) := none     -- first block and number of blocks of an initialisation that runs
  ceRows  : List (Nat × Nat) := []         -- corrected reads of a row in the scrub pass, by channel, bank and row
  copying : List Nat := []                 -- repair entries whose row copy runs
  scrubPos : Nat := 0                      -- next block the scrub reads
  deriving DecidableEq, Repr

/-- A packet byte waiting in a trace line, with whether a packet header starts there (R200, R202). -/
structure TrcByte where
  byte : Nat
  head : Bool
  deriving DecidableEq, Repr

/-- A closed trace line in a staging area (Table 8.3). -/
structure TrcLine where
  seq   : Nat
  flush : Bool
  bytes : List TrcByte
  deriving DecidableEq, Repr

/-- A trace source (R196-R203). -/
structure TrcSrc where
  sync      : Option Nat := none         -- reason of the SYNC due at the next issue (Table 8.2)
  cyc       : Nat := 0                   -- cycle counter: cycles since the last anchor
  atom      : List Bool := []            -- outcomes of the open ATOM, oldest first
  atomCyc   : Nat := 0                   -- counter value at the issue of its last branch
  cur       : List TrcByte := []         -- bytes of the open line
  staged    : List TrcLine := []         -- complete lines of the staging area
  seq       : Nat := 0                   -- number of the next line
  sinceSync : Nat := 0                   -- bytes emitted since the last SYNC
  lost      : Option Nat := none         -- bytes discarded since the staging area was found full
  deriving DecidableEq, Repr

/-- The trace unit of a region (R202-R205). -/
structure TrcUnit where
  srcs     : List (Nat × TrcSrc) := []
  next     : Nat := 0                    -- source whose turn it is, round-robin
  stopping : Nat := 0                    -- the sink that drains, 0 when none
  ringWait : Nat := 0                    -- ring writes not yet acknowledged
  fifo     : Nat := 0                    -- lines of a memory sink still in the buffer, the last at TRC_WP + fifo − 1
  bufErr   : List (Nat × Nat) := []      -- inverted codeword bits of buffer words, by 12 · line + word (R202)
  deriving DecidableEq, Repr

/-- A register bank of a processor (Table 6.1); an entry that is not listed is 0. -/
structure Bank where
  x  : List (Nat × Word) := []
  a  : List (Nat × Nat) := []            -- 48 bits, of a supervisor's ACC 40
  p  : List (Nat × Nat) := []
  m  : List (Nat × Nat) := []
  b  : List (Nat × Nat) := []
  l  : List (Nat × Nat) := []
  sr : Word := 0
  deriving DecidableEq, Repr

/-- What an instruction in flight does in the cycle in which its result lands (Table 6.3). -/
inductive FlyOp where
  | load (xt : Nat) (addrs : List Nat)                                    -- LD (R148)
  | store (words : List (Nat × Word))                                     -- ST, with the data read at issue
  | sum (n : Nat) (keep : Bool) (v : Int) (judged sat : Bool) (rpos : Nat) -- one accumulator of MUL or QUAD
  | pair (k : Nat) (keep : Bool) (v0 v1 : Int) (judged sat : Bool)        -- a pair (R154)
  | wide (k : Nat) (lo hi : Nat)                                          -- MUL40, MUL40U
  | addAcc (n m : Nat) (sat : Bool)
  | asl (n k : Nat) (sat : Bool)
  | asr (n k : Nat)
  | neg (n : Nat) (sat : Bool)
  | ext (rd n k : Nat) (sat : Bool)
  | restoreSr                                                             -- RTI (R162)
  deriving DecidableEq, Repr

/-- An instruction in flight: cycles until its result lands, its address and bank. -/
structure Fly where
  left   : Nat
  pc     : Nat
  shadow : Bool
  op     : FlyOp
  deriving DecidableEq, Repr

/-- What a supervisor's issue waits for beyond the states of SE_STATUS (R173). -/
inductive NetWait where
  | none
  | load (rd : Nat) (addr : Nat)
  | store (addr : Nat) (data : Word)
  | fence
  deriving DecidableEq, Repr

/-- A processor beside its SE_ or SUP_ registers (Chapter 6): SE_STATUS.STATE, FBANK, BP and SE_PC hold the rest. -/
structure ProcSt where
  main     : Bank := {}
  shadow   : Bank := { sr := 0x20000000 }
  cr       : Word := 0x1400000000        -- CR.RPOS is 20
  ira      : Nat := 0
  isr      : Word := 0
  fra      : Nat := 0
  fly      : List Fly := []              -- results in flight, in issue order
  slots    : Nat := 0                    -- delay slots still to issue (R153)
  target   : Option Nat := none          -- where issue goes after them, when not to the next address
  rtf      : Bool := false               -- the delay slots are those of an RTF
  haltReq  : Bool := false               -- a HALT waits for the next acceptance point
  stepping : Bool := false               -- a STEP is in progress (R168)
  hurdleRd : Nat := 0                    -- Xd of the waiting HURDLE
  bpStride : Nat := 0                    -- stride number latched with BP (R164)
  waitLeft : Nat := 0                    -- cycles of a WAITC
  gunFast  : Bool := false               -- class of source 18 (R158)
  net      : NetWait := .none
  warned   : Bool := false               -- the watchdog has given its half-time warning since the last kick
  eRst     : Bool := false               -- an E reset runs
  eHold    : Bool := false               -- it leaves the processor HALTED (R177)
  aborts   : List Nat := []              -- channels whose ABORT waits
  dmaRun   : List (Nat × Nat × Nat × Nat) := []  -- descriptors that wait: channel, status, COUNT, acknowledgements due
  dmaInj   : List (Nat × Nat) := []      -- status an injection makes a channel's next descriptor write back
  deriving DecidableEq, Repr

/-- A firing of a lane detector on its way to the combiner (R257-R259). -/
structure DetEv where
  det   : Nat
  elem  : Nat
  frac  : Nat
  stamp : Nat
  deriving DecidableEq, Repr

/-- A test lane beside its LN_ and TRG_ registers (Chapters 9 and 10). -/
structure LaneSt where
  phase    : Nat := 0                    -- acquisition (Table 9.7): 0 none, 1 rail, 2 PLL, 3 transmitter, 4 signal, 5 CDR, 6 equaliser, 7 PCS, 8 done
  origin   : Nat := 0                    -- column of Table 9.7: 0 cold, 1 from SLEEP, 2 from DOZE
  waking   : Bool := false               -- a return to ON is not complete (R244)
  wakeLate : Bool := false               -- its 2 ms have passed
  epochE   : Nat := 0                    -- E of the UI grid (R213)
  txPre    : Nat := 0                    -- P(n − 1) of the precoder
  txPlus   : Bool := false               -- running disparity of the encoder
  txScr    : Nat := 0                    -- scrambler
  txPrbs   : Option Nat := none          -- PRBS register, none for all ones
  txPos    : Nat := 0                    -- next bit of the user pattern
  txFec    : List Nat := []              -- parity remainder of the codeword in progress
  txFecIx  : Nat := 0                    -- next message word of the codeword
  txOut    : List Nat := []              -- levels last sent at the land
  txAmp    : List Int := []              -- outputs of the transmit FFE last sent, in 1/12,288 of the DAC's full scale
  txHist   : List Int := []              -- the last four symbol values at the FFE, oldest first, none at idle
  loopQ    : List Nat := []              -- levels sent that the near-end loopback has not yet brought to the receiver
  txIdle   : Bool := true                -- the land is at electrical idle
  rxPre    : Nat := 0                    -- P(n − 1) of the precoding decoder
  rxBits   : List Bool := []             -- received bits of the unit in progress
  rxTime   : Nat := 0                    -- land time of the first of them
  rxSlips  : Nat := 0                    -- bits that LN_SLIP drops from the stream
  rxPlus   : Bool := false               -- running disparity of the decoder
  rxScr    : Nat := 0                    -- descrambler
  rxGroups : List Nat := []              -- decoded code groups of the word in progress
  rxWordT  : Nat := 0                    -- land time of its first bit
  rxLast   : List Bool := []             -- last ten bits while hunting for commas
  commas   : Nat := 0                    -- commas found at one alignment
  commaAge : Nat := 0                    -- bits since the last of them
  hdrGood  : Nat := 0                    -- consecutive valid headers
  hdrN     : Nat := 0                    -- blocks of the window of 64
  hdrBad   : Nat := 0                    -- invalid headers in it
  grpBad   : List Bool := []             -- the last 16 code groups, newest first
  fecGood  : Nat := 0                    -- consecutive correctable codewords
  fecBad   : Nat := 0                    -- consecutive uncorrectable codewords
  fecOut   : List (Word × Nat) := []     -- words of decoded codewords not yet passed, with their land times
  lockDue  : Bool := false               -- the decoder has met its lock condition
  lossDue  : Bool := false               -- the decoder has met its loss condition
  chkReg   : Nat := 0                    -- PRBS register of the checker
  chkSeen  : Nat := 0                    -- bits received since the seed began
  chkGood  : Nat := 0                    -- consecutive correct predictions
  chkHist  : List Bool := []             -- received bits in which a rotation is sought, newest first
  chkPos   : Nat := 0                    -- next bit of the user pattern expected
  chkDue   : Bool := false               -- the checker has met its lock condition
  chkLoss  : Bool := false               -- 128 errors fell in the window
  chkWinN  : Nat := 0                    -- bits of the window of 1,024
  chkWinE  : Nat := 0                    -- errors in it
  chkBits  : Nat := 0                    -- bits compared
  chkErrs  : Nat := 0                    -- bit errors
  injLeft  : Nat := 0                    -- events still to come
  injN     : Nat := 0                    -- events of the sequence
  injRx    : Bool := false
  injKind  : Nat := 0
  injLen   : Nat := 0
  injPer   : Nat := 1                    -- spacing of its events in units of the kind
  injNext  : Nat := 0                    -- units before the next event falls
  txInj    : List (Nat × Nat × Nat) := []  -- kind, units ahead, length, of transmit events not yet sent
  rxInj    : List (Nat × Nat) := []        -- bits ahead, length, of receive events not yet applied
  feedOn   : Bool := false               -- the receive feed in force (R231)
  feedNew  : Bool := false               -- an RXQ_START restarts the word counter at the first word fed
  histLeft : Option Nat := none          -- samples the histogram still takes
  histSkip : Nat := 0                    -- UIs it passes over before the next it takes (DECIM)
  tsFifo   : List Nat := []              -- match timestamps, oldest first (R241)
  adc      : List Int := []              -- the last ADC samples, newest first
  decs     : List Nat := []              -- the last slicer decisions, newest first
  slIn     : Int := 0                    -- the last slicer input, in 1/256 of an ADC code
  tap      : Nat := 0                    -- tap in force
  cnt      : Nat := 0                    -- the element counter
  fill     : Nat := 0                    -- F: the element count at the start of the fill
  fillT    : Nat := 0                    -- device time at which F was taken
  lastT    : Nat := 0                    -- land time of the element before the next
  anchors  : List (Nat × Nat) := []      -- elements whose land time does not follow at the lane's rate from the element
                                         -- before, with that time, newest first
  tail     : List (Int × Nat) := []      -- the last four samples of the tap with their times, newest first
  riseOff  : Nat := 0                    -- detectors whose rising slope is not armed, by bit
  fallOff  : Nat := 0
  detQ     : List DetEv := []            -- detector firings not yet at the combiner
  snapEnd  : Option Nat := none          -- last element of the record of an accepted trigger
  armTime  : Nat := 0                    -- device time of the ARM
  preFrom  : Nat := 0                    -- element count at which the window last entered PREFILL
  holes    : List (Nat × Nat) := []      -- elements counted but not written while the window was held (R281), as runs
  pauses   : List (Nat × Nat × Nat) := []  -- pauses of the lane: first element after, start, duration (R287)
  offAt    : Option Nat := none          -- device time at which the lane left ON
  fecCw    : Nat := 0                    -- codewords decoded while locked
  pllInj   : Bool := false               -- an injection makes the transmit PLL lose lock once (R411)
  cdrInj   : Bool := false               -- an injection makes the CDR lose lock once
  trigSec  : Nat := 0                    -- TSEC of the last accepted trigger, before it is latched
  fsSec    : Nat := 0                    -- TSEC of the first false start, before it is latched
  deriving DecidableEq, Repr

/-- An event of a region's combiner (R254): its lane position is the global lane, the element and the fraction. -/
structure TrigEv where
  ev    : Nat
  stamp : Nat
  pos   : Option (Nat × Nat × Nat) := none
  late  : Bool := false
  deriving DecidableEq, Repr

/-- The combiner, sequencer and pins of a region (R260-R265). -/
structure TrigSt where
  held    : List TrigEv := []            -- events not yet processed
  count   : Nat := 0                     -- stage count
  entry   : Nat := 0                     -- entry time of the stage
  bus     : List TrigEv := []            -- events on the region's trigger bus line
  edges   : List (Nat × Option Nat) := []  -- TRIG_OUT edges to place, in time order: time, and a pulse's end
  out     : Bool := false                -- level of TRIG_OUT
  pulseEnd : Option Nat := none          -- device time at which the pulse ends
  deriving DecidableEq, Repr

/-- An open gap run of a heat (R283). -/
structure GapRun where
  reason : Nat
  first  : Nat
  count  : Nat
  time   : Nat
  deriving DecidableEq, Repr

/-- A data-area block of a heat being filled: its number, the outputs in it by position, and the source elements they
come from as runs (R270). -/
structure BlkBuf where
  blk : Option Nat := none
  ins : List (Nat × Nat) := []
  src : List (Nat × Nat) := []
  deriving DecidableEq, Repr

/-- A heat from its start until it is closed (R275, Table 11.5). -/
structure Heat where
  seq      : Nat
  base     : Nat                         -- byte address of the slot
  evb      : Nat
  capOut   : Nat
  fabric   : Bool
  unit     : Nat
  tap      : Nat
  felt     : Bool
  decim    : Nat
  whold    : Bool
  event    : Nat
  stamp    : Nat
  frac     : Nat
  mapped   : Bool
  servo    : Nat
  trigE    : Nat
  pre      : Nat
  post     : Nat
  firstE   : Nat
  firstT   : Nat
  stride   : Nat
  origin   : Nat := 0                    -- element at data-area position 0 (fabric source)
  lastE    : Option Nat := none          -- last element, once capture has ended
  trunc    : Bool := false
  later    : Nat := 0
  fsCount  : Nat := 0
  fsFirst  : Option Nat := none
  dead     : Nat := 0
  recs     : List (Nat × Nat × Nat × Nat) := []  -- event-ring records in the order they arose, as four words
  next     : Nat := 0                    -- next span element the channel takes or reads
  gaps     : List GapRun := []           -- gap runs that have closed
  gap      : Option GapRun := none       -- the open one
  fmin     : Int := 127                  -- minimum and maximum of the felting interval
  fmax     : Int := -128
  buf      : BlkBuf := {}
  deriving DecidableEq, Repr

/-- A heat channel beside its HEAT_ registers (Chapter 11). -/
structure HeatCh where
  heat     : Option Heat := none         -- the heat whose span is being taken
  closing  : List Heat := []             -- heats that have ended and are not closed, in sequence order
  armT     : Nat := 0                    -- firing instant of the ARM
  endT     : Nat := 0                    -- END of the last heat
  readyT   : Nat := 0                    -- instant of readiness
  acceptT  : Option Nat := none          -- first instant a fabric source would have accepted a trigger
  holdLeft : Nat := 0                    -- triggers left of a hold-off by events
  finish   : Bool := false               -- FINISH: the channel stops after the heat in POST
  waitArm  : Option (Nat × Option Bool) := none  -- an ARM that waits for the close: its time and AUTO of a gun action
  fsCount  : Nat := 0                    -- false starts held for the next heat
  fsFirst  : Option Nat := none
  fsRecs   : List (Nat × Nat × Nat × Nat) := []
  elem     : Nat := 0                    -- element number of a fabric source
  ready    : Nat := 0                    -- element number at readiness
  times    : List (Nat × Nat) := []      -- first element and time of the steps since the ARM, newest first
  buf      : BlkBuf := {}                -- the capture-buffer line being filled (fabric source)
  bad      : List GapRun := []           -- elements lost since readiness, before a heat (fabric source)
  writes   : List (Option Nat × List (Nat × Nat)) := []  -- data blocks not acknowledged, oldest first: the sequence
                                         -- number of the heat (none: discarded) and the source elements as runs
  writeErr : Bool := false               -- an injection fails the next data-block write
  pauses   : List (Nat × Nat × Nat) := []  -- pauses since the ARM: first element after, start, duration (fabric source)
  deriving DecidableEq, Repr

/-- The rows of the tiles of declared zones as the full load left them (R371). -/
structure BaseRows where
  imem   : List (Nat × BitVec 80) := []
  sel    : List (Nat × Nat) := []
  co     : List (Nat × Nat) := []
  route  : List (Nat × Nat) := []
  smap   : List (Nat × Bool) := []
  domain : List (Nat × Nat) := []
  dinit  : List (Nat × Word) := []
  conf   : List (Nat × Word) := []
  simem  : List (Nat × Word) := []
  spd    : List Host.Cell := []
  deriving DecidableEq, Repr

/-- The retained configuration (R371). -/
structure Retained where
  valid : Bool := false
  dinit : List (Nat × Word) := []          -- current initial values: 1024·cell + word
  conf  : List (Nat × Word) := []          -- configured values by slot address; unlisted: the cleared value
  park  : List (Nat × (Nat × Word)) := []  -- park entry of a box output: policy and park word, by 32·cluster + output
  base  : BaseRows := {}
  deriving DecidableEq, Repr

/-- A load, full or partial, while it runs (R365-R381). -/
structure LoadSt where
  kind    : Nat := 0                       -- 0 none, 1 full, 2 partial
  phase   : Nat := 0                       -- 1 steps 1 to 3, 2 step 4, 3 step 5, 4 step 7, 5 step 10, 6 held after step 3; partial: 4 restores
  src     : Nat := 0                       -- as CFG_STATUS.SRC
  skip    : Nat := 0                       -- bytes before the sync word
  hdr     : List Word := []                -- H0 to H11 once they have passed
  off     : Nat := 0                       -- body bytes executed
  frames  : Nat := 0                       -- frame writes
  last    : Option (Nat × List Word) := none  -- the last FRAME that passed step 2: its address and payload
  wregs   : List (Nat × Word) := []        -- stream registers written
  zdoms   : List (Nat × Word) := []        -- ZDOM values
  rows    : List (Nat × List Word) := []   -- staged rows, in the order written
  written : List Nat := []                 -- addresses of the rows written
  zone    : Nat := 0                       -- 16·region + zone of a partial load
  auto    : Bool := false                  -- AUTOSTART
  progLow : Bool := false                  -- PROG_N is low and holds the load after step 3 (R364)
  progSrc : Bool := false                  -- the load was started by PROG_N and acts on BOOT_SRC at the rising edge
  waitStart : Bool := false                -- it waits at step 4 for a relay START
  fwd     : Bool := false                  -- its FORWARDs have opened a stream on CFG_TX
  fwdOut  : List Word := []                -- words it has forwarded
  fwdEnd  : Option (Nat × Nat) := none     -- byte count and CRC of the END it sent on CFG_TX
  stream  : Bool := false                  -- a relay stream is open on CFG_RX
  waking  : Bool := false                  -- step 1 waits for the regions in a low-power state (Table 16.8)
  doneAt  : Nat := 0                       -- device time at which CFG_DONE was taken as high
  storing : Option (Nat × Nat × Nat) := none  -- a STORE runs: slot, first block and number of bytes
  deriving DecidableEq, Repr

/-- The eFuse array beside what CFG_FUSE_STAT shows (R382). -/
structure FuseSt where
  keys     : List (Nat × Nat) := []        -- programmed AES keys, by slot
  hashes   : List (Nat × Nat) := []        -- programmed public-key hashes, by slot
  revoked  : List Nat := []                -- blown revoke fuses: key slot n as n, hash slot n as 4 + n
  pending  : Option (Nat × Nat) := none    -- the item being programmed and its value
  deriving DecidableEq, Repr

/-- The power state machine of a region beside PWR_STAT (R386-R399). -/
structure PwrSt where
  fabOff  : Bool := false                  -- its fabric has stopped (N2)
  procOff : Bool := false                  -- its processors have stopped issue (N3)
  lanes   : Nat := 0                       -- the power state its lanes follow (N6, X3)
  began   : Nat := 0                       -- device time of N1, or of the wake event
  goal    : Nat := 0                       -- the state the entry under way leads to
  result  : Nat := 0                       -- result with which an unwinding entry completes
  runReq  : Bool := false                  -- a RUN request completes with this exit or unwinding
  resume  : Option Nat := none             -- the first stride it executes again while others run
  lastN   : Option Nat := none             -- the last stride it executed
  dev     : Bool := false                  -- its request is part of a device request not yet complete (R392)
  offAt   : Nat := 0                       -- device time at which its fabric stopped
  rails   : List Nat := []                 -- rails whose voltage request is not settled
  good    : List Nat := []                 -- rails whose last poll was good
  retried : List Nat := []                 -- rails whose request was retried in this exit (R398)
  laneWake : List Nat := []                -- lanes a gun wake holds ON until the next write of PWR_LANE (R388)
  deriving DecidableEq, Repr

/-- An archive command in the engine's queue (R331): `done` once it has been carried out, with its status, object,
blocks moved and blocks written with a failing check field (R333). -/
structure ArcCmd where
  op   : Nat
  len  : Nat
  tag  : Nat
  addr : Nat
  obj  : Nat
  off  : Nat
  done : Option (Nat × Nat × Nat × Nat) := none
  deriving DecidableEq, Repr

/-- An object of the archive with its record (R325, Table 13.3): its blocks as lists of 12 words. -/
structure ArcObj where
  num    : Nat
  heat   : Bool
  isOpen : Bool
  badBlk : Bool
  region : Nat
  chan   : Nat
  seq    : Nat
  time   : Nat
  tag    : Nat
  blocks : List (List Word)
  deriving DecidableEq, Repr

/-- The archive engine of a region with the contents of its flash (R324-R335). -/
structure ArcSt where
  cmds   : List ArcCmd := []               -- queued or carried out and not yet completed, in arrival order
  objs   : List ArcObj := []
  retry  : List Nat := []                  -- bindings whose copy met DOMAIN_OFFLINE and waits (R334)
  uncorr : Bool := false                   -- an injection fails the next sector read (R411)
  prog   : Bool := false                   -- an injection fails the next page-group program
  retired : Nat := 0                       -- usable blocks lost to retirement (R329)
  deriving DecidableEq, Repr

/-- A request of the network: operation 0 RD, 1 RDL, 2 WR, 3 WRL, its source, tag, address and sending stride, WEN of RD
and WR or the number of lines, the payload, and the check bytes a whole-line write may carry (R296, R297, R306, R316). -/
structure NetReq where
  op     : Nat
  src    : Nat
  tag    : Nat
  addr   : Nat
  sel    : Nat
  stride : Nat
  words  : List Word := []
  checks : List Nat := []
  late   : Bool := false                 -- its requester was reset since (R401)
  deriving DecidableEq, Repr

/-- The leases, the swap and the probes of the network (R301-R309). A port or node is 2·router + (0 local, 1 service). -/
structure NetSt where
  held     : List (Nat × Nat) := []        -- unused entries a port holds of a node, by 128·port + node
  granted  : List (Nat × Nat) := []        -- entries of a node granted and not yet freed
  asks     : List (Nat × Nat × Nat) := []  -- leases not yet granted in full, in arrival order: node, port, entries
  recalls  : List (Nat × Nat) := []        -- RECALLs on their way: node, port
  down     : List (Nat × Bool) := []       -- links that are down, by 4·router + output
  crcInj   : List (Nat × Nat) := []        -- injected bad transmissions of an output's next flit (R411)
  staged   : List (Nat × List Word) := []  -- staged probe records: region and words, oldest first
  waitReq  : List NetReq := []             -- requests held at their sources, in arrival order (R301, R303, R304)
  accepted : List NetReq := []             -- requests that nodes under reset hold, in arrival order (R401)
  fmtInj   : Option Nat := none            -- a router to which an injection sends a REQ with OP 0x1F
  deriving DecidableEq, Repr

/-- Resets in progress (R400). -/
structure RstSt where
  cold    : Bool := false                  -- RESET_N is low
  warm    : Nat := 0                       -- 0 none, 1 waits for wakes, 2 running
  toBlank : Bool := false                  -- it ends in BLANK (R22)
  src     : Nat := 0
  region  : List (Nat × Nat) := []         -- G resets: region, 1 waits for wakes, 2 running
  rsrc    : Nat := 0
  relayWait : Bool := false                -- RELAY_FLASH waits for a stream since the reset (R362)
  deriving DecidableEq, Repr

/-- A host DMA channel: its controls of Table 18.4 and how many completion records it has written (R434, R435). -/
structure HostCh where
  pi      : Nat := 0
  ci      : Nat := 0
  base    : Nat := 0                       -- HST_DMA_CPL_BASE
  n       : Nat := 0                       -- HST_DMA_CPL_N
  en      : Bool := false
  stopped : Bool := false
  dbErr   : Bool := false
  recs    : Nat := 0                       -- completion records since the channel was enabled
  run     : Option (Nat × Nat × Nat) := none -- a descriptor that waits: status, words moved, acknowledgements due
  abort   : Bool := false                  -- an ABORT waits for those acknowledgements (R435)
  deriving DecidableEq, Repr

/-- A host read whose response is late: its tag, device address, first byte in the response and length (R429). -/
structure HostRead where
  tag   : Nat
  addr  : Nat
  first : Nat
  len   : Nat
  bar2  : Bool
  deriving DecidableEq, Repr

/-- The PCI Express function beside the HST_ registers (R427-R438). -/
structure HostSt where
  table   : List (Nat × Nat) := []         -- MSI-X table: 64-bit words, 2·vector and 2·vector + 1; not listed: its default
  fnMask  : Bool := true                   -- the function is masked
  pba     : Nat := 0                       -- pending bits
  held    : Nat := 0                       -- vectors whose message waits for D0 and L0
  msgs    : List Nat := []                 -- vectors of the messages sent, oldest first
  inReset : Bool := false                  -- PERST_N is low
  d3      : Bool := false                  -- the function is in D3hot
  l2      : Bool := false                  -- the link is in L2
  wakeLow : Bool := false                  -- WAKE_N is driven low
  ring    : List (Nat × Nat) := []         -- descriptor rings: 64-bit words, 1024·channel + 4·slot + word
  chans   : List (Nat × HostCh) := []
  mem     : List Host.Cell := []           -- bytes the function has written to host memory
  data    : List Nat := []                 -- bytes of the last read the function completed
  reads   : List HostRead := []            -- reads whose response is late
  writes  : List (Nat × Nat) := []         -- writes whose acknowledgement is late: tag and device address (R429)
  tag     : Nat := 0                       -- tag of the next late read or write
  frames  : List (Nat × List Nat) := []    -- frames the management ports have sent: port and bytes
  local_  : List (Nat × Bool) := []        -- block lock of a management port
  deriving DecidableEq, Repr

/-- The supply and temperature monitor and the SMBus target (R441, R442, R458). -/
structure ModSt where
  warn   : Bool := false                   -- the OT_WARNING condition holds
  fault  : Bool := false                   -- the OT_FAULT condition holds
  under  : Bool := false                   -- the UT_FAULT condition holds
  temp   : Nat := 0                        -- latched STATUS_TEMPERATURE
  input  : Nat := 0                        -- latched STATUS_INPUT
  cml    : Nat := 0                        -- latched STATUS_CML
  mfr    : Bool := false                   -- a latched PWR_REG_FAULT (Table 18.6)
  alert  : Bool := false                   -- ALERT_N is driven low
  badRails : List Nat := []                -- rails out of regulation
  tripped : Bool := false                  -- the trip holds the core rails off
  reply  : List Nat := []                  -- bytes of the last SMBus answer
  deriving DecidableEq, Repr

/-- The JTAG port (R423-R425). -/
structure JtagSt where
  ir     : Nat := 1                        -- current instruction
  bsr    : Nat := 0                        -- boundary-scan register, by the model's own numbering of its cells
  drive  : Nat := 0                        -- lands: 0 of the device, 1 of the boundary-scan register, 2 floating
  tdo    : Nat := 0                        -- data last captured
  status : Nat := 0                        -- status of the last completed MEMACC
  data   : Word := 0                       -- data of its last completed read
  deriving DecidableEq, Repr

/-- The state of the part. -/
@[ext]
structure State where
  regs     : List (Nat × Word) := []     -- register slots by byte address; an unlisted slot holds its reset value
  rwq      : List RwqEntry := []         -- values pending in RWQ fields, oldest first
  mem      : List Host.Cell := []        -- bytes of main memory, queue memory, lane windows and scratchpads
  mode     : Mode := .blank              -- device mode (R19)
  time     : TimeBase := {}
  guns     : List GunEntry := []         -- launch queues, in gun-time order
  fab      : Fabric := {}
  memErr   : List (Nat × Nat) := []      -- inverted codeword bits of queue-memory and scratchpad words, by address
  queues   : List (Nat × QueueSt) := []  -- 16·flat tile + queue
  tiles    : List (Nat × TileSt) := []
  resps    : List Resp := []             -- responses in the network, oldest first
  mems     : List (Nat × MemSt) := []    -- by region
  procs    : List (Nat × ProcSt) := []   -- engines 0 to 63, supervisors 64 to 67
  imemPar  : List (Nat × Bool) := []     -- wrong parity bit of a processor's instruction word, by slot address
  trc      : List (Nat × TrcUnit) := []  -- trace units, by region
  lanes    : List (Nat × LaneSt) := []   -- by lane LN00 to LN47
  trigs    : List (Nat × TrigSt) := []   -- by region
  heats    : List (Nat × HeatCh) := []   -- 16·region + channel
  ret      : Retained := {}
  load     : LoadSt := {}
  store    : List Host.Cell := []        -- bytes of the configuration store: 2³²·slot + byte
  fuse     : FuseSt := {}
  pwr      : List (Nat × PwrSt) := []    -- by region
  rst      : RstSt := {}
  arcs     : List (Nat × ArcSt) := []    -- by region
  net      : NetSt := {}
  railInj  : Option Nat := none          -- rail whose next voltage request an injection keeps from settling (R411)
  refAbsent : Nat := 0                   -- device time until which an injection takes REF_IN as absent (R411)
  zones    : List (Nat × Zone) := []     -- 16·region + zone
  frz      : Frz := {}
  host     : HostSt := {}
  module   : ModSt := {}
  jtag     : JtagSt := {}
  fifos    : List (Nat × List ErrRec) := [] -- region error FIFOs, oldest first (R407)
  lossy    : List Nat := []              -- aggregators that lost records since the copy stored last: a region, or 4 the device
  detected : List ErrRec := []           -- error records not yet judged (R407), oldest first
  lastRead : Word := 0                   -- data returned by the last register read
  free     : Nat := 0                    -- the model's own counter of free values
  pending  : List Instr := []            -- the waiting commands, first in, first out
  deriving DecidableEq, Repr

/-- The part right after a power-on reset (R400), before P_DONE: every register slot at its reset value, every memory at
what an unlisted entry reads as, the mode BLANK (R19), and no command waiting. -/
def State.reset : State := {}

end Sys2Proof.Machine
end

