-- ==== Sys2Proof/Machine/Ops.lean ====
section
/-! DEFINITION. The named operations every meaning is written over: bit fields, sparse maps, the register store,
the byte memory, device time, error records. -/

namespace Sys2Proof.Machine

/-! ### Bits of a number -/

/-- Bits [hi:lo] of a number. -/
def bitsOf (n hi lo : Nat) : Nat := n / 2 ^ lo % 2 ^ (hi + 1 - lo)

/-- A number with bits [hi:lo] replaced by `v`. -/
def putBits (n hi lo v : Nat) : Nat :=
  n - bitsOf n hi lo * 2 ^ lo + v % 2 ^ (hi + 1 - lo) * 2 ^ lo

/-- Bit `i` of a number. -/
def bitOf (n i : Nat) : Bool := n / 2 ^ i % 2 == 1

/-- A flag as a number. -/
def flag (b : Bool) : Nat := if b then 1 else 0

/-- The signed value of the low `w` bits. -/
def signed (w n : Nat) : Int :=
  if 2 ^ (w - 1) ≤ n % 2 ^ w then ((n % 2 ^ w : Nat) : Int) - (2 ^ w : Nat) else ((n % 2 ^ w : Nat) : Int)

/-- The low `w` bits of a signed number. -/
def unsigned (w : Nat) (i : Int) : Nat := (i % (2 ^ w : Nat)).toNat

/-- Saturating addition at the largest value of a field `w` bits wide. -/
def satAdd (w n k : Nat) : Nat := Nat.min (n + k) (2 ^ w - 1)

/-- A signed number clamped between two bounds. -/
def clampInt (lo hi i : Int) : Int := if i < lo then lo else if hi < i then hi else i

/-- Number of ones among the low `w` bits. -/
def popBits : Nat → Nat → Nat
  | 0, _ => 0
  | w + 1, n => n % 2 + popBits w (n / 2)

/-- Bitwise OR of two words. -/
def worOf (a b : Word) : Word := a ||| b

/-! ### Sparse maps: a list of key and value with a default for every key it does not list -/

/-- The value at a key. -/
def mget {α : Type} (d : α) : List (Nat × α) → Nat → α
  | [], _ => d
  | (k', v) :: t, k => if k = k' then v else mget d t k

/-- The map with a key set, whatever the value. -/
def minsert {α : Type} : List (Nat × α) → Nat → α → List (Nat × α)
  | [], k, v => [(k, v)]
  | (k', v') :: t, k, v =>
    if k = k' then (k, v) :: t
    else if k < k' then (k, v) :: (k', v') :: t
    else (k', v') :: minsert t k v

/-- The map without a key. -/
def merase {α : Type} (m : List (Nat × α)) (k : Nat) : List (Nat × α) := m.filter (fun e => e.1 != k)

/-- The map with a key set; an entry equal to the default is not listed. -/
def mset {α : Type} [DecidableEq α] (d : α) (m : List (Nat × α)) (k : Nat) (v : α) : List (Nat × α) :=
  if v = d then merase m k else minsert m k v

/-- The map without the keys of a range of `n` keys from `k`. -/
def mclear {α : Type} (m : List (Nat × α)) (k n : Nat) : List (Nat × α) :=
  m.filter (fun e => decide (e.1 < k) || decide (k + n ≤ e.1))

/-- The canonical form of a map: keys strictly rising and no entry equal to the default. -/
def mwf {α : Type} [DecidableEq α] (d : α) : List (Nat × α) → Bool
  | [] => true
  | [(_, v)] => decide (v ≠ d)
  | (k, v) :: (k', v') :: t => decide (v ≠ d) && decide (k < k') && mwf d ((k', v') :: t)

/-! ### The register store -/

/-- The first byte address of a register block: the device block, region `u`, or flat tile `u` (R31, R443). -/
def Blk.base : Blk → Nat → Nat
  | .dev, _ => 0x7FF0000000
  | .region, u => 0x7FF4000000 + u * 0x1000000
  | .tile, u => 0x7FF4000000 + u / 16 * 0x1000000 + 0x800000 + u % 16 * 0x80000
  | .laneTile, u => 0x7FF4000000 + u / 16 * 0x1000000 + 0x800000 + u % 16 * 0x80000

/-- The byte address of register `r`, index `i`, of unit `u`. -/
def regAddr (r : Reg) (u i : Nat) : Nat := Blk.base r.place.blk u + r.place.offset + i * r.place.stride

/-- The default route of the routing tables (R299): the output of router `src` toward router `dst`, on the 8 × 8
torus of routers, shorter direction first in the row and then in the column, east or south at a distance of 4. -/
def defaultRoute (src dst : Nat) : Nat :=
  let col (n : Nat) := 4 * (n / 16 % 2) + n % 16 % 4
  let row (n : Nat) := 4 * (n / 32) + n % 16 / 4
  let dx := (col dst + 8 - col src) % 8
  let dy := (row dst + 8 - row src) % 8
  if dx ≠ 0 then (if dx ≤ 4 then 0 else 1)
  else if dy ≠ 0 then (if dy ≤ 4 then 3 else 2)
  else 4

/-- Default escalation action of a policy entry (Table 17.2, R409): DED, IPAR, SPAR and NOC_LINK_DOWN freeze at the
stride end, the others are only recorded. -/
def defaultPolicy (entry : Nat) : Nat := if entry = 1 ∨ entry = 2 ∨ entry = 259 ∨ entry = 610 then 1 else 0

/-- The value of a register slot at reset: its fields' reset values. -/
def Reg.resetWord (r : Reg) (u i : Nat) : Word :=
  match r with
  | .NOC_TBL_ACT => BitVec.ofNat 40 (defaultRoute u i)
  | .NOC_TBL_PEND => BitVec.ofNat 40 (defaultRoute u i)
  | .ERR_POL => BitVec.ofNat 40 (defaultPolicy i)
  | r => BitVec.ofNat 40 (r.fields.foldl (fun n f => n + f.reset * 2 ^ f.lo) 0)

/-- The contents of a register slot. -/
def State.reg (s : State) (r : Reg) (u : Nat := 0) (i : Nat := 0) : Word :=
  mget (r.resetWord u i) s.regs (regAddr r u i)

/-- The state with a register slot set. -/
def State.setReg (s : State) (r : Reg) (u i : Nat) (w : Word) : State :=
  { s with regs := mset (r.resetWord u i) s.regs (regAddr r u i) w }

/-- A field of a register. -/
def State.fld (s : State) (f : Fld) (u : Nat := 0) (i : Nat := 0) : Nat :=
  bitsOf (s.reg f.reg u i).toNat f.hi f.lo

/-- A one-bit field of a register as a flag. -/
def State.on (s : State) (f : Fld) (u : Nat := 0) (i : Nat := 0) : Bool := s.fld f u i == 1

/-- The state with a field of a register set. -/
def State.setFld (s : State) (f : Fld) (u i : Nat) (v : Nat) : State :=
  s.setReg f.reg u i (BitVec.ofNat 40 (putBits (s.reg f.reg u i).toNat f.hi f.lo v))

/-- The state with a counting field raised by `k`, saturating. -/
def State.addSat (s : State) (f : Fld) (u i : Nat) (k : Nat := 1) : State :=
  s.setFld f u i (satAdd (f.hi + 1 - f.lo) (s.fld f u i) k)

/-- The state with a counting field raised by `k`, wrapping. -/
def State.addWrap (s : State) (f : Fld) (u i : Nat) (k : Nat := 1) : State :=
  s.setFld f u i (s.fld f u i + k)

/-- The state with one bit of a field set. -/
def State.orFld (s : State) (f : Fld) (u i : Nat) (bit : Nat) : State :=
  s.setFld f u i (s.fld f u i ||| 2 ^ bit)

/-- How many units of its block a register has: 1 device, 4 regions, 64 tiles. -/
def Blk.units : Blk → Nat
  | .dev => 1
  | .region => 4
  | .tile => 64
  | .laneTile => 64

/-- A register found at an address. -/
structure RegRef where
  reg  : Reg
  unit : Nat
  idx  : Nat
  deriving DecidableEq, Repr

/-- The unit of a register block and the offset in it that a byte address names, with the block (R443). -/
def blockOf (a : Nat) : Option (Blk × Nat × Nat) :=
  if a < 0x7FF0000000 then none
  else if a < 0x7FF4000000 then some (.dev, 0, a - 0x7FF0000000)
  else if a < 0x7FF8000000 then
    let r := (a - 0x7FF4000000) / 0x1000000
    let o := (a - 0x7FF4000000) % 0x1000000
    if o < 0x800000 then some (.region, r, o)
    else some (.tile, 16 * r + (o - 0x800000) / 0x80000, (o - 0x800000) % 0x80000)
  else none

/-- Whether a register covers an offset of its block, and with which index. -/
def Reg.covers (r : Reg) (b : Blk) (u o : Nat) : Option Nat :=
  let p := r.place
  let same := match p.blk, b with
    | .dev, .dev => true
    | .region, .region => true
    | .tile, .tile => true
    | .laneTile, .tile => decide (u % 16 < 12)
    | _, _ => false
  if same && decide (p.offset ≤ o) && decide ((o - p.offset) % p.stride = 0)
      && decide ((o - p.offset) / p.stride < p.count)
  then some ((o - p.offset) / p.stride) else none

/-- The CFG_ registers that exist in region 0 only: all but CFG_ZCMD and CFG_ZONE (Chapter 15). -/
def Reg.region0Only (r : Reg) : Bool :=
  match r with
  | .CFG_STATUS | .CFG_CMD | .CFG_CTRL | .CFG_SRC_ADDR | .CFG_SRC_LEN | .CFG_SRC_LIMIT | .CFG_PROGRESS | .CFG_FAIL
  | .CFG_START_FRAC | .CFG_START_SEC | .CFG_DESIGN_ID | .CFG_USER | .CFG_SLOT | .CFG_RELAY | .CFG_FUSE_STAT
  | .CFG_FUSE_CMD | .CFG_FUSE_DATA => true
  | _ => false

/-- The register at a slot address, if any (R443). -/
def decodeReg (a : Nat) : Option RegRef :=
  match blockOf a with
  | none => none
  | some (b, u, o) =>
    Reg.all.findSome? (fun r =>
      if r.region0Only && u != 0 then none else (r.covers b u o).map (fun i => { reg := r, unit := u, idx := i }))

/-- Whether a value of a field is one its table marks reserved (R6). -/
def Fld.isReserved (f : Fld) (v : Nat) : Bool := f.reserved.any (fun p => decide (p.1 ≤ v) && decide (v ≤ p.2))

/-! ### Free values -/

/-- A fresh value that nothing constrains, and the state that has used it. -/
def State.fresh (s : State) : Word := Config.freeWord s.free

/-- The state after a fresh value was used. -/
def State.used (s : State) : State := { s with free := s.free + 1 }

/-! ### Device time -/

/-- Units in a second: TFRAC counts them (R32). -/
def unitsPerSec : Nat := 1024000000000

/-- The largest device time plus one: TSEC has 40 bits. -/
def timeSpan : Nat := 2 ^ 40 * unitsPerSec

/-- Device time from TSEC and TFRAC. -/
def timeOf (sec frac : Nat) : Nat := sec * unitsPerSec + frac

/-- TFRAC of a device time. -/
def fracOf (t : Nat) : Nat := t % unitsPerSec

/-- TSEC of a device time. -/
def secOf (t : Nat) : Nat := t / unitsPerSec % 2 ^ 40

/-- Device time `dt` units after the last tick (R33). -/
def State.nowAt (s : State) (dt : Nat) : Nat := (s.time.now + dt) % timeSpan

/-- Device time at the instant of the command under way, to one unit (R33): every stamp takes it. -/
def State.instant (s : State) : Nat := (((s.time.now : Int) + s.time.phase) % timeSpan).toNat

/-- The state in which the command under way acts `d` units after the last tick. -/
def State.atPhase (s : State) (d : Int) : State := { s with time := { s.time with phase := d } }

/-- Whether a TFRAC value holds a nanosecond value above 999,999,999 (R36, R60). -/
def fracBad (frac : Nat) : Bool := decide (999999999 < frac / 1024)

/-! ### Error records -/

/-- Scope codes of Table 17.1. -/
inductive Scope where
  | device | region | tile | cluster | cell
  deriving DecidableEq, Repr

/-- The scope code. -/
def Scope.code : Scope → Nat
  | .device => 0 | .region => 1 | .tile => 2 | .cluster => 3 | .cell => 4

/-- Word 0 of an error record (Table 17.1); the coordinate fields below the scope are zero (R405). -/
def recWord0 (code : Nat) (sc : Scope) (region tile cluster cell : Nat) (inj : Bool) : Word :=
  let r := if sc = .device then 0 else region
  let t := match sc with | .tile | .cluster | .cell => tile | _ => 0
  let c := match sc with | .cluster | .cell => cluster | _ => 0
  let e := match sc with | .cell => cell | _ => 0
  BitVec.ofNat 40 (code * 2 ^ 24 + r * 2 ^ 22 + t * 2 ^ 18 + c * 2 ^ 14 + e * 2 ^ 8 + sc.code * 2 ^ 5
    + flag inj * 2 ^ 4)

/-- The state with an error record detected now: the stride number and TFRAC of this instant (R13). It waits for the
command RECORD, which judges it (R407). -/
def State.emit (s : State) (code : Nat) (sc : Scope) (region tile cluster cell : Nat) (inj : Bool := false) : State :=
  { s with detected := s.detected ++
      [{ w0 := recWord0 code sc region tile cluster cell inj
         w1 := BitVec.ofNat 40 s.time.strideNum
         w2 := BitVec.ofNat 40 (fracOf s.instant) }] }

/-- A device-level record. -/
def State.emitDev (s : State) (code : Nat) : State := s.emit code .device 0 0 0 0

/-- A record of region `r`. -/
def State.emitRegion (s : State) (code r : Nat) (inj : Bool := false) : State := s.emit code .region r 0 0 0 inj

/-- A record of flat tile `t`. -/
def State.emitTile (s : State) (code t : Nat) (inj : Bool := false) : State :=
  s.emit code .tile (t / 16) (t % 16) 0 0 inj

/-! ### Byte memory -/

/-- A byte of memory; a byte nothing has written reads 0 (log entry 2). -/
def readByte (m : List Host.Cell) (a : Nat) : Byte := mget 0 m a

/-- The memory with a byte written, in canonical form. -/
def writeByte (m : List Host.Cell) (a : Nat) (b : Byte) : List Host.Cell := mset 0 m a b

/-- The canonical form of the memory. -/
def Memory.wf (m : List Host.Cell) : Bool := mwf 0 m

/-- `n` bytes from `a` as a number, least significant byte first. -/
def readBytes (m : List Host.Cell) (a : Nat) : Nat → Nat
  | 0 => 0
  | n + 1 => (readByte m a).toNat + 256 * readBytes m (a + 1) n

/-- `n` bytes of a number written from `a`, least significant byte first. -/
def writeBytes (m : List Host.Cell) (a : Nat) : Nat → Nat → List Host.Cell
  | 0, _ => m
  | n + 1, v => writeBytes (writeByte m a (BitVec.ofNat 8 v)) (a + 1) n (v / 256)

/-- A word in block form: 5 bytes (R27). -/
def State.readBlk (s : State) (a : Nat) : Word := BitVec.ofNat 40 (readBytes s.mem a 5)

/-- The state with a word in block form written. -/
def State.writeBlk (s : State) (a : Nat) (w : Word) : State := { s with mem := writeBytes s.mem a 5 w.toNat }

/-- The byte address of word `k` of the block structure that starts at `base` (R26, R27). -/
def blkWord (base k : Nat) : Nat := base + k / 12 * 64 + k % 12 * 5

end Sys2Proof.Machine
end

