-- ==== Sys2Proof/Machine/Regs.lean ====
section
/-! DEFINITION. Reads and writes of register slots under the access types of R7, and the values pending in RWQ
fields (R8). -/

namespace Sys2Proof.Machine

/-- The write of one field under its access type (R6, R7). `lock` is the governing LOCK bit before the write. -/
def writeField (u i : Nat) (w : Nat) (lock : Bool) (s : State) (f : Fld) : State :=
  let v := bitsOf w f.hi f.lo
  match f.acc with
  | .RW => if f.isReserved v then s else s.setFld f u i v
  | .RWL => if lock || f.isReserved v then s else s.setFld f u i v
  | .RWQ =>
    if f.isReserved v then s
    else { s with rwq := s.rwq ++ [{ addr := regAddr f.reg u i, hi := f.hi, lo := f.lo, value := v }] }
  | .W1C => s.setFld f u i (s.fld f u i - (s.fld f u i &&& v))
  | .W1S => s.setFld f u i (s.fld f u i ||| v)
  | .RO | .WO | .RC => s

/-- The write of a list of fields. -/
def writeFields (u i w : Nat) (lock : Bool) : List Fld → State → State
  | [], s => s
  | f :: fs, s => writeFields u i w lock fs (writeField u i w lock s f)

/-- A write of a register slot in which every field takes effect under its access type (R7). The RWL fields are
those of SUP_WDOG, governed by its LOCK bit. -/
def State.writeDefault (s : State) (r : Reg) (u i : Nat) (w : Word) : State :=
  writeFields u i w.toNat (s.on F.SUP_WDOG.LOCK u) r.fields s

/-- A slot value with the values pending in its RWQ fields in place (R7). -/
def overlayRwq (addr : Nat) : List RwqEntry → Nat → Nat
  | [], n => n
  | e :: es, n => overlayRwq addr es (if e.addr = addr then putBits n e.hi e.lo e.value else n)

/-- The value with the write-only fields read as zero (R7). -/
def maskWo : List Fld → Nat → Nat
  | [], n => n
  | f :: fs, n => maskWo fs (if f.acc = .WO then putBits n f.hi f.lo 0 else n)

/-- The value a plain read of a register slot returns (R7). -/
def State.peek (s : State) (r : Reg) (u i : Nat) : Word :=
  BitVec.ofNat 40 (maskWo r.fields (overlayRwq (regAddr r u i) s.rwq (s.reg r u i).toNat))

/-- The fields that clear when they are read, cleared (R7). -/
def clearRc (u i : Nat) : List Fld → State → State
  | [], s => s
  | f :: fs, s => clearRc u i fs (if f.acc = .RC then s.setFld f u i 0 else s)

/-- A plain read of a register slot: the data go to the requester, RC fields clear (R7). -/
def State.readDefault (s : State) (r : Reg) (u i : Nat) : State :=
  { clearRc u i r.fields s with lastRead := s.peek r u i }

/-- A value written straight into a slot at an address, by bits: an RWQ value that takes effect. -/
def State.applyRwqEntry (s : State) (e : RwqEntry) : State :=
  match decodeReg e.addr with
  | none => s
  | some p =>
    s.setReg p.reg p.unit p.idx (BitVec.ofNat 40 (putBits (s.reg p.reg p.unit p.idx).toNat e.hi e.lo e.value))

/-- Every pending RWQ value of the slots `keep` names takes effect, in the order written (R8). -/
def State.applyRwq (s : State) : State :=
  { s.rwq.foldl State.applyRwqEntry s with rwq := [] }

end Sys2Proof.Machine
end

