-- ==== Sys2Proof/Machine/Irq.lean ====
section
/-! DEFINITION. The interrupt messages of the host interface (R436, R438) and ALERT_N of the sideband (R442). -/

namespace Sys2Proof.Machine

/-! ### MSI-X -/

/-- A word of the MSI-X table; after reset every vector's address and data are zero and its mask bit is set. -/
def State.msixWord (s : State) (i : Nat) : Nat := mget (if i % 2 = 1 then 2 ^ 32 else 0) s.host.table i

/-- Whether a vector or the function is masked. -/
def State.masked (s : State) (v : Nat) : Bool := s.host.fnMask || bitOf (s.msixWord (2 * v + 1)) 32

/-- A vector is signalled (R436, R438): masked, it is pending; in D3hot or L2 its message waits and WAKE_N goes low. -/
def signal (s : State) (v : Nat) : State :=
  let h := s.host
  if h.inReset then s
  else if s.masked v then { s with host := { h with pba := h.pba ||| 2 ^ v } }
  else if h.d3 || h.l2 then { s with host := { h with held := h.held ||| 2 ^ v, wakeLow := true } }
  else { s with host := { h with msgs := h.msgs ++ [v] } }

/-- Records in the device error ring (R408). -/
def devOcc (s : State) : Nat := (s.fld F.ERR_DEV_HEAD.COUNT + 512 - s.fld F.ERR_DEV_TAIL.COUNT) % 512

/-- The condition of a level vector (Table 18.5). -/
def levelOn (s : State) (v : Nat) : Bool :=
  match v with
  | 0 => decide (0 < devOcc s)
  | 1 => decide (bitsOf (s.reg .HST_ERR).toNat 39 34 ≠ 0)
  | 16 => !s.time.tsFifo.isEmpty
  | 17 => s.on F.TIM_STATUS.PPS_IN_NEW
  | _ => false

/-- A level vector is signalled when its condition has become true between two states. -/
def levelIrq (old s : State) (v : Nat) : State := if !levelOn old v && levelOn s v then signal s v else s

/-! ### ALERT_N -/

/-- A status bit of the sideband has become set: ALERT_N is driven low (R442). -/
def alert (s : State) : State := { s with module := { s.module with alert := true } }

/-- MFR_SPECIFIC of STATUS_WORD: the device error ring holds a record, or PWR_REG_FAULT is latched (Table 18.6). -/
def mfrBit (s : State) : Bool := s.module.mfr || decide (0 < devOcc s)

/-- PWR_REG_FAULT is latched. -/
def latchRegFault (s : State) : State :=
  let s1 := { s with module := { s.module with mfr := true } }
  if mfrBit s then s1 else alert s1

end Sys2Proof.Machine
end

