-- ==== Sys2Proof/Machine/Wake.lean ====
section
/-! DEFINITION. The power state machine of a region as the other units see it: the wake sources and the beginning of a
wake or of an unwinding (R396, R397, R399). -/

namespace Sys2Proof.Machine

/-- The power state machine of a region. -/
def State.pw (s : State) (r : Nat) : PwrSt := mget {} s.pwr r

/-- The state with the power state machine of a region set. -/
def State.setPw (s : State) (r : Nat) (v : PwrSt) : State := { s with pwr := mset {} s.pwr r v }

/-- PWR_STAT.STATE: 0 RUN, 1 IDLE, 2 DOZE, 3 SLEEP. -/
def State.pstateR (s : State) (r : Nat) : Nat := s.fld F.PWR_STAT.STATE r

/-- PWR_STAT.DIR: 0 none, 1 entering, 2 exiting, 3 unwinding. -/
def State.pdir (s : State) (r : Nat) : Nat := s.fld F.PWR_STAT.DIR r

/-- Whether a region executes strides: its power state is RUN and its fabric has not stopped for an entry (R15, R393). -/
def State.regionRuns (s : State) (r : Nat) : Bool := s.pstateR r == 0 && !(s.pw r).fabOff

/-- The rails a SLEEP entry or exit of a region changes: VCORE and the lane groups with an enabled lane, as link
address − 0x10 (Table 16.5). -/
def sleepRails (s : State) (r : Nat) : List Nat :=
  r :: ((List.range 3).filter (fun g =>
    (List.range 4).any (fun k => s.fld F.LN_CTRL.EN (16 * r + 4 * g + k) == 1))).map (fun g => 8 + 3 * r + g)

/-- PWR_STAT.DIR, STEP and BUSY of a region. -/
def setPhase (s : State) (r dir step : Nat) : State :=
  ((s.setFld F.PWR_STAT.DIR r 0 dir).setFld F.PWR_STAT.STEP r 0 step).setFld F.PWR_STAT.BUSY r 0 (flag (decide (dir ≠ 0)))

/-- A region in a low-power state begins its exit (R397): step X1 from SLEEP, X2 otherwise. -/
def beginExit (s : State) (r src : Nat) : State :=
  let sleep := s.pstateR r = 3
  let s1 := (setPhase s r 2 (if sleep then 9 else 10)).setFld F.PWR_WAKE_PEND.LAST r 0 src
  s1.setPw r { s1.pw r with began := s.instant, rails := if sleep then sleepRails s r else [], good := [], retried := [] }

/-- An entry ends other than OK and unwinds its steps (R394, R399). -/
def beginUnwind (s : State) (r result : Nat) : State :=
  let s1 := (setPhase s r 3 (s.fld F.PWR_STAT.STEP r)).setFld F.PWR_STAT.DELAY_LAST r 0 (s.fld F.PWR_STAT.DELAY r)
  (s1.setFld F.PWR_STAT.DELAY r 0 0).setPw r { s1.pw r with result := result }

/-- A wake of a region by source `src` of Table 16.6, 15 for a RUN request (R396, Table 16.8): a region in a low-power
state begins its exit, an entry unwinds. -/
def wakeRegion (s : State) (r src result : Nat) : State :=
  match s.pdir r with
  | 0 => if s.pstateR r = 0 then s else beginExit s r src
  | 1 => beginUnwind (s.setFld F.PWR_WAKE_PEND.LAST r 0 src) r result
  | _ => s

/-- Whether a wake source of a region is enabled; GUN always is. -/
def wakeEnabled (s : State) (r src : Nat) : Bool := src == 0 || bitOf (s.fld F.PWR_WAKE_EN.EN r * 2) src

/-- An event of wake source `src` of region `r` (R396): its bit sets, and an enabled source wakes the region. -/
def wakeEvent (s : State) (r src : Nat) : State :=
  let s1 := s.orFld F.PWR_WAKE_PEND.PEND r 0 src
  if wakeEnabled s r src then wakeRegion s1 r src 4 else s1

/-- WAKE_EVENT (R396). -/
def execWakeEvent (region : Region) (source : Fin 8) (s : State) : Host.Outcome State Fault Refusal :=
  .next (wakeEvent s region source)

/-- Every region that is not in RUN is woken as by a RUN request; entries complete with `result` (Table 16.8). -/
def wakeAll (s : State) (result : Nat) : State :=
  (List.range 4).foldl (fun s r => wakeRegion s r 15 result) s

/-- Whether every region is in RUN and none enters or leaves a state. -/
def allRun (s : State) : Bool := (List.range 4).all (fun r => s.pstateR r == 0 && s.pdir r == 0)

/-- The device mode follows the power states of the regions (R20). -/
def powerMode (s : State) : State :=
  let m := Nat.min (Nat.min (s.pstateR 0) (s.pstateR 1)) (Nat.min (s.pstateR 2) (s.pstateR 3))
  match s.mode with
  | .run | .idle | .doze | .sleep =>
    { s with mode := match m with | 0 => .run | 1 => .idle | 2 => .doze | _ => .sleep }
  | _ => s

end Sys2Proof.Machine
end

