-- ==== Sys2Proof/Machine/Time.lean ====
section
/-! DEFINITION. Device time, its references, the time link and the timestamps (Chapter 2). -/

namespace Sys2Proof.Machine

/-- Scheduled steps S of the loaded configuration (R50); 0 when there is none. -/
def State.stepsS (s : State) : Nat := s.fld F.TIM_STRIDE_CFG.S

/-- The stride length T in units (R50). -/
def State.strideT (s : State) : Nat := (s.stepsS + 8) * s.fld F.TIM_STRIDE_CFG.P

/-- The stride offset K (R51). -/
def State.strideK (s : State) : Int := signed 40 (s.reg .TIM_STRIDE_OFS).toNat

/-- The epoch in the epoch registers. -/
def State.epochReg (s : State) : Nat := timeOf (s.reg .TIM_EPOCH_SEC).toNat (s.reg .TIM_EPOCH_FRAC).toNat

/-- The ideal boundary time B(N) for an epoch and offset (R51). -/
def boundaryAt (epoch : Nat) (k : Int) (t : Nat) (n : Nat) : Int := epoch + ((n : Int) - k) * t

/-- The first stride of a start commanded at `cmd` (R53): the smallest N with B(N) at least 2 µs after the command
and N greater than the last stride executed; K is 0. -/
def firstStride (epoch t cmd : Nat) (last : Option Nat) : Nat :=
  let need : Int := (cmd : Int) + 2000 * 1024 - epoch
  let byTime : Nat := if t = 0 ∨ need ≤ 0 then 0 else (need.toNat + t - 1) / t
  match last with
  | none => byTime
  | some n => Nat.max byTime (n + 1)

/-- A start command given at device time `cmd`: the epoch is read, K becomes 0 and the first stride is chosen
(R52, R53). -/
def State.startCommand (s : State) (cmd : Nat) : State :=
  let first := firstStride s.epochReg s.strideT cmd s.time.lastExec
  { s.setReg .TIM_STRIDE_OFS 0 0 0 with
      time := { s.time with epoch := s.epochReg, start := some { command := cmd, first := first } } }

/-- The tick of the time base (R33): 1,024 units and 1,024 · TIM_RATE · 2⁻⁴⁰ units, with no fraction lost. -/
def tickTotal (now sub : Nat) (rate : Int) : Int :=
  (now : Int) * 2 ^ 40 + sub + 1024 * 2 ^ 40 + 1024 * rate

/-- TIM_NOW_FRAC read `dt` units after the last tick (R33, R35). -/
def execTimNowFracRead (dt : Nat) (s : State) : Host.Outcome State Fault Refusal :=
  let t := s.nowAt dt
  let f := BitVec.ofNat 40 (fracOf t)
  .next { (s.setReg .TIM_NOW_FRAC 0 0 f).setReg .TIM_NOW_SEC 0 0 (BitVec.ofNat 40 (secOf t)) with lastRead := f }

/-- TIM_PPS_IN_FRAC read (R35). -/
def execTimPpsInFracRead (s : State) : Host.Outcome State Fault Refusal :=
  .next { s.setReg .TIM_PPS_IN_SEC 0 0 (BitVec.ofNat 40 s.time.ppsInSec) with lastRead := s.reg .TIM_PPS_IN_FRAC }

/-- TIM_STRIDE_LO read: the stride number of R51 or R54 (R35). -/
def execTimStrideLoRead (s : State) : Host.Outcome State Fault Refusal :=
  let lo := BitVec.ofNat 40 s.time.strideNum
  .next { (s.setReg .TIM_STRIDE_LO 0 0 lo).setReg .TIM_STRIDE_HI 0 0 (BitVec.ofNat 40 (s.time.strideNum / 2 ^ 40))
          with lastRead := lo }

/-- The TIM_TS_INFO word of a removed entry (Table 2.12). -/
def tsInfoWord (e : TsEntry) : Word :=
  BitVec.ofNat 40 (2 ^ 39 + e.port * 2 ^ 38 + flag e.transmit * 2 ^ 37 + e.msg % 16 * 2 ^ 33 + e.seq % 2 ^ 16 * 2 ^ 17)

/-- TIM_TS_INFO read: the oldest entry is removed and its time latched; VALID reads 1 when there was one and clears
with the read (R35, R42). -/
def execTimTsInfoRead (s : State) : Host.Outcome State Fault Refusal :=
  match s.time.tsFifo with
  | [] => .next { s with lastRead := s.peek .TIM_TS_INFO 0 0 }
  | e :: es =>
    let w := tsInfoWord e
    let s1 := s.setReg .TIM_TS_INFO 0 0 (w &&& 0x7FFFFFFFFF#40)
    let s2 := s1.setReg .TIM_TS_FRAC 0 0 (BitVec.ofNat 40 (fracOf e.stamp))
    let s3 := s2.setReg .TIM_TS_SEC 0 0 (BitVec.ofNat 40 (secOf e.stamp))
    .next { s3 with time := { s3.time with tsFifo := es }, lastRead := w }

/-- The clamp of TIM_RATE (R34). -/
def rateClamp : Int := 109951163

/-- The two parts of the steering together: the rate of the time base fed forward and the phase correction (R55). -/
def steerSum (s : State) : Int := signed 40 (s.reg .TIM_RATE).toNat + s.time.steer

/-- The step clock's rate against the source, in 2⁻⁴⁰: the sum clamped at 100 ppm (R55). -/
def State.stepRate (s : State) : Int := clampInt (-rateClamp) rateClamp (steerSum s)

/-- STEER_CLAMP follows the clamp while strides run (R55). -/
def steerClamp (s : State) : State :=
  if s.time.running then
    s.setFld F.TIM_STATUS.STEER_CLAMP 0 0 (flag (decide (steerSum s < -rateClamp ∨ rateClamp < steerSum s)))
  else s

/-- TIM_RATE written (R34); device time follows it from the next tick (R33), and the step clock is fed forward (R55). -/
def writeTimRate (s : State) (value : Word) : State :=
  steerClamp (s.setReg .TIM_RATE 0 0
    (BitVec.ofNat 40 (unsigned 40 (clampInt (-rateClamp) rateClamp (signed 40 value.toNat)))))

/-- A write of TIM_RATE (R34). -/
def execTimRateWrite (value : Word) (s : State) : Host.Outcome State Fault Refusal := .next (writeTimRate s value)

/-- TIM_ADJ_SEC written: a step of device time is armed for the next tick (R36). -/
def writeTimAdjSec (s : State) (value : Word) : State :=
  { s.setReg .TIM_ADJ_SEC 0 0 value with time := { s.time with stepArmed := true } }

/-- A write of TIM_ADJ_SEC (R36). -/
def execTimAdjSecWrite (value : Word) (s : State) : Host.Outcome State Fault Refusal := .next (writeTimAdjSec s value)

/-- TIM_STRIDE_CFG written (R50): P changes only in BLANK, LOADING or FROZEN. -/
def writeStrideCfg (s : State) (value : Word) : State :=
  let s1 := writeField 0 0 value.toNat false s F.TIM_STRIDE_CFG.SLEW
  let p := bitsOf value.toNat F.TIM_STRIDE_CFG.P.hi F.TIM_STRIDE_CFG.P.lo
  if s.mode = .blank ∨ s.mode = .loading ∨ s.mode = .frozen then
    writeField 0 0 value.toNat false s1 F.TIM_STRIDE_CFG.P
  else if p = s.fld F.TIM_STRIDE_CFG.P then s1
  else s1.setFld F.TIM_STATUS.P_REFUSED 0 0 1

/-- A write of TIM_STRIDE_CFG (R50). -/
def execTimStrideCfgWrite (value : Word) (s : State) : Host.Outcome State Fault Refusal :=
  .next (writeStrideCfg s value)

/-- PPS_OUT rises in the tick in which TFRAC returned to 0 by counting, when it is enabled and WIDTH is not 0 (R37). Its fall
stands as a device time, which a time step moves with it: DESIGN CHOICE (log entry 77). -/
def execPpsOut (s : State) : Host.Outcome State Fault Refusal :=
  if s.time.ppsDue then
    let w := s.fld F.TIM_PPS_CFG.WIDTH
    let t := { s.time with ppsDue := false }
    if s.on F.TIM_CTRL.PPS_OUT_EN ∧ w ≠ 0 then
      .next { s with time := { t with ppsOut := true, ppsUntil := some (s.time.now + w * 1024) } }
    else .next { s with time := t }
  else .next s

/-- PPS_OUT falls once WIDTH nanoseconds have passed (R37). -/
def execPpsOutFall (s : State) : Host.Outcome State Fault Refusal :=
  match s.time.ppsUntil with
  | none => .next s
  | some t =>
    if t ≤ s.time.now then .next { s with time := { s.time with ppsOut := false, ppsUntil := none } } else .next s

/-- An edge at PPS_IN `dt` units after the last tick (R38). -/
def execPpsInEdge (rising : Bool) (dt : Nat) (s : State) : Host.Outcome State Fault Refusal :=
  if rising = s.on F.TIM_PPS_CFG.PPS_IN_EDGE then .next s
  else
    let t := s.nowAt dt
    let s1 := (s.setReg .TIM_PPS_IN_FRAC 0 0 (BitVec.ofNat 40 (fracOf t))).setFld F.TIM_STATUS.PPS_IN_NEW 0 0 1
    .next (levelIrq s (wakeEvent { s1 with time := { s1.time with ppsInSec := secOf t } } 0 4) 17)

/-- REF_IN is absent or off frequency for 10 µs: REF_VALID clears, and while the synthesis runs from REF_IN it
switches to the oscillator and the loss is logged; an armed switch stays armed only when there was no loss (R39, R40). -/
def refLost (s : State) : State :=
  let s1 := s.setFld F.TIM_STATUS.REF_VALID 0 0 0
  if s.on F.TIM_STATUS.REF_ACTIVE then
    ({ s1 with time := { s1.time with refArmed := false } }.setFld F.TIM_STATUS.REF_ACTIVE 0 0 0).emit 0x5103 .device 0 0 0 0
      (decide (s.time.now < s.refAbsent))
  else s1

/-- The loss of REF_IN (R39). -/
def execRefLost (s : State) : Host.Outcome State Fault Refusal := .next (refLost s)

/-- REF_IN becomes qualified: an armed switch to it is made (R39, R40). While an injection takes it as absent (R411) it
does not. -/
def execRefQualified (s : State) : Host.Outcome State Fault Refusal :=
  if s.time.now < s.refAbsent then .next s else
  let s1 := s.setFld F.TIM_STATUS.REF_VALID 0 0 1
  if s.time.refArmed then
    .next ({ s1 with time := { s1.time with refArmed := false } }.setFld F.TIM_STATUS.REF_ACTIVE 0 0 1)
  else .next s1

/-- A write of REF_SEL (R40): 0b01 switches to a qualified REF_IN at once or arms the switch; 0b00 switches to the
oscillator and cancels an armed switch; the other encodings are reserved (R6). -/
def writeRefSel (s : State) (sel : Nat) : State :=
  if sel = 1 then
    let s1 := s.setFld F.TIM_CTRL.REF_SEL 0 0 1
    if s.on F.TIM_STATUS.REF_ACTIVE then s1
    else if s.on F.TIM_STATUS.REF_VALID then
      { s1 with time := { s1.time with refArmed := false } }.setFld F.TIM_STATUS.REF_ACTIVE 0 0 1
    else { s1 with time := { s1.time with refArmed := true } }
  else if sel = 0 then
    let s1 := s.setFld F.TIM_CTRL.REF_SEL 0 0 0
    { s1 with time := { s1.time with refArmed := false } }.setFld F.TIM_STATUS.REF_ACTIVE 0 0 0
  else s

/-- A write of REF_SEL (R40). -/
def execRefSelWrite (sel : BitVec 2) (s : State) : Host.Outcome State Fault Refusal := .next (writeRefSel s sel.toNat)

/-- Whether port `p` takes timestamps. -/
def tsEnabled (s : State) (p : Nat) : Bool := if p = 0 then s.on F.TIM_CTRL.TS_EN0 else s.on F.TIM_CTRL.TS_EN1

/-- Whether port `p` rewrites one-step messages. -/
def oneStep (s : State) (p : Nat) : Bool := if p = 0 then s.on F.TIM_CTRL.ONE_STEP0 else s.on F.TIM_CTRL.ONE_STEP1

/-- A PTP event message crosses a management port (R41-R43): Sync 0, Delay_Req 1, Pdelay_Req 2, Pdelay_Resp 3. The
operand `stamp` is the device time at which its timestamp point crosses the land. The receipt of a Pdelay_Req is kept
for the requestReceiptTimestamp of its response (R43). -/
def execPtpEventMessage (port : Fin 2) (transmit : Bool) (msg : BitVec 4) (seq : BitVec 16) (ipv6 : Bool)
    (stamp : Nat) (s : State) : Host.Outcome State Fault Refusal :=
  let e : TsEntry := { port := port, transmit := transmit, msg := msg.toNat, seq := seq.toNat, stamp := stamp % timeSpan }
  if 4 ≤ msg.toNat then .next s
  else
    let s0 := if transmit then s else wakeEvent s (2 * port) 3
    let s1 :=
      if transmit && oneStep s port && !ipv6 && (msg == 0 || msg == 3)
      then { s0 with time := { s0.time with lastPtp := some e } }
      else if !transmit && msg == 2
      then { s0 with time := { s0.time with pdReqs := minsert s0.time.pdReqs port (seq.toNat, stamp % timeSpan) } }
      else s0
    if tsEnabled s port then
      if s.time.tsFifo.length < 64 then
        .next (levelIrq s { s1 with time := { s1.time with tsFifo := s1.time.tsFifo ++ [e] } } 16)
      else .next (s1.addSat F.TIM_STATUS.TS_DROPS 0 0)
    else .next s1

/-- The master launches a time frame at a microsecond of its device time (R45). -/
def execTimeFrameLaunch (s : State) : Host.Outcome State Fault Refusal :=
  if s.fld F.TIM_TL_CFG.ROLE = 1 then
    let t := s.time.now - s.time.now % (1000 * 1024)
    let fr : TlFrame := ⟨BitVec.ofNat 40 (secOf t), BitVec.ofNat 40 (fracOf t), 0, s.time.tlRing⟩
    .next { s with time := { s.time with tlOut := some fr } }
  else .next s

/-- The delay of one hop of the ring (R45): HOPDLY when it is not zero, and otherwise the ring delay less the
forwarding latencies of the members, divided by RING_N. -/
def hopDelay (s : State) (ring : Nat) : Nat :=
  let h := s.fld F.TIM_TL_CFG.HOPDLY
  let n := s.fld F.TIM_TL_CFG.RING_N
  if h ≠ 0 then h else (ring - (n - 1) * Config.tlForward) / n

/-- The path delay from the master into this module's TL_IN after `hop` forwardings (R45, log entry 12). -/
def pathDelay (s : State) (ring hop : Nat) : Nat :=
  let n := s.fld F.TIM_TL_CFG.RING_N
  hopDelay s ring + hop * ((ring - (n - 1) * Config.tlForward) / n + Config.tlForward)

/-- A member has received no valid frame for 8 µs (R47). -/
def execTlLost (s : State) : Host.Outcome State Fault Refusal :=
  if s.fld F.TIM_TL_CFG.ROLE = 2 ∧ s.on F.TIM_STATUS.TL_LOCK then
    .next (wakeEvent ((s.setFld F.TIM_STATUS.TL_LOCK 0 0 0).emit 0x5104 .device 0 0 0 0
      (decide (s.time.now < s.time.tlIgnore))) 0 5)
  else .next s

/-- The held stride number advances to the largest ideal boundary device time has reached (R54). -/
def execHeldStrideAdvance (s : State) : Host.Outcome State Fault Refusal :=
  if s.time.running ∨ s.stepsS = 0 then .next s
  else
    let n : Int := ((s.time.now : Int) - s.epochReg) / s.strideT + s.strideK
    if (s.time.now : Int) < boundaryAt s.epochReg s.strideK s.strideT 0 then .next s
    else if (s.time.strideNum : Int) < n then .next { s with time := { s.time with strideNum := n.toNat % 2 ^ 80 } }
    else .next s

/-- Whether the reported error lies within TOL_PS (R56). -/
def withinTol (s : State) : Bool := decide ((signed 24 (s.fld F.TIM_ALIGN.ERR_PS)).natAbs ≤ s.fld F.TIM_ALIGN.TOL_PS)

/-- An alignment error of `ps` picoseconds is reported; one that leaves the tolerance is a loss, logged once (R56). -/
def alignError (s : State) (ps : Int) : State :=
  let s1 := s.setFld F.TIM_ALIGN.ERR_PS 0 0 (unsigned 24 (clampInt (-8388607) 8388607 ps))
  let s2 := s1.setFld F.TIM_STATUS.ALIGNED 0 0 (flag (withinTol s1))
  if s.on F.TIM_STATUS.ALIGNED && !withinTol s1 then (s2.setFld F.TIM_STATUS.ALIGN_LOST 0 0 1).emitDev 0x5102 else s2

/-- TIM_ALIGN written: ALIGNED follows the new tolerance (R56). -/
def writeTimAlign (s : State) (value : Word) : State :=
  let s1 := s.writeDefault .TIM_ALIGN 0 0 value
  if s.time.running then s1.setFld F.TIM_STATUS.ALIGNED 0 0 (flag (withinTol s1)) else s1

/-- Units of device time as picoseconds. -/
def picos (u : Int) : Int := u * 1000 / 1024

/-- The phase correction for an error, limited to SLEW ppm; the step clock runs faster when the boundary was late
(R55). -/
def steerCorr (s : State) (ps : Int) : Int :=
  let lim : Int := s.fld F.TIM_STRIDE_CFG.SLEW * 2 ^ 40 / 1000000
  clampInt (-lim) lim (Config.steerGain * ps)

/-- What the device does at the boundary that opens stride `n`, at device time `at_` (R55): the alignment error is the
actual boundary time less B(n), it is reported, and it steers the step clock. -/
def steer (s : State) (n at_ : Nat) : State :=
  let ps := picos ((at_ : Int) - boundaryAt s.time.epoch s.strideK s.strideT n)
  let s1 := alignError s ps
  steerClamp { s1 with time := { s1.time with steer := steerCorr s ps } }

/-- The nearest integer to d / t, a tie going toward zero (R57). -/
def nearestStrides (d : Int) (t : Nat) : Int :=
  if t = 0 then 0
  else
    let a := d.natAbs
    let q : Nat := (2 * a + t - 1) / (2 * t)
    if d < 0 then -(q : Int) else q

end Sys2Proof.Machine
end

