-- ==== Sys2Proof/Machine/Fabric.lean ====
section
/-! DEFINITION. Cells, crossbars, switch boxes, clock domains and regional clock trees (Chapters 3 and 4). -/

namespace Sys2Proof.Machine

/-! ### Where things lie (R98, R4) -/

/-- Flat tile of a cluster, cluster of a cell, region of a tile. -/
def tileOfCluster (cl : Nat) : Nat := cl / 16
/-- The cluster of a cell. -/
def clusterOfCell (ci : Nat) : Nat := ci / 64
/-- The flat tile of a cell. -/
def tileOfCell (ci : Nat) : Nat := ci / 1024
/-- The region of a flat tile. -/
def regionOfTile (t : Nat) : Nat := t / 16

/-- The zone of region `t / 16` that holds flat tile `t`, if any (R378). -/
def State.zoneOf (s : State) (t : Nat) : Option Nat :=
  (List.range 16).find? (fun z =>
    match (mget {} s.zones (16 * (t / 16) + z)).rect with
    | none => false
    | some r => decide (r.x0 ≤ t % 4) && decide (t % 4 ≤ r.x1) && decide (r.y0 ≤ t % 16 / 4) && decide (t % 16 / 4 ≤ r.y1))

/-- The tiles of a zone, as flat tiles. -/
def State.zoneTiles (s : State) (zi : Nat) : List Nat :=
  ((List.range 16).map (· + 16 * (zi / 16))).filter (fun t => s.zoneOf t = some (zi % 16))

/-- Whether flat tile `t` executes: its region runs and its zone, if any, is in RUN (Table 15.5). -/
def State.tileRuns (s : State) (t : Nat) : Bool :=
  s.regionRuns (t / 16) &&
  match s.zoneOf t with
  | none => true
  | some z => s.fld F.CFG_ZONE.STATE (t / 16) z == 1

/-- Whether the tile's zone is isolated or loading. -/
def State.tileIsolated (s : State) (t : Nat) : Bool :=
  match s.zoneOf t with
  | none => false
  | some z => decide (2 ≤ s.fld F.CFG_ZONE.STATE (t / 16) z)

/-! ### Cell events (R95) -/

/-- A cell event of class `kind` (1 DED, 2 IPAR, 3 WR_CLASH, 4 RSV_ENC, 5 SBE_RATE) of cell `ci`: the details are
captured while CELL_STATUS[3:0] is zero, and the first occurrence while the class bit is clear issues a record. -/
def cellEvent (s : State) (ci kind addr : Nat) (maint : Bool) (step : Nat) (shadow inj : Bool) : State :=
  let t := tileOfCell ci
  let cl := ci / 64 % 16
  let st := (s.reg .CELL_STATUS t 0).toNat
  let s1 :=
    if kind ≤ 4 ∧ st % 16 = 0 then
      (s.setReg .CELL_FIRST t 0 (BitVec.ofNat 40 (kind * 2 ^ 37 + cl * 2 ^ 33 + ci % 64 * 2 ^ 27 + addr * 2 ^ 16
        + flag maint * 2 ^ 15 + (if maint then 0 else step) * 2 ^ 4 + flag shadow * 2 ^ 3))).setReg
        .CELL_FIRST_STRIDE t 0 (BitVec.ofNat 40 s.time.strideNum)
    else s
  if bitOf st (kind - 1) then s1
  else
    (s1.setReg .CELL_STATUS t 0 (BitVec.ofNat 40 (st + 2 ^ (kind - 1)))).emit (0x1000 + kind) .cell (t / 16) (t % 16) cl
      (ci % 64) inj

/-! ### Data memory -/

/-- The index of entry `e` of data-memory word `w` of cell `ci`. -/
def entryIx (ci w e : Nat) : Nat := 2 * (1024 * ci + w) + e

/-- The committed entry of a word. -/
def State.committed (s : State) (ci w : Nat) : Nat := flag (mget false s.fab.role (1024 * ci + w))

/-- What a SECDED read of a word with inverted codeword bits `mask` returns, and how it judges the entry: 0 clean,
1 corrected, 2 double-bit error (R91, R92). -/
def eccRead (mask : Nat) (w : Word) : Word × Nat :=
  match popBits 47 mask with
  | 0 => (w, 0)
  | 1 => (w, 1)
  | 2 => (w ^^^ BitVec.ofNat 40 mask, 2)
  | _ => (Config.eccWord mask w, Config.eccKind mask w % 3)

/-- A corrected read is counted; the count that reaches SBE_THR reports SBE_RATE (R91, R95). -/
def countSbe (s : State) (ci : Nat) : State :=
  let t := tileOfCell ci
  let s1 := s.addSat F.CELL_SBE_CNT.COUNT t 0
  let thr := s.fld F.CELL_CTRL.SBE_THR t
  if thr ≠ 0 ∧ s1.fld F.CELL_SBE_CNT.COUNT t = thr ∧ s.fld F.CELL_SBE_CNT.COUNT t ≠ thr
  then cellEvent s1 ci 5 0 false 0 false true else s1

/-- A read of an entry by cell `ci`: the word as the reader receives it, and the state with the error counted,
reported and its correction write-back waiting (R91, R92). -/
def readEntry (s : State) (ci w e : Nat) (maint : Bool) (step : Nat) : Word × State :=
  let k := entryIx ci w e
  let r := eccRead (mget 0 s.fab.dmemErr k) (mget 0 s.fab.dmem k)
  match r.2 with
  | 0 => (r.1, s)
  | 1 => (r.1, countSbe { s with fab := { s.fab with fixes := minsert s.fab.fixes k r.1 } } ci)
  | _ => (r.1, cellEvent s ci 1 w maint step (e ≠ s.committed ci w) true)

/-- A write of an entry with fresh check bits; it cancels a correction write-back that waits (R91). -/
def writeEntry (s : State) (ci w e : Nat) (v : Word) : State :=
  let k := entryIx ci w e
  { s with fab := { s.fab with
    dmem := mset 0 s.fab.dmem k v
    dmemErr := merase s.fab.dmemErr k
    fixes := merase s.fab.fixes k } }

/-- A fabric write of a word: to the shadow entry of a state word, which becomes dirty, or to the entry in use (R83). -/
def writeWord (s : State) (ci w : Nat) (v : Word) : State :=
  let k := 1024 * ci + w
  if mget false s.fab.smap k then
    let s1 := writeEntry s ci w (1 - s.committed ci w) v
    { s1 with fab := { s1.fab with dirty := mset false s1.fab.dirty k true } }
  else writeEntry s ci w (s.committed ci w) v

/-! ### Cell operations (R73-R78) -/

/-- The number whose bit i, below `n`, is `f i`. -/
def ofBits (f : Nat → Bool) : Nat → Nat
  | 0 => 0
  | n + 1 => ofBits f n + flag (f n) * 2 ^ n

/-- A word from its bits. -/
def wordOf (f : Nat → Bool) : Word := BitVec.ofNat 40 (ofBits f 40)

/-- A word with bit `q` replaced. -/
def setBit (a : Word) (q : Nat) (v : Bool) : Word := wordOf (fun i => if i = q then v else a.getLsbD i)

/-- SLICE3 (R73). -/
def slice3 (tt : Nat) (a b c : Word) : Word :=
  wordOf (fun i => bitOf tt (flag (a.getLsbD i) + 2 * flag (b.getLsbD i) + 4 * flag (c.getLsbD i)))

/-- LUT4 (R74); `f` is the function field, instruction bits [45:0]. -/
def lut4 (f : Nat) (a b : Word) : Word :=
  let ix := flag (a.getLsbD (bitsOf f 21 16)) + 2 * flag (a.getLsbD (bitsOf f 27 22))
    + 4 * flag (b.getLsbD (bitsOf f 33 28)) + 8 * flag (b.getLsbD (bitsOf f 39 34))
  setBit a (bitsOf f 45 40) (bitOf (bitsOf f 15 0) ix)

/-- The segment width of CHAIN (Table 3.6). -/
def chainWidth (seg : Nat) : Nat :=
  match seg with
  | 0 => 40 | 1 => 20 | 2 => 10 | 3 => 8 | _ => 5

/-- One bit of CHAIN: the running carry, and the sum, carry-out and overflow bits collected so far. -/
structure ChainAcc where
  carry : Bool
  sum   : Nat
  cout  : Nat
  ovf   : Nat

/-- One bit position of CHAIN (R75). -/
def chainBit (f w : Nat) (a b c : Word) (acc : ChainAcc) (i : Nat) : ChainAcc :=
  let c0 := if i % w = 0 then
      (match bitsOf f 9 8 with | 0 => false | 1 => true | _ => c.getLsbD i)
    else acc.carry
  let j := flag (a.getLsbD i) + 2 * flag (b.getLsbD i)
  let p := bitOf (bitsOf f 3 0) j
  let g := bitOf (bitsOf f 7 4) j
  let c1 := if p then c0 else g
  let top := i % w = w - 1
  { carry := c1
    sum := acc.sum + flag (p != c0) * 2 ^ i
    cout := acc.cout + (if top then flag c1 * 2 ^ (i + 1 - w) else 0)
    ovf := acc.ovf + (if top then flag (c1 != c0) * 2 ^ (i + 1 - w) else 0) }

/-- CHAIN (R75). -/
def chain (f : Nat) (a b c : Word) : Word :=
  let w := chainWidth (bitsOf f 14 12)
  let r := (List.range 40).foldl (chainBit f w a b c) { carry := false, sum := 0, cout := 0, ovf := 0 }
  BitVec.ofNat 40 (match bitsOf f 11 10 with | 0 => r.sum | 1 => r.cout | _ => r.ovf)

/-- The word ROT moves before the merge (R76). -/
def rotMove (f : Nat) (a : Word) : Word :=
  let k := bitsOf f 5 0
  match bitsOf f 7 6 with
  | 0 => wordOf (fun i => a.getLsbD ((i + 40 - k % 40) % 40))
  | 1 => wordOf (fun i => decide (k ≤ i) && a.getLsbD (i - k))
  | 2 => wordOf (fun i => decide (i + k ≤ 39) && a.getLsbD (i + k))
  | _ => wordOf (fun i => if i + k ≤ 39 then a.getLsbD (i + k) else a.getLsbD 39)

/-- ROT (R76). -/
def rot (f : Nat) (a b c : Word) : Word :=
  if bitsOf f 8 8 = 1 then rotMove f a else (rotMove f a &&& c) ||| (b &&& ~~~c)

/-- REDUCE (R77). -/
def reduce (f : Nat) (a b c : Word) : Word :=
  let v := match bitsOf f 1 0 with
    | 0 => (a &&& c) == c
    | 1 => (a &&& c) != 0
    | _ => popBits 40 (a &&& c).toNat % 2 == 1
  setBit b (bitsOf f 8 3) (v != (bitsOf f 2 2 == 1))

/-- Whether an instruction has a reserved operation or field value (R72). -/
def cellReserved (n : Nat) : Bool :=
  match bitsOf n 79 77 with
  | 0 => false
  | 1 => false
  | 2 => decide (40 ≤ bitsOf n 45 40) || decide (40 ≤ bitsOf n 39 34) || decide (40 ≤ bitsOf n 33 28)
      || decide (40 ≤ bitsOf n 27 22) || decide (40 ≤ bitsOf n 21 16)
  | 3 => decide (5 ≤ bitsOf n 14 12) || bitsOf n 11 10 == 3 || bitsOf n 9 8 == 3
  | 4 => false
  | 5 => decide (40 ≤ bitsOf n 8 3) || bitsOf n 1 0 == 3
  | _ => true

/-- Which of the ports B and C an instruction reads (Table 3.3); port A is read by every operation but NOP. -/
def cellReadsB (n : Nat) : Bool := !(bitsOf n 79 77 == 4 && bitsOf n 8 8 == 1)
/-- Whether the instruction reads port C (Table 3.3, R82). -/
def cellReadsC (n : Nat) : Bool :=
  match bitsOf n 79 77 with
  | 1 => true
  | 3 => bitsOf n 9 8 == 2
  | 4 => bitsOf n 8 8 == 0
  | 5 => true
  | _ => false

/-- The result of an instruction that is neither a NOP nor reserved. -/
def cellResult (n : Nat) (a b c : Word) : Word :=
  match bitsOf n 79 77 with
  | 1 => slice3 (bitsOf n 7 0) a b c
  | 2 => lut4 (bitsOf n 45 0) a b
  | 3 => chain (bitsOf n 35 0) a b c
  | 4 => rot (bitsOf n 35 0) a b c
  | _ => reduce (bitsOf n 35 0) a b c

/-- The operand reads of an instruction (R79): each returns the committed entry of its word. -/
def cellOperands (s : State) (ci n step : Nat) : (Word × Word × Word) × State :=
  let ra := readEntry s ci (bitsOf n 65 56) (s.committed ci (bitsOf n 65 56)) false step
  let rb := if cellReadsB n then readEntry ra.2 ci (bitsOf n 55 46) (s.committed ci (bitsOf n 55 46)) false step
    else (0, ra.2)
  let rc := if cellReadsC n then readEntry rb.2 ci (bitsOf n 45 36) (s.committed ci (bitsOf n 45 36)) false step
    else (0, rb.2)
  ((ra.1, rb.1, rc.1), rc.2)

/-- What the step gives a cell beside its instruction: the word of its route-in, the word address it goes to, and
whether the route-out register loads (R102). -/
structure RouteIn where
  word : Option Word := none
  addr : Nat := 0
  load : Bool := false
  deriving DecidableEq, Repr

/-- The route-in write of a step, unless the compute write named the same word (R81). -/
def cellRouteIn (s : State) (ci step : Nat) (computed : Option Nat) (ri : RouteIn) : State :=
  match ri.word with
  | none => s
  | some v =>
    if computed = some ri.addr then cellEvent s ci 3 ri.addr false step false false
    else writeWord s ci ri.addr v

/-- One cell in scheduled step `step`, executing instruction `n`: operands, result, compute write, route-out load,
route-in write (R79, R80, R81). `nop` says that the row executes as a NOP. -/
def cellStep (s : State) (ci n step : Nat) (nop : Bool) (ri : RouteIn) : State :=
  if nop then cellRouteIn s ci step none ri
  else
    let r := cellOperands s ci n step
    let v := cellResult n r.1.1 r.1.2.1 r.1.2.2
    let we := bitsOf n 76 76 = 1
    let d := bitsOf n 75 66
    let s1 := if we then writeWord r.2 ci d v else r.2
    let s2 := if ri.load then { s1 with fab := { s1.fab with routeOut := mset 0 s1.fab.routeOut ci v } } else s1
    cellRouteIn s2 ci step (if we then some d else none) ri

/-- One cell fetching row `step`: a parity error or a reserved encoding executes as a NOP and is reported (R72, R94). The row
is fetched in the step that executes it (R70), so a parity error is of that step: DESIGN CHOICE (log entry 78). -/
def cellFetch (s : State) (ci step : Nat) (ri : RouteIn) : State :=
  let n := (mget 0 s.fab.imem (2048 * ci + step)).toNat
  let op := bitsOf n 79 77
  if mget 0 s.fab.ipar (2048 * ci + step) ≠ 0 then cellStep (cellEvent s ci 2 step false step false true) ci n step true ri
  else if cellReserved n then cellStep (cellEvent s ci 4 step false step false false) ci n step true ri
  else cellStep s ci n step (op == 0) ri

/-- A command that names one cell operation: the cell executes instruction `n` as in the step in progress, with no
route-in (log entry 8). A reserved field value executes as a NOP and is reported (R72). -/
def cellCommand (s : State) (ci n op : Nat) : State :=
  let n := putBits n 79 77 op
  if cellReserved n then cellEvent s ci 4 s.time.step false s.time.step false false
  else cellStep s ci n s.time.step false {}

/-- SLICE3 (R73). -/
def execSlice3 (cell : Cell) (instr : BitVec 80) (s : State) : Host.Outcome State Fault Refusal :=
  .next (cellCommand s cell instr.toNat 1)

/-- LUT4 (R74). -/
def execLut4 (cell : Cell) (instr : BitVec 80) (s : State) : Host.Outcome State Fault Refusal :=
  .next (cellCommand s cell instr.toNat 2)

/-- CHAIN (R75). -/
def execChain (cell : Cell) (instr : BitVec 80) (s : State) : Host.Outcome State Fault Refusal :=
  .next (cellCommand s cell instr.toNat 3)

/-- ROT (R76). -/
def execRot (cell : Cell) (instr : BitVec 80) (s : State) : Host.Outcome State Fault Refusal :=
  .next (cellCommand s cell instr.toNat 4)

/-- REDUCE (R77). -/
def execReduce (cell : Cell) (instr : BitVec 80) (s : State) : Host.Outcome State Fault Refusal :=
  .next (cellCommand s cell instr.toNat 5)

/-- A cell NOP (R78): nothing is read or written and the route-out register stays. -/
def execNop (cell : Cell) (s : State) : Host.Outcome State Fault Refusal :=
  .next (cellStep s cell 0 s.time.step true {})

/-- The correction write-backs of one cell that wait (R91). -/
def State.cellFixes (s : State) (ci : Nat) : List (Nat × Word) := s.fab.fixes.filter (fun e => e.1 / 2048 == ci)

/-- A correction write-back: the corrected word goes to the same entry with valid check bits (R91). -/
def writeBack (s : State) (e : Nat × Word) : State := writeEntry s (e.1 / 2048) (e.1 / 2 % 1024) (e.1 % 2) e.2

/-- Whether the instruction of a cell in scheduled step `step` executes as a NOP (R72, R94). -/
def cellIsNop (s : State) (ci step : Nat) : Bool :=
  let n := (mget 0 s.fab.imem (2048 * ci + step)).toNat
  mget 0 s.fab.ipar (2048 * ci + step) != 0 || cellReserved n || bitsOf n 79 77 == 0

/-- Whether the compute write port of a cell is idle in scheduled step `step` (R82). -/
def writePortIdle (s : State) (ci step : Nat) : Bool :=
  cellIsNop s ci step || bitsOf (mget 0 s.fab.imem (2048 * ci + step)).toNat 76 76 == 0

/-- Whether read port C of a cell is idle in scheduled step `step` (R82). -/
def portCIdle (s : State) (ci step : Nat) : Bool :=
  cellIsNop s ci step || !cellReadsC (mget 0 s.fab.imem (2048 * ci + step)).toNat

/-- Whether a cell executes a scheduled step next; otherwise the boundary steps, or no step at all, leave its ports idle
(log entry 64). -/
def inStep (s : State) (ci : Nat) : Bool :=
  s.time.running && s.tileRuns (tileOfCell ci) && decide (s.time.step < s.stepsS)

/-- The oldest correction write-back of a cell is made in a step whose compute write port is idle (R82, R91). -/
def execCorrectionWriteBack (cell : Cell) (s : State) : Host.Outcome State Fault Refusal :=
  if inStep s cell && !writePortIdle s cell s.time.step then .next s
  else match s.cellFixes cell with
    | [] => .next s
    | e :: _ => .next (writeBack s e)

/-- The write-backs that waited before scheduled step `step` and whose cell leaves its compute write port idle in it: one
for each cell, unless the step wrote the entry (R82, R91). -/
def stepFixes (s0 : State) (step : Nat) (s : State) : State :=
  (s0.fab.fixes.filter (fun e => (s0.cellFixes (e.1 / 2048)).head? == some e && s0.tileRuns (tileOfCell (e.1 / 2048))
      && writePortIdle s0 (e.1 / 2048) step)).foldl
    (fun s e => if s.fab.fixes.contains e then writeBack s e else s) s

/-- Every write-back that waits is made by boundary step 1 (R91). -/
def boundaryFixes (s : State) : State :=
  (s.fab.fixes.filter (fun e => s.tileRuns (tileOfCell (e.1 / 2048)))).foldl writeBack s

/-- One scrub read: the next entry in physical order; the pass that ends is counted (R93). -/
def scrubCell (s : State) (ci : Nat) : State :=
  let p := mget 0 s.fab.scrubPos ci
  let s1 := (readEntry s ci (p / 2) (p % 2) true 0).2
  if p = 2047 then
    { s1 with fab := { s1.fab with scrubPos := merase s1.fab.scrubPos ci
                                   passes := mset 0 s1.fab.passes ci (mget 0 s1.fab.passes ci + 1) } }
  else { s1 with fab := { s1.fab with scrubPos := mset 0 s1.fab.scrubPos ci (p + 1) } }

/-- A scrub read of a cell, while SCRUB_EN is 1 and the device is neither BLANK nor LOADING, in a step that leaves read
port C idle (R82, R93). -/
def execCellScrub (cell : Cell) (s : State) : Host.Outcome State Fault Refusal :=
  if s.on F.CELL_CTRL.SCRUB_EN (tileOfCell cell) ∧ s.mode ≠ .blank ∧ s.mode ≠ .loading ∧
      (inStep s cell = false ∨ portCIdle s cell s.time.step = true)
  then .next (scrubCell s cell) else .next s

/-- CELL_SCRUB.PASSES: the passes of the tile's slowest cell, wrapping (R93). -/
def slowestPasses (s : State) (t : Nat) : Nat :=
  (List.range 1023).foldl (fun m c => Nat.min m (mget 0 s.fab.passes (1024 * t + c + 1))) (mget 0 s.fab.passes (1024 * t))
    % 2 ^ 24

/-! ### Commit and clock domains (R84, R116) -/

/-- Whether domain `d` of table `z` of region `r` is enabled for stride `n` (R116). -/
def State.domainOn (s : State) (r z d n : Nat) : Bool :=
  let div := s.fld F.RTE_DOM.DIV r (16 * z + d)
  div != 0 && n % div == s.fld F.RTE_DOM.PHASE r (16 * z + d) % div

/-- Whether the commits of a cell are enabled for stride `n`: its domain in the table of its tile's zone, or in
table 16 (R116). -/
def State.cellCommits (s : State) (ci n : Nat) : Bool :=
  let t := tileOfCell ci
  let z := match s.zoneOf t with | none => 16 | some z => z
  s.domainOn (t / 16) z (mget 0 s.fab.domain ci) n

/-- The commit of one dirty word (R84): the two entries exchange roles when the domain was enabled. -/
def commitWord (s : State) (k n : Nat) : State :=
  if s.cellCommits (k / 1024) n then
    { s with fab := { s.fab with role := mset false s.fab.role k (!(mget false s.fab.role k)) } }
  else s

/-- Boundary step 0 closing stride `n` (R84): every cell that executed commits, and its dirty flags clear. -/
def commitAll (s : State) (n : Nat) : State :=
  let mine := s.fab.dirty.filter (fun e => s.tileRuns (e.1 / 1024 / 1024))
  let s1 := mine.foldl (fun s e => commitWord s e.1 n) s
  { s1 with fab := { s1.fab with dirty := s.fab.dirty.filter (fun e => !(s.tileRuns (e.1 / 1024 / 1024))) } }

/-- The boundary that opens a start commits nothing: shadows are discarded and dirty flags clear (R467, R87). -/
def discardShadows (s : State) : State := { s with fab := { s.fab with dirty := [] } }

/-! ### Routing events (R111, R107, R101) -/

/-- A routing event of class `kind` (1 SEL_MULTI, 2 LINE_MULTI, 3 SPAR, 4 XSEL_RSV) of cluster `cl`: contention is
counted, the first is captured, the first of a class is reported, and CONT_POL 0b01 requests a freeze (R111, R112). -/
def rteEvent (s : State) (cl kind unit step drivers : Nat) (inj : Bool) : State :=
  let r := cl / 256
  let st := (s.reg .RTE_STATUS r 0).toNat
  let s0 := if kind ≤ 2 then s.addSat F.RTE_CONT_CNT.COUNT r 0 else s
  let s1 :=
    if st % 16 = 0 then
      (s0.setReg .RTE_FIRST r 0 (BitVec.ofNat 40 (kind * 2 ^ 37 + cl / 16 % 16 * 2 ^ 33 + cl % 16 * 2 ^ 29
        + unit * 2 ^ 22 + step * 2 ^ 11 + Nat.min drivers 31 * 2 ^ 6))).setReg
        .RTE_FIRST_STRIDE r 0 (BitVec.ofNat 40 s.time.strideNum)
    else s0
  let s2 :=
    if kind ≤ 2 ∧ s.fld F.RTE_CTRL.CONT_POL r = 1 ∧ !s.frz.endReq ∧ !s.frz.nowReq then
      { s1 with frz := { s1.frz with endReq := true, cause := 5, code := 0x2000 + kind, region := r
                                     rec0 := recWord0 0x5402 .cluster r (cl / 16 % 16) (cl % 16) 0 false } }
    else s1
  if bitOf st (kind - 1) then s2
  else (s2.setReg .RTE_STATUS r 0 (BitVec.ofNat 40 (st + 2 ^ (kind - 1)))).emit (0x2000 + kind) .cluster r
    (cl / 16 % 16) (cl % 16) 0 inj

/-! ### Tracks and lines (R98-R105, R110) -/

/-- The column and row of a cluster in its region (R98). -/
def clusterX (cl : Nat) : Nat := 4 * (cl / 16 % 4) + cl % 4
/-- The row of a cluster in its region. -/
def clusterY (cl : Nat) : Nat := 4 * (cl / 16 % 16 / 4) + cl % 16 / 4
/-- The cluster at column `x` and row `y` of region `r`. -/
def clusterAt (r x y : Nat) : Nat := 256 * r + 16 * (4 * (y / 4) + x / 4) + 4 * (y % 4) + x % 4

/-- The direction of a track index: 0 east, 1 west, 2 north, 3 south. -/
def trackDir (i : Nat) : Nat := if i < 12 then i - 8 else if i < 16 then i - 12 else (i - 18) / 2

/-- The cluster a track of index `i` leads to from cluster `cl`, and whether it crosses a bridge; none where it leads
nowhere (R99, R100, R110). -/
def trackEnd (cl i : Nat) : Option (Nat × Bool) :=
  let r := cl / 256
  let x := clusterX cl
  let y := clusterY cl
  let d := trackDir i
  let n := if i < 12 then 1 else if i < 16 then 2 else 4
  if i < 16 then
    match d with
    | 0 => if x % 4 + n ≤ 3 then some (clusterAt r (x + n) y, false) else none
    | 1 => if n ≤ x % 4 then some (clusterAt r (x - n) y, false) else none
    | 2 => if n ≤ y % 4 then some (clusterAt r x (y - n), false) else none
    | _ => if y % 4 + n ≤ 3 then some (clusterAt r x (y + n), false) else none
  else
    match d with
    | 0 => if x + 4 ≤ 15 then some (clusterAt r (x + 4) y, false)
           else if r % 2 = 0 then some (clusterAt (r + 1) (x - 12) y, true) else none
    | 1 => if 4 ≤ x then some (clusterAt r (x - 4) y, false)
           else if r % 2 = 1 then some (clusterAt (r - 1) (x + 12) y, true) else none
    | 2 => if 4 ≤ y then some (clusterAt r x (y - 4), false)
           else if 2 ≤ r then some (clusterAt (r - 2) x (y + 12), true) else none
    | _ => if y + 4 ≤ 15 then some (clusterAt r x (y + 4), false)
           else if r < 2 then some (clusterAt (r + 2) x (y - 12), true) else none

/-- The output of the neighbouring box that arrives on source `i`: east and west, north and south exchange. -/
def oppositeTrack (i : Nat) : Nat :=
  if i < 16 then (if i % 2 = 0 then i + 1 else i - 1)
  else if (i - 18) / 2 % 2 = 0 then i + 2 else i - 2

/-- Whether an output index is a track. -/
def isTrack (o : Nat) : Bool := (decide (8 ≤ o) && decide (o < 16)) || (decide (18 ≤ o) && decide (o < 26))
/-- Whether an output index drives a line. -/
def isLine (o : Nat) : Bool := o == 16 || o == 17 || o == 26 || o == 27 || o == 28

/-- The clusters that tap line `o` of cluster `cl` (Table 4.1). -/
def lineTaps (cl o : Nat) : List Nat :=
  let r := cl / 256
  let x := clusterX cl
  let y := clusterY cl
  match o with
  | 16 => (List.range 4).map (fun k => clusterAt r (4 * (x / 4) + k) y)
  | 17 => (List.range 4).map (fun k => clusterAt r x (4 * (y / 4) + k))
  | 26 => (List.range 16).map (fun k => clusterAt r k y)
  | 27 => (List.range 16).map (fun k => clusterAt r x k)
  | _ => (List.range 16).map (fun t => 256 * r + 16 * t + cl % 16)

/-- The word a box output carries: its register, or its park value while its zone is isolated (R113, R380). -/
def State.outWord (s : State) (cl o : Nat) : Word :=
  mget (mget 0 s.fab.out (32 * cl + o)) (s.fab.park.map (fun e => (e.1, e.2.word))) (32 * cl + o)

/-- Whether a line-drive output drives. -/
def State.drives (s : State) (cl o : Nat) : Bool :=
  mget (mget false s.fab.drive (32 * cl + o)) (s.fab.park.map (fun e => (e.1, e.2.drives))) (32 * cl + o)

/-- The word on a line: the OR of the registers of all taps that drove it (R105). -/
def State.lineWord (s : State) (cl o : Nat) : Word :=
  (lineTaps cl o).foldl (fun w k => if s.drives k o then w ||| s.outWord k o else w) 0

/-- The word that arrives on a track source (R99, R110). -/
def State.trackWord (s : State) (cl i : Nat) : Word :=
  match trackEnd cl i with
  | none => 0
  | some (k, bridged) =>
    let o := oppositeTrack i
    if bridged then ((mget [] s.fab.bridge (32 * k + o)).getD 3 0) else s.outWord k o

/-- The word of a crossbar source (R101): a route-out register or a local output. -/
def State.xbarWord (s : State) (cl x : Nat) : Word :=
  if x < 64 then mget 0 s.fab.routeOut (64 * cl + x) else s.outWord cl (x - 64)

/-- The word of source `i` of a switch box (Table 4.3); `qout` is the word its queue controller popped. -/
def State.boxSource (s : State) (cl : Nat) (co : Nat → Word) (qout : Word) (i : Nat) : Word :=
  if i < 8 then co i
  else if isTrack i then s.trackWord cl i
  else if isLine i then s.lineWord cl i
  else if i = 29 then qout
  else if i = 30 then (if cl % 16 = 0 then mget 0 s.fab.pi (cl / 16) else 0)
  else 0

/-- The OR of the selected sources (R104). -/
def orSources (src : Nat → Word) (sel : Nat) : Nat → Word
  | 0 => 0
  | n + 1 => orSources src sel n ||| (if bitOf sel n then src n else 0)

/-! ### The schedule entry of a step (R106, R107) -/

/-- The index of an entry part's cluster and step. -/
def entryOf (cl step : Nat) : Nat := 2048 * cl + step

/-- Whether a part of the entry has a parity error: 0-31 box selects, 32-39 CO selects, 40-103 route entries. -/
def State.sparAt (s : State) (cl step part : Nat) : Bool := mget false s.fab.spar (104 * entryOf cl step + part)

/-- The box select in force: empty with a parity error, with an injected source ORed in (R107, R411). -/
def State.selAt (s : State) (cl step o : Nat) : Nat :=
  (if s.sparAt cl step o then 0 else mget 0 s.fab.sel (32 * entryOf cl step + o))
    ||| mget 0 s.fab.selInj (32 * entryOf cl step + o)

/-- The CO select in force: 0x7F with a parity error or a reserved index (R101, R107). -/
def State.coAt (s : State) (cl step k : Nat) : Nat :=
  let x := mget 0x7F s.fab.co (8 * entryOf cl step + k)
  if s.sparAt cl step (32 + k) ∨ 72 ≤ x then 0x7F else x

/-- The word CO[k] carries in a step (R101). -/
def State.coWord (s : State) (cl step k : Nat) : Word :=
  if s.coAt cl step k = 0x7F then 0 else s.xbarWord cl (s.coAt cl step k)

/-- What the step gives a cell: its route entry, empty with a parity error, none for a reserved index (R102, R107). -/
def State.routeIn (s : State) (cl step cell : Nat) : RouteIn :=
  let e := mget 0xFE000 s.fab.route (64 * entryOf cl step + cell)
  if s.sparAt cl step (40 + cell) then {}
  else
    let x := bitsOf e 19 13
    { word := if 72 ≤ x then none else some (s.xbarWord cl x), addr := bitsOf e 12 3, load := bitsOf e 2 2 == 1 }

/-- The new contents of an output register at the end of a step (R104); `none` where the register keeps its word. -/
def State.newOut (s : State) (cl step : Nat) (qout : Word) (o : Nat) : Option Word :=
  let sel := s.selAt cl step o
  if sel = 0 then (if o = 29 ∨ o = 30 ∨ o = 31 then none else some 0)
  else some (orSources (s.boxSource cl (s.coWord cl step) qout) sel 32)

/-- The clusters whose entries of step `step` name something, or whose registers hold something. -/
def State.busyClusters (s : State) (step : Nat) : List Nat :=
  let a := (s.fab.sel.filter (fun e => e.1 / 32 % 2048 == step)).map (fun e => e.1 / 32 / 2048)
  let b := (s.fab.co.filter (fun e => e.1 / 8 % 2048 == step)).map (fun e => e.1 / 8 / 2048)
  let c := (s.fab.selInj.filter (fun e => e.1 / 32 % 2048 == step)).map (fun e => e.1 / 32 / 2048)
  let d := s.fab.out.map (fun e => e.1 / 32)
  let e := s.fab.drive.map (fun e => e.1 / 32)
  let f := (s.fab.spar.filter (fun e => e.1 / 104 % 2048 == step)).map (fun e => e.1 / 104 / 2048)
  let g := (s.fab.drvInj.filter (fun e => e.1 / 32 % 2048 == step)).map (fun e => e.1 / 32 / 2048)
  ((a ++ b ++ c ++ d ++ e ++ f ++ g).eraseDups).filter (fun cl => s.tileRuns (cl / 16))

/-- The cells that do something in step `step`: an instruction row or a route entry is listed. -/
def State.busyCells (s : State) (step : Nat) : List Nat :=
  let a := (s.fab.imem.filter (fun e => e.1 % 2048 == step)).map (fun e => e.1 / 2048)
  let b := (s.fab.ipar.filter (fun e => e.1 % 2048 == step)).map (fun e => e.1 / 2048)
  let c := (s.fab.route.filter (fun e => e.1 / 64 % 2048 == step)).map (fun e => 64 * (e.1 / 64 / 2048) + e.1 % 64)
  ((a ++ b ++ c).eraseDups).filter (fun ci => s.tileRuns (tileOfCell ci))

/-- The reports of one cluster's entry: SPAR, XSEL_RSV and SEL_MULTI (R101, R107, R111). -/
def entryReports (s0 : State) (step : Nat) (s : State) (cl : Nat) : State :=
  let s1 := (List.range 104).foldl (fun s p =>
    if s0.sparAt cl step p then rteEvent s cl 3 (if p < 40 then p else p + 24) step 0 true else s) s
  let s2 := (List.range 8).foldl (fun s k =>
    let x := mget 0x7F s0.fab.co (8 * entryOf cl step + k)
    if !(s0.sparAt cl step (32 + k)) && decide (72 ≤ x) && x != 0x7F then rteEvent s cl 4 (32 + k) step 0 false else s) s1
  (List.range 32).foldl (fun s o =>
    let n := popBits 32 (s0.selAt cl step o)
    if 2 ≤ n then rteEvent s cl 1 o step n (mget 0 s0.fab.selInj (32 * entryOf cl step + o) != 0) else s) s2

/-- The reserved route index of a cell's entry (R101). -/
def routeReport (s0 : State) (step : Nat) (s : State) (ci : Nat) : State :=
  let cl := ci / 64
  let x := bitsOf (mget 0xFE000 s0.fab.route (64 * entryOf cl step + ci % 64)) 19 13
  if !(s0.sparAt cl step (40 + ci % 64)) && decide (72 ≤ x) && x != 0x7F
  then rteEvent s cl 4 (64 + ci % 64) step 0 false else s

/-- Whether the line drive `o` of a cluster drives its line from this step's entry (R104, R411). -/
def State.drivesAt (s : State) (cl step o : Nat) : Bool :=
  s.selAt cl step o != 0 || mget false s.fab.drvInj (32 * entryOf cl step + o)

/-- The contention report of one line, made for its lowest driving tap (R111). -/
def lineReport (s0 : State) (step : Nat) (s : State) (clo : Nat) : State :=
  let cl := clo / 32
  let o := clo % 32
  let taps := (lineTaps cl o).filter (fun k => s0.drivesAt k step o && s0.tileRuns (k / 16))
  let inj := taps.any (fun k => mget false s0.fab.drvInj (32 * entryOf k step + o))
  if decide (2 ≤ taps.length) && taps.head? == some cl then rteEvent s cl 2 o step taps.length inj else s

/-- The line drives a step's entries name. -/
def State.linesAt (s : State) (step : Nat) (cls : List Nat) : List Nat :=
  cls.flatMap (fun cl => ([16, 17, 26, 27, 28].filter (fun o => s.drivesAt cl step o)).map (fun o => 32 * cl + o))

/-- One output register loads at the end of a step. -/
def loadOut (s0 : State) (step : Nat) (qout : Nat → Word) (s : State) (cl o : Nat) : State :=
  let s1 := match s0.newOut cl step (qout cl) o with
    | none => s
    | some w => { s with fab := { s.fab with out := mset 0 s.fab.out (32 * cl + o) w } }
  if isLine o then
    { s1 with fab := { s1.fab with drive := mset false s1.fab.drive (32 * cl + o) (s0.drivesAt cl step o) } }
  else s1

/-- The registers of one box load at the end of a step; a word loaded into QIN waits for its push (R127). PO leads
nowhere outside cluster 0 of a tile. -/
def loadBox (s0 : State) (step : Nat) (qout : Nat → Word) (s : State) (cl : Nat) : State :=
  let s1 := (List.range 31).foldl (fun s o =>
    if o = 29 ∨ (o = 30 ∧ cl % 16 ≠ 0) then s else loadOut s0 step qout s cl o) s
  match s0.newOut cl step (qout cl) 29 with
  | none => s1
  | some w => { s1 with fab := { s1.fab with
      out := mset 0 s1.fab.out (32 * cl + 29) w, qinPend := minsert s1.fab.qinPend cl w } }

/-- The bridge channels move by one stage (R110); the word on a driving T1 output enters. -/
def moveBridges (s0 s : State) : State :=
  let outs := (s0.fab.out ++ s0.fab.park.map (fun e => (e.1, e.2.word))).map (fun e => e.1)
  let keys := ((outs ++ s0.fab.bridge.map (fun e => e.1)).eraseDups).filter (fun k =>
    decide (18 ≤ k % 32) && decide (k % 32 < 26) &&
      match trackEnd (k / 32) (k % 32) with | some (_, b) => b | none => false)
  { s with fab := { s.fab with bridge := keys.foldl (fun m k =>
      let l := s0.outWord (k / 32) (k % 32) :: (mget [] s0.fab.bridge k).take 3
      if l.all (· == 0) then merase m k else minsert m k l) s.fab.bridge } }

/-! ### Regional clock trees (R118, R119) -/

/-- A rising edge of a tree's source (R118): with divider D the output rises on edge 0, where it takes the DIV_M1
written, and falls on edge ⌈D / 2⌉. A tree that switches its source does not rise again (R119). -/
def Rck.rise (k : Rck) (divM1 : Nat) : Rck :=
  if k.count = 0 then
    if k.switching then k else { k with div := divM1, high := true, count := 1 % (divM1 + 1) }
  else { k with high := k.high && decide (k.count < (k.div + 2) / 2), count := (k.count + 1) % (k.div + 1) }

/-- A falling edge of the source: with D = 1 the output follows it (R118). -/
def Rck.fall (k : Rck) : Rck := if k.div = 0 then { k with high := false } else k

/-- An edge of source `src` at the trees of a region that take it under `sel` (R118). -/
def rckEdge (s : State) (r src : Nat) (rising : Bool) (sel : Nat → Nat → Bool) : State :=
  (List.range 8).foldl (fun s n =>
    let k := mget {} s.fab.rck (8 * r + n)
    if k.src = src ∧ sel k.table k.sel = true then
      let k' := if rising then k.rise (s.fld F.FAB_RCK_CFG.DIV_M1 r n) else k.fall
      { s with fab := { s.fab with rck := mset {} s.fab.rck (8 * r + n) k' } }
    else s) s

/-- An edge of a source that every region shares. -/
def rckEdges (s : State) (src : Nat) (rising : Bool) : State :=
  (List.range 4).foldl (fun s r => rckEdge s r src rising (fun _ _ => true)) s

/-- `n` periods of the step clock at the clock trees. -/
def stepClock : Nat → State → State
  | 0, s => s
  | n + 1, s => stepClock n (rckEdges (rckEdges s 1 true) 1 false)

/-- A write of a clock tree's register begins a switch when it changes the source; a new DIV_M1 alone waits for the next
rise of the output (R119). -/
def rckWritten (s : State) (r n : Nat) : State :=
  let k := mget {} s.fab.rck (8 * r + n)
  let same := k.src = s.fld F.FAB_RCK_CFG.SRC r n ∧ k.sel = s.fld F.FAB_RCK_CFG.SEL r n
    ∧ k.table = s.fld F.FAB_RCK_CFG.TABLE r n
  { s with fab := { s.fab with rck := mset {} s.fab.rck (8 * r + n) { k with switching := !decide same } } }

/-- The switch of a tree's source completes: the output is low and the divider restarts (R119). -/
def rckSwitch (s : State) (r n : Nat) : State :=
  let k : Rck := { src := s.fld F.FAB_RCK_CFG.SRC r n, sel := s.fld F.FAB_RCK_CFG.SEL r n,
                   table := s.fld F.FAB_RCK_CFG.TABLE r n }
  { s with fab := { s.fab with rck := mset {} s.fab.rck (8 * r + n) k } }

/-- A clock tree changes its source once the high phase in progress is complete (R119). -/
def execRckSourceSwitch (region : Region) (tree : Fin 8) (s : State) : Host.Outcome State Fault Refusal :=
  let k := mget {} s.fab.rck (8 * region.val + tree.val)
  if k.switching && !k.high then .next (rckSwitch s region tree) else .next s

/-- The old source gives no falling edge within 1 µs: the output is forced low, the tree switches and FORCED sets
(R119). -/
def execRckForced (region : Region) (tree : Fin 8) (s : State) : Host.Outcome State Fault Refusal :=
  if (mget {} s.fab.rck (8 * region.val + tree.val)).switching
  then .next ((rckSwitch s region tree).orFld F.FAB_RCK_STAT.FORCED region 0 tree) else .next s

/-- FAB_RCK_STAT.RUN: which trees' outputs toggle; a switch holds the output low. A tree on a fabric pin toggles as the
board drives the pin, which the model leaves free (log entry 13). -/
def rckRunning (s : State) (r : Nat) : Nat :=
  ofBits (fun n =>
    let k := mget {} s.fab.rck (8 * r + n)
    !k.switching && match k.src with
    | 1 => true
    | 2 => s.time.running
    | 3 => s.time.running && s.fld F.RTE_DOM.DIV r (16 * k.table + k.sel) != 0
    | 4 => s.fresh.getLsbD n
    | 5 => true
    | _ => false) 8

/-! ### The tick of the time base (R33, R37, R118) -/

/-- The edges that a counted advance of device time from `old` to `now` gives the clock trees: the 10 MHz source in phase
with REF_OUT, and the step clock, whose steps give the edges while strides run (log entry 63). -/
def tickClocks (s : State) (old now : Nat) : State :=
  let s1 := if old / 102400 < now / 102400 then rckEdges s 5 true
    else if (old + 51200) / 102400 < (now + 51200) / 102400 then rckEdges s 5 false else s
  let p := s.fld F.TIM_STRIDE_CFG.P
  if s.time.running then s1 else stepClock (now / p - old / p) s1

/-- Every period of the time-base clock device time advances (R33). A second reached by counting makes PPS_OUT due
(R37, R58), and a multiple of 100 ns reached is a rising edge of REF_OUT (R37). -/
def execTimeBaseTick (s : State) : Host.Outcome State Fault Refusal :=
  let total := tickTotal s.time.now s.time.sub (signed 40 (s.reg .TIM_RATE).toNat)
  let next := (total / 2 ^ 40).toNat
  let now := next % timeSpan
  let ref := if s.on F.TIM_CTRL.REF_OUT_EN then
      (if s.time.now / 102400 < next / 102400 then some (now / 102400 * 102400) else s.time.refOut) else none
  .next (tickClocks { s with time := { s.time with
    now := now
    phase := 0
    sub := (total % 2 ^ 40).toNat
    refOut := ref
    ppsDue := s.time.ppsDue || decide (secOf now ≠ secOf s.time.now) } } s.time.now next)

end Sys2Proof.Machine
end

