-- ==== Sys2Proof/Machine/Queue.lean ====
section
/-! DEFINITION. Queue memory, queue controllers, scratchpads, march and soft repair (Chapter 5). -/

namespace Sys2Proof.Machine

/-! ### Completion statuses (Table 6.11) -/

/-- OK. -/
def stOk : Nat := 0
/-- ADDR_UNMAPPED. -/
def stUnmapped : Nat := 1
/-- DOMAIN_OFFLINE. -/
def stOffline : Nat := 2
/-- DATA_ERR. -/
def stDataErr : Nat := 3
/-- QUEUE_OFF. -/
def stQueueOff : Nat := 4
/-- QUEUE_FORM. -/
def stQueueForm : Nat := 5
/-- QUEUE_SRC. -/
def stQueueSrc : Nat := 6
/-- ZONE_ISOLATED. -/
def stZoneIsolated : Nat := 7
/-- TILE_BUSY. -/
def stTileBusy : Nat := 8
/-- BAD_DESC. -/
def stBadDesc : Nat := 9
/-- ALIGN. -/
def stAlign : Nat := 10
/-- PRIV. -/
def stPriv : Nat := 11
/-- ABORTED. -/
def stAborted : Nat := 12

/-! ### Tile events (R142) -/

/-- A queue event of class `kind` (1 Q_LATE, 2 Q_DROP, 3 Q_OVF, 4 Q_UNDER, 5 Q_DED): the first while its bit is clear
is captured and reported. -/
def qEvent (s : State) (t q kind ptr : Nat) (inj : Bool := false) : State :=
  let st := s.fld F.QC_STATUS.EVT t
  if bitOf st (kind - 1) then s
  else
    let s1 := s.setReg .QC_FIRST t 0 (BitVec.ofNat 40 (kind * 2 ^ 37 + q * 2 ^ 33 + ptr * 2 ^ 14))
    let s2 := s1.setReg .QC_FIRST_STRIDE t 0 (BitVec.ofNat 40 s.time.strideNum)
    (s2.orFld F.QC_STATUS.EVT t 0 (kind - 1)).emitTile (0x3100 + kind) t inj

/-- A scratchpad event of class `kind` (1 SPD_DED, 2 SPD_STARVE, 3 MARCH_FAIL, 4 REPAIR_FAIL). -/
def spdEvent (s : State) (t kind word : Nat) (inj : Bool := false) : State :=
  let st := s.fld F.SPD_STATUS.EVT t
  if bitOf st (kind - 1) then s
  else
    let s1 :=
      if kind ≤ 2 then
        (s.setReg .SPD_FIRST t 0 (BitVec.ofNat 40 (kind * 2 ^ 37 + word * 2 ^ 20))).setReg .SPD_FIRST_STRIDE t 0
          (BitVec.ofNat 40 s.time.strideNum)
      else s
    (s1.orFld F.SPD_STATUS.EVT t 0 (kind - 1)).emitTile (0x3200 + kind) t inj

/-! ### Queue memory and scratchpad words -/

/-- The first byte of a tile's queue memory (R25). -/
def qmBase (t : Nat) : Nat := 0x4000000000 + t * 0x400000

/-- The address of scratchpad word `w` of tile `t` (R28). -/
def spdAddr (t w : Nat) : Nat := 0x4100000000 + t * 0x100000 + 8 * (w % 131072)

/-- The address of word `k` of line `l` of a tile's queue memory. -/
def qmAddr (t l k : Nat) : Nat := qmBase t + 64 * l + 5 * k

/-- A queue-memory word read: a single-bit error is corrected, counted and written back, a double-bit error passes
and reports Q_DED (R122). `q` is the queue concerned. -/
def readQm (s : State) (t a q ptr : Nat) : Word × State :=
  let r := eccRead (mget 0 s.memErr a) (s.readBlk a)
  match r.2 with
  | 0 => (r.1, s)
  | 1 => (r.1, { s.addSat F.QC_SBE_CNT.COUNT t 0 with memErr := merase s.memErr a })
  | _ => (r.1, qEvent s t q 5 ptr true)

/-- A queue-memory or scratchpad word written with fresh check bits. -/
def writeProt (s : State) (a : Nat) (w : Word) : State :=
  { s.writeBlk a w with memErr := merase s.memErr a }

/-- A scratchpad word read, with whether it held a double-bit error (R138). -/
def readSpd (s : State) (t w : Nat) : (Word × Bool) × State :=
  let a := spdAddr t w
  let r := eccRead (mget 0 s.memErr a) (s.readBlk a)
  match r.2 with
  | 0 => ((r.1, false), s)
  | 1 => ((r.1, false), { s.addSat F.SPD_SBE_CNT.COUNT t 0 with memErr := merase s.memErr a })
  | _ => ((r.1, true), spdEvent s t 1 w true)

/-- A scratchpad word written. -/
def writeSpd (s : State) (t w : Nat) (v : Word) : State := writeProt s (spdAddr t w) v

/-! ### A queue -/

/-- The queue's state. -/
def State.q (s : State) (t q : Nat) : QueueSt := mget {} s.queues (16 * t + q)

/-- The state with the queue's state set. -/
def State.setQ (s : State) (t q : Nat) (v : QueueSt) : State :=
  { s with queues := mset {} s.queues (16 * t + q) v }

/-- The queue's capacity in words: 12 × LEN; 0 while it is disabled (R123). -/
def State.qCap (s : State) (t q : Nat) : Nat := 12 * s.fld F.QC_SIZE.LEN t q

/-- The number of words in runs. -/
def runWords : List (Nat × Nat) → Nat
  | [] => 0
  | r :: rs => r.2 + runWords rs

/-- The number of words under marks. -/
def markWords : List Mark → Nat
  | [] => 0
  | m :: ms => m.n + markWords ms

/-- Released words. -/
def QueueSt.released (v : QueueSt) : Nat := runWords v.rel

/-- Words held, released or not. -/
def QueueSt.count (v : QueueSt) : Nat := runWords v.rel + markWords v.marks

/-- The word offset of the next read. -/
def QueueSt.rd (v : QueueSt) : Nat :=
  match v.rel, v.marks with
  | r :: _, _ => r.1
  | [], m :: _ => m.off
  | [], [] => v.wr

/-- The word offset after the last released word. -/
def QueueSt.relEnd (v : QueueSt) (cap : Nat) : Nat :=
  match v.rel.getLast?, v.marks with
  | some r, _ => (r.1 + r.2) % Nat.max cap 1
  | none, m :: _ => m.off
  | none, [] => v.wr

/-- The queue's registers follow its state: pointers, count and watermarks (Table 5.7). For an outbound queue QC_WR
is the last released word plus one. -/
def syncQueue (s : State) (t q : Nat) : State :=
  let v := s.q t q
  let cap := s.qCap t q
  let c := v.count
  let hi := s.fld F.QC_WM.HI t q
  let s1 := s.setFld F.QC_WR.PTR t q (if s.on F.QC_CFG.DIR t q then v.relEnd cap else v.wr)
  let s2 := s1.setFld F.QC_RD.PTR t q v.rd
  let s3 := s2.setFld F.QC_STAT.COUNT t q c
  let s4 := s3.setFld F.QC_STAT.HI t q (flag (decide (hi ≠ 0 ∧ hi ≤ c)))
  s4.setFld F.QC_STAT.LO t q (flag (decide (cap ≠ 0 ∧ c ≤ s.fld F.QC_WM.LO t q)))

/-- The state with the queue's state set and its registers in step. -/
def State.putQ (s : State) (t q : Nat) (v : QueueSt) : State := syncQueue (s.setQ t q v) t q

/-- The address of word offset `p` of a queue's range (R123). -/
def qWordAddr (s : State) (t q p : Nat) : Nat := qmAddr t (s.fld F.QC_SIZE.BASE t q + p / 12) (p % 12)

/-- Words stored from offset `p` on, wrapping at the capacity. -/
def storeWords (t q cap p : Nat) : List Word → State → State
  | [], s => s
  | w :: ws, s => storeWords t q cap ((p + 1) % Nat.max cap 1) ws (writeProt s (qWordAddr s t q p) w)

/-- One word less at the head of runs. -/
def popRun (cap : Nat) : List (Nat × Nat) → List (Nat × Nat)
  | [] => []
  | r :: rs => if r.2 ≤ 1 then rs else ((r.1 + 1) % Nat.max cap 1, r.2 - 1) :: rs

/-- One word less at the head of marks. -/
def popMark (cap : Nat) : List Mark → List Mark
  | [] => []
  | m :: ms => if m.n ≤ 1 then ms else { m with off := (m.off + 1) % Nat.max cap 1, n := m.n - 1 } :: ms

/-- The oldest word dropped, released or not (RING, R124). -/
def QueueSt.dropOldest (v : QueueSt) (cap : Nat) : QueueSt :=
  match v.rel with
  | _ :: _ => { v with rel := popRun cap v.rel }
  | [] => { v with marks := popMark cap v.marks }

/-- `n` oldest words dropped. -/
def QueueSt.dropN (v : QueueSt) (cap : Nat) : Nat → QueueSt
  | 0 => v
  | n + 1 => (v.dropOldest cap).dropN cap n

/-- A mark appended; words that continue the last mark with the same release stride join it. -/
def addMark (cap : Nat) (m : Mark) : List Mark → List Mark
  | [] => [m]
  | [l] => if l.stride = m.stride ∧ (l.off + l.n) % Nat.max cap 1 = m.off then [{ l with n := l.n + m.n }] else [l, m]
  | l :: ms => l :: addMark cap m ms

/-- Words appended at the write pointer under a release stride; there is room for them. Where SRC = 0xFF has released words
out of order, the room that they leave counts although held words stand between, and the words appended overwrite those:
DESIGN CHOICE (log entry 79). -/
def appendWords (s : State) (t q stride : Nat) (ws : List Word) : State :=
  let cap := s.qCap t q
  let v := s.q t q
  let s1 := storeWords t q cap v.wr ws s
  s1.putQ t q { v with marks := addMark cap ⟨stride, v.wr, ws.length⟩ v.marks
                       wr := (v.wr + ws.length) % Nat.max cap 1 }

/-- Whether a release stride has already had its release point, so that words for it come late: only while the tile's
region executes strides (R129, R131, log entry 15). -/
def State.isLate (s : State) (t stride : Nat) : Bool :=
  s.time.running && s.regionRuns (t / 16) && decide (stride ≤ s.time.strideNum)

/-- Words delivered to an inbound queue as one write, with the stride they count from: the release rule of the
queue's mode, the full rule and the late rule (R124, R128, R129). There is no waiting here. -/
def deliver (s : State) (t q from_ : Nat) (ws : List Word) : State :=
  let cap := s.qCap t q
  let mode := s.fld F.QC_CFG.MODE t q
  let v := s.q t q
  if mode = 2 then
    let rs := from_ + s.fld F.QC_CFG.D t q
    if s.isLate t rs then
      if s.on F.QC_CFG.LATE_POL t q then qEvent (s.addSat F.QC_CNT.DROP t q) t q 2 v.wr
      else appendWords (qEvent (s.addSat F.QC_CNT.LATE t q) t q 1 v.wr) t q 0 ws
    else appendWords s t q rs ws
  else if mode = 1 then
    let excess := v.count + ws.length - cap
    let s1 := if excess = 0 then s
      else (qEvent (s.addSat F.QC_CNT.OVF t q excess) t q 3 v.wr).setQ t q (v.dropN cap excess)
    appendWords s1 t q 0 ws
  else appendWords s t q 0 ws

/-- The acknowledgement of a line that waited at tile `t` and completes with a status. -/
def ackPush (s : State) (t : Nat) (p : Push) (st : Nat) : State :=
  if p.ack then
    { s with resps := s.resps ++ [{
        isRead := false, dst := p.src, tag := p.tag, status := if p.status = stOk then st else p.status
        node := 2 * t, late := p.late, old := p.old }] }
  else s

/-- Pushes that wait go in, oldest first, while there are free lines and no queue command runs (R124, R132). -/
def drainPushes (t q : Nat) : Nat → State → State
  | 0, s => s
  | n + 1, s =>
    let v := s.q t q
    match v.waiting with
    | [] => s
    | p :: ps =>
      if s.qCap t q = 0 then
        let s1 := s.setQ t q { v with waiting := ps }
        drainPushes t q n (ackPush s1 t p stQueueOff)
      else if v.cmdBusy ∨ s.qCap t q < v.count + p.words.length then s
      else
        let s1 := deliver (s.setQ t q { v with waiting := ps }) t q p.stride p.words
        drainPushes t q n (ackPush s1 t p stOk)

/-- Every push that can go in goes in. -/
def State.drain (s : State) (t q : Nat) : State := drainPushes t q (s.q t q).waiting.length s

/-- Whether a line address of a tile's queue memory lies in an enabled queue, and which (R132). -/
def State.queueOfLine (s : State) (t l : Nat) : Option Nat :=
  (List.range 16).find? (fun q =>
    let b := s.fld F.QC_SIZE.BASE t q
    decide (b ≤ l) && decide (l < b + s.fld F.QC_SIZE.LEN t q))

/-- Whether a queue is inbound with its network port (R132). -/
def State.isNetIn (s : State) (t q : Nat) : Bool := !(s.on F.QC_CFG.DIR t q) && s.fld F.QC_CFG.PORT t q == 0

/-- A network push of a whole line to an inbound NETWORK queue (R130, R132, R135): its completion status when it
completes now, and the state; `none` when it waits for free lines. -/
def pushLine (s : State) (t q src tag stride : Nat) (ws : List Word) (ack : Bool) : Option Nat × State :=
  let v := s.q t q
  if s.tileIsolated t then (some stZoneIsolated, qEvent (s.addSat F.QC_CNT.DROP t q) t q 2 v.wr)
  else if s.fld F.QC_CFG.MODE t q = 2 ∧ s.fld F.QC_CFG.SRC t q ≠ 0xFF ∧ s.fld F.QC_CFG.SRC t q ≠ src then
    (some stQueueSrc, s)
  else if v.waiting ≠ [] ∨ v.cmdBusy ∨ (s.fld F.QC_CFG.MODE t q ≠ 1 ∧ s.qCap t q < v.count + ws.length) then
    (none, s.setQ t q { v with waiting := v.waiting ++ [{ src := src, tag := tag, stride := stride, words := ws, ack := ack }] })
  else (some stOk, deliver s t q stride ws)

/-! ### The fabric side (R125-R127) -/

/-- The word QOUT presents: the header of the stride, the oldest released word, or zero (R125, R126). -/
def qoutWord (s : State) (t q : Nat) : Word :=
  let v := s.q t q
  if s.qCap t q = 0 ∨ s.on F.QC_CFG.DIR t q = true then 0
  else if s.on F.QC_CFG.HDR t q ∧ !v.hdrDone then BitVec.ofNat 40 v.snap
  else match v.rel with
    | [] => 0
    | r :: _ => (eccRead (mget 0 s.memErr (qWordAddr s t q r.1)) (s.readBlk (qWordAddr s t q r.1))).1

/-- A pop at the end of a step in which the box of cluster `q` selects QOUT (R125, R126). -/
def qoutPop (s : State) (t q : Nat) : State :=
  let v := s.q t q
  let cap := s.qCap t q
  if cap = 0 ∨ s.on F.QC_CFG.DIR t q = true then s
  else if s.on F.QC_CFG.HDR t q ∧ !v.hdrDone then s.setQ t q { v with hdrDone := true }
  else match v.rel with
    | [] => if s.on F.QC_CFG.HDR t q then s else qEvent (s.addSat F.QC_CNT.UNDER t q) t q 4 v.rd
    | r :: _ =>
      let s1 := (readQm s t (qWordAddr s t q r.1) q r.1).2
      (s1.putQ t q { v with rel := popRun cap v.rel }).drain t q

/-- A word pushed through QIN into an outbound queue (R124, R127). -/
def qinPush (s : State) (t q : Nat) (w : Word) : State :=
  let v := s.q t q
  let cap := s.qCap t q
  if cap = 0 ∨ s.on F.QC_CFG.DIR t q = false then s
  else if v.count < cap then appendWords s t q 0 [w]
  else if s.fld F.QC_CFG.MODE t q = 1 then
    appendWords ((qEvent (s.addSat F.QC_CNT.OVF t q) t q 3 v.wr).setQ t q (v.dropOldest cap)) t q 0 [w]
  else qEvent (s.addSat F.QC_CNT.OVF t q) t q 3 v.wr

/-- The words loaded into QIN in the step before are pushed: at the start of a step, or in boundary step 0 for a load of
step S − 1 (R127). -/
def qinPushes (s : State) : State :=
  s.fab.qinPend.foldl (fun s e => if s.tileRuns (e.1 / 16) then qinPush s (e.1 / 16) (e.1 % 16) e.2 else s)
    { s with fab := { s.fab with qinPend := [] } }

/-! ### Release (R124, R128-R131) -/

/-- The marks due for stride `n`, in release-stride order. -/
def insertMark (m : Mark) : List Mark → List Mark
  | [] => [m]
  | l :: ms => if m.stride < l.stride then m :: l :: ms else l :: insertMark m ms

/-- Marks in release-stride order; marks of one stride keep their order. -/
def sortMarks : List Mark → List Mark
  | [] => []
  | m :: ms => insertMark m (sortMarks ms)

/-- The release point of one queue for stride `n` (R124, R131): due words are released, and the header of the new
stride is taken (R126). -/
def releaseQueue (s : State) (t q n : Nat) : State :=
  let v := s.q t q
  let due := (sortMarks (v.marks.reverse.filter (fun m => decide (m.stride ≤ n)))).map (fun m => (m.off, m.n))
  let v1 := { v with rel := v.rel ++ due, marks := v.marks.filter (fun m => decide (n < m.stride)), hdrDone := false }
  s.putQ t q { v1 with snap := v1.released }

/-- The release point of every queue of the tiles that execute (R124, R135). -/
def releaseAll (s : State) (n : Nat) : State :=
  s.queues.foldl (fun s e => if s.tileRuns (e.1 / 16) then releaseQueue s (e.1 / 16) (e.1 % 16) n else s) s

/-! ### Lane words (R128, R133, R135) -/

/-- The lane stride of a word written now (R128): the stride in progress; while the tile's region executes no strides, the
number held, or the stride whose ideal boundary lies at most 7 step periods ahead. -/
def laneStride (s : State) (t : Nat) : Nat :=
  let held := s.time.strideNum
  if (s.time.running && s.regionRuns (t / 16)) || s.stepsS == 0 then held
  else
    let epoch := if s.time.running then s.time.epoch else s.epochReg
    let n := ((s.instant + 7 * s.fld F.TIM_STRIDE_CFG.P : Nat) - (epoch : Int)) / s.strideT + s.strideK
    Nat.max held n.toNat

/-- A decoded word of the lane goes to queue RX_Q + (j mod K) (R133). A word that finds the queue disabled, isolated, full
or under a command is discarded and counted (R123, R135, log entry 65). -/
def laneWord (s : State) (t : Nat) (w : Word) : State :=
  if s.on F.QC_LANE.RX_EN t = false then s
  else
    let ts := mget {} s.tiles t
    let q := (s.fld F.QC_LANE.RX_Q t + ts.laneRx % 2 ^ s.fld F.QC_LANE.RX_K t) % 16
    let s1 := { s with tiles := mset {} s.tiles t { ts with laneRx := ts.laneRx + 1 } }
    let v := s1.q t q
    if s1.qCap t q = 0 ∨ s1.tileIsolated t ∨ v.cmdBusy ∨ (s1.fld F.QC_CFG.MODE t q ≠ 1 ∧ s1.qCap t q ≤ v.count) then
      qEvent (s1.addSat F.QC_CNT.OVF t q) t q 3 v.wr
    else deliver s1 t q (laneStride s t) [w]

/-- The lane takes the next word from TX_Q + (j mod K): the word, or none when the queue holds no released word
(R133). -/
def laneTake (s : State) (t : Nat) : Option Word × State :=
  if s.on F.QC_LANE.TX_EN t = false then (none, s)
  else
    let ts := mget {} s.tiles t
    let q := (s.fld F.QC_LANE.TX_Q t + ts.laneTx % 2 ^ s.fld F.QC_LANE.TX_K t) % 16
    let v := s.q t q
    match v.rel with
    | [] => (none, qEvent (s.addSat F.QC_CNT.UNDER t q) t q 4 v.rd)
    | r :: _ =>
      let rd := readQm s t (qWordAddr s t q r.1) q r.1
      let s1 := rd.2.putQ t q { v with rel := popRun (s.qCap t q) v.rel }
      (some rd.1, { s1 with tiles := mset {} s1.tiles t { ts with laneTx := ts.laneTx + 1 } })

/-! ### Queue registers and commands (R123, R132-R134) -/

/-- The first check of R123 a new range fails: 2 QUEUE_RANGE, 3 QUEUE_OVERLAP, 6 QUEUE_CFG, or 0. -/
def rangeCheck (s : State) (t q base len : Nat) : Nat :=
  let overlap := (List.range 16).any (fun k =>
    k != q && s.fld F.QC_SIZE.LEN t k != 0 && len != 0 && decide (base < s.fld F.QC_SIZE.BASE t k + s.fld F.QC_SIZE.LEN t k)
      && decide (s.fld F.QC_SIZE.BASE t k < base + len))
  if 32768 < base + len then 2
  else if overlap then 3
  else if len ≠ 0 ∧ s.fld F.QC_CFG.MODE t q = 2 ∧ s.on F.QC_CFG.DIR t q = true then 6
  else 0

/-- A write of QC_SIZE (R123). A reserved LEN leaves the LEN field as it was (R6); a queue command that runs goes on, and
no credit is granted before it completes (R134). -/
def writeQcSize (s : State) (t q : Nat) (w : Word) : State :=
  let base := bitsOf w.toNat 30 16
  let len := if F.QC_SIZE.LEN.isReserved (bitsOf w.toNat 15 0) then s.fld F.QC_SIZE.LEN t q else bitsOf w.toNat 15 0
  let v := s.q t q
  let res := if v.count ≠ 0 ∨ v.marks ≠ [] then 1 else rangeCheck s t q base len
  let s1 := s.setFld F.QC_STAT.RES t q res
  if res ≠ 0 then s1
  else
    let s2 := (s1.setFld F.QC_SIZE.BASE t q base).setFld F.QC_SIZE.LEN t q len
    (s2.putQ t q { waiting := v.waiting, cmdBusy := v.cmdBusy }).drain t q

/-- A write of QC_SIZE (R123). -/
def execQcSizeWrite (tile : Tile) (queue : QueueIx) (value : Word) (s : State) : Host.Outcome State Fault Refusal :=
  .next (writeQcSize s tile queue value)

/-- A write of QC_CFG: ignored while LEN ≠ 0, but for LATE_POL and HDR (R123). -/
def writeQcCfg (s : State) (t q : Nat) (w : Word) : State :=
  if s.fld F.QC_SIZE.LEN t q = 0 then s.writeDefault .QC_CFG t q w
  else writeFields t q w.toNat false [F.QC_CFG.LATE_POL, F.QC_CFG.HDR] s

/-- A write of QC_RD by a polling reader (R132): the words up to the new value are freed. -/
def writeQcRd (s : State) (t q : Nat) (w : Word) : State :=
  let cap := s.qCap t q
  let v := s.q t q
  if cap = 0 ∨ s.on F.QC_CFG.DIR t q = false ∨ s.fld F.QC_CFG.PORT t q ≠ 0 then s
  else
    let n := (bitsOf w.toNat 18 0 + cap - v.rd % cap) % cap
    if v.released < n then s.setFld F.QC_STAT.RES t q 5
    else (s.setFld F.QC_STAT.RES t q 0).putQ t q (v.dropN cap n)

/-- A write of QC_RD (R132). -/
def execQcRdWrite (tile : Tile) (queue : QueueIx) (value : Word) (s : State) : Host.Outcome State Fault Refusal :=
  .next (writeQcRd s tile queue value)

/-- Whether a queue command is accepted: strides not running, the queue's zone isolated, or the queue disabled (R134). -/
def cmdAllowed (s : State) (t q : Nat) : Bool :=
  !s.time.running || !s.regionRuns (t / 16) || s.tileIsolated t || s.fld F.QC_SIZE.LEN t q == 0

/-- The words of a run read, oldest first, with the errors the reads find (R122). -/
def runList (t q cap : Nat) : Nat → Nat → State → List Word × State
  | _, 0, s => ([], s)
  | p, n + 1, s =>
    let r := readQm s t (qWordAddr s t q p) q p
    let rs := runList t q cap ((p + 1) % Nat.max cap 1) n r.2
    (r.1 :: rs.1, rs.2)

/-- The oldest words of runs read, at most `k`. -/
def runsList (t q cap : Nat) : Nat → List (Nat × Nat) → State → List Word × State
  | _, [], s => ([], s)
  | k, r :: rs, s =>
    let a := runList t q cap r.1 (Nat.min k r.2) s
    let b := runsList t q cap (k - r.2) rs a.2
    (a.1 ++ b.1, b.2)

/-- Runs and marks laid out again from offset 0, keeping at most `k` words: released words first, then the marks in
the order they were made (R134, log entry 16). -/
def relayRuns (p : Nat) : Nat → List (Nat × Nat) → Nat × List (Nat × Nat)
  | 0, _ => (p, [])
  | _, [] => (p, [])
  | k, r :: rs =>
    let n := Nat.min k r.2
    let t := relayRuns (p + n) (k - n) rs
    (t.1, (p, n) :: t.2)

/-- Marks laid out again from offset `p`. -/
def relayMarks (p : Nat) : Nat → List Mark → List Mark
  | 0, _ => []
  | _, [] => []
  | k, m :: ms =>
    let n := Nat.min k m.n
    { m with off := p, n := n } :: relayMarks (p + n) (k - n) ms

/-- TRUNCATE (R134). -/
def truncateQueue (s : State) (t q len : Nat) : State :=
  if !cmdAllowed s t q then s.setFld F.QC_STAT.RES t q 4
  else
    let base := s.fld F.QC_SIZE.BASE t q
    let res := if 32768 < len then 2 else rangeCheck s t q base len
    if res ≠ 0 then s.setFld F.QC_STAT.RES t q res
    else
      let cap := s.qCap t q
      let v := s.q t q
      let kept := runsList t q cap (12 * len) (v.rel ++ v.marks.map (fun m => (m.off, m.n))) s
      let keep := kept.1.length
      let relKeep := Nat.min (12 * len) v.released
      let runs := relayRuns 0 relKeep v.rel
      let marks := relayMarks relKeep (keep - relKeep) v.marks
      let s1 := (kept.2.setFld F.QC_STAT.RES t q 0).setFld F.QC_CMD.DISCARD t q (v.count - keep)
      let s2 := s1.setFld F.QC_SIZE.LEN t q len
      let s3 := storeWords t q (12 * len) 0 kept.1 s2
      s3.putQ t q { v with rel := runs.2, marks := marks, wr := keep % Nat.max (12 * len) 1, cmdBusy := true }

/-- TRUNCATE (R134). -/
def execTruncate (tile : Tile) (queue : QueueIx) (len : BitVec 16) (s : State) : Host.Outcome State Fault Refusal :=
  .next (truncateQueue s tile queue len.toNat)

/-- FLUSH (R134). -/
def flushQueue (s : State) (t q : Nat) : State :=
  if !cmdAllowed s t q then s.setFld F.QC_STAT.RES t q 4
  else
    let v := s.q t q
    let s1 := (s.setFld F.QC_STAT.RES t q 0).setFld F.QC_CMD.DISCARD t q v.count
    s1.putQ t q { v with rel := [], marks := [], cmdBusy := true }

/-- FLUSH (R134). -/
def execFlush (tile : Tile) (queue : QueueIx) (s : State) : Host.Outcome State Fault Refusal :=
  .next (flushQueue s tile queue)

/-- A write of QC_CMD (R134): TRUNCATE 0b001, FLUSH 0b010; other encodings are reserved (R6). -/
def writeQcCmd (s : State) (t q : Nat) (w : Word) : State :=
  match bitsOf w.toNat 39 37 with
  | 1 => truncateQueue s t q (bitsOf w.toNat 36 21)
  | 2 => flushQueue s t q
  | _ => s

/-- A queue command completes: credits are granted again (R134). -/
def execQueueCommandDone (tile : Tile) (queue : QueueIx) (s : State) : Host.Outcome State Fault Refusal :=
  .next ((s.setQ tile queue { s.q tile queue with cmdBusy := false }).drain tile queue)

/-- Whether a group of K queues from `q0` satisfies the group rules of R133. -/
def groupOk (s : State) (t q0 k : Nat) (outbound : Bool) : Bool :=
  let n := 2 ^ k
  let qs := (List.range n).map (· + q0)
  q0 % n == 0 && decide (q0 + n ≤ 16) &&
  qs.all (fun q => s.fld F.QC_SIZE.LEN t q != 0 && s.fld F.QC_CFG.PORT t q == 1 && s.on F.QC_CFG.DIR t q == outbound) &&
  (outbound || qs.all (fun q => s.fld F.QC_CFG.MODE t q == s.fld F.QC_CFG.MODE t q0
    && s.fld F.QC_CFG.D t q == s.fld F.QC_CFG.D t q0 && s.on F.QC_CFG.HDR t q == s.on F.QC_CFG.HDR t q0))

/-- A write of QC_LANE (R133); tiles 12 to 15 ignore it. The word counts restart at a rise of their enable. -/
def writeQcLane (s : State) (t : Nat) (w : Word) : State :=
  if 12 ≤ t % 16 then s
  else
    let wasRx := s.on F.QC_LANE.RX_EN t
    let wasTx := s.on F.QC_LANE.TX_EN t
    let s1 := s.writeDefault .QC_LANE t 0 w
    let badRx := s1.on F.QC_LANE.RX_EN t && !groupOk s1 t (s1.fld F.QC_LANE.RX_Q t) (s1.fld F.QC_LANE.RX_K t) false
    let badTx := s1.on F.QC_LANE.TX_EN t && !groupOk s1 t (s1.fld F.QC_LANE.TX_Q t) (s1.fld F.QC_LANE.TX_K t) true
    let s2 := if badRx then s1.setFld F.QC_LANE.RX_EN t 0 0 else s1
    let s3 := if badTx then s2.setFld F.QC_LANE.TX_EN t 0 0 else s2
    let s4 := if badRx || badTx then s3.setFld F.QC_LANE.CFG_ERR t 0 1 else s3
    let v := mget {} s4.tiles t
    let v1 := if s4.on F.QC_LANE.RX_EN t && !wasRx then { v with laneRx := 0 } else v
    let v2 := if s4.on F.QC_LANE.TX_EN t && !wasTx then { v1 with laneTx := 0 } else v1
    { s4 with tiles := mset {} s4.tiles t v2 }

/-- A write of QC_LANE (R133). -/
def execQcLaneWrite (tile : Tile) (value : Word) (s : State) : Host.Outcome State Fault Refusal :=
  .next (writeQcLane s tile value)

/-! ### Scrub, starvation, march and repair (R122, R136-R141) -/

/-- One row of queue memory scrubbed: its four words are read and corrected (R122). A double-bit error in a line of no
queue is captured as one of queue 0 (log entry 66). -/
def execQueueMemoryScrub (tile : Tile) (row : Fin 98304) (s : State) : Host.Outcome State Fault Refusal :=
  if s.on F.SPD_CTRL.QSCRUB_EN tile then
    .next ((List.range 4).foldl (fun s k =>
      let w := 4 * row.val + k
      let q := (s.queueOfLine tile (w / 12)).getD 0
      (readQm s tile (qmAddr tile (w / 12) (w % 12)) q (w - 12 * s.fld F.QC_SIZE.BASE tile q)).2) s)
  else .next s

/-- One row of eight scratchpad words scrubbed (R138). -/
def execScratchpadScrub (tile : Tile) (row : Fin 16384) (s : State) : Host.Outcome State Fault Refusal :=
  if s.on F.SPD_CTRL.SCRUB_EN tile then
    .next ((List.range 8).foldl (fun s k => (readSpd s tile (8 * row.val + k)).2) s)
  else .next s

/-- A DMA-class request for a word has waited `cycles` consecutive engine cycles for the engine's port (R136): each counts
in SPD_DMA_STALL, and a wait of STARVE_THR cycles is reported; a threshold of 0 never reports. -/
def execSpdStarve (tile : Tile) (word : Fin 131072) (cycles : Nat) (s : State) : Host.Outcome State Fault Refusal :=
  let thr := s.fld F.SPD_CTRL.STARVE_THR tile
  let s1 := s.addSat F.SPD_DMA_STALL.CYCLES tile 0 cycles
  if thr ≠ 0 ∧ thr ≤ cycles then .next (spdEvent s1 tile 2 word) else .next s1

/-- Whether a march may start (R139): a destructive scratchpad march needs the engine halted or in reset, one of queue memory
needs every queue disabled and both lane enables at 0; a march that runs is not started again (log entry 17). -/
def marchAllowed (s : State) (t : Nat) : Bool :=
  !(mget {} s.tiles t).march &&
  (s.on F.SPD_MARCH_CTRL.KIND t ||
    (if s.on F.SPD_MARCH_CTRL.TARGET t then
      (List.range 16).all (fun q => s.fld F.QC_SIZE.LEN t q == 0) && !s.on F.QC_LANE.RX_EN t && !s.on F.QC_LANE.TX_EN t
    else s.fld F.SE_STATUS.STATE t == 0 || (mget {} s.procs t).eRst))

/-- A write of SPD_MARCH_CTRL (R139, R140): a march takes TARGET and KIND at its start. -/
def writeMarch (s : State) (t : Nat) (w : Word) : State :=
  let s1 := s.writeDefault .SPD_MARCH_CTRL t 0 w
  if bitsOf w.toNat 39 39 = 0 then s1
  else if marchAllowed s1 t then
    let s2 := s1.setReg .SPD_MARCH_STAT t 0 (BitVec.ofNat 40 (2 ^ 38))
    { s2 with tiles := mset {} s2.tiles t { mget {} s2.tiles t with
        march := true, marchQm := s1.on F.SPD_MARCH_CTRL.TARGET t, marchKeep := s1.on F.SPD_MARCH_CTRL.KIND t } }
  else s1.setFld F.SPD_MARCH_STAT.REFUSED t 0 1

/-- A march is started (R139). -/
def execMarchStart (tile : Tile) (value : Word) (s : State) : Host.Outcome State Fault Refusal :=
  .next (writeMarch s tile value)

/-- The repair register of sub-array `sub`, spare `k`. -/
def repairFld (qm : Bool) (fq fs : Fld) : Fld := if qm then fq else fs

/-- The row that repair register `n` names, read into its spare: single-bit errors are corrected in the copy, double-bit
words are copied as they stand (R141). -/
def copyRow (qm : Bool) (s : State) (t n : Nat) : State :=
  let row := s.fld (repairFld qm F.QC_REPAIR.ROW F.SPD_REPAIR.ROW) t n
  if qm then
    (List.range 4).foldl (fun s k =>
      let w := 4 * (16384 * (n / 4) + row) + k
      let q := (s.queueOfLine t (w / 12)).getD 0
      (readQm s t (qmAddr t (w / 12) (w % 12)) q (w - 12 * s.fld F.QC_SIZE.BASE t q)).2) s
  else (List.range 8).foldl (fun s k => (readSpd s t (8 * (8192 * (n / 4) + row) + k)).2) s

/-- A row that a march found failing takes the lowest free spare of its sub-array (R141). -/
def autoRepair (qm : Bool) (t sub row : Nat) (s : State) : State :=
  let valid := repairFld qm F.QC_REPAIR.VALID F.SPD_REPAIR.VALID
  let held := ((List.range 4).map (· + 4 * sub)).find? (fun n =>
    s.on valid t n && s.fld (repairFld qm F.QC_REPAIR.ROW F.SPD_REPAIR.ROW) t n == row)
  match held, ((List.range 4).map (· + 4 * sub)).find? (fun n => !s.on valid t n) with
  | some _, _ => s
  | none, none => spdEvent s t 4 0 true
  | none, some n =>
    let s1 := s.setFld valid t n 1
    let s2 := s1.setFld (repairFld qm F.QC_REPAIR.ROW F.SPD_REPAIR.ROW) t n row
    let s3 := s2.setFld (repairFld qm F.QC_REPAIR.AUTO F.SPD_REPAIR.AUTO) t n 1
    copyRow qm (s3.setFld (repairFld qm F.QC_REPAIR.DONE F.SPD_REPAIR.DONE) t n 1) t n

/-- One failing row of a march: the event, the count, the first row, and a spare under AUTO_REPAIR (R139-R142). -/
def marchFail (qm : Bool) (t : Nat) (s : State) (row : Nat) : State :=
  let per := if qm then 16384 else 8192
  let s1 := spdEvent s t 3 0 true
  let s2 := if s.fld F.SPD_MARCH_STAT.FAILS t = 0 then
      (s1.setFld F.SPD_MARCH_STAT.SUB t 0 (row / per)).setFld F.SPD_MARCH_STAT.ROW t 0 (row % per)
    else s1
  let s3 := s2.addSat F.SPD_MARCH_STAT.FAILS t 0
  if s.on F.SPD_MARCH_CTRL.AUTO_REPAIR t then autoRepair qm t (row / per) (row % per) s3 else s3

/-- The bytes of an address range dropped: they read 0. -/
def clearRange (s : State) (a n : Nat) : State :=
  { s with mem := mclear s.mem a n, memErr := mclear s.memErr a n }

/-- A march completes (R139): its failing rows are judged, and a destructive march leaves the target all zero. -/
def execMarchDone (tile : Tile) (s : State) : Host.Outcome State Fault Refusal :=
  let ts := mget {} s.tiles tile
  if !ts.march then .next s
  else
    let qm := ts.marchQm
    let rows := (ts.marchFails.map (fun e => e.1 * (if qm then 16384 else 8192) + e.2)).filter (fun row =>
      decide (row < if qm then 98304 else 16384))
    let s1 := rows.foldl (marchFail qm tile) s
    let s2 := s1.setFld F.SPD_MARCH_STAT.STATE tile 0 (if rows = [] then 2 else 3)
    let s3 :=
      if ts.marchKeep then s2
      else if qm then clearRange s2 (qmBase tile) 0x200000
      else clearRange s2 (spdAddr tile 0) 0x100000
    let ts' := { ts with march := false, marchFails := [] }
    .next { s3 with tiles := mset {} s3.tiles tile ts' }

/-- A write of a repair register (R141). -/
def writeRepair (qm : Bool) (s : State) (t n : Nat) (w : Word) : State :=
  let valid := repairFld qm F.QC_REPAIR.VALID F.SPD_REPAIR.VALID
  let rowF := repairFld qm F.QC_REPAIR.ROW F.SPD_REPAIR.ROW
  let dup := repairFld qm F.QC_REPAIR.DUP F.SPD_REPAIR.DUP
  let key := if qm then 100 + n else n
  let ts := mget {} s.tiles t
  let was := s.on valid t n
  let s1 := if was then s else writeField t n w.toNat false s rowF
  let row := s1.fld rowF t n
  if bitsOf w.toNat 39 39 = 0 then
    if was then
      let s2 := (s1.setFld valid t n 0).setFld (repairFld qm F.QC_REPAIR.DONE F.SPD_REPAIR.DONE) t n 0
      { s2.setFld (repairFld qm F.QC_REPAIR.AUTO F.SPD_REPAIR.AUTO) t n 0 with
          tiles := mset {} s2.tiles t { ts with repairBusy := ts.repairBusy.filter (· != key) } }
    else s1
  else if was then s1
  else if ((List.range 4).map (· + 4 * (n / 4))).any (fun k => k != n && s1.on valid t k && s1.fld rowF t k == row) then
    s1.setFld dup t n 1
  else
    let s2 := (s1.setFld valid t n 1).setFld dup t n 0
    { s2 with tiles := mset {} s2.tiles t { ts with repairBusy := ts.repairBusy ++ [key] } }

/-- A repair register is written (R141). Register `index` is SPD_REPAIR0-7 or QC_REPAIR0-23. -/
def execRepair (tile : Tile) (queueMem : Bool) (index : Fin 24) (value : Word) (s : State) :
    Host.Outcome State Fault Refusal :=
  if !queueMem ∧ 8 ≤ index.val then .next s else .next (writeRepair queueMem s tile index value)

/-- The repair copy completes: the redirection is in force and DONE sets (R141). -/
def execRepairDone (tile : Tile) (queueMem : Bool) (index : Fin 24) (s : State) : Host.Outcome State Fault Refusal :=
  let key := if queueMem then 100 + index.val else index.val
  let ts := mget {} s.tiles tile
  if ts.repairBusy.contains key then
    let s1 := copyRow queueMem (s.setFld (repairFld queueMem F.QC_REPAIR.DONE F.SPD_REPAIR.DONE) tile index 1) tile index
    .next { s1 with tiles := mset {} s1.tiles tile { ts with repairBusy := ts.repairBusy.filter (· != key) } }
  else .next s

/-- A queue restored to its configured values: emptied, its marks cleared, its counts kept by the register rules
(R135). -/
def emptyQueue (s : State) (t q : Nat) : State := s.putQ t q {}

end Sys2Proof.Machine
end

