-- ==== Sys2Proof/Machine/Swap.lean ====
section
/-! DEFINITION. The routing tables of the network: the checker, the swap and its commands (R292, R299-R301). -/

namespace Sys2Proof.Machine

/-! ### Routes (R292, R300) -/

/-- Torus column and row of a router (R292). -/
def routerX (n : Nat) : Nat := 4 * (n / 16 % 2) + n % 16 % 4

/-- Torus row of a router (R292). -/
def routerY (n : Nat) : Nat := 4 * (n / 32) + n % 16 / 4

/-- The router at a torus position. -/
def routerAt (x y : Nat) : Nat := 16 * (2 * (y / 4) + x / 4) + 4 * (y % 4) + x % 4

/-- The router that output `out` of a router leads to: 0 E, 1 W, 2 N, 3 S. -/
def hopTo (n out : Nat) : Nat :=
  match out with
  | 0 => routerAt ((routerX n + 1) % 8) (routerY n)
  | 1 => routerAt ((routerX n + 7) % 8) (routerY n)
  | 2 => routerAt (routerX n) ((routerY n + 7) % 8)
  | _ => routerAt (routerX n) ((routerY n + 1) % 8)

/-- The hops of a route, each with its router, and the router at which it arrives within `fuel` hops. -/
def walkRoute (next : Nat → Nat) : Nat → Nat → List (Nat × Nat) × Option Nat
  | 0, cur => ([], if next cur = 4 then some cur else none)
  | n + 1, cur =>
    if next cur = 4 then ([], some cur)
    else
      let w := walkRoute next n (hopTo cur (next cur))
      ((cur, next cur) :: w.1, w.2)

/-- The first rule of R300 that a route to `d` breaks, or 0. -/
def routeRule (down : List (Nat × Bool)) (d : Nat) (w : List (Nat × Nat) × Option Nat) : Nat :=
  let outs := w.1.map (fun h => h.2)
  let xs := outs.filter (fun o => decide (o < 2))
  let ys := outs.filter (fun o => decide (2 ≤ o))
  if w.2 ≠ some d then 1
  else if outs ≠ xs ++ ys then 2
  else if (xs.contains 0 && xs.contains 1) || (ys.contains 2 && ys.contains 3) then 3
  else if 7 < xs.length ∨ 7 < ys.length then 4
  else if w.1.any (fun h => mget false down (4 * h.1 + h.2)) then 5
  else 0

/-- The pending entry of a router for a destination. -/
def State.tblPend (s : State) (n d : Nat) : Nat := s.fld F.NOC_TBL_PEND.OUT n d

/-- The active entry. -/
def State.tblAct (s : State) (n d : Nat) : Nat := s.fld F.NOC_TBL_ACT.OUT n d

/-- The rule that the route from `n` to `d` breaks: of the pending tables, and under IMMEDIATE also of the route whose
first hop follows the active table. -/
def pairRule (s : State) (immediate : Bool) (n d : Nat) : Nat :=
  let next := fun c => s.tblPend c d
  let a := routeRule s.net.down d (walkRoute next 14 n)
  if a ≠ 0 ∨ immediate = false ∨ s.tblAct n d = 4 then a
  else
    let w := walkRoute next 13 (hopTo n (s.tblAct n d))
    routeRule s.net.down d ((n, s.tblAct n d) :: w.1, w.2)

/-- The first failing pair, with its rule: source routers in order, and for each the destinations in order. -/
def checkTables (s : State) (immediate : Bool) : Option (Nat × Nat × Nat) :=
  ((List.range 4096).find? (fun k => pairRule s immediate (k / 64) (k % 64) != 0)).map
    (fun k => (k / 64, k % 64, pairRule s immediate (k / 64) (k % 64)))

/-! ### The swap (R301) -/

/-- NOC_SWAP_STAT.STATE: 0 idle, 1 checking, 2 waiting for empty buffers, 3 waiting for the boundary. -/
def State.swapState (s : State) : Nat := s.fld F.NOC_SWAP_STAT.STATE

/-- A request ends with a result: 0 OK, 1 TABLE_BAD, 2 TIMEOUT, 4 CANCELLED. -/
def swapEnd (s : State) (res : Nat) : State := (s.setFld F.NOC_SWAP_STAT.RES 0 0 res).setFld F.NOC_SWAP_STAT.STATE 0 0 0

/-- The active table of one router takes the pending one, which stays its copy. -/
def swapRouter (m : List (Nat × Word)) (n : Nat) : List (Nat × Word) :=
  let a := regAddr .NOC_TBL_ACT n 0
  let b := regAddr .NOC_TBL_PEND n 0
  (m.filter (fun e => decide (b ≤ e.1) && decide (e.1 < b + 512))).foldl (fun m e => minsert m (e.1 - b + a) e.2) (mclear m a 512)

/-- What is unacknowledged belongs to requests injected before the swap (R303). -/
def markOld (s : State) : State :=
  { s with resps := s.resps.map (fun x => { x with old := true })
           queues := s.queues.map (fun e => (e.1, { e.2 with waiting := e.2.waiting.map (fun p => { p with old := true }) })) }

/-- The swap takes effect. -/
def swapNow (s : State) : State :=
  let s1 := markOld s
  swapEnd ({ s1 with regs := (List.range 64).foldl swapRouter s1.regs }.addWrap F.NOC_SWAP_STAT.COUNT 0 0) 0

/-- Whether the route from one router to another uses a link that is down (R304). -/
def routeDown (s : State) (a b : Nat) : Bool :=
  !s.net.down.isEmpty && (walkRoute (fun c => s.tblAct c b) 14 a).1.any (fun h => mget false s.net.down (4 * h.1 + h.2))

/-- Whether every request and response buffer is empty: no response is on its way. -/
def buffersEmpty (s : State) : Bool := s.resps.isEmpty

/-- While strides do not run, a swap takes effect as soon as it can (R301 step 4). -/
def swapIfStopped (s : State) : State :=
  if s.time.running then s
  else if s.swapState = 3 ∨ (s.swapState = 2 ∧ buffersEmpty s = true) then swapNow s
  else s

/-- A QUIESCE that did not empty the buffers in time (R301). -/
def swapTimeout (s : State) : State := (swapEnd s 2).emitDev 0x5202

/-- The swap at the start of boundary step 0 (R301). -/
def swapAtBoundary (s : State) : State :=
  match s.swapState with
  | 3 => swapNow s
  | 2 => if buffersEmpty s then swapNow s else if s.fld F.NOC_SWAP.TIMEOUT = 0 then swapTimeout s else s
  | _ => s

/-- SWAP: a request begins with its check, or is refused with BUSY. -/
def swapCmd (s : State) (immediate : Bool) (timeout : Nat) : State :=
  if s.swapState ≠ 0 then s.setFld F.NOC_SWAP_STAT.RES 0 0 3
  else ((s.setFld F.NOC_SWAP.MODE 0 0 (flag immediate)).setFld F.NOC_SWAP.TIMEOUT 0 0 timeout).setFld F.NOC_SWAP_STAT.STATE 0 0 1

/-- SWAP (R301). -/
def execSwap (immediate : Bool) (timeout : BitVec 10) (s : State) : Host.Outcome State Fault Refusal :=
  .next (swapCmd s immediate timeout.toNat)

/-- CANCEL ends a waiting request. -/
def swapCancel (s : State) : State := if s.swapState = 0 then s else swapEnd s 4

/-- A write of NOC_SWAP; the other commands are reserved (R6). -/
def writeSwap (s : State) (w : Word) : State :=
  let n := w.toNat
  match bitsOf n 39 38 with
  | 1 => swapCmd s (bitOf n 37) (bitsOf n 9 0)
  | 2 => swapCancel (s.writeDefault .NOC_SWAP 0 0 w)
  | _ => s.writeDefault .NOC_SWAP 0 0 w

/-- TABLE_CHECK_DONE: the check ends the request, or the swap proceeds (R301). -/
def tableCheckDone (s : State) : State :=
  if s.swapState ≠ 1 then s
  else
    let immediate := s.on F.NOC_SWAP.MODE
    match checkTables s immediate with
    | some (n, d, rule) =>
      let s1 := (s.setFld F.NOC_SWAP_STAT.SRC 0 0 n).setFld F.NOC_SWAP_STAT.DST 0 0 d
      (swapEnd (s1.setFld F.NOC_SWAP_STAT.RULE 0 0 rule) 1).emitDev 0x5201
    | none =>
      let s1 := s.setFld F.NOC_SWAP_STAT.RULE 0 0 0
      swapIfStopped (s1.setFld F.NOC_SWAP_STAT.STATE 0 0 (if immediate then 3 else 2))

end Sys2Proof.Machine
end

