-- ==== Sys2Proof/Machine/Mem.lean ====
section
/-! DEFINITION. Main memory: blocks, the check field, reads, writes, initialisation, scrub and repair (R312-R323). -/

namespace Sys2Proof.Machine

/-! ### The Reed–Solomon check field (R314) -/

/-- Multiplication by α = 2 in GF(2⁸) modulo x⁸ + x⁴ + x³ + x² + 1. -/
def gfTwice (a : Nat) : Nat := if a < 128 then 2 * a else (2 * a - 256) ^^^ 0x1D

/-- The product of two field elements, over the low `n` bits of `b`. -/
def gfMulBits : Nat → Nat → Nat → Nat
  | 0, _, _ => 0
  | n + 1, a, b => (if b % 2 = 1 then a else 0) ^^^ gfMulBits n (gfTwice a) (b / 2)

/-- The product of two field elements. -/
def gfMul (a b : Nat) : Nat := gfMulBits 8 a b

/-- α to the power `n`. -/
def gfAlpha : Nat → Nat
  | 0 => 1
  | n + 1 => gfTwice (gfAlpha n)

/-- A power of a field element. -/
def gfPow (a : Nat) : Nat → Nat
  | 0 => 1
  | n + 1 => gfMul a (gfPow a n)

/-- The inverse of a nonzero field element. -/
def gfInv (a : Nat) : Nat := gfPow a 254

/-- One step of the division by g(x) = x⁴ + 15x³ + 54x² + 120x + 64: the remainder after one more data byte. -/
def rsStep (r : Nat × Nat × Nat × Nat) (d : Nat) : Nat × Nat × Nat × Nat :=
  let f := d ^^^ r.1
  (r.2.1 ^^^ gfMul 15 f, r.2.2.1 ^^^ gfMul 54 f, r.2.2.2 ^^^ gfMul 120 f, gfMul 64 f)

/-- The four check bytes of a block's data bytes (R314). -/
def rsParity (data : List Nat) : List Nat :=
  if data.all (· == 0) then [0, 0, 0, 0]
  else
    let r := data.foldl rsStep (0, 0, 0, 0)
    [r.1, r.2.1, r.2.2.1, r.2.2.2]

/-- Syndrome of a block at the root x. -/
def rsSyndrome (x : Nat) (bytes : List Nat) : Nat := bytes.foldl (fun a b => gfMul a x ^^^ b) 0

/-- The single-byte error that explains the syndromes: its byte and value. -/
def rsSingle (s0 s1 s2 s3 : Nat) : Option (Nat × Nat) :=
  ((List.range 64).find? (fun i =>
    let x := gfAlpha (63 - i)
    gfMul s0 x == s1 && gfMul s1 x == s2 && gfMul s2 x == s3)).map (fun i => (i, s0))

/-- The pair of byte errors that explains the syndromes. -/
def rsDouble (s0 s1 s2 s3 : Nat) : Option ((Nat × Nat) × (Nat × Nat)) :=
  (List.range 64).findSome? (fun i =>
    (List.range i).findSome? (fun j =>
      let xi := gfAlpha (63 - i)
      let xj := gfAlpha (63 - j)
      let s := xi ^^^ xj
      let p := gfMul xi xj
      if (s2 ^^^ gfMul s1 s ^^^ gfMul s0 p) == 0 && (s3 ^^^ gfMul s2 s ^^^ gfMul s1 p) == 0 then
        let ej := gfMul (s1 ^^^ gfMul s0 xi) (gfInv s)
        if ej = 0 ∨ (s0 ^^^ ej) = 0 then none else some ((i, s0 ^^^ ej), (j, ej))
      else none))

/-- A byte of a block corrected. -/
def fixByte (bytes : List Nat) (e : Nat × Nat) : List Nat :=
  bytes.take e.1 ++ [(bytes.getD e.1 0) ^^^ e.2] ++ bytes.drop (e.1 + 1)

/-- What a read of a block finds (R315): the bytes the reader receives, and 0 no error, 1 corrected, 2 uncorrectable. -/
def rsDecode (bytes : List Nat) : List Nat × Nat :=
  if bytes.all (· == 0) then (bytes, 0)
  else
    let s0 := rsSyndrome 1 bytes
    let s1 := rsSyndrome 2 bytes
    let s2 := rsSyndrome 4 bytes
    let s3 := rsSyndrome 8 bytes
    if s0 == 0 && s1 == 0 && s2 == 0 && s3 == 0 then (bytes, 0)
    else match rsSingle s0 s1 s2 s3 with
      | some e => (fixByte bytes e, 1)
      | none =>
        match rsDouble s0 s1 s2 s3 with
        | some (e, f) => (fixByte (fixByte bytes e) f, 1)
        | none => (bytes, 2)

/-! ### Words and bytes of a block (R26, R27) -/

/-- `n` bytes of memory from an address. -/
def bytesAt (m : List Host.Cell) (a n : Nat) : List Nat := (List.range n).map (fun i => (readByte m (a + i)).toNat)

/-- A list of bytes written from an address. -/
def putBytes (a : Nat) : List Nat → List Host.Cell → List Host.Cell
  | [], m => m
  | b :: bs, m => putBytes (a + 1) bs (writeByte m a (BitVec.ofNat 8 b))

/-- The bytes of a word, least significant first. -/
def wordBytes (w : Word) : List Nat := (List.range 5).map (fun i => bitsOf w.toNat (8 * i + 7) (8 * i))

/-- The word that five bytes make. -/
def bytesWord (bs : List Nat) : Word := BitVec.ofNat 40 (bs.foldr (fun b n => b + 256 * n) 0)

/-- The data bytes of twelve words. -/
def wordsBytes (ws : List Word) : List Nat := ws.flatMap wordBytes

/-- The twelve words of a block's bytes. -/
def bytesWords (bs : List Nat) : List Word := (List.range 12).map (fun k => bytesWord ((bs.drop (5 * k)).take 5))

/-! ### Where a block lies (R11, R312) -/

/-- Whether an address lies in main memory. -/
def isMain (a : Nat) : Bool := decide (a < 0x2000000000)

/-- The region that serves a main-memory address. -/
def memRegion (a : Nat) : Nat := a / 0x800000000

/-- The port of the region, MP0 to MP3. -/
def memPort (a : Nat) : Nat := bitsOf a 13 12

/-- The region channel of an address. -/
def memChannel (a : Nat) : Nat := 2 * memPort a + bitsOf a 6 6

/-- The row of an address, with its channel and bank. -/
def memRow (a : Nat) : Nat := memChannel a * 2 ^ 21 + bitsOf a 16 14 * 2 ^ 18 + bitsOf a 34 17

/-- Whether the node that serves a main-memory address takes requests (R307, R323). -/
def memOnline (s : State) (a : Nat) : Bool := s.fld F.NOC_RSTAT.NODE_S (16 * memRegion a + memPort a) == 0

/-- The memory state of a region. -/
def State.memSt (s : State) (r : Nat) : MemSt := mget {} s.mems r

/-- The state with a region's memory state set. -/
def State.setMemSt (s : State) (r : Nat) (m : MemSt) : State := { s with mems := mset {} s.mems r m }

/-! ### Events and repair (R336, R322) -/

/-- A memory event of class `kind` (1 to 5): the first while its bit is clear is captured and reported (R336). -/
def memEvent (s : State) (r kind ch src addr : Nat) : State :=
  if bitOf (s.fld F.MEM_STATUS.EVT r) (kind - 1) then s
  else
    let s1 := s.setReg .MEM_FIRST r 0 (BitVec.ofNat 40 (kind * 2 ^ 37 + ch % 8 * 2 ^ 34 + src % 256 * 2 ^ 26))
    let s2 := s1.setReg .MEM_FIRST_ADDR r 0 (BitVec.ofNat 40 (addr / 64 * 64))
    let s3 := s2.setReg .MEM_FIRST_STRIDE r 0 (BitVec.ofNat 40 s.time.strideNum)
    (s3.orFld F.MEM_STATUS.EVT r 0 (kind - 1)).emitRegion (0x4600 + kind) r

/-- Whether a repair entry of region `r` redirects a row. -/
def repairsRow (s : State) (r n row : Nat) : Bool :=
  s.on F.MEM_REPAIR.VALID r n && decide (n / 4 * 2 ^ 21 + s.fld F.MEM_REPAIR.BANK r n * 2 ^ 18 + s.fld F.MEM_REPAIR.ROW r n = row)

/-- Whether a row of the region is already repaired. -/
def rowRepaired (s : State) (r row : Nat) : Bool := (List.range 32).any (fun n => repairsRow s r n row)

/-- A row that reached 16 corrected reads takes the lowest free entry of its channel, or reports MEM_REPAIR_FAIL (R322). -/
def autoRepairRow (s : State) (r row src addr : Nat) : State :=
  let ch := row / 2 ^ 21
  if rowRepaired s r row then s
  else match (List.range 4).find? (fun i => !(s.on F.MEM_REPAIR.VALID r (4 * ch + i))) with
    | none => memEvent s r 4 ch src addr
    | some i =>
      let n := 4 * ch + i
      let w := BitVec.ofNat 40 (2 ^ 39 + 2 ^ 37 + row % 2 ^ 21)
      let m := s.memSt r
      (s.setReg .MEM_REPAIR r n w).setMemSt r { m with copying := m.copying ++ [n] }

/-- A corrected read is counted (R315), and under AUTO_REPAIR its row in the scrub pass (R322). -/
def countCorrected (s : State) (a src : Nat) : State :=
  let r := memRegion a
  let s1 := s.addSat F.MEM_CE_CNT.COUNT r 0
  let m := s1.memSt r
  let n := mget 0 m.ceRows (memRow a) + 1
  let s2 := s1.setMemSt r { m with ceRows := mset 0 m.ceRows (memRow a) n }
  if s2.on F.MEM_CTRL.AUTO_REPAIR r && n == 16 then autoRepairRow s2 r (memRow a) src a else s2

/-! ### Requests to a block (R315-R317) -/

/-- A block read and corrected by its port: its 64 bytes, whether they are good, and the state after the correction
write-back (R315). `kind` is the event of an uncorrectable block, 1 MEM_UE or 2 MEM_SCRUB_UE. -/
def memFixBlock (s : State) (a src : Nat) (kind : Nat := 1) : (List Nat × Bool) × State :=
  let b := a / 64 * 64
  let raw := bytesAt s.mem b 64
  let d := rsDecode raw
  match d.2 with
  | 0 => ((raw, true), s)
  | 1 => ((d.1, true), countCorrected { s with mem := putBytes b d.1 s.mem } a src)
  | _ => ((raw, false), memEvent s (memRegion a) kind (memChannel a) src a)

/-- A block read by a source: as stored in the diagnostic view, and corrected outside it (R315, R316). -/
def memReadBlock (s : State) (a src : Nat) : (List Nat × Bool) × State :=
  if s.on F.MEM_CTRL.DIAG (memRegion a) then ((bytesAt s.mem (a / 64 * 64) 64, true), s) else memFixBlock s a src

/-- A whole block written: the check field is computed, or given by the source that DIAG_SRCID names under DIAG
(R314, R316). -/
def memWriteBlock (s : State) (a src : Nat) (data : List Nat) (check : Option (List Nat) := none) : State :=
  let r := memRegion a
  let ck :=
    match check with
    | some c => if s.on F.MEM_CTRL.DIAG r && s.fld F.MEM_CTRL.DIAG_SRCID r == src then c else rsParity data
    | none => rsParity data
  { s with mem := putBytes (a / 64 * 64) (data ++ ck) s.mem }

/-- Words of a block replaced where `wen` names them, in ascending order. -/
def mergeWords (wen : Nat) : Nat → List Word → List Word → List Word
  | _, [], _ => []
  | i, w :: ws, vs =>
    match bitOf wen i, vs with
    | true, v :: vs' => v :: mergeWords wen (i + 1) ws vs'
    | _, vs => w :: mergeWords wen (i + 1) ws vs

/-- A partial write: an atomic read-modify-write of the named words; an uncorrectable block is left and answered with
DATA_ERR (R317). -/
def memWritePart (s : State) (a src wen : Nat) (vs : List Word) : Nat × State :=
  let r := memFixBlock s a src
  if r.1.2 then
    let ws := mergeWords wen 0 (bytesWords r.1.1) vs
    (0, memWriteBlock r.2 a src (wordsBytes ws))
  else (3, r.2)

/-- Words written in the stream order of block form, one after another from a block address: whole blocks (R170). -/
def memWriteBlocks (s : State) (a src : Nat) : List (List Word) → State
  | [] => s
  | b :: bs => memWriteBlocks (memWriteBlock s a src (wordsBytes b)) (a + 64) src bs

/-- Whether `n` blocks from an address lie in main memory. -/
def blocksInMain (a n : Nat) : Bool := decide (a % 64 = 0) && decide (a + 64 * n ≤ 0x2000000000)

/-- Status of a write to a main-memory block: DOMAIN_OFFLINE when its port is offline (R323). -/
def memAccess (s : State) (a : Nat) : Nat := if !isMain a then 1 else if memOnline s a then 0 else 2

/-! ### Scrub (R321) -/

/-- A port reads a block in class M and corrects it (R321). -/
def scrubBlock (s : State) (a : Nat) : State := (memFixBlock s a 0xFF 2).2

/-- The scrub of a region reads its next block; after the last block a pass is complete (R321). -/
def execMemoryScrub (region : Region) (s : State) : Host.Outcome State Fault Refusal :=
  let m := s.memSt region
  if s.on F.MEM_CTRL.SCRUB_EN region && memOnline s (region * 0x800000000) then
    let s1 := scrubBlock s (region * 0x800000000 + 64 * m.scrubPos)
    let m1 := s1.memSt region
    if m.scrubPos + 1 < 2 ^ 29 then .next (s1.setMemSt region { m1 with scrubPos := m.scrubPos + 1 })
    else .next ((s1.setMemSt region { m1 with scrubPos := 0, ceRows := [] }).addWrap F.MEM_SCRUB.PASSES region 0)
  else .next s

/-! ### Initialisation (R320) -/

/-- MEM_INIT_CTRL written (R320): GO starts writing zeros, completes at once for LEN = 0, or is refused. -/
def writeMemInit (s : State) (r : Nat) (w : Word) : State :=
  if bitOf w.toNat 39 then
    let base := s.fld F.MEM_INIT_BASE.ADDR r * 64
    let n := s.fld F.MEM_INIT_LEN.BLOCKS r
    let m := s.memSt r
    let bad := m.initRun.isSome || decide (memRegion base ≠ r) || decide ((r + 1) * 0x800000000 < base + 64 * n)
    let s1 := s.setFld F.MEM_INIT_CTRL.REFUSED r 0 (flag bad)
    if bad || n == 0 then s1
    else (s1.setMemSt r { m with initRun := some (base, n) }).setFld F.MEM_STATUS.INIT_BUSY r 0 1
  else s

/-- MEM_INIT: a write of GO (R320). -/
def execMemInit (region : Region) (s : State) : Host.Outcome State Fault Refusal :=
  .next (writeMemInit s region 0x8000000000#40)

/-- The zeros of an initialisation land (R320). -/
def execMemInitDone (region : Region) (s : State) : Host.Outcome State Fault Refusal :=
  let m := s.memSt region
  match m.initRun with
  | none => .next s
  | some (base, n) =>
    let s1 := { s with mem := mclear s.mem base (64 * n) }
    .next ((s1.setMemSt region { m with initRun := none }).setFld F.MEM_STATUS.INIT_BUSY region 0 0)

/-! ### Soft repair (R322) -/

/-- MEM_REPAIR written (R322): VALID = 1 begins the copy of the row into its spare, or is refused as a duplicate;
while VALID = 1 the BANK and ROW fields keep their values; VALID = 0 removes the redirection. -/
def writeMemRepair (s : State) (r n : Nat) (w : Word) : State :=
  let v := w.toNat
  let bank := if s.on F.MEM_REPAIR.VALID r n then s.fld F.MEM_REPAIR.BANK r n else bitsOf v 20 18
  let row := if s.on F.MEM_REPAIR.VALID r n then s.fld F.MEM_REPAIR.ROW r n else bitsOf v 17 0
  let m := s.memSt r
  if bitOf v 39 then
    if s.on F.MEM_REPAIR.VALID r n then s
    else
      let key := n / 4 * 2 ^ 21 + bank * 2 ^ 18 + row
      if rowRepaired s r key then
        s.setReg .MEM_REPAIR r n (BitVec.ofNat 40 (2 ^ 36 + bank * 2 ^ 18 + row))
      else (s.setReg .MEM_REPAIR r n (BitVec.ofNat 40 (2 ^ 39 + bank * 2 ^ 18 + row))).setMemSt r
        { m with copying := m.copying ++ [n] }
  else (s.setReg .MEM_REPAIR r n (BitVec.ofNat 40 (bank * 2 ^ 18 + row))).setMemSt r
    { m with copying := m.copying.filter (· != n) }

/-- A write of MEM_REPAIR (R322). -/
def execMemoryRepair (region : Region) (index : Fin 32) (value : Word) (s : State) : Host.Outcome State Fault Refusal :=
  .next (writeMemRepair s region index value)

/-- The row copy of a repair entry completes and the redirection takes force (R322). -/
def execMemoryRepairDone (region : Region) (index : Fin 32) (s : State) : Host.Outcome State Fault Refusal :=
  let m := s.memSt region
  if m.copying.contains index.val then
    .next ((s.setMemSt region { m with copying := m.copying.filter (· != index.val) }).setFld
      F.MEM_REPAIR.DONE region index 1)
  else .next s

/-- A port counts a shortfall of a channel's reservation; the first while the event bit is clear is reported (R319). The
requester is an acquisition controller; which one, and at which block of the channel, the command does not say: free values
(log entry 81). -/
def execMemBwShort (region : Region) (channel : Fin 8) (s : State) : Host.Outcome State Fault Refusal :=
  let a := s.fresh.toNat % 2 ^ 34
  .next (memEvent (s.used.addSat F.MEM_RES_STAT.SHORT region 0) region 3 channel (0x44 + a % 4) (64 * a))

end Sys2Proof.Machine
end

