-- ==== Sys2Proof/Machine/Packet.lean ====
section
/-! DEFINITION. Packets on the network: what the probes see of them (R296, R308, R309), and the whole-block requests of the
units that stream to and from main memory (R18). -/

namespace Sys2Proof.Machine

/-! ### Probes (R308, R309) -/

/-- The port behind which a source sits, 2·router + (0 local, 1 service) (Tables 12.1 and 12.2). -/
def srcPort (src : Nat) : Nat :=
  let svc (r t : Nat) : Nat := 2 * (16 * (r % 4) + t) + 1
  if src < 0x40 then 2 * src
  else match src / 4 with
    | 0x10 => svc src 13
    | 0x11 => svc src 12
    | 0x12 => svc src 12
    | 0x13 => svc src 15
    | 0x14 => svc src 4
    | 0x15 => svc src 13
    | _ => if src = 0x5A then svc 2 14 else svc 0 14

/-- A packet as its head flit shows it: class, operation, source identifier, the ports it goes from and to, its payload
words, W1 and the tag. -/
structure Pkt where
  cls   : Nat
  op    : Nat
  srcid : Nat
  from_ : Nat
  dest  : Nat
  load  : Nat
  addr  : Nat
  tag   : Nat
  deriving DecidableEq, Repr

/-- Flits of a packet (R296). -/
def Pkt.flits (p : Pkt) : Nat := 1 + (p.load - 4 + 7) / 8

/-- Whether a link is a wrap link (R292). -/
def wrapLink (n out : Nat) : Bool :=
  match out with
  | 0 => routerX n == 7
  | 1 => routerX n == 0
  | 2 => routerY n == 0
  | _ => routerY n == 7

/-- The virtual channel on which a packet enters each router of its hops (R298). -/
def hopVcs : Nat → Bool → List (Nat × Nat) → List (Nat × Nat × Nat)
  | _, _, [] => []
  | vc, inX, (n, out) :: hs =>
    let v := if inX && decide (2 ≤ out) then 0 else vc
    (n, out, vc) :: hopVcs (if wrapLink n out then 1 else v) (decide (out < 2)) hs

/-- The points a packet passes: router, POINT, the output it takes there and its virtual channel (R298, R299, R308). CTL
packets take the default route. -/
def pktPoints (s : State) (p : Pkt) : List (Nat × Nat × Nat × Nat) :=
  let src := p.from_ / 2
  let dst := p.dest / 2
  let next (c : Nat) : Nat := if p.cls = 2 then defaultRoute c dst else s.tblAct c dst
  let hs := hopVcs 0 true (walkRoute next 14 src).1
  let last := hs.getLast?.map (fun h => if wrapLink h.1 h.2.1 then 1 else h.2.2) |>.getD 0
  let first := (hs.head?.map (fun h => h.2.1)).getD (4 + p.dest % 2)
  (src, 6 + p.from_ % 2, first, 0) :: hs.map (fun h => (h.1, h.2.1, h.2.1, h.2.2)) ++ [(dst, 4 + p.dest % 2, 4 + p.dest % 2, last)]

/-- Whether the filter of a router's probe matches a packet. -/
def probeHit (s : State) (n : Nat) (p : Pkt) : Bool :=
  (s.on F.NOC_PRB_FILT.CLASS_ANY n || s.fld F.NOC_PRB_FILT.CLASS n == p.cls) &&
  (s.on F.NOC_PRB_FILT.OP_ANY n || s.fld F.NOC_PRB_FILT.OP n == p.op) &&
  (s.on F.NOC_PRB_FILT.SRC_ANY n || s.fld F.NOC_PRB_FILT.SRCID n == p.srcid) &&
  (s.on F.NOC_PRB_FILT.DST_ANY n || s.fld F.NOC_PRB_FILT.DST n == p.dest / 2)

/-- A counter of a probe advances: packets or flits; how long a flit waits is timing, and no flit waits here (log entry 9). -/
def probeCount (s : State) (n i mode flits : Nat) : State :=
  match mode with
  | 1 => s.addSat F.NOC_PRB_CNT.NUM n i
  | 2 => s.addSat F.NOC_PRB_CNT.NUM n i flits
  | _ => s

/-- Head word W0 of a packet at a router (Table 12.4). Whether a port with a reservation takes a packet under it depends on
its token bucket, and the bit is a free value then. -/
def headWord0 (s : State) (p : Pkt) (la vc : Nat) : Word :=
  let rsv := if p.from_ % 2 = 0 then s.fld F.NOC_RES.LOCAL (p.from_ / 2) else s.fld F.NOC_RES.SVC (p.from_ / 2)
  let res := if p.cls = 0 ∧ rsv ≠ 0 then flag (s.fresh.getLsbD 0) else 0
  BitVec.ofNat 40 (p.cls * 2 ^ 38 + vc * 2 ^ 37 + la * 2 ^ 34 + p.dest / 2 * 2 ^ 28 + p.dest % 2 * 2 ^ 27 + p.from_ / 2 * 2 ^ 21
    + p.from_ % 2 * 2 ^ 20 + p.srcid % 256 * 2 ^ 12 + p.op * 2 ^ 7 + (p.flits - 1) * 2 ^ 3 + res * 2 ^ 2)

/-- A record of a matching head flit is staged at the region's collector, or dropped when 64 are staged (R309). -/
def stageRecord (s : State) (n point : Nat) (p : Pkt) (la vc : Nat) : State :=
  let r := n / 16
  if !s.on F.NOC_PC_CTRL.EN r then s
  else if 64 ≤ (s.net.staged.filter (fun e => e.1 == r)).length then s.addSat F.NOC_PC_DROP.NUM r 0
  else
    let ws := [headWord0 s p la vc, BitVec.ofNat 40 (if p.cls = 0 then p.addr else 0),
      BitVec.ofNat 40 (p.tag % 2 ^ 16 * 2 ^ 24 + n * 2 ^ 18 + point * 2 ^ 15), BitVec.ofNat 40 (fracOf s.instant)]
    { s.used with net := { s.net with staged := s.net.staged ++ [(r, ws)] } }

/-- A packet at one point. -/
def observe (p : Pkt) (s : State) (h : Nat × Nat × Nat × Nat) : State :=
  let n := h.1
  if s.fld F.NOC_PRB_CFG.POINT n = h.2.1 ∧ probeHit s n p = true then
    let s1 := probeCount s n 0 (s.fld F.NOC_PRB_CFG.MODE0 n) p.flits
    let s2 := probeCount s1 n 1 (s.fld F.NOC_PRB_CFG.MODE1 n) p.flits
    if s.on F.NOC_PRB_CFG.TRACE n then stageRecord s2 n h.2.1 p h.2.2.1 h.2.2.2 else s2
  else s

/-- Whether any probe is set up. -/
def probing (s : State) : Bool := (List.range 64).any (fun n => s.reg .NOC_PRB_CFG n != 0)

/-- A packet travels from its port to its port past the probes. -/
def travel (s : State) (p : Pkt) : State := if probing s then (pktPoints s p).foldl (observe p) s else s

/-- A CTL packet travels. Which SRCID the packets of a port carry is not stated: a free value (log entry 37). -/
def travelCtl (s : State) (op from_ dest : Nat) : State :=
  if probing s then travel s.used ⟨2, op, s.fresh.toNat % 256, from_, dest, 1, 0, 0⟩ else s

/-- The leased entries that the port of a source holds of a node. -/
def heldOf (s : State) (src node : Nat) : Nat := mget 0 s.net.held (128 * srcPort src + node)

/-- The entry that a request consumes is free again once the node begins to serve it (R18, R302). A port that holds none is
granted one for the request and a response slot in the same step (log entry 43). -/
def useEntry (s : State) (src node : Nat) : State :=
  let k := 128 * srcPort src + node
  if heldOf s src node = 0 then s
  else { s with net := { s.net with held := mset 0 s.net.held k (heldOf s src node - 1)
                                    granted := mset 0 s.net.granted node (mget 0 s.net.granted node - 1) } }

/-- The entries of a node that pushes which wait at full queues keep (R124, R302). -/
def entriesWaiting (s : State) (node : Nat) : Nat :=
  if node % 2 = 0 then
    ((List.range 16).map (fun q => ((s.q (node / 2) q).waiting.filter (fun p => p.ack)).length)).foldl (· + ·) 0
  else 0

/-! ### Requesters under reset (R401) -/

/-- A reset of the requester that `mine` names by source and tag: what its port still holds uninjected is discarded, and
what is still to arrive for it is discarded on arrival. -/
def orphan (s : State) (mine : Nat → Nat → Bool) : State :=
  { s with
    resps := s.resps.map (fun x => { x with late := x.late || mine x.dst x.tag })
    queues := s.queues.map (fun e =>
      (e.1, { e.2 with waiting := e.2.waiting.map (fun p => { p with late := p.late || mine p.src p.tag }) }))
    net := { s.net with waitReq := s.net.waitReq.filter (fun q => !mine q.src q.tag)
                        accepted := s.net.accepted.map (fun q => { q with late := q.late || mine q.src q.tag }) } }

/-! ### Blocks over the network (R18) -/

/-- The node that serves a main-memory address (R295). -/
def memNode (a : Nat) : Nat := 2 * (16 * memRegion a + memPort a) + 1

/-- A request of `load` payload words for a main-memory block and its answer of `back` words pass the probes; `act` is what
the memory port does between them. -/
def overNet {α : Type} (s : State) (op src tag a load back : Nat) (act : State → α × State) : α × State :=
  let from_ := srcPort src
  let x := act (travel (useEntry s src (memNode a)) ⟨0, op, src, from_, memNode a, load, a, tag⟩)
  (x.1, travel x.2 ⟨1, if op < 2 then 8 else 9, src, memNode a, from_, back, 0, tag⟩)

/-- A block read by a unit of the module (R18, R315). -/
def netReadBlock (s : State) (a src : Nat) (tag : Nat := 0) : (List Nat × Bool) × State :=
  overNet s 1 src tag a 0 12 (fun s => memReadBlock s a src)

/-- A whole block written by a unit of the module (R18, R314). -/
def netWriteBlock (s : State) (a src : Nat) (data : List Nat) (tag : Nat := 0) : State :=
  (overNet s 3 src tag a 12 0 (fun s => ((), memWriteBlock s a src data))).2

/-- Words of a block written by a unit of the module (R18, R317): the status. -/
def netWritePart (s : State) (a src wen : Nat) (ws : List Word) (tag : Nat := 0) : Nat × State :=
  overNet s 2 src tag a ws.length 0 (fun s => memWritePart s a src wen ws)

end Sys2Proof.Machine
end

