-- ==== Sys2Proof/Machine/Proc.lean ====
section
/-! DEFINITION. A processor's registers, memories and interrupt sources (R144-R147, R158, R178). Processors 0 to 63
are the stream engines, 64 to 67 the supervisors. -/

namespace Sys2Proof.Machine

/-- Whether a processor is a supervisor. -/
def isSup (p : Nat) : Bool := decide (64 ≤ p)

/-- The unit of the processor's register block: flat tile or region. -/
def procUnit (p : Nat) : Nat := if isSup p then p - 64 else p

/-- The region of a processor. -/
def procRegion (p : Nat) : Nat := if isSup p then p - 64 else p / 16

/-- The trace source of a processor in its region (R196). -/
def procSrc (p : Nat) : Nat := if isSup p then 16 else p % 16

/-- The processor of a trace source of a region. -/
def srcProc (r i : Nat) : Nat := if i = 16 then 64 + r else 16 * r + i

/-- A field of the SE_ or SUP_ block. -/
def State.pf (s : State) (p : Nat) (se sup : Fld) (i : Nat := 0) : Nat := s.fld (if isSup p then sup else se) (procUnit p) i

/-- The state with a field of the SE_ or SUP_ block set. -/
def State.setPf (s : State) (p : Nat) (se sup : Fld) (v : Nat) (i : Nat := 0) : State :=
  s.setFld (if isSup p then sup else se) (procUnit p) i v

/-- The processor's state beside its registers. -/
def State.proc (s : State) (p : Nat) : ProcSt := mget {} s.procs p

/-- The state with a processor's state set. -/
def State.setProc (s : State) (p : Nat) (v : ProcSt) : State := { s with procs := mset {} s.procs p v }

/-- SE_STATUS.STATE: 0 HALTED, 1 RUN, 2 HURDLE, 3 WAITI, 4 WAITC, 5 FAULT. -/
def State.pstate (s : State) (p : Nat) : Nat := s.pf p F.SE_STATUS.STATE F.SUP_STATUS.STATE

/-- The state with SE_STATUS.STATE set. -/
def State.setPstate (s : State) (p v : Nat) : State := s.setPf p F.SE_STATUS.STATE F.SUP_STATUS.STATE v

/-- SE_PC. -/
def State.ppc (s : State) (p : Nat) : Nat := s.pf p F.SE_PC.PC F.SUP_PC.PC

/-- The state with SE_PC set. -/
def State.setPpc (s : State) (p v : Nat) : State := s.setPf p F.SE_PC.PC F.SUP_PC.PC v

/-- Words of instruction memory. -/
def imemWords (p : Nat) : Nat := if isSup p then 32768 else 16384

/-- Words of data memory. -/
def dmemWords (p : Nat) : Nat := if isSup p then 65536 else 131072

/-- Whether the shadow bank is in force: the processor is in a FAST handler (R161). -/
def State.inFast (s : State) (p : Nat) : Bool := s.pf p F.SE_STATUS.FBANK F.SUP_STATUS.FBANK == 1

/-- A bank of a processor. -/
def ProcSt.bank (v : ProcSt) (shadow : Bool) : Bank := if shadow then v.shadow else v.main

/-- The processor with a bank set. -/
def ProcSt.setBank (v : ProcSt) (shadow : Bool) (b : Bank) : ProcSt :=
  if shadow then { v with shadow := b } else { v with main := b }

/-- An X register. -/
def Bank.getX (b : Bank) (n : Nat) : Word := mget 0 b.x n

/-- The bank with an X register set. -/
def Bank.setX (b : Bank) (n : Nat) (w : Word) : Bank := { b with x := mset 0 b.x n w }

/-- The X register of the bank in force. -/
def State.getX (s : State) (p n : Nat) : Word := ((s.proc p).bank (s.inFast p)).getX n

/-- The state with an X register of the bank in force set. -/
def State.setX (s : State) (p n : Nat) (w : Word) : State :=
  let v := s.proc p
  s.setProc p (v.setBank (s.inFast p) ((v.bank (s.inFast p)).setX n w))

/-- The status register of the bank in force. -/
def State.sr (s : State) (p : Nat) : Word := ((s.proc p).bank (s.inFast p)).sr

/-- The state with the status register of the bank in force set. -/
def State.setSr (s : State) (p : Nat) (w : Word) : State :=
  let v := s.proc p
  s.setProc p (v.setBank (s.inFast p) { v.bank (s.inFast p) with sr := w })

/-! ### Instruction and data memory -/

/-- The slot of a word of instruction memory. -/
def imemReg (p : Nat) : Reg := if isSup p then .SUP_IMEM else .SE_IMEM

/-- A word of instruction memory. -/
def State.imemWord (s : State) (p a : Nat) : Word := s.reg (imemReg p) (procUnit p) (a % imemWords p)

/-- Whether the parity of a word of instruction memory is wrong. -/
def State.imemBad (s : State) (p a : Nat) : Bool := mget false s.imemPar (regAddr (imemReg p) (procUnit p) (a % imemWords p))

/-- A write of instruction memory with fresh parity; accepted only while the processor is HALTED or in FAULT (R146). -/
def writeImem (s : State) (p a : Nat) (w : Word) : State :=
  if s.pstate p = 0 ∨ s.pstate p = 5 then
    { s.setReg (imemReg p) (procUnit p) (a % imemWords p) w with
      imemPar := merase s.imemPar (regAddr (imemReg p) (procUnit p) (a % imemWords p)) }
  else s

/-- A word of the processor's data memory read by itself or its DMA, with whether it held a double-bit error. -/
def State.dmemRead (s : State) (p a : Nat) : (Word × Bool) × State :=
  if isSup p then ((s.reg .SUP_DMEM (p - 64) (a % 65536), false), s) else readSpd s p (a % 131072)

/-- A word of the processor's data memory written. -/
def State.dmemWrite (s : State) (p a : Nat) (w : Word) : State :=
  if isSup p then s.setReg .SUP_DMEM (p - 64) (a % 65536) w else writeSpd s p (a % 131072) w

/-! ### Events and interrupt sources (Tables 6.6 and 6.9) -/

/-- A processor event: once while its EVT bit is clear. Codes 0x3301 + bit of an engine; of a supervisor bit 0
SUP_FAULT, 1 WDOG, 2 SUP_DMA_ERR, 3 SUP_NERR. -/
def procEvent (s : State) (p bit : Nat) (inj : Bool := false) : State :=
  if isSup p then
    if bitOf (s.fld F.SUP_STATUS.EVT (p - 64)) bit then s
    else
      let code := match bit with | 0 => 0x4201 | 1 => 0x4203 | 2 => 0x4202 | _ => 0x4204
      (s.orFld F.SUP_STATUS.EVT (p - 64) 0 bit).emitRegion code (p - 64) inj
  else
    if bitOf (s.fld F.SE_STATUS.EVT p) bit then s
    else (s.orFld F.SE_STATUS.EVT p 0 bit).emitTile (0x3301 + bit) p inj

/-- An edge source of Table 6.6 becomes pending. -/
def raiseEdge (s : State) (p bit : Nat) : State :=
  s.setPf p F.SE_IRQ_PEND.EDGE F.SUP_IRQ_PEND.EDGE (s.pf p F.SE_IRQ_PEND.EDGE F.SUP_IRQ_PEND.EDGE ||| 2 ^ (bit - 16))

/-- The level sources of a processor (Table 6.6), as bits of SE_IRQ_PEND. -/
def levelBits (s : State) (p : Nat) : Nat :=
  if isSup p then
    let r := p - 64
    let eng := (List.range 16).foldl (fun n t => n + flag (s.pstate (16 * r + t) == 5) * 2 ^ t) 0
    let err := flag (decide (s.fld F.ERR_REG_STAT.COUNT r ≠ 0)) * 2 ^ 24
    let ts := flag (decide (r = 0 ∧ s.time.tsFifo ≠ [])) * 2 ^ 25
    let pps := flag (decide (r = 0) && s.on F.TIM_STATUS.PPS_IN_NEW) * 2 ^ 26
    eng + err + ts + pps
  else (List.range 16).foldl (fun n q => n + flag (s.on F.QC_STAT.HI p q || s.on F.QC_STAT.LO p q) * 2 ^ q) 0

/-- Every pending source of a processor. -/
def pendBits (s : State) (p : Nat) : Nat := levelBits s p + s.pf p F.SE_IRQ_PEND.EDGE F.SUP_IRQ_PEND.EDGE * 2 ^ 16

/-- The pending sources whose SE_IRQ_EN bit is set. -/
def enabledBits (s : State) (p : Nat) : Nat := pendBits s p &&& s.pf p F.SE_IRQ_EN.EN F.SUP_IRQ_EN.EN

/-- Whether a source is of FAST class (R158). -/
def fastClass (s : State) (p bit : Nat) : Bool :=
  if bit = 18 then (s.proc p).gunFast else bitOf (s.pf p F.SE_IRQ_CLASS.FAST F.SUP_IRQ_CLASS.FAST) bit

/-- Whether a processor may issue: its region is in RUN and no entry has stopped it (Table 16.1, R393). -/
def procClocked (s : State) (p : Nat) : Bool :=
  s.fld F.PWR_STAT.STATE (procRegion p) == 0 && !(s.pw (procRegion p)).procOff

end Sys2Proof.Machine
end

