-- ==== Sys2Proof/Machine/Trace.lean ====
section
/-! DEFINITION. The engine trace: packets, lines and sinks (Chapter 8). -/

namespace Sys2Proof.Machine

/-- The trace unit of a region. -/
def State.trcUnit (s : State) (r : Nat) : TrcUnit := mget {} s.trc r

/-- The state with a trace unit set. -/
def State.setTrcUnit (s : State) (r : Nat) (u : TrcUnit) : State := { s with trc := mset {} s.trc r u }

/-- The trace source of a processor. -/
def State.trcSrc (s : State) (p : Nat) : TrcSrc := mget {} (s.trcUnit (procRegion p)).srcs (procSrc p)

/-- The state with the trace source of a processor set. -/
def State.setTrcSrc (s : State) (p : Nat) (v : TrcSrc) : State :=
  let u := s.trcUnit (procRegion p)
  s.setTrcUnit (procRegion p) { u with srcs := mset {} u.srcs (procSrc p) v }

/-- Whether a processor's source traces (R196). -/
def State.traced (s : State) (p : Nat) : Bool :=
  bitOf (s.fld F.TRC_SRC.EN (procRegion p)) (procSrc p) && s.fld F.TRC_CTRL.SINK (procRegion p) != 0

/-- Whether a source stalls its processor instead of discarding (R203). -/
def State.trcStalls (s : State) (p : Nat) : Bool := bitOf (s.fld F.TRC_SRC.STALL (procRegion p)) (procSrc p)

/-! ### Bytes of packets (R200) -/

/-- The bytes of a varint, at most `n + 1` (R200). -/
def varint : Nat → Nat → List Nat
  | 0, v => [v % 32]
  | n + 1, v => if v < 128 then [v] else (v % 128 + 128) :: varint n (v / 128)

/-- `n` bytes of a number, least significant first. -/
def leBytes (n v : Nat) : List Nat := (List.range n).map (fun i => bitsOf v (8 * i + 7) (8 * i))

/-- The CYC packet of a cycle count. -/
def cycPacket (n : Nat) : List Nat := if n < 64 then [0x40 + n] else 0x09 :: varint 5 n

/-- The ATOM packet of 1 to 6 outcomes, oldest in bit 0. -/
def atomPacket (os : List Bool) : List Nat :=
  [0x80 + 2 ^ os.length + os.foldr (fun b n => flag b + 2 * n) 0]

/-- The SYNC packet. -/
def syncPacket (reason pc : Nat) (bank : Bool) (t stride : Nat) : List Nat :=
  [0x01, reason + 8 * flag bank] ++ leBytes 2 pc ++ leBytes 5 (fracOf t) ++ leBytes 5 (secOf t) ++ leBytes 5 stride

/-! ### Lines (R202) -/

/-- Lines closed while the open one holds 55 bytes and the staging area has room; `n` bounds the lines. -/
def closeFull : Nat → TrcSrc → TrcSrc
  | 0, v => v
  | n + 1, v =>
    if 55 ≤ v.cur.length ∧ v.staged.length < 2 then
      closeFull n { v with
        staged := v.staged ++ [{ seq := v.seq, flush := false, bytes := v.cur.take 55 }]
        cur := v.cur.drop 55
        seq := (v.seq + 1) % 256 }
    else v

/-- The open line closed with FLUSH (R202). -/
def flushLine (v : TrcSrc) : TrcSrc :=
  match v.cur with
  | [] => v
  | _ => { v with
      staged := v.staged ++ [{ seq := v.seq, flush := true, bytes := v.cur.take 55 }]
      cur := v.cur.drop 55
      seq := (v.seq + 1) % 256 }

/-- A packet's bytes as line bytes. -/
def packetBytes : List Nat → List TrcByte
  | [] => []
  | b :: bs => ⟨b, true⟩ :: bs.map (fun c => ⟨c, false⟩)

/-- Bytes the staging area still takes. -/
def TrcSrc.room (v : TrcSrc) : Nat := 55 * (2 - v.staged.length) - v.cur.length

/-- A packet put into the staging area of a source, or discarded and counted (R203). -/
def putPacket (s : State) (p : Nat) (bytes : List Nat) : State :=
  let v := s.trcSrc p
  let r := procRegion p
  if s.trcStalls p || (v.lost.isNone && decide (bytes.length ≤ v.room)) then
    s.setTrcSrc p (closeFull 3 { v with
      cur := v.cur ++ packetBytes bytes, sinceSync := v.sinceSync + bytes.length })
  else
    let s1 := s.setTrcSrc p { v with lost := some (Nat.min (v.lost.getD 0 + bytes.length) (2 ^ 40 - 1)) }
    let s2 := s1.addSat F.TRC_DROP.BYTES r 0 bytes.length
    if bitOf (s.fld F.TRC_STATUS.OVF r) (procSrc p) then s2
    else (s2.orFld F.TRC_STATUS.OVF r 0 (procSrc p)).emitRegion 0x4301 r

/-! ### Anchors (R197-R201) -/

/-- A CYC packet before an anchored packet whose anchor is `n` cycles after the last one (R198). -/
def putCyc (s : State) (p n : Nat) : State :=
  if s.on F.TRC_CTRL.CYC_EN (procRegion p) then putPacket s p (cycPacket n) else s

/-- The open ATOM closed and emitted (R199). -/
def closeAtom (s : State) (p : Nat) : State :=
  let v := s.trcSrc p
  match v.atom with
  | [] => s
  | os =>
    let s1 := s.setTrcSrc p { v with atom := [], cyc := v.cyc - v.atomCyc, atomCyc := 0 }
    putPacket (putCyc s1 p v.atomCyc) p (atomPacket os)

/-- An anchored packet other than an ATOM. The counter holds the cycles from the last anchor to the coming cycle; the
packet's anchor lies `back` cycles before that one: 1 for the issue cycle under way, 0 for the coming cycle. -/
def putAnchored (s : State) (p back : Nat) (bytes : List Nat) : State :=
  let s1 := closeAtom s p
  let s2 := putCyc s1 p ((s1.trcSrc p).cyc - back)
  putPacket (s2.setTrcSrc p { s2.trcSrc p with cyc := back }) p bytes

/-- A SYNC packet whose PC issues in the coming cycle, after closing any open ATOM (R201). -/
def putSync (s : State) (p reason pc : Nat) : State :=
  let s1 := closeAtom s p
  let s2 := putPacket s1 p (syncPacket reason pc (s.inFast p) s.instant s.time.strideNum)
  let v := s2.trcSrc p
  s2.setTrcSrc p { v with cyc := 0, sinceSync := 0, sync := none }

/-- The source's cycle counter runs on by `n` cycles. -/
def trcCycles (s : State) (p n : Nat) : State :=
  if s.traced p then
    let v := s.trcSrc p
    s.setTrcSrc p { v with cyc := Nat.min (v.cyc + n) (2 ^ 40 - 1) }
  else s

/-- `n` cycles in which the processor issues nothing (R199). -/
def trcNoIssue (s : State) (p n : Nat) : State :=
  if s.traced p && decide (0 < n) then
    trcCycles (if s.on F.TRC_CTRL.CYC_EN (procRegion p) then closeAtom s p else s) p n
  else s

/-- Cycles of a wait whose number the spec leaves to the moment at which it ends: a free value (log entry 18). -/
def trcWait (s : State) (p : Nat) : State :=
  if s.traced p then (trcNoIssue s p s.fresh.toNat).used else s

/-- A source whose processor issues nothing has a counter that ran on meanwhile. -/
def trcCaught (s : State) (p : Nat) : State := if s.pstate p = 1 then s else trcWait s p

/-- The first thing in an issue cycle: a SYNC that is due, or the periodic one (R201). -/
def trcIssue (s : State) (p : Nat) : State :=
  if s.traced p then
    let v := s.trcSrc p
    let n := s.fld F.TRC_CTRL.SYNC_INT (procRegion p)
    match v.sync with
    | some reason => putSync s p reason (s.ppc p)
    | none => if n ≠ 0 ∧ 256 * n ≤ v.sinceSync then putSync s p 1 (s.ppc p) else s
  else s

/-- The outcome of a BCC or BDEC (R199). -/
def trcBranch (s : State) (p : Nat) (taken : Bool) : State :=
  if s.traced p then
    let v := s.trcSrc p
    let s1 := s.setTrcSrc p { v with atom := v.atom ++ [taken], atomCyc := v.cyc - 1 }
    if v.atom.length = 5 then closeAtom s1 p else s1
  else s

/-- The target of a JR, CALLR, RTI or RTF (R196). -/
def trcTarget (s : State) (p target : Nat) : State :=
  if s.traced p then putAnchored s p 1 (0x02 :: leBytes 2 target) else s

/-- An interrupt acceptance. -/
def trcExc (s : State) (p bit : Nat) (fast : Bool) (ret handler : Nat) : State :=
  if s.traced p then putAnchored s p 0 ([0x03, bit + 32 * flag fast] ++ leBytes 2 ret ++ leBytes 2 handler) else s

/-- A stop of issue from the coming cycle on (R207): 0 HALT, 1 FAULT, 2 RESET, 3 DISABLED. The line closes with FLUSH. -/
def trcStop (s : State) (p reason cause pc : Nat) : State :=
  if s.traced p then
    let s1 := putAnchored s p 0 ([0x08, reason + 16 * cause] ++ leBytes 2 pc)
    s1.setTrcSrc p (flushLine (s1.trcSrc p))
  else s

/-- The SYNC reason due at the next issue. -/
def trcDue (s : State) (p reason : Nat) : State :=
  if s.traced p then s.setTrcSrc p { s.trcSrc p with sync := some reason } else s

/-- Before a processor's clocks gate (R206): POWER with the state and the counter, and the line closes. On wake the
counter restarts and a SYNC with reason WAKE is due. -/
def trcPower (s : State) (p state : Nat) : State :=
  if s.traced p then
    let s1 := closeAtom (trcCaught s p) p
    let s2 := putPacket s1 p ([0x06, state] ++ varint 5 (s1.trcSrc p).cyc)
    let v := flushLine (s2.trcSrc p)
    s2.setTrcSrc p { v with cyc := 0, sync := some 2 }
  else s

/-- Whether a processor is stalled by its full staging area (R203). -/
def trcStalled (s : State) (p : Nat) : Bool :=
  s.traced p && s.trcStalls p && decide (2 ≤ (s.trcSrc p).staged.length)

/-! ### Delivery (R202-R204) -/

/-- The offset of the first packet header of a line, 63 when none starts there. -/
def firstHead : Nat → List TrcByte → Nat
  | _, [] => 63
  | i, b :: bs => if b.head then i else firstHead (i + 1) bs

/-- The twelve words of a line (Table 8.3, R202). -/
def lineWords (src : Nat) (l : TrcLine) : List Word :=
  let bs := l.bytes.map TrcByte.byte ++ List.replicate (55 - l.bytes.length) 0
  BitVec.ofNat 40 (src * 2 ^ 35 + l.seq * 2 ^ 27 + firstHead 0 l.bytes * 2 ^ 21 + l.bytes.length * 2 ^ 15
      + flag l.flush * 2 ^ 14)
    :: (List.range 11).map (fun k => bytesWord ((bs.drop (5 * k)).take 5))

/-- Words written into consecutive slots of a register array. -/
def putSlots (r : Reg) (u : Nat) : Nat → List Word → State → State
  | _, [], s => s
  | i, w :: ws, s => putSlots r u (i + 1) ws (s.setReg r u i w)

/-- The sink in force: the running one, or the one that drains. -/
def sinkOf (s : State) (r : Nat) : Nat :=
  let k := s.fld F.TRC_CTRL.SINK r
  if k ≠ 0 then k else (s.trcUnit r).stopping

/-- Lines the sink holds before its reader; both counts wrap (Table 8.8). -/
def sinkOcc (s : State) (r : Nat) : Nat := (s.reg .TRC_WP r - s.reg .TRC_RP r).toNat

/-- Capacity of the sink in lines (R203). -/
def sinkCap (s : State) (r : Nat) : Nat := if sinkOf s r = 2 then s.fld F.TRC_MEM_LEN.BLOCKS r else 2048

/-- A line put into the buffer, as line `k` since the sink started; fresh check bits replace any error (R202). -/
def bufferLine (s : State) (r k : Nat) (ws : List Word) : State :=
  let s1 := putSlots .TRC_BUF r (12 * (k % 2048)) ws s
  let u := s1.trcUnit r
  s1.setTrcUnit r { u with bufErr := u.bufErr.filter (fun e => e.1 / 12 != k % 2048) }

/-- How the words of line `l` of the buffer read: the delivered words, and whether one has a double-bit error, which sets
the DED bit of the header (R202). -/
def readLine (s : State) (r l : Nat) : List Word × Bool :=
  let rd := (List.range 12).map (fun w =>
    eccRead (mget 0 (s.trcUnit r).bufErr (12 * l + w)) (s.reg .TRC_BUF r (12 * l + w)))
  let bad := rd.any (fun x => x.2 == 2)
  (rd.mapIdx (fun w x => if w = 0 ∧ bad then x.1 ||| 0x2000#40 else x.1), bad)

/-- A line that carries DED is delivered (Table 8.7). -/
def markDed (s : State) (r : Nat) (bad : Bool) : State := if bad then s.setFld F.TRC_STATUS.DED r 0 1 else s

/-- A read of the TRC_BUF window: the word as it is delivered (R202). -/
def readTrcBuf (s : State) (r i : Nat) : State :=
  let x := readLine s r (i / 12)
  { markDed s r x.2 with lastRead := x.1.getD (i % 12) 0 }

/-- The occupancy rose from `old`: it reached THR when it passed it (R204). -/
def threshold (s : State) (r old : Nat) : State :=
  let thr := s.fld F.TRC_CTRL.THR r
  if thr ≠ 0 ∧ old < thr ∧ thr ≤ sinkOcc s r then
    (List.range 17).foldl (fun s j => raiseEdge s (srcProc r j) 22) s else s

/-- What follows when space frees in the staging area of a source that discarded (R203): the outcomes of the open ATOM are
lost with the rest, then OVF and the SYNC. A source that has stopped, or whose sink stops, closes the line again. -/
def afterDiscard (s : State) (p : Nat) : State :=
  let s0 := closeAtom s p
  let v := s0.trcSrc p
  match v.lost with
  | none => s
  | some n =>
    let s1 := putPacket (s0.setTrcSrc p { v with lost := none }) p (0x05 :: varint 5 n)
    let s2 := putSync s1 p 3 (s1.ppc p)
    let w := { s2.trcSrc p with sync := v.sync }
    let stopped := s.pstate p == 0 || s.pstate p == 5 || !procClocked s p || (s.trcUnit (procRegion p)).stopping != 0
    s2.setTrcSrc p (if stopped then flushLine w else w)

/-- The sources of a region from the one whose turn it is. -/
def srcOrder (next : Nat) : List Nat := (List.range 17).map (fun i => (next + i) % 17)

/-- Whether the sink refuses the next line: it holds its capacity, and MODE is stop (R203). -/
def sinkFull (s : State) (r : Nat) : Bool := decide (sinkCap s r ≤ sinkOcc s r)

/-- A line delivered to the sink by `store` (R203, R204). -/
def countLine (s : State) (r : Nat) (store : State → State) : State :=
  let s1 := if sinkFull s r then s.setFld F.TRC_STATUS.WRAPPED r 0 1 else s
  threshold ((store s1).addWrap F.TRC_WP.COUNT r 0) r (sinkOcc s r)

/-- The oldest line of the buffer written to the ring of a memory sink; its acknowledgement is on its way with its status
(R202). -/
def ringStore (s : State) (r : Nat) : State :=
  let k := (s.reg .TRC_WP r).toNat
  let x := readLine s r (k % 2048)
  let a := s.fld F.TRC_MEM_BASE.ADDR r * 64 + 64 * (k % sinkCap s r)
  let st := memAccess s a
  let s1 := markDed (if st = 0 then netWriteBlock s a (0x48 + r) (wordsBytes x.1) else s) r x.2
  let u := s1.trcUnit r
  { s1.setTrcUnit r { u with ringWait := u.ringWait + 1, fifo := u.fifo - 1 } with
    resps := s1.resps ++ [{ isRead := false, dst := 0x48 + r, tag := 0, status := st, node := srcPort (0x48 + r) }] }

/-- The buffer of a memory sink gives its oldest line to the ring, where the ring takes it. -/
def drainBuffer (s : State) (r : Nat) : State :=
  if (s.trcUnit r).fifo = 0 ∨ (sinkFull s r && s.on F.TRC_CTRL.MODE r) = true then s
  else countLine s r (fun s => ringStore s r)

/-- The next complete line moves from its staging area to the buffer, unless a buffer sink refuses it or the FIFO of a
memory sink is full (R202, R203). -/
def stageLine (s : State) (r : Nat) : State :=
  let u := s.trcUnit r
  let mem := sinkOf s r == 2
  match (srcOrder u.next).find? (fun i => !(mget {} u.srcs i).staged.isEmpty) with
  | none => s
  | some i =>
    let p := srcProc r i
    let v := s.trcSrc p
    match v.staged with
    | [] => s
    | l :: ls =>
      if (if mem then decide (2048 ≤ u.fifo) else sinkFull s r && s.on F.TRC_CTRL.MODE r) then s
      else
        let wp := (s.reg .TRC_WP r).toNat
        let s1 := if mem then
            let t := bufferLine s r (wp + u.fifo) (lineWords i l)
            t.setTrcUnit r { t.trcUnit r with fifo := u.fifo + 1 }
          else countLine s r (fun s => bufferLine s r wp (lineWords i l))
        let s2 := s1.setTrcUnit r { s1.trcUnit r with next := (i + 1) % 17 }
        afterDiscard (s2.setTrcSrc p (closeFull 1 { v with staged := ls })) p

/-- A network-clock cycle of the trace unit: a staged line moves to the buffer, and the buffer of a memory sink gives its
oldest line to the ring (R202-R204). -/
def deliverLine (s : State) (r : Nat) : State := drainBuffer (stageLine s r) r

/-- TRACE_LINE_DELIVER (R202). -/
def execTraceLineDeliver (region : Region) (s : State) : Host.Outcome State Fault Refusal := .next (deliverLine s region)

/-- A saturated cycle counter emits a SYNC with reason LONG (R198). -/
def execSyncLong (proc : Proc) (s : State) : Host.Outcome State Fault Refusal :=
  if s.traced proc && (s.trcSrc proc).cyc == 2 ^ 40 - 1 then .next (putSync s proc 4 (s.ppc proc)) else .next s

/-! ### Starting and stopping the sink (R205) -/

/-- The processors of a region. -/
def regionProcs (r : Nat) : List Nat := (List.range 17).map (srcProc r)

/-- The sink begins to stop: every open line closes with FLUSH and the staged lines are delivered (R205). -/
def stopSink (s : State) (r : Nat) : State :=
  let k := s.fld F.TRC_CTRL.SINK r
  let s1 := (regionProcs r).foldl (fun s p =>
    if s.traced p then
      let s1 := closeAtom s p
      s1.setTrcSrc p (flushLine (s1.trcSrc p))
    else s) s
  (s1.setFld F.TRC_CTRL.SINK r 0 0).setTrcUnit r { s1.trcUnit r with stopping := k }

/-- Whether lines wait for the sink: staged, in the buffer of a memory sink, or on their way to the ring. -/
def delivering (u : TrcUnit) : Bool :=
  u.srcs.any (fun e => !e.2.staged.isEmpty) || decide (u.fifo ≠ 0) || decide (u.ringWait ≠ 0)

/-- The sink starts (R205): a memory ring must have a length and lie wholly in main memory. -/
def startSink (s : State) (r sink : Nat) : State :=
  let base := s.fld F.TRC_MEM_BASE.ADDR r * 64
  let len := s.fld F.TRC_MEM_LEN.BLOCKS r
  if sink = 2 ∧ (len = 0 ∨ 0x2000000000 < base + 64 * len) then s.setFld F.TRC_STATUS.CFG_ERR r 0 1
  else
    let s1 := ((s.setFld F.TRC_CTRL.SINK r 0 sink).setReg .TRC_WP r 0 0).setReg .TRC_RP r 0 0
    let u := s1.trcUnit r
    (regionProcs r).foldl (fun s p => trcDue s p 0) (s1.setTrcUnit r { u with stopping := 0, srcs := [], fifo := 0 })

/-- TRC_CTRL written (R205, log entry 19). -/
def writeTrcCtrl (s : State) (r : Nat) (w : Word) : State :=
  let v := w.toNat
  let sink := bitsOf v 39 38
  let mode := bitsOf v 37 37
  let run := s.fld F.TRC_CTRL.SINK r
  let s1 := ((s.setFld F.TRC_CTRL.CYC_EN r 0 (bitsOf v 36 36)).setFld F.TRC_CTRL.SYNC_INT r 0 (bitsOf v 35 24)).setFld
    F.TRC_CTRL.THR r 0 (bitsOf v 22 12)
  if run = 0 then
    let s2 := s1.setFld F.TRC_CTRL.MODE r 0 mode
    if sink = 1 ∨ sink = 2 then startSink s2 r sink else s2
  else if mode = s.fld F.TRC_CTRL.MODE r ∧ sink = run then s1
  else if mode = s.fld F.TRC_CTRL.MODE r ∧ sink = 0 then stopSink s1 r
  else s1.setFld F.TRC_STATUS.CFG_ERR r 0 1

/-- TRC_MEM_BASE or TRC_MEM_LEN written (R205). -/
def writeTrcMem (s : State) (reg : Reg) (r : Nat) (w : Word) : State :=
  if s.fld F.TRC_CTRL.SINK r = 0 then s.writeDefault reg r 0 w else s.setFld F.TRC_STATUS.CFG_ERR r 0 1

/-- TRC_RP written; a value above WP is ignored (Table 8.8). A lower value can raise the occupancy to THR (R204). -/
def writeTrcRp (s : State) (r : Nat) (w : Word) : State :=
  if w.toNat ≤ (s.reg .TRC_WP r).toNat then threshold (s.setReg .TRC_RP r 0 w) r (sinkOcc s r) else s

/-- SINK_START: a write of SINK that starts the sink (R205). -/
def execSinkStart (region : Region) (value : Word) (s : State) : Host.Outcome State Fault Refusal :=
  .next (writeTrcCtrl s region value)

/-- SINK_STOP: a write of SINK = 0b00, the other fields unchanged (R205). -/
def execSinkStop (region : Region) (s : State) : Host.Outcome State Fault Refusal :=
  .next (if s.fld F.TRC_CTRL.SINK region = 0 then s else stopSink s region)

/-- The sink stops once every staged line has been delivered (R205). -/
def execSinkStopped (region : Region) (s : State) : Host.Outcome State Fault Refusal :=
  let u := s.trcUnit region
  if u.stopping ≠ 0 ∧ delivering u = false then .next (s.setTrcUnit region { u with stopping := 0 }) else .next s

/-- The acknowledgement of a ring write; a failed one stops the sink (R205). -/
def ringAck (s : State) (r status : Nat) : State :=
  let u := s.trcUnit r
  let s1 := s.setTrcUnit r { u with ringWait := u.ringWait - 1 }
  if status = 0 then s1
  else
    let s2 := if s1.fld F.TRC_CTRL.SINK r = 0 then s1 else stopSink s1 r
    (s2.setFld F.TRC_STATUS.SINK_ERR r 0 1).emitRegion 0x4302 r

/-- TRC_SRC written: a source whose EN bit clears emits STOP with reason DISABLED, one whose EN bit sets emits a SYNC
at its next issue (R201, R207). -/
def writeTrcSrc (s : State) (r : Nat) (w : Word) : State :=
  let old := s.fld F.TRC_SRC.EN r
  let new := bitsOf w.toNat 16 0
  let s1 := (regionProcs r).foldl (fun s p =>
    if bitOf old (procSrc p) && !bitOf new (procSrc p) then trcStop (trcCaught s p) p 3 0 (s.ppc p) else s) s
  let s2 := s1.setReg .TRC_SRC r 0 (BitVec.ofNat 40 (w.toNat % 2 ^ 34))
  (regionProcs r).foldl (fun s p =>
    if !bitOf old (procSrc p) && bitOf new (procSrc p) then trcDue s p 0 else s) s2

/-- TRC_SRC_WRITE (R207). -/
def execTrcSrcWrite (region : Region) (value : Word) (s : State) : Host.Outcome State Fault Refusal :=
  .next (writeTrcSrc s region value)

end Sys2Proof.Machine
end

