-- ==== Sys2Proof/Machine/Operands.lean ====
section
/-! DEFINITION. The engine instructions, their words (Tables 7.1 to 7.14) and their operand forms: registers,
immediates, register codes, scratchpad addresses and post-modifies (R145, R148-R150, R187, R188). -/

namespace Sys2Proof.Machine

/-- The functions of ALU and ALUI, in the order of Table 7.4. -/
inductive AluFn where
  | add | adc | sub | sbc | and_ | or_ | xor_ | andn | cmp | tst | min_ | max_ | abs | neg | pcnt | lzc
  deriving DecidableEq, Repr

/-- The functions of SHIFT (Table 7.5). -/
inductive ShiftFn where
  | shl | shr | sar | rol
  deriving DecidableEq, Repr

/-- The functions of MUL (Table 7.10). -/
inductive MulFn where
  | mpy | mac | msu | macr
  deriving DecidableEq, Repr

/-- The functions of QUAD (Table 7.11). -/
inductive QuadFn where
  | cmul | cmac | cmulj | cmacj | dmpy | dmac | mul40 | mul40u
  deriving DecidableEq, Repr

/-- The functions of ACC (Table 7.12). -/
inductive AccFn where
  | ext | aclr | aadd | asub | aadda | asl | asr | aneg
  deriving DecidableEq, Repr

/-- The conditions of BCC, in the order of Table 7.8. -/
inductive Cond where
  | al | eq | ne | lt | ge | le | gt | lo | hs | mi | pl | vs | vc | avs | bps
  deriving DecidableEq, Repr

/-- An instruction of an engine or supervisor. Register fields are numbers. -/
inductive Insn where
  | nop
  | alu (fn : AluFn) (sat : Bool) (rd ra : Nat) (b : AluSrc)
  | shift (fn : ShiftFn) (sat : Bool) (rd ra : Nat) (k : ShiftAmt)
  | mv (rd ra : Nat)
  | mvi (rd : Nat) (v : MoveImm)
  | mvfr (rd code : Nat)
  | mvtr (code ra : Nat)
  | mvti (code : Nat) (w : Word)
  | ld (w : Nat) (xt pn : Nat) (am : AddrMode)
  | st (w : Nat) (xt pn : Nat) (am : AddrMode)
  | bcc (c : Cond) (target : Nat)
  | call (rd target : Nat)
  | jr (ra : Nat)
  | callr (rd ra : Nat)
  | rti
  | rtf
  | bdec (rn target : Nat)
  | mul (fn : MulFn) (sat : Bool) (n ra rb : Nat)
  | quad (fn : QuadFn) (sat : Bool) (k ra rb rc : Nat)
  | acc (fn : AccFn) (sat : Bool) (rd ra n m k : Nat)
  | mfs (rd slot : Nat)
  | mts (slot ra : Nat)
  | hurdle (rd : Nat)
  | hurdleN (rd : Nat)
  | waiti
  | waitc (ra : Nat)
  | dmago (ra ch : Nat)
  | nld (rd : Nat) (a : NetAddr)
  | nst (rb : Nat) (a : NetAddr)
  | nfence
  | ectl (ra cmd : Nat)
  deriving DecidableEq, Repr

/-- Words of an instruction: 2 for the 80-bit forms (R180). -/
def Insn.len : Insn → Nat
  | .alu _ _ _ _ (.imm40 _) => 2
  | .mvi _ (.imm40 _) => 2
  | .mvti _ _ => 2
  | .nld _ (.imm40 _) => 2
  | .nst _ (.imm40 _) => 2
  | _ => 1

/-- Whether an instruction may not stand in a delay slot (R153). -/
def Insn.noSlot : Insn → Bool
  | .bcc _ _ | .call _ _ | .jr _ | .callr _ _ | .rti | .rtf | .bdec _ _
  | .hurdle _ | .hurdleN _ | .waiti | .waitc _ => true
  | _ => false

/-- Words a load or store of width code `w` moves (Table 7.7). -/
def widthWords (w : Nat) : Nat := if w = 0 then 1 else if w = 1 then 2 else 4

/-- Whether a register code is one of the processor (R187, R195). -/
def codeOk (sup : Bool) (code : Nat) : Bool := decide (code < 61) && !(sup && decide (17 ≤ code) && decide (code ≤ 23))

/-- Whether the fields of an instruction hold no reserved value on the processor (R181, R195). -/
def Insn.legal (sup : Bool) : Insn → Bool
  | .alu fn _ _ _ b =>
    match fn with
    | .abs | .neg | .pcnt | .lzc => match b with | .reg _ => true | _ => false
    | _ => true
  | .mvfr _ code => codeOk sup code
  | .mvtr code _ => codeOk sup code
  | .mvti code _ => codeOk sup code
  | .ld w xt _ am => decide (w < 3) && decide (xt % widthWords w = 0) && immOk sup am
  | .st w xt _ am => decide (w < 3) && decide (xt % widthWords w = 0) && immOk sup am
  | .mul _ _ n _ _ => !(sup && decide (n ≠ 0))
  | .quad _ _ _ _ _ _ => !sup
  | .acc fn _ _ _ n m k =>
    !(sup && (decide (n ≠ 0) || decide (m ≠ 0))) &&
    match fn with
    | .ext => decide (k ≤ 40)
    | .asl | .asr => decide (k ≤ if sup then 39 else 47)
    | _ => true
  | .dmago _ ch => !(sup && decide (2 ≤ ch))
  | .nld _ _ | .nst _ _ | .nfence | .ectl _ _ => sup
  | _ => true
where
  /-- The post-modify immediates of a supervisor lie in −65,536 to 65,535 (R195). -/
  immOk (sup : Bool) : AddrMode → Bool
    | .postImm i => !sup || (decide (-65536 ≤ i.toInt) && decide (i.toInt ≤ 65535))
    | _ => true

/-! ### Instruction words (R180, Tables 7.1 to 7.14) -/

/-- The ALU function of an FN code. -/
def aluFn (fn : Nat) : AluFn :=
  ([.add, .adc, .sub, .sbc, .and_, .or_, .xor_, .andn, .cmp, .tst, .min_, .max_, .abs, .neg, .pcnt] : List AluFn).getD fn .lzc

/-- The condition of an FN code; 0xF is reserved. -/
def condOf (fn : Nat) : Option Cond :=
  ([.al, .eq, .ne, .lt, .ge, .le, .gt, .lo, .hs, .mi, .pl, .vs, .vc, .avs, .bps] : List Cond)[fn]?

/-- The instruction of a first word and the word at the next address; `none` where the encoding is reserved whatever
the processor (R181). -/
def decodeInsn (w imm : Word) : Option Insn :=
  let n := w.toNat
  let l := bitOf n 39
  let sat := bitOf n 33
  let fn := bitsOf n 32 29
  let rd := bitsOf n 28 25
  let ra := bitsOf n 24 21
  let rb := bitsOf n 20 17
  let xb : Fin 16 := Fin.ofNat 16 rb
  let imm21 := BitVec.ofNat 21 n
  let target := bitsOf n 20 6
  let code := bitsOf n 20 15
  let am : AddrMode :=
    match bitsOf n 30 29 with
    | 0 => .plain | 1 => .postM | 2 => .postImm (BitVec.ofNat 18 (bitsOf n 21 4)) | _ => .indexed
  let short (i : Insn) : Option Insn := if l then none else some i
  match bitsOf n 38 34 with
  | 0x00 => short .nop
  | 0x01 => short (.alu (aluFn fn) sat rd ra (.reg xb))
  | 0x02 => some (.alu (aluFn fn) sat rd ra (if l then .imm40 imm else .imm imm21))
  | 0x03 =>
    let f : ShiftFn := match fn % 4 with | 0 => .shl | 1 => .shr | 2 => .sar | _ => .rol
    if fn < 4 then short (.shift f sat rd ra (.imm (BitVec.ofNat 6 n)))
    else if fn < 8 then short (.shift f sat rd ra (.reg xb)) else none
  | 0x04 =>
    match fn with
    | 0 => short (.mv rd ra)
    | 1 => some (.mvi rd (if l then .imm40 imm else .imm imm21))
    | 2 => short (.mvfr rd code)
    | 3 => short (.mvtr code ra)
    | 4 => if l then some (.mvti code imm) else none
    | _ => none
  | 0x05 => short (.ld (fn / 4) rd (bitsOf n 24 22) am)
  | 0x06 => short (.st (fn / 4) rd (bitsOf n 24 22) am)
  | 0x07 => (condOf fn).bind (fun c => short (.bcc c target))
  | 0x08 =>
    match fn with
    | 0 => short (.call rd target)
    | 1 => short (.jr ra)
    | 2 => short (.callr rd ra)
    | 3 => short .rti
    | 4 => short .rtf
    | _ => none
  | 0x09 => short (.bdec rd target)
  | 0x0A =>
    let f : MulFn := match fn with | 0 => .mpy | 1 => .mac | 2 => .msu | _ => .macr
    if fn < 4 then short (.mul f sat (rd % 4) ra rb) else none
  | 0x0B =>
    let f : QuadFn := ([.cmul, .cmac, .cmulj, .cmacj, .dmpy, .dmac, .mul40] : List QuadFn).getD fn .mul40u
    if fn < 8 ∧ (rd = 0 ∨ rd = 2) then short (.quad f sat (rd / 2) ra rb (bitsOf n 16 13)) else none
  | 0x0C =>
    let f : AccFn := ([.ext, .aclr, .aadd, .asub, .aadda, .asl, .asr] : List AccFn).getD fn .aneg
    if fn < 8 then short (.acc f sat rd ra (bitsOf n 12 11) (bitsOf n 10 9) (bitsOf n 5 0)) else none
  | 0x0D =>
    match fn with
    | 0 => short (.mfs rd code)
    | 1 => short (.mts code ra)
    | 2 => short (.hurdle rd)
    | 3 => short (.hurdleN rd)
    | 4 => short .waiti
    | 5 => short (.waitc ra)
    | 6 => short (.dmago ra (bitsOf n 12 11))
    | _ => none
  | 0x0E =>
    let a : NetAddr := if l then .imm40 imm else .reg (Fin.ofNat 16 ra)
    match fn with
    | 0 => some (.nld rd a)
    | 1 => some (.nst rb a)
    | 2 => short .nfence
    | 3 => short (.ectl ra (bitsOf n 12 11))
    | _ => none
  | _ => none

/-- The instruction a processor reads from two words: `none` raises RSV_INSN (R181). -/
def fetchInsn (sup : Bool) (w imm : Word) : Option Insn :=
  match decodeInsn w imm with
  | none => none
  | some i => if i.legal sup then some i else none

/-! ### Operands -/

/-- The second operand of an ALU instruction. -/
def aluOperand (s : State) (p : Nat) : AluSrc → Word
  | .reg b => s.getX p b
  | .imm i => i.signExtend 40
  | .imm40 w => w

/-- The amount of a shift, 0 to 63. -/
def shiftOperand (s : State) (p : Nat) : ShiftAmt → Nat
  | .imm k => k.toNat
  | .reg b => (s.getX p b).toNat % 64

/-- The immediate of MVI. -/
def moveOperand : MoveImm → Word
  | .imm i => i.signExtend 40
  | .imm40 w => w

/-- The byte address of NLD or NST. -/
def netOperand (s : State) (p : Nat) : NetAddr → Nat
  | .reg a => (s.getX p a).toNat
  | .imm40 w => w.toNat

/-! ### Register widths (R145, Table 6.12) -/

/-- Bits of P and B. -/
def ptrBits (p : Nat) : Nat := if isSup p then 16 else 17

/-- Bits of an accumulator. -/
def accBits (p : Nat) : Nat := if isSup p then 40 else 48

/-- Bits of the range outside which the guard is in use (R155). -/
def rangeBits (p : Nat) : Nat := if isSup p then 32 else 40

/-- Bits of an instruction address. -/
def pcBits (p : Nat) : Nat := if isSup p then 15 else 14

/-- An accumulator of a bank, as a signed number. -/
def accValue (p : Nat) (b : Bank) (n : Nat) : Int := signed (accBits p) (mget 0 b.a n)

/-- A bank with an accumulator set and its AG bit recomputed (R155). -/
def setAcc (p : Nat) (b : Bank) (n : Nat) (v : Nat) : Bank :=
  let i := signed (accBits p) v
  let lim : Int := (2 ^ (rangeBits p - 1) : Nat)
  let out := decide (i < -lim) || decide (lim ≤ i)
  { b with
    a := mset 0 b.a n (v % 2 ^ accBits p)
    sr := BitVec.ofNat 40 (putBits b.sr.toNat (32 + n) (32 + n) (flag out)) }

/-- The value that a move out of a register gives (R145, R187). -/
def readCode (s : State) (p : Nat) (shadow : Bool) (code : Nat) : Word :=
  let v := s.proc p
  let b := v.bank shadow
  let n := code % 8
  if code < 16 then b.getX code
  else if code < 24 then
    if isSup p then BitVec.ofNat 40 (mget 0 b.a 0)
    else
      let a := mget 0 b.a ((code - 16) / 2)
      if code % 2 = 0 then BitVec.ofNat 40 a else BitVec.ofNat 40 (unsigned 40 (signed 8 (a / 2 ^ 40)))
  else if code < 32 then BitVec.ofNat 40 (mget 0 b.p n)
  else if code < 40 then BitVec.ofNat 40 (unsigned 40 (signed (ptrBits p + 1) (mget 0 b.m n)))
  else if code < 48 then BitVec.ofNat 40 (mget 0 b.b n)
  else if code < 56 then BitVec.ofNat 40 (mget 0 b.l n)
  else if code = 56 then b.sr
  else if code = 57 then v.cr
  else if code = 58 then BitVec.ofNat 40 v.ira
  else if code = 59 then v.isr
  else if code = 60 then BitVec.ofNat 40 v.fra
  else 0

/-- The writable fields of SR: AV, CBR, IE, FE, N, Z, C and V (Table 6.2); of a supervisor AV0 only (Table 6.12). -/
def srMask (p : Nat) : Word := if isSup p then 0x10DF000000#40 else 0xF0DF000000#40

/-- An SR with its writable fields replaced. -/
def srWrite (p : Nat) (old new : Word) : Word := (old &&& ~~~ srMask p) ||| (new &&& srMask p)

/-- A CR with its fields replaced; a reserved RPOS leaves that field (R6). -/
def crWrite (old new : Word) : Word :=
  let n := new.toNat
  let rpos := if bitsOf n 37 32 ≤ 40 then bitsOf n 37 32 else bitsOf old.toNat 37 32
  BitVec.ofNat 40 (bitsOf n 39 38 * 2 ^ 38 + rpos * 2 ^ 32)

/-- A register of a bank written with the width conversion of R145. -/
def writeCode (s : State) (p : Nat) (shadow : Bool) (code : Nat) (w : Word) : State :=
  let v := s.proc p
  let b := v.bank shadow
  let n := code % 8
  let pw := ptrBits p
  let put (b : Bank) : State := s.setProc p (v.setBank shadow b)
  if code < 16 then put (b.setX code w)
  else if code < 24 then
    if isSup p then put (setAcc p b 0 w.toNat)
    else
      let i := (code - 16) / 2
      if code % 2 = 0 then put (setAcc p b i (unsigned 48 (signed 40 w.toNat)))
      else put (setAcc p b i (putBits (mget 0 b.a i) 47 40 (w.toNat % 256)))
  else if code < 32 then put { b with p := mset 0 b.p n (w.toNat % 2 ^ pw) }
  else if code < 40 then put { b with m := mset 0 b.m n (w.toNat % 2 ^ (pw + 1)) }
  else if code < 48 then put { b with b := mset 0 b.b n (w.toNat % 2 ^ pw) }
  else if code < 56 then put { b with l := mset 0 b.l n (Nat.min (w.toNat % 2 ^ (pw + 1)) (2 ^ pw)) }
  else if code = 56 then put { b with sr := srWrite p b.sr w }
  else if code = 57 then s.setProc p { v with cr := crWrite v.cr w }
  else if code = 58 then s.setProc p { v with ira := w.toNat % 2 ^ pcBits p }
  else if code = 59 then s.setProc p { v with isr := w }
  else if code = 60 then s.setProc p { v with fra := w.toNat % 2 ^ pcBits p }
  else s

/-! ### Scratchpad addresses (R148-R150) -/

/-- Word `i` of an access from address `a` through pointer `n` (R148). -/
def accessWord (p : Nat) (b : Bank) (n a i : Nat) : Nat :=
  let w := dmemWords p
  let base := mget 0 b.b n
  let len := mget 0 b.l n
  let d := (a + w - base) % w
  if len ≠ 0 ∧ d < len then (base + (d + i) % len) % w else (a + i) % w

/-- The words of an access. -/
def accessWords (p : Nat) (b : Bank) (n a k : Nat) : List Nat := (List.range k).map (accessWord p b n a)

/-- The offset register Mn, signed. -/
def offsetReg (p : Nat) (b : Bank) (n : Nat) : Int := signed (ptrBits p + 1) (mget 0 b.m n)

/-- The first address of an access. -/
def accessStart (p : Nat) (b : Bank) (n : Nat) : AddrMode → Nat
  | .indexed => (((mget 0 b.p n : Nat) + offsetReg p b n) % (dmemWords p : Nat)).toNat
  | _ => mget 0 b.p n

/-- The post-modify of Pn by `m` (R149), and whether a circular one relocated it (R150). -/
def postModify (p : Nat) (b : Bank) (n : Nat) (m : Int) : Bank :=
  let w := dmemWords p
  let ptr := mget 0 b.p n
  let base := mget 0 b.b n
  let len := mget 0 b.l n
  let d := (ptr + w - base) % w
  if len = 0 then { b with p := mset 0 b.p n (((ptr : Int) + m) % (w : Nat)).toNat }
  else
    let q := (base + (((d : Int) + m) % (len : Nat)).toNat) % w
    let sr := if len ≤ d then b.sr ||| 0x80000000#40 else b.sr
    { b with p := mset 0 b.p n q, sr := sr }

/-- The post-modify an addressing mode makes. -/
def postModifyOf (p : Nat) (b : Bank) (n : Nat) : AddrMode → Bank
  | .postM => postModify p b n (offsetReg p b n)
  | .postImm i => postModify p b n i.toInt
  | _ => b

/-- Whether the words of an access fall in two rows of 8 words (R148). -/
def crossesRow : List Nat → Bool
  | [] => false
  | a :: as => as.any (fun x => x / 8 != a / 8)

end Sys2Proof.Machine
end

