-- ==== Sys2Proof/Machine/Flags.lean ====
section
/-! DEFINITION. The flag computations of the engine instruction set: ALU results with N, Z, C and V (R185, R186),
conditions (R189), accumulator overflow, rounding and extraction (R155-R157). -/

namespace Sys2Proof.Machine

/-- A result with its carry and overflow. -/
structure AluRes where
  word : Word
  c    : Bool
  v    : Bool
  deriving DecidableEq, Repr

/-- The 40-bit signed range. -/
def inWordRange (i : Int) : Bool := decide (-(2 ^ 39 : Nat) ≤ i) && decide (i < (2 ^ 39 : Nat))

/-- The word of an exact signed result: clamped with S = 1, otherwise modulo 2⁴⁰ (R185). -/
def satWord (sat : Bool) (i : Int) : Word :=
  if inWordRange i then BitVec.ofNat 40 (unsigned 40 i)
  else if sat then (if i < 0 then 0x8000000000#40 else 0x7FFFFFFFFF#40)
  else BitVec.ofNat 40 (unsigned 40 i)

/-- The result of a function marked "S". -/
def satRes (sat : Bool) (i : Int) (c : Bool) : AluRes := ⟨satWord sat i, c, !inWordRange i⟩

/-- The result of a function without the mark: C and V clear. -/
def plainRes (w : Word) : AluRes := ⟨w, false, false⟩

/-- Leading zeros of the low `n` bits of a number, from its top bit. -/
def leadingZeros : Nat → Nat → Nat
  | 0, _ => 0
  | n + 1, v => if bitOf v n then 0 else leadingZeros n v + 1

/-- The functions of Table 7.4. -/
def aluRes (fn : AluFn) (sat c : Bool) (a b : Word) : AluRes :=
  let sa := signed 40 a.toNat
  let sb := signed 40 b.toNat
  match fn with
  | .add => satRes sat (sa + sb) (decide (2 ^ 40 ≤ a.toNat + b.toNat))
  | .adc => satRes sat (sa + sb + flag c) (decide (2 ^ 40 ≤ a.toNat + b.toNat + flag c))
  | .sub => satRes sat (sa - sb) (decide (b.toNat ≤ a.toNat))
  | .sbc => satRes sat (sa - sb - (1 - flag c)) (decide (b.toNat + (1 - flag c) ≤ a.toNat))
  | .and_ => plainRes (a &&& b)
  | .or_ => plainRes (a ||| b)
  | .xor_ => plainRes (a ^^^ b)
  | .andn => plainRes (a &&& ~~~ b)
  | .cmp => satRes sat (sa - sb) (decide (b.toNat ≤ a.toNat))
  | .tst => plainRes (a &&& b)
  | .min_ => plainRes (if sa ≤ sb then a else b)
  | .max_ => plainRes (if sa ≤ sb then b else a)
  | .abs => satRes sat (if sa < 0 then -sa else sa) false
  | .neg => satRes sat (-sa) (decide (a.toNat = 0))
  | .pcnt => plainRes (BitVec.ofNat 40 (popBits 40 a.toNat))
  | .lzc => plainRes (BitVec.ofNat 40 (leadingZeros 40 a.toNat))

/-- Whether an ALU function writes Xd. -/
def AluFn.writes : AluFn → Bool
  | .cmp | .tst => false
  | _ => true

/-- The operations of Table 7.5 by `k` places, 0 to 63; amounts of 40 or more as R76 states. -/
def shiftRes (fn : ShiftFn) (sat : Bool) (a : Word) (k : Nat) : AluRes :=
  let n := a.toNat
  let sa := signed 40 n
  match fn with
  | .shl =>
    let c := decide (0 < k) && decide (k ≤ 40) && bitOf n (40 - k)
    let i := sa * (2 ^ k : Nat)
    ⟨satWord sat i, c, !inWordRange i⟩
  | .shr => ⟨a >>> k, decide (0 < k) && decide (k ≤ 40) && bitOf n (k - 1), false⟩
  | .sar => ⟨a.sshiftRight k, decide (0 < k) && bitOf n (Nat.min (k - 1) 39), false⟩
  | .rol =>
    let r := a.rotateLeft (k % 40)
    ⟨r, decide (0 < k) && bitOf r.toNat 0, false⟩

/-- An SR with N, Z, C and V set from a result (R184). -/
def setNZCV (sr : Word) (r : AluRes) : Word :=
  BitVec.ofNat 40 (putBits sr.toNat 27 24
    (8 * flag (bitOf r.word.toNat 39) + 4 * flag (r.word == 0) + 2 * flag r.c + flag r.v))

/-- The conditions of Table 7.8. -/
def condHolds (sr : Word) (bp : Bool) (c : Cond) : Bool :=
  let n := bitOf sr.toNat 27
  let z := bitOf sr.toNat 26
  let cy := bitOf sr.toNat 25
  let v := bitOf sr.toNat 24
  match c with
  | .al => true
  | .eq => z
  | .ne => !z
  | .lt => n != v
  | .ge => n == v
  | .le => z || (n != v)
  | .gt => !z && (n == v)
  | .lo => !cy
  | .hs => cy
  | .mi => n
  | .pl => !n
  | .vs => v
  | .vc => !v
  | .avs => bitsOf sr.toNat 39 36 != 0
  | .bps => bp

/-! ### Multiplier inputs and accumulators -/

/-- The signed half [19:0] of a word; of a supervisor, the 16-bit operand [15:0] (R195). -/
def loHalf (p : Nat) (w : Word) : Int := if isSup p then signed 16 w.toNat else signed 20 w.toNat

/-- The signed half [39:20]. -/
def hiHalf (w : Word) : Int := signed 20 (w.toNat / 2 ^ 20)

/-- A product under CR.FRAC (R154). -/
def fracProd (frac : Bool) (x y : Int) : Int := if frac then 2 * (x * y) else x * y

/-- An exact sum rounded at position `rpos` (R157). -/
def roundAt (rpos : Nat) (i : Int) : Int :=
  if rpos = 0 then i
  else
    let m : Int := (2 ^ rpos : Nat)
    let h : Int := (2 ^ (rpos - 1) : Nat)
    let d := i % m
    let r := i - d
    if h < d ∨ (d = h ∧ r / m % 2 = 1) then r + m else r

/-- The accumulator value of an exact result of `w` bits, and whether it overflowed (R155). -/
def accResult (w : Nat) (sat : Bool) (i : Int) : Nat × Bool :=
  let lim : Int := (2 ^ (w - 1) : Nat)
  if -lim ≤ i ∧ i < lim then (unsigned w i, false)
  else if sat then (unsigned w (if i < 0 then -lim else lim - 1), true)
  else (unsigned w i, true)

/-- The extraction of R156 with the result range of `w` bits: the word, and whether AV sets. -/
def extract (w : Nat) (sat : Bool) (k : Nat) (i : Int) : Word × Bool :=
  let m : Int := (2 ^ k : Nat)
  let q := i / m
  let d := i % m
  let h : Int := (2 ^ (k - 1) : Nat)
  let v := if k ≠ 0 ∧ (h < d ∨ (d = h ∧ q % 2 = 1)) then q + 1 else q
  let lim : Int := (2 ^ (w - 1) : Nat)
  if -lim ≤ v ∧ v < lim then (BitVec.ofNat 40 (unsigned 40 v), false)
  else if sat then (BitVec.ofNat 40 (unsigned 40 (if v < 0 then -lim else lim - 1)), false)
  else (BitVec.ofNat 40 (unsigned 40 (signed w (unsigned w v))), true)

end Sys2Proof.Machine
end

