-- ==== Sys2Proof/Machine/Engine.lean ====
section
/-! DEFINITION. The processors' pipeline: issue, landing results, faults, halts, waits, interrupts and the release
point (R151-R168, R183, R192). -/

namespace Sys2Proof.Machine

/-- The accesses an instruction makes outside its registers and data memory: own-block slots (R193), network words
(R173) and the commands of ECTL. -/
structure Io where
  mfs   : Nat → Nat → State → Word × State
  mts   : Nat → Nat → Word → State → State
  load  : Nat → Nat → State → State
  store : Nat → Nat → Word → State → State
  ectl  : Nat → Nat → Nat → State → State

/-! ### Landing (R151, R152, R163) -/

/-- An accumulator result written at the end of its accumulate cycle, with AV and the OVF request (R155, R163). -/
def landAcc (s : State) (p : Nat) (f : Fly) (n : Nat) (judged sat : Bool) (i : Int) : State :=
  let v := s.proc p
  let r := accResult (accBits p) sat i
  let b := setAcc p (v.bank f.shadow) n r.1
  if judged && r.2 then
    let b1 := { b with sr := b.sr ||| BitVec.ofNat 40 (2 ^ (36 + n)) }
    let s1 := s.setProc p (v.setBank f.shadow b1)
    if bitOf v.cr.toNat 39 then
      let s2 := raiseEdge s1 p 20
      (s2.setPf p F.SE_OVF_PC.PC F.SUP_OVF_PC.PC f.pc).setPf p F.SE_OVF_PC.BANK F.SUP_OVF_PC.BANK (flag f.shadow)
    else s1
  else s.setProc p (v.setBank f.shadow b)

/-- The words of a load, read in order (R148). -/
def loadRegs (p : Nat) (shadow : Bool) : Nat → List Nat → State → State
  | _, [], s => s
  | x, a :: as, s =>
    let r := s.dmemRead p a
    let v := r.2.proc p
    loadRegs p shadow (x + 1) as (r.2.setProc p (v.setBank shadow ((v.bank shadow).setX x r.1.1)))

/-- A result in flight lands. -/
def landOne (p : Nat) (s : State) (f : Fly) : State :=
  let v := s.proc p
  let b := v.bank f.shadow
  let acc (n : Nat) : Int := accValue p b n
  match f.op with
  | .load xt addrs => loadRegs p f.shadow xt addrs s
  | .store ws => ws.foldl (fun s e => s.dmemWrite p e.1 e.2) s
  | .sum n keep x judged sat rpos => landAcc s p f n judged sat (roundAt rpos (if keep then acc n + x else x))
  | .pair k keep x0 x1 judged sat =>
    let s1 := landAcc s p f (2 * k) judged sat (if keep then acc (2 * k) + x0 else x0)
    landAcc s1 p f (2 * k + 1) judged sat (if keep then acc (2 * k + 1) + x1 else x1)
  | .wide k lo hi =>
    let b1 := setAcc p b (2 * k) lo
    s.setProc p (v.setBank f.shadow (setAcc p b1 (2 * k + 1) hi))
  | .addAcc n m sat => landAcc s p f n true sat (acc n + acc m)
  | .asl n k sat => landAcc s p f n true sat (acc n * (2 ^ k : Nat))
  | .asr n k => landAcc s p f n false false (acc n / (2 ^ k : Nat))
  | .neg n sat => landAcc s p f n true sat (-acc n)
  | .ext rd n k sat =>
    let r := extract (rangeBits p) sat k (acc n)
    let b1 := b.setX rd r.1
    if r.2 then
      let s1 := s.setProc p (v.setBank f.shadow { b1 with sr := b1.sr ||| BitVec.ofNat 40 (2 ^ (36 + n)) })
      if bitOf v.cr.toNat 39 then
        let s2 := raiseEdge s1 p 20
        (s2.setPf p F.SE_OVF_PC.PC F.SUP_OVF_PC.PC f.pc).setPf p F.SE_OVF_PC.BANK F.SUP_OVF_PC.BANK (flag f.shadow)
      else s1
    else s.setProc p (v.setBank f.shadow b1)
  | .restoreSr => s.setProc p (v.setBank f.shadow { b with sr := srWrite p b.sr v.isr })

/-- The end of a cycle: the results due land, in issue order. -/
def endCycle (s : State) (p : Nat) : State :=
  let v := s.proc p
  let due := v.fly.filter (fun f => decide (f.left ≤ 1))
  let rest := (v.fly.filter (fun f => decide (1 < f.left))).map (fun f => { f with left := f.left - 1 })
  due.foldl (landOne p) (s.setProc p { v with fly := rest })

/-- `n` cycles pass for the results in flight. -/
def advance (p : Nat) : Nat → State → State
  | 0, s => s
  | n + 1, s => advance p n (endCycle s p)

/-- Every result in flight lands; none takes more than three further cycles. -/
def drain (s : State) (p : Nat) : State := advance p 4 s

/-- A result put in flight, `left` cycles from landing. -/
def putFly (s : State) (p left : Nat) (op : FlyOp) (pc : Nat) : State :=
  let v := s.proc p
  s.setProc p { v with fly := v.fly ++ [{ left := left, pc := pc, shadow := s.inFast p, op := op }] }

/-! ### Halting, faults, control commands (R167, R168) -/

/-- The next address. -/
def nextPc (p pc n : Nat) : Nat := (pc + n) % imemWords p

/-- Issue stops: results land, the state becomes HALTED (R168). -/
def doHalt (s : State) (p : Nat) : State :=
  let s1 := drain (trcStop (trcCaught s p) p 0 0 (s.ppc p)) p
  (s1.setProc p { s1.proc p with haltReq := false, stepping := false }).setPstate p 0

/-- Whether a running processor is between two instructions where it may be interrupted or halted: no delay slot, no bank
switch, no network wait, no trace stall (R159, R203). -/
def between (s : State) (p : Nat) : Bool :=
  let v := s.proc p
  decide (v.slots = 0) && !v.rtf && decide (v.net = .none) && !trcStalled s p

/-- A HALT that waits takes effect at an acceptance point; a STEP ends with its instruction (R168). -/
def settle (s : State) (p : Nat) : State :=
  let v := s.proc p
  if s.pstate p = 1 ∧ v.net = .none ∧ (v.stepping = true ∨ (v.haltReq = true ∧ between s p = true)) then doHalt s p else s

/-- A fault of Table 6.8 (R167). -/
def procFault (s : State) (p cause : Nat) (inj : Bool := false) : State :=
  let s1 := drain (trcStop s p 1 cause (s.ppc p)) p
  let s2 := (s1.setPf p F.SE_FAULT.CAUSE F.SUP_FAULT.CAUSE cause).setPf p F.SE_FAULT.BANK F.SUP_FAULT.BANK
    (flag (s.inFast p))
  let s3 := (s2.setPf p F.SE_FAULT.PC F.SUP_FAULT.PC (s.ppc p)).setPstate p 5
  procEvent (s3.setProc p { s3.proc p with haltReq := false, stepping := false }) p 0 inj

/-- Whether an engine's zone is isolated or loading, where RUN and STEP are ignored (Table 15.5). -/
def procIsolated (s : State) (p : Nat) : Bool := !isSup p && s.tileIsolated p

/-- Whether a processor takes a RUN (R168, Table 15.5). -/
def runTaken (s : State) (p : Nat) : Bool := s.pstate p == 0 && !(s.proc p).eRst && !procIsolated s p

/-- RUN (R168). -/
def runCmd (s : State) (p : Nat) : State := if runTaken s p then trcDue (s.setPstate p 1) p 0 else s

/-- HALT (R168): at the next acceptance point; a wait ends. -/
def haltCmd (s : State) (p : Nat) : State :=
  match s.pstate p with
  | 1 => if between s p then doHalt s p else s.setProc p { s.proc p with haltReq := true }
  | 2 => doHalt s p
  | 3 => doHalt s p
  | 4 => doHalt s p
  | _ => s

/-- RUN: a command or gun action RUN (R168). -/
def execRun (proc : Proc) (s : State) : Host.Outcome State Fault Refusal := .next (runCmd s proc)

/-- HALT: a command or gun action HALT (R168). -/
def execHalt (proc : Proc) (s : State) : Host.Outcome State Fault Refusal := .next (haltCmd s proc)

/-! ### Issue -/

/-- Words of the instruction at an address: 2 when its L bit is 1 (R180). -/
def insnWords (s : State) (p a : Nat) : Nat := if bitOf (s.imemWord p a).toNat 39 then 2 else 1

/-- The link of CALL and CALLR: the address that follows the second delay slot (R190). -/
def linkOf (s : State) (p pc : Nat) : Nat :=
  let a := nextPc p pc 1
  let b := nextPc p a (insnWords s p a)
  nextPc p b (insnWords s p b)

/-- The switch back to the main bank after the delay slots of an RTF (R162). -/
def leaveFast (s : State) (p : Nat) : State :=
  let s1 := advance p 2 (trcNoIssue s p 2)
  (s1.setPf p F.SE_STATUS.FBANK F.SUP_STATUS.FBANK 0).setProc p { s1.proc p with rtf := false }

/-- The address of the next issue after an instruction of `n` words at `pc`, and its delay slots (R153). -/
def movePc (s : State) (p pc n : Nat) : State :=
  let v := s.proc p
  match v.slots with
  | 0 => s.setPpc p (nextPc p pc n)
  | 1 => (s.setProc p { v with slots := 0, target := none }).setPpc p (v.target.getD (nextPc p pc n))
  | k + 2 => (s.setProc p { v with slots := k + 1 }).setPpc p (nextPc p pc n)

/-- After the last result of an RTF's delay slots the bank switches back (R162). -/
def endRtf (s : State) (p : Nat) : State :=
  if (s.proc p).rtf && decide ((s.proc p).slots = 0) then leaveFast s p else s

/-- The end of an instruction of `n` words at `pc` whose effect is complete. -/
def stepPc (s : State) (p pc n : Nat) : State := endRtf (movePc s p pc n) p

/-- A branch: two delay slots, then the target when it is taken (R153). -/
def branchPc (s : State) (p pc : Nat) (target : Option Nat) : State :=
  (s.setProc p { s.proc p with slots := 2, target := target }).setPpc p (nextPc p pc 1)

/-- The exact sum pieces of MUL: whether the accumulator is kept, and the product. -/
def mulPiece (p : Nat) (frac : Bool) (fn : MulFn) (a b : Word) : Bool × Int :=
  let x := fracProd frac (loHalf p a) (loHalf p b)
  match fn with
  | .mpy => (false, x)
  | .msu => (true, -x)
  | _ => (true, x)

/-- What a QUAD instruction puts in flight (Table 6.4). -/
def quadFly (frac sat : Bool) (fn : QuadFn) (k : Nat) (a b c : Word) : FlyOp :=
  let ar := signed 20 a.toNat
  let ai := hiHalf a
  let br := signed 20 b.toNat
  let bi := hiHalf b
  let cr := signed 20 c.toNat
  let ci := hiHalf c
  let f := fracProd frac
  let wide (x : Int) (signedGuard : Bool) : FlyOp :=
    let n := unsigned 80 x
    .wide k (n % 2 ^ 40) (n / 2 ^ 40 + (if signedGuard && decide (x < 0) then 0xFF * 2 ^ 40 else 0))
  match fn with
  | .cmul => .pair k false (f ar br - f ai bi) (f ar bi + f ai br) false sat
  | .cmac => .pair k true (f ar br - f ai bi) (f ar bi + f ai br) true sat
  | .cmulj => .pair k false (f ar br + f ai bi) (f ai br - f ar bi) false sat
  | .cmacj => .pair k true (f ar br + f ai bi) (f ai br - f ar bi) true sat
  | .dmpy => .pair k false (f ar cr + f ai ci) (f br cr + f bi ci) false sat
  | .dmac => .pair k true (f ar cr + f ai ci) (f br cr + f bi ci) true sat
  | .mul40 => wide (signed 40 a.toNat * signed 40 b.toNat) true
  | .mul40u => wide ((a.toNat * b.toNat : Nat) : Int) false

/-- What an ACC instruction puts in flight (Table 7.12). -/
def accFly (fn : AccFn) (sat : Bool) (rd n m k : Nat) (a : Word) : FlyOp :=
  match fn with
  | .ext => .ext rd n k sat
  | .aclr => .sum n false 0 false false 0
  | .aadd => .sum n true (signed 40 a.toNat) true sat 0
  | .asub => .sum n true (-(signed 40 a.toNat)) true sat 0
  | .aadda => .addAcc n m sat
  | .asl => .asl n k sat
  | .asr => .asr n k
  | .aneg => .neg n sat

/-- The extra port cycle of a row-crossing access: nothing issues and SE_STALL counts it (R148). -/
def crossCycle (s : State) (p : Nat) : State :=
  let s1 := if isSup p then s.addSat F.SUP_STALL.CYCLES (p - 64) 0 else s.addSat F.SE_STALL.CYCLES p 0
  advance p 1 (trcNoIssue s1 p 1)

/-- A load or store issued at `pc` (R148-R150): `s0` is the state its operands are read from, `s` the one at the end
of the issue cycle. -/
def issueMem (s0 s : State) (p : Nat) (isLoad : Bool) (w xt pn : Nat) (am : AddrMode) : State :=
  let pc := s0.ppc p
  let b0 := (s0.proc p).bank (s0.inFast p)
  let addrs := accessWords p b0 pn (accessStart p b0 pn am) (widthWords w)
  let cross := crossesRow addrs
  let pm := postModifyOf p { b0 with sr := 0 } pn am
  let v := s.proc p
  let b := v.bank (s.inFast p)
  let b1 := match am with
    | .plain | .indexed => b
    | _ => { b with p := mset 0 b.p pn (mget 0 pm.p pn), sr := b.sr ||| (pm.sr &&& 0x80000000#40) }
  let s1 := s.setProc p (v.setBank (s.inFast p) b1)
  let op : FlyOp :=
    if isLoad then .load xt addrs else .store (addrs.zipIdx.map (fun e => (e.1, b0.getX (xt + e.2))))
  let s2 := putFly s1 p (if cross && isLoad then 3 else 2) op pc
  stepPc (if cross then crossCycle s2 p else s2) p pc 1

/-- A HURDLE with BP = 1 completes at once; otherwise it waits at its own address (R164). -/
def issueHurdle (s : State) (p rd pc : Nat) (always : Bool) : State :=
  let bp := s.pf p F.SE_STATUS.BP F.SUP_STATUS.BP == 1
  let s1 := s.setPf p F.SE_STATUS.BP F.SUP_STATUS.BP 0
  if bp && !always then stepPc (s1.setX p rd (BitVec.ofNat 40 (s1.proc p).bpStride)) p pc 1
  else
    let s2 := drain s1 p
    (s2.setProc p { s2.proc p with hurdleRd := rd }).setPstate p 2

/-- The effect of an instruction that passed its checks. `s0` is the state at the start of its issue cycle, from which
it reads its operands. -/
def issueOk (io : Io) (p : Nat) (i : Insn) (s0 : State) : State :=
  let pc := s0.ppc p
  let x (n : Nat) : Word := s0.getX p n
  let s := endCycle s0 p
  let frac := bitOf (s0.proc p).cr.toNat 38
  let rpos := bitsOf (s0.proc p).cr.toNat 37 32
  match i with
  | .nop => stepPc s p pc 1
  | .alu fn sat rd ra b =>
    let r := aluRes fn sat (bitOf (s0.sr p).toNat 25) (x ra) (aluOperand s0 p b)
    let s1 := if fn.writes then s.setX p rd r.word else s
    stepPc (s1.setSr p (setNZCV (s1.sr p) r)) p pc i.len
  | .shift fn sat rd ra k =>
    let r := shiftRes fn sat (x ra) (shiftOperand s0 p k)
    let s1 := s.setX p rd r.word
    stepPc (s1.setSr p (setNZCV (s1.sr p) r)) p pc 1
  | .mv rd ra => stepPc (s.setX p rd (x ra)) p pc 1
  | .mvi rd v => stepPc (s.setX p rd (moveOperand v)) p pc i.len
  | .mvfr rd code => stepPc (s.setX p rd (readCode s0 p (s0.inFast p) code)) p pc 1
  | .mvtr code ra => stepPc (writeCode s p (s0.inFast p) code (x ra)) p pc 1
  | .mvti code w => stepPc (writeCode s p (s0.inFast p) code w) p pc 2
  | .ld w xt pn am => issueMem s0 s p true w xt pn am
  | .st w xt pn am => issueMem s0 s p false w xt pn am
  | .bcc c target =>
    let taken := condHolds (s0.sr p) (s0.pf p F.SE_STATUS.BP F.SUP_STATUS.BP == 1) c
    branchPc (trcBranch s p taken) p pc (if taken then some (target % imemWords p) else none)
  | .call rd target =>
    branchPc (s.setX p rd (BitVec.ofNat 40 (linkOf s0 p pc))) p pc (some (target % imemWords p))
  | .jr ra =>
    let t := (x ra).toNat % imemWords p
    branchPc (trcTarget s p t) p pc (some t)
  | .callr rd ra =>
    let t := (x ra).toNat % imemWords p
    branchPc (trcTarget (s.setX p rd (BitVec.ofNat 40 (linkOf s0 p pc))) p t) p pc (some t)
  | .rti =>
    let t := (s0.proc p).ira
    branchPc (putFly (trcTarget s p t) p 2 .restoreSr pc) p pc (some t)
  | .rtf =>
    let t := (s0.proc p).fra
    let s1 := branchPc (trcTarget s p t) p pc (some t)
    s1.setProc p { s1.proc p with rtf := true }
  | .bdec rn target =>
    let v := x rn - 1
    let taken := v != 0
    branchPc (trcBranch (s.setX p rn v) p taken) p pc (if taken then some (target % imemWords p) else none)
  | .mul fn sat n ra rb =>
    let m := mulPiece p frac fn (x ra) (x rb)
    let r := if fn = .macr then rpos else 0
    stepPc (putFly s p 2 (.sum n m.1 m.2 m.1 sat r) pc) p pc 1
  | .quad fn sat k ra rb rc => stepPc (putFly s p 2 (quadFly frac sat fn k (x ra) (x rb) (x rc)) pc) p pc 1
  | .acc fn sat rd ra n m k => stepPc (putFly s p 2 (accFly fn sat rd n m k (x ra)) pc) p pc 1
  | .mfs rd slot =>
    let r := io.mfs p slot s0
    stepPc ((endCycle r.2 p).setX p rd r.1) p pc 1
  | .mts slot ra => endRtf (io.mts p slot (x ra) (movePc s p pc 1)) p
  | .hurdle rd => issueHurdle s p rd pc false
  | .hurdleN rd => issueHurdle s p rd pc true
  | .waiti =>
    let s1 := s.setPpc p (nextPc p pc 1)
    if enabledBits s1 p ≠ 0 then s1 else (drain s1 p).setPstate p 3
  | .waitc ra =>
    let s1 := s.setPpc p (nextPc p pc 1)
    if x ra = 0 then s1 else (s1.setProc p { s1.proc p with waitLeft := (x ra).toNat }).setPstate p 4
  | .dmago ra ch =>
    endRtf (io.mts p (16 + 2 * ch) (0x8000000000#40 ||| (x ra &&& (if isSup p then 0xFFFF#40 else 0x1FFFF#40)))
      (movePc s p pc 1)) p
  | .nld rd a =>
    let s1 := movePc (drain s p) p pc i.len
    let addr := netOperand s0 p a
    io.load p addr (s1.setProc p { s1.proc p with net := .load rd addr })
  | .nst rb a =>
    let s1 := movePc s p pc i.len
    let addr := netOperand s0 p a
    if s1.fld F.SUP_NSTAT.OUTSTANDING (p - 64) < 32 then endRtf (io.store p addr (x rb) s1) p
    else (drain s1 p).setProc p { (drain s1 p).proc p with net := .store addr (x rb) }
  | .nfence =>
    let s1 := movePc s p pc 1
    if s1.fld F.SUP_NSTAT.OUTSTANDING (p - 64) = 0 then endRtf s1 p
    else (drain s1 p).setProc p { (drain s1 p).proc p with net := .fence }
  | .ectl ra cmd => io.ectl p (16 * (p - 64) + (x ra).toNat % 16) cmd (stepPc s p pc 1)

/-- Whether the processor issues an instruction in its next cycle: it runs, its clocks run, and no network
instruction holds it. -/
def issues (s : State) (p : Nat) : Bool :=
  decide (s.pstate p = 1) && procClocked s p && decide ((s.proc p).net = .none) && !(s.proc p).eRst

/-- A cycle lost to a trace stall (R203). -/
def traceStallCycle (s : State) (p : Nat) : State :=
  advance p 1 (trcNoIssue (s.addSat F.TRC_STALL.CYCLES (procRegion p) 0) p 1)

/-- An issue cycle in which the words fetched spell `i`, or no instruction of the processor (R151, R167, R181). -/
def issue (io : Io) (p : Nat) (i : Option Insn) (s : State) : State :=
  if issues s p then
    if trcStalled s p then traceStallCycle s p
    else if (s.proc p).haltReq && between s p then doHalt s p
    else
      let s1 := trcIssue s p
      let pc := s1.ppc p
      let long := match i with | none => false | some i => decide (i.len = 2)
      if s1.imemBad p pc || (long && s1.imemBad p (pc + 1)) then procFault s1 p 2 true
      else
        match i with
        | none => procFault s1 p 1
        | some i =>
          if !i.legal (isSup p) then procFault s1 p 1
          else if i.noSlot && decide ((s1.proc p).slots ≠ 0) then procFault s1 p 3
          else if (decide (i = .rti) && s1.inFast p) || (decide (i = .rtf) && !s1.inFast p) then procFault s1 p 4
          else settle (issueOk io p i (trcCycles s1 p 1)) p
  else s

/-- The instruction at SE_PC. -/
def fetchAt (s : State) (p : Nat) : Option Insn := fetchInsn (isSup p) (s.imemWord p (s.ppc p)) (s.imemWord p (s.ppc p + 1))

/-- STEP allowed: a halted processor may issue one instruction (R168). -/
def stepAllowed (s : State) (p : Nat) : Bool := runTaken s p && procClocked s p

/-- STEP accepted: the processor leaves HALTED for the one instruction at SE_PC, which then halts it again (R168). -/
def stepStart (s : State) (p : Nat) : State :=
  if stepAllowed s p then trcDue ((s.setPstate p 1).setProc p { s.proc p with stepping := true }) p 0 else s

/-- STEP with the instruction it issues (R168). -/
def stepCmd (io : Io) (s : State) (p : Nat) : State :=
  if stepAllowed s p then issue io p (fetchAt s p) (stepStart s p) else s

/-! ### The release point (R164) -/

/-- The instruction after a wait is the next to issue; the cycles the wait took are not known (log entry 18). -/
def endWait (s : State) (p : Nat) : State := settle ((trcWait s p).setPstate p 1) p

/-- A release point that opens stride `n`, at one processor: its region executes strides there (R21, R165), and source 23
rises in every state but HALTED and FAULT (Table 6.6). -/
def releaseProc (n : Nat) (s : State) (p : Nat) : State :=
  if !procClocked s p || !s.regionRuns (procRegion p) then s
  else match s.pstate p with
    | 2 =>
      let s1 := raiseEdge (s.setX p (s.proc p).hurdleRd (BitVec.ofNat 40 n)) p 23
      endWait (s1.setPpc p (nextPc p (s1.ppc p) 1)) p
    | 1 | 3 | 4 =>
      let s1 := (s.setPf p F.SE_STATUS.BP F.SUP_STATUS.BP 1).setProc p { s.proc p with bpStride := n }
      let s2 := raiseEdge s1 p 23
      if s.pf p F.SE_HURDLE.EN F.SUP_HURDLE.EN = 1 then
        let s3 := if isSup p then s2.addSat F.SUP_HURDLE.MISS (p - 64) 0 else s2.addSat F.SE_HURDLE.MISS p 0
        let s4 := raiseEdge s3 p 21
        if isSup p then s4 else procEvent s4 p 1
      else s2
    | _ => s

/-- A release point at every processor. -/
def releaseProcs (s : State) (n : Nat) : State := (List.range 68).foldl (releaseProc n) s

/-! ### Waits (R166) -/

/-- WAITI completes once an enabled request is pending. -/
def execWaitiComplete (proc : Proc) (s : State) : Host.Outcome State Fault Refusal :=
  if s.pstate proc = 3 ∧ procClocked s proc = true ∧ enabledBits s proc ≠ 0 then .next (endWait s proc) else .next s

/-- WAITC ends when its count expires. -/
def execWaitcExpiry (proc : Proc) (s : State) : Host.Outcome State Fault Refusal :=
  if s.pstate proc = 4 ∧ procClocked s proc = true then
    let n := (s.proc proc).waitLeft
    let s1 := advance proc (Nat.min n 4) (trcNoIssue s proc n)
    .next (settle ((s1.setProc proc { s1.proc proc with waitLeft := 0 }).setPstate proc 1) proc)
  else .next s

/-! ### Interrupts (R159-R161) -/

/-- Whether the processor is at an acceptance point (R159). -/
def acceptPoint (s : State) (p : Nat) : Bool :=
  let v := s.proc p
  procClocked s p && !v.stepping && !v.eRst && decide (v.net = .none) &&
  (match s.pstate p with
    | 1 => between s p
    | 2 | 3 | 4 => true
    | _ => false)

/-- The acceptable request of one class with the lowest bit (R159). -/
def acceptable (s : State) (p : Nat) (fast : Bool) : Option Nat :=
  let sr := (s.proc p).main.sr.toNat
  if s.inFast p then none
  else if fast && !bitOf sr 28 then none
  else if !fast && !bitOf sr 30 then none
  else (List.range 32).find? (fun b => bitOf (enabledBits s p) b && fastClass s p b == fast)

/-- The handler of a source (R160). -/
def handlerOf (s : State) (p bit : Nat) : Nat :=
  (s.pf p F.SE_BOOT.VBASE F.SUP_BOOT.VBASE / 8 * 8 + 8 * bit) % imemWords p

/-- Acceptance clears the pending bit of an edge source. -/
def clearEdge (s : State) (p bit : Nat) : State :=
  if 16 ≤ bit then
    let e := s.pf p F.SE_IRQ_PEND.EDGE F.SUP_IRQ_PEND.EDGE
    s.setPf p F.SE_IRQ_PEND.EDGE F.SUP_IRQ_PEND.EDGE (e - (e &&& 2 ^ (bit - 16)))
  else s

/-- What both acceptances share: the wait ends, EXC is traced, three cycles pass and the handler is next. -/
def takeHandler (s : State) (p bit : Nat) (fast : Bool) : State :=
  let ret := s.ppc p
  let s2 := trcExc (trcCaught s p) p bit fast ret (handlerOf s p bit)
  let s3 := advance p 3 (trcNoIssue s2 p 3)
  let s4 := (clearEdge s3 p bit).setProc p { s3.proc p with waitLeft := 0 }
  (s4.setPpc p (handlerOf s p bit)).setPstate p 1

/-- A normal interrupt is accepted (R160). -/
def acceptNormal (s : State) (p bit : Nat) : State :=
  let v := s.proc p
  let s1 := s.setProc p { v with
    ira := s.ppc p, isr := v.main.sr, main := { v.main with sr := v.main.sr &&& 0xFFBFFFFFFF#40 } }
  takeHandler s1 p bit false

/-- A FAST interrupt is accepted (R161). -/
def acceptFast (s : State) (p bit : Nat) : State :=
  let s1 := s.setProc p { s.proc p with fra := s.ppc p }
  (takeHandler s1 p bit true).setPf p F.SE_STATUS.FBANK F.SUP_STATUS.FBANK 1

/-- NORMAL_INTERRUPT (R160): the request with the lowest bit, when no FAST request is acceptable. -/
def execNormalInterrupt (proc : Proc) (s : State) : Host.Outcome State Fault Refusal :=
  match acceptPoint s proc, acceptable s proc true, acceptable s proc false with
  | true, none, some b => .next (acceptNormal s proc b)
  | _, _, _ => .next s

/-- FAST_INTERRUPT (R161). -/
def execFastInterrupt (proc : Proc) (s : State) : Host.Outcome State Fault Refusal :=
  match acceptPoint s proc, acceptable s proc true with
  | true, some b => .next (acceptFast s proc b)
  | _, _ => .next s

/-- The gun action IRQ raises source 18 with the class of ARG[0] (R158). -/
def gunIrq (s : State) (p : Nat) (fast : Bool) : State :=
  raiseEdge (s.setProc p { s.proc p with gunFast := fast }) p 18

/-- GUN_IRQ (R158). -/
def execGunIrq (proc : Proc) (fast : Bool) (s : State) : Host.Outcome State Fault Refusal := .next (gunIrq s proc fast)

/-- A write to SE_DOORBELL or SUP_DOORBELL stores the value and raises the source (R158); of a supervisor it is also a
wake source of its region (R396). -/
def ringDoorbell (s : State) (p : Nat) (w : Word) : State :=
  raiseEdge (s.setReg (if isSup p then .SUP_DOORBELL else .SE_DOORBELL) (procUnit p) 0 w) p 19

/-- DOORBELL (R158): the event of a supervisor's doorbell also sets its wake source (R396). -/
def writeDoorbell (s : State) (p : Nat) (w : Word) : State :=
  let s1 := ringDoorbell s p w
  if isSup p then wakeEvent s1 (p - 64) 7 else s1

/-- DOORBELL (R158). -/
def execDoorbell (proc : Proc) (value : Word) (s : State) : Host.Outcome State Fault Refusal :=
  .next (writeDoorbell s proc value)

/-! ### Debug access (R178) -/

/-- Whether SE_DBG_DATA reaches the selected register: only while HALTED or in FAULT. -/
def dbgOpen (s : State) (p : Nat) : Bool := s.pstate p == 0 || s.pstate p == 5

/-- The register SE_DBG_SEL names. -/
def dbgCode (s : State) (p : Nat) : Nat := s.pf p F.SE_DBG_SEL.REG F.SUP_DBG_SEL.REG

/-- The bank SE_DBG_SEL names. -/
def dbgBank (s : State) (p : Nat) : Bool := s.pf p F.SE_DBG_SEL.BANK F.SUP_DBG_SEL.BANK == 1

/-- SE_DBG_DATA read: the selected register right-aligned, otherwise 0. -/
def dbgRead (s : State) (p : Nat) : Word :=
  if dbgOpen s p then
    let code := dbgCode s p
    let b := (s.proc p).bank (dbgBank s p)
    if !isSup p ∧ 16 ≤ code ∧ code < 24 ∧ code % 2 = 1 then BitVec.ofNat 40 (mget 0 b.a ((code - 16) / 2) / 2 ^ 40)
    else if 32 ≤ code ∧ code < 40 then BitVec.ofNat 40 (mget 0 b.m (code % 8))
    else readCode s p (dbgBank s p) code
  else 0

/-- SE_DBG_DATA written. Code 16 + 2n holds An[39:0] and code 17 + 2n holds An[47:40] (Table 6.17). -/
def dbgWrite (s : State) (p : Nat) (w : Word) : State :=
  if dbgOpen s p then
    let code := dbgCode s p
    let v := s.proc p
    let b := v.bank (dbgBank s p)
    let n := (code - 16) / 2
    if !isSup p ∧ 16 ≤ code ∧ code < 24 ∧ code % 2 = 0 then
      s.setProc p (v.setBank (dbgBank s p) (setAcc p b n (putBits (mget 0 b.a n) 39 0 w.toNat)))
    else writeCode s p (dbgBank s p) code w
  else s

/-- SE_DBG_DATA_ACCESS: a write of the value, or a read whose data go to the requester (R178). -/
def execSeDbgDataAccess (proc : Proc) (write : Bool) (value : Word) (s : State) : Host.Outcome State Fault Refusal :=
  if write then .next (dbgWrite s proc value) else .next { s with lastRead := dbgRead s proc }

/-- SE_IMEM_WRITE (R146). -/
def execSeImemWrite (proc : Proc) (addr : Nat) (value : Word) (s : State) : Host.Outcome State Fault Refusal :=
  .next (writeImem s proc addr value)

/-- SE_PC written: ignored unless HALTED (Table 6.15); an outstanding branch is dropped (log entry 22). -/
def writePc (s : State) (p : Nat) (w : Word) : State :=
  if s.pstate p = 0 then
    (s.setPpc p (w.toNat % imemWords p)).setProc p { s.proc p with slots := 0, target := none, rtf := false }
  else s

/-! ### Engine reset (R177, R65) -/

/-- A register field at its reset value in a slot word; a configured field keeps what the retained configuration put
into the slot, which its own operation restores. -/
def resetField (cls : RClass) (n : Nat) (f : Fld) : Nat :=
  if f.by_.contains cls && !f.configured then putBits n f.hi f.lo f.reset else n

/-- The registers of an E reset: those of the processor's block (Table 6.13). -/
def resetProcRegs (s : State) (p : Nat) : State :=
  let blk := if isSup p then [Reg.SUP_STATUS, .SUP_PC, .SUP_FAULT, .SUP_OVF_PC, .SUP_IRQ_EN, .SUP_IRQ_CLASS, .SUP_IRQ_PEND,
      .SUP_DOORBELL, .SUP_HURDLE, .SUP_STALL, .SUP_NSTAT, .SUP_DMA_DESC, .SUP_DMA_STAT]
    else [Reg.SE_STATUS, .SE_PC, .SE_FAULT, .SE_OVF_PC, .SE_IRQ_EN, .SE_IRQ_CLASS, .SE_IRQ_PEND,
      .SE_DOORBELL, .SE_HURDLE, .SE_STALL, .SE_DMA_DESC, .SE_DMA_STAT, .SPD_DMA_STALL]
  blk.foldl (fun s r =>
    (List.range r.place.count).foldl (fun s i =>
      s.setReg r (procUnit p) i (BitVec.ofNat 40 (r.fields.foldl (resetField .E) (s.reg r (procUnit p) i).toNat))) s) s

/-- The processor state an E, W, G or Z reset leaves: registers of both banks reset, nothing in flight. -/
def resetProc (s : State) (p : Nat) : State := (resetProcRegs (orphan s (fun src _ => src == p)) p).setProc p {}

/-- The DMA channels of a processor stop as by ABORT, without write-back (R177): no descriptor runs on, and what their
outstanding requests acknowledge is awaited. -/
def stopChannels (s : State) (p : Nat) : State :=
  let s1 := (List.range (if isSup p then 2 else 4)).foldl (fun s ch =>
    s.setPf p F.SE_DMA_STAT.BUSY F.SUP_DMA_STAT.BUSY 0 ch) s
  s1.setProc p { s1.proc p with aborts := [], dmaRun := (s1.proc p).dmaRun.filter (fun e => e.2.2.2 != 0) }

/-- An engine reset begins (R177): issue stops, results land, DMA ends without write-back. `hold` is that of a full
load's step 2. What DMA requests acknowledge still counts, other responses are discarded (R401). -/
def startEReset (s : State) (p : Nat) (hold : Bool) : State :=
  let s0 := orphan s (fun src tag => src == p && decide (tag < 0x8000))
  let s1 := if s.pstate p = 0 ∨ s.pstate p = 5 then s0 else trcStop (trcCaught s0 p) p 2 0 (s.ppc p)
  let s2 := stopChannels ((drain s1 p).setPstate p 0) p
  s2.setProc p { s2.proc p with eRst := true, eHold := hold, stepping := false, haltReq := false, net := .none }

/-- ENGINE_RESET: SE_CTRL.RESET or ECTL (R177). -/
def execEngineReset (proc : Proc) (s : State) : Host.Outcome State Fault Refusal := .next (startEReset s proc false)

/-- A processor in the main bank with SR and CR at their reset values and no branch under way (R175); AG follows the
accumulators (R162). -/
def mainBank (s : State) (p : Nat) : State :=
  let v := s.proc p
  (s.setPf p F.SE_STATUS.FBANK F.SUP_STATUS.FBANK 0).setProc p { v with
    main := { v.main with sr := srWrite p v.main.sr 0 }, cr := ({} : ProcSt).cr, slots := 0, target := none, rtf := false }

/-- The processor starts at ENTRY in the main bank, or stays HALTED (R175, R177). -/
def bootProc (s : State) (p : Nat) (hold : Bool) : State :=
  let s1 := s.setPpc p (s.pf p F.SE_BOOT.ENTRY F.SUP_BOOT.ENTRY)
  if s.pf p F.SE_BOOT.BOOT_RUN F.SUP_BOOT.BOOT_RUN = 1 ∧ hold = false ∧ procIsolated s p = false then
    trcDue ((mainBank s1 p).setPstate p 1) p 0 else s1

/-- The due gun actions of units that a reset held wait for its end, and fire with REASON WAKE (R65). -/
def gunsHeld (s : State) (hit : GunEntry → Bool) : State :=
  { s with guns := s.guns.map (fun e => if hit e && decide (e.time ≤ s.instant) then { e with woken := true } else e) }

/-- Whether an entry's unit is the processor. -/
def GunEntry.forProc (e : GunEntry) (p : Nat) : Bool :=
  if isSup p then e.cls == 5 && e.region == p - 64 else e.cls == 4 && 16 * e.region + e.index == p

/-- An E reset ends (R65, R177): the processor starts at ENTRY or stays HALTED. -/
def endEReset (s : State) (p : Nat) : State :=
  let hold := (s.proc p).eHold
  gunsHeld (bootProc (resetProc s p) p hold) (fun e => e.forProc p)

/-- ENGINE_RESET_END (R65, R177): after the last outstanding DMA response; in a gated region it comes with the next wake
(Table 16.8). -/
def execEngineResetEnd (proc : Proc) (s : State) : Host.Outcome State Fault Refusal :=
  if (s.proc proc).eRst ∧ s.pstateR (procRegion proc) = 0 ∧ (s.proc proc).dmaRun.all (fun e => e.2.2.2 == 0) = true
  then .next (endEReset s proc) else .next s

/-! ### Watchdog (R174) -/

/-- Whether the watchdog of a region counts: enabled, with a timeout, and not paused by a low-power state (R174). -/
def wdogCounts (s : State) (r : Nat) : Bool :=
  s.on F.SUP_WDOG.EN r && s.fld F.SUP_WDOG.TIMEOUT r != 0 && s.pstateR r == 0

/-- Any write to SUP_WDOG_KICK restarts the count (R174); how long it has run is the environment's (log entry 5). -/
def wdogKick (s : State) (r : Nat) : State := s.setProc (64 + r) { s.proc (64 + r) with warned := false }

/-- WDOG_KICK (R174). -/
def execWdogKick (region : Region) (s : State) : Host.Outcome State Fault Refusal := .next (wdogKick s region)

/-- At half of TIMEOUT the watchdog raises its interrupt source, once in a count (R174). -/
def execWdogWarning (region : Region) (s : State) : Host.Outcome State Fault Refusal :=
  let p := 64 + region.val
  if wdogCounts s region && !(s.proc p).warned then
    .next (raiseEdge (s.setProc p { s.proc p with warned := true }) p 28)
  else .next s

end Sys2Proof.Machine
end

