-- ==== Sys2Proof/Machine/Rows.lean ====
section
/-! DEFINITION. The rows of the configuration columns: their places, their cleared state, what a frame writes and what
the retained configuration keeps of them (R343-R348, R371, R89, R135). -/

namespace Sys2Proof.Machine

/-! ### Frame addresses (R343, R344) -/

/-- The flat tile of a frame address. -/
def frTile (a : Nat) : Nat := a / 2 ^ 15 % 64
/-- The column type of a frame address. -/
def frType (a : Nat) : Nat := a / 2 ^ 12 % 8
/-- The row of a frame address. -/
def frRow (a : Nat) : Nat := a % 2 ^ 12

/-- Whether a row of a column exists (Table 14.4); `n` is the stride's number of scheduled steps. -/
def rowExists (n a : Nat) : Bool :=
  let row := frRow a
  let first := frTile a % 16 == 0
  match frType a with
  | 0 => decide (row < n)
  | 1 => decide (row < n / 2)
  | 2 => decide (row < 512)
  | 3 => decide (row < 16)
  | 4 => decide (row ≤ 1) || (first && (row == 16 || row == 17))
  | 5 => decide (row ≤ 72) || (first && decide (128 ≤ row) && decide (row ≤ 176))
  | _ => false

/-- Whether a row belongs to the base image only (R344). -/
def baseOnly (a : Nat) : Bool :=
  (frType a == 4 && frRow a != 0) || (frType a == 5 && decide (128 ≤ frRow a))

/-- A word of a row's payload; a missing word is zero. -/
def payWord (ws : List Word) (i : Nat) : Word := ws.getD i 0

/-! ### The fabric part of a row -/

/-- Whether a sparse key lies in a row of the instruction column: its cell is in the tile and its row is `n`. -/
def inInstr (t n k : Nat) : Bool := k % 2048 == n && k / 2048 / 1024 == t

/-- Whether an entry part's key lies in a schedule row: `w` parts for each cluster and step. -/
def inSched (w t n k : Nat) : Bool := k / w % 2048 / 2 == n && k / w / 2048 / 16 == t

/-- The map without the keys a predicate names. -/
def without {α : Type} (p : Nat → Bool) (m : List (Nat × α)) : List (Nat × α) := m.filter (fun e => !p e.1)

/-- The cleared state of a row (R345, Table 14.6): its sparse entries are no longer listed. -/
def clearRow (s : State) (a : Nat) : State :=
  let t := frTile a
  let n := frRow a
  let f := s.fab
  match frType a with
  | 0 => { s with fab := { f with imem := without (inInstr t n) f.imem, ipar := without (inInstr t n) f.ipar } }
  | 1 => { s with fab := { f with
      sel := without (inSched 32 t n) f.sel, co := without (inSched 8 t n) f.co
      route := without (inSched 64 t n) f.route, spar := without (inSched 104 t n) f.spar } }
  | 2 =>
    let mine := fun k => k / 4096 == 512 * t + n
    { s with fab := { f with dmem := without mine f.dmem, dmemErr := without mine f.dmemErr
                             fixes := without mine f.fixes, dirty := without (fun k => k / 2048 == 512 * t + n) f.dirty } }
  | 3 =>
    let mine := fun k => k / 65536 == 16 * t + n
    { s with fab := { f with smap := without mine f.smap, domain := without (fun k => k / 64 == 16 * t + n) f.domain } }
  | 5 =>
    if n < 8 then { s with regs := mclear s.regs (regAddr .SE_IMEM t (2048 * n)) (8 * 2048)
                           imemPar := mclear s.imemPar (regAddr .SE_IMEM t (2048 * n)) (8 * 2048) }
    else if n < 72 then { s with mem := mclear s.mem (spdAddr t (2048 * (n - 8))) (8 * 2048)
                                 memErr := mclear s.memErr (spdAddr t (2048 * (n - 8))) (8 * 2048) }
    else if n < 128 then s
    else if n < 144 then { s with regs := mclear s.regs (regAddr .SUP_IMEM (t / 16) (2048 * (n - 128))) (8 * 2048)
                                  imemPar := mclear s.imemPar (regAddr .SUP_IMEM (t / 16) (2048 * (n - 128))) (8 * 2048) }
    else if n < 176 then { s with regs := mclear s.regs (regAddr .SUP_DMEM (t / 16) (2048 * (n - 144))) (8 * 2048) }
    else s
  | _ => s

/-- Words put one by one by index. -/
def putIndexed (put : Nat → Word → State → State) : Nat → List Word → State → State
  | _, [], s => s
  | i, w :: ws, s => putIndexed put (i + 1) ws (put i w s)

/-- An instruction row of every cell of a tile. -/
def writeInstrRow (s : State) (t n : Nat) (ws : List Word) : State :=
  { s with fab := { s.fab with imem := (List.range 1024).foldl (fun m i =>
      mset 0 m (2048 * (1024 * t + i) + n) (payWord ws (2 * i + 1) ++ payWord ws (2 * i))) s.fab.imem } }

/-- Bits of an entry of 59 words (R106). -/
def entryBits (ws : List Word) (base lo n : Nat) : Nat :=
  (List.range n).foldl (fun v j => v + flag ((payWord ws (base + (lo + j) / 40)).getLsbD ((lo + j) % 40)) * 2 ^ j) 0

/-- A schedule row of every cluster of a tile (R106). -/
def writeSchedRow (s : State) (t n : Nat) (ws : List Word) : State :=
  (List.range 32).foldl (fun s j =>
    let k := 2048 * (16 * t + j % 16) + 2 * n + j / 16
    let base := 944 * (j / 16) + 59 * (j % 16)
    let f := s.fab
    { s with fab := { f with
      sel := (List.range 32).foldl (fun m o => mset 0 m (32 * k + o) (entryBits ws base (32 * o) 32)) f.sel
      co := (List.range 8).foldl (fun m o => mset 0x7F m (8 * k + o) (entryBits ws base (1024 + 7 * o) 7)) f.co
      route := (List.range 64).foldl (fun m i =>
        mset 0xFE000 m (64 * k + i) (entryBits ws base (1080 + 20 * i) 20)) f.route } }) s

/-- A row of state maps and domain numbers (Table 14.5). -/
def writeSmapRow (s : State) (t c : Nat) (ws : List Word) : State :=
  (List.range 64).foldl (fun s j =>
    let ci := 64 * (16 * t + c) + j
    { s with fab := { s.fab with
      smap := (List.range 1024).foldl (fun m w =>
        mset false m (1024 * ci + w) ((payWord ws (32 * j + w / 40)).getLsbD (w % 40))) s.fab.smap
      domain := mset 0 s.fab.domain ci (bitsOf (payWord ws (32 * j + 25)).toNat 27 24) } }) s

/-- What a frame puts in place at once (R348 step 5): rows of the fabric and of the memories. The queue and zone
configuration and the boot words are configured values, applied with the others. -/
def writeRow (s : State) (a : Nat) (ws : List Word) : State :=
  let t := frTile a
  let n := frRow a
  match frType a with
  | 0 => writeInstrRow (clearRow s a) t n ws
  | 1 => writeSchedRow (clearRow s a) t n ws
  | 2 => putIndexed (fun i w s => let ci := 1024 * t + 2 * n + i / 1024; writeEntry s ci (i % 1024) (s.committed ci (i % 1024)) w)
      0 (ws.take 2048) s
  | 3 => writeSmapRow (clearRow s a) t n ws
  | 5 =>
    if n < 8 then putIndexed (fun i w s => s.setReg .SE_IMEM t (2048 * n + i) w) 0 (ws.take 2048) (clearRow s a)
    else if n < 72 then putIndexed (fun i w s => writeSpd s t (2048 * (n - 8) + i) w) 0 (ws.take 2048) s
    else if n < 128 then s
    else if n < 144 then
      putIndexed (fun i w s => s.setReg .SUP_IMEM (t / 16) (2048 * (n - 128) + i) w) 0 (ws.take 2048) (clearRow s a)
    else if n < 176 then
      putIndexed (fun i w s => s.setReg .SUP_DMEM (t / 16) (2048 * (n - 144) + i) w) 0 (ws.take 2048) (clearRow s a)
    else s
  | _ => s

/-! ### The content check (R348 step 4) -/

/-- Whether a slot value holds an encoding a register write would ignore as reserved (R6). -/
def Reg.holdsReserved (r : Reg) (w : Word) : Bool :=
  r.fields.any (fun f => f.acc != .RO && f.isReserved (bitsOf w.toNat f.hi f.lo))

/-- Whether queue `q` of QZCFG row 0 is in its cleared state. -/
def queueClear (ws : List Word) (q : Nat) : Bool :=
  payWord ws (4 * q) == 0 && payWord ws (4 * q + 1) == 0 && payWord ws (4 * q + 2) == 0

/-- The state with the queue registers of a tile as QZCFG row 0 gives them. -/
def queueTrial (s : State) (t : Nat) (ws : List Word) : State :=
  (List.range 16).foldl (fun s q =>
    if queueClear ws q then
      ((s.setReg .QC_CFG t q (Reg.resetWord .QC_CFG t q)).setReg .QC_SIZE t q 0).setReg .QC_WM t q 0
    else ((s.setReg .QC_CFG t q (payWord ws (4 * q))).setReg .QC_SIZE t q (payWord ws (4 * q + 1))).setReg
      .QC_WM t q (payWord ws (4 * q + 2))) s

/-- The checks of a QZCFG row 0 (R123, R133, R348). -/
def queueRowOk (s : State) (t : Nat) (ws : List Word) : Bool :=
  let s1 := queueTrial s t ws
  let lane := (payWord ws 64).toNat
  let rx := bitsOf lane F.QC_LANE.RX_EN.hi F.QC_LANE.RX_EN.lo == 1
  let tx := bitsOf lane F.QC_LANE.TX_EN.hi F.QC_LANE.TX_EN.lo == 1
  (List.range 16).all (fun q => queueClear ws q ||
    (!(Reg.holdsReserved .QC_CFG (payWord ws (4 * q))) && !(Reg.holdsReserved .QC_SIZE (payWord ws (4 * q + 1))) &&
      !(Reg.holdsReserved .QC_WM (payWord ws (4 * q + 2))) &&
      rangeCheck s1 t q (s1.fld F.QC_SIZE.BASE t q) (s1.fld F.QC_SIZE.LEN t q) == 0)) &&
  (decide (12 ≤ t % 16) ||
    (!(Reg.holdsReserved .QC_LANE (payWord ws 64)) &&
      (!rx || groupOk s1 t (bitsOf lane F.QC_LANE.RX_Q.hi F.QC_LANE.RX_Q.lo) (bitsOf lane F.QC_LANE.RX_K.hi F.QC_LANE.RX_K.lo) false) &&
      (!tx || groupOk s1 t (bitsOf lane F.QC_LANE.TX_Q.hi F.QC_LANE.TX_Q.lo) (bitsOf lane F.QC_LANE.TX_K.hi F.QC_LANE.TX_K.lo) true)))

/-- The corners of a zone entry of QZCFG row 16, if it is VALID. -/
def zoneEntry (w : Word) : Option ZoneRect :=
  let n := w.toNat
  if bitOf n 39 then some ⟨bitsOf n 38 37, bitsOf n 36 35, bitsOf n 34 33, bitsOf n 32 31⟩ else none

/-- Whether two rectangles of tiles overlap. -/
def ZoneRect.overlaps (a b : ZoneRect) : Bool :=
  decide (a.x0 ≤ b.x1) && decide (b.x0 ≤ a.x1) && decide (a.y0 ≤ b.y1) && decide (b.y0 ≤ a.y1)

/-- The checks of the zone table. -/
def zoneRowOk (ws : List Word) : Bool :=
  let zs := (List.range 16).filterMap (fun z => (zoneEntry (payWord ws z)).map (fun r => (z, r)))
  zs.all (fun a => decide (a.2.x0 ≤ a.2.x1) && decide (a.2.y0 ≤ a.2.y1) &&
    zs.all (fun b => a.1 == b.1 || !(a.2.overlaps b.2)))

/-- Whether park policy `p` is reserved for box output `k`, counted 32 · cluster + output in its tile. -/
def parkBad (k p : Nat) : Bool := decide (4 < p) || (p == 4 && k != 30)

/-- The entries of the park table that take effect: outputs 0 to 7, 29 and 31 are no border ports. -/
def parkOutput (k : Nat) : Bool := decide (8 ≤ k % 32) && k % 32 != 29 && k % 32 != 31

/-- The content check of a frame (R348 step 4): whether it fails with CFG_VALUE. -/
def rowBad (s : State) (a : Nat) (ws : List Word) : Bool :=
  match frType a, frRow a with
  | 4, 0 => !queueRowOk s (frTile a) ws
  | 4, 1 => (List.range 512).any (fun k => parkOutput k && parkBad k (bitsOf (payWord ws (2 * k)).toNat 2 0))
  | 4, 16 => !zoneRowOk ws
  | 4, 17 => (List.range 272).any (fun k =>
      let w := payWord ws k
      Reg.holdsReserved .RTE_DOM w || decide (65536 < bitsOf w.toNat F.RTE_DOM.DIV.hi F.RTE_DOM.DIV.lo))
  | 5, 72 => Reg.holdsReserved .SE_BOOT (payWord ws 0)
  | 5, 176 => Reg.holdsReserved .SUP_BOOT (payWord ws 0)
  | _, _ => false

/-! ### The retained configuration (R371) -/

/-- The configured fields of a slot value. -/
def Reg.configuredBits (r : Reg) (w : Word) : Word :=
  BitVec.ofNat 40 (r.fields.foldl (fun n f => if f.configured then putBits n f.hi f.lo (bitsOf w.toNat f.hi f.lo) else n) 0)

/-- A configured value kept for a slot; the value of the cleared state is not listed. -/
def keepConf (c : List (Nat × Word)) (r : Reg) (u i : Nat) (w : Word) : List (Nat × Word) :=
  mset (r.resetWord u i) c (regAddr r u i) (r.configuredBits w)

/-- The configured value of a slot. -/
def State.confOf (s : State) (r : Reg) (u i : Nat) : Word := mget (r.resetWord u i) s.ret.conf (regAddr r u i)

/-- What the retained configuration takes from a row (R371, R381): initial values and configured values. -/
def retainRow (rt : Retained) (a : Nat) (ws : List Word) : Retained :=
  let t := frTile a
  let n := frRow a
  match frType a, n with
  | 2, _ => { rt with dinit := (List.range 2048).foldl (fun m i =>
      mset 0 m (1024 * (1024 * t + 2 * n + i / 1024) + i % 1024) (payWord ws i)) rt.dinit }
  | 4, 0 =>
    let c := (List.range 16).foldl (fun c q =>
      if queueClear ws q then
        keepConf (keepConf (keepConf c .QC_CFG t q (Reg.resetWord .QC_CFG t q)) .QC_SIZE t q 0) .QC_WM t q 0
      else keepConf (keepConf (keepConf c .QC_CFG t q (payWord ws (4 * q))) .QC_SIZE t q (payWord ws (4 * q + 1)))
        .QC_WM t q (payWord ws (4 * q + 2))) rt.conf
    { rt with conf := if t % 16 < 12 then keepConf c .QC_LANE t 0 (payWord ws 64) else c }
  | 4, 1 =>
    let park := (List.range 512).foldl (fun m k =>
      if parkOutput k then mset (0, 0) m (512 * t + k) (bitsOf (payWord ws (2 * k)).toNat 2 0, payWord ws (2 * k + 1))
      else m) rt.park
    { rt with park := park }
  | 4, 17 => { rt with conf := (List.range 272).foldl (fun c k => keepConf c .RTE_DOM (t / 16) k (payWord ws k)) rt.conf }
  | 5, 72 => { rt with conf := keepConf rt.conf .SE_BOOT t 0 (payWord ws 0) }
  | 5, 176 => { rt with conf := keepConf rt.conf .SUP_BOOT (t / 16) 0 (payWord ws 0) }
  | _, _ => rt

/-- A slot takes its configured value; its other fields stay. -/
def applyConf (s : State) (r : Reg) (u i : Nat) : State :=
  s.setReg r u i (BitVec.ofNat 40 (r.fields.foldl (fun n f =>
    if f.configured then putBits n f.hi f.lo (bitsOf (s.confOf r u i).toNat f.hi f.lo) else n) (s.reg r u i).toNat))

/-- The queues of a tile restored to their configured state: values, contents and marks (R135). Pushes a node has
accepted reach the restored queues (R401); values pending in the RWQ fields are discarded (R8). -/
def restoreQueues (s : State) (t : Nat) : State :=
  let s1 := (List.range 16).foldl (fun s q =>
    let v := s.q t q
    let s1 := applyConf (applyConf (applyConf s .QC_CFG t q) .QC_SIZE t q) .QC_WM t q
    let s2 := { s1 with rwq := s1.rwq.filter (fun e => e.addr != regAddr .QC_CFG t q) }
    (s2.putQ t q { waiting := v.waiting }).drain t q) s
  let s2 := if t % 16 < 12 then applyConf s1 .QC_LANE t 0 else s1
  { s2 with tiles := mset {} s2.tiles t { mget {} s2.tiles t with laneRx := 0, laneTx := 0 } }

/-- The data memories of a tile rewritten from the current initial values; dirty flags and route-out registers clear
(R89). The other entry of each word keeps what it holds. -/
def restoreCells (s : State) (t : Nat) : State :=
  let mine := fun k => k / 2097152 == t
  let committedKey := fun k => mine k && flag (mget false s.fab.role (k / 2)) == k % 2
  let f := s.fab
  let init := s.ret.dinit.filter (fun e => e.1 / 1048576 == t)
  let dmem := init.foldl (fun m e => mset 0 m (2 * e.1 + flag (mget false f.role e.1)) e.2) (without committedKey f.dmem)
  { s with fab := { f with
    dmem := dmem
    dmemErr := without committedKey f.dmemErr
    fixes := without committedKey f.fixes
    dirty := without (fun k => k / 1048576 == t) f.dirty
    routeOut := without (fun k => k / 1024 == t) f.routeOut } }

/-- The base rows of the tiles a predicate names, as they stand (R371). -/
def takeBase (s : State) (p : Nat → Bool) : BaseRows :=
  let f := s.fab
  { imem := f.imem.filter (fun e => p (e.1 / 2048 / 1024)),
    sel := f.sel.filter (fun e => p (e.1 / 32 / 2048 / 16)),
    co := f.co.filter (fun e => p (e.1 / 8 / 2048 / 16)),
    route := f.route.filter (fun e => p (e.1 / 64 / 2048 / 16)),
    smap := f.smap.filter (fun e => p (e.1 / 1048576)),
    domain := f.domain.filter (fun e => p (e.1 / 1024)),
    dinit := s.ret.dinit.filter (fun e => p (e.1 / 1048576)),
    conf := s.ret.conf.filter (fun e => match decodeReg e.1 with
      | some q => q.reg != .RTE_DOM && q.reg != .SUP_BOOT && p q.unit
      | none => false),
    simem := s.regs.filter (fun e => (List.range 64).any (fun t => p t &&
      decide (regAddr .SE_IMEM t 0 ≤ e.1) && decide (e.1 < regAddr .SE_IMEM t 16384))),
    spd := s.mem.filter (fun e => (List.range 64).any (fun t => p t &&
      decide (spdAddr t 0 ≤ e.1) && decide (e.1 < spdAddr t 0 + 0x100000))) }

/-- Entries put into a map one by one. -/
def putAll {α : Type} [DecidableEq α] (d : α) (es m : List (Nat × α)) : List (Nat × α) :=
  es.foldl (fun m e => mset d m e.1 e.2) m

/-- Every row of a tile rewritten from the base rows (R379 RELOAD): instruction rows, schedule, state maps, domain
numbers, engine images, and the initial and configured values, which become the current ones. -/
def reloadTile (s : State) (t : Nat) : State :=
  let b := s.ret.base
  let f := s.fab
  let ic := fun k => k / 2048 / 1024 == t
  let sc (w : Nat) := fun k => k / w / 2048 / 16 == t
  let fab := { f with
    imem := putAll 0 (b.imem.filter (fun e => ic e.1)) (without ic f.imem)
    ipar := without ic f.ipar
    sel := putAll 0 (b.sel.filter (fun e => sc 32 e.1)) (without (sc 32) f.sel)
    co := putAll 0x7F (b.co.filter (fun e => sc 8 e.1)) (without (sc 8) f.co)
    route := putAll 0xFE000 (b.route.filter (fun e => sc 64 e.1)) (without (sc 64) f.route)
    spar := without (sc 104) f.spar
    smap := putAll false (b.smap.filter (fun e => e.1 / 1048576 == t)) (without (fun k => k / 1048576 == t) f.smap)
    domain := putAll 0 (b.domain.filter (fun e => e.1 / 1024 == t)) (without (fun k => k / 1024 == t) f.domain) }
  let i0 := regAddr .SE_IMEM t 0
  let m0 := spdAddr t 0
  let confMine := fun a => match decodeReg a with
    | some q => q.reg != .RTE_DOM && q.reg != .SUP_BOOT && q.unit == t
    | none => false
  let rt := { s.ret with
    dinit := putAll 0 (b.dinit.filter (fun e => e.1 / 1048576 == t)) (without (fun k => k / 1048576 == t) s.ret.dinit)
    conf := (b.conf.filter (fun e => confMine e.1)).foldl (fun m e => minsert m e.1 e.2) (without confMine s.ret.conf) }
  { s with
    fab := fab
    ret := rt
    regs := putAll 0 (b.simem.filter (fun e => decide (i0 ≤ e.1) && decide (e.1 < i0 + 8 * 16384)))
      (mclear s.regs i0 (8 * 16384))
    imemPar := mclear s.imemPar i0 (8 * 16384)
    mem := putAll 0 (b.spd.filter (fun e => decide (m0 ≤ e.1) && decide (e.1 < m0 + 0x100000))) (mclear s.mem m0 0x100000)
    memErr := mclear s.memErr m0 0x100000 }

end Sys2Proof.Machine
end

