-- ==== Sys2Proof/Machine/LineCode.lean ====
section
/-! DEFINITION. The line codes of a lane as functions on bits: PAM4 mapping and precoding (R211, R212), pattern
generators (R235), 8b/10b (R224, R225), the 64b/66b scrambler (R226) and RS(544,514) (R228). The 8b/10b code table and
the field and generator of Clause 91 are standards the spec names and does not print (log entry 24). -/

namespace Sys2Proof.Machine

/-! ### Symbols (R211, R212) -/

/-- The PAM4 level of a pair of bits (Table 9.2). -/
def pamLevel (gray b0 b1 : Bool) : Nat :=
  match b0, b1 with
  | false, false => 0
  | false, true => if gray then 1 else 2
  | true, true => if gray then 2 else 3
  | true, false => if gray then 3 else 1

/-- The pair of bits of a PAM4 level. -/
def pamBits (gray : Bool) (l : Nat) : List Bool :=
  match l with
  | 0 => [false, false]
  | 1 => if gray then [false, true] else [true, false]
  | 2 => if gray then [true, true] else [false, true]
  | _ => if gray then [true, false] else [true, true]

/-- The symbols of line bits, before precoding. -/
def bitsToSyms (pam gray : Bool) : List Bool → List Nat
  | [] => []
  | [b] => if pam then [pamLevel gray b false] else [flag b]
  | b :: c :: bs => if pam then pamLevel gray b c :: bitsToSyms pam gray bs
                    else flag b :: bitsToSyms pam gray (c :: bs)

/-- The precoder 1/(1+D): the symbols sent and the last one (R212). -/
def precode : Nat → List Nat → List Nat × Nat
  | p, [] => ([], p)
  | p, g :: gs =>
    let q := (g + 4 - p) % 4
    let r := precode q gs
    (q :: r.1, r.2)

/-- The precoding decoder: the symbols recovered and the last one received (R212). -/
def deprecode : Nat → List Nat → List Nat × Nat
  | p, [] => ([], p)
  | p, q :: qs =>
    let r := deprecode q qs
    ((q + p) % 4 :: r.1, r.2)

/-- The levels at the land under a polarity bit (R211). -/
def polarise (pam pol : Bool) (ls : List Nat) : List Nat :=
  if pol then ls.map (fun l => (if pam then 3 else 1) - l) else ls

/-! ### Bits and words -/

/-- The `n` low bits of a number, bit 0 first. -/
def bitList : Nat → Nat → List Bool
  | 0, _ => []
  | n + 1, v => (v % 2 == 1) :: bitList n (v / 2)

/-- The number that bits spell, first bit lowest. -/
def bitsNat (bs : List Bool) : Nat := bs.foldr (fun b n => flag b + 2 * n) 0

/-! ### Patterns (R235) -/

/-- Degree and taps of a PRBS polynomial. -/
def prbsPoly (sel : Nat) : Nat × List Nat :=
  match sel with
  | 0 => (7, [7, 6])
  | 1 => (9, [9, 5])
  | 2 => (13, [13, 12, 2, 1])
  | 3 => (15, [15, 14])
  | 4 => (23, [23, 18])
  | _ => (31, [31, 28])

/-- The next bit of a Fibonacci register and its next state; bit i − 1 of the state is stage i. -/
def prbsStep (sel reg : Nat) : Bool × Nat :=
  let p := prbsPoly sel
  let b := p.2.foldl (fun x t => x != bitOf reg (t - 1)) false
  (b, (2 * reg + flag b) % 2 ^ p.1)

/-- The all-ones state. -/
def prbsOnes (sel : Nat) : Nat := 2 ^ (prbsPoly sel).1 - 1

/-- `n` bits of a generator and its state after them. -/
def prbsRun (sel : Nat) : Nat → Nat → List Bool × Nat
  | 0, reg => ([], reg)
  | n + 1, reg =>
    let s := prbsStep sel reg
    let r := prbsRun sel n s.2
    (s.1 :: r.1, r.2)

/-! ### 8b/10b (R224, R225) -/

/-- The six-bit codes abcdei at negative running disparity, `a` in bit 0. -/
def code6 (x : Nat) : Nat :=
  ([0x39, 0x2E, 0x2D, 0x23, 0x2B, 0x25, 0x26, 0x07, 0x27, 0x29, 0x2A, 0x0B, 0x2C, 0x0D, 0x0E, 0x3A] ++
   [0x36, 0x31, 0x32, 0x13, 0x34, 0x15, 0x16, 0x17, 0x33, 0x19, 0x1A, 0x1B, 0x1C, 0x1D, 0x1E, 0x35] : List Nat).getD x 0

/-- The four-bit codes fghj at a running disparity, `f` in bit 0; index 8 is the alternate code of 7. -/
def code4 (plus : Bool) (y : Nat) : Nat :=
  if plus then ([0x2, 0x9, 0xA, 0xC, 0x4, 0x5, 0x6, 0x8, 0x1] : List Nat).getD y 0
  else ([0xD, 0x9, 0xA, 0x3, 0xB, 0x5, 0x6, 0x7, 0xE] : List Nat).getD y 0

/-- The control code groups at negative running disparity, bit 0 sent first. -/
def kCodes : List (Nat × Nat) :=
  [(0x1C, 0x0BC), (0x3C, 0x27C), (0x5C, 0x2BC), (0x7C, 0x33C), (0x9C, 0x13C), (0xBC, 0x17C)] ++
  [(0xDC, 0x1BC), (0xFC, 0x07C), (0xF7, 0x057), (0xFB, 0x05B), (0xFD, 0x05D), (0xFE, 0x05E)]

/-- A data byte's ten bits at a running disparity. -/
def encodeData (plus : Bool) (b : Nat) : Nat :=
  let x := b % 32
  let y := b / 32
  let c := code6 x
  let skew := popBits 6 c != 3
  let six := if plus && (skew || x == 7) then 63 - c else c
  let plus4 := if skew then !plus else plus
  let alt := y == 7 && (if plus4 then x == 11 || x == 13 || x == 14 else x == 17 || x == 18 || x == 20)
  six + 64 * code4 plus4 (if alt then 8 else y)

/-- A code group for a byte: its ten bits and the running disparity after it. A K request for a byte without a K code
group sends 111110 0000 and keeps the disparity (R225). -/
def encode10 (plus k : Bool) (b : Nat) : Nat × Bool :=
  if k then
    match kCodes.find? (fun e => e.1 == b) with
    | none => (0x01F, plus)
    | some e =>
      let c := if plus then 1023 - e.2 else e.2
      (c, if popBits 10 c = 5 then plus else !plus)
  else
    let c := encodeData plus b
    (c, if popBits 10 c = 5 then plus else !plus)

/-- The byte a code group spells at a running disparity, with whether it is a K code group. -/
def lookup10 (plus : Bool) (c : Nat) : Option (Bool × Nat) :=
  match (List.range 256).find? (fun b => encodeData plus b == c) with
  | some b => some (false, b)
  | none => (kCodes.find? (fun e => (if plus then 1023 - e.2 else e.2) == c)).map (fun e => (true, e.1))

/-- The disparity after a received group: that of its ones, or the one before it when they balance. -/
def nextDisp (plus : Bool) (c : Nat) : Bool :=
  if 5 < popBits 10 c then true else if popBits 10 c < 5 then false else plus

/-- A received code group in the form of R225: its ten bits of the word, or `none` in place of the byte when the group
is not in the table, whether it was invalid, and the disparity after it. -/
def decode10 (plus : Bool) (c : Nat) : Option (Bool × Nat) × Bool × Bool :=
  match lookup10 plus c with
  | some r => (some r, false, nextDisp plus c)
  | none => (lookup10 (!plus) c, true, nextDisp plus c)

/-! ### The scrambler x⁵⁸ + x³⁹ + 1 (R226) -/

/-- Bits scrambled, and the state after them; the state holds the last 58 bits sent, the newest in bit 0. -/
def scramble : Nat → List Bool → List Bool × Nat
  | st, [] => ([], st)
  | st, b :: bs =>
    let o := (b != bitOf st 38) != bitOf st 57
    let r := scramble ((2 * st + flag o) % 2 ^ 58) bs
    (o :: r.1, r.2)

/-- Bits descrambled, and the state after them. -/
def descramble : Nat → List Bool → List Bool × Nat
  | st, [] => ([], st)
  | st, b :: bs =>
    let o := (b != bitOf st 38) != bitOf st 57
    let r := descramble ((2 * st + flag b) % 2 ^ 58) bs
    (o :: r.1, r.2)

/-! ### RS(544,514) over GF(2¹⁰) (R228) -/

/-- Multiplication by α modulo x¹⁰ + x³ + 1. -/
def g10Twice (a : Nat) : Nat := if a < 512 then 2 * a else (2 * a - 1024) ^^^ 9

/-- The product over the low `n` bits of `b`. -/
def g10MulBits : Nat → Nat → Nat → Nat
  | 0, _, _ => 0
  | n + 1, a, b => (if b % 2 = 1 then a else 0) ^^^ g10MulBits n (g10Twice a) (b / 2)

/-- The product of two field elements. -/
def g10Mul (a b : Nat) : Nat := g10MulBits 10 a b

/-- α to the power `n`. -/
def g10Alpha : Nat → Nat
  | 0 => 1
  | n + 1 => g10Twice (g10Alpha n)

/-- A power. -/
def g10Pow (a : Nat) : Nat → Nat
  | 0 => 1
  | n + 1 => g10Mul a (g10Pow a n)

/-- The inverse: a to the power 1,022. -/
def g10Inv (a : Nat) : Nat := g10Pow a 1022

/-- A polynomial, constant term first, at a point. -/
def polyAt (x : Nat) (p : List Nat) : Nat := p.foldr (fun c a => g10Mul a x ^^^ c) 0

/-- The product of a polynomial and x + r. -/
def polyMulRoot (r : Nat) (p : List Nat) : List Nat :=
  List.zipWith (fun a b => a ^^^ b) (0 :: p) (p.map (g10Mul r) ++ [0])

/-- The generator polynomial with roots α⁰ to α²⁹, constant term first. -/
def fecGen : List Nat := (List.range 30).foldl (fun p j => polyMulRoot (g10Alpha j) p) [1]

/-- One more symbol through the division by the generator; the remainder holds the highest term first. -/
def fecStep (gen rem : List Nat) (d : Nat) : List Nat :=
  match rem with
  | [] => []
  | h :: t =>
    let f := d ^^^ h
    List.zipWith (fun a g => a ^^^ g10Mul f g) (t ++ [0]) gen

/-- The remainder before any symbol. -/
def fecZero : List Nat := List.replicate 30 0

/-- The remainder after message symbols: the parity symbols, first sent first. -/
def fecParity (rem : List Nat) (msg : List Nat) : List Nat :=
  msg.foldl (fecStep (fecGen.take 30).reverse) rem

/-- The syndromes of a received codeword. -/
def fecSyndromes (r : List Nat) : List Nat :=
  (List.range 30).map (fun j => r.foldl (fun a s => g10Mul a (g10Alpha j) ^^^ s) 0)

/-- The state of Berlekamp–Massey: locator, previous locator, length, shift and previous discrepancy. -/
structure BM where
  c : List Nat
  b : List Nat
  l : Nat
  m : Nat
  d : Nat

/-- Sum of two polynomials of any lengths. -/
def polyAdd : List Nat → List Nat → List Nat
  | [], q => q
  | p, [] => p
  | a :: p, b :: q => (a ^^^ b) :: polyAdd p q

/-- One step of Berlekamp–Massey on syndrome `n`. -/
def bmStep (syn : List Nat) (s : BM) (n : Nat) : BM :=
  let d := (List.range (s.l + 1)).foldl (fun a i => a ^^^ g10Mul (s.c.getD i 0) (syn.getD (n - i) 0)) 0
  if d = 0 then { s with m := s.m + 1 }
  else
    let k := g10Mul d (g10Inv s.d)
    let c' := polyAdd s.c (List.replicate s.m 0 ++ s.b.map (g10Mul k))
    if 2 * s.l ≤ n then { c := c', b := s.c, l := n + 1 - s.l, m := 1, d := d }
    else { s with c := c', m := s.m + 1 }

/-- The error locator of the syndromes and its length. -/
def bmRun (syn : List Nat) : BM := (List.range 30).foldl (bmStep syn) { c := [1], b := [1], l := 0, m := 1, d := 1 }

/-- The product of two polynomials. -/
def polyMul : List Nat → List Nat → List Nat
  | [], _ => []
  | a :: p, q => polyAdd (q.map (g10Mul a)) (0 :: polyMul p q)

/-- The formal derivative: the odd terms, one degree down. -/
def polyDeriv (p : List Nat) : List Nat := (p.drop 1).zipIdx.map (fun e => if e.2 % 2 = 0 then e.1 else 0)

/-- The errors of a codeword: positions and values, or none when more than 15 symbols are wrong. -/
def fecErrors (syn : List Nat) : Option (List (Nat × Nat)) :=
  let s := bmRun syn
  let om := (polyMul syn s.c).take 30
  let dv := polyDeriv s.c
  let errs := (List.range 544).filterMap (fun i =>
    let x := g10Alpha (543 - i)
    let xi := g10Inv x
    if polyAt xi s.c = 0 then some (i, g10Mul x (g10Mul (polyAt xi om) (g10Inv (polyAt xi dv)))) else none)
  if s.l ≤ 15 ∧ errs.length = s.l then some errs else none

/-- A symbol changed. -/
def fixSym (r : List Nat) (e : Nat × Nat) : List Nat := r.take e.1 ++ [(r.getD e.1 0) ^^^ e.2] ++ r.drop (e.1 + 1)

/-- A received codeword decoded (R228): the symbols, and the number corrected, or none when uncorrectable. -/
def fecDecode (r : List Nat) : List Nat × Option Nat :=
  let syn := fecSyndromes r
  if syn.all (· == 0) then (r, some 0)
  else match fecErrors syn with
    | none => (r, none)
    | some es =>
      let r' := es.foldl fixSym r
      if (fecSyndromes r').all (· == 0) then (r', some es.length) else (r, none)

/-- The 129 words of a decoded codeword (R230). -/
def fecWords (r : List Nat) (corrected : Option Nat) (locked : Bool) : List Word :=
  let n := bitsNat ((r.take 514).flatMap (bitList 10))
  (List.range 128).map (fun w => BitVec.ofNat 40 (n / 2 ^ (40 * w))) ++
    [BitVec.ofNat 40 (bitsOf n 5139 5120 + (corrected.getD 0) * 2 ^ 20 + flag corrected.isNone * 2 ^ 25 + flag locked * 2 ^ 26)]

end Sys2Proof.Machine
end

