-- ==== Sys2Proof/Machine/Lane.lean ====
section
/-! DEFINITION. Test lanes: the transmitter, the pattern checker, the PCS decoders, injection and monitoring
(Chapter 9). Lane `l` is the lane of tile l mod 12 of region l div 12. -/

namespace Sys2Proof.Machine

/-- The flat tile of a lane. -/
def laneTile (l : Nat) : Nat := 16 * (l / 12) + l % 12

/-- The lane of a flat tile 0 to 11 of a region. -/
def tileLane (t : Nat) : Nat := 12 * (t / 16) + t % 16

/-- The state of a lane. -/
def State.lane (s : State) (l : Nat) : LaneSt := mget {} s.lanes l

/-- The state with a lane's state set. -/
def State.setLane (s : State) (l : Nat) (v : LaneSt) : State := { s with lanes := mset {} s.lanes l v }

/-- A field of a lane's registers. -/
def State.lf (s : State) (l : Nat) (f : Fld) : Nat := s.fld f (laneTile l)

/-- The state with a field of a lane's registers set. -/
def State.setLf (s : State) (l : Nat) (f : Fld) (v : Nat) : State := s.setFld f (laneTile l) 0 v

/-- Whether the lane runs PAM4. -/
def State.pam (s : State) (l : Nat) : Bool := s.lf l F.LN_RATE.MOD == 1

/-- Whether the lane is in the power state ON (Table 9.6). -/
def State.laneOn (s : State) (l : Nat) : Bool := s.lf l F.LN_STATUS.PSTATE == 1

/-- `n` unit intervals of a lane in units of device time, to the nearest (R213). -/
def State.uiTime (s : State) (l n : Nat) : Nat :=
  let b := Nat.max (s.lf l F.LN_RATE.BAUD) 1
  (n * 1024000000 + b / 2) / b

/-! ### Lane events (R246) -/

/-- A lane event, by its bit of LN_STATUS.EVT: the first while the bit is clear issues a record. -/
def laneEvent (s : State) (l bit : Nat) (inj : Bool := false) : State :=
  if bitOf (s.lf l F.LN_STATUS.EVT) bit then s
  else (s.orFld F.LN_STATUS.EVT (laneTile l) 0 bit).emitTile (0x3401 + bit) (laneTile l) inj

/-- A STATUS condition of the lane's detectors, decided in the last element (R257, Table 10.2). -/
def statusDet (s : State) (l sel : Nat) : State :=
  let v := s.lane l
  let hits := [0, 1].filter (fun d =>
    s.fld F.TRG_DET_CFG.KIND (laneTile l) d == 3 && s.fld F.TRG_DET_CFG.STAT_SEL (laneTile l) d == sel)
  if hits.isEmpty then s
  else s.setLane l { v with detQ := v.detQ ++ hits.map (fun d => ⟨d, v.cnt - 1, 0, v.lastT⟩) }

/-- A status bit cleared: the STATUS condition `sel` fires when it was set (R257). -/
def dropStatus (s : State) (l : Nat) (f : Fld) (sel : Nat) : State :=
  if s.lf l f = 0 then s else statusDet (s.setLf l f 0) l sel

/-! ### Availability of a rate and mode (R210, Table 9.3) -/

/-- Whether BAUD lies in the range of MOD and LN_PCS.MODE is available at that rate. -/
def rateOk (s : State) (l : Nat) : Bool :=
  let b := s.lf l F.LN_RATE.BAUD
  let inRange := if s.pam l then decide (26562500 ≤ b ∧ b ≤ 112500000) else decide (1250000 ≤ b ∧ b ≤ 32000000)
  let line := if s.pam l then 2 * b else b
  let modeOk := match s.lf l F.LN_PCS.MODE with
    | 0 => true
    | 1 => !s.pam l && decide (b ≤ 16000000)
    | 2 => !s.pam l || decide (b ≤ 56250000)
    | 3 => decide (10000000 ≤ line)
    | _ => false
  inRange && modeOk

/-! ### Injection (R237-R239) -/

/-- Whether an event of a kind applies to the direction and PCS mode (R237). -/
def injApplies (s : State) (l : Nat) (rx : Bool) (kind : Nat) : Bool :=
  let mode := s.lf l F.LN_PCS.MODE
  if rx then kind == 0
  else match kind with
    | 0 | 1 => true
    | 2 | 3 => mode == 1
    | 4 => mode == 2
    | 5 => mode == 3
    | _ => false

/-- LN_INJ_CTRL shows the sequence (R238). -/
def syncInj (s : State) (l : Nat) : State :=
  let v := s.lane l
  (s.setLf l F.LN_INJ_CTRL.REMAIN v.injLeft).setLf l F.LN_INJ_CTRL.BUSY (flag (decide (v.injLeft ≠ 0)))

/-- The events that wait to fall are gone; a codeword being corrupted stays so (kind 15). -/
def LaneSt.noInj (v : LaneSt) : LaneSt :=
  { v with injLeft := 0, rxInj := [], txInj := v.txInj.filter (fun e => e.1 == 15) }

/-- A sequence of `n` injection events starts, with the kind, direction, length and period of LN_INJ_CFG now; a sequence
that runs is replaced (R238, R239). -/
def startInj (s : State) (l n : Nat) : State :=
  syncInj (s.setLane l { (s.lane l).noInj with
    injLeft := n, injN := n, injRx := s.lf l F.LN_INJ_CFG.DIR == 1, injKind := s.lf l F.LN_INJ_CFG.KIND
    injLen := s.lf l F.LN_INJ_CFG.LEN, injPer := Nat.max (s.lf l F.LN_INJ_CFG.PERIOD) 1, injNext := 0 }) l

/-- A sequence ends at once (R238). -/
def stopInj (s : State) (l : Nat) : State := syncInj (s.setLane l (s.lane l).noInj) l

/-- `n` units of a kind pass at the transmitter. -/
def LaneSt.passInj (v : LaneSt) (k n : Nat) : LaneSt :=
  if !v.injRx && v.injKind == k then { v with injNext := v.injNext - n } else v

/-- A write of LN_INJ_CTRL (R238). -/
def writeInjCtrl (s : State) (l : Nat) (w : Word) : State :=
  let s1 := s.writeDefault .LN_INJ_CTRL (laneTile l) 0 w
  let s2 := if bitOf w.toNat 38 then stopInj s1 l else s1
  if bitOf w.toNat 39 then startInj s2 l (s2.lf l F.LN_INJ_CTRL.N) else s2

/-- INJECT_GO: a write of LN_INJ_CTRL with GO (R238). -/
def execInjectGo (lane : Lane) (value : Word) (s : State) : Host.Outcome State Fault Refusal :=
  .next (writeInjCtrl s lane value)

/-- INJECT_STOP (R238). -/
def execInjectStop (lane : Lane) (s : State) : Host.Outcome State Fault Refusal := .next (stopInj s lane)

/-- An injection event (R237): it falls on the next unit of its kind, or as many units later as the spacing of its
sequence leaves, and the one after it max(PERIOD, 1) units further. -/
def execInjectionEvent (lane : Lane) (s : State) : Host.Outcome State Fault Refusal :=
  let v := s.lane lane
  if v.injLeft = 0 then .next s
  else
    let left := v.injLeft - 1
    let left' := if left = 0 ∧ s.lf lane F.LN_INJ_CTRL.CONT = 1 then v.injN else left
    let v1 := { v with injLeft := left', injNext := v.injNext + v.injPer }
    if injApplies s lane v.injRx v.injKind then
      let v2 := if v.injRx then { v1 with rxInj := v1.rxInj ++ [(v.injNext, Nat.max v.injLen 1)] }
        else { v1 with txInj := v1.txInj ++ [(v.injKind, v.injNext, if v.injKind = 0 then Nat.max v.injLen 1 else v.injLen)] }
      .next (syncInj (s.setLane lane v2) lane)
    else .next (syncInj ((s.setLane lane v1).setLf lane F.LN_STATUS.INJ_NA 1) lane)

/-- Bits inverted from position `a`, `n` of them. -/
def flipBits (bs : List Bool) (e : Nat × Nat) : List Bool :=
  bs.zipIdx.map (fun b => if e.1 ≤ b.2 ∧ b.2 < e.1 + e.2 then !b.1 else b.1)

/-- What is left of events of `n` units: those still ahead, and the rest of one that reaches past the end. -/
def leftOver (n : Nat) (es : List (Nat × Nat)) : List (Nat × Nat) :=
  es.filterMap (fun e => if n ≤ e.1 then some (e.1 - n, e.2) else if n < e.1 + e.2 then some (0, e.1 + e.2 - n) else none)

/-- The transmit events of one kind. -/
def LaneSt.injOf (v : LaneSt) (k : Nat) : List (Nat × Nat) := (v.txInj.filter (fun e => e.1 == k)).map (fun e => e.2)

/-- The transmit events of one kind replaced. -/
def LaneSt.putInj (v : LaneSt) (k : Nat) (es : List (Nat × Nat)) : LaneSt :=
  { v with txInj := v.txInj.filter (fun e => e.1 != k) ++ es.map (fun e => (k, e.1, e.2)) }

/-- Events of one kind that fall on the next `n` units, each one unit long, and the lane without them. -/
def LaneSt.takeInj (v : LaneSt) (k n : Nat) : List Nat × LaneSt :=
  let es := v.injOf k
  ((es.filter (fun e => decide (e.1 < n))).map (fun e => e.1),
   v.putInj k ((es.filter (fun e => decide (n ≤ e.1))).map (fun e => (e.1 - n, e.2))))

/-! ### PCS encoders (R216, R225-R228) -/

/-- The code groups of one word (R225); `free` gives the disparity after a group sent in the wrong form. -/
def encodeGroups (free : Bool) (wrong bad : List Nat) (n : Nat) : Nat → Bool → List Bool × Bool
  | 0, plus => ([], plus)
  | k + 1, plus =>
    let i := 3 - k
    let b := bitsOf n (10 * i + 7) (10 * i)
    let kReq := bitOf n (10 * i + 8)
    let c :=
      if bad.contains i then (0x01F, plus)
      else if wrong.contains i then ((encode10 (!plus) kReq b).1, free)
      else encode10 plus kReq b
    let r := encodeGroups free wrong bad n k c.2
    (bitList 10 c.1 ++ r.1, r.2)

/-- The line bits of a 64b/66b block (R226, R227). -/
def encodeBlock (v : LaneSt) (scr : Bool) (w0 w1 : Word) : List Bool × LaneSt :=
  let h := v.takeInj 4 1
  let hdr := if h.1.isEmpty then bitList 2 (bitsOf w1.toNat 25 24) else [false, false]
  let pay := bitList 40 w0.toNat ++ bitList 24 w1.toNat
  let p := if scr then scramble v.txScr pay else (pay, v.txScr)
  (hdr ++ p.1, { h.2.passInj 4 1 with txScr := p.2 })

/-- A codeword's symbols inverted in bit 0, the first `n` of a list. -/
def corrupt (n : Nat) (syms : List Nat) : List Nat := syms.zipIdx.map (fun e => if e.2 < n then e.1 ^^^ 1 else e.1)

/-- One message word of a codeword (R228, R230): 4 symbols, or 2 symbols and the 30 parity symbols after word 128. An
injected corruption of LEN symbols holds for the codeword, as kind 15 with the symbols left. -/
def encodeFec (v : LaneSt) (w : Word) : List Bool × LaneSt :=
  let v1 := if v.txFecIx = 0 then
      let now := (v.injOf 5).filter (fun e => e.1 == 0)
      let later := ((v.injOf 5).filter (fun e => e.1 != 0)).map (fun e => (e.1 - 1, e.2))
      ((v.putInj 5 later).putInj 15 (now.map (fun e => (0, e.2)))).passInj 5 1
    else v
  let left := ((v1.injOf 15).map (fun e => e.2)).foldl Nat.max 0
  let rem := if v.txFecIx = 0 then fecZero else v.txFec
  let nSym := if v.txFecIx = 128 then 2 else 4
  let syms := (List.range nSym).map (fun i => bitsOf w.toNat (10 * i + 9) (10 * i))
  let rem' := fecParity rem syms
  let all := if v.txFecIx = 128 then syms ++ rem' else syms
  let v2 := v1.putInj 15 (if all.length < left then [(0, left - all.length)] else [])
  ((corrupt left all).flatMap (bitList 10),
   { v2 with txFec := rem', txFecIx := if v.txFecIx = 128 then 0 else v.txFecIx + 1 })

/-- The line bits of a PCS unit (R216). -/
def encodeUnit (s : State) (l : Nat) (ws : List Word) : List Bool × State :=
  let v := s.lane l
  match s.lf l F.LN_PCS.MODE, ws with
  | 1, w :: _ =>
    let a := v.takeInj 2 4
    let b := a.2.takeInj 3 4
    let r := encodeGroups (s.fresh.getLsbD 0) a.1 b.1 w.toNat 4 v.txPlus
    (r.1, (if a.1.isEmpty then s else s.used).setLane l { (b.2.passInj 2 4).passInj 3 4 with txPlus := r.2 })
  | 2, [w0, w1] =>
    let r := encodeBlock v (s.lf l F.LN_PCS.SCR == 1) w0 w1
    (r.1, s.setLane l r.2)
  | 3, w :: _ =>
    let r := encodeFec v w
    (r.1, s.setLane l r.2)
  | _, w :: _ => (bitList 40 w.toNat, s)
  | _, [] => ([], s)

/-- The words of the fill unit (R216). -/
def fillUnit (s : State) (l : Nat) : List Word :=
  if s.lf l F.LN_PCS.MODE = 2 then [s.reg .LN_TX_FILL0 (laneTile l), s.reg .LN_TX_FILL1 (laneTile l)]
  else [s.reg .LN_TX_FILL0 (laneTile l)]

/-! ### Pattern generators (R235) -/

/-- The user pattern as one number. -/
def userPattern (s : State) (l : Nat) : Nat :=
  (s.reg .LN_PAT0 (laneTile l)).toNat + (s.reg .LN_PAT1 (laneTile l)).toNat * 2 ^ 40

/-- Its period. -/
def userPeriod (s : State) (l : Nat) : Nat := s.lf l F.LN_PAT_CFG.LEN_M1 + 1

/-- Forty bits of the PRBS generator. -/
def prbsUnit (s : State) (l : Nat) : List Bool × State :=
  let v := s.lane l
  let sel := s.lf l F.LN_PAT_CFG.PRBS
  let r := prbsRun sel 40 (v.txPrbs.getD (prbsOnes sel))
  let inv := s.lf l F.LN_PAT_CFG.INV == 1
  (r.1.map (fun b => b != inv), s.setLane l { v with txPrbs := some r.2 })

/-- Forty bits of the user pattern. -/
def userUnit (s : State) (l : Nat) : List Bool × State :=
  let v := s.lane l
  let n := userPeriod s l
  ((List.range 40).map (fun i => bitOf (userPattern s l) ((v.txPos + i) % n)),
   s.setLane l { v with txPos := (v.txPos + 40) % n })

/-- The transmit source restarts: the generators from their starts, the encoder at negative disparity, a new unit
(R215, R225, R232). -/
def restartSource (s : State) (l : Nat) : State :=
  s.setLane l { s.lane l with txPrbs := none, txPos := 0, txPlus := false, txFec := [], txFecIx := 0 }

/-- TX_SRC takes a value at a UI; a value that changes it cuts the unit in progress (R215). -/
def setTxSrc (s : State) (l src : Nat) : State :=
  if s.lf l F.LN_CTRL.TX_SRC = src then s else restartSource (s.setLf l F.LN_CTRL.TX_SRC src) l

/-- TX_SRC_WRITE: a register write of TX_SRC (R215). -/
def execTxSrcWrite (lane : Lane) (src : BitVec 2) (s : State) : Host.Outcome State Fault Refusal :=
  .next (setTxSrc s lane src.toNat)

/-- The action PAT_START (R232). -/
def patStart (s : State) (l arg : Nat) : State :=
  let s1 := restartSource (s.setLf l F.LN_CTRL.TX_SRC (arg % 4)) l
  if arg % 4 = 1 then
    { s1 with tiles := mset {} s1.tiles (laneTile l) { mget {} s1.tiles (laneTile l) with laneTx := 0 } }
  else s1

/-! ### The transmitter (R209, R211-R217) -/

/-- Whether the transmitter runs: the lane is ON and past its third phase (Table 9.7). -/
def txRuns (s : State) (l : Nat) : Bool := s.laneOn l && decide (4 ≤ (s.lane l).phase)

/-- Whether the queue that word `j` asks holds `n` released words (R133). -/
def laneHas (s : State) (t j n : Nat) : Bool :=
  decide (n ≤ (s.q t ((s.fld F.QC_LANE.TX_Q t + j % 2 ^ s.fld F.QC_LANE.TX_K t) % 16)).released)

/-- The queue that transmit word `j` asks. -/
def laneQ (s : State) (t j : Nat) : Nat := (s.fld F.QC_LANE.TX_Q t + j % 2 ^ s.fld F.QC_LANE.TX_K t) % 16

/-- The words of one unit from the queues, or none with UNDER counted (R216). -/
def takeUnit (s : State) (l : Nat) : Option (List Word) × State :=
  let t := laneTile l
  if s.on F.QC_LANE.TX_EN t = false then (none, s)
  else if s.lf l F.LN_PCS.MODE = 2 then
    let j := (mget {} s.tiles t : TileSt).laneTx
    let same := laneQ s t j == laneQ s t (j + 1)
    if laneHas s t j (if same then 2 else 1) && laneHas s t (j + 1) 1 then
      let a := laneTake s t
      let b := laneTake a.2 t
      (some [a.1.getD 0, b.1.getD 0], b.2)
    else
      let q := if laneHas s t j 1 then laneQ s t (j + 1) else laneQ s t j
      (none, qEvent (s.addSat F.QC_CNT.UNDER t q) t q 4 (s.q t q).rd)
  else
    let a := laneTake s t
    (a.1.map (fun w => [w]), a.2)

/-- The line bits of the next unit of a source (R215, R216). -/
def sourceBits (s : State) (l src : Nat) : List Bool × State :=
  match src with
  | 2 => prbsUnit s l
  | 3 => userUnit s l
  | 1 =>
    let r := takeUnit s l
    encodeUnit r.2 l (r.1.getD (fillUnit s l))
  | _ => encodeUnit s l (fillUnit s l)

/-- A symbol moved by one level, or a bit inverted (kind 1 of R237). -/
def stepSymbol (pam : Bool) (x : Nat) : Nat := if pam then (if x = 3 then 2 else x + 1) else 1 - x

/-- Stages 3 and 4 of Table 9.1: bit injection, mapping, precoding, symbol injection, polarity. -/
def lineOut (s : State) (l : Nat) (bits : List Bool) : List Nat × State :=
  let v := s.lane l
  let bits' := (v.injOf 0).foldl flipBits bits
  let v1 := (v.putInj 0 (leftOver bits.length (v.injOf 0))).passInj 0 bits.length
  let syms := bitsToSyms (s.pam l) (s.lf l F.LN_RATE.GRAY == 1) bits'
  let p := if s.pam l && s.lf l F.LN_RATE.PRECODE == 1 then precode v1.txPre syms else (syms, v1.txPre)
  let e := v1.takeInj 1 p.1.length
  let out := p.1.zipIdx.map (fun x => if e.1.contains x.2 then stepSymbol (s.pam l) x.1 else x.1)
  (polarise (s.pam l) (s.lf l F.LN_CTRL.TX_POL == 1) out, s.setLane l { e.2.passInj 1 p.1.length with txPre := p.2 })

/-- Whether the land shows the park output: the device is FROZEN or the tile's zone is isolated (R245). -/
def laneParked (s : State) (l : Nat) : Bool := decide (s.mode = .frozen) || s.tileIsolated (laneTile l)

/-- The source whose units leave the land: TX_SRC, or in the park the one PARK selects; none is electrical idle
(R217, R245). -/
def landSource (s : State) (l : Nat) : Option Nat :=
  let src := s.lf l F.LN_CTRL.TX_SRC
  if laneParked s l then
    match s.lf l F.LN_CTRL.PARK with
    | 1 => some 0
    | 2 => some (if src = 1 then 0 else src)
    | _ => none
  else some src

/-! ### The transmit FFE and the land (R214, R217) -/

/-- The symbol value of a level in 1/192 of the outer value: ±192, and ±64 moved by INNER/128 of the outer span, outward
for a positive INNER. DESIGN CHOICE (log entry 74). -/
def symValue (s : State) (l lv : Nat) : Int :=
  let inner : Int := 64 + 3 * signed 6 (s.lf l F.LN_TX_CFG.INNER)
  if s.pam l then
    match lv with
    | 0 => -192
    | 1 => -inner
    | 2 => inner
    | _ => 192
  else if lv = 0 then -192 else 192

/-- The sums of five coefficients over every five successive symbol values, C+2 first. -/
def ffeSums (c : List Int) : List Int → List Int
  | [] => []
  | a :: t =>
    if t.length < 4 then []
    else (List.zipWith (· * ·) c (a :: t)).foldl (· + ·) 0 :: ffeSums c t

/-- The coefficients of LN_TX_FFE, C+2 first (R214). -/
def txCoefs (s : State) (l : Nat) : List Int :=
  let w := (s.reg .LN_TX_FFE (laneTile l)).toNat
  [(7, 0), (15, 8), (23, 16), (31, 24), (39, 32)].map (fun p => signed 8 (bitsOf w p.1 p.2))

/-- Levels leave through the FFE, whose output lags them by two UIs, unless the land is muted (R214, R217); the near-end
loopback brings them to the receiver (R242). -/
def drive (s : State) (l : Nat) (levels : List Nat) : State :=
  let v := s.lane l
  let mute := s.lf l F.LN_CTRL.MUTE == 1
  let past := (List.replicate 4 0 ++ v.txHist).drop v.txHist.length
  let all := past ++ levels.map (symValue s l)
  s.setLane l { v with
    txHist := all.drop (all.length - 4), txIdle := mute
    txOut := if mute then [] else levels
    txAmp := if mute then [] else ffeSums (txCoefs s l) all
    loopQ := if s.lf l F.LN_CTRL.LOOP = 1 ∧ mute = false then v.loopQ ++ levels else v.loopQ }

/-- The land at electrical idle. -/
def LaneSt.idle (v : LaneSt) : LaneSt := { v with txOut := [], txAmp := [], txHist := [], txIdle := true }

/-- The transmitter sends one unit (R215, R216). The levels leave the land unless it is muted or idle (R217); with the
far-end loopback the received decisions leave instead (R242), but for the park output (R245). -/
def execLaneTxUnit (lane : Lane) (s : State) : Host.Outcome State Fault Refusal :=
  if !txRuns s lane || (s.lf lane F.LN_CTRL.LOOP == 2 && !laneParked s lane) then .next s
  else match landSource s lane with
    | none => .next (s.setLane lane (s.lane lane).idle)
    | some src =>
      let r := sourceBits s lane src
      let o := lineOut r.2 lane r.1
      .next (drive o.2 lane o.1)

/-- A write of LN_TX_FFE (R214). -/
def writeTxFfe (s : State) (l : Nat) (w : Word) : State :=
  let c (hi lo : Nat) := signed 8 (bitsOf w.toNat hi lo)
  let sum := (c 39 32).natAbs + (c 31 24).natAbs + (c 23 16).natAbs + (c 15 8).natAbs + (c 7 0).natAbs
  if c 23 16 ≤ 0 ∨ 64 < sum then s.setLf l F.LN_STATUS.CFG_ERR 1
  else s.writeDefault .LN_TX_FFE (laneTile l) 0 w

/-- LN_TX_FFE_WRITE (R214). -/
def execLnTxFfeWrite (lane : Lane) (value : Word) (s : State) : Host.Outcome State Fault Refusal :=
  .next (writeTxFfe s lane value)

/-! ### The pattern checker (R236) -/

/-- The checker's state before its seed. -/
def LaneSt.chkClear (v : LaneSt) : LaneSt :=
  { v with chkReg := 0, chkSeen := 0, chkGood := 0, chkHist := [], chkDue := false, chkLoss := false, chkWinN := 0
           chkWinE := 0 }

/-- One bit compared while the checker is locked. -/
def chkCompare (s : State) (l : Nat) (expect got : Bool) : State :=
  let v := s.lane l
  let e := flag (expect != got)
  let full := v.chkWinN + 1 == 1024
  let s1 := s.setLane l { v with chkBits := (v.chkBits + 1) % 2 ^ 80, chkErrs := satAdd 40 v.chkErrs e
                                 chkLoss := v.chkLoss || decide (128 ≤ v.chkWinE + e)
                                 chkWinN := if full then 0 else v.chkWinN + 1
                                 chkWinE := if full then 0 else v.chkWinE + e }
  if e = 1 then statusDet s1 l 4 else s1

/-- A PRBS register with a bit shifted in. -/
def prbsShift (sel reg : Nat) (b : Bool) : Nat := (2 * reg + flag b) % 2 ^ (prbsPoly sel).1

/-- One bit of the line at the checker: PRBS. -/
def chkPrbs (s : State) (l : Nat) (b : Bool) : State :=
  let v := s.lane l
  let sel := s.lf l F.LN_PAT_CFG.PRBS
  let p := prbsStep sel v.chkReg
  if s.lf l F.LN_STATUS.CHK_LOCK = 1 then chkCompare (s.setLane l { v with chkReg := p.2 }) l p.1 b
  else
    let good := if (prbsPoly sel).1 ≤ v.chkSeen then (if p.1 = b then v.chkGood + 1 else 0) else 0
    s.setLane l { v with chkReg := prbsShift sel v.chkReg b, chkSeen := v.chkSeen + 1, chkGood := good
                         chkDue := v.chkDue || decide (64 ≤ good) }

/-- The rotation of the user pattern that two received periods match exactly, if any: the position after them. -/
def userMatch (s : State) (l : Nat) (hist : List Bool) : Option Nat :=
  let n := userPeriod s l
  let bs := (hist.take (2 * n)).reverse
  if bs.length < 2 * n then none
  else (List.range n).find? (fun r => bs.zipIdx.all (fun b => b.1 == bitOf (userPattern s l) ((r + b.2) % n)))

/-- One bit of the line at the checker: USER. -/
def chkUser (s : State) (l : Nat) (b : Bool) : State :=
  let v := s.lane l
  let n := userPeriod s l
  if s.lf l F.LN_STATUS.CHK_LOCK = 1 then
    chkCompare (s.setLane l { v with chkPos := (v.chkPos + 1) % n }) l (bitOf (userPattern s l) (v.chkPos % n)) b
  else
    let h := (b :: v.chkHist).take 160
    match userMatch s l h with
    | some r => s.setLane l { v with chkHist := h, chkPos := r, chkDue := true }
    | none => s.setLane l { v with chkHist := h, chkPos := (v.chkPos + 1) % n }

/-- One bit of the line at the checker: LN_PAT_CFG.CHK selects off, PRBS or USER; CHK_INV expects the inverse. -/
def chkBit (s : State) (l : Nat) (b : Bool) : State :=
  let x := b != (s.lf l F.LN_PAT_CFG.CHK_INV == 1)
  match s.lf l F.LN_PAT_CFG.CHK with
  | 1 => chkPrbs s l x
  | 2 => chkUser s l x
  | _ => s

/-- CHECKER_LOCK (R236): the checker has met its lock condition. -/
def execCheckerLock (lane : Lane) (s : State) : Host.Outcome State Fault Refusal :=
  let v := s.lane lane
  if v.chkDue ∧ s.lf lane F.LN_STATUS.CHK_LOCK = 0 then
    .next ((s.setLane lane { v with chkDue := false, chkLoss := false, chkWinN := 0, chkWinE := 0 }).setLf lane
      F.LN_STATUS.CHK_LOCK 1)
  else .next s

/-- LN_CHK_LOSS (R236): 128 errors fell in a window; the checker drops its lock and reseeds. -/
def execLnChkLoss (lane : Lane) (s : State) : Host.Outcome State Fault Refusal :=
  let v := s.lane lane
  if v.chkLoss ∧ s.lf lane F.LN_STATUS.CHK_LOCK = 1 then
    .next (laneEvent ((s.setLane lane v.chkClear).setLf lane F.LN_STATUS.CHK_LOCK 0) lane 4)
  else .next s

/-- LN_CHK_BITS_LO read: HI and ERR are latched with it (R35, R236). -/
def execLnChkBitsLoRead (lane : Lane) (s : State) : Host.Outcome State Fault Refusal :=
  let v := s.lane lane
  let t := laneTile lane
  let lo := BitVec.ofNat 40 v.chkBits
  let s1 := s.setReg .LN_CHK_BITS_LO t 0 lo
  let s2 := s1.setReg .LN_CHK_BITS_HI t 0 (BitVec.ofNat 40 (v.chkBits / 2 ^ 40))
  .next { s2.setReg .LN_CHK_ERR t 0 (BitVec.ofNat 40 v.chkErrs) with lastRead := lo }

/-- CLR_CNT (R236): the checker, FEC and PCS counters are zero at once. -/
def clearCounters (s : State) (l : Nat) : State :=
  let t := laneTile l
  let s1 := s.setLane l { s.lane l with chkBits := 0, chkErrs := 0, fecCw := 0 }
  let s2 := [Reg.LN_PCS_CNT, .LN_CHK_BITS_LO, .LN_CHK_BITS_HI, .LN_CHK_ERR, .LN_FEC_CW_LO, .LN_FEC_CW_HI, .LN_FEC_CORR,
    .LN_FEC_UNCORR].foldl (fun s r => s.setReg r t 0 0) s1
  (List.range 17).foldl (fun s c => s.setReg .LN_FEC_HIST t c 0) s2

/-- CLR_CNT (R236). -/
def execClrCnt (lane : Lane) (s : State) : Host.Outcome State Fault Refusal := .next (clearCounters s lane)

/-! ### PCS alignment (R222-R229) -/

/-- A return to ON is complete once the transmitter runs and ALIGN is 1 or its 2 ms have passed (R244). -/
def wakeComplete (s : State) (l : Nat) : State :=
  let v := s.lane l
  if v.waking && decide (4 ≤ v.phase) && (s.lf l F.LN_STATUS.ALIGN == 1 || v.wakeLate) then
    s.setLane l { v with waking := false, wakeLate := false }
  else s

/-- The decoder hunts from the start. -/
def LaneSt.hunt (v : LaneSt) : LaneSt :=
  { v with lockDue := false, lossDue := false, commas := 0, commaAge := 0, rxLast := [], hdrGood := 0, hdrN := 0
           hdrBad := 0, grpBad := [], fecGood := 0, fecBad := 0 }

/-- PCS_ALIGN_LOCK: the decoder has met its lock condition and ALIGN sets (R224, R226, R229). -/
def execPcsAlignLock (lane : Lane) (s : State) : Host.Outcome State Fault Refusal :=
  let v := s.lane lane
  if v.lockDue ∧ s.lf lane F.LN_STATUS.ALIGN = 0 ∧ s.lf lane F.LN_STATUS.CDR_LOCK = 1 then
    let s1 := s.setLane lane { v with lockDue := false, lossDue := false, hdrN := 0, hdrBad := 0, grpBad := [], fecBad := 0 }
    .next (wakeComplete (s1.setLf lane F.LN_STATUS.ALIGN 1) lane)
  else .next s

/-- LN_ALIGN_LOSS: the decoder has met its loss condition and returns to hunting (R224, R226, R229). -/
def execLnAlignLoss (lane : Lane) (s : State) : Host.Outcome State Fault Refusal :=
  let v := s.lane lane
  if v.lossDue ∧ s.lf lane F.LN_STATUS.ALIGN = 1 then
    let s1 := (s.setLane lane v.hunt).setLf lane F.LN_STATUS.ALIGN 0
    .next (statusDet (laneEvent (s1.addSat F.LN_PCS_CNT.LOSSES (laneTile lane) 0) lane 2) lane 2)
  else .next s

/-- A write of LN_SLIP: in RAW40 one bit is dropped from the decoded stream (R223). -/
def writeSlip (s : State) (l : Nat) (w : Word) : State :=
  if bitOf w.toNat 0 && s.lf l F.LN_PCS.MODE == 0 then s.setLane l { s.lane l with rxSlips := (s.lane l).rxSlips + 1 } else s

/-- SLIP (R223). -/
def execSlip (lane : Lane) (s : State) : Host.Outcome State Fault Refusal := .next (writeSlip s lane 1)

/-- One FEC codeword at the candidate or locked alignment (R228-R230): its symbols in order of reception, the first of
them at the land at `time`. -/
def fecCodeword (s : State) (l : Nat) (syms : List Nat) (time : Nat) : State :=
  let t := laneTile l
  let v := s.lane l
  let locked := s.lf l F.LN_STATUS.ALIGN == 1
  let d := fecDecode syms
  let out := if s.lf l F.LN_PCS.FEC_DET_ONLY = 1 then syms else d.1
  let v1 := { v with
    fecOut := v.fecOut ++ (fecWords out d.2 locked).zipIdx.map (fun w => (w.1, time + s.uiTime l (40 * w.2 / (if s.pam l then 2 else 1))))
    fecGood := if d.2.isSome then v.fecGood + 1 else 0
    fecBad := if d.2.isSome then 0 else v.fecBad + 1
    lockDue := v.lockDue || (!locked && d.2.isSome && decide (3 ≤ v.fecGood + 1))
    lossDue := v.lossDue || (locked && d.2.isNone && decide (8 ≤ v.fecBad + 1)) }
  let s1 := s.setLane l v1
  if !locked then s1
  else
    let n := (v.fecCw + 1) % 2 ^ 80
    let s2 := (s1.setLane l { v1 with fecCw := n }).setReg .LN_FEC_CW_LO t 0 (BitVec.ofNat 40 n)
    match d.2 with
    | some c => (s2.addSat F.LN_FEC_CORR.NUM t 0 c).addSat F.LN_FEC_HIST.NUM t c
    | none =>
      let s3 := (s2.addSat F.LN_FEC_UNCORR.NUM t 0).addSat F.LN_FEC_HIST.NUM t 16
      statusDet (laneEvent s3 l 3) l 3

/-- Line bits of a lane in one UI. -/
def State.perUi (s : State) (l : Nat) : Nat := if s.pam l then 2 else 1

/-- The symbols of a codeword from its line bits. -/
def fecSyms (bs : List Bool) : List Nat := (List.range 544).map (fun i => bitsNat ((bs.drop (10 * i)).take 10))

/-- A codeword-length span of the received bits (R229). While the decoder hunts it tries 40 bit offsets on the span, keeps
the first that decodes, and otherwise moves on by 40 beside the span; so does one that fails its confirmation. -/
def fecSpan (s : State) (l : Nat) : State :=
  let v := s.lane l
  let locked := decide (s.lf l F.LN_STATUS.ALIGN = 1)
  let seek := !locked && v.fecGood == 0
  if v.rxBits.length < (if seek then 5479 else 5440) then s
  else
    let off := if seek then
        ((List.range 40).find? (fun k => (fecDecode (fecSyms (v.rxBits.drop k))).2.isSome)).getD 0
      else 0
    let syms := fecSyms (v.rxBits.drop off)
    let move := off + 5440 + (if locked || (fecDecode syms).2.isSome then 0 else 40)
    let past := move - v.rxBits.length
    let s1 := s.setLane l { v with rxBits := v.rxBits.drop move, rxSlips := v.rxSlips + past
                                   rxTime := v.rxTime + s.uiTime l (move / s.perUi l) }
    fecCodeword s1 l syms (v.rxTime + s.uiTime l (off / s.perUi l))

/-- FEC_CODEWORD (R229, R230): the bits of a codeword have been received while the CDR is locked. -/
def execFecCodeword (lane : Lane) (s : State) : Host.Outcome State Fault Refusal :=
  if s.laneOn lane && s.lf lane F.LN_PCS.MODE == 3 && s.lf lane F.LN_STATUS.CDR_LOCK == 1 then .next (fecSpan s lane)
  else .next s

/-! ### Losses (R218, R245) -/

/-- The CDR's lock is lost (R218); in RAW40 ALIGN is lost with it (R222). The acquisition waits for the signal or the
CDR. -/
def cdrLoss (s : State) (l : Nat) (inj : Bool := false) : State :=
  if s.lf l F.LN_STATUS.CDR_LOCK = 0 then s
  else
    let raw := s.lf l F.LN_PCS.MODE == 0 && s.lf l F.LN_STATUS.ALIGN == 1
    let s1 := s.setLf l F.LN_STATUS.CDR_LOCK 0
    let s2 := if raw then s1.setLf l F.LN_STATUS.ALIGN 0 else s1
    let s3 := s2.setLane l { s2.lane l with phase := if s.lf l F.LN_STATUS.SIG = 1 then 5 else 4, rxBits := [] }
    let s4 := statusDet (laneEvent s3 l 1 inj) l 1
    if raw then statusDet s4 l 2 else s4

/-- LOSS_OF_SIGNAL: the peak code stayed below LOS_THR for 1 µs (R218), and the CDR loses its lock with it;
LOS_THR = 0 never declares it. -/
def execLossOfSignal (lane : Lane) (s : State) : Host.Outcome State Fault Refusal :=
  if s.lf lane F.LN_RX_CFG.LOS_THR = 0 ∨ s.lf lane F.LN_STATUS.SIG = 0 then .next s
  else
    let s1 := cdrLoss (dropStatus s lane F.LN_STATUS.SIG 0) lane
    .next (s1.setLane lane { s1.lane lane with phase := Nat.min (s1.lane lane).phase 4 })

/-- LN_CDR_LOSS (R218). -/
def execLnCdrLoss (lane : Lane) (s : State) : Host.Outcome State Fault Refusal := .next (cdrLoss s lane)

/-- The transmit PLL loses lock while ON (R245): electrical idle, the report, and the acquisition from the PLL phase. -/
def pllLoss (s : State) (l : Nat) (inj : Bool := false) : State :=
  if s.laneOn l && s.lf l F.LN_STATUS.PLL_LOCK == 1 then
    laneEvent ((s.setLf l F.LN_STATUS.PLL_LOCK 0).setLane l
      { (s.lane l).idle with phase := 2 }) l 0 inj
  else s

/-- LN_PLL_LOSS (R245). -/
def execLnPllLoss (lane : Lane) (s : State) : Host.Outcome State Fault Refusal := .next (pllLoss s lane)

/-! ### Acquisition (R220, R244) -/

/-- The lanes of a lane's power group (R243). -/
def groupLanes (l : Nat) : List Nat := (List.range 4).map (fun i => l / 4 * 4 + i)

/-- The equaliser's coefficients at a cold start (R220). -/
def coldCoefs (s : State) (l : Nat) : State :=
  let t := laneTile l
  let c := s.lf l F.LN_RX_CFG.CURSOR
  ((List.range 24).foldl (fun s k => s.setReg .LN_FFE t k (if k = c then 256 else 0)) s).setReg .LN_DFE t 0 0

/-- Coefficients that adaptation has moved: AUTO leaves their values open (R220, log entry 25). -/
def adaptCoefs (s : State) (l : Nat) : State :=
  if s.lf l F.LN_RX_CFG.ADAPT = 0 then
    let t := laneTile l
    let s1 := (List.range 24).foldl (fun s k => (s.setReg .LN_FFE t k (s.fresh &&& 0x3FF)).used) s
    (s1.setReg .LN_DFE t 0 (s1.fresh &&& 0x3FF)).used
  else s

/-- The next phase of Table 9.7 after one has ended. A relock, the end of the CDR phase or its passing over with the lock
kept, starts both precoders from P(−1) = 0 (R212, log entry 72). -/
def nextPhase (s : State) (l : Nat) : State :=
  let v := s.lane l
  let n := match v.phase with
    | 4 => if v.origin = 2 ∧ s.lf l F.LN_STATUS.CDR_LOCK = 1 then 6 else 5
    | 6 => if s.lf l F.LN_STATUS.ALIGN = 1 then 8 else 7
    | p => Nat.min (p + 1) 8
  let v1 := if v.phase = 5 ∨ n = 6 ∧ v.phase = 4 then { v with txPre := 0, rxPre := 0 } else v
  wakeComplete (s.setLane l { v1 with phase := n }) l

/-- A lock that an injection awaits is lost once (R411). -/
def fireLockInj (s : State) (l : Nat) : State :=
  let v := s.lane l
  if v.pllInj && s.laneOn l && s.lf l F.LN_STATUS.PLL_LOCK == 1 then pllLoss (s.setLane l { v with pllInj := false }) l true
  else if v.cdrInj && s.lf l F.LN_STATUS.CDR_LOCK == 1 then cdrLoss (s.setLane l { v with cdrInj := false }) l true
  else s

/-- Whether the CDR locks to a signal whose offset is `freq` quarter ppm (R218). -/
def cdrRange (s : State) (l : Nat) (freq : Int) : Bool :=
  decide ((if s.lf l F.LN_RX_CFG.SSC = 1 then -21200 else -1200) ≤ freq) && decide (freq ≤ 1200)

/-- ACQUISITION_PHASE_DONE (R244): the phase's condition holds. The gain code, the recovered offset and the slicer
error are the environment's, as the receiver measures them (R218, R219); the CDR does not lock to an offset outside its
range. -/
def execAcquisitionPhaseDone (lane : Lane) (agc : BitVec 8) (freq : BitVec 16) (mse : BitVec 16) (s : State) :
    Host.Outcome State Fault Refusal :=
  let v := s.lane lane
  if s.laneOn lane then
    match v.phase with
    | 1 => .next (nextPhase ((groupLanes lane).foldl (fun s l => s.setLf l F.LN_STATUS.GRP_ON 1) s) lane)
    | 2 => .next (fireLockInj (nextPhase (s.setLf lane F.LN_STATUS.PLL_LOCK 1) lane) lane)
    | 3 => .next (fireLockInj (nextPhase (s.setLane lane { v with txPre := 0, txIdle := s.lf lane F.LN_CTRL.MUTE == 1 }) lane) lane)
    | 4 =>
      let s1 := (s.setLf lane F.LN_STATUS.SIG 1).setLf lane F.LN_EQ_STAT.AGC agc.toNat
      .next (nextPhase s1 lane)
    | 5 =>
      if cdrRange s lane (signed 16 freq.toNat) = false then .next s else
      let s1 := (s.setLf lane F.LN_STATUS.CDR_LOCK 1).setLf lane F.LN_EQ_STAT.FREQ freq.toNat
      let s2 := if s.lf lane F.LN_PCS.MODE = 0 then s1.setLf lane F.LN_STATUS.ALIGN 1 else s1
      let s3 := s2.setLane lane { s2.lane lane with rxBits := [] }
      .next (fireLockInj (nextPhase (if v.origin = 0 ∧ s.lf lane F.LN_RX_CFG.ADAPT = 0 then coldCoefs s3 lane else s3) lane)
        lane)
    | 6 =>
      let s1 := ((adaptCoefs s lane).setLf lane F.LN_STATUS.ADAPT_DONE 1).setLf lane F.LN_EQ_STAT.MSE mse.toNat
      .next (nextPhase s1 lane)
    | 7 => if s.lf lane F.LN_STATUS.ALIGN = 1 then .next (nextPhase s lane) else .next s
    | _ => .next s
  else .next s

/-- LN_RELOCK_LATE (R244): 2 ms have passed since the wake and the return is not complete; from here the transmitter
alone completes it. -/
def execLnRelockLate (lane : Lane) (s : State) : Host.Outcome State Fault Refusal :=
  let s1 := wakeComplete s lane
  let v := s1.lane lane
  if v.waking && !v.wakeLate then
    .next (wakeComplete (laneEvent ((s1.setLane lane { v with wakeLate := true }).setLf lane F.LN_STATUS.RELOCK_LATE 1) lane 5)
      lane)
  else .next s1

/-! ### Monitoring (R240, R241) -/

/-- A write of LN_HIST_CFG (R240): START clears every bin and begins; a running histogram keeps its PH. -/
def writeHistCfg (s : State) (l : Nat) (w : Word) : State :=
  let t := laneTile l
  let running := (s.lane l).histLeft.isSome
  let start := bitOf w.toNat 39
  let s1 := if running && !start then
      writeFields t 0 w.toNat false [F.LN_HIST_CFG.SRC, F.LN_HIST_CFG.COND, F.LN_HIST_CFG.DECIM] s
    else s.writeDefault .LN_HIST_CFG t 0 w
  if !start then s1
  else
    let s2 := (List.range 256).foldl (fun s b => s.setReg .LN_HIST t b 0) s1
    let n := s2.lf l F.LN_HIST_N.NUM
    (s2.setLf l F.LN_HIST_CFG.DONE (flag (n == 0))).setLane l
      { s2.lane l with histLeft := if n = 0 then none else some n, histSkip := 0 }

/-- HIST_START: a write of LN_HIST_CFG (R240). -/
def execHistStart (lane : Lane) (value : Word) (s : State) : Host.Outcome State Fault Refusal :=
  .next (writeHistCfg s lane value)

/-- One UI at the histogram (R240): its ADC code, the equaliser output in hand, and the decisions of both. COND selects
UIs, DECIM takes one in 2^DECIM of them (log entry 73), and what the monitor ADC sees is left open. -/
def histIn (s : State) (l : Nat) (x y : Int) (level eqLevel : Nat) : State :=
  let v := s.lane l
  let src := s.lf l F.LN_HIST_CFG.SRC
  let cond := s.lf l F.LN_HIST_CFG.COND
  match v.histLeft with
  | none | some 0 => s
  | some (n + 1) =>
    if cond ≠ 0 ∧ (if src = 1 then eqLevel else level) + 1 ≠ cond then s
    else if v.histSkip ≠ 0 then s.setLane l { v with histSkip := v.histSkip - 1 }
    else
      let val := match src with
        | 0 => x
        | 1 => y
        | _ => signed 8 (s.fresh.toNat % 256)
      let s1 := (if 2 ≤ src then s.used else s).addSat F.LN_HIST.NUM (laneTile l) (val + 128).toNat
      s1.setLane l { v with histLeft := some n, histSkip := 2 ^ s.lf l F.LN_HIST_CFG.DECIM - 1 }

/-- HIST_DONE (R240): LN_HIST_N samples have been taken. -/
def execHistDone (lane : Lane) (s : State) : Host.Outcome State Fault Refusal :=
  match (s.lane lane).histLeft with
  | some 0 => .next ((s.setLane lane { s.lane lane with histLeft := none }).setLf lane F.LN_HIST_CFG.DONE 1)
  | _ => .next s

/-- LN_TS_INFO read: the oldest entry is removed and latched (R241). -/
def execLnTsInfoRead (lane : Lane) (s : State) : Host.Outcome State Fault Refusal :=
  let v := s.lane lane
  let t := laneTile lane
  let drops := s.lf lane F.LN_TS_INFO.DROPS
  match v.tsFifo with
  | [] => .next { s.setReg .LN_TS_INFO t 0 0 with lastRead := BitVec.ofNat 40 (drops * 2 ^ 31) }
  | e :: es =>
    let s1 := (s.setLane lane { v with tsFifo := es }).setReg .LN_TS_INFO t 0 0
    let s2 := s1.setReg .LN_TS_FRAC t 0 (BitVec.ofNat 40 (fracOf e))
    .next { s2.setReg .LN_TS_SEC t 0 (BitVec.ofNat 40 (secOf e)) with
            lastRead := BitVec.ofNat 40 (2 ^ 39 + drops * 2 ^ 31) }

/-- A decoded word compared with LN_TS_MATCH (R241). -/
def tsMatch (s : State) (l : Nat) (w : Word) (time : Nat) : State :=
  let t := laneTile l
  let mask := s.reg .LN_TS_MASK t
  if mask = 0 ∨ w &&& mask ≠ s.reg .LN_TS_MATCH t &&& mask then s
  else
    let v := s.lane l
    if v.tsFifo.length < 16 then s.setLane l { v with tsFifo := v.tsFifo ++ [time % timeSpan] }
    else s.addSat F.LN_TS_INFO.DROPS t 0

end Sys2Proof.Machine
end

