-- ==== Sys2Proof/Machine/Heat.lean ====
section
/-! DEFINITION. Heats: segmented capture into main memory (Chapter 11). -/

namespace Sys2Proof.Machine

/-- A heat channel. -/
def State.ch (s : State) (r c : Nat) : HeatCh := mget {} s.heats (16 * r + c)

/-- The state with a heat channel set. -/
def State.setCh (s : State) (r c : Nat) (v : HeatCh) : State := { s with heats := mset {} s.heats (16 * r + c) v }

/-- The state of a channel (Table 11.4): 0 IDLE, 1 PREFILL, 2 ARMED, 3 POST, 4 REARM. -/
def State.chState (s : State) (r c : Nat) : Nat := s.fld F.HEAT_STAT.STATE r c

/-- An acquisition event, by its bit of ACQ_STATUS.EVT (R290). -/
def acqEvent (s : State) (r bit c : Nat) (inj : Bool := false) : State :=
  if bitOf (s.fld F.ACQ_STATUS.EVT r) bit then s
  else
    let s1 := s.setReg .ACQ_FIRST r 0 (BitVec.ofNat 40 ((bit + 1) * 2 ^ 37 + c * 2 ^ 33))
    let s2 := s1.setReg .ACQ_FIRST_STRIDE r 0 (BitVec.ofNat 40 s.time.strideNum)
    (s2.orFld F.ACQ_STATUS.EVT r 0 bit).emitRegion (0x4501 + bit) r inj

/-! ### The lane window as a source (R248, R269) -/

/-- The lane of a channel's lane source. -/
def srcLane (r unit : Nat) : Nat := 12 * r + unit

/-- The capacity of a lane window in elements under its tap. -/
def winCap (tap : Nat) : Nat := if tap = 3 then 196608 else 983040

/-- The time between elements of a lane window as a fraction of units: a UI, or the line bits of a decoded word
(Table 9.3). -/
def elemPeriod (s : State) (l : Nat) : Nat × Nat :=
  let b := Nat.max (s.lf l F.LN_RATE.BAUD) 1
  if (s.lane l).tap ≠ 3 then (1024000000, b)
  else
    let line := if s.pam l then 2 * b else b
    match s.lf l F.LN_PCS.MODE with
    | 2 => (1024000000 * 33, line)
    | 3 => (1024000000 * 5440, line * 129)
    | _ => (1024000000 * 40, line)

/-- The anchor from which an element's time follows: the newest at or before it. -/
def anchorOf (as : List (Nat × Nat)) (e : Nat) : Option (Nat × Nat) :=
  match as.find? (fun a => decide (a.1 ≤ e)) with
  | some a => some a
  | none => as.getLast?

/-- The land time of an element (R249, R269): from the time of its neighbours at the lane's rate, across no pause. -/
def elemTime (s : State) (l e : Nat) : Nat :=
  let v := s.lane l
  let p := elemPeriod s l
  match anchorOf v.anchors e with
  | none => v.lastT
  | some a => ((a.2 : Int) + ((e : Int) - a.1) * p.1 / p.2).toNat

/-- The first element of a lane whose time is at or after a stamp (R274), among the anchors newest first; `next` is the
first element of the segment after the one in hand. -/
def firstAt (p : Nat × Nat) (stamp : Nat) : Option Nat → List (Nat × Nat) → Nat
  | next, [] => next.getD 0
  | next, a :: as =>
    if stamp ≤ a.2 then firstAt p stamp (some a.1) as
    else
      let e := a.1 + ((stamp - a.2) * p.2 + p.1 - 1) / p.1
      match next with
      | some n => Nat.min e n
      | none => e

/-- The first element of a lane whose time is at or after a stamp (R274). -/
def elemAt (s : State) (l stamp : Nat) : Nat :=
  let v := s.lane l
  if v.anchors.isEmpty then v.cnt else firstAt (elemPeriod s l) stamp none v.anchors

/-- The byte address of an element of a lane window (R248). -/
def elemAddr (l tap e : Nat) : Nat :=
  let w := (if tap = 3 then e else e / 5) % 196608
  qmBase (laneTile l) + 0x200000 + w / 12 * 64 + w % 12 * 5 + (if tap = 3 then 0 else e % 5)

/-- The element a window holds. -/
def elemRead (s : State) (l tap e : Nat) : Nat :=
  if tap = 3 then (s.readBlk (elemAddr l tap e)).toNat else (readByte s.mem (elemAddr l tap e)).toNat

/-- Whether an element was counted and not written. -/
def inRuns (rs : List (Nat × Nat)) (e : Nat) : Bool := rs.any (fun r => decide (r.1 ≤ e) && decide (e < r.1 + r.2))

/-- Whether a trigger at element `e` that asks for `pre` elements is accepted by the window: 0 accepted, 1 false start,
2 stale, 3 stamped before the fill (R251). -/
def winJudge (s : State) (l e pre stamp : Nat) : Nat :=
  let v := s.lane l
  if stamp < v.fillT ∨ e < v.fill then 3
  else if e < v.fill + pre then 1
  else if e - pre + winCap v.tap < v.cnt then 2
  else 0

/-- A stale trigger is counted and reported (R251). -/
def winStale (s : State) (l : Nat) : State :=
  let t := laneTile l
  let s1 := s.addSat F.TRG_WIN_STAT.STALE t 0
  if bitOf (s1.fld F.TRG_WIN_STAT.EVT t) 1 then s1
  else (s1.orFld F.TRG_WIN_STAT.EVT t 0 1).emitTile 0x3502 t

/-- The trigger record of the window: the last accepted trigger. -/
def winRecord (s : State) (l e ev frac stamp : Nat) : State :=
  let t := laneTile l
  let s1 := (s.setReg .TRG_WIN_TRIG_E t 0 (BitVec.ofNat 40 e)).setReg .TRG_WIN_TRIG_INFO t 0
    (BitVec.ofNat 40 (ev * 2 ^ 33 + frac * 2 ^ 25))
  (s1.setReg .TRG_WIN_TRIG_FRAC t 0 (BitVec.ofNat 40 (fracOf stamp))).setLane l
    { s1.lane l with trigSec := secOf stamp }

/-! ### Slots, outputs and records (R270, R284-R286) -/

/-- The number of the stride in which a device time lies (R51). -/
def strideAt (s : State) (t : Nat) : Nat :=
  if s.strideT = 0 then s.time.strideNum
  else (((t : Int) - s.time.epoch) / s.strideT + s.strideK).toNat

/-- Outputs that a data area holds: 60 samples or 12 words a block. -/
def perBlock (words : Bool) : Nat := if words then 12 else 60

/-- CAP_OUT of a channel's registers (R270). -/
def capOutOf (s : State) (r c : Nat) (words : Bool) : Nat :=
  (s.fld F.HEAT_SLOT.BLOCKS r c - 2 - s.fld F.HEAT_SLOT.EVB r c) * perBlock words

/-- N_OUT of a span (R280). -/
def nOutOf (felt : Bool) (d span : Nat) : Nat := if felt then 2 * ((span + d - 1) / d) else span

/-- The source gives whole words: a fabric source or the tap WORD. -/
def Heat.words (h : Heat) : Bool := h.fabric || h.tap == 3

/-- The span of a heat that has ended (R285). -/
def Heat.span (h : Heat) : Nat := (h.lastE.getD (h.trigE + h.post)) + 1 - h.firstE

/-- An event-ring record (Table 11.6). -/
def ringRec (s : State) (type reason elem count time : Nat) : Nat × Nat × Nat × Nat :=
  (type * 2 ^ 36 + reason * 2 ^ 32 + strideAt s time % 2 ^ 32, elem % 2 ^ 40, count % 2 ^ 40, fracOf time)

/-- A gap run that closes: its record, and HEAT_GAP (R283, R290). -/
def closeGap (s : State) (r c : Nat) (h : Heat) : Heat × State :=
  match h.gap with
  | none => (h, s)
  | some g =>
    ({ h with gap := none, gaps := h.gaps ++ [g]
              recs := h.recs ++ [ringRec s 1 g.reason g.first g.count g.time] }, acqEvent s r 0 c (g.reason == 3))

/-- One more element of a gap. -/
def addGap (s : State) (r c : Nat) (h : Heat) (reason e time : Nat) : Heat × State :=
  match h.gap with
  | some g =>
    if g.reason = reason ∧ g.first + g.count = e then ({ h with gap := some { g with count := g.count + 1 } }, s)
    else
      let x := closeGap s r c h
      ({ x.1 with gap := some ⟨reason, e, 1, time⟩ }, x.2)
  | none => ({ h with gap := some ⟨reason, e, 1, time⟩ }, s)

/-- The bytes of a block with outputs put in place. -/
def patchBlock (words : Bool) : List (Nat × Nat) → List Nat → List Nat
  | [], bs => bs
  | (p, v) :: es, bs =>
    let new := if words then wordBytes (BitVec.ofNat 40 v) else [v % 256]
    let at_ := if words then 5 * p else p
    patchBlock words es (bs.take at_ ++ new ++ bs.drop (at_ + new.length))

/-- Twelve free words. -/
def freeBlock (s : State) : List Word × State :=
  ((List.range 12).map (fun i => Config.freeWord (s.free + i)), { s with free := s.free + 12 })

/-- A whole-block write of the acquisition controller, to a slot (R275, R283): its acknowledgement is on its way with
the channel in the tag. A block whose write fails is left undefined. -/
def heatWrite (s : State) (r c a : Nat) (data : List Nat) : State :=
  let ch := s.ch r c
  let st := if ch.writeErr then stDataErr else memAccess s a
  let s1 := s.setCh r c { ch with writeErr := false }
  let s2 :=
    if st = 0 then netWriteBlock s1 a (0x44 + r) data
    else
      let f := freeBlock s1
      netWriteBlock f.2 a (0x44 + r) (wordsBytes f.1)
  { s2 with resps := s2.resps ++ [{ isRead := false, dst := 0x44 + r, tag := c * 4096, status := st, node := srcPort (0x44 + r) }] }

/-- The data-area block in a buffer written for the heat `seq` (R275). Positions that no output fills keep their
contents. -/
def flushBuf (s : State) (r c seq base evb : Nat) (words : Bool) (b : BlkBuf) : State :=
  match b.blk with
  | none => s
  | some k =>
    let a := base + 64 * (2 + evb + k)
    let s1 := s.setCh r c { s.ch r c with writes := (s.ch r c).writes ++ [(some seq, b.src)] }
    heatWrite s1 r c a (patchBlock words b.ins (bytesAt s.mem a 60))

/-- Runs of elements with one more. -/
def addRun (e : Nat) : List (Nat × Nat) → List (Nat × Nat)
  | [] => [(e, 1)]
  | [r] => if r.1 + r.2 = e then [(r.1, r.2 + 1)] else [r, (e, 1)]
  | r :: rs => r :: addRun e rs

/-- An output put at a data-area position; a block that is left is written. -/
def putOut (s : State) (r c seq base evb : Nat) (words : Bool) (b : BlkBuf) (pos v : Nat) : BlkBuf × State :=
  let n := perBlock words
  if b.blk = some (pos / n) then ({ b with ins := b.ins ++ [(pos % n, v)] }, s)
  else ({ blk := some (pos / n), ins := [(pos % n, v)], src := [] }, flushBuf s r c seq base evb words b)

/-- Output `i` of a lane heat put in its data area, which a span with more outputs than it holds fills circularly
(R280). -/
def Heat.out (s : State) (r c : Nat) (h : Heat) (i v : Nat) : Heat × State :=
  let x := putOut s r c h.seq h.base h.evb h.words h.buf (i % Nat.max h.capOut 1) v
  ({ h with buf := x.1 }, x.2)

/-- The outputs of one element of a lane heat's span: itself, or under felting the minimum and maximum of its interval
when it is the last of it (R284). `x` is the element when it is present. -/
def elemOut (s : State) (r c : Nat) (h : Heat) (e : Nat) (x : Option Nat) : Heat × State :=
  let i := e - h.firstE
  if h.felt then
    let v := signed 8 (x.getD 0)
    let h1 := if x.isSome then { h with fmin := min h.fmin v, fmax := max h.fmax v } else h
    if (i + 1) % h.decim = 0 ∨ i + 1 = h.span then
      let k := i / h.decim
      let a := Heat.out s r c h1 (2 * k) (unsigned 8 h1.fmin)
      let b := Heat.out a.2 r c a.1 (2 * k + 1) (unsigned 8 h1.fmax)
      ({ b.1 with fmin := 127, fmax := -128 }, b.2)
    else (h1, s)
  else match x with
    | none => (h, s)
    | some v => Heat.out s r c h i v

/-- The next element of a lane heat read from its window, or covered by a gap of a reason (R275, R281, R282). -/
def copyElem (s : State) (r c : Nat) (h : Heat) (skip : Option Nat) : Heat × State :=
  let l := srcLane r h.unit
  let e := h.next
  let reason := match skip with
    | some k => some k
    | none => if inRuns (s.lane l).holes e then some 5 else none
  match reason with
  | some k =>
    let a := addGap s r c h k e (elemTime s l e)
    let b := elemOut a.2 r c a.1 e none
    ({ b.1 with next := e + 1 }, b.2)
  | none =>
    let a := closeGap s r c h
    let b := elemOut a.2 r c a.1 e (some (elemRead s l h.tap e))
    ({ b.1 with next := e + 1, buf := { b.1.buf with src := addRun e b.1.buf.src } }, b.2)

/-- `n` elements copied, or skipped under a gap reason. -/
def copyElems (r c : Nat) (skip : Option Nat) : Nat → Heat × State → Heat × State
  | 0, x => x
  | n + 1, x => copyElems r c skip n (copyElem x.2 r c x.1 skip)

/-! ### Bookkeeping of a region's channels -/

/-- Capture-buffer lines a channel occupies (R283). -/
def chLines (v : HeatCh) : Nat := v.writes.length + (if v.buf.ins.isEmpty then 0 else 1)

/-- Whether a channel has a fabric source. -/
def State.chFabric (s : State) (r c : Nat) : Bool := s.on F.HEAT_SRC.KIND r c

/-- The quarter GB/s a channel asks of memory region `m`: its HEAT_BW when its slots touch it (R319). -/
def chBw (s : State) (r c m : Nat) : Nat :=
  let a := s.fld F.HEAT_BASE.ADDR r c * 64
  let e := a + s.fld F.HEAT_NSLOT.NUM r c * s.fld F.HEAT_SLOT.BLOCKS r c * 64
  if a < (m + 1) * 0x800000000 ∧ m * 0x800000000 < e then s.fld F.HEAT_BW.QUARTERS r c else 0

/-- The reservations that the channels which are not IDLE hold at memory region `m`. -/
def memBwUsed (s : State) (m : Nat) : Nat :=
  (List.range 64).foldl (fun n k => if s.chState (k / 16) (k % 16) = 0 then n else n + chBw s (k / 16) (k % 16) m) 0

/-- The BUF lines of a region's channels that are not IDLE. -/
def bufQuota (s : State) (r : Nat) : Nat :=
  (List.range 16).foldl (fun n c =>
    if s.chState r c ≠ 0 ∧ s.chFabric r c = true then n + s.fld F.HEAT_SRC.BUF r c else n) 0

/-- The live fields that follow the channels: ACQ_BUF, CLOSING, FS and MEM_RES_LIMIT.USED. -/
def syncAcq (s : State) (r c : Nat) : State :=
  let v := s.ch r c
  let used := (List.range 16).foldl (fun n c => if s.chFabric r c then n + chLines (s.ch r c) else n) 0
  let s1 := (s.setFld F.ACQ_BUF.QUOTA r 0 (bufQuota s r)).setFld F.ACQ_BUF.USED r 0 used
  let s2 := (s1.setFld F.HEAT_STAT.CLOSING r c (flag (!v.closing.isEmpty))).setFld F.HEAT_STAT.FS r c
    (Nat.min v.fsCount 65535)
  (List.range 4).foldl (fun s m => s.setFld F.MEM_RES_LIMIT.USED m 0 (memBwUsed s m)) s2

/-! ### Arming (R271-R273, R276) -/

/-- The first check of Table 11.2 that an ARM fails, or 0. -/
def armCheck (s : State) (r c : Nat) : Nat :=
  let fab := s.chFabric r c
  let unit := s.fld F.HEAT_SRC.UNIT r c
  let l := srcLane r unit
  let tap := (s.lane l).tap
  let blocks := s.fld F.HEAT_SLOT.BLOCKS r c
  let evb := s.fld F.HEAT_SLOT.EVB r c
  let nslot := s.fld F.HEAT_NSLOT.NUM r c
  let base := s.fld F.HEAT_BASE.ADDR r c * 64
  let notify := s.fld F.HEAT_NOTIFY.ADDR r c * 8
  let felt := s.on F.HEAT_FELT.FELT r c
  let decim := s.fld F.HEAT_FELT.DECIM r c
  let pre := s.fld F.HEAT_PRE.NUM r c
  let span := pre + s.fld F.HEAT_POST.NUM r c + 1
  let buf := if fab then s.fld F.HEAT_SRC.BUF r c else 0
  if s.mode = .blank ∨ s.mode = .loading then 1
  else if s.chState r c ≠ 0 then 2
  else if (if fab then s.fld F.HEAT_SRC.CMASK r c = 0 ∨ buf = 0
           else 11 < unit ∨ s.fld F.TRG_WIN_CTRL.MODE (laneTile l) ≠ 0) then 3
  else if nslot = 0 then 4
  else if blocks ≤ 2 + evb then 5
  else if 0x2000000000 < base + nslot * blocks * 64 ∨ (notify ≠ 0 ∧ (notify < 0x7FF0000000 ∨ 0x7FF8000000 ≤ notify))
      ∨ 16384 < bufQuota s r + buf then 6
  else if felt ∧ (fab ∨ 1 < tap) then 7
  else if felt ∧ decim < 2 then 8
  else if !fab ∧ winCap tap ≤ pre then 9
  else if capOutOf s r c (fab || tap == 3) < nOutOf felt decim span ∧ s.on F.HEAT_CTRL.OVERRUN_OK r c = false then 10
  else if (List.range 4).any (fun m => chBw s r c m != 0 && decide (s.fld F.MEM_RES_LIMIT.LIMIT m < memBwUsed s m + chBw s r c m))
  then 11
  else 0

/-- The byte address of the slot of a sequence number. -/
def slotAddr (s : State) (r c q : Nat) : Nat :=
  s.fld F.HEAT_BASE.ADDR r c * 64 + q % Nat.max (s.fld F.HEAT_NSLOT.NUM r c) 1 * s.fld F.HEAT_SLOT.BLOCKS r c * 64

/-- Word H0 of a header but for the fields of a heat that has started (Table 11.5). -/
def headWord (state r c : Nat) (fab : Bool) (unit tap : Nat) (felt whold : Bool) : Nat :=
  state * 2 ^ 38 + 2 ^ 34 + c * 2 ^ 30 + r * 2 ^ 28 + flag fab * 2 ^ 27 + unit * 2 ^ 23
    + (if fab then 0 else tap) * 2 ^ 20 + flag felt * 2 ^ 19 + flag whold * 2 ^ 13

/-- A header block written; one whose write fails is left undefined and reported (R283). -/
def headWrite (s : State) (r c a : Nat) (ws : List Word) : State :=
  if memAccess s a = 0 then netWriteBlock s a (0x44 + r) (wordsBytes ws)
  else
    let f := freeBlock s
    acqEvent (netWriteBlock f.2 a (0x44 + r) (wordsBytes f.1)) r 3 c

/-- A channel becomes ready (R276): it takes slot HEAT_WP mod NSLOT and writes header block 0 with STATE = OPEN; the
words that only a heat gives are left open. -/
def becomeReady (s : State) (r c : Nat) : State :=
  let fab := s.chFabric r c
  let unit := s.fld F.HEAT_SRC.UNIT r c
  let q := s.fld F.HEAT_WP.SEQ r c
  let h0 := headWord 1 r c fab unit (s.lane (srcLane r unit)).tap (s.on F.HEAT_FELT.FELT r c) (s.on F.HEAT_CTRL.WHOLD r c)
  let f := freeBlock s
  let s1 := headWrite f.2 r c (slotAddr s r c q) (BitVec.ofNat 40 h0 :: BitVec.ofNat 40 q :: f.1.drop 2)
  let v := s1.ch r c
  let s2 := s1.setCh r c { v with ready := v.elem, readyT := s.instant, buf := {}, bad := []
                                  acceptT := if s.fld F.HEAT_PRE.NUM r c = 0 then some s.instant else none }
  syncAcq (s2.setFld F.HEAT_STAT.STATE r c (if fab ∧ s.fld F.HEAT_PRE.NUM r c ≠ 0 then 1 else 2)) r c

/-- An ARM that is checked (R271): `auto` is ARG[0] of a gun action. -/
def armNow (s : State) (r c time : Nat) (auto : Option Bool) : State :=
  let res := armCheck s r c
  let s1 := s.setFld F.HEAT_STAT.RES r c res
  if res ≠ 0 then acqEvent s1 r 2 c
  else
    let s2 := match auto with
      | some a => s1.setFld F.HEAT_CTRL.AUTO r c (flag a)
      | none => s1
    let v := s2.ch r c
    becomeReady (s2.setCh r c { v with armT := time, endT := time, elem := 0, finish := false, holdLeft := 0, times := []
                                       pauses := [], writes := v.writes.map (fun w => (none, w.2)) }) r c

/-- An ARM; one that meets the close of the last heat of an IDLE channel waits for it (R271, R65). -/
def heatArm (s : State) (r c time : Nat) (auto : Option Bool) : State :=
  if s.chState r c = 0 ∧ !(s.ch r c).closing.isEmpty then s.setCh r c { s.ch r c with waitArm := some (time, auto) }
  else armNow s r c time auto

/-! ### The end of a heat (R272, R275) -/

/-- The number of the next element a channel's source will give. -/
def nextElem (s : State) (r c : Nat) (h : Heat) : Nat :=
  if h.fabric then (s.ch r c).elem else (s.lane (srcLane r h.unit)).cnt

/-- The time of an element of a fabric source, from the steps it remembers. -/
def fabricTime (v : HeatCh) (e : Nat) : Nat := ((v.times.find? (fun p => decide (p.1 ≤ e))).map (fun p => p.2)).getD 0

/-- The time of an element of a channel's source. -/
def srcTime (s : State) (r c : Nat) (fab : Bool) (unit e : Nat) : Nat :=
  if fab then fabricTime (s.ch r c) e else elemTime s (srcLane r unit) e

/-- Capture ends at an element (R275): the heat begins to close, and the channel goes to REARM or to IDLE. -/
def endHeat (s : State) (r c lastE : Nat) (trunc stop : Bool) : State :=
  let v := s.ch r c
  match v.heat with
  | none => s
  | some h =>
    let h1 := { h with lastE := some lastE, trunc := trunc }
    let s1 := if h.fabric then flushBuf s r c h.seq h.base h.evb true v.buf else s
    let idle := stop || v.finish || !s.on F.HEAT_CTRL.AUTO r c
    let v1 := { s1.ch r c with heat := none, closing := v.closing ++ [h1], buf := {}, finish := false
                               endT := srcTime s r c h.fabric h.unit lastE
                               holdLeft := s.fld F.HEAT_HOLDOFF.VALUE r c }
    syncAcq ((s1.setCh r c v1).setFld F.HEAT_STAT.STATE r c (if idle then 0 else 4)) r c

/-- CAPTURE_END: every element to e + POST has been taken (R275). -/
def captureEnd (s : State) (r c : Nat) : State :=
  match (s.ch r c).heat with
  | none => s
  | some h => if h.trigE + h.post < nextElem s r c h then
      endHeat s r c (h.trigE + h.post) false false else s

/-- CAPTURE_END (R275). -/
def execCaptureEnd (region : Region) (channel : Fin 16) (s : State) : Host.Outcome State Fault Refusal :=
  .next (captureEnd s region channel)

/-- An immediate DISARM (R272). -/
def heatDisarm (s : State) (r c : Nat) : State :=
  let s0 := s.setCh r c { s.ch r c with waitArm := none }
  match s.chState r c, (s.ch r c).heat with
  | 3, some h => endHeat s0 r c (Nat.min (nextElem s r c h - 1) (h.trigE + h.post)) true true
  | 0, _ => s0
  | _, _ => syncAcq ((s0.setCh r c { s0.ch r c with buf := {} }).setFld F.HEAT_STAT.STATE r c 0) r c

/-- A FINISH (R272): a heat in POST runs to its end and then the channel stops; otherwise it acts as DISARM. -/
def heatFinish (s : State) (r c : Nat) : State :=
  if s.chState r c = 3 then s.setCh r c { s.ch r c with finish := true } else heatDisarm s r c

/-- The channels with a lane as source. -/
def laneChannels (s : State) (l : Nat) : List Nat :=
  (List.range 16).filter (fun c => !s.chFabric (l / 12) c && s.fld F.HEAT_SRC.UNIT (l / 12) c == l % 12)

/-- An immediate DISARM of every channel with the lane as source (R272). -/
def disarmLane (s : State) (l : Nat) : State := (laneChannels s l).foldl (fun s c => heatDisarm s (l / 12) c) s

/-! ### Triggers (R274, R277, R278) -/

/-- The reason of a false start: the first of R277 that stands. -/
def falseReason (s : State) (r c : Nat) : Nat :=
  let v := s.ch r c
  let whold := s.on F.HEAT_CTRL.WHOLD r c
  if s.chState r c ≠ 4 then (if s.chFabric r c then 2 else 1)
  else if s.on F.HEAT_CTRL.WRAP r c = false ∧ s.fld F.HEAT_NSLOT.NUM r c ≤
      (s.fld F.HEAT_WP.SEQ r c + 2 ^ 40 - s.fld F.HEAT_RP.SEQ r c) % 2 ^ 40
  then 6
  else if (if whold then 0 else 1) < v.closing.length then 5
  else if (if s.on F.HEAT_HOLDOFF.KIND r c then v.holdLeft ≠ 0
           else s.instant < v.endT + s.fld F.HEAT_HOLDOFF.VALUE r c * 1024) then 4
  else if s.instant < v.endT + 200 * 1024 then 3
  else if s.chFabric r c then 2 else 1

/-- A false start is counted and held for the next heat (R277). -/
def falseStart (s : State) (r c reason ev e frac stamp : Nat) : State :=
  let v := s.ch r c
  let rec_ := ringRec s 2 reason e (ev * 2 ^ 33 + frac * 2 ^ 25) stamp
  syncAcq (s.setCh r c { v with
    fsCount := satAdd 40 v.fsCount 1
    fsFirst := if v.fsFirst.isNone then some stamp else v.fsFirst
    fsRecs := if v.fsRecs.length < 16 then v.fsRecs ++ [rec_] else v.fsRecs }) r c

/-- The first instant at which the channel would have accepted a trigger (R279). -/
def acceptTime (s : State) (r c : Nat) : Nat :=
  let v := s.ch r c
  if s.chFabric r c then v.acceptT.getD v.readyT
  else
    let l := srcLane r (s.fld F.HEAT_SRC.UNIT r c)
    Nat.max v.readyT (elemTime s l ((s.lane l).fill + s.fld F.HEAT_PRE.NUM r c))

/-- A part of a gap run at or after an element. -/
def clipRun (firstE : Nat) (g : GapRun) : Option GapRun :=
  if g.first + g.count ≤ firstE then none
  else if firstE ≤ g.first then some g
  else some { g with first := firstE, count := g.first + g.count - firstE }

/-- The PAUSE record of a pause (Table 11.6). -/
def pauseRec (s : State) (fab : Bool) (p : Nat × Nat × Nat) : Nat × Nat × Nat × Nat :=
  ringRec s 4 (if fab then 2 else 1) p.1 (p.2.2 / 1024) p.2.1

/-- The elements of a fabric source from `firstE` to its readiness, which no slot was there to take: one gap run with
the reason BUFFER_FULL. DESIGN CHOICE (log entry 70). -/
def beforeReady (s : State) (r c firstE : Nat) : List GapRun :=
  let v := s.ch r c
  if firstE < v.ready then [⟨2, firstE, v.ready - firstE, srcTime s r c true 0 firstE⟩] else []

/-- An accepted trigger starts the heat (R275). -/
def startHeat (s : State) (r c ev e frac stamp : Nat) (mapped : Bool) : State :=
  let v := s.ch r c
  let fab := s.chFabric r c
  let unit := s.fld F.HEAT_SRC.UNIT r c
  let l := srcLane r unit
  let tap := (s.lane l).tap
  let pre := s.fld F.HEAT_PRE.NUM r c
  let q := s.fld F.HEAT_WP.SEQ r c
  let firstE := e - pre
  let lost := if fab then beforeReady s r c firstE ++ v.bad.filterMap (clipRun firstE) else []
  let pauses := (if fab then v.pauses else (s.lane l).pauses).filter (fun p => decide (firstE < p.1) && decide (p.1 ≤ e))
  let h : Heat :=
    { seq := q, base := slotAddr s r c q, evb := s.fld F.HEAT_SLOT.EVB r c, capOut := capOutOf s r c (fab || tap == 3)
      fabric := fab, unit := unit, tap := tap, felt := s.on F.HEAT_FELT.FELT r c, decim := s.fld F.HEAT_FELT.DECIM r c
      whold := s.on F.HEAT_CTRL.WHOLD r c, event := ev, stamp := stamp, frac := frac, mapped := mapped
      servo := s.fld F.TIM_CTRL.SERVO_STATE, trigE := e, pre := pre, post := s.fld F.HEAT_POST.NUM r c
      firstE := firstE, firstT := srcTime s r c fab unit firstE, stride := strideAt s stamp, origin := v.ready
      fsCount := v.fsCount, fsFirst := v.fsFirst, dead := (acceptTime s r c - v.endT) / 1024
      recs := v.fsRecs ++ lost.map (fun g => ringRec s 1 g.reason g.first g.count g.time)
        ++ pauses.map (pauseRec s fab)
      gaps := lost, next := firstE }
  let s1 := if fab then s else winRecord s l e ev frac stamp
  let s2 := (s1.addWrap F.HEAT_WP.SEQ r c).setFld F.HEAT_STAT.STATE r c 3
  syncAcq (s2.setCh r c { v with heat := some h, fsCount := 0, fsFirst := none, fsRecs := [] }) r c

/-- A trigger of a channel (R274): the event of HEAT_TRIG.SEL or FORCE (127), with its lane position if it carries
one. -/
def heatTrigger (s : State) (r c ev stamp : Nat) (pos : Option (Nat × Nat × Nat)) : State :=
  let v := s.ch r c
  let fab := s.chFabric r c
  let unit := s.fld F.HEAT_SRC.UNIT r c
  let l := srcLane r unit
  if s.chState r c = 0 ∨ stamp < v.armT then s
  else
    let own := match pos with
      | some p => if !fab && p.1 == l then some p else none
      | none => none
    let e := match own with
      | some p => p.2.1
      | none =>
        if fab then
          match (v.times.filter (fun p => decide (stamp ≤ p.2))).getLast? with
          | some p => p.1
          | none => v.elem
        else elemAt s l stamp
    let frac := (own.map (fun p => p.2.2)).getD 0
    match s.chState r c with
    | 2 =>
      if fab then startHeat s r c ev e frac stamp own.isNone
      else match winJudge s l e (s.fld F.HEAT_PRE.NUM r c) stamp with
        | 0 => startHeat s r c ev e frac stamp own.isNone
        | 1 => falseStart s r c 1 ev e frac stamp
        | 2 => winStale s l
        | _ => s
    | 3 =>
      match v.heat with
      | none => s
      | some h =>
        let x := ringRec s 3 0 e (ev * 2 ^ 33 + frac * 2 ^ 25) stamp
        s.setCh r c { v with heat := some { h with later := Nat.min (h.later + 1) 65535, recs := h.recs ++ [x] } }
    | 4 =>
      let s1 := falseStart s r c (falseReason s r c) ev e frac stamp
      s1.setCh r c { s1.ch r c with holdLeft := v.holdLeft - 1 }
    | _ => falseStart s r c (falseReason s r c) ev e frac stamp

/-- CHANNEL_READY (R276): the conditions hold and the channel takes its next slot. -/
def execChannelReady (region : Region) (channel : Fin 16) (s : State) : Host.Outcome State Fault Refusal :=
  if s.chState region channel = 4 ∧ falseReason s region channel ≤ 2 then .next (becomeReady s region channel)
  else .next s

/-! ### The fabric source (R269, R283) -/

/-- One word that a selected CAP output loaded: an element of the channel. -/
def takeFabric (s : State) (r c : Nat) (w : Word) (time : Nat) : State :=
  let v := s.ch r c
  let e := v.elem
  let v1 := { v with elem := e + 1
                     times := match v.times with
                       | p :: _ => if p.2 = time then v.times else (e, time) :: v.times
                       | [] => [(e, time)] }
  let st := s.chState r c
  let beyond : Bool := match v.heat with
    | some h => decide (h.trigE + h.post < e)
    | none => false
  if st = 4 ∨ beyond then s.setCh r c v1
  else
    let q := match v.heat with | some h => h.seq | none => s.fld F.HEAT_WP.SEQ r c
    let base := slotAddr s r c q
    let evb := s.fld F.HEAT_SLOT.EVB r c
    let full := v.buf.ins.isEmpty && decide (s.fld F.HEAT_SRC.BUF r c ≤ chLines v)
    let s1 :=
      if full then
        match v.heat with
        | some h =>
          let a := addGap s r c h 2 e time
          a.2.setCh r c { v1 with heat := some a.1 }
        | none => s.setCh r c { v1 with bad := v.bad ++ [⟨2, e, 1, time⟩] }
      else
        let closed := match v.heat with
          | some h => let a := closeGap s r c h; (some a.1, a.2)
          | none => (none, s)
        let pos := (e - v.ready) % Nat.max (capOutOf s r c true) 1
        let x := putOut (closed.2.setCh r c { v1 with heat := closed.1 }) r c q base evb true v.buf pos w.toNat
        let b := { x.1 with src := addRun e x.1.src }
        if pos % 12 = 11 then
          let s2 := flushBuf x.2 r c q base evb true b
          s2.setCh r c { s2.ch r c with buf := {} }
        else x.2.setCh r c { x.2.ch r c with buf := b }
    let s3 := if st = 1 ∧ s.fld F.HEAT_PRE.NUM r c ≤ e + 1 - v.ready then
        (s1.setFld F.HEAT_STAT.STATE r c 2).setCh r c { s1.ch r c with acceptT := some time }
      else s1
    syncAcq s3 r c

/-- A word that the CAP output of a cluster loaded goes to every channel that selects it. -/
def capWord (s : State) (cl : Nat) (w : Word) (time : Nat) : State :=
  let t := cl / 16
  let r := t / 16
  (List.range 16).foldl (fun s c =>
    if s.chState r c ≠ 0 ∧ s.chFabric r c = true ∧ s.fld F.HEAT_SRC.UNIT r c = t % 16
        ∧ bitOf (s.fld F.HEAT_SRC.CMASK r c) (cl % 16) = true then takeFabric s r c w time else s) s

/-- Gap runs added to the heat of a sequence number, of those a channel takes or closes. -/
def Heat.lose (s : State) (q : Nat) (runs : List GapRun) (h : Heat) : Heat :=
  if h.seq ≠ q then h
  else
    let mine := runs.filterMap (clipRun h.firstE)
    { h with gaps := h.gaps ++ mine, recs := h.recs ++ mine.map (fun g => ringRec s 1 3 g.first g.count g.time) }

/-- An acknowledgement of a channel's oldest data-block write (R283): a failed one makes its elements a gap of the heat
they belong to, started or still before its trigger. -/
def heatAck (s : State) (r c status : Nat) : State :=
  let v := s.ch r c
  match v.writes with
  | [] => s
  | (owner, src) :: ws =>
    let v1 := { v with writes := ws }
    if status = 0 then syncAcq (s.setCh r c v1) r c
    else
      let runs := src.map (fun p => (⟨3, p.1, p.2, srcTime s r c (s.chFabric r c) (s.fld F.HEAT_SRC.UNIT r c) p.1⟩ : GapRun))
      let s1 := acqEvent (acqEvent s r 3 c) r 0 c
      let v2 := match owner with
        | none => v1
        | some q =>
          { v1 with heat := v1.heat.map (Heat.lose s q runs), closing := v1.closing.map (Heat.lose s q runs)
                    bad := if q = s.fld F.HEAT_WP.SEQ r c then v1.bad ++ runs else v1.bad }
      syncAcq (s1.setCh r c v2) r c

/-! ### The close of a heat (R275, R280, R285, R286) -/

/-- Elements of gap runs below an element. -/
def gapBelow (bound : Nat) : List GapRun → Nat
  | [] => 0
  | g :: gs => (Nat.min (g.first + g.count) bound - g.first) + gapBelow bound gs

/-- Elements of gap runs. -/
def gapCount : List GapRun → Nat
  | [] => 0
  | g :: gs => g.count + gapCount gs

/-- The first element at or after `e` outside every gap run, among `n`. -/
def firstKept (gs : List GapRun) : Nat → Nat → Nat
  | 0, e => e
  | n + 1, e => if inRuns (gs.map (fun g => (g.first, g.count))) e then firstKept gs n (e + 1) else e

/-- The end of the source elements whose outputs an overrun heat has lost (R280). -/
def Heat.lostEnd (h : Heat) : Nat :=
  let n := nOutOf h.felt h.decim h.span - h.capOut
  h.firstE + (if h.felt then Nat.min (n / 2 * h.decim) h.span else n)

/-- The four words of an event-ring record. -/
def ringWords (e : Nat × Nat × Nat × Nat) : List Word :=
  [BitVec.ofNat 40 e.1, BitVec.ofNat 40 e.2.1, BitVec.ofNat 40 e.2.2.1, BitVec.ofNat 40 e.2.2.2]

/-- The ring blocks of a heat that hold a record are written: record k at position k mod (3 × EVB) (R286). -/
def writeRing (s : State) (r c : Nat) (h : Heat) : State :=
  let n := 3 * h.evb
  let kept := h.recs.zipIdx.filter (fun e => decide (h.recs.length ≤ e.2 + n))
  (List.range h.evb).foldl (fun s k =>
    let mine := kept.filter (fun e => e.2 % n / 3 == k)
    let a := h.base + 64 * (2 + k)
    let put := fun (bs : List Nat) (e : (Nat × Nat × Nat × Nat) × Nat) =>
      let at_ := 20 * (e.2 % n % 3)
      bs.take at_ ++ wordsBytes (ringWords e.1) ++ bs.drop (at_ + 20)
    if mine.isEmpty then s else headWrite s r c a (bytesWords (mine.foldl put (bytesAt s.mem a 60)))) s

/-- The words H0 to H23 of a closed heat (Table 11.5). -/
def headerWords (h : Heat) (r c : Nat) (discarded : Nat) (trigLost : Bool) : List Word :=
  let gap := gapCount h.gaps + discarded
  let kept := h.span - gap
  let nOut := nOutOf h.felt h.decim h.span
  let cap := Nat.max h.capOut 1
  let start :=
    if h.fabric then (if h.capOut < nOut then h.firstE - h.origin + nOut else h.firstE - h.origin) % cap
    else if h.capOut < nOut then nOut % cap else 0
  let h0 := headWord 2 r c h.fabric h.unit h.tap h.felt h.whold + flag (h.event == 127) * 2 ^ 18
    + flag h.mapped * 2 ^ 17 + flag trigLost * 2 ^ 16 + flag h.trunc * 2 ^ 15
    + flag (decide (3 * h.evb < h.recs.length)) * 2 ^ 14 + h.servo * 2 ^ 11
  [h0, h.seq, h.trigE, fracOf h.stamp, secOf h.stamp, h.event * 2 ^ 33 + h.frac * 2 ^ 25 + h.later * 2 ^ 9, h.stride,
    h.pre, h.post, h.firstE, fracOf h.firstT, h.span, if h.felt then 0 else kept, if h.felt then kept else 0, gap, discarded,
    nOut, start, if h.felt then h.decim else 0, h.fsCount, fracOf (h.fsFirst.getD 0), secOf (h.fsFirst.getD 0), h.dead,
    h.recs.length].map (BitVec.ofNat 40)

/-- The acknowledgements of a channel's writes that are in the network are taken, in order. -/
def takeAcks (r c : Nat) : Nat → State → State
  | 0, s => s
  | n + 1, s =>
    match s.resps.find? (fun p => p.dst == 0x44 + r && p.tag == c * 4096 && !p.isRead && !p.late) with
    | none => s
    | some p => takeAcks r c n (heatAck { s with resps := s.resps.erase p } r c p.status)

/-- The hold of a window ends: its fill starts with the next element (R281). -/
def endHold (s : State) (l : Nat) : State := s.setLane l { s.lane l with fill := (s.lane l).cnt, fillT := s.instant }

/-- The oldest closing heat is closed (R275): the rest of its span is copied, its writes are acknowledged, its ring and
header are written, and HEAT_DONE increments. An ARM that waited is then checked. The answer carries the word to
notify. -/
def closeHeat (s : State) (r c : Nat) : Option Word × State :=
  match (s.ch r c).closing with
  | [] => (none, s)
  | h :: hs =>
    let x :=
      if h.fabric then (h, s)
      else
        let y := copyElems r c none (h.lastE.getD 0 + 1 - h.next) (h, s)
        let z := closeGap y.2 r c y.1
        ({ z.1 with buf := {} }, flushBuf z.2 r c h.seq h.base h.evb h.words z.1.buf)
    let w := closeGap x.2 r c x.1
    let s1 := w.2.setCh r c { w.2.ch r c with closing := w.1 :: hs }
    let s2 := takeAcks r c s1.resps.length s1
    match (s2.ch r c).closing with
    | [] => (none, s2)
    | h2 :: rest =>
      let lostN := h2.lostEnd - h2.firstE
      let lostOv := lostN - gapBelow h2.lostEnd h2.gaps
      let trigLost := decide (0 < lostN) && decide (h2.trigE < h2.lostEnd)
      let first := firstKept h2.gaps lostN h2.firstE
      let h3 := if lostOv = 0 then h2
        else { h2 with recs := h2.recs ++
          [ringRec s2 1 4 first lostOv (srcTime s2 r c h2.fabric h2.unit first)] }
      let s3 := if lostOv = 0 then s2 else acqEvent s2 r 0 c
      let s4 := if trigLost then acqEvent s3 r 1 c else s3
      let ws := headerWords h3 r c lostOv trigLost
      let s5 := headWrite (headWrite (writeRing s4 r c h3) r c (h3.base + 64) (ws.drop 12)) r c h3.base (ws.take 12)
      let s6 := (s5.setCh r c { s5.ch r c with closing := rest }).addWrap F.HEAT_DONE.SEQ r c
      let s7 := if h3.whold && !h3.fabric then endHold s6 (srcLane r h3.unit) else s6
      let s8 := syncAcq s7 r c
      let word := BitVec.ofNat 40 (c * 2 ^ 36 + r * 2 ^ 34 + h3.seq % 2 ^ 34)
      match (s8.ch r c).waitArm with
      | some a =>
        if s8.chState r c = 0 ∧ hs.isEmpty then
          (some word, armNow (s8.setCh r c { s8.ch r c with waitArm := none }) r c a.1 a.2)
        else (some word, s8)
      | none => (some word, s8)

/-! ### The window writer beside its copies (R281, R282) -/

/-- The heats of a channel that read a lane window: the one in POST and those that close. -/
def HeatCh.copies (v : HeatCh) : List Heat := v.closing ++ v.heat.toList

/-- Whether an element of a heat's span has not been read. -/
def Heat.unread (h : Heat) (e : Nat) : Bool :=
  decide (h.next ≤ e) && decide (e ≤ h.lastE.getD (h.trigE + h.post)) && decide (h.firstE ≤ e)

/-- Whether a holding heat's copy has not read element `e` of the lane. -/
def laneHeld (s : State) (l e : Nat) : Bool :=
  (laneChannels s l).any (fun c => (s.ch (l / 12) c).copies.any (fun h => h.whold && h.unread e))

/-- The copies of one channel read an element that the writer is about to overwrite. -/
def copyBefore (s : State) (r c e : Nat) : State :=
  let v := s.ch r c
  let go (s : State) (h : Heat) : Heat × State :=
    if h.unread e then copyElems r c none (e + 1 - h.next) (h, s) else (h, s)
  let hs := v.closing.foldl (fun (x : List Heat × State) h => let y := go x.2 h; (x.1 ++ [y.1], y.2)) ([], s)
  match v.heat with
  | none => hs.2.setCh r c { hs.2.ch r c with closing := hs.1 }
  | some h =>
    let y := go hs.2 h
    y.2.setCh r c { y.2.ch r c with closing := hs.1, heat := some y.1 }

/-- WINDOW_OVERRUN (R282): the writer overtakes the copy of a heat without window hold. The next element would
overwrite one the copy has not read; it resumes at W − C + 8,192. -/
def execWindowOverrun (region : Region) (channel : Fin 16) (s : State) : Host.Outcome State Fault Refusal :=
  let v := s.ch region channel
  let jump (s : State) (h : Heat) : Option (Heat × State) :=
    let l := srcLane region h.unit
    let w := (s.lane l).cnt
    let c := winCap h.tap
    if !h.fabric && !h.whold && decide (c ≤ w) && h.unread (w - c) && h.next == w - c then
      let last := h.lastE.getD (h.trigE + h.post)
      some (copyElems region channel (some 1) (Nat.min (w - c + 8192) (last + 1) - h.next) (h, s))
    else none
  match v.closing, v.heat with
  | h :: hs, _ =>
    match jump s h with
    | some x => .next (x.2.setCh region channel { x.2.ch region channel with closing := x.1 :: hs })
    | none => .next s
  | [], some h =>
    match jump s h with
    | some x => .next (x.2.setCh region channel { x.2.ch region channel with heat := some x.1 })
    | none => .next s
  | [], none => .next s

/-! ### Registers (R291) -/

/-- A write of a HEAT_ register: the configuration is ignored while the channel is not IDLE (Chapter 11). -/
def writeHeatReg (s : State) (reg : Reg) (r c : Nat) (w : Word) : State :=
  let busy := s.chState r c ≠ 0
  match reg with
  | .HEAT_CTRL =>
    let n := w.toNat
    let cfg := [F.HEAT_CTRL.AUTO, F.HEAT_CTRL.OVERRUN_OK, F.HEAT_CTRL.WRAP, F.HEAT_CTRL.WHOLD]
    let changes := cfg.any (fun f => bitsOf n f.hi f.lo != s.fld f r c)
    let s1 := if busy then (if changes then s.setFld F.HEAT_STAT.CFG_ERR r c 1 else s)
      else writeFields r c n false cfg s
    let s2 := if bitOf n 38 then heatDisarm s1 r c else s1
    let s3 := if bitOf n 37 then heatFinish s2 r c else s2
    let s4 := if bitOf n 39 then heatArm s3 r c s.instant none else s3
    if bitOf n 36 then heatTrigger s4 r c 127 s.instant none else s4
  | .HEAT_STAT => s.writeDefault .HEAT_STAT r c w
  | .HEAT_RP => if s.fld F.HEAT_DONE.SEQ r c < w.toNat then s else s.setReg .HEAT_RP r c w
  | .HEAT_WP | .HEAT_DONE => s
  | reg => if busy then s.setFld F.HEAT_STAT.CFG_ERR r c 1 else s.writeDefault reg r c w

/-! ### Resets and pauses (R287, R289) -/

/-- A W or G reset abandons the open heat of a channel (R289). -/
def abandonHeat (s : State) (r c : Nat) : State :=
  let v := s.ch r c
  let s1 := if v.heat.isSome || !v.closing.isEmpty then
      acqEvent (s.setFld F.HEAT_DONE.SEQ r c (s.fld F.HEAT_WP.SEQ r c)) r 4 c
    else s
  s1.setCh r c {}

/-- A pause of a source inside the span of a heat in POST is recorded (R287). -/
def recordPause (s : State) (r c : Nat) (p : Nat × Nat × Nat) : State :=
  let v := s.ch r c
  match v.heat with
  | some h => s.setCh r c { v with heat := some { h with recs := h.recs ++ [pauseRec s h.fabric p] } }
  | none => s

/-- A pause of a region's strides, for every channel with a fabric source (R287). -/
def fabricPause (s : State) (r start dur : Nat) : State :=
  (List.range 16).foldl (fun s c =>
    if s.chState r c ≠ 0 ∧ s.chFabric r c = true then
      let v := s.ch r c
      let p := (v.elem, start, dur)
      recordPause (s.setCh r c { v with pauses := v.pauses ++ [p] }) r c p
    else s) s

end Sys2Proof.Machine
end

