-- ==== Sys2Proof/Machine/LaneRx.lean ====
section
/-! DEFINITION. The receive side of a lane: the sample stream and its window, the decoded words, the lane detectors, the
SNAP states, and the register writes and power changes that act on a lane (Chapters 9 and 10). -/

namespace Sys2Proof.Machine

/-! ### Lane detectors (R257-R259) -/

/-- The cubic of R259 at m/256, times 6 · 2²⁴. -/
def cubic (ym y0 y1 y2 : Int) (m : Int) : Int :=
  -ym * m * (m - 256) * (m - 512) + 3 * y0 * (m + 256) * (m - 256) * (m - 512)
    - 3 * y1 * (m + 256) * m * (m - 512) + y2 * (m + 256) * m * (m - 256)

/-- The bisection of the photo-finish: `n` steps left between lo and hi. -/
def bisect (rising : Bool) (thr ym y0 y1 y2 : Int) : Nat → Nat → Nat → Nat
  | 0, lo, _ => lo
  | n + 1, lo, hi =>
    let mid := (lo + hi) / 2
    let p := cubic ym y0 y1 y2 mid
    let t := thr * 6 * 2 ^ 24
    if (if rising then p < t else t ≤ p) then bisect rising thr ym y0 y1 y2 n mid hi
    else bisect rising thr ym y0 y1 y2 n lo mid

/-- The fraction of a crossing, 0 to 255 (R259). -/
def photoFinish (rising : Bool) (thr ym y0 y1 y2 : Int) : Nat := bisect rising thr ym y0 y1 y2 8 0 256

/-- One detector sees the sample after x(n + 1): the crossing between x(n) and x(n + 1) and the arm states (R258). The
sample before x(n) is left open when there was none. -/
def levelStep (s : State) (l d : Nat) (y2 : Int) : State :=
  let t := laneTile l
  let v := s.lane l
  let thr := signed 8 (s.fld F.TRG_DET_CFG.THR t d)
  let hyst : Int := (s.fld F.TRG_DET_CFG.HYST t d : Nat)
  let rearm (x1 : Int) (rise fall : Nat) (v : LaneSt) : LaneSt :=
    { v with riseOff := if x1 < thr - hyst then rise - (rise &&& 2 ^ d) else rise
             fallOff := if thr + hyst ≤ x1 then fall - (fall &&& 2 ^ d) else fall }
  match v.tail with
  | [(x1, _)] =>
    if s.fld F.TRG_DET_CFG.KIND t d ≠ 1 ∨ v.tap = 3 then s else s.setLane l (rearm x1 v.riseOff v.fallOff v)
  | (x1, t1) :: (x0, t0) :: rest =>
    if s.fld F.TRG_DET_CFG.KIND t d ≠ 1 ∨ v.tap = 3 then s
    else
      let slope := s.fld F.TRG_DET_CFG.SLOPE t d
      let ym := match rest with
        | (x, _) :: _ => x
        | [] => signed 8 s.fresh.toNat
      let up := decide (x0 < thr) && decide (thr ≤ x1) && decide (slope ≠ 1) && !bitOf v.riseOff d
      let dn := decide (thr ≤ x0) && decide (x1 < thr) && decide (1 ≤ slope) && !bitOf v.fallOff d
      let frac := photoFinish up thr ym x0 x1 y2
      let hit := if up || dn then [(⟨d, v.cnt - 1, frac, t0 + (frac * (t1 - t0) * 2 + 256) / 512⟩ : DetEv)] else []
      let rise := if up then v.riseOff ||| 2 ^ d else v.riseOff
      let fall := if dn then v.fallOff ||| 2 ^ d else v.fallOff
      (if rest.isEmpty then s.used else s).setLane l (rearm x1 rise fall { v with detQ := v.detQ ++ hit })
  | _ => s

/-- A sample of the tap seen by both detectors. -/
def levelDets (s : State) (l : Nat) (x : Int) (time : Nat) : State :=
  let s1 := levelStep (levelStep s l 0 x) l 1 x
  s1.setLane l { s1.lane l with tail := ((x, time) :: (s1.lane l).tail).take 3 }

/-- A decoded word compared with the WORD detectors (R257). -/
def wordDets (s : State) (l : Nat) (w : Word) (time : Nat) : State :=
  let t := laneTile l
  let v := s.lane l
  let hits := [0, 1].filter (fun d =>
    s.fld F.TRG_DET_CFG.KIND t d == 2 && s.reg .TRG_DET_MASK t d != 0
      && s.reg .TRG_DET_MASK t d &&& w == s.reg .TRG_DET_MASK t d &&& s.reg .TRG_DET_MATCH t d)
  let e := if v.tap = 3 then v.cnt else elemAt s l time
  if hits.isEmpty then s else s.setLane l { v with detQ := v.detQ ++ hits.map (fun d => ⟨d, e, 0, time⟩) }

/-! ### The window writer (R248, R249, R281) -/

/-- An element of the window's tap arrives (R248): it is written and counted; while the window is held (R281) it is
counted and its position skipped. A stopped SNAP window writes and counts nothing (R250, R252). `behind` says that a
copy has not yet read the element this one would overwrite. -/
def winPut (s : State) (l v time : Nat) (behind : Bool) : State :=
  let t := laneTile l
  let x := s.lane l
  let e := x.cnt
  let stopped := s.fld F.TRG_WIN_CTRL.MODE t = 1 ∧
    (s.fld F.TRG_WIN_STAT.STATE t = 4 ∨ (match x.snapEnd with | some k => decide (k < e) | none => false) = true)
  let cap := winCap x.tap
  let count (s : State) : State :=
    let anchors := if x.anchors.isEmpty = false ∧ elemTime s l e = time then x.anchors else (e, time) :: x.anchors
    (s.setLane l { s.lane l with cnt := e + 1, lastT := time, anchors := anchors }).setReg .TRG_WIN_CNT_LO t 0 (BitVec.ofNat 40 (e + 1))
  if stopped then s
  else if cap ≤ e ∧ laneHeld s l (e - cap) = true ∧ behind then
    count (s.setLane l { x with holes := addRun e x.holes })
  else
    let s1 := if cap ≤ e then (laneChannels s l).foldl (fun s c => copyBefore s (l / 12) c (e - cap)) s else s
    let s2 := if x.tap = 3 then s1.writeBlk (elemAddr l 3 e) (BitVec.ofNat 40 v)
      else { s1 with mem := writeByte s1.mem (elemAddr l x.tap e) (BitVec.ofNat 8 v) }
    let per := if x.tap = 3 then 12 else 60
    let first := (List.range (e % per)).all (fun i => inRuns x.holes (e - 1 - i))
    let s3 := if first = true then
        s2.setReg .TRG_WIN_LTIME t (e / per % 16384) (BitVec.ofNat 40 (fracOf time))
      else s2
    count s3

/-! ### Samples (R218, R219, R233) -/

/-- The equaliser output for the newest sample: the sum over the taps, saturated to 8 bits; what is below 1/256 of a
code is rounded as the device does, which is left open (R219, log entry 25). -/
def eqOut (s : State) (l : Nat) (adc : List Int) : Int × State :=
  let t := laneTile l
  let sum := adc.zipIdx.foldl (fun (n : Int) x => n + x.1 * signed 10 (s.reg .LN_FFE t x.2).toNat) 0
  let lo := sum / 256
  if sum % 256 = 0 then (clampInt (-128) 127 lo, s)
  else (clampInt (-128) 127 (lo + (s.fresh.toNat % 2 : Nat)), s.used)

/-- The nominal level of a decision (R219); none before the first. -/
def nominal (pam : Bool) (d : Option Nat) : Int :=
  match d, pam with
  | none, _ => 0
  | some k, true => 64 * k - 96
  | some k, false => if k = 0 then -96 else 96

/-- The slicer input for the equaliser output `y`, in 1/256 of a code: less the DFE tap times the decision before (R219).
The thresholds that follow the measured level means are the receiver's, so the decisions are the environment's. -/
def slicerIn (s : State) (l : Nat) (y : Int) (before : Option Nat) : Int :=
  256 * y - (if s.lf l F.LN_RX_CFG.DFE_EN = 1 then signed 10 (s.reg .LN_DFE (laneTile l)).toNat * nominal (s.pam l) before
    else 0)

/-- One ADC sample and the slicer decision of its UI: the equaliser, the histogram, and the element of the tap with its
detectors and the window (R219, R233, R240). An equaliser output belongs to the UI CURSOR before the newest. -/
def sampleIn (s : State) (l : Nat) (code : BitVec 8) (level time : Nat) (behind : Bool) : State :=
  let x := signed 8 code.toNat
  let v := s.lane l
  let cur := s.lf l F.LN_RX_CFG.CURSOR
  let adc := (x :: v.adc).take 24
  let decs := (level :: v.decs).take 26
  let y := eqOut (s.setLane l { v with adc := adc, decs := decs }) l adc
  let own := decs.getD cur 0
  let s1 := y.2.setLane l { y.2.lane l with slIn := slicerIn s l y.1 (decs[cur + 1]?) }
  let s2 := histIn s1 l x y.1 level own
  let eqT := time - s.uiTime l cur
  match v.tap with
  | 0 => winPut (levelDets s2 l x time) l (unsigned 8 x) time behind
  | 1 => winPut (levelDets s2 l y.1 eqT) l (unsigned 8 y.1) eqT behind
  | 2 =>
    let hi := unsigned 8 y.1 / 4 * 4
    winPut (levelDets s2 l (signed 8 hi) eqT) l (hi + own % 4) eqT behind
  | _ => s2

/-! ### Decoded words (R222-R231, R241) -/

/-- Receive injection on a decoded word (R237). -/
def rxFlip (s : State) (l : Nat) (w : Word) : Word × State :=
  let v := s.lane l
  let next := if v.injRx then v.injNext - 40 else v.injNext
  if v.rxInj.isEmpty then (w, s.setLane l { v with injNext := next })
  else (BitVec.ofNat 40 (bitsNat (v.rxInj.foldl flipBits (bitList 40 w.toNat))),
        s.setLane l { v with rxInj := leftOver 40 v.rxInj, injNext := next })

/-- A decoded word at stages 6 and 7 of Table 9.1: it passes under GATE (R222) to the timestamp match, the detectors,
the injection, the queues under FEED (R231) and the WORD tap. -/
def passWord (s : State) (l : Nat) (w : Word) (time : Nat) (behind : Bool) : State :=
  if s.lf l F.LN_PCS.GATE = 1 ∧ s.lf l F.LN_STATUS.ALIGN = 0 then s
  else
    let s1 := wordDets (tsMatch s l w time) l w time
    let r := rxFlip s1 l w
    let v := r.2.lane l
    let t := laneTile l
    let s2 :=
      if v.feedOn then
        let s3 := if v.feedNew then
            { r.2.setLane l { v with feedNew := false } with
              tiles := mset {} r.2.tiles t { mget {} r.2.tiles t with laneRx := 0 } }
          else r.2
        laneWord s3 t r.1
      else r.2
    if v.tap = 3 then winPut s2 l r.1.toNat time behind else s2

/-- The code groups LN_PCS.COMMA_SET enables, in both forms (R224). -/
def commaGroups (s : State) (l : Nat) : List Nat :=
  let set := s.lf l F.LN_PCS.COMMA_SET
  ([(2, 0x3C), (1, 0xBC), (0, 0xFC)].filter (fun e => bitOf set e.1)).flatMap (fun e =>
    [(encode10 false true e.2).1, (encode10 true true e.2).1])

/-- One code group at the alignment in force (R224, R225). The byte of a group outside the code table is left open. -/
def groupIn (s : State) (l code time : Nat) (behind : Bool) : State :=
  let v := s.lane l
  let d := decode10 v.rxPlus code
  let byte := match d.1 with
    | some x => x.2 + flag x.1 * 256
    | none => s.fresh.toNat % 256
  let s0 := if d.1.isNone then s.used else s
  let bad := d.2.1
  let locked := s.lf l F.LN_STATUS.ALIGN == 1
  let hist := (bad :: v.grpBad).take 16
  let word := v.rxGroups ++ [byte + flag bad * 512]
  let full := decide (4 ≤ word.length)
  let v1 := { v with
    rxPlus := d.2.2
    rxWordT := if v.rxGroups.isEmpty then time else v.rxWordT
    rxGroups := if full then [] else word
    grpBad := if locked then hist else []
    lossDue := v.lossDue || (locked && decide (4 ≤ (hist.filter id).length)) }
  let s1 := s0.setLane l v1
  let s2 := if locked && bad then s1.addSat F.LN_PCS_CNT.CODE_ERR (laneTile l) 0 else s1
  let s3 := if bad then statusDet s2 l 5 else s2
  if full then
    passWord s3 l (BitVec.ofNat 40 (word.zipIdx.foldl (fun n g => n + g.1 * 2 ^ (10 * g.2)) 0)) v1.rxWordT behind
  else s3

/-- One received bit in 8b/10b: while hunting, a comma moves the alignment and is counted; three at one alignment lock,
with the disparity of the third (R224). -/
def bit8b10b (s : State) (l : Nat) (b : Bool) (time : Nat) (behind : Bool) : State :=
  let v := s.lane l
  let bits := v.rxBits ++ [b]
  let last := (v.rxLast ++ [b]).drop (v.rxLast.length - 9)
  let code := bitsNat last
  let hunting := s.lf l F.LN_STATUS.ALIGN == 0 && !v.lockDue
  let t0 := if v.rxBits.isEmpty then time else v.rxTime
  if hunting && last.length == 10 && (commaGroups s l).contains code then
    let n := if v.commas ≠ 0 ∧ (v.commaAge + 1) % 10 = 0 then v.commas + 1 else 1
    let plus := (encode10 true true 0x3C).1 == code || (encode10 true true 0xBC).1 == code || (encode10 true true 0xFC).1 == code
    let lock := decide (3 ≤ n)
    let v1 := { v with
      rxBits := [], rxLast := last, commas := n, commaAge := 0, rxPlus := plus, lockDue := lock
      rxGroups := if lock && s.lf l F.LN_PCS.COMMA_B0 == 1 then [] else v.rxGroups }
    groupIn (s.setLane l v1) l code (time - s.uiTime l 9) behind
  else if bits.length = 10 then
    groupIn (s.setLane l { v with rxBits := [], rxLast := last, commaAge := v.commaAge + 1 }) l (bitsNat bits) t0 behind
  else s.setLane l { v with rxBits := bits, rxLast := last, rxTime := t0, commaAge := v.commaAge + 1 }

/-- One 64b/66b block at the candidate or locked alignment (R226, R227). -/
def blockIn (s : State) (l : Nat) (bits : List Bool) (time : Nat) (behind : Bool) : State :=
  let v := s.lane l
  let h0 := bits.getD 0 false
  let h1 := bits.getD 1 false
  let bad := h0 == h1
  let locked := s.lf l F.LN_STATUS.ALIGN == 1
  let p := if s.lf l F.LN_PCS.SCR = 1 then descramble v.rxScr (bits.drop 2) else (bits.drop 2, v.rxScr)
  let last := v.hdrN + 1 == 64
  let hb := v.hdrBad + flag bad
  let v1 := { v with
    rxScr := p.2
    rxSlips := if !locked && bad then v.rxSlips + 1 else v.rxSlips
    hdrGood := if bad then 0 else v.hdrGood + 1
    lockDue := v.lockDue || (!locked && !bad && decide (64 ≤ v.hdrGood + 1))
    hdrN := if locked && !last then v.hdrN + 1 else 0
    hdrBad := if locked && !last then hb else 0
    lossDue := v.lossDue || (locked && decide (16 ≤ hb)) }
  let s1 := s.setLane l v1
  let s2 := if bad then statusDet (s1.addSat F.LN_PCS_CNT.CODE_ERR (laneTile l) 0) l 5 else s1
  let n := bitsNat p.1
  let w1 := bitsOf n 63 40 + flag h0 * 2 ^ 24 + flag h1 * 2 ^ 25 + flag bad * 2 ^ 26 + flag locked * 2 ^ 27
  let s3 := passWord s2 l (BitVec.ofNat 40 n) (time + s.uiTime l (2 / s.perUi l)) behind
  passWord s3 l (BitVec.ofNat 40 w1) (time + s.uiTime l (42 / s.perUi l)) behind

/-- One bit of the demapped line at the PCS decoder. -/
def pcsBit (s : State) (l : Nat) (b : Bool) (time : Nat) (behind : Bool) : State :=
  let v := s.lane l
  if v.rxSlips ≠ 0 then s.setLane l { v with rxSlips := v.rxSlips - 1 }
  else
    let bits := v.rxBits ++ [b]
    let t0 := if v.rxBits.isEmpty then time else v.rxTime
    match s.lf l F.LN_PCS.MODE with
    | 0 =>
      if bits.length = 40 then passWord (s.setLane l { v with rxBits := [] }) l (BitVec.ofNat 40 (bitsNat bits)) t0 behind
      else s.setLane l { v with rxBits := bits, rxTime := t0 }
    | 1 => bit8b10b s l b time behind
    | 2 =>
      if bits.length = 66 then blockIn (s.setLane l { v with rxBits := [] }) l bits t0 behind
      else s.setLane l { v with rxBits := bits, rxTime := t0 }
    | _ => s.setLane l { v with rxBits := bits, rxTime := t0 }

/-- One slicer decision: polarity, the precoding decoder and demapping, then the checker and the PCS (Table 9.1). -/
def decisionIn (s : State) (l level time : Nat) (behind : Bool) : State :=
  let pam := s.pam l
  let lv := (polarise pam (s.lf l F.LN_CTRL.RX_POL == 1) [level]).headD 0
  let v := s.lane l
  let g := if pam && s.lf l F.LN_RATE.PRECODE == 1 then (lv + v.rxPre) % 4 else lv
  let s1 := s.setLane l { v with rxPre := lv }
  let bits := if pam then pamBits (s.lf l F.LN_RATE.GRAY == 1) g else [g == 1]
  bits.foldl (fun s b => pcsBit (chkBit s l b) l b time behind) s1

/-- The slicer decisions of a unit: the environment's, or with the near-end loopback those of the levels that the
transmitter sent, while it has sent enough (R242). -/
def unitLevels (s : State) (l : Nat) (levels : List Nat) : List Nat :=
  if s.lf l F.LN_CTRL.LOOP = 1 then
    let q := (s.lane l).loopQ.take levels.length
    q ++ levels.drop q.length
  else levels

/-- DECODED_WORD (R222): the receiver takes the UIs of one unit: their ADC codes and slicer decisions, the first of
them at the land at device time `time`. In FEC40 one word of the decoded codewords passes with it. `behind` is the
state of the copies that read the window (R281). -/
def execDecodedWord (lane : Lane) (adc : List (BitVec 8)) (levels : List (Fin 4)) (behind : Bool) (time : Nat)
    (s : State) : Host.Outcome State Fault Refusal :=
  let l := lane.val
  if s.laneOn l && decide (4 ≤ (s.lane l).phase) then
    let lv := unitLevels s l (levels.map (fun k => k.val))
    let s0 := s.setLane l { s.lane l with loopQ := (s.lane l).loopQ.drop levels.length }
    let s1 := adc.zipIdx.foldl (fun s x => sampleIn s l x.1 (lv.getD x.2 0) (time + s.uiTime l x.2) behind) s0
    let s2 := if s1.lf l F.LN_CTRL.LOOP = 2 ∧ laneParked s1 l = false then drive s1 l lv else s1
    if s2.lf l F.LN_STATUS.CDR_LOCK = 0 then .next s2
    else
      let s3 := lv.zipIdx.foldl (fun s x => decisionIn s l x.1 (time + s.uiTime l x.2) behind) s2
      let s4 := if 6 ≤ (s3.lane l).phase then adaptCoefs s3 l else s3
      match s4.lf l F.LN_PCS.MODE, (s4.lane l).fecOut with
      | 3, w :: ws => .next (passWord (s4.setLane l { s4.lane l with fecOut := ws }) l w.1 w.2 behind)
      | _, _ => .next s4
  else .next s

/-! ### The SNAP window (R250-R253) -/

/-- A false start of a SNAP window (R251). -/
def winFalseStart (s : State) (l stamp : Nat) : State :=
  let t := laneTile l
  let s1 := if s.fld F.TRG_WIN_STAT.FS t = 0 then
      (s.setReg .TRG_WIN_FS_FRAC t 0 (BitVec.ofNat 40 (fracOf stamp))).setLane l { s.lane l with fsSec := secOf stamp }
    else s
  s1.addSat F.TRG_WIN_STAT.FS t 0

/-- The last element of the record of a trigger accepted at `e` (R252). -/
def snapLast (s : State) (l e : Nat) : Nat :=
  let t := laneTile l
  Nat.min (e + s.fld F.TRG_WIN_PRE.POST t) (e - s.fld F.TRG_WIN_PRE.PRE t + winCap (s.lane l).tap - 1)

/-- A trigger of a SNAP window at element `e` (Table 10.1, R251). -/
def winTrigger (s : State) (l ev e frac stamp : Nat) : State :=
  let t := laneTile l
  if s.fld F.TRG_WIN_CTRL.MODE t ≠ 1 ∨ stamp < (s.lane l).fillT then s
  else match s.fld F.TRG_WIN_STAT.STATE t with
    | 1 => winFalseStart s l stamp
    | 2 =>
      match winJudge s l e (s.fld F.TRG_WIN_PRE.PRE t) stamp with
      | 0 =>
        let s1 := (winRecord s l e ev frac stamp).setFld F.TRG_WIN_STAT.STATE t 0 3
        s1.setLane l { s1.lane l with snapEnd := some (snapLast s l e) }
      | 1 => winFalseStart s l stamp
      | 2 => winStale s l
      | _ => s
    | _ => s

/-- An ARM of a SNAP window (R253). -/
def winArm (s : State) (l : Nat) : State :=
  let t := laneTile l
  if s.fld F.TRG_WIN_CTRL.MODE t ≠ 1 then s
  else
    let s1 := (s.setFld F.TRG_WIN_STAT.FS t 0 0).setFld F.TRG_WIN_STAT.STALE t 0 0
    let s2 := (s1.setFld F.TRG_WIN_STAT.CLIPPED t 0 0).setReg .TRG_WIN_CLIP t 0 0
    let s3 := [Reg.TRG_WIN_TRIG_E, .TRG_WIN_TRIG_INFO, .TRG_WIN_TRIG_FRAC, .TRG_WIN_TRIG_SEC, .TRG_WIN_FS_FRAC,
      .TRG_WIN_FS_SEC, .TRG_WIN_DEAD].foldl (fun s r => s.setReg r t 0 0) s2
    let v := s3.lane l
    (s3.setLane l { v with fill := v.cnt, fillT := s.instant, preFrom := v.cnt, snapEnd := none, armTime := s.instant, trigSec := 0, fsSec := 0 }).setFld
      F.TRG_WIN_STAT.STATE t 0 (if s.fld F.TRG_WIN_PRE.PRE t = 0 then 2 else 1)

/-- WINDOW_ARM (R253). -/
def execWindowArm (lane : Lane) (s : State) : Host.Outcome State Fault Refusal := .next (winArm s lane)

/-- A FORCE write acts as a trigger at the element being written (R253). -/
def winForce (s : State) (l : Nat) : State := winTrigger s l 127 (s.lane l).cnt 0 s.instant

/-- WINDOW_FORCE (R253). -/
def execWindowForce (lane : Lane) (s : State) : Host.Outcome State Fault Refusal := .next (winForce s lane)

/-- PREFILL_DONE (R253): an element at or after F + PRE is the current one since the window entered PREFILL. -/
def execPrefillDone (lane : Lane) (s : State) : Host.Outcome State Fault Refusal :=
  let t := laneTile lane
  let v := s.lane lane
  let e := Nat.max (v.fill + s.fld F.TRG_WIN_PRE.PRE t) v.preFrom
  if s.fld F.TRG_WIN_STAT.STATE t = 1 ∧ e ≤ v.cnt ∧ v.preFrom < v.cnt then
    let dead := (elemTime s lane e - v.armTime) / 1024
    .next ((s.setFld F.TRG_WIN_STAT.STATE t 0 2).setReg .TRG_WIN_DEAD t 0 (BitVec.ofNat 40 dead))
  else .next s

/-- SNAP_DONE (R252): the record has ended; what it lost beyond the capacity is reported. -/
def execSnapDone (lane : Lane) (s : State) : Host.Outcome State Fault Refusal :=
  let t := laneTile lane
  let v := s.lane lane
  match v.snapEnd with
  | some e =>
    if s.fld F.TRG_WIN_STAT.STATE t = 3 ∧ e < v.cnt then
      let cut := s.fld F.TRG_WIN_PRE.PRE t + s.fld F.TRG_WIN_PRE.POST t + 1 - winCap v.tap
      let s1 := s.setFld F.TRG_WIN_STAT.STATE t 0 4
      if cut = 0 then .next s1
      else
        let s2 := (s1.setFld F.TRG_WIN_STAT.CLIPPED t 0 1).setFld F.TRG_WIN_CLIP.CUT t 0 cut
        if bitOf (s2.fld F.TRG_WIN_STAT.EVT t) 0 then .next s2
        else .next ((s2.orFld F.TRG_WIN_STAT.EVT t 0 0).emitTile 0x3501 t)
    else .next s
  | none => .next s

/-- A window in PREFILL, ARMED or POST begins its pre-fill again (Table 10.1); with PRE = 0 it is ARMED at once, and the
pre-fill has ended then. -/
def rePrefill (s : State) (l : Nat) : State :=
  let t := laneTile l
  let v := s.lane l
  let st := s.fld F.TRG_WIN_STAT.STATE t
  if s.fld F.TRG_WIN_CTRL.MODE t = 1 ∧ 1 ≤ st ∧ st ≤ 3 then
    let s1 := s.setLane l { v with snapEnd := none, preFrom := v.cnt }
    if s.fld F.TRG_WIN_PRE.PRE t = 0 then
      (s1.setFld F.TRG_WIN_STAT.STATE t 0 2).setReg .TRG_WIN_DEAD t 0 (BitVec.ofNat 40 ((s.instant - v.armTime) / 1024))
    else s1.setFld F.TRG_WIN_STAT.STATE t 0 1
  else s

/-- The window begins a new element count under a tap (R248): at the rise of EN and at a TAP change. -/
def winRestart (s : State) (l : Nat) : State :=
  let t := laneTile l
  let s1 := s.setLane l { s.lane l with cnt := 0, fill := 0, fillT := s.instant, tap := s.lf l F.LN_RX_CFG.TAP, tail := [], holes := []
                                        pauses := [], lastT := s.instant, anchors := [] }
  s1.setReg .TRG_WIN_CNT_LO t 0 0

/-- TAP_CHANGE (R248): a change of TAP takes effect at a line boundary of the window; it disarms the channels that read
the lane (R272). -/
def execTapChange (lane : Lane) (s : State) : Host.Outcome State Fault Refusal :=
  let v := s.lane lane
  let per := if v.tap = 3 then 12 else 60
  if s.lf lane F.LN_RX_CFG.TAP ≠ v.tap ∧ v.cnt % per = 0 then
    .next (rePrefill (winRestart (disarmLane s lane) lane) lane)
  else .next s

/-- A write of TRG_WIN_CTRL (R250, R253): a change of MODE makes the window IDLE. -/
def writeWinCtrl (s : State) (l : Nat) (w : Word) : State :=
  let t := laneTile l
  let old := s.fld F.TRG_WIN_CTRL.MODE t
  let s1 := s.writeDefault .TRG_WIN_CTRL t 0 w
  let s2 := if s1.fld F.TRG_WIN_CTRL.MODE t ≠ old then
      (s1.setFld F.TRG_WIN_STAT.STATE t 0 0).setLane l { s1.lane l with snapEnd := none }
    else s1
  let s3 := if bitOf w.toNat 37 then winArm s2 l else s2
  if bitOf w.toNat 36 then winForce s3 l else s3

/-- A write of TRG_WIN_PRE: a PRE above the capacity minus 1 is reserved (R6). -/
def writeWinPre (s : State) (t : Nat) (w : Word) : State :=
  let s1 := writeField t 0 w.toNat false s F.TRG_WIN_PRE.POST
  let pre := bitsOf w.toNat F.TRG_WIN_PRE.PRE.hi F.TRG_WIN_PRE.PRE.lo
  if winCap (s.lane (tileLane t)).tap ≤ pre then s1 else writeField t 0 w.toNat false s1 F.TRG_WIN_PRE.PRE

/-- A write of TRG_DET0_CFG or TRG_DET1_CFG (R257, R258). -/
def writeDetCfg (s : State) (t d : Nat) (w : Word) : State :=
  let s1 := s.writeDefault .TRG_DET_CFG t d w
  let l := tileLane t
  let v := s1.lane l
  let s2 := s1.setLane l { v with riseOff := v.riseOff - (v.riseOff &&& 2 ^ d)
                                  fallOff := v.fallOff - (v.fallOff &&& 2 ^ d) }
  if s2.fld F.TRG_DET_CFG.KIND t d = 1 ∧ s2.lf l F.LN_RX_CFG.TAP = 3 then s2.setFld F.TRG_WIN_STAT.CFG_ERR t 0 1 else s2

/-! ### Power states of a lane (R243, R244, R388) -/

/-- The rail of a power group is up while any lane of it is ON or DOZE (R243): it goes down at once; it comes up in the
first phase of an acquisition. -/
def syncRail (s : State) (l : Nat) : State :=
  let g := groupLanes l
  if g.any (fun k => s.lf k F.LN_STATUS.PSTATE == 1 || s.lf k F.LN_STATUS.PSTATE == 2) then s
  else g.foldl (fun s k => s.setLf k F.LN_STATUS.GRP_ON 0) s

/-- The acquisition of a lane begins (Table 9.7); in FREEZE and MANUAL the equaliser is settled at once (R220). -/
def beginAcquire (s : State) (l origin : Nat) : State :=
  let v := s.lane l
  let first := if s.lf l F.LN_STATUS.GRP_ON = 0 then 1 else if s.lf l F.LN_STATUS.PLL_LOCK = 0 then 2 else 3
  let s1 := s.setLane l { v with phase := first, origin := origin }
  if s.lf l F.LN_RX_CFG.ADAPT = 0 then s1 else s1.setLf l F.LN_STATUS.ADAPT_DONE 1

/-- The receiver and transmitter off: no lock, no signal (R243), each clearing a STATUS condition (R257). -/
def clearLocks (s : State) (l : Nat) : State :=
  let s1 := [F.LN_STATUS.PLL_LOCK, F.LN_STATUS.ADAPT_DONE, F.LN_STATUS.CHK_LOCK].foldl (fun s f => s.setLf l f 0) s
  dropStatus (dropStatus (dropStatus s1 l F.LN_STATUS.SIG 0) l F.LN_STATUS.CDR_LOCK 1) l F.LN_STATUS.ALIGN 2

/-- A lane enters the power state `p` of Table 9.6. -/
def lanePower (s : State) (l p : Nat) : State :=
  let old := s.lf l F.LN_STATUS.PSTATE
  let now := s.instant
  if old = p then s
  else
    let s1 := s.setLf l F.LN_STATUS.PSTATE p
    let v := s1.lane l
    if p = 1 then
      let s2 := match v.offAt with
        | some t =>
          let pz := (v.cnt, t, now - t)
          (laneChannels s1 l).foldl (fun s c => recordPause s (l / 12) c pz)
            (s1.setLane l { v with offAt := none, pauses := v.pauses ++ [pz] })
        | none => s1
      let s3 := rePrefill s2 l
      let origin := if v.phase = 0 then 0 else if old = 2 then 2 else 1
      beginAcquire (s3.setLane l { s3.lane l with waking := decide (origin ≠ 0) }) l origin
    else
      let s2 := if p = 2 then s1 else clearLocks s1 l
      let s3 := s2.setLane l { (s2.lane l).idle with
        waking := false, wakeLate := false, loopQ := [], rxBits := [], rxGroups := []
        offAt := if old = 1 then some now else v.offAt
        phase := if p = 0 then 0 else v.phase }
      syncRail s3 l

/-- The power state a lane's enable, its region and its own target give it (R243, R388). -/
def laneTarget (s : State) (l : Nat) : Nat :=
  let region := match (s.pw (l / 12)).lanes with
    | 0 | 1 => 1
    | n => n
  let own := if (s.pw (l / 12)).laneWake.contains l then 1
    else bitsOf (s.fld F.PWR_LANE.TARGET (l / 12)) (2 * (l % 12) + 1) (2 * (l % 12)) + 1
  if s.lf l F.LN_CTRL.EN = 0 ∨ s.mode = .blank ∨ s.mode = .loading then 0 else Nat.max region own

/-- The lane follows its target. -/
def followTarget (s : State) (l : Nat) : State := lanePower s l (laneTarget s l)

/-! ### LN_CTRL and the other LN_ writes (R210, R215, R231, R242) -/

/-- EN rises (R210, R213, R248, R258): the grid takes the epoch, the window starts a new count, and a cold acquisition
begins. -/
def laneEnable (s : State) (l : Nat) : State :=
  if !rateOk s l then s.setLf l F.LN_STATUS.CFG_ERR 1
  else
    let s1 := restartSource (s.setLf l F.LN_CTRL.EN 1) l
    let v := s1.lane l
    let s2 := s1.setLane l { v.hunt.chkClear with
      epochE := s.epochReg, phase := 0, txPre := 0, txScr := 0, rxPre := 0, rxScr := 0, rxBits := [], rxGroups := [], rxSlips := 0
      riseOff := 0, fallOff := 0, adc := [], decs := [], offAt := none, snapEnd := none, fecOut := [] }
    let s3 := (winRestart s2 l).setFld F.TRG_WIN_STAT.STATE (laneTile l) 0 0
    followTarget s3 l

/-- EN falls: the lane is off, and the heat channels that use it are disarmed (R243, R272). -/
def laneDisable (s : State) (l : Nat) : State := followTarget ((disarmLane s l).setLf l F.LN_CTRL.EN 0) l

/-- A change of LOOP restarts CDR acquisition (R242); 0b11 is reserved. -/
def setLoop (s : State) (l k : Nat) : State :=
  if k = 3 ∨ s.lf l F.LN_CTRL.LOOP = k then s
  else
    let s1 := dropStatus (s.setLf l F.LN_CTRL.LOOP k) l F.LN_STATUS.CDR_LOCK 1
    let s2 := if s.lf l F.LN_PCS.MODE = 0 then dropStatus s1 l F.LN_STATUS.ALIGN 2 else s1
    let v := s2.lane l
    s2.setLane l { v with phase := if 5 < v.phase then 5 else v.phase, rxBits := [], loopQ := [] }

/-- A write of LN_CTRL. -/
def writeLnCtrl (s : State) (l : Nat) (w : Word) : State :=
  let n := w.toNat
  let t := laneTile l
  let s1 := writeFields t 0 n false [F.LN_CTRL.FEED, F.LN_CTRL.TX_POL, F.LN_CTRL.RX_POL, F.LN_CTRL.MUTE, F.LN_CTRL.PARK] s
  let s2 := setLoop (setTxSrc s1 l (bitsOf n 33 32)) l (bitsOf n 37 36)
  let s3 := if bitOf n 28 then clearCounters s2 l else s2
  match bitOf n 39, s3.lf l F.LN_CTRL.EN with
  | true, 0 => laneEnable s3 l
  | false, 1 => laneDisable s3 l
  | _, _ => s3

/-- LANE_ENABLE: a write of LN_CTRL with EN = 1 (R210). -/
def execLaneEnable (lane : Lane) (value : Word) (s : State) : Host.Outcome State Fault Refusal :=
  .next (writeLnCtrl s lane (value ||| 0x8000000000))

/-- LANE_DISABLE: a write of EN = 0 (R243, R272). -/
def execLaneDisable (lane : Lane) (s : State) : Host.Outcome State Fault Refusal :=
  .next (if s.lf lane F.LN_CTRL.EN = 0 then s else laneDisable s lane)

/-- LOOP_WRITE (R242). -/
def execLoopWrite (lane : Lane) (loop : BitVec 2) (s : State) : Host.Outcome State Fault Refusal :=
  .next (setLoop s lane loop.toNat)

/-- A write of LN_RATE: ignored while EN = 1 (R210). -/
def writeLnRate (s : State) (l : Nat) (w : Word) : State :=
  if s.lf l F.LN_CTRL.EN = 1 then s.setLf l F.LN_STATUS.CFG_ERR 1 else s.writeDefault .LN_RATE (laneTile l) 0 w

/-- A write of a coefficient register: ignored in AUTO (R220). -/
def writeCoef (s : State) (r : Reg) (l i : Nat) (w : Word) : State :=
  if s.lf l F.LN_RX_CFG.ADAPT = 0 then s else s.writeDefault r (laneTile l) i w

/-- A write of LN_RX_CFG: in FREEZE and MANUAL the equaliser of a running lane is settled at once (R220). -/
def writeRxCfg (s : State) (l : Nat) (w : Word) : State :=
  let s1 := s.writeDefault .LN_RX_CFG (laneTile l) 0 w
  if s1.lf l F.LN_RX_CFG.ADAPT ≠ 0 ∧ s1.laneOn l = true then s1.setLf l F.LN_STATUS.ADAPT_DONE 1 else s1

/-- The release point of the receive feeds (R231): FEED takes effect. -/
def releaseFeeds (s : State) : State :=
  (List.range 48).foldl (fun s l =>
    let on := s.lf l F.LN_CTRL.FEED == 1
    if (s.lane l).feedOn = on then s else s.setLane l { s.lane l with feedOn := on }) s

/-- The action RXQ_START (R231): the feed starts at the next release point, with the word counter at 0. -/
def rxqStart (s : State) (l : Nat) : State :=
  (s.setLf l F.LN_CTRL.FEED 1).setLane l { s.lane l with feedNew := true }

/-- The action RXQ_STOP (R231). -/
def rxqStop (s : State) (l : Nat) : State := s.setLf l F.LN_CTRL.FEED 0

end Sys2Proof.Machine
end

