-- ==== Sys2Proof/Machine/Trig.lean ====
section
/-! DEFINITION. The trigger combiners, sequencers, trigger bus and trigger pins (Chapter 10). -/

namespace Sys2Proof.Machine

/-- The combiner of a region. -/
def State.trig (s : State) (r : Nat) : TrigSt := mget {} s.trigs r

/-- The state with a region's combiner set. -/
def State.setTrig (s : State) (r : Nat) (v : TrigSt) : State := { s with trigs := mset {} s.trigs r v }

/-- Units of one network-clock cycle (R20). -/
def netCycle : Nat := 640

/-- SETTLE of a region's combiner in units (R260). -/
def seqSettle (s : State) (r : Nat) : Nat := s.fld F.TRG_SEQ_CTRL.SETTLE r * netCycle

/-- An event arrives at the combiner (R260). It is late when its stamp plus SETTLE has passed; `never` is a software
event, which is never late (R265). -/
def raiseEvent (s : State) (r ev stamp : Nat) (pos : Option (Nat × Nat × Nat)) (never : Bool := false) : State :=
  let v := s.trig r
  let late := !never && decide (stamp + seqSettle s r < s.instant)
  s.setTrig r { v with held := v.held ++ [{ ev := ev, stamp := stamp, pos := pos, late := late }] }

/-- A combiner event code: the first while its bit of TRG_STATUS.EVT is clear issues a record (R267); it is counted in
LATE. -/
def trgLate (s : State) (r bit : Nat) : State :=
  let s1 := s.addSat F.TRG_STATUS.LATE r 0
  if bitOf (s1.fld F.TRG_STATUS.EVT r) bit then s1
  else (s1.orFld F.TRG_STATUS.EVT r 0 bit).emitRegion (0x4401 + bit) r

/-! ### The sequencer (R261, R262) -/

/-- Whether an event is in a mask pair: bits 0-39 in the first, 40-63 in the second. -/
def inMask (m0 m1 ev : Nat) : Bool := if ev < 40 then bitOf m0 ev else bitOf m1 (ev - 40)

/-- The sequencer's stage. -/
def seqStage (s : State) (r : Nat) : Nat := s.fld F.TRG_SEQ_CTRL.STAGE r

/-- The sequencer in a stage, with the stage count cleared and an entry time. -/
def enterStage (s : State) (r k entry : Nat) : State :=
  (s.setFld F.TRG_SEQ_CTRL.STAGE r 0 k).setTrig r { s.trig r with count := 0, entry := entry }

/-- A stage completes (R261): the next is entered, one with COUNT = 0 completes on its entry, and the last fires event
64. The flag says that it fired. -/
def completeStage (r stamp : Nat) : Nat → State → Bool × State
  | 0, s => (false, s)
  | n + 1, s =>
    let k := seqStage s r
    if s.fld F.TRG_SEQ_CTRL.LAST r ≤ k then (true, (enterStage s r 0 stamp).addSat F.TRG_SEQ_STAT.FIRES r 0)
    else
      let s1 := enterStage s r (k + 1) stamp
      if s1.fld F.TRG_S_COND1.COUNT r (k + 1) = 0 then completeStage r stamp n s1 else (false, s1)

/-- The deadline of the stage in progress, if it has one (R261). -/
def stageDeadline (s : State) (r : Nat) : Option Nat :=
  let k := seqStage s r
  let t := s.fld F.TRG_S_TIMEOUT.NS r k
  if k = 0 ∨ t = 0 then none else some ((s.trig r).entry + t * 1024)

/-- The stage's time has run out (R261). -/
def stageTimeout (s : State) (r : Nat) : State := (enterStage s r 0 0).addSat F.TRG_SEQ_STAT.TIMEOUTS r 0

/-- The time of a stage that an event stamped after its deadline finds over runs out before the event (R261). -/
def expireStage (s : State) (r stamp : Nat) : State :=
  match stageDeadline s r with
  | some d => if s.on F.TRG_SEQ_CTRL.EN r = true ∧ d < stamp then stageTimeout s r else s
  | none => s

/-- One event at the sequencer, which stands in the stage the event finds (R261). -/
def seqEvent (s : State) (r ev stamp : Nat) : Bool × State :=
  let k := seqStage s r
  if s.fld F.TRG_SEQ_CTRL.EN r = 0 ∨ 64 ≤ ev then (false, s)
  else if inMask (s.fld F.TRG_S_RST0.EVENTS r k) (s.fld F.TRG_S_RST1.EVENTS r k) ev then (false, enterStage s r 0 stamp)
  else if inMask (s.fld F.TRG_S_COND0.EVENTS r k) (s.fld F.TRG_S_COND1.EVENTS r k) ev then
    let v := s.trig r
    let s1 := s.setTrig r { v with count := v.count + 1 }
    if s.fld F.TRG_S_COND1.COUNT r k ≤ v.count + 1 then completeStage r stamp 4 s1 else (false, s1)
  else (false, s)

/-- STAGE_TIMEOUT (R261): no event completed the stage by its deadline, and none that could is held. -/
def execStageTimeout (region : Region) (s : State) : Host.Outcome State Fault Refusal :=
  match stageDeadline s region with
  | some d =>
    if d < s.instant ∧ (s.trig region).held.all (fun e => decide (d < e.stamp)) then .next (stageTimeout s region)
    else .next s
  | none => .next s

/-- A write of TRG_SEQ_CTRL (R262). While EN = 1 a new LAST or SETTLE is ignored and sets CFG_ERR. -/
def writeSeqCtrl (s : State) (r : Nat) (w : Word) : State :=
  let n := w.toNat
  let s0 := writeField r 0 n false s F.TRG_SEQ_CTRL.CFG_ERR
  let on := s0.fld F.TRG_SEQ_CTRL.EN r = 1
  let changes := bitsOf n 38 37 ≠ s0.fld F.TRG_SEQ_CTRL.LAST r ∨ bitsOf n 35 26 ≠ s0.fld F.TRG_SEQ_CTRL.SETTLE r
  let s1 := if on then (if changes then s0.setFld F.TRG_SEQ_CTRL.CFG_ERR r 0 1 else s0)
    else writeFields r 0 n false [F.TRG_SEQ_CTRL.LAST, F.TRG_SEQ_CTRL.SETTLE] s0
  if bitOf n 39 then
    if on then s1
    else if s1.fld F.TRG_S_COND1.COUNT r 0 = 0 ∨
        (s1.fld F.TRG_S_COND0.EVENTS r 0 = 0 ∧ s1.fld F.TRG_S_COND1.EVENTS r 0 = 0) then
      s1.setFld F.TRG_SEQ_CTRL.CFG_ERR r 0 1
    else enterStage (s1.setFld F.TRG_SEQ_CTRL.EN r 0 1) r 0 s.instant
  else enterStage (s1.setFld F.TRG_SEQ_CTRL.EN r 0 0) r 0 0

/-- SEQUENCER_ENABLE: a write of TRG_SEQ_CTRL (R262). -/
def execSequencerEnable (region : Region) (value : Word) (s : State) : Host.Outcome State Fault Refusal :=
  .next (writeSeqCtrl s region value)

/-- A write of a stage register: ignored while EN = 1 (R262). -/
def writeStageReg (s : State) (reg : Reg) (r k : Nat) (w : Word) : State :=
  if s.fld F.TRG_SEQ_CTRL.EN r = 1 then s.setFld F.TRG_SEQ_CTRL.CFG_ERR r 0 1 else s.writeDefault reg r k w

/-! ### Consumers of a processed event (R260, R263-R266) -/

/-- A log entry (Table 10.3). -/
def trgLog (s : State) (r stage : Nat) (e : TrigEv) : State :=
  let sel := if e.ev < 64 then inMask (s.fld F.TRG_LOG_MASK0.EVENTS r) (s.fld F.TRG_LOG_MASK1.EVENTS r) e.ev
    else s.fld F.TRG_LOG_MASK1.SEQ r == 1
  if !sel then s
  else
    let i := s.fld F.TRG_LOG_HEAD.IDX r
    let lane := match e.pos with | some p => p.1 | none => 63
    let frac := match e.pos with | some p => p.2.2 | none => 0
    let elem := match e.pos with | some p => p.2.1 | none => 0
    let w0 := e.ev * 2 ^ 33 + flag e.late * 2 ^ 32 + lane * 2 ^ 26 + frac * 2 ^ 18 + stage * 2 ^ 16
      + strideAt s e.stamp % 2 ^ 16
    let s1 := [w0, elem, fracOf e.stamp, secOf e.stamp].zipIdx.foldl
      (fun s x => s.setReg .TRG_LOG r (4 * i + x.2) (BitVec.ofNat 40 x.1)) s
    s1.setFld F.TRG_LOG_HEAD.IDX r 0 (i + 1)

/-- The lane windows of a region take an event (R251, R263): a lane that the event names takes its element, any other
the first element at or after the stamp. -/
def winConsumers (s : State) (r : Nat) (e : TrigEv) : State :=
  (List.range 12).foldl (fun s i =>
    let l := 12 * r + i
    if s.fld F.TRG_WIN_CTRL.TRIG_SEL (laneTile l) = e.ev then
      match e.pos with
      | some p => if p.1 = l then winTrigger s l e.ev p.2.1 p.2.2 e.stamp else winTrigger s l e.ev (elemAt s l e.stamp) 0 e.stamp
      | none => winTrigger s l e.ev (elemAt s l e.stamp) 0 e.stamp
    else s) s

/-- The heat channels of a region take an event (R274). -/
def heatConsumers (s : State) (r : Nat) (e : TrigEv) : State :=
  (List.range 16).foldl (fun s c =>
    if s.fld F.HEAT_TRIG.SEL r c = e.ev then heatTrigger s r c e.ev e.stamp e.pos else s) s

/-- A TRIG_OUT edge put among those waiting, after every edge of its time or an earlier one. -/
def insertEdge (e : Nat × Option Nat) : List (Nat × Option Nat) → List (Nat × Option Nat)
  | [] => [e]
  | x :: xs => if x.1 ≤ e.1 then x :: insertEdge e xs else e :: x :: xs

/-- TRIG_OUT takes an event (R264): its edge is placed at the stamp plus DELAY, or at once; a pulse ends WIDTH ns after
the stamp plus DELAY, and WIDTH = 0 gives none. With DELAY = 0 the edge is due as soon as the event is processed, and
WIDTH counts from there. DESIGN CHOICE (log entry 71). -/
def toutConsumer (s : State) (r : Nat) (e : TrigEv) : State :=
  if s.fld F.TRG_TOUT_CFG.SEL r ≠ e.ev then s
  else
    let d := s.fld F.TRG_TOUT_CFG.DELAY r * 1024
    let due := if d = 0 then s.instant else e.stamp + d
    let late := decide (due < s.instant)
    let t := if late then s.instant else due
    let w := s.fld F.TRG_TOUT_CFG.WIDTH r * 1024
    let pulse := s.fld F.TRG_TOUT_CFG.MODE r == 0
    let v := s.trig r
    let s1 := if pulse && w == 0 then s
      else s.setTrig r { v with edges := insertEdge (t, if pulse then some (due + w) else none) v.edges }
    if late then trgLate s1 r 1 else s1

/-- The trigger bus takes an event (R263). -/
def busConsumer (s : State) (r : Nat) (e : TrigEv) : State :=
  if s.fld F.TRG_BUS_SEL.SEL r = e.ev then s.setTrig r { s.trig r with bus := (s.trig r).bus ++ [e] } else s

/-- Every consumer but the sequencer takes an event. -/
def consumeEvent (s : State) (r stage : Nat) (e : TrigEv) : State :=
  toutConsumer (busConsumer (heatConsumers (winConsumers (trgLog s r stage e) r e) r e) r e) r e

/-- One event processed (R260): a late one is counted; the sequencer and the consumers take it, and event 64 after it
when the sequencer fires. -/
def processEvent (s : State) (r : Nat) (e : TrigEv) : State :=
  let s1 := expireStage (if e.late then trgLate s r 0 else s) r e.stamp
  let stage := seqStage s1 r
  let q := seqEvent s1 r e.ev e.stamp
  let s2 := consumeEvent q.2 r stage e
  if q.1 then consumeEvent s2 r stage { e with ev := 64 } else s2

/-- Whether one event comes before another: by stamp, then by number (R260). -/
def TrigEv.before (a b : TrigEv) : Bool := decide (a.stamp < b.stamp) || (a.stamp == b.stamp && decide (a.ev < b.ev))

/-- The first held event in stamp order. -/
def firstHeld : List TrigEv → Option TrigEv
  | [] => none
  | e :: es =>
    match firstHeld es with
    | none => some e
    | some f => if TrigEv.before f e then some f else some e

/-- EVENT_PROCESS (R260): device time has reached the stamp of the first held event plus SETTLE. -/
def execEventProcess (region : Region) (s : State) : Host.Outcome State Fault Refusal :=
  match firstHeld (s.trig region).held with
  | none => .next s
  | some e =>
    if e.stamp + seqSettle s region ≤ s.instant then
      .next (processEvent (s.setTrig region { s.trig region with held := (s.trig region).held.erase e }) region e)
    else .next s

/-! ### Sources of events (R254, R256, R263, R265) -/

/-- LANE_DETECTOR_EVENT (R257): the oldest firing of the lane's detectors arrives at its combiner. -/
def execLaneDetectorEvent (lane : Lane) (s : State) : Host.Outcome State Fault Refusal :=
  let v := s.lane lane
  match v.detQ with
  | [] => .next s
  | d :: ds =>
    .next (raiseEvent (s.setLane lane { v with detQ := ds }) (lane.val / 12) (2 * (lane.val % 12) + d.det) d.stamp
      (some (lane, d.elem, d.frac)))

/-- A write of TRG_SW (R265). -/
def softwareEvent (s : State) (r i : Nat) : State := raiseEvent s r (48 + i) s.instant none true

/-- SOFTWARE_EVENT: the write arrives `dt` units after the last tick (R265). -/
def execSoftwareEvent (region : Region) (index : Fin 4) (dt : Nat) (s : State) : Host.Outcome State Fault Refusal :=
  .next (softwareEvent (s.atPhase dt) region index)

/-- GUN_EVENT: the gun action EVENT raises event 44 + ARG[1:0] with the gun time (R265). -/
def execGunEvent (region : Region) (index : Fin 4) (stamp : Nat) (s : State) : Host.Outcome State Fault Refusal :=
  .next (raiseEvent s region (44 + index) stamp none)

/-- TRIG_IN_EDGE (R256): an edge `dt` units after the last tick reaches every combiner that selects it, and is a wake
source of its region (R396). -/
def execTrigInEdge (pin : Fin 4) (rising : Bool) (dt : Nat) (s : State) : Host.Outcome State Fault Refusal :=
  .next ((List.range 4).foldl (fun s r =>
    let sel := bitsOf (s.fld F.TRG_TIN_CFG.EDGE r) (2 * pin + 1) (2 * pin)
    if bitOf sel (if rising then 0 else 1) then wakeEvent (raiseEvent s r (40 + pin) s.instant none) r 1 else s)
    (s.atPhase dt))

/-- BUS_EVENT (R263): the oldest event on the region's line arrives at every region as event 52 + r. -/
def execBusEvent (region : Region) (s : State) : Host.Outcome State Fault Refusal :=
  let v := s.trig region
  match v.bus with
  | [] => .next s
  | e :: es =>
    .next ((List.range 4).foldl (fun s r => raiseEvent s r (52 + region) e.stamp e.pos)
      (s.setTrig region { v with bus := es }))

/-- A fabric event of a tile (R255). -/
def fabricEvent (s : State) (t stamp : Nat) : State :=
  if s.tileIsolated t then s else raiseEvent s (t / 16) (24 + t % 16) stamp none

/-! ### TRIG_OUT (R264) -/

/-- TRIG_OUT_EDGE (R264): an edge whose time has come. -/
def execTrigOutEdge (region : Region) (s : State) : Host.Outcome State Fault Refusal :=
  let v := s.trig region
  match v.edges with
  | [] => .next s
  | (t, stop) :: es =>
    if s.instant < t then .next s
    else .next (s.setTrig region { v with edges := es, out := stop.isSome || !v.out, pulseEnd := stop.or v.pulseEnd })

/-- TRIG_OUT_PULSE_END (R264). -/
def execTrigOutPulseEnd (region : Region) (s : State) : Host.Outcome State Fault Refusal :=
  let v := s.trig region
  match v.pulseEnd with
  | none => .next s
  | some t =>
    if t ≤ s.instant then .next (s.setTrig region { v with out := false, pulseEnd := none }) else .next s

end Sys2Proof.Machine
end

