-- ==== Sys2Proof/Machine/Zone.lean ====
section
/-! DEFINITION. Fabric pins at a boundary (R114, R115) and the zones: isolating, restoring, starting (R113, R378-R380). -/

namespace Sys2Proof.Machine

/-! ### Fabric pins (R114, R115) -/

/-- The level and output enable a PO word gives a pin under its MODE: IN 0, OUT 1, BIDIR 2, CLK 3 (R115). -/
def pinFrom (mode : Nat) (po : Word) : Bool × Bool :=
  match mode with
  | 1 => (po.getLsbD 0, true)
  | 2 => (po.getLsbD 0, po.getLsbD 1)
  | 3 => (false, true)
  | _ => (false, false)

/-- The mode of a fabric pin, by flat tile. -/
def pinMode (s : State) (t : Nat) : Nat := s.fld F.FAB_PIN_CFG.MODE (t / 16) (t % 16)

/-- A pin takes a level and an output enable. -/
def setPin (s : State) (t : Nat) (v : Bool × Bool) : State :=
  { s with fab := { s.fab with pinLevel := mset false s.fab.pinLevel t v.1, pinOE := mset false s.fab.pinOE t v.2 } }

/-- The pull of a pin: 1 up, 2 down. PULL_SEL gives it from a P or C reset on and throughout a full load (R363),
FAB_PIN_CFG afterwards. -/
def pinPull (s : State) (t : Nat) : Nat :=
  if s.mode = .blank ∨ s.mode = .loading then s.fld F.CFG_STATUS.PULL_SEL else s.fld F.FAB_PIN_CFG.PULL (t / 16) (t % 16)

/-- The level of a pin's land as it is sampled: the board's where it drives the land, the pin's own output, the pull,
and otherwise a free value (R115, log entry 14). -/
def landLevel (s : State) (lands driven : Nat) (t : Nat) : Bool :=
  if bitOf driven t then bitOf lands t
  else if mget false s.fab.pinOE t then
    (if pinMode s t = 3 then (mget {} s.fab.rck (8 * (t / 16) + s.fld F.FAB_PIN_CFG.RCK (t / 16) (t % 16))).high
     else mget false s.fab.pinLevel t)
  else match pinPull s t with
    | 1 => true
    | 2 => false
    | _ => s.fresh.getLsbD (t % 40)

/-- The edges that the sampled lands give the clock trees on fabric pins: a land is seen at its samples (R118, log entry
63). -/
def pinClocks (old s : State) : State :=
  (List.range 4).foldl (fun s r =>
    let was (k : Nat) : Bool := mget 0 old.fab.pi (16 * r + k) != 0
    let now (k : Nat) : Bool := mget 0 s.fab.pi (16 * r + k) != 0
    rckEdge (rckEdge s r 4 false (fun _ k => was k && !now k)) r 4 true (fun _ k => !was k && now k)) s

/-- Every pin of the regions that execute samples its land into PI (R114 step 1). -/
def samplePins (s : State) (lands driven : Nat) : State :=
  let s1 := (List.range 64).foldl (fun s t =>
    if s.regionRuns (t / 16) then
      { s with fab := { s.fab with pi := mset 0 s.fab.pi t (BitVec.ofNat 40 (flag (landLevel s lands driven t))) } }
    else s) s
  pinClocks s s1.used

/-- A pin takes the PO word of its box as its new output (R114 step 2); a parked pin keeps its park output (R380). -/
def takePo (s : State) (t : Nat) : State :=
  if s.tileIsolated t then s else setPin s t (pinFrom (pinMode s t) (mget 0 s.fab.out (512 * t + 30)))

/-- Every pin of the regions that executed the stride just closed takes its PO word (R114); the others have the word in
force applied again, which changes no level (R467). -/
def updatePins (ran : Nat → Bool) (s : State) : State :=
  (List.range 64).foldl (fun s t => if ran (t / 16) then takePo s t else s) s

/-! ### Border ports (R113, R380) -/

/-- Whether an output of a cluster is a border port of its tile's zone: a track whose far end lies outside, or a line
with a tap outside (R113). -/
def isBorder (s : State) (zi cl o : Nat) : Bool :=
  let inside := fun k => decide (k / 256 = zi / 16) && s.zoneOf (k / 16) == some (zi % 16)
  if isTrack o then
    match trackEnd cl o with
    | none => false
    | some (k, _) => !inside k
  else isLine o && (lineTaps cl o).any (fun k => !inside k)

/-- The park value of a border port (Table 15.6). -/
def parkValue (s : State) (cl o : Nat) : ParkVal :=
  let e := mget (0, 0) s.ret.park (32 * cl + o)
  match e.1 with
  | 0 => ⟨mget 0 s.fab.out (32 * cl + o), mget false s.fab.drive (32 * cl + o)⟩
  | 1 => ⟨0, true⟩
  | 2 => ⟨1, true⟩
  | _ => ⟨e.2, true⟩

/-- The pin of a tile takes its park value (Table 15.6); a CLK pin keeps its clock but for high impedance. -/
def parkPin (s : State) (t : Nat) : State :=
  let e := mget (0, 0) s.ret.park (512 * t + 30)
  match e.1 with
  | 0 => s
  | 1 => if pinMode s t = 3 then s else setPin s t (false, true)
  | 2 => if pinMode s t = 3 then s else setPin s t (true, true)
  | 3 => setPin s t (pinFrom (pinMode s t) e.2)
  | _ =>
    let s1 := setPin s t (false, false)
    { s1 with fab := { s1.fab with pinPark := mset false s1.fab.pinPark t true } }

/-- The outputs of a box that can be border ports: tracks and lines. -/
def portOutputs : List Nat := (List.range 24).map (· + 8)

/-- The border ports of a tile of zone `zi` take their park values. -/
def parkTile (zi : Nat) (s : State) (t : Nat) : State :=
  let park := (List.range 16).foldl (fun m c =>
    portOutputs.foldl (fun m o =>
      if isBorder s zi (16 * t + c) o then minsert m (32 * (16 * t + c) + o) (parkValue s (16 * t + c) o) else m) m) s.fab.park
  parkPin { s with fab := { s.fab with park := park } } t

/-- The border ports of a tile carry their scheduled values again. -/
def unparkTile (s : State) (t : Nat) : State :=
  { s with fab := { s.fab with park := without (fun k => k / 512 == t) s.fab.park
                               pinPark := merase s.fab.pinPark t } }

/-! ### Zones (R378, R379) -/

/-- A zone beside its register. -/
def State.zone (s : State) (zi : Nat) : Zone := mget {} s.zones zi

/-- The state with a zone set. -/
def State.setZone (s : State) (zi : Nat) (z : Zone) : State := { s with zones := mset {} s.zones zi z }

/-- CFG_ZONE.STATE: 0 not declared, 1 RUN, 2 ISOLATED, 3 LOADING. -/
def State.zstate (s : State) (zi : Nat) : Nat := s.fld F.CFG_ZONE.STATE (zi / 16) (zi % 16)

/-- The state with CFG_ZONE.STATE set. -/
def State.setZstate (s : State) (zi v : Nat) : State := s.setFld F.CFG_ZONE.STATE (zi / 16) (zi % 16) v

/-- The state with CFG_ZONE.PRIMED set. -/
def setPrimed (s : State) (zi v : Nat) : State := s.setFld F.CFG_ZONE.PRIMED (zi / 16) (zi % 16) v

/-- Pushes that wait for a queue of an isolated zone complete with ZONE_ISOLATED (R135). -/
def dropPushes (s : State) (t q : Nat) : State :=
  let v := s.q t q
  v.waiting.foldl (fun s p =>
      ackPush (qEvent (s.addSat F.QC_CNT.DROP t q) t q 2 v.wr) t p stZoneIsolated)
    (s.setQ t q { v with waiting := [] })

/-- A zone becomes ISOLATED (R379, R380, R135): its border ports and pins park and its engines halt. -/
def isolateZone (s : State) (zi : Nat) : State :=
  let tiles := s.zoneTiles zi
  let s1 := tiles.foldl (parkTile zi) s
  let s2 := s1.setZstate zi 2
  let s3 := tiles.foldl (fun s t => (List.range 16).foldl (fun s q => dropPushes s t q) s) s2
  let s4 := tiles.foldl haltCmd s3
  s4.setZone zi { s4.zone zi with isoPend := false }

/-- A zone in RUN is to be isolated: at the next stride boundary, or at once while the device is FROZEN. -/
def askIsolate (s : State) (zi : Nat) : State :=
  if s.mode = .frozen then isolateZone s zi else s.setZone zi { s.zone zi with isoPend := true }

/-- A zone becomes RUN at a boundary (R379): its queues and domain table take their configured and retained values, its
engines receive a zone reset and those with BOOT_RUN start. -/
def runZone (s : State) (zi : Nat) : State :=
  let tiles := s.zoneTiles zi
  let s1 := setPrimed (s.setZstate zi 1) zi 0
  let s2 := tiles.foldl unparkTile s1
  let s3 := tiles.foldl restoreQueues s2
  let s4 := (List.range 16).foldl (fun s d => applyConf s .RTE_DOM (zi / 16) (16 * (zi % 16) + d)) s3
  let s5 := tiles.foldl (fun s t => bootProc (applyConf (resetProc s t) .SE_BOOT t 0) t false) s4
  s5.setZone zi { s5.zone zi with startPend := false, thenStart := false }

/-- Whether a START of a zone is refused: LOADING, PARTIAL_ABORT, or a Z reset of the zone (R379). -/
def startRefused (s : State) (zi : Nat) : Bool :=
  s.zstate zi == 3 || s.fld F.CFG_ZONE.PARTIAL_ABORT (zi / 16) (zi % 16) == 1 || (s.zone zi).zreset

/-- A START on an ISOLATED zone: it is restored first when it is not PRIMED, and runs from a stride boundary. -/
def askStart (s : State) (zi : Nat) : State :=
  let z := s.zone zi
  if s.fld F.CFG_ZONE.PRIMED (zi / 16) (zi % 16) = 1 then s.setZone zi { z with startPend := true }
  else s.setZone zi { z with restoring := if z.restoring = 0 then 1 else z.restoring, thenStart := true }

/-- A register command reports its result in CFG_ZCMD.RES: OK 0, BUSY 1, REFUSED 2, NOT_RETAINED 3, NO_ZONE 4. -/
def zoneRes (s : State) (zi res : Nat) : State := s.setFld F.CFG_ZCMD.RES (zi / 16) 0 res

/-- RESTORE or RELOAD of a zone (R379): the result of the command and the state. -/
def askRestore (s : State) (zi kind : Nat) : State :=
  if s.zstate zi = 0 then zoneRes s zi 4
  else if s.zstate zi ≠ 2 then zoneRes s zi 2
  else if (s.zone zi).restoring ≠ 0 ∨ (s.zone zi).zreset = true then zoneRes s zi 1
  else if kind = 2 ∧ s.fld F.CFG_STATUS.RET_DONE = 0 then zoneRes s zi 3
  else (zoneRes s zi 0).setZone zi { s.zone zi with restoring := kind }

/-- RESTORE by command (R379). -/
def execRestore (region : Region) (zone : Fin 16) (s : State) : Host.Outcome State Fault Refusal :=
  .next (askRestore s (16 * region.val + zone.val) 1)

/-- RELOAD by command (R379). -/
def execReload (region : Region) (zone : Fin 16) (s : State) : Host.Outcome State Fault Refusal :=
  .next (askRestore s (16 * region.val + zone.val) 2)

/-- A START by command (R379). -/
def zoneStartCmd (s : State) (zi : Nat) : State :=
  match s.zstate zi with
  | 0 => zoneRes s zi 4
  | 1 => if startRefused s zi then zoneRes s zi 2 else zoneRes s zi 0
  | _ => if startRefused s zi then zoneRes s zi 2 else zoneRes (askStart s zi) zi 0

/-- ZONE_START by command (R379). -/
def execZoneStart (region : Region) (zone : Fin 16) (s : State) : Host.Outcome State Fault Refusal :=
  .next (zoneStartCmd s (16 * region.val + zone.val))

/-- An ISOLATE by command (R379). -/
def zoneIsolateCmd (s : State) (zi : Nat) : State :=
  match s.zstate zi with
  | 0 => zoneRes s zi 4
  | 1 => zoneRes (askIsolate s zi) zi 0
  | _ => zoneRes s zi 0

/-- ZONE_ISOLATE by command (R379). -/
def execZoneIsolate (region : Region) (zone : Fin 16) (s : State) : Host.Outcome State Fault Refusal :=
  .next (zoneIsolateCmd s (16 * region.val + zone.val))

/-- A write of CFG_ZCMD; the other commands are reserved (R6). -/
def writeZcmd (s : State) (r : Nat) (w : Word) : State :=
  let zi := 16 * r + bitsOf w.toNat 36 33
  match bitsOf w.toNat 39 37 with
  | 1 => zoneIsolateCmd s zi
  | 2 => zoneStartCmd s zi
  | 3 => askRestore s zi 1
  | 4 => askRestore s zi 2
  | _ => s

/-- A restore of a zone completes: the data memories hold the initial values and PRIMED sets; a START that waited runs
from the next boundary (R379). -/
def restoreDone (s : State) (zi : Nat) : State :=
  let z := s.zone zi
  let tiles := s.zoneTiles zi
  let s1 := if z.restoring = 2 then
      (tiles.foldl reloadTile s).setFld F.CFG_ZONE.PARTIAL_ABORT (zi / 16) (zi % 16) 0
    else s
  let s2 := setPrimed (tiles.foldl restoreCells s1) zi 1
  s2.setZone zi { s2.zone zi with restoring := 0, startPend := z.thenStart, thenStart := false }

/-- No load runs; a STORE that runs goes on. -/
def idleLoad (s : State) : State := (s.setFld F.CFG_STATUS.STEP 0 0 0).setFld F.CFG_RELAY.TX_ACTIVE 0 0 0

/-- The state of the controller between loads. -/
def LoadSt.idle (l : LoadSt) : LoadSt := { storing := l.storing, fwdEnd := l.fwdEnd, progLow := l.progLow }

/-- A load ends with a result and a cause (R361, R370); the vector of loads is signalled (R436). -/
def loadResult (s : State) (res cause : Nat) : State :=
  signal ((s.setFld F.CFG_STATUS.RESULT 0 0 res).setFld F.CFG_STATUS.CAUSE 0 0 cause) 14

/-- Step 6 of a partial load (R381): the zone is ISOLATED with status OK and PRIMED, and starts by itself under
AUTOSTART. -/
def partialDone (s : State) (zi : Nat) : State :=
  let r := zi / 16
  let z := zi % 16
  let s1 := (s.setZstate zi 2).setFld F.CFG_ZONE.PARTIAL_ABORT r z 0
  let s2 := (s1.setFld F.CFG_ZONE.RESULT r z 0).setFld F.CFG_ZONE.ADDR r z 0
  let s3 := s2.setZone zi { s2.zone zi with startPend := s2.load.auto || (s2.zone zi).startPend }
  idleLoad { loadResult s3 0 0 with load := s3.load.idle }

/-- RESTORE_DONE (R379, R381). -/
def execRestoreDone (region : Region) (zone : Fin 16) (s : State) : Host.Outcome State Fault Refusal :=
  let zi := 16 * region.val + zone.val
  if (s.zone zi).restoring = 0 ∨ (s.zone zi).zreset = true then .next s
  else if s.zstate zi = 2 then .next (restoreDone s zi)
  else if s.zstate zi = 3 ∧ s.load.kind = 2 ∧ s.load.phase = 4 then .next (partialDone (restoreDone s zi) zi)
  else .next s

/-- The zone commands that wait for a stride boundary take effect at it, isolations first (R379). -/
def zonesAtBoundary (s : State) : State :=
  let s1 := (List.range 64).foldl (fun s zi => if (s.zone zi).isoPend && s.zstate zi == 1 then isolateZone s zi else s) s
  (List.range 64).foldl (fun s zi =>
    if (s.zone zi).startPend && s.zstate zi == 2 && !startRefused s zi then runZone s zi else s) s1

/-- Waiting zone commands of a region are dropped without effect at a W or G reset (R379). -/
def dropZoneCommands (s : State) (r : Nat) : State :=
  (List.range 16).foldl (fun s z =>
    s.setZone (16 * r + z) { s.zone (16 * r + z) with isoPend := false, startPend := false, thenStart := false, restoring := 0 }) s

end Sys2Proof.Machine
end

