-- ==== Sys2Proof/Machine/Power.lean ====
section
/-! DEFINITION. Power requests, the entry and exit steps, regulator requests (R386-R399). -/

namespace Sys2Proof.Machine

/-! ### The units an entry waits for (Table 16.4) -/

/-- The archive engine of a region. -/
def State.arc (s : State) (r : Nat) : ArcSt := mget {} s.arcs r

/-- The state with the archive engine of a region set. -/
def State.setArc (s : State) (r : Nat) (v : ArcSt) : State := { s with arcs := mset {} s.arcs r v }

/-- Whether a DMA channel of a processor of the region runs. -/
def dmaBusy (s : State) (r : Nat) : Bool :=
  (regionProcs r).any (fun p => (List.range 4).any (fun c => s.pf p F.SE_DMA_STAT.BUSY F.SUP_DMA_STAT.BUSY c == 1))

/-- Whether staged trace lines or unacknowledged ring writes remain (R206). -/
def traceBusy (s : State) (r : Nat) : Bool := delivering (s.trcUnit r)

/-- Whether a heat channel of the region is in POST or closing (R289). -/
def heatBusy (s : State) (r : Nat) : Bool :=
  (List.range 16).any (fun c => (s.ch r c).heat.isSome || !(s.ch r c).closing.isEmpty)

/-- Whether a started archive command has not completed. -/
def arcBusy (s : State) (r : Nat) : Bool := (s.arc r).cmds.any (fun c => c.done.isSome)

/-- Whether a memory initialisation runs. -/
def initBusy (s : State) (r : Nat) : Bool := (s.memSt r).initRun.isSome

/-! ### Nodes (R307, Table 16.1) -/

/-- A node is 2 · router + port: 0 local, 1 service. The nodes a state takes offline. -/
def stateNodes (r st : Nat) : List Nat :=
  let svc (ts : List Nat) := ts.map (fun t => 2 * (16 * r + t) + 1)
  match st with
  | 2 => svc [0, 1, 2, 3, 4, 8]
  | 3 => (List.range 16).map (fun t => 2 * (16 * r + t)) ++ svc [0, 1, 2, 3, 4, 8, 12, 15]
  | _ => []

/-- The state of a node: 0 ONLINE, 1 CLOSING, 2 OFFLINE. -/
def nodeState (s : State) (n : Nat) : Nat :=
  if n % 2 = 0 then s.fld F.NOC_RSTAT.NODE_L (n / 2) else s.fld F.NOC_RSTAT.NODE_S (n / 2)

/-- The state with a node's state set. -/
def setNode (s : State) (n v : Nat) : State :=
  if n % 2 = 0 then s.setFld F.NOC_RSTAT.NODE_L (n / 2) 0 v else s.setFld F.NOC_RSTAT.NODE_S (n / 2) 0 v

/-- A node begins to close (R307): leases not yet granted get GRANT 0, and its entries are recalled. -/
def closeNode (s : State) (n : Nat) : State :=
  let ports := (s.net.held.filter (fun e => e.1 % 128 == n)).map (fun e => (n, e.1 / 128))
  let s1 := setNode s n 1
  { s1 with net := { s1.net with asks := s1.net.asks.filter (fun a => a.1 != n), recalls := s1.net.recalls ++ ports } }

/-- NODE_OFFLINE (R307): a closing node all of whose granted entries are free again, and whose own requests all have their
responses, enters OFFLINE. -/
def nodeOffline (s : State) (n : Nat) : State :=
  if nodeState s n = 1 ∧ mget 0 s.net.granted n = 0 ∧ entriesWaiting s n = 0 ∧ s.resps.all (fun x => srcPort x.dst != n) = true
  then setNode s n 2 else s

/-- NODE_OFFLINE (R307). -/
def execNodeOffline (router : Tile) (service : Bool) (s : State) : Host.Outcome State Fault Refusal :=
  .next (nodeOffline s (2 * router.val + flag service))

/-! ### Completion of a request -/

/-- A region request completes with a result; a device request completes with its last region request and holds the
first result other than OK, in region order (R392). The region's vector is signalled (R436). -/
def completeReq (s : State) (r res : Nat) : State :=
  let s1 := signal (s.setFld F.PWR_STAT.RESULT r 0 res) (10 + r)
  if (s.pw r).dev then
    let s2 := s1.setPw r { s1.pw r with dev := false }
    if (List.range 4).any (fun k => (s2.pw k).dev) then s2
    else s2.setFld F.PWR_DEV_STAT.RESULT 0 0
      (((List.range 4).map (fun k => s2.fld F.PWR_STAT.RESULT k)).find? (fun x => x != 0) |>.getD 0)
  else s1

/-- A region event of Table 16.12: 0 ENTRY_TIMEOUT, 1 REG_TIMEOUT, 2 REG_FAULT (R403). -/
def pwrEvent (s : State) (r bit : Nat) (inj : Bool := false) : State :=
  if bitOf (s.fld F.PWR_STAT.EVT r) bit then s
  else
    let s1 := (s.orFld F.PWR_STAT.EVT r 0 bit).emitRegion (0x4801 + bit) r inj
    if bit = 2 then latchRegFault s1 else s1

/-- Microseconds from a device time to now, saturating at 20 bits. -/
def microsFrom (s : State) (t : Nat) : Nat := Nat.min ((s.instant - t) / 1024000) (2 ^ 20 - 1)

/-! ### A region stops and runs again (R389) -/

/-- Whether some region executes strides. -/
def anyRuns (s : State) : Bool := (List.range 4).any (fun r => s.regionRuns r)

/-- The fabric of a region stops after the boundary that closes stride `n`, or at once (N2). When no region executes
strides any longer, strides do not run (R21). -/
def stopFabric (s : State) (r : Nat) (n : Option Nat) : State :=
  let s1 := s.setPw r { s.pw r with fabOff := true, lastN := n, offAt := s.instant, resume := none }
  if anyRuns s1 then s1
  else swapIfStopped { s1 with time := { s1.time with running := false, start := none } }

/-- Whether a region that becomes able to run resumes no stride: a freeze is requested or in force, or a load, a reset or
TEST goes on (Table 16.8). -/
def noStart (s : State) : Bool :=
  s.frz.endReq || s.frz.nowReq || s.load.waking || s.load.kind == 1 || s.rst.warm != 0 || !s.rst.region.isEmpty ||
    (match s.mode with | .run | .idle | .doze | .sleep => false | _ => true)

/-- The first stride of a region that starts while others run: the rule of R53 among the strides they run (R389). -/
def firstAmong (s : State) : Nat :=
  let n := ((firstStride s.time.epoch s.strideT s.instant none : Int) + s.strideK).toNat
  Nat.max n (match s.time.lastExec with | none => 0 | some k => k + 1)

/-- The start command of a region that has reached RUN (R53, R389): the first stride is chosen, at the next start when no
strides run, and otherwise by the same rule among the strides that the other regions run. -/
def startFabric (s : State) (r : Nat) : State :=
  let v := s.pw r
  if !v.fabOff then s
  else if noStart s then (if s.time.running then s else s.setPw r { v with fabOff := false })
  else if s.time.running then s.setPw r { v with resume := some (firstAmong s) }
  else
    let s1 := match s.time.start with
      | some _ => s
      | none => s.startCommand s.instant
    s1.setPw r { v with resume := s1.time.start.map StartReq.first }

/-- The processors of a region resume issue. -/
def startProcs (s : State) (r : Nat) : State := s.setPw r { s.pw r with procOff := false }

/-- At the boundary that opens stride `n`, the regions whose first stride it is execute again; PWR_MISSED counts the
strides a region did not execute (R389). -/
def resumeRegions (s : State) (n : Nat) : State :=
  (List.range 4).foldl (fun s r =>
    let v := s.pw r
    match v.resume with
    | some k =>
      if k ≤ n then
        let missed := match v.lastN with | some m => n - m - 1 | none => n
        (s.setFld F.PWR_MISSED.COUNT r 0 (Nat.min missed (2 ^ 40 - 1))).setPw r { v with fabOff := false, resume := none }
      else s
    | none => s) s

/-! ### Requests (R392, R399) -/

/-- Whether a load or a reset is in progress. -/
def busyDevice (s : State) : Bool :=
  s.load.kind != 0 || s.rst.warm != 0 || !s.rst.region.isEmpty || s.rst.cold ||
    (List.range 64).any (fun z => (s.zone z).zreset)

/-- The mask of enabled wake events pending in a region. -/
def pendingWake (s : State) (r : Nat) : Option Nat :=
  (List.range 8).find? (fun i => bitOf (s.fld F.PWR_WAKE_PEND.PEND r) i && wakeEnabled s r i)

/-- A power request for one region: state 0 RUN, 1 IDLE, 2 DOZE, 3 SLEEP (R392, Table 16.8). -/
def powerRequest (s : State) (r st : Nat) : State :=
  let cur := s.pstateR r
  let s0 := s.setFld F.PWR_STAT.TARGET r 0 st
  if s.mode = .blank ∨ s.mode = .loading ∨ s.mode = .frozen ∨ s.mode = .test then completeReq s0 r 2
  else if s.pdir r ≠ 0 ∨ busyDevice s then
    if st = 0 ∧ s.pdir r = 1 then
      let s1 := wakeRegion s0 r 15 3
      s1.setPw r { s1.pw r with runReq := true }
    else if st = 0 ∧ s.pdir r ≠ 0 then s0.setPw r { s.pw r with runReq := true }
    else completeReq s r 1
  else if cur = st then completeReq s0 r 0
  else if cur ≠ 0 ∧ st ≠ 0 then completeReq s0 r 2
  else if st = 0 then
    let s1 := wakeRegion s0 r 15 0
    s1.setPw r { s1.pw r with runReq := true }
  else
    match pendingWake s r with
    | some src => completeReq (s0.setFld F.PWR_WAKE_PEND.LAST r 0 src) r 4
    | none =>
      let s1 := setPhase s0 r 1 2
      let s2 := s1.setPw r { s1.pw r with began := s.instant, goal := st, result := 0 }
      if s.time.running then s2 else stopFabric s2 r s.time.lastExec

/-- A request to one region, or to all four in one cycle (R392). -/
def powerReqs (s : State) (region : Option (Fin 4)) (st : Nat) : State :=
  match region with
  | some r => powerRequest s r st
  | none =>
    let s1 := (List.range 4).foldl (fun s r => s.setPw r { s.pw r with dev := true }) s
    (List.range 4).foldl (fun s r => powerRequest s r st) s1

/-- RUN_REQUEST: of one region, or of all (R392). -/
def execRunRequest (region : Option (Fin 4)) (s : State) : Host.Outcome State Fault Refusal := .next (powerReqs s region 0)
/-- IDLE_REQUEST (R392). -/
def execIdleRequest (region : Option (Fin 4)) (s : State) : Host.Outcome State Fault Refusal := .next (powerReqs s region 1)
/-- DOZE_REQUEST (R392). -/
def execDozeRequest (region : Option (Fin 4)) (s : State) : Host.Outcome State Fault Refusal := .next (powerReqs s region 2)
/-- SLEEP_REQUEST (R392). -/
def execSleepRequest (region : Option (Fin 4)) (s : State) : Host.Outcome State Fault Refusal := .next (powerReqs s region 3)

/-- A write of PWR_REQ.CMD or PWR_DEV_REQ.CMD: 1 RUN to 4 SLEEP, others none or reserved. -/
def writePwrReq (s : State) (region : Option (Fin 4)) (w : Word) : State :=
  match bitsOf w.toNat 39 37 with
  | 1 => powerReqs s region 0
  | 2 => powerReqs s region 1
  | 3 => powerReqs s region 2
  | 4 => powerReqs s region 3
  | _ => s

/-! ### Entry steps (R393) -/

/-- The next entry step of a target: N4 and N5 only for DOZE and SLEEP, N7 only for SLEEP. -/
def nextEntry (target step : Nat) : Nat :=
  match step with
  | 3 => if target = 1 then 6 else 4
  | 6 => if target = 3 then 7 else 8
  | n => n + 1

/-- Whether every processor of the region is at an acceptance point or does not issue (N3). -/
def procsStop (s : State) (r : Nat) : Bool :=
  (regionProcs r).all (fun p => decide ((s.proc p).slots = 0 ∧ (s.proc p).net = .none) || decide (s.pstate p ≠ 1))

/-- Processors stop issue, results land and trace closes (N3, R206). -/
def stopProcs (s : State) (r target : Nat) : State :=
  let s1 := (regionProcs r).foldl (fun s p => trcPower (drain s p) p target) s
  s1.setPw r { s1.pw r with procOff := true }

/-- The lanes of a region follow a power state (N6, X3). -/
def moveLanes (s : State) (r st : Nat) : State :=
  let s1 := s.setPw r { s.pw r with lanes := st }
  (List.range 12).foldl (fun s l => followTarget s (12 * r + l)) s1

/-- The DELAY bits of what the current step waits for, 0 when its condition holds (Table 16.4): 1 STRIDE, 2 DMA, 4 TRACE,
8 HEAT, 16 ARCHIVE, 32 MEM_INIT, 64 RESV, 128 REGULATOR. -/
def entryDelay (s : State) (r target : Nat) : Nat :=
  match s.fld F.PWR_STAT.STEP r with
  | 2 => flag (!(s.pw r).fabOff)
  | 3 => 2 * flag (dmaBusy s r) + 4 * flag (traceBusy s r)
  | 4 => 8 * flag (heatBusy s r) + 16 * flag (arcBusy s r) + 32 * flag (initBusy s r)
  | 5 => 64 * flag ((stateNodes r target).any (fun n => nodeState s n != 2))
  | 7 => 128 * flag (!(s.pw r).rails.isEmpty)
  | _ => 0

/-- What begins with an entry step. -/
def startEntry (s : State) (r target step : Nat) : State :=
  match step with
  | 5 => (stateNodes r target).foldl closeNode s
  | 6 => if target = 1 then s else moveLanes s r target
  | 7 => s.setPw r { s.pw r with rails := sleepRails s r, good := [] }
  | _ => s

/-- N8: the region reports its state (R393). -/
def entryDone (s : State) (r target : Nat) : State :=
  let s1 := (setPhase s r 0 0).setFld F.PWR_STAT.STATE r 0 target
  let s2 := (s1.setFld F.PWR_STAT.DELAY r 0 0).setFld F.PWR_TIMES.ENTRY r 0 (microsFrom s (s.pw r).began)
  powerMode (completeReq s2 r 0)

/-- The current entry step ends when its condition holds, and the next begins; otherwise DELAY names what it waits
for. -/
def entryStep (s : State) (r : Nat) : State :=
  let target := (s.pw r).goal
  let step := s.fld F.PWR_STAT.STEP r
  if step = 3 ∧ (s.pw r).procOff = false then (if procsStop s r then stopProcs s r target else s)
  else
    let d := entryDelay s r target
    if d ≠ 0 then s.setFld F.PWR_STAT.DELAY r 0 d
    else
      let n := nextEntry target step
      let s1 := s.setFld F.PWR_STAT.DELAY r 0 0
      if n = 8 then entryDone s1 r target else startEntry (setPhase s1 r 1 n) r target n

/-- The unwinding is complete: processors issue, the start command falls, and the entry completes (R394, R399). -/
def unwindDone (s : State) (r : Nat) : State :=
  let s1 := startFabric (startProcs (setPhase s r 0 0) r) r
  let s2 := s1.setPw r { s1.pw r with runReq := false }
  powerMode (completeReq s2 r (s.pw r).result)

/-- One step of an unwinding, in reverse order (R394): rails and lanes return, nodes return to ONLINE. -/
def unwindStep (s : State) (r : Nat) : State :=
  let step := s.fld F.PWR_STAT.STEP r
  let target := (s.pw r).goal
  let back (n : Nat) (s : State) : State := setPhase s r 3 n
  match step with
  | 7 =>
    if (s.pw r).retried = [255] then
      (if (s.pw r).rails.isEmpty then back 6 (s.setPw r { s.pw r with retried := [] }) else s.setFld F.PWR_STAT.DELAY r 0 128)
    else s.setPw r { s.pw r with rails := sleepRails s r, good := [], retried := [255] }
  | 6 => back (if target = 1 then 3 else 5) (moveLanes (s.setFld F.PWR_STAT.DELAY r 0 0) r 0)
  | 5 => back 3 ((stateNodes r target).foldl (fun s n => setNode s n 0) s)
  | 4 => back 3 s
  | 3 => back 2 (startProcs s r)
  | _ => unwindDone s r

/-- PWR_ENTRY_TIMEOUT: an entry not complete within ENTRY_TIMEOUT unwinds (R394). -/
def execPwrEntryTimeout (region : Region) (s : State) : Host.Outcome State Fault Refusal :=
  let lim := s.fld F.PWR_CTRL.ENTRY_TIMEOUT 0
  if s.pdir region = 1 ∧ lim ≠ 0 ∧ (s.pw region).began + lim * 1024000 ≤ s.instant then
    .next (pwrEvent (beginUnwind s region 5) region 0)
  else .next s

/-! ### Regulator requests (R395, R398) -/

/-- The region of a rail: VCORE, VNET and the lane groups; the other rails are changed by P only. -/
def railRegion (rail : Nat) : Option Nat :=
  if rail < 8 then some (rail % 4) else if rail < 20 then some ((rail - 8) / 3) else none

/-- PWR_REG_STAT of a failing transaction (Table 16.14): RES 1 TIMEOUT, 2 NACK, 3 PEC, 4 FAULT. -/
def regStat (s : State) (rail cmd res status : Nat) : State :=
  (((s.setFld F.PWR_REG_STAT.RAIL 0 0 rail).setFld F.PWR_REG_STAT.CMD 0 0 cmd).setFld F.PWR_REG_STAT.RES 0 0 res).setFld
    F.PWR_REG_STAT.STATUS_WORD 0 0 status

/-- A poll of a rail: two consecutive good polls settle its request; a fault status is reported (R395). -/
def regPoll (s0 : State) (rail : Nat) (good fault : Bool) (status : Nat) : State :=
  let bad := s0.module.badRails.filter (· != rail)
  let s := { s0 with module := { s0.module with badRails := if good then bad else rail :: bad } }
  match railRegion rail with
  | none => if fault then regStat s rail 0x79 4 status else s
  | some r =>
    let s1 := if fault then pwrEvent (regStat s rail 0x79 4 status) r 2 else s
    let v := s1.pw r
    if !v.rails.contains rail ∨ s1.railInj = some rail then s1
    else if !good then s1.setPw r { v with good := v.good.filter (· != rail) }
    else if v.good.contains rail then
      s1.setPw r { v with good := v.good.filter (· != rail), rails := v.rails.filter (· != rail) }
    else s1.setPw r { v with good := rail :: v.good }

/-- REGULATOR_POLL (R395). -/
def execRegulatorPoll (rail : Fin 64) (good : Bool) (fault : Bool) (status : BitVec 16) (s : State) :
    Host.Outcome State Fault Refusal := .next (regPoll s rail good fault status.toNat)

/-- A voltage request that has not settled: it is recorded and reported; one of an exit is retried once, and then the
region stays in SLEEP with REG_TIMEOUT (R395, R398). -/
def regTimeout (s : State) (rail cmd res status : Nat) : State :=
  match railRegion rail with
  | none => s
  | some r =>
    let v := s.pw r
    if !v.rails.contains rail then s
    else
      let inj := s.railInj == some rail
      let s1 := (regStat s rail cmd res status).addSat F.PWR_REG_STAT.TIMEOUTS 0 0
      let s2 := pwrEvent { s1 with railInj := if inj then none else s1.railInj } r 1 inj
      if s.pdir r ≠ 2 then s2
      else if v.retried.contains rail then
        let s3 := setPhase s2 r 0 0
        completeReq (s3.setPw r { v with rails := [], good := [], retried := [], runReq := false }) r 6
      else s2.setPw r { v with good := v.good.filter (· != rail), retried := rail :: v.retried }

/-- PWR_REG_TIMEOUT (R395): `res` is 1 TIMEOUT, 2 NACK or 3 PEC. -/
def execPwrRegTimeout (rail : Fin 64) (command : BitVec 8) (res : Fin 4) (status : BitVec 16) (s : State) :
    Host.Outcome State Fault Refusal := .next (regTimeout s rail command.toNat res status.toNat)

/-! ### A lane's own target (R388) -/

/-- A write of PWR_LANE: every lane of the region follows its effective state at once; a reserved target is ignored. -/
def writePwrLane (s : State) (r : Nat) (w : Word) : State :=
  let old := s.fld F.PWR_LANE.TARGET r
  let n := (List.range 12).foldl (fun n l =>
    let v := bitsOf w.toNat (2 * l + 1) (2 * l)
    putBits n (2 * l + 1) (2 * l) (if v = 3 then bitsOf old (2 * l + 1) (2 * l) else v)) 0
  let s1 := (s.setFld F.PWR_LANE.TARGET r 0 n).setPw r { s.pw r with laneWake := [] }
  (List.range 12).foldl (fun s l => followTarget s (12 * r + l)) s1

/-- PWR_LANE_WRITE (R388). -/
def execPwrLaneWrite (region : Region) (value : Word) (s : State) : Host.Outcome State Fault Refusal :=
  .next (writePwrLane s region value)

end Sys2Proof.Machine
end

