-- ==== Sys2Proof/Machine/Load.lean ====
section
/-! DEFINITION. The configuration controller: sources, the stream and its commands, full and partial loads, the
configuration store, the synchronous start and the fuses (R338-R385). -/

namespace Sys2Proof.Machine

/-! ### CRC-32C (R340) -/

/-- `n` steps of the reflected polynomial 0x1EDC6F41. -/
def crcBits : Nat → Nat → Nat
  | 0, c => c
  | n + 1, c => crcBits n (if c % 2 = 1 then c / 2 ^^^ 0x82F63B78 else c / 2)

/-- CRC-32C of bytes in stream order (R340). -/
def crc32c (bs : List Nat) : Nat := bs.foldl (fun c b => crcBits 8 (c ^^^ b)) 0xFFFFFFFF ^^^ 0xFFFFFFFF

/-! ### CFG_DONE (R376) -/

/-- Whether the module releases CFG_DONE. -/
def doneOut (s : State) : Bool :=
  !s.on F.CFG_CTRL.HOLD_DONE && (s.load.kind != 1 || s.load.phase == 5) &&
    (decide (s.mode ≠ .blank) || decide (4 ≤ s.fld F.CFG_STATUS.BOOT_SRC) || s.on F.CFG_CTRL.RELEASE_BLANK)

/-- DONE_OUT follows the rule; a line this module drives low is not high. -/
def updDone (s : State) : State :=
  let s1 := s.setFld F.CFG_STATUS.DONE_OUT 0 0 (flag (doneOut s))
  if doneOut s then s1 else s1.setFld F.CFG_STATUS.DONE_IN 0 0 0

/-! ### The stream's source (R366, R367, R372) -/

/-- The address in the configuration store of byte `i` of a slot. -/
def storeAddr (slot i : Nat) : Nat := 2 ^ 32 * slot + i

/-- The main-memory address of the block that holds stream byte `i` (R366). -/
def srcBlock (s : State) (i : Nat) : Nat := 64 * s.fld F.CFG_SRC_ADDR.ADDR + i / 60 * 64

/-- The stored length of a slot, 0 when it holds no stream. -/
def slotLen (s : State) (k : Nat) : Nat := if s.on F.CFG_SLOT.VALID 0 k then s.fld F.CFG_SLOT.LEN 0 k else 0

/-- The source's length in bytes: of main memory, or of a slot; a relay stream has none. -/
def srcLen (s : State) : Option Nat :=
  match s.load.src with
  | 0 => some (s.fld F.CFG_SRC_LEN.BYTES)
  | 3 => none
  | k => some (slotLen s (k - 1))

/-- What the reader finds at stream bytes `a` to `a + n - 1`: 0 the bytes, 1 it waits for LIMIT (R366), 2 the source
has ended. -/
def srcHas (s : State) (a n : Nat) : Nat :=
  match srcLen s with
  | none => 0
  | some len =>
    if s.load.src = 0 ∧ s.fld F.CFG_SRC_LIMIT.BYTES < Nat.min len (a + n) then 1
    else if len < a + n then 2 else 0

/-- A stream byte as the source holds it. -/
def srcByte (s : State) (i : Nat) : Nat :=
  match s.load.src with
  | 0 => (readByte s.mem (srcBlock s i + i % 60)).toNat
  | k => (readByte s.store (storeAddr (k - 1) i)).toNat

/-- `n` blocks of a stream read from a block address on, with whether all were good; a block whose port is offline is not
(R315, R366, log entry 58). -/
def streamBlocks (s : State) (a n : Nat) : (List Nat × Bool) × State :=
  (List.range n).foldl (fun acc k =>
    let b := a + 64 * k
    if memAccess acc.2 b ≠ 0 then ((acc.1.1 ++ List.replicate 60 0, false), acc.2)
    else
      let x := netReadBlock acc.2 b 0x4C
      ((acc.1.1 ++ x.1.1.take 60, acc.1.2 && x.1.2), x.2)) (([], true), s)

/-- The blocks of a memory stream that hold bytes `a` to `a + n - 1` read. -/
def srcBlocks (s : State) (a n : Nat) : (List Nat × Bool) × State :=
  streamBlocks s (srcBlock s a) ((a + n - 1) / 60 + 1 - a / 60)

/-- An injected uncorrectable sector meets the read of a slot (R367, R411). -/
def slotFault (s : State) : Option Nat := (List.range 4).find? (fun r => (s.arc r).uncorr)

/-- Stream bytes `a` to `a + n - 1` read from memory or a slot, with whether the medium gave them. -/
def srcRead (s : State) (a n : Nat) : (List Nat × Bool) × State :=
  if s.load.src = 0 then
    let r := srcBlocks s a n
    (((r.1.1.drop (a % 60)).take n, r.1.2), r.2)
  else
    match slotFault s with
    | some r => (([], false), s.setArc r { s.arc r with uncorr := false })
    | none => (((List.range n).map (fun i => srcByte s (a + i)), true), s)

/-- Bytes as 40-bit words (R339). -/
def streamWords : Nat → List Nat → List Word
  | 0, _ => []
  | n + 1, bs => bytesWord (bs.take 5) :: streamWords n (bs.drop 5)

/-! ### Rows at a full load and under AUTH and SIGNATURE -/

/-- The register slots of configured values (R371). -/
def confSlots : List (Reg × Nat × Nat) :=
  (List.range 1024).flatMap (fun k => [(.QC_CFG, k / 16, k % 16), (.QC_SIZE, k / 16, k % 16), (.QC_WM, k / 16, k % 16)]) ++
  (List.range 48).map (fun l => (.QC_LANE, 16 * (l / 12) + l % 12, 0)) ++
  (List.range 1088).map (fun k => (.RTE_DOM, k / 272, k % 272)) ++
  (List.range 64).map (fun t => (.SE_BOOT, t, 0)) ++ (List.range 4).map (fun r => (.SUP_BOOT, r, 0))

/-- Every slot of configured values takes them from the retained configuration; queues are emptied. -/
def applyConfs (s : State) : State :=
  (List.range 64).foldl restoreQueues (confSlots.foldl (fun s c => applyConf s c.1 c.2.1 c.2.2) s)

/-- Every row in its cleared state (R345, Table 14.6), with every scratchpad and processor memory zero. -/
def clearRows (s : State) : State :=
  let f := s.fab
  let fab := { f with
    imem := [], ipar := [], dmem := [], dmemErr := [], smap := [], dirty := [], domain := [], routeOut := [], fixes := []
    scrubPos := [], passes := [], sel := [], co := [], route := [], spar := [], park := [], pinPark := [] }
  let noImem := fun m => (List.range 64).foldl (fun m t => mclear m (regAddr .SE_IMEM t 0) (8 * 16384)) m
  let noSup := fun m => (List.range 4).foldl (fun m r => mclear m (regAddr .SUP_IMEM r 0) (8 * 32768)) m
  let noDmem := fun m => (List.range 4).foldl (fun m r => mclear m (regAddr .SUP_DMEM r 0) (8 * 65536)) m
  { s with fab := fab, regs := noDmem (noSup (noImem s.regs)), imemPar := []
           mem := mclear s.mem (spdAddr 0 0) (64 * 0x100000), memErr := mclear s.memErr (spdAddr 0 0) (64 * 0x100000) }

/-- Step 3 of a full load (R368): every row cleared, the retained configuration and the zone table discarded. -/
def clearStep (s : State) : State :=
  let s1 := { clearRows s with ret := {}, zones := [] }
  let s2 := (List.range 64).foldl (fun s k =>
    ((s.setFld F.CFG_ZONE.STATE (k / 16) (k % 16) 0).setFld F.CFG_ZONE.PRIMED (k / 16) (k % 16) 0).setFld
      F.CFG_ZONE.PARTIAL_ABORT (k / 16) (k % 16) 0) s1
  applyConfs (s2.setFld F.CFG_STATUS.RET_DONE 0 0 0)

/-! ### A load ends (R354, R361, R370) -/

/-- The relay stream that the load forwards is closed by an END with the count and CRC sent so far (R373). -/
def closeForward (s : State) : State :=
  if s.load.fwd then
    let bs := wordsBytes s.load.fwdOut
    { s.setFld F.CFG_RELAY.TX_ACTIVE 0 0 0 with
        load := { s.load with fwd := false, fwdOut := [], fwdEnd := some (bs.length, crc32c bs) } }
  else s

/-- The device enters BLANK with no configuration. -/
def enterBlank (s : State) : State :=
  let s1 := idleLoad { s with load := s.load.idle, mode := .blank, ret := {} }
  updDone { s1 with time := { s1.time with start := none } }

/-- A partial load ends other than OK (R354): after the header checks its zone is ISOLATED with PARTIAL_ABORT. -/
def endPartial (s : State) (res cause : Nat) (addr : Option Nat) : State :=
  let zi := s.load.zone
  let s1 := loadResult s res cause
  let s2 := if s.load.hdr = [] then s1
    else
      let z1 := (s1.setZstate zi 2).setFld F.CFG_ZONE.PARTIAL_ABORT (zi / 16) (zi % 16) 1
      let z2 := (z1.setFld F.CFG_ZONE.RESULT (zi / 16) (zi % 16) res).setFld F.CFG_ZONE.ADDR (zi / 16) (zi % 16) (addr.getD 0)
      z2.setZone zi { z2.zone zi with restoring := 0 }
  idleLoad { s2 with load := s.load.idle }

/-- The crown load restarts at step 3 with slot 1 as its source (R370). -/
def startCrown (s : State) : State :=
  let s1 := ((s.setFld F.CFG_STATUS.CROWN_TRIED 0 0 1).setFld F.CFG_STATUS.SRC 0 0 2).setFld F.CFG_STATUS.STEP 0 0 1
  updDone { s1 with load := { s.load.idle with kind := 1, phase := 1, src := 2 }, time := { s1.time with start := none } }

/-- A full load fails (R370): the crown image is tried, or the device enters BLANK. One that still waits for the regions to
wake (Table 16.8) has changed nothing, and the mode stays. -/
def endFull (s : State) (res cause : Nat) (addr : Option Nat) : State :=
  let s0 := closeForward s
  let s1 := loadResult s0 res cause
  let s2 := match addr with
    | some a => (s1.setFld F.CFG_FAIL.VALID 0 0 1).setFld F.CFG_FAIL.ADDR 0 0 a
    | none => s1
  if s.load.waking then idleLoad { s2 with load := s.load.idle }
  else if cause ≠ 5 ∧ s2.on F.CFG_CTRL.CROWN_EN = true ∧ s2.on F.CFG_SLOT.VALID 0 1 = true ∧ s.load.src ≠ 2 then startCrown s2
  else enterBlank s2

/-- The running load ends with a result of Table 14.9 and a cause of Table 15.4. -/
def endLoad (s : State) (res cause : Nat) (addr : Option Nat := none) : State :=
  match s.load.kind with
  | 0 => s
  | 1 => endFull s res cause addr
  | _ => endPartial s res cause addr

/-! ### The full load begins (R365, R368, R369) -/

/-- Step 2: lanes off, heats abandoned, guns emptied, processors in an engine reset, trace and probes stopped, pins
high-impedance (R369). -/
def loadStep2 (s : State) : State :=
  let s1 := (List.range 48).foldl laneDisable s
  let s2 := (List.range 64).foldl (fun s k =>
    (abandonHeat (heatDisarm s (k / 16) (k % 16)) (k / 16) (k % 16)).setFld F.HEAT_STAT.STATE (k / 16) (k % 16) 0) s1
  let s3 := (List.range 68).foldl (fun s p => startEReset s p true) { s2 with guns := [] }
  let s4 := (List.range 4).foldl (fun s r =>
    (if s.fld F.TRC_CTRL.SINK r = 0 then s else stopSink s r).setFld F.NOC_PC_CTRL.EN r 0 0) s3
  { s4 with fab := { s4.fab with pinLevel := [], pinOE := [] }, time := { s4.time with running := false, start := none } }

/-- Step 1: LOADING, CFG_DONE low; if strides run they stop with the boundary of the current stride (R24). -/
def loadStep1 (s : State) : State :=
  let s1 := { s with mode := .loading, load := { s.load with waking := false }
                     frz := { s.frz with endReq := false, nowReq := false, test := none, testReq := false }
                     jtag := { s.jtag with drive := 0 } }
  let s2 := updDone (s1.setFld F.CFG_STATUS.STEP 0 0 1)
  if s2.time.running then s2 else loadStep2 s2

/-- A full load starts; it takes over from a partial load, and follows the wake of every region (Table 16.8). -/
def beginFull (s : State) (src : Nat) (prog : Bool) : State :=
  let s0 := if s.load.kind = 2 then endPartial s 0 5 none else closeForward s
  let s1 := ((s0.setFld F.CFG_STATUS.PARTIAL 0 0 0).setFld F.CFG_STATUS.CROWN_TRIED 0 0 0).setFld F.CFG_STATUS.CROWN 0 0 0
  let s2 := ((s1.setFld F.CFG_STATUS.SRC 0 0 src).setFld F.CFG_STATUS.RESULT 0 0 0).setFld F.CFG_STATUS.CAUSE 0 0 0
  let s3 := (s2.setReg .CFG_FAIL 0 0 0).setReg .CFG_PROGRESS 0 0 0
  let s4 := { s3 with
    load := { s0.load.idle with
      kind := 1, phase := 1, src := src, progLow := prog || s0.load.progLow, progSrc := prog, waking := true }
    rst := { s3.rst with relayWait := false } }
  if allRun s4 then loadStep1 s4 else wakeAll s4 4

/-- CLEAR_DONE: step 3 ends and the controller hunts for the sync word, unless PROG_N holds the load (R364). -/
def clearDone (s : State) : State :=
  let s1 := (List.range 68).foldl (fun s p => if (s.proc p).eRst then endEReset s p else s) s
  let s2 := clearStep s1
  if s2.load.progSrc then { s2 with load := { s2.load with phase := 6 } }
  else { s2.setFld F.CFG_STATUS.STEP 0 0 2 with load := { s2.load with phase := 2 } }

/-- CLEAR_DONE (R368). -/
def execClearDone (s : State) : Host.Outcome State Fault Refusal :=
  if s.load.kind = 1 ∧ s.load.phase = 1 ∧ s.load.waking = false ∧ s.time.running = false then .next (clearDone s) else .next s

/-! ### Commands of CFG_CMD (R365) -/

/-- A command reports its result: OK 0, BUSY 1, WRONG_MODE 2, EMPTY 3, RANGE 4, IDLE 5. -/
def cfgRes (s : State) (res : Nat) : State := s.setFld F.CFG_CMD.RES 0 0 res

/-- Whether the stream of CFG_SRC_ADDR and CFG_SRC_LEN would leave main memory. -/
def srcRange (s : State) : Bool :=
  decide (0x2000000000 < 64 * s.fld F.CFG_SRC_ADDR.ADDR + (s.fld F.CFG_SRC_LEN.BYTES + 59) / 60 * 64)

/-- LOAD (R365). -/
def cmdLoad (s : State) : State :=
  if s.load.kind = 1 then cfgRes s 1 else if srcRange s then cfgRes s 4 else beginFull (cfgRes s 0) 0 false

/-- LOAD (R365, R366, R368). -/
def execLoad (s : State) : Host.Outcome State Fault Refusal := .next (cmdLoad s)

/-- LOAD_PARTIAL (R365, R381). -/
def cmdPartial (s : State) : State :=
  if s.mode ≠ .run ∧ s.mode ≠ .frozen then cfgRes s 2
  else if s.load.kind ≠ 0 then cfgRes s 1
  else if srcRange s then cfgRes s 4
  else
    let s1 := (((cfgRes s 0).setFld F.CFG_STATUS.PARTIAL 0 0 1).setFld F.CFG_STATUS.SRC 0 0 0).setFld F.CFG_STATUS.RESULT 0 0 0
    let s2 := ((s1.setFld F.CFG_STATUS.CAUSE 0 0 0).setFld F.CFG_STATUS.STEP 0 0 2).setReg .CFG_PROGRESS 0 0 0
    { s2 with load := { s.load.idle with kind := 2, phase := 2 } }

/-- LOAD_PARTIAL (R365, R381). -/
def execLoadPartial (s : State) : Host.Outcome State Fault Refusal := .next (cmdPartial s)

/-- LOAD_SLOT (R365). -/
def cmdSlot (s : State) (slot : Nat) : State :=
  if s.load.kind = 1 then cfgRes s 1
  else if s.on F.CFG_SLOT.VALID 0 slot then beginFull (cfgRes s 0) (slot + 1) false else cfgRes s 3

/-- LOAD_SLOT (R365, R367). -/
def execLoadSlot (slot : Fin 2) (s : State) : Host.Outcome State Fault Refusal := .next (cmdSlot s slot)

/-- Whether a load reads a slot, or a STORE of it runs. -/
def slotBusy (s : State) (slot : Nat) : Bool :=
  (s.load.kind == 1 && s.load.src == slot + 1) || (match s.load.storing with | some x => x.1 == slot | none => false)

/-- STORE (R367). -/
def cmdStore (s : State) (slot : Nat) : State :=
  if slotBusy s slot ∨ s.load.storing.isSome = true then cfgRes s 1
  else if srcRange s ∨ 2 ^ 32 < s.fld F.CFG_SRC_LEN.BYTES then cfgRes s 4
  else
    let s1 := (cfgRes s 0).setReg .CFG_SLOT 0 slot 0
    { s1 with load := { s1.load with storing := some (slot, s.fld F.CFG_SRC_ADDR.ADDR, s.fld F.CFG_SRC_LEN.BYTES) } }

/-- STORE (R365, R367). -/
def execStore (slot : Fin 2) (s : State) : Host.Outcome State Fault Refusal := .next (cmdStore s slot)

/-- ERASE (R365). -/
def cmdErase (s : State) (slot : Nat) : State :=
  if slotBusy s slot then cfgRes s 1
  else { (cfgRes s 0).setReg .CFG_SLOT 0 slot 0 with store := mclear s.store (storeAddr slot 0) (2 ^ 32) }

/-- ERASE (R365). -/
def execErase (slot : Fin 2) (s : State) : Host.Outcome State Fault Refusal := .next (cmdErase s slot)

/-- ABORT (R365): the running load ends with CAUSE ABORTED. -/
def cmdAbort (s : State) : State := if s.load.kind = 0 then cfgRes s 5 else endLoad (cfgRes s 0) 0 5

/-- ABORT (R365). -/
def execAbort (s : State) : Host.Outcome State Fault Refusal := .next (cmdAbort s)

/-- A write of CFG_CMD; 0b000 and 0b111 are no command. -/
def writeCfgCmd (s : State) (w : Word) : State :=
  let slot := bitsOf w.toNat 36 36
  match bitsOf w.toNat 39 37 with
  | 1 => cmdLoad s
  | 2 => cmdPartial s
  | 3 => cmdSlot s slot
  | 4 => cmdStore s slot
  | 5 => cmdErase s slot
  | 6 => cmdAbort s
  | _ => s

/-! ### The configuration store (R367) -/

/-- The sync word (Table 14.1). -/
def syncBytes : List Nat := [0xA5, 0x5A, 0xC3, 0x3C]

/-- Whether the sync word stands at byte `i`. -/
def syncAt (byte : Nat → Nat) (i : Nat) : Bool :=
  byte i == 0xA5 && byte (i + 1) == 0x5A && byte (i + 2) == 0xC3 && byte (i + 3) == 0x3C

/-- The first sync word that starts at one of the `n` bytes from `i`. -/
def findSync (byte : Nat → Nat) : Nat → Nat → Option Nat
  | 0, _ => none
  | n + 1, i => if syncAt byte i then some i else findSync byte n (i + 1)

/-- Whether the HCRC of the first header among `len` bytes matches. -/
def hcrcOk (byte : Nat → Nat) (len : Nat) : Bool :=
  match findSync byte (len - 63) 0 with
  | none => false
  | some k => crc32c ((List.range 59).map (fun i => byte (k + i))) ==
      byte (k + 59) + 256 * byte (k + 60) + 65536 * byte (k + 61) + 16777216 * byte (k + 62)

/-- Whether the HCRC of the header in the store's slot matches. -/
def storedHeader (s : State) (slot len : Nat) : Bool :=
  hcrcOk (fun i => (readByte s.store (storeAddr slot i)).toNat) len

/-- STORE_DONE: the stream has been read and, where `ok`, the whole copy programmed; VALID sets when it was and the copied
header's HCRC matches. A block that is not good fails the copy. -/
def storeDone (s : State) (slot blk len : Nat) (ok : Bool) : State :=
  let r := streamBlocks { s with load := { s.load with storing := none } } (64 * blk) ((len + 59) / 60)
  if ok && r.1.2 then
    let s2 := { r.2 with store := putBytes (storeAddr slot 0) (r.1.1.take len) (mclear s.store (storeAddr slot 0) (2 ^ 32)) }
    if storedHeader s2 slot len then (s2.setFld F.CFG_SLOT.VALID 0 slot 1).setFld F.CFG_SLOT.LEN 0 slot len else s2
  else r.2

/-- STORE_DONE (R366, R367): the controller reads up to CFG_SRC_LIMIT and waits there. -/
def execStoreDone (programmed : Bool) (s : State) : Host.Outcome State Fault Refusal :=
  match s.load.storing with
  | some x =>
    if s.fld F.CFG_SRC_LIMIT.BYTES < x.2.2 then .next s else .next (storeDone s x.1 x.2.1 x.2.2 programmed)
  | none => .next s

/-! ### The header (R341, R342, Table 14.2) -/

/-- Bits [hi:lo] of header word `i`. -/
def hbits (hd : List Word) (i hi lo : Nat) : Nat := bitsOf (payWord hd i).toNat hi lo

/-- Scheduled steps S of the header. -/
def hdrS (hd : List Word) : Nat := hbits hd 0 19 8
/-- Whether the body is encrypted. -/
def hdrEnc (hd : List Word) : Bool := hbits hd 0 27 27 == 1
/-- Whether the stream is signed. -/
def hdrSig (hd : List Word) : Bool := hbits hd 0 26 26 == 1
/-- The zone of a partial stream: 16 · region + zone. -/
def hdrZone (hd : List Word) : Nat := 16 * hbits hd 5 35 34 + hbits hd 5 39 36
/-- The window of a partial stream. -/
def hdrWindow (hd : List Word) : ZoneRect := ⟨hbits hd 5 31 30, hbits hd 5 29 28, hbits hd 5 27 26, hbits hd 5 25 24⟩
/-- Column types of the window. -/
def hdrTypes (hd : List Word) : Nat := hbits hd 5 23 16

/-- Check 2: FORMAT, KIND and the bits that must be zero. -/
def formatBad (hd : List Word) : Bool :=
  let full := hbits hd 0 31 28 == 1
  let z := fun i hi lo => hbits hd i hi lo != 0
  hbits hd 0 39 32 != 1 || (hbits hd 0 31 28 != 1 && hbits hd 0 31 28 != 2) || (full && z 0 25 25) || z 0 24 24 ||
    (!hdrEnc hd && z 0 23 22) || (!hdrSig hd && z 0 21 20) || z 0 7 0 || z 1 15 0 || z 4 39 32 || z 5 33 32 || z 5 15 0 ||
    (full && z 5 39 0) || (!hdrEnc hd && (z 6 39 0 || z 7 39 0 || z 8 39 24)) || z 8 23 0 || z 9 39 0 || z 10 39 0 || z 11 39 32

/-- Whether one rectangle lies inside another. -/
def ZoneRect.inside (a b : ZoneRect) : Bool :=
  decide (b.x0 ≤ a.x0) && decide (a.x1 ≤ b.x1) && decide (b.y0 ≤ a.y0) && decide (a.y1 ≤ b.y1)

/-- Check 6: the window of a partial stream. -/
def windowBad (s : State) (hd : List Word) : Bool :=
  let w := hdrWindow hd
  decide (w.x1 < w.x0) || decide (w.y1 < w.y0) || decide (64 ≤ hdrTypes hd) || hdrTypes hd == 0 ||
    (match (s.zone (hdrZone hd)).rect with
     | none => true
     | some z => s.zstate (hdrZone hd) == 0 || !(w.inside z))

/-- Check 7: the eFuse policy and the selected slots. -/
def policyBad (s : State) (hd : List Word) : Bool :=
  (s.on F.CFG_FUSE_STAT.REQ_ENC && !hdrEnc hd) || (s.on F.CFG_FUSE_STAT.REQ_SIG && !hdrSig hd) ||
    (hdrEnc hd && !bitOf (s.fld F.CFG_FUSE_STAT.KEY_OK) (hbits hd 0 23 22)) ||
    (hdrSig hd && !bitOf (s.fld F.CFG_FUSE_STAT.HASH_OK) (hbits hd 0 21 20))

/-- The header checks in the order of Table 14.3: the first that fails, 0 when all pass. -/
def headerCheck (s : State) (hd : List Word) : Nat :=
  let part := hbits hd 0 31 28 == 2
  if hbits hd 11 31 0 ≠ crc32c (syncBytes ++ wordsBytes (hd.take 11)) then 1
  else if formatBad hd then 2
  else if hbits hd 1 39 24 ≠ 0x9640 ∨ 0xB1 < hbits hd 1 23 16 then 3
  else if hbits hd 0 31 28 ≠ s.load.kind then 4
  else if hdrS hd < 16 ∨ 2048 < hdrS hd ∨ hdrS hd % 16 ≠ 0 ∨ (part = true ∧ hdrS hd ≠ s.stepsS) then 5
  else if part = true ∧ windowBad s hd = true then 6
  else if policyBad s hd then 7
  else 0

/-- Whether a frame address lies in the window (R353). -/
def inWindow (hd : List Word) (a : Nat) : Bool :=
  let w := hdrWindow hd
  let t := frTile a
  t / 16 == hbits hd 5 35 34 && decide (w.x0 ≤ t % 4) && decide (t % 4 ≤ w.x1) && decide (w.y0 ≤ t % 16 / 4) &&
    decide (t % 16 / 4 ≤ w.y1) && bitOf (hdrTypes hd) (frType a) && !baseOnly a

/-- The frame addresses of the first `n` rows of a column. -/
def colRows (t ty n : Nat) : List Nat := (List.range n).map (fun row => 2 ^ 15 * t + 2 ^ 12 * ty + row)

/-- Every frame address of a tile's column types that a window can hold. -/
def tileRows (s : State) (t : Nat) : List Nat :=
  colRows t 0 s.stepsS ++ colRows t 1 (s.stepsS / 2) ++ colRows t 2 512 ++ colRows t 3 16 ++ colRows t 4 1 ++ colRows t 5 73

/-- Whether the retained configuration takes something of a row. -/
def rowKept (a : Nat) : Bool := frType a == 2 || frType a == 4 || (frType a == 5 && (frRow a == 72 || frRow a == 176))

/-- ZCLEAR (R355): every row in the window takes its cleared state; its values are staged as cleared. -/
def zclear (s : State) (hd : List Word) : State :=
  let rows := ((List.range 16).flatMap (fun t => tileRows s (16 * hbits hd 5 35 34 + t))).filter (inWindow hd)
  let s1 := rows.foldl clearRow s
  { s1 with load := { s1.load with rows := (rows.filter rowKept).map (fun a => (a, [])) } }

/-- The header has passed (R342, R381): a partial load needs its zone ISOLATED, which becomes LOADING. -/
def acceptHeader (s : State) (hd : List Word) : State :=
  let zi := hdrZone hd
  let s1 := { s with load := { s.load with hdr := hd, phase := 3, zone := if s.load.kind = 2 then zi else 0 } }
  if s.load.kind = 2 then
    if s.zstate zi ≠ 2 then endLoad s 6 0
    else
      let s2 := setPrimed (s1.setZstate zi 3) zi 0
      if hbits hd 0 25 25 = 1 then zclear s2 hd else s2
  else s1

/-- CFG_PROGRESS counts the bytes consumed. -/
def setProgress (s : State) (n : Nat) : State := s.setFld F.CFG_PROGRESS.BYTES 0 0 (Nat.min n (2 ^ 40 - 1))

/-- The header's words received: the checks, and LENGTH for a body that ends at once (R352). -/
def takeHeader (s : State) (k : Nat) (hd : List Word) : State :=
  let s1 := setProgress { s with load := { s.load with skip := k } } (k + 64)
  match headerCheck s1 hd with
  | 0 =>
    let s2 := acceptHeader s1 hd
    if s2.load.hdr ≠ [] ∧ hbits hd 3 39 0 = 0 then endLoad s2 0x0F 0 else s2
  | res => endLoad s1 res 0

/-- The sync word found after `k` bytes of a memory or slot stream, and its header read (R338, R352). -/
def readHeader (s : State) (k : Nat) : State :=
  if !(syncAt (srcByte s) k) || (findSync (srcByte s) k 0).isSome || srcHas s k 4 != 0 then s
  else
    match srcHas s k 64 with
    | 0 =>
      let r := srcRead s k 64
      if r.1.2 then takeHeader r.2 k (streamWords 12 (r.1.1.drop 4)) else endLoad r.2 0 2
    | 1 => s
    | _ => endLoad s 0x0F 0

/-- HEADER (R338, R342): the sync word stands after `skip` bytes, or nowhere in the source (NO_IMAGE). `words` is the
header of a relay stream; a memory or slot stream is read from its source. -/
def execHeader (skip : Option Nat) (words : List Word) (s : State) : Host.Outcome State Fault Refusal :=
  if s.load.kind = 0 ∨ s.load.phase ≠ 2 ∨ s.load.waitStart = true then .next s
  else match skip, srcLen s with
    | none, none => .next s
    | none, some len =>
      if srcHas s 0 len = 1 ∨ (findSync (srcByte s) (len - 3) 0).isSome = true then .next s
      else .next (endLoad (setProgress s len) 0 3)
    | some k, none => if s.load.stream then .next (takeHeader s k ((words ++ List.replicate 12 0).take 12)) else .next s
    | some k, some _ => .next (readHeader s k)

/-! ### Commands of the body (R346-R351) -/

/-- BODY_LEN of the stream. -/
def bodyLen (s : State) : Nat := hbits s.load.hdr 3 39 0

/-- The stream byte at which the next command starts. -/
def bodyPos (s : State) : Nat := s.load.skip + 64 + s.load.off

/-- The operation code of a command word. -/
def opOf (w : Word) : Nat := bitsOf w.toNat 39 32

/-- The words of the next `n` words of the body: read from memory or a slot in the clear, and otherwise as the relay or
the decryption gives them (`ops`). Together with 0, or 1 the reader waits, 2 the source has ended, 3 the medium failed. -/
def bodyWords (s : State) (n : Nat) (ops : List Word) : (List Word × Nat) × State :=
  match srcHas s (bodyPos s) (5 * n) with
  | 0 =>
    if s.load.src = 3 ∨ hdrEnc s.load.hdr = true then (((List.range n).map (payWord ops), 0), s)
    else
      let r := srcRead s (bodyPos s) (5 * n)
      if r.1.2 then ((streamWords n r.1.1, 0), r.2) else (([], 3), r.2)
  | k => (([], k), s)

/-- A piece that could not be had: the reader waits, or the load ends with LENGTH or MEDIA. -/
def noPiece (s : State) (k : Nat) : State :=
  match k with
  | 1 => s
  | 3 => endLoad s 0 2
  | _ => endLoad s 0x0F 0

/-- The next command of the body, when its operation code is one of the row's: its word is judged first (R347), then its
length against BODY_LEN and the source (R352), and then it is carried out. -/
def bodyCmd (s : State) (isOp : Nat → Bool) (bad : Word → Bool) (len : Word → Nat) (ops : List Word)
    (run : List Word → State → State) : State :=
  if s.load.kind = 0 ∨ s.load.phase ≠ 3 ∨ (s.load.src = 3 ∧ s.load.stream = false) then s
  else if bodyLen s < s.load.off + 5 then endLoad s 0x0F 0
  else
    let c := bodyWords s 1 (ops.take 1)
    if c.1.2 ≠ 0 then noPiece c.2 c.1.2
    else
      let w := payWord c.1.1 0
      if !isOp (opOf w) then s
      else if bad w then endLoad s 8 0
      else
        let n := len w
        if bodyLen s < s.load.off + 5 * n then endLoad s 0x0F 0
        else
          let r := bodyWords s n ops
          if r.1.2 ≠ 0 then noPiece r.2 r.1.2
          else
            let s1 := { r.2 with load := { r.2.load with off := s.load.off + 5 * n } }
            run r.1.1 (setProgress s1 (bodyPos s1))

/-- ARG bits [31:lo] that must be zero. -/
def argBad (w : Word) (lo : Nat) : Bool := bitsOf w.toNat 31 lo != 0

/-- Whether an operation code is one that Table 14.7 names. -/
def namedOp (op : Nat) : Bool := decide (1 ≤ op ∧ op ≤ 5) || op == 0x0F

/-- NOOP, or a command with a reserved operation code, which is BAD_CMD (R347). -/
def execNoop (word : Word) (s : State) : Host.Outcome State Fault Refusal :=
  .next (bodyCmd s (fun op => !namedOp op) (fun w => opOf w != 0 || argBad w 0) (fun _ => 1) [word] (fun _ s => s))

/-- Steps 3 to 5 of R348 for a payload and an address. -/
def writeFrame (s : State) (a : Nat) (ws : List Word) : State :=
  let part := s.load.kind == 2
  if !rowExists (hdrS s.load.hdr) a then endLoad s 0x0A 0 (some a)
  else if part && !inWindow s.load.hdr a then endLoad s 0x0B 0 (some a)
  else if rowBad s a ws then endLoad s 0x0C 0 (some a)
  else if part && frType a == 5 && !(s.pstate (frTile a) == 0 || s.pstate (frTile a) == 5) then endLoad s 0x0D 0 (some a)
  else
    let s1 := writeRow s a ws
    { s1 with load := { s1.load with
      frames := s1.load.frames + 1
      written := a :: s1.load.written
      rows := if rowKept a then s1.load.rows ++ [(a, ws)] else s1.load.rows } }

/-- FRAME received whole: its CRC, and then the write (R348). -/
def takeFrame (ws : List Word) (s : State) : State :=
  let a := bitsOf (payWord ws 0).toNat 20 0
  let pay := (List.range 2048).map (fun i => payWord ws (i + 1))
  if (payWord ws 2049).toNat ≠ crc32c (wordsBytes (payWord ws 0 :: pay)) then endLoad s 9 0 (some a)
  else writeFrame { s with load := { s.load with last := some (a, pay) } } a pay

/-- FRAME (R348): the command word, the payload and the CRC word. -/
def execFrame (words : List Word) (s : State) : Host.Outcome State Fault Refusal :=
  .next (bodyCmd s (· == 1) (argBad · 21) (fun _ => 2050) words takeFrame)

/-- COPY (R349). -/
def takeCopy (ws : List Word) (s : State) : State :=
  let a := bitsOf (payWord ws 0).toNat 20 0
  match s.load.last with
  | none => endLoad s 0x0E 0 (some a)
  | some l => if frType l.1 = frType a then writeFrame s a l.2 else endLoad s 0x0E 0 (some a)

/-- COPY (R349). -/
def execCopy (word : Word) (s : State) : Host.Outcome State Fault Refusal :=
  .next (bodyCmd s (· == 3) (argBad · 21) (fun _ => 1) [word] takeCopy)

/-- Whether a WREG names a reserved register or one that its kind of stream does not allow (Table 14.8). -/
def wregBad (kind : Nat) (w : Word) : Bool :=
  let r := bitsOf w.toNat 7 0
  argBad w 8 || !(decide (0x10 ≤ r ∧ r ≤ 0x13) || (kind == 1 && (r == 1 || r == 0x20)))

/-- WREG (R350): a value outside the register's range is CFG_VALUE. -/
def takeWreg (ws : List Word) (s : State) : State :=
  let r := bitsOf (payWord ws 0).toNat 7 0
  let v := payWord ws 1
  let n := v.toNat
  if (r = 1 ∧ n ≠ 0 ∧ (n < 640 ∨ 1024 < n)) ∨ (r = 0x20 ∧ 1 < n) then endLoad s 0x0C 0
  else { s with load := { s.load with wregs := minsert s.load.wregs r v } }

/-- WREG (R350). -/
def execWreg (word value : Word) (s : State) : Host.Outcome State Fault Refusal :=
  .next (bodyCmd s (· == 2) (wregBad s.load.kind) (fun _ => 2) [word, value] takeWreg)

/-- ZDOM (R351). -/
def takeZdom (ws : List Word) (s : State) : State :=
  let v := payWord ws 1
  if 65536 < bitsOf v.toNat F.RTE_DOM.DIV.hi F.RTE_DOM.DIV.lo then endLoad s 0x0C 0
  else { s with load := { s.load with zdoms := minsert s.load.zdoms (bitsOf (payWord ws 0).toNat 3 0) v } }

/-- ZDOM (R351). -/
def execZdom (word value : Word) (s : State) : Host.Outcome State Fault Refusal :=
  .next (bodyCmd s (· == 4) (fun w => s.load.kind != 2 || argBad w 4) (fun _ => 2) [word, value] takeZdom)

/-- FORWARD (R351, R373): the words go to the relay link; START goes before the first FORWARD of a stream. -/
def takeForward (ws : List Word) (s : State) : State :=
  if ws.length ≤ 1 then s
  else { s.setFld F.CFG_RELAY.TX_ACTIVE 0 0 1 with
           load := { s.load with fwd := true, fwdOut := s.load.fwdOut ++ ws.drop 1 } }

/-- FORWARD (R351). -/
def execForward (words : List Word) (s : State) : Host.Outcome State Fault Refusal :=
  .next (bodyCmd s (· == 5) (fun _ => s.load.kind != 1) (fun w => 1 + bitsOf w.toNat 31 0) words takeForward)

/-! ### END (R352, R360) -/

/-- Every row the stream wrote, and in a full load every row, takes its cleared state (R360). -/
def eraseStream (s : State) : State := if s.load.kind = 1 then clearRows s else s.load.written.foldl clearRow s

/-- USER0 to USER3 become readable (R350). -/
def applyUsers (s : State) : State :=
  (List.range 4).foldl (fun s i =>
    match s.load.wregs.find? (fun e => e.1 == 0x10 + i) with
    | some e => s.setReg .CFG_USER 0 i e.2
    | none => s) s

/-- Steps 4 and 5 of a partial load (R381): staged values become the retained ones and the zone is restored. -/
def partialEnd (s : State) (auto : Bool) : State :=
  let zi := s.load.zone
  let rt := s.load.rows.foldl (fun rt e => retainRow rt e.1 e.2) s.ret
  let conf := s.load.zdoms.foldl (fun c e => keepConf c .RTE_DOM (zi / 16) (16 * (zi % 16) + e.1) e.2) rt.conf
  let s1 := applyUsers { s with ret := { rt with conf := conf } }
  let s2 := s1.setFld F.CFG_STATUS.STEP 0 0 4
  { s2.setZone zi { s2.zone zi with restoring := 1, thenStart := false } with
      load := { s2.load with phase := 4, auto := auto } }

/-- The bytes of the trailer: tag, public key and signature (Table 14.1). -/
def trailer (hd : List Word) : Nat := 16 * flag (hdrEnc hd) + 192 * flag (hdrSig hd)

/-- END received: the checks in order, and then the result. -/
def takeEnd (tagOk sigOk : Bool) (ws : List Word) (s : State) : State :=
  if s.load.off ≠ bodyLen s ∨ s.load.frames ≠ hbits s.load.hdr 4 31 0 then endLoad s 0x0F 0
  else
    let s1 := setProgress s (bodyPos s + trailer s.load.hdr)
    if hdrEnc s.load.hdr ∧ tagOk = false then endLoad (eraseStream s1) 0x10 0
    else if hdrSig s.load.hdr ∧ sigOk = false then endLoad (eraseStream s1) 0x11 0
    else if s.load.kind = 2 then partialEnd s1 (bitsOf (payWord ws 0).toNat 0 0 == 1)
    else
      let s2 := loadResult (closeForward s1) 0 0
      { s2.setFld F.CFG_STATUS.STEP 0 0 4 with load := { s2.load with phase := 4 } }

/-- END (R352). `tagOk` and `sigOk` say what AES-256-GCM and ECDSA find of the stream (R358, R359). -/
def execEndOp (word : Word) (tagOk sigOk : Bool) (s : State) : Host.Outcome State Fault Refusal :=
  .next (bodyCmd s (· == 0x0F) (fun w => argBad w 1 || (s.load.kind == 1 && argBad w 0)) (fun _ => 1) [word]
    (takeEnd tagOk sigOk))

/-! ### Step 7 to 9 (R368, R371, R378, R384) -/

/-- A value of a stream register, 0 when the stream did not write it. -/
def wregOf (s : State) (r : Nat) : Nat := ((s.load.wregs.find? (fun e => e.1 == r)).map (fun e => e.2.toNat)).getD 0

/-- The zones that QZCFG row 16 of each region declares are in RUN (R378). -/
def declareZones (s : State) : State :=
  (s.load.rows.filter (fun e => frType e.1 == 4 && frRow e.1 == 16)).foldl (fun s e =>
    (List.range 16).foldl (fun s z =>
      let zi := 16 * (frTile e.1 / 16) + z
      match zoneEntry (payWord e.2 z) with
      | some r => (s.setZone zi { rect := some r }).setZstate zi 1
      | none => (s.setZone zi {}).setZstate zi 0) s) s

/-- Step 7: the stream registers, S, and the retained configuration, which the slots of configured values take. -/
def applyStream (s : State) : State :=
  let p := wregOf s 1
  let s1 := s.setFld F.TIM_STRIDE_CFG.S 0 0 (hdrS s.load.hdr)
  let s2 := if p = 0 then s1 else s1.setFld F.TIM_STRIDE_CFG.P 0 0 p
  let s3 := applyUsers (s2.setReg .CFG_DESIGN_ID 0 0 (payWord s.load.hdr 2))
  let s4 := if wregOf s 0x20 = 1 then s3.setFld F.CFG_STATUS.LOCKED 0 0 1 else s3
  let s5 := { s4 with ret := s4.load.rows.foldl (fun rt e => retainRow rt e.1 e.2) { valid := true } }
  let s6 := applyConfs (declareZones s5)
  { s6 with ret := { s6.ret with base := takeBase s6 (fun t => (s6.zoneOf t).isSome) } }

/-- APPLY_DONE: step 7 ends, supervisors with BOOT_RUN start, and CFG_DONE is released. -/
def applyDone (s : State) : State :=
  let s1 := applyStream s
  let s2 := (List.range 4).foldl (fun s r => bootProc s (64 + r) false) s1
  let s3 := (s2.setFld F.CFG_STATUS.CROWN 0 0 (flag (decide (s.load.src = 2)))).setFld F.CFG_STATUS.STEP 0 0 5
  updDone { s3 with load := { s3.load with phase := 5 } }

/-- APPLY_DONE (R368). -/
def execApplyDone (s : State) : Host.Outcome State Fault Refusal :=
  if s.load.kind = 1 ∧ s.load.phase = 4 then .next (applyDone s) else .next s

/-- RET_DONE: the base rows have been copied (R371). -/
def execRetDone (s : State) : Host.Outcome State Fault Refusal :=
  if s.ret.valid then .next (s.setFld F.CFG_STATUS.RET_DONE 0 0 1) else .next s

/-- LOAD_TIMEOUT: no stream byte for TIMEOUT ms since step 4 began (R370). -/
def execLoadTimeout (s : State) : Host.Outcome State Fault Refusal :=
  if s.load.kind ≠ 0 ∧ (s.load.phase = 2 ∨ s.load.phase = 3) ∧ s.load.waitStart = false ∧ s.fld F.CFG_CTRL.TIMEOUT ≠ 0 then
    .next (endLoad s 0 1)
  else .next s

/-! ### The synchronous start (R376, R377) -/

/-- CFG_DONE_HIGH: the line has read high for 200 ns (R376). -/
def execCfgDoneHigh (s : State) : Host.Outcome State Fault Refusal :=
  if s.on F.CFG_STATUS.DONE_OUT ∧ s.on F.CFG_STATUS.DONE_IN = false then
    .next { s.setFld F.CFG_STATUS.DONE_IN 0 0 1 with load := { s.load with doneAt := s.instant } }
  else .next s

/-- The start command of step 10 (R377): EDGE at the instant CFG_DONE was taken as high, TIMED at CFG_START. -/
def syncStart (s : State) : State :=
  let at_ := timeOf (s.reg .CFG_START_SEC).toNat (s.reg .CFG_START_FRAC).toNat
  if s.on F.CFG_CTRL.START_MODE then
    if s.load.doneAt + 2000 * 1024 ≤ at_ then (if at_ ≤ s.instant then s.startCommand at_ else s)
    else (s.setFld F.CFG_STATUS.LATE_START 0 0 1).startCommand s.load.doneAt
  else s.startCommand s.load.doneAt

/-- SYNCHRONOUS_START (R377). -/
def execSynchronousStart (s : State) : Host.Outcome State Fault Refusal :=
  if s.load.kind = 1 ∧ s.load.phase = 5 ∧ s.on F.CFG_STATUS.DONE_IN = true ∧ s.time.start = none then .next (syncStart s)
  else .next s

/-! ### PROG_N and the relay (R364, R372-R375) -/

/-- PROG_N has been low for as long as its filter asks (R364, R468): a full load starts. -/
def execProgN (s : State) : Host.Outcome State Fault Refusal := .next (beginFull s 0 true)

/-- The load held after step 3 goes on at step 4. -/
def releaseProg (s : State) (src : Nat) (wait : Bool) : State :=
  let s1 := s.setFld F.CFG_STATUS.SRC 0 0 src
  let held := s.load.phase == 6
  let s2 := if held then s1.setFld F.CFG_STATUS.STEP 0 0 2 else s1
  { s2 with load := { s2.load with
      progSrc := false, progLow := false, src := src, waitStart := wait, phase := if held then 2 else s2.load.phase } }

/-- The rising edge of PROG_N: the load continues according to BOOT_SRC, or is aborted (R364). -/
def progRise (s : State) : State :=
  let s1 := { s with load := { s.load with progLow := false } }
  if s.load.progSrc then
    match s.fld F.CFG_STATUS.BOOT_SRC with
    | 1 => releaseProg s1 1 false
    | 2 => releaseProg s1 3 true
    | 3 => releaseProg s1 3 true
    | _ => endLoad s1 0 5
  else s1

/-- PROG_N_RISE (R364). -/
def execProgNRise (s : State) : Host.Outcome State Fault Refusal := .next (progRise s)

/-- A START is ignored and counted (R375). -/
def relayErr (s : State) : State := s.addSat F.CFG_RELAY.ERR 0 0

/-- A relay START (R375). -/
def relayStart (s : State) : State :=
  let boot := s.fld F.CFG_STATUS.BOOT_SRC
  if boot ≠ 2 ∧ boot ≠ 3 then s
  else if s.load.kind = 1 then
    if s.load.waitStart ∧ s.load.phase = 2 then { s with load := { s.load with waitStart := false, stream := true } }
    else relayErr s
  else if s.mode = .blank then
    let s1 := beginFull s 3 false
    { s1 with load := { s1.load with stream := true } }
  else s

/-- RELAY_START (R375). -/
def execRelayStart (s : State) : Host.Outcome State Fault Refusal := .next (relayStart s)

/-- The END block of a relay stream (R352, R372): `agrees` says whether its count and CRC are those of the stream. -/
def relayEnd (s : State) (agrees : Bool) : State :=
  if !s.load.stream then s
  else
    let s1 := { s with load := { s.load with stream := false } }
    if !agrees then endLoad (relayErr s1) 0 4
    else match s.load.phase with
      | 3 => endLoad s1 0x0F 0
      | 4 => s1
      | 5 => s1
      | _ => endLoad s1 0 3

/-- RELAY_END (R372). -/
def execRelayEnd (agrees : Bool) (s : State) : Host.Outcome State Fault Refusal := .next (relayEnd s agrees)

/-- LINK_LOST: lock, alignment or buffer room lost during a stream (R372, R374). -/
def execLinkLost (s : State) : Host.Outcome State Fault Refusal :=
  if s.load.stream then .next (endLoad (relayErr { s with load := { s.load with stream := false } }) 0 4) else .next s

/-- RELAY_LANE_LOCK (R372): LANE_LOCK and ALIGNED follow the receiver. -/
def execRelayLaneLock (lock : BitVec 4) (aligned : Bool) (s : State) : Host.Outcome State Fault Refusal :=
  .next ((s.setFld F.CFG_RELAY.LANE_LOCK 0 0 lock.toNat).setFld F.CFG_RELAY.ALIGNED 0 0 (flag aligned))

/-- RELAY_WAIT_TIMEOUT: under RELAY_FLASH no stream within 2 s; the load is from slot 0 (R362, R364). -/
def relayTimeout (s : State) : State :=
  if s.fld F.CFG_STATUS.BOOT_SRC ≠ 3 then s
  else if s.load.kind = 1 ∧ s.load.waitStart = true then
    { s.setFld F.CFG_STATUS.SRC 0 0 1 with load := { s.load with src := 1, waitStart := false } }
  else if s.mode = .blank ∧ s.rst.relayWait = true ∧ s.load.kind = 0 then beginFull s 1 false
  else s

/-- RELAY_WAIT_TIMEOUT (R362). -/
def execRelayWaitTimeout (s : State) : Host.Outcome State Fault Refusal := .next (relayTimeout s)

/-! ### Fuses (R382, R383) -/

/-- CFG_FUSE_STAT shows which slots are valid: programmed and not revoked. -/
def syncFuses (s : State) : State :=
  let f := s.fuse
  let ok := fun (m : List (Nat × Nat)) (base : Nat) => (List.range 4).foldl (fun n i =>
    n + flag (m.any (fun e => e.1 == i) && !f.revoked.contains (base + i)) * 2 ^ i) 0
  (s.setFld F.CFG_FUSE_STAT.KEY_OK 0 0 (ok f.keys 0)).setFld F.CFG_FUSE_STAT.HASH_OK 0 0 (ok f.hashes 4)

/-- The value of CFG_FUSE_DATA0 to 9, byte 0 least significant (R383). -/
def fuseData (s : State) : Nat := (List.range 10).foldl (fun n i => n + (s.reg .CFG_FUSE_DATA 0 i).toNat * 2 ^ (40 * i)) 0

/-- Each write to GO zeroes the data registers. -/
def zeroFuseData (s : State) : State := (List.range 10).foldl (fun s i => s.setReg .CFG_FUSE_DATA 0 i 0) s

/-- Whether a key or hash slot has been programmed. -/
def fuseUsed (s : State) (t : Nat) : Bool :=
  if t < 4 then s.fuse.keys.any (fun e => e.1 == t) || s.fuse.revoked.contains t
  else if t < 8 then s.fuse.hashes.any (fun e => e.1 == t - 4) || s.fuse.revoked.contains t
  else false

/-- GO with a target (R383): RES is OK 0, WRONG_MODE 1, LOCKED 2, ALREADY 3, FAIL 4 or BUSY 5. -/
def fuseGo (s : State) (t : Nat) : State :=
  let v := fuseData s
  let s1 := zeroFuseData s
  let res := fun n => s1.setFld F.CFG_FUSE_STAT.RES 0 0 n
  if 0x13 < t then s1
  else if s.fuse.pending.isSome then res 5
  else if s.mode ≠ .blank then res 1
  else if s.on F.CFG_FUSE_STAT.FUSE_LOCK ∧ ¬(8 ≤ t ∧ t < 16) then res 2
  else if fuseUsed s t then res 3
  else { s1 with fuse := { s1.fuse with pending := some (t, v) } }

/-- FUSE_PROGRAM (R383). -/
def execFuseProgram (target : BitVec 5) (s : State) : Host.Outcome State Fault Refusal := .next (fuseGo s target.toNat)

/-- A fuse item blown (R382). -/
def blowFuse (s : State) (t v : Nat) : State :=
  let f := s.fuse
  if t < 4 then { s with fuse := { f with keys := minsert f.keys t (v % 2 ^ 256) } }
  else if t < 8 then { s with fuse := { f with hashes := minsert f.hashes (t - 4) (v % 2 ^ 384) } }
  else if t < 16 then { s with fuse := { f with revoked := (t - 8) :: f.revoked } }
  else match t with
    | 0x10 => s.setFld F.CFG_FUSE_STAT.REQ_ENC 0 0 1
    | 0x11 => s.setFld F.CFG_FUSE_STAT.REQ_SIG 0 0 1
    | 0x12 => (s.setFld F.CFG_FUSE_STAT.PERM_LOCK 0 0 1).setFld F.CFG_STATUS.LOCKED 0 0 1
    | _ => s.setFld F.CFG_FUSE_STAT.FUSE_LOCK 0 0 1

/-- FUSE_PROGRAM_DONE (R383): `ok` says whether the read-back agrees; a slot that fails is revoked. -/
def fuseDone (s : State) (t v : Nat) (ok : Bool) : State :=
  let s1 := { s with fuse := { s.fuse with pending := none } }
  if ok then (syncFuses (blowFuse s1 t v)).setFld F.CFG_FUSE_STAT.RES 0 0 0
  else
    let s2 := if t < 8 then { s1 with fuse := { s1.fuse with revoked := t :: s1.fuse.revoked } } else s1
    (syncFuses s2).setFld F.CFG_FUSE_STAT.RES 0 0 4

/-- FUSE_PROGRAM_DONE (R383). -/
def execFuseProgramDone (ok : Bool) (s : State) : Host.Outcome State Fault Refusal :=
  match s.fuse.pending with
  | some p => .next (fuseDone s p.1 p.2 ok)
  | none => .next s

end Sys2Proof.Machine
end

