-- ==== Sys2Proof/Machine/Freeze.lean ====
section
/-! DEFINITION. Freeze and resume (R413-R422). -/

namespace Sys2Proof.Machine

/-- Whether the device mode is one in which a freeze acts: RUN, IDLE, DOZE or SLEEP (R413). -/
def freezeActs (s : State) : Bool :=
  match s.mode with
  | .run | .idle | .doze | .sleep => true
  | _ => false

/-- A freeze is requested (R413-R416): the line rises, the cause is kept, and regions in a low-power state or an entry
wake (Table 16.8). A freeze at once prevails over one at stride end that waits. -/
def raiseFreeze (s : State) (now : Bool) (cause code region : Nat) (rec0 : Word) : State :=
  if !freezeActs s || s.rst.warm == 2 || s.frz.nowReq || (s.frz.endReq && !now) then s
  else
    let f := s.frz
    wakeAll { s with frz := { f with
      endReq := f.endReq || !now, nowReq := now, cause := cause, code := code, region := region, rec0 := rec0 } } 3

/-- Word 0 of a FREEZE record of device scope (Table 17.1). -/
def freezeWord0 : Word := recWord0 0x5402 .device 0 0 0 0 false

/-- A freeze request of device scope. -/
def askFreeze (s : State) (now : Bool) (cause : Nat) : State := raiseFreeze s now cause 0 0 freezeWord0

/-- Strides stop (R415, R416): within a stride, after the last scheduled step executed, or after a boundary. -/
def stopStrides (s : State) : State :=
  let cut := s.time.running && decide (s.time.step ≠ 0)
  let s1 := (List.range 4).foldl (fun s r =>
    let v := s.pw r
    if v.fabOff then s.setPw r { v with resume := none }
    else if s.time.running then s.setPw r { v with offAt := s.instant } else s) s
  swapIfStopped { s1 with
    time := { s1.time with
      running := false, start := none, step := 0
      lastExec := if cut then some s.time.strideNum else s.time.lastExec }
    frz := { s1.frz with partialAt := if cut then some (s.time.step - 1) else none, stopAt := s.instant } }

/-- ERR_FRZ_STAT and ERR_FRZ_STRIDE of the freeze (R418). -/
def freezeStat (s : State) (last : Nat) : State :=
  let f := s.frz
  let s1 := (s.setFld F.ERR_FRZ_STAT.CAUSE 0 0 f.cause).setFld F.ERR_FRZ_STAT.PARTIAL 0 0 (flag f.partialAt.isSome)
  let s2 := (s1.setFld F.ERR_FRZ_STAT.STEP 0 0 (f.partialAt.getD 0)).setFld F.ERR_FRZ_STAT.CODE 0 0 f.code
  (s2.setFld F.ERR_FRZ_STAT.REGION 0 0 f.region).setReg .ERR_FRZ_STRIDE 0 0 (BitVec.ofNat 40 last)

/-- The last stride executed; before any, its number is left open. -/
def lastStride (s : State) : Nat := s.time.lastExec.getD s.fresh.toNat

/-- The device enters FROZEN (R418): the registers, the FREEZE record, the vector of R436 and a FREEZE packet to each
region; an ISOLATE that waits takes effect (R379). Every region's fabric waits for the resume. -/
def enterFrozen (s : State) : State :=
  let n := lastStride s
  let rec_ : ErrRec :=
    { w0 := s.frz.rec0, w1 := BitVec.ofNat 40 n, w2 := BitVec.ofNat 40 (fracOf s.frz.stopAt) }
  let s1 := signal (freezeStat s.used n) 15
  let s2 := (List.range 4).foldl (fun s r => s.setPw r { s.pw r with fabOff := false, resume := none }) s1
  let halt := if s2.frz.locked then 3 else s2.fld F.ERR_FRZ_CFG.HALT
  let s3 := { s2 with
    mode := .frozen
    detected := s2.detected ++ [rec_]
    frz := { s2.frz with endReq := false, nowReq := false, packets := [0, 1, 2, 3], haltMode := halt, halted := [] } }
  (List.range 64).foldl (fun s zi => if (s.zone zi).isoPend && s.zstate zi == 1 then isolateZone s zi else s) s3

/-- TEST follows FROZEN when the freeze was for it (R425). -/
def thenTest (s : State) : State :=
  if s.frz.testReq then
    { s with mode := .test, frz := { s.frz with testReq := false, test := some .frozen } }
  else s

/-- Whether the freeze point is reached: no region is in a low-power state, and the freeze is at once or the boundary
that closes the stride has passed. -/
def freezeReady (s : State) : Bool :=
  freezeActs s && allRun s && !s.load.waking && decide (s.rst.warm ≠ 2) && (s.frz.nowReq || (s.frz.endReq && !s.time.running))

/-! ### The processors (R418) -/

/-- Whether HALT names a processor: 0 none, 1 engines, 2 engines and RS1 to RS3, 3 every processor. -/
def haltNames (halt p : Nat) : Bool :=
  match halt with
  | 0 => false
  | 1 => decide (p < 64)
  | 2 => p != 64
  | _ => true

/-- A FREEZE packet reaches a region: its processors that HALT names are halted, and those that ran are recorded. -/
def freezePacket (s : State) (r : Nat) : State :=
  let ps := (regionProcs r).filter (fun p => haltNames s.frz.haltMode p && decide (1 ≤ s.pstate p ∧ s.pstate p ≤ 4))
  let s1 := ps.foldl haltCmd s
  { s1 with frz := { s1.frz with packets := s.frz.packets.filter (· != r), halted := s.frz.halted ++ ps } }

/-- FREEZE (R418): the packet goes from the device controller to node 13 of the region. -/
def execFreeze (region : Region) (s : State) : Host.Outcome State Fault Refusal :=
  if s.frz.packets.contains region.val then
    .next (freezePacket (travelCtl s 0x16 (2 * 14 + 1) (2 * (16 * region.val + 13) + 1)) region)
  else .next s

/-! ### Commands (R413, R417, R421, R422) -/

/-- A command of ERR_FRZ_CMD reports: OK 0, WRONG_MODE 1, BUSY 2, PIN_HELD 3, PENDING 4. -/
def frzRes (s : State) (res : Nat) : State := s.setFld F.ERR_FRZ_CMD.RES 0 0 res

/-- Whether a freeze command is accepted: not in BLANK, LOADING or TEST. -/
def frzMode (s : State) : Bool := freezeActs s || decide (s.mode = .frozen)

/-- FREEZE_END and FREEZE_NOW. -/
def cmdFreeze (s : State) (now : Bool) : State := if frzMode s then askFreeze (frzRes s 0) now 2 else frzRes s 1

/-- FREEZE_END (R415). -/
def execFreezeEnd (s : State) : Host.Outcome State Fault Refusal := .next (cmdFreeze s false)

/-- FREEZE_NOW (R416). -/
def execFreezeNow (s : State) : Host.Outcome State Fault Refusal := .next (cmdFreeze s true)

/-- ERR_FRZ_STAT.LATE sets. -/
def frzLate (s : State) : State := s.setFld F.ERR_FRZ_STAT.LATE 0 0 1

/-- FREEZE_AT (R417): a time that has passed, or lies less than 1 µs ahead, acts as FREEZE_END on arrival. -/
def cmdFreezeAt (s : State) : State :=
  let t := timeOf (s.reg .ERR_FRZ_TIME_SEC).toNat (s.reg .ERR_FRZ_TIME_FRAC).toNat
  if !frzMode s then frzRes s 1
  else if s.frz.atTime.isSome then frzRes s 4
  else if t < s.instant + 1000 * 1024 then askFreeze (frzLate (frzRes s 0)) false 3
  else { frzRes s 0 with frz := { s.frz with atTime := some t, atFrozen := decide (s.mode = .frozen) } }

/-- FREEZE_AT (R417). -/
def execFreezeAt (s : State) : Host.Outcome State Fault Refusal := .next (cmdFreezeAt s)

/-- FREEZE_AT_TIME (R413, R417): device time has reached the time of a FREEZE_AT; one that was accepted in FROZEN acts only
while strides run. -/
def execFreezeAtTime (s : State) : Host.Outcome State Fault Refusal :=
  match s.frz.atTime with
  | none => .next s
  | some t =>
    let s1 := { s with frz := { s.frz with atTime := none, atFrozen := false } }
    if s.instant < t then .next s
    else if s.frz.atFrozen ∧ s.time.running = false then .next s1
    else .next (askFreeze s1 false 3)

/-- FREEZE_N (R413): its filter has completed, or it rises. -/
def freezePin (s : State) (low : Bool) : State :=
  let s1 := { s with frz := { s.frz with pinLow := low } }
  match low, s.fld F.ERR_FRZ_CFG.PIN_MODE with
  | true, 1 => askFreeze s1 false 1
  | true, 2 => askFreeze s1 true 1
  | _, _ => s1

/-- FREEZE_N (R413). -/
def execFreezeN (low : Bool) (s : State) : Host.Outcome State Fault Refusal := .next (freezePin s low)

/-- Whether a W or G reset runs. -/
def resetRuns (s : State) : Bool := s.rst.warm != 0 || !s.rst.region.isEmpty

/-- The first refusal of R422 that stands, or 0. -/
def resumeRefused (s : State) : Nat :=
  if s.mode ≠ .frozen then 1
  else if s.frz.pinLow ∧ s.fld F.ERR_FRZ_CFG.PIN_MODE ≠ 0 then 3
  else if resetRuns s ∨ s.frz.endReq = true ∨ s.frz.nowReq = true then 2
  else 0

/-- The start command of a resume; one that waits for its first boundary stays (R421). -/
def resumeNow (s : State) : State := if s.time.start.isSome then s else s.startCommand s.instant

/-- RESUME (R421). -/
def cmdResume (s : State) : State :=
  match resumeRefused s with
  | 0 => resumeNow (frzRes s 0)
  | res => frzRes s res

/-- RESUME (R421). -/
def execResume (s : State) : Host.Outcome State Fault Refusal := .next (cmdResume s)

/-- RESUME_AT (R421): a time that has passed acts at once and sets LATE. -/
def cmdResumeAt (s : State) : State :=
  let t := timeOf (s.reg .ERR_RESUME_SEC).toNat (s.reg .ERR_RESUME_FRAC).toNat
  match resumeRefused s with
  | 0 =>
    if s.frz.resumeAt.isSome then frzRes s 4
    else if t < s.instant then resumeNow (frzLate (frzRes s 0))
    else { frzRes s 0 with frz := { s.frz with resumeAt := some t } }
  | res => frzRes s res

/-- RESUME_AT (R421). -/
def execResumeAt (s : State) : Host.Outcome State Fault Refusal := .next (cmdResumeAt s)

/-- RESUME_AT_TIME (R421): device time has reached the time of a RESUME_AT. -/
def execResumeAtTime (s : State) : Host.Outcome State Fault Refusal :=
  match s.frz.resumeAt with
  | none => .next s
  | some t =>
    if t ≤ s.instant then
      let s1 := { s with frz := { s.frz with resumeAt := none } }
      .next (if s.mode = .frozen ∧ resetRuns s = false then resumeNow s1 else s1)
    else .next s

/-- CANCEL_AT (R422). -/
def cmdCancelAt (s : State) : State := { frzRes s 0 with frz := { s.frz with atTime := none, resumeAt := none } }

/-- CANCEL_AT (R422). -/
def execCancelAt (s : State) : Host.Outcome State Fault Refusal := .next (cmdCancelAt s)

/-- A write of ERR_FRZ_CMD; the other commands are none or reserved. -/
def writeFrzCmd (s : State) (w : Word) : State :=
  match bitsOf w.toNat 39 37 with
  | 1 => cmdFreeze s false
  | 2 => cmdFreeze s true
  | 3 => cmdFreezeAt s
  | 4 => cmdResume s
  | 5 => cmdResumeAt s
  | 6 => cmdCancelAt s
  | _ => s

/-- What a resume adds to the boundary that opens stride `n` (R421): the device is in RUN, the processors the freeze
halted run, and ERR_FRZ_MISSED holds the strides not executed. -/
def resumeAtBoundary (s : State) (n : Nat) : State :=
  let missed := match s.time.lastExec with | some k => n - k - 1 | none => n
  let s1 := s.setReg .ERR_FRZ_MISSED 0 0 (BitVec.ofNat 40 missed)
  let s2 := { s1 with mode := .run, frz := { s1.frz with packets := [], halted := [], locked := false } }
  s.frz.halted.foldl runCmd s2

end Sys2Proof.Machine
end

