-- ==== Sys2Proof/Machine/Reset.lean ====
section
/-! DEFINITION. The reset classes P, C, W, G and Z (R400-R402) and the stop of a freeze, after which a G reset begins. -/

namespace Sys2Proof.Machine

/-! ### Register fields by reset class (R9) -/

/-- Whether a reset class restores the field that a pending RWQ value is for. -/
def RwqEntry.restored (e : RwqEntry) (cls : RClass) (r : Reg) : Bool :=
  r.fields.any (fun f => f.hi == e.hi && f.lo == e.lo && f.by_.contains cls)

/-- The slots that a predicate names, with the fields of a reset class at their reset values. Fields with configured
values keep what the slot holds; their own operation restores them. A value pending in a field that the class restores is
discarded, the others stay pending (R8). -/
def resetSlots (cls : RClass) (p : RegRef → Bool) (s : State) : State :=
  { s with
    rwq := s.rwq.filter (fun e => match decodeReg e.addr with | some q => !(p q && e.restored cls q.reg) | none => true)
    regs := s.regs.filterMap (fun e =>
      match decodeReg e.1 with
      | none => some e
      | some q =>
        if p q then
          let w := BitVec.ofNat 40 (q.reg.fields.foldl (resetField cls) e.2.toNat)
          if w = q.reg.resetWord q.unit q.idx then none else some (e.1, w)
        else some e) }

/-- Whether a register slot belongs to a region: its region block or one of its tiles. -/
def slotOf (r : Nat) (q : RegRef) : Bool :=
  match q.reg.place.blk with
  | .dev => false
  | .region => q.unit == r
  | _ => q.unit / 16 == r

/-! ### An entry cut by a reset (Table 16.8) -/

/-- The steps of an entry are undone at once: nodes online, lanes ON, processors and fabric no longer held. -/
def undoEntry (s : State) (r : Nat) : State :=
  let s1 := (stateNodes r (s.pw r).goal).foldl (fun s n => setNode s n 0) (setPhase s r 0 0)
  let s2 := moveLanes (startProcs (s1.setFld F.PWR_STAT.DELAY r 0 0) r) r 0
  s2.setPw r { s2.pw r with rails := [], good := [], retried := [], runReq := false }

/-- An entry in progress completes with RESET. -/
def cutEntry (s : State) (r : Nat) : State :=
  if s.pdir r = 1 ∨ s.pdir r = 3 then completeReq (undoEntry s r) r 7 else s

/-! ### The units of a region (Table 16.9, R402) -/

/-- The counters and lists of a lane that back fields of classes W and G. -/
def LaneSt.wReset (v : LaneSt) : LaneSt :=
  { v with chkBits := 0, chkErrs := 0, fecCw := 0, tsFifo := [], injLeft := 0, histLeft := none, feedOn := false
           feedNew := false, snapEnd := none, trigSec := 0, fsSec := 0, txInj := [], rxInj := [], detQ := [] }

/-- ABORTED of Table 13.5. -/
def arAborted : Nat := 10

/-- Archive commands that are queued complete with ABORTED, and a WRITE in progress creates no object (R333). -/
def abortArchive (s : State) (r : Nat) : State :=
  let a := s.arc r
  let made := a.cmds.filterMap (fun c =>
    if c.op = 1 then c.done.map (fun d => d.2.1) else none)
  s.setArc r { a with
    objs := a.objs.filter (fun o => !made.contains o.num)
    cmds := a.cmds.map (fun c =>
      if c.done.isSome && c.op != 1 then c else { c with done := some (arAborted, 0, 0, 0) }) }

/-- The gun queue and launch log of a region emptied without firing or logging (R69). -/
def clearGuns (s : State) (r : Nat) : State :=
  let a := regAddr .TIM_LOG r 0
  { s with guns := s.guns.filter (fun g => g.region != r), regs := mclear s.regs a (8 * Reg.TIM_LOG.place.count) }

/-- Whether a source identifier is one of the units beside the processors that the W sequence of a region resets: its
acquisition controller, trace unit and archive engine (Table 12.2). -/
def unitSrc (r src : Nat) : Bool := src == 0x44 + r || src == 0x48 + r || src == 0x50 + r

/-- The W sequence of a region begins: its units stop, and the fields of the class take their reset values. -/
def beginRegion (s : State) (cls : RClass) (r : Nat) : State :=
  let s0 := orphan (clearGuns s r) (fun src _ => unitSrc r src)
  let s1 := (regionProcs r).foldl (fun s p => startEReset s p false) s0
  let s2 := dropZoneCommands (abortArchive s1 r) r
  let s3 := resetSlots cls (slotOf r) s2
  let s4 := (List.range 16).foldl (fun s c => abandonHeat s r c) s3
  let s5 := (List.range 12).foldl (fun s l => s.setLane (12 * r + l) (s.lane (12 * r + l)).wReset) s4
  let s6 := ((s5.setTrcUnit r { bufErr := (s5.trcUnit r).bufErr }).setTrig r {})
  (List.range 16).foldl (fun s c => syncAcq s r c)
    { s6 with fifos := merase s6.fifos r, net := { s6.net with staged := merase s6.net.staged r } }

/-- The cells, queues and engines' boot words of a tile restored from the retained configuration (R89, R135, R177); a
scrub pass of its cells starts anew (R93). -/
def restoreTile (s : State) (t : Nat) : State :=
  let s1 := applyConf (restoreQueues (restoreCells s t) t) .SE_BOOT t 0
  { s1 with fab := { s1.fab with passes := without (fun k => k / 1024 == t) s1.fab.passes
                                 scrubPos := without (fun k => k / 1024 == t) s1.fab.scrubPos } }

/-- The W sequence of a region ends: cells, queues and domains restored, and its processors leave the reset. -/
def endRegion (s : State) (r : Nat) : State :=
  let s1 := (List.range 16).foldl (fun s t => restoreTile s (16 * r + t)) s
  let s2 := (List.range 272).foldl (fun s d => applyConf s .RTE_DOM r d) s1
  gunsHeld ((regionProcs r).foldl endEReset (applyConf s2 .SUP_BOOT r 0)) (fun e => e.region == r)

/-- RST_CAUSE of the reset that has completed. -/
def rstCause (s : State) (cls src : Nat) : State :=
  (s.setFld F.RST_CAUSE.CLASS 0 0 cls).setFld F.RST_CAUSE.SRC 0 0 src

/-! ### W (R22, R400) -/

/-- Whether a W reset ends in BLANK (R22). -/
def warmBlank (s : State) : Bool :=
  match s.mode with
  | .blank | .loading => true
  | .test => decide (s.frz.test = some .blank)
  | _ => false

/-- The W sequence begins, with every region in RUN: the strides stop at once. A RESUME_AT or FREEZE_AT that waits goes on
waiting: DESIGN CHOICE (log entry 76). -/
def startWarm (s : State) : State :=
  let s1 := stopStrides s
  let f := s1.frz
  let s2 := { s1 with
    frz := { f with endReq := false, nowReq := false, testReq := false, cause := 6, code := 0, region := 0, rec0 := freezeWord0 }
    time := { s1.time with tsFifo := [] }
    rst := { s1.rst with warm := 2, region := [] } }
  let s3 := resetSlots .W (fun q => match q.reg.place.blk with | .dev => true | _ => false) s2
  (List.range 4).foldl (fun s r => beginRegion s .W r) s3

/-- A W reset is ordered (R400): a load ends with ABORTED, entries complete with RESET, and regions in a low-power state
wake first (Table 16.8). -/
def warmReset (s : State) (src : Nat) : State :=
  if s.rst.warm ≠ 0 ∨ s.rst.cold = true then s
  else
    let blank := warmBlank s
    let s1 := endLoad s 0 5
    let s2 := (List.range 4).foldl cutEntry { s1 with rst := { s1.rst with warm := 1, toBlank := blank, src := src } }
    if allRun s2 then startWarm s2 else (List.range 4).foldl (fun s r => wakeRegion s r 15 7) s2

/-- WARM_RESET (R400): `source` is RST_CAUSE.SRC, 3 WARM_N, 4 command, 5 watchdog or 7 escalation. -/
def execWarmReset (source : Fin 16) (s : State) : Host.Outcome State Fault Refusal := .next (warmReset s source)

/-- The W reset ends in FROZEN, or in BLANK when no configuration is kept (R22). -/
def warmEnd (s : State) : State :=
  let s1 := (List.range 4).foldl endRegion s
  let s2 := rstCause (s1.addSat F.RST_CAUSE.WARM_COUNT 0 0) 3 s.rst.src
  let s3 := { s2.emitDev 0x5301 with rst := {}, jtag := { s2.jtag with drive := 0 } }
  if s.rst.toBlank then updDone { s3 with mode := .blank, frz := { s3.frz with test := none } }
  else if s.mode = .frozen then s3
  else enterFrozen { s3 with frz := { s3.frz with test := none } }

/-! ### G (R400) -/

/-- The stage of a G reset of a region: 0 none, 1 waits for the freeze, 2 running. -/
def State.gStage (s : State) (r : Nat) : Nat := mget 0 s.rst.region r

/-- The state with the stage of a G reset set. -/
def State.setG (s : State) (r v : Nat) : State := { s with rst := { s.rst with region := mset 0 s.rst.region r v } }

/-- A partial load whose zone is named ends with CAUSE ABORTED (R381). -/
def cutPartial (s : State) (hit : Nat → Bool) : State :=
  if s.load.kind = 2 ∧ s.load.hdr ≠ [] ∧ hit s.load.zone = true then endLoad s 0 5 else s

/-- The units of a region begin the W sequence; a partial load of one of its zones ends as at a W reset (log entry 34). -/
def startRegion (s : State) (r : Nat) : State :=
  beginRegion (cutPartial (s.setG r 2) (fun zi => decide (zi / 16 = r))) .G r

/-- A G reset of a region is ordered: the device freezes at once, and the region's units then follow the W sequence. In
FROZEN, BLANK, LOADING and TEST they follow it at once. -/
def regionReset (s : State) (r src : Nat) : State :=
  if s.rst.warm ≠ 0 ∨ s.rst.cold = true ∨ s.gStage r ≠ 0 then s
  else
    let s1 := cutEntry { s with rst := { s.rst with rsrc := src } } r
    if freezeActs s1 then raiseFreeze (s1.setG r 1) true 6 0 r freezeWord0 else startRegion s1 r

/-- REGION_RESET (R400): `source` is RST_CAUSE.SRC. -/
def execRegionReset (region : Region) (source : Fin 16) (s : State) : Host.Outcome State Fault Refusal :=
  .next (regionReset s region source)

/-- A G reset completes and records REGION_RESET (R403). -/
def regionResetEnd (s : State) (r : Nat) : State :=
  let s1 := (rstCause (endRegion s r) 4 s.rst.rsrc).setFld F.RST_CAUSE.REGION 0 0 r
  (s1.emitRegion 0x5302 r).setG r 0

/-! ### The stop of a freeze (R415, R416) -/

/-- Every region stops at the freeze point and the device enters FROZEN; G resets that wait for it begin. -/
def freezeStop (s : State) : State :=
  let s1 := thenTest (enterFrozen (stopStrides s))
  (List.range 4).foldl (fun s r => if s.gStage r = 1 then startRegion s r else s) s1

/-- FREEZE_STOP (R415, R416). -/
def execFreezeStop (s : State) : Host.Outcome State Fault Refusal :=
  if freezeReady s then .next (freezeStop s) else .next s

/-! ### Z (R379, R400) -/

/-- A Z reset of a zone is ordered; an undeclared zone is ignored (Table 16.16), and a partial load of the zone ends
(R381). -/
def zoneReset (s : State) (zi src : Nat) : State :=
  if s.zstate zi = 0 ∨ (s.zone zi).zreset = true ∨ s.rst.warm ≠ 0 ∨ s.rst.cold = true then s
  else
    let r := zi / 16
    let cut := s.pdir r = 1 ∨ s.pdir r = 3
    let s0 := if cut then startFabric (cutEntry s r) r else s
    let s1 := cutPartial s0 (· == zi)
    let s2 := setPrimed { s1 with rst := { s1.rst with rsrc := src } } zi 0
    let s3 := s2.setZone zi { s2.zone zi with zreset := true, restoring := 0 }
    let s4 := (s3.zoneTiles zi).foldl (fun s t => startEReset s t false) s3
    if s.zstate zi = 1 then askIsolate s4 zi else s4

/-- ZONE_RESET by RST_CMD (R400). -/
def execZoneReset (region : Region) (zone : Fin 16) (s : State) : Host.Outcome State Fault Refusal :=
  .next (zoneReset s (16 * region.val + zone.val) 4)

/-- Whether a slot belongs to a zone's tiles, or to its region's block; of RTE_DOM only the zone's table (Table 4.10). -/
def zoneSlot (tiles : List Nat) (r z : Nat) (q : RegRef) : Bool :=
  match q.reg.place.blk with
  | .dev => false
  | .region => q.unit == r && (q.reg != .RTE_DOM || q.idx / 16 == z)
  | _ => tiles.contains q.unit

/-- The restore of the zone's last tile completes: PRIMED sets, and the reset ends. -/
def zoneResetEnd (s : State) (zi : Nat) : State :=
  let r := zi / 16
  let z := zi % 16
  let tiles := s.zoneTiles zi
  let s1 := resetSlots .Z (zoneSlot tiles r z) s
  let s2 := tiles.foldl (fun s t => endEReset (restoreTile s t) t) s1
  let s3 := (List.range 16).foldl (fun s d => applyConf s .RTE_DOM r (16 * z + d)) s2
  let s4 := if s.zstate zi = 2 then setPrimed s3 zi 1 else s3
  let s5 := s4.setZone zi { s4.zone zi with
    zreset := false, startPend := (s4.zone zi).startPend || (s4.zone zi).thenStart, thenStart := false }
  let s6 := ((rstCause s5 5 s.rst.rsrc).setFld F.RST_CAUSE.REGION 0 0 r).setFld F.RST_CAUSE.ZONE 0 0 z
  s6.emit 0x5303 .tile r ((tiles.headD 0) % 16) 0 0

/-- A write of RST_CMD (R404): the key must be 0x9640. -/
def writeRstCmd (s : State) (w : Word) : State :=
  let r := bitsOf w.toNat 36 35
  if bitsOf w.toNat 30 15 ≠ 0x9640 then s.setFld F.RST_STATUS.KEY_ERR 0 0 1
  else match bitsOf w.toNat 39 37 with
    | 1 => warmReset s 4
    | 2 => regionReset s r 4
    | 3 => zoneReset s (16 * r + bitsOf w.toNat 34 31) 4
    | _ => s

/-! ### The watchdog (R174) -/

/-- At TIMEOUT the watchdog issues WDOG; that of RS0 applies a warm reset, the others a region reset. -/
def wdogExpiry (s : State) (r : Nat) : State :=
  let s1 := wdogKick (procEvent s (64 + r) 1) r
  if r = 0 then warmReset s1 5 else regionReset s1 r 5

/-- WDOG (R174). -/
def execWdog (region : Region) (s : State) : Host.Outcome State Fault Refusal :=
  if wdogCounts s region then .next (wdogExpiry s region) else .next s

/-! ### P and C (R400, R402, R362) -/

/-- Which register slots keep their contents in a C reset: memories, the slots of the store, the fuses, RST_CAUSE and what
the archive keeps. -/
def keptInC (r : Reg) : Bool :=
  match r with
  | .SE_IMEM | .SUP_IMEM | .SUP_DMEM | .CFG_SLOT | .CFG_FUSE_STAT | .ARC_NEXT_OBJ | .ARC_HEALTH | .TRG_WIN_LTIME
  | .TRC_BUF | .RST_CAUSE => true
  | _ => false

/-- Which keep them in a P reset: the store, the fuses and what the archive keeps. -/
def keptInP (r : Reg) : Bool :=
  match r with
  | .CFG_SLOT | .CFG_FUSE_STAT | .ARC_NEXT_OBJ | .ARC_HEALTH => true
  | _ => false

/-- The slots a predicate keeps. -/
def keepSlots (p : Reg → Bool) (s : State) : List (Nat × Word) :=
  s.regs.filter (fun e => match decodeReg e.1 with | some q => p q.reg | none => false)

/-- The debug lock stays engaged when PERM_LOCK is blown (R384). -/
def lockPerm (s : State) : State := s.setFld F.CFG_STATUS.LOCKED 0 0 (s.fld F.CFG_FUSE_STAT.PERM_LOCK)

/-- What every P and C reset keeps: the fuses, the configuration store, the objects of the archive, and what lies outside
the part: host memory, sent messages and frames, the levels of pins. -/
def afterReset (s : State) (keep : Reg → Bool) : State :=
  let z : State := {}
  lockPerm { z with
    regs := (({ s with regs := keepSlots keep s } : State).setFld F.CFG_FUSE_STAT.RES 0 0 0).regs
    store := s.store
    fuse := { s.fuse with pending := none }
    arcs := s.arcs.map (fun e => (e.1, { objs := e.2.objs, retired := e.2.retired })) |>.filter (fun e => e.2 != {})
    host := { z.host with mem := s.host.mem, msgs := s.host.msgs, frames := s.host.frames, inReset := s.host.inReset }
    frz := { z.frz with pinLow := s.frz.pinLow }
    free := s.free
    pending := s.pending }

/-- A P reset begins (R400); `src` is 1 VIN or 6 SUPPLY. -/
def powerOn (s : State) (src : Nat) : State := rstCause (afterReset s keptInP) 1 src

/-- POWER_ON_RESET (R400): VIN rises or fails, or `supply`: a rail fault. -/
def execPowerOnReset (supply : Bool) (s : State) : Host.Outcome State Fault Refusal :=
  .next (powerOn s (if supply then 6 else 1))

/-- RESET_N is low (R400): every unit is held in reset; memories keep their contents. -/
def coldReset (s : State) : State :=
  let c := afterReset s keptInC
  let s1 := rstCause { c with
    mem := s.mem, memErr := s.memErr, imemPar := s.imemPar, module := s.module, jtag := { s.jtag with drive := 0 }
    rst := { cold := true } } 2 2
  let s2 := (s1.setFld F.HST_CTRL.SMB_ADDR 0 0 (s.fld F.HST_CTRL.SMB_ADDR)).setFld F.RST_STATUS.P_DONE 0 0
    (s.fld F.RST_STATUS.P_DONE)
  (s2.setFld F.CFG_STATUS.BOOT_SRC 0 0 (s.fld F.CFG_STATUS.BOOT_SRC)).setFld F.CFG_STATUS.PULL_SEL 0 0
    (s.fld F.CFG_STATUS.PULL_SEL)

/-- COLD_RESET (R400). -/
def execColdReset (s : State) : Host.Outcome State Fault Refusal := .next (coldReset s)

/-- The end of a P or C reset (R362, R320): the straps are sampled, the clocks are locked, the memory channels are trained
but for those named, and the device acts on BOOT_SRC (Table 15.1). -/
def bootUp (s : State) (boot pull : Nat) (untrained : List (Fin 4 × Fin 8)) : State :=
  let s1 := (s.setFld F.TIM_STATUS.TB_LOCK 0 0 1).setFld F.TIM_STATUS.STEP_LOCK 0 0 1
  let s2 := (List.range 4).foldl (fun s r =>
    s.setFld F.MEM_STATUS.READY r 0 (flag (untrained.all (fun c => c.1.val != r)))) s1
  let s3 := untrained.foldl (fun s c => memEvent s c.1 5 c.2 0xFF 0) s2
  let s4 := (s3.setFld F.CFG_STATUS.BOOT_SRC 0 0 boot).setFld F.CFG_STATUS.PULL_SEL 0 0 pull
  let s5 := updDone (s4.setFld F.CFG_STATUS.STRAP_ERR 0 0 (flag (decide (5 ≤ boot))))
  match boot with
  | 1 => beginFull s5 1 false
  | 3 => { s5 with rst := { s5.rst with relayWait := true } }
  | _ => s5

/-- P_DONE (R400): the P sequence is complete. A tripped module stays in it (R458). -/
def execPDone (boot : BitVec 3) (pull : BitVec 2) (untrained : List (Fin 4 × Fin 8)) (s : State) :
    Host.Outcome State Fault Refusal :=
  if s.on F.RST_STATUS.P_DONE ∨ s.module.tripped = true then .next s
  else .next (bootUp (s.setFld F.RST_STATUS.P_DONE 0 0 1) boot.toNat pull.toNat untrained)

/-- COLD_RESET_RELEASE (R400): the rising edge of RESET_N. -/
def execColdResetRelease (boot : BitVec 3) (pull : BitVec 2) (untrained : List (Fin 4 × Fin 8)) (s : State) :
    Host.Outcome State Fault Refusal :=
  if s.rst.cold then .next (bootUp { s with rst := { s.rst with cold := false } } boot.toNat pull.toNat untrained)
  else .next s

end Sys2Proof.Machine
end

