-- ==== Sys2Proof/Machine/Exit.lean ====
section
/-! DEFINITION. The entry and exit steps as commands (R393, R397), with what waits for every region to be in RUN. -/

namespace Sys2Proof.Machine

/-- When the last region has reached RUN, a full load or a W reset that waited for it begins (Table 16.8). -/
def afterWake (s : State) : State :=
  if !allRun s then s
  else if s.load.waking then loadStep1 s
  else if s.rst.warm = 1 then startWarm s
  else s

/-- X3: the nodes return to ONLINE and the lanes to ON. -/
def exitNodes (s : State) (r : Nat) : State :=
  moveLanes ((stateNodes r (s.pstateR r)).foldl (fun s n => setNode s n 0) s) r 0

/-- Whether a lane of the region has not completed its return to ON (R244). -/
def lanesWake (s : State) (r : Nat) : Bool := (List.range 12).any (fun l => (s.lane (12 * r + l)).waking)

/-- X5: the region reports RUN, its processors issue, and the start command falls (R389, R397). -/
def exitDone (s : State) (r : Nat) : State :=
  let v := s.pw r
  let s1 := (setPhase s r 0 0).setFld F.PWR_STAT.STATE r 0 0
  let s2 := s1.setFld F.PWR_TIMES.EXIT r 0 (microsFrom s v.began)
  let s3 := powerMode (startFabric (startProcs (s2.setPw r { v with runReq := false }) r) r)
  afterWake (if v.runReq then completeReq s3 r 0 else signal s3 (10 + r))

/-- One exit step of Table 16.7: X1 9, X2 10, X3 11, X4 12, X5 13. IDLE has no X3. -/
def exitStep (s : State) (r : Nat) : State :=
  match s.fld F.PWR_STAT.STEP r with
  | 9 => if (s.pw r).rails.isEmpty then setPhase s r 2 10 else s
  | 10 => if s.pstateR r = 1 then setPhase s r 2 13 else exitNodes (setPhase s r 2 11) r
  | 11 => if lanesWake s r then s else setPhase s r 2 12
  | 12 => setPhase s r 2 13
  | _ => exitDone s r

/-- EXIT_STEP (R397). -/
def execExitStep (region : Region) (s : State) : Host.Outcome State Fault Refusal :=
  if s.pdir region = 2 then .next (exitStep s region) else .next s

end Sys2Proof.Machine
end

