-- ==== Sys2Proof/Machine/Faults.lean ====
section
/-! DEFINITION. The aggregators and escalation (R405-R410), injection (R411, R412), and the JTAG port and TEST but for
MEMACC (R423, R425). -/

namespace Sys2Proof.Machine

/-! ### Aggregators (R407, R408) -/

/-- A stored copy of a record: LOSS says that the aggregator lost records since the copy before it. -/
def lossWord (s : State) (agg : Nat) (w0 : Word) : Word :=
  BitVec.ofNat 40 (putBits w0.toNat 3 3 (flag (s.lossy.contains agg)))

/-- An aggregator has stored a copy, or lost a record. -/
def setLossy (s : State) (agg : Nat) (lost : Bool) : State :=
  { s with lossy := if lost then (if s.lossy.contains agg then s.lossy else agg :: s.lossy) else s.lossy.filter (· != agg) }

/-- The FIFO of a region aggregator. -/
def State.fifo (s : State) (r : Nat) : List ErrRec := mget [] s.fifos r

/-- The state with a region FIFO set and its count shown. -/
def State.setFifo (s : State) (r : Nat) (l : List ErrRec) : State :=
  { s with fifos := mset [] s.fifos r l }.setFld F.ERR_REG_STAT.COUNT r 0 l.length

/-- A record stored in a region's FIFO of 32 (R407); the FIFO is wake source 6 of its region (R396). -/
def storeRegion (s : State) (r : Nat) (e : ErrRec) : State :=
  let l := s.fifo r
  let s1 :=
    if l.length < 32 then setLossy (s.setFifo r (l ++ [{ e with w0 := lossWord s r e.w0 }])) r false
    else setLossy (s.addSat F.ERR_REG_STAT.LOST r 0) r true
  wakeEvent s1 r 6

/-- A record stored in the device ring of 256 entries of 4 slots (R408). -/
def storeDevice (s : State) (e : ErrRec) : State :=
  if 256 ≤ devOcc s then setLossy (s.addSat F.ERR_DEV_STAT.LOST 0 0) 4 true
  else
    let i := s.fld F.ERR_DEV_HEAD.COUNT % 256
    let s1 := putSlots .ERR_DEV_LOG 0 (4 * i)
      [lossWord s 4 e.w0, e.w1, e.w2, BitVec.ofNat 40 (secOf s.instant)] s
    let s2 := setLossy (s1.addWrap F.ERR_DEV_HEAD.COUNT 0 0) 4 false
    levelIrq s (if mfrBit s then s2 else alert s2) 0

/-! ### Escalation (R409, R410) -/

/-- The policy entry of an event code. -/
def policyIndex (code : Nat) : Nat := ((code / 0x1000 - 1) * 16 + code / 0x100 % 16) * 16 + code % 16

/-- The action a record calls for: the policy entry's, or for contention the stronger of it and CONT_POL. -/
def recordAction (s : State) (code region : Nat) : Nat :=
  let a := s.fld F.ERR_POL.ACTION 0 (policyIndex code)
  if (code = 0x2001 ∨ code = 0x2002) ∧ s.fld F.RTE_CTRL.CONT_POL region = 1 then Nat.max a 1 else a

/-- Word 0 of the FREEZE record of an escalation: the scope and coordinate of the unit that caused it (R418). -/
def escalationWord0 (w0 : Word) : Word := BitVec.ofNat 40 (putBits (putBits w0.toNat 39 24 0x5402) 4 0 0)

/-- An escalation action is taken; in BLANK, LOADING and TEST it is ignored. A stronger action supersedes a weaker one that
has not completed (R410). -/
def escalate (s : State) (action code region : Nat) (w0 : Word) : State :=
  if !frzMode s then s
  else match action with
    | 1 => raiseFreeze s false 4 code region (escalationWord0 w0)
    | 2 => raiseFreeze s true 4 code region (escalationWord0 w0)
    | 3 => if 0x5000 ≤ code then warmReset s 7 else regionReset s region 7
    | 4 => warmReset s 7
    | _ => s

/-- The oldest detected record is judged (R407-R410). -/
def judge (s : State) (e : ErrRec) : State :=
  let code := bitsOf e.w0.toNat 39 24
  let r := bitsOf e.w0.toNat 23 22
  let action := recordAction s code r
  let s1 :=
    if 0x5000 ≤ code then storeDevice s e
    else
      let s2 := storeRegion s r e
      if s.on F.ERR_POL.QUIET 0 (policyIndex code) then s2 else storeDevice s2 e
  escalate s1 action code r e.w0

/-- The packets of a record (R407): from the unit's node to node 13 of its region, and on to the device's aggregator behind
0:14 where it is forwarded. Which port a unit without a tile uses is that of node 13 (log entry 37). -/
def recordTravels (s : State) (w0 : Word) : State :=
  let code := bitsOf w0.toNat 39 24
  let r := bitsOf w0.toNat 23 22
  let agg := 2 * (16 * r + 13) + 1
  if 0x5000 ≤ code then s
  else
    let s1 := if bitsOf w0.toNat 7 5 ≤ 1 then s else travelCtl s 0x15 (2 * (16 * r + bitsOf w0.toNat 21 18)) agg
    if s.on F.ERR_POL.QUIET 0 (policyIndex code) then s1 else travelCtl s1 0x15 agg (2 * 14 + 1)

/-- RECORD (R407). -/
def execRecord (s : State) : Host.Outcome State Fault Refusal :=
  match s.detected with
  | [] => .next s
  | e :: es => .next (judge (recordTravels { s with detected := es } e.w0) e)

/-- ERR_REG_REC0 read: the oldest record is removed, and its other words are latched (R426). -/
def readRec0 (s : State) (r : Nat) : State :=
  let put (e : ErrRec) (s : State) : State :=
    { ((s.setReg .ERR_REG_REC0 r 0 e.w0).setReg .ERR_REG_REC1 r 0 e.w1).setReg .ERR_REG_REC2 r 0 e.w2 with lastRead := e.w0 }
  match s.fifo r with
  | [] => put ⟨0, 0, 0⟩ s
  | e :: es => put e (s.setFifo r es)

/-- ERR_REG_REC0_READ (R426). -/
def execErrRegRec0Read (region : Region) (s : State) : Host.Outcome State Fault Refusal := .next (readRec0 s region)

/-! ### Injection (R411, Tables 17.3 and 17.4) -/

/-- Whether an armed occasion has not yet occurred. -/
def injArmed (s : State) : Bool :=
  !s.fab.selInj.isEmpty || !s.fab.drvInj.isEmpty || s.fab.injNext.isSome ||
    s.tiles.any (fun e => !e.2.marchFails.isEmpty) || s.procs.any (fun e => !e.2.dmaInj.isEmpty) ||
    s.lanes.any (fun e => e.2.pllInj || e.2.cdrInj) || s.heats.any (fun e => e.2.writeErr) ||
    s.arcs.any (fun e => e.2.uncorr || e.2.prog) || s.railInj.isSome || decide (s.instant < s.time.tlIgnore) ||
    decide (s.instant < s.refAbsent) || !s.net.crcInj.isEmpty || s.net.fmtInj.isSome

/-- The target of ERR_INJ_TGT: flat tile, cluster and cell field. -/
def injTile (s : State) : Nat := 16 * s.fld F.ERR_INJ_TGT.REGION + s.fld F.ERR_INJ_TGT.TILE

/-- The flat cluster. -/
def injCluster (s : State) : Nat := 16 * injTile s + s.fld F.ERR_INJ_TGT.CLUSTER

/-- The processor of kinds 0x09 and 0x0A: the engine of the tile, or the supervisor of its region. -/
def injProc (s : State) : Nat := if s.fld F.ERR_INJ_TGT.CELL = 1 then 64 + s.fld F.ERR_INJ_TGT.REGION else injTile s

/-- The inverted bits that ARG names: bit B, and with ARG[39] also bit B + 1. -/
def injMask (arg : Nat) : Nat := 2 ^ bitsOf arg 5 0 + (if bitOf arg 39 then 2 ^ (bitsOf arg 5 0 + 1) else 0)

/-- Whether bit B is out of its range. -/
def injBitBad (arg : Nat) : Bool := decide ((if bitOf arg 39 then 45 else 46) < bitsOf arg 5 0)

/-- Whether the target has no such unit or an ARG field is out of its range (Table 17.4). -/
def injTargetBad (s : State) (kind arg : Nat) : Bool :=
  let sup := s.fld F.ERR_INJ_TGT.CELL == 1
  let tile := s.fld F.ERR_INJ_TGT.TILE
  match kind with
  | 0x01 => injBitBad arg
  | 0x04 => !isLine (bitsOf arg 9 5)
  | 0x05 => decide (40 ≤ bitsOf arg 6 0 ∧ bitsOf arg 6 0 < 64)
  | 0x06 => injBitBad arg || decide (12 ≤ bitsOf arg 9 6)
  | 0x07 => injBitBad arg
  | 0x08 => decide (6 ≤ bitsOf arg 16 14)
  | 0x09 => decide (2 ≤ s.fld F.ERR_INJ_TGT.CELL) || decide (imemWords (injProc s) ≤ bitsOf arg 14 0)
  | 0x0A => decide (2 ≤ s.fld F.ERR_INJ_TGT.CELL) || (sup && decide (2 ≤ bitsOf arg 1 0)) ||
      decide (bitsOf arg 7 4 = 0 ∨ 12 < bitsOf arg 7 4)
  | 0x0B => decide (12 ≤ tile)
  | 0x0C => decide (12 ≤ tile)
  | 0x0D => decide (bitsOf arg 5 2 = 0)
  | 0x12 => !(decide (bitsOf arg 5 0 < 4) || decide (8 ≤ bitsOf arg 5 0 ∧ bitsOf arg 5 0 < 20))
  | _ => false

/-- The first refusal of R411 that stands, or 0: BAD_KIND 1, BAD_TARGET 2, BUSY 3, LOCKED 4, WRONG_MODE 5. -/
def injRefused (s : State) (kind arg : Nat) : Nat :=
  if s.on F.CFG_STATUS.LOCKED then 4
  else if kind = 0 ∨ 0x14 < kind then 1
  else if injTargetBad s kind arg then 2
  else if kind ≤ 5 ∧ (s.mode = .blank ∨ s.mode = .loading) then 5
  else if injArmed s then 3
  else 0

/-- Bits of a stored data-memory entry inverted; the check bits stay as they were. -/
def injData (s : State) (arg : Nat) : State :=
  let ci := 64 * injCluster s + s.fld F.ERR_INJ_TGT.CELL
  let w := bitsOf arg 15 6
  let e := if bitOf arg 16 then 1 - s.committed ci w else s.committed ci w
  let k := entryIx ci w e
  { s with fab := { s.fab with dmemErr := mset 0 s.fab.dmemErr k (mget 0 s.fab.dmemErr k ^^^ injMask arg) } }

/-- The parity bit of half an instruction row inverted. -/
def injRow (s : State) (arg : Nat) : State :=
  let k := 2048 * (64 * injCluster s + s.fld F.ERR_INJ_TGT.CELL) + bitsOf arg 11 1
  { s with fab := { s.fab with ipar := mset 0 s.fab.ipar k (mget 0 s.fab.ipar k ^^^ 2 ^ bitsOf arg 0 0) } }

/-- A select or line-drive injection is put into the schedule of the next stride: at once when no stride is in progress,
and otherwise at the boundary. -/
def armSel (fab : Fabric) (k : Nat) (src : Option Nat) : Fabric :=
  match src with
  | some i => { fab with selInj := mset 0 fab.selInj k (2 ^ i) }
  | none => { fab with drvInj := mset false fab.drvInj k true }

/-- SEL_MULTI and LINE_MULTI in a step of the next executed stride. -/
def injSel (s : State) (arg : Nat) (line : Bool) : State :=
  let k := 32 * entryOf (injCluster s) (bitsOf arg 20 10) + bitsOf arg 9 5
  let src := if line then none else some (bitsOf arg 4 0)
  if s.time.running ∧ s.time.step ≠ 0 then { s with fab := { s.fab with injNext := some (k, src) } }
  else { s with fab := armSel s.fab k src }

/-- At a boundary an occasion that the closed stride did not have is over, and the one for the next stride is armed. -/
def injBoundary (s : State) : State :=
  let fab := { s.fab with selInj := [], drvInj := [], injNext := none }
  { s with fab := match s.fab.injNext with | some x => armSel fab x.1 x.2 | none => fab }

/-- The parity of a part of a schedule entry inverted. -/
def injSpar (s : State) (arg : Nat) : State :=
  let p := bitsOf arg 6 0
  let k := 104 * entryOf (injCluster s) (bitsOf arg 17 7) + (if p < 40 then p else p - 24)
  { s with fab := { s.fab with spar := mset false s.fab.spar k (!mget false s.fab.spar k) } }

/-- Bits of a queue-memory or scratchpad word inverted. -/
def injWord (s : State) (a arg : Nat) : State := { s with memErr := mset 0 s.memErr a (mget 0 s.memErr a ^^^ injMask arg) }

/-- The parity bit of a processor's instruction word inverted. -/
def injImem (s : State) (arg : Nat) : State :=
  let a := regAddr (imemReg (injProc s)) (procUnit (injProc s)) (bitsOf arg 14 0)
  { s with imemPar := mset false s.imemPar a (!mget false s.imemPar a) }

/-- What an accepted injection does (Table 17.4). -/
def injFault (s : State) (kind arg : Nat) : State :=
  let t := injTile s
  let r := s.fld F.ERR_INJ_TGT.REGION
  let l := tileLane t
  match kind with
  | 0x01 => injData s arg
  | 0x02 => injRow s arg
  | 0x03 => injSel s arg false
  | 0x04 => injSel s arg true
  | 0x05 => injSpar s arg
  | 0x06 => injWord s (qmAddr t (bitsOf arg 24 10) (bitsOf arg 9 6)) arg
  | 0x07 => injWord s (spdAddr t (bitsOf arg 22 6)) arg
  | 0x08 =>
    let v := mget {} s.tiles t
    { s with tiles := mset {} s.tiles t { v with marchFails := [(bitsOf arg 16 14, bitsOf arg 13 0)] } }
  | 0x09 => injImem s arg
  | 0x0A =>
    let p := injProc s
    s.setProc p { s.proc p with dmaInj := [(bitsOf arg 1 0, bitsOf arg 7 4)] }
  | 0x0B => fireLockInj (s.setLane l { s.lane l with pllInj := true }) l
  | 0x0C => fireLockInj (s.setLane l { s.lane l with cdrInj := true }) l
  | 0x0D => { s with net := { s.net with crcInj := minsert s.net.crcInj (4 * t + bitsOf arg 1 0) (bitsOf arg 5 2) } }
  | 0x0E => { s with net := { s.net with fmtInj := some t } }
  | 0x0F => s.setCh r (bitsOf arg 3 0) { s.ch r (bitsOf arg 3 0) with writeErr := true }
  | 0x10 => s.setArc r { s.arc r with uncorr := true }
  | 0x11 => s.setArc r { s.arc r with prog := true }
  | 0x12 => { s with railInj := some (bitsOf arg 5 0) }
  | 0x13 => { s with time := { s.time with tlIgnore := s.instant + 10000 * 1024 } }
  | 0x14 => { s with refAbsent := s.instant + 20000 * 1024 }
  | _ => s

/-- A write of ERR_INJ_CTRL: a reserved KIND is not stored, and with GO the injection is judged and made (R411). -/
def injWrite (s : State) (kind : Nat) (go : Bool) : State :=
  let s1 := if kind = 0 ∨ 0x14 < kind then s else s.setFld F.ERR_INJ_CTRL.KIND 0 0 kind
  if !go then s1
  else
    let arg := (s.reg .ERR_INJ_ARG).toNat
    let res := injRefused s kind arg
    let s2 := s1.setFld F.ERR_INJ_CTRL.RES 0 0 res
    if res = 0 then injFault s2 kind arg else s2

/-- A write of ERR_INJ_CTRL. -/
def writeInj (s : State) (w : Word) : State := injWrite s (bitsOf w.toNat 37 33) (bitOf w.toNat 39)

/-- INJECT_DATA_BIT: ERR_INJ_CTRL written with GO and KIND 0x01 (R411). -/
def execInjectDataBit (s : State) : Host.Outcome State Fault Refusal := .next (injWrite s 0x01 true)
/-- INJECT_INSTRUCTION_PARITY: KIND 0x02. -/
def execInjectInstructionParity (s : State) : Host.Outcome State Fault Refusal := .next (injWrite s 0x02 true)
/-- INJECT_SEL_MULTI: KIND 0x03. -/
def execInjectSelMulti (s : State) : Host.Outcome State Fault Refusal := .next (injWrite s 0x03 true)
/-- INJECT_LINE_MULTI: KIND 0x04. -/
def execInjectLineMulti (s : State) : Host.Outcome State Fault Refusal := .next (injWrite s 0x04 true)
/-- INJECT_SPAR: KIND 0x05. -/
def execInjectSpar (s : State) : Host.Outcome State Fault Refusal := .next (injWrite s 0x05 true)
/-- INJECT_QUEUE_BIT: KIND 0x06. -/
def execInjectQueueBit (s : State) : Host.Outcome State Fault Refusal := .next (injWrite s 0x06 true)
/-- INJECT_SCRATCHPAD_BIT: KIND 0x07. -/
def execInjectScratchpadBit (s : State) : Host.Outcome State Fault Refusal := .next (injWrite s 0x07 true)
/-- INJECT_MARCH_FAIL: KIND 0x08. -/
def execInjectMarchFail (s : State) : Host.Outcome State Fault Refusal := .next (injWrite s 0x08 true)
/-- INJECT_ENGINE_PARITY: KIND 0x09. -/
def execInjectEngineParity (s : State) : Host.Outcome State Fault Refusal := .next (injWrite s 0x09 true)
/-- INJECT_DMA_ERR: KIND 0x0A. -/
def execInjectDmaErr (s : State) : Host.Outcome State Fault Refusal := .next (injWrite s 0x0A true)
/-- INJECT_PLL_LOSS: KIND 0x0B. -/
def execInjectPllLoss (s : State) : Host.Outcome State Fault Refusal := .next (injWrite s 0x0B true)
/-- INJECT_CDR_LOSS: KIND 0x0C. -/
def execInjectCdrLoss (s : State) : Host.Outcome State Fault Refusal := .next (injWrite s 0x0C true)
/-- INJECT_LINK_CRC: KIND 0x0D. -/
def execInjectLinkCrc (s : State) : Host.Outcome State Fault Refusal := .next (injWrite s 0x0D true)
/-- INJECT_NOC_FORMAT: KIND 0x0E. -/
def execInjectNocFormat (s : State) : Host.Outcome State Fault Refusal := .next (injWrite s 0x0E true)
/-- INJECT_HEAT_WRITE_ERR: KIND 0x0F. -/
def execInjectHeatWriteErr (s : State) : Host.Outcome State Fault Refusal := .next (injWrite s 0x0F true)
/-- INJECT_ARC_UNCORR: KIND 0x10. -/
def execInjectArcUncorr (s : State) : Host.Outcome State Fault Refusal := .next (injWrite s 0x10 true)
/-- INJECT_ARC_PROG_FAIL: KIND 0x11. -/
def execInjectArcProgFail (s : State) : Host.Outcome State Fault Refusal := .next (injWrite s 0x11 true)
/-- INJECT_REG_TIMEOUT: KIND 0x12. -/
def execInjectRegTimeout (s : State) : Host.Outcome State Fault Refusal := .next (injWrite s 0x12 true)
/-- INJECT_TL_LOST: KIND 0x13. -/
def execInjectTlLost (s : State) : Host.Outcome State Fault Refusal := .next (injWrite s 0x13 true)
/-- INJECT_REF_LOST: KIND 0x14. -/
def execInjectRefLost (s : State) : Host.Outcome State Fault Refusal := .next (injWrite s 0x14 true)

/-! ### TEST and the JTAG port (R19, R423, R425) -/

/-- The device takes TEST at once from BLANK or FROZEN; a start that a resume has begun is over (R19, R21). -/
def takeTest (s : State) : State :=
  { s with mode := .test, frz := { s.frz with test := some s.mode }, time := { s.time with start := none } }

/-- A scan instruction under the debug lock: FROZEN with every processor halted, or BLANK (R425). -/
def lockedScan (s : State) : State :=
  match s.mode with
  | .blank => s
  | .loading => endLoad s 0 5
  | .frozen => { s with frz := { s.frz with packets := [0, 1, 2, 3], haltMode := 3 } }
  | .test => s
  | _ => askFreeze { s with frz := { s.frz with locked := true } } true 2

/-- A scan instruction becomes the current one (R425). -/
def enterTest (s : State) : State :=
  if s.on F.CFG_STATUS.LOCKED then lockedScan s
  else match s.mode with
    | .blank => takeTest s
    | .frozen => takeTest s
    | .loading => takeTest (endLoad s 0 5)
    | .test => s
    | _ => askFreeze { s with frz := { s.frz with testReq := true } } true 2

/-- A scan instruction: the current instruction, what drives the lands, and TEST. -/
def scanInsn (s : State) (ir drive : Nat) : State := enterTest { s with jtag := { s.jtag with ir := ir, drive := drive } }

/-- A scan of the boundary-scan register: the lands are captured, and the value shifted in is updated. -/
def scanDr (s : State) (lands next : Nat) : State := { s with jtag := { s.jtag with tdo := lands, bsr := next } }

/-- EXTEST (R425): the cells drive the lands; one scan of the boundary-scan register. -/
def execExtest (lands next : Nat) (s : State) : Host.Outcome State Fault Refusal := .next (scanDr (scanInsn s 0x00 1) lands next)

/-- EXTEST_PULSE (R425). -/
def execExtestPulse (lands next : Nat) (s : State) : Host.Outcome State Fault Refusal :=
  .next (scanDr (scanInsn s 0x05 1) lands next)

/-- EXTEST_TRAIN (R425). -/
def execExtestTrain (lands next : Nat) (s : State) : Host.Outcome State Fault Refusal :=
  .next (scanDr (scanInsn s 0x06 1) lands next)

/-- HIGHZ (R425): the outputs float; the bypass register captures 0. -/
def execHighz (s : State) : Host.Outcome State Fault Refusal := .next (scanDr (scanInsn s 0x03 2) 0 s.jtag.bsr)

/-- CLAMP (R425): the outputs are held from the boundary-scan register. -/
def execClamp (s : State) : Host.Outcome State Fault Refusal := .next (scanDr (scanInsn s 0x04 1) 0 s.jtag.bsr)

/-- An instruction that leaves the lands to the device (R423). -/
def quietInsn (s : State) (ir tdo : Nat) : State := { s with jtag := { s.jtag with ir := ir, drive := 0, tdo := tdo } }

/-- IDCODE (R423): the identification 0x2964_036B. -/
def execIdcode (s : State) : Host.Outcome State Fault Refusal := .next (quietInsn s 0x01 0x2964036B)

/-- SAMPLE_PRELOAD (R423). -/
def execSamplePreload (lands next : Nat) (s : State) : Host.Outcome State Fault Refusal :=
  .next (scanDr (quietInsn s 0x02 0) lands next)

/-- BYPASS (R423). -/
def execBypass (s : State) : Host.Outcome State Fault Refusal := .next (quietInsn s 0xFF 0)

/-- HOST_TEST_COMMAND (R19): from BLANK or FROZEN; any other mode, and the debug lock (R384), refuse it with WRONG_MODE
(log entry 69). -/
def execHostTestCommand (s : State) : Host.Outcome State Fault Refusal :=
  let ok := (s.mode = .blank ∨ s.mode = .frozen) ∧ s.on F.CFG_STATUS.LOCKED = false
  let s1 := { s with frz := { s.frz with testWrong := !decide ok } }
  .next (if ok then takeTest s1 else s1)

end Sys2Proof.Machine
end

