-- ==== Sys2Proof/Machine/Gun.lean ====
section
/-! DEFINITION. The gun: launch queues, firing, the wake ahead of an action, late launches and the launch log
(R58-R67), and the step of device time (R36, R57, R58). -/

namespace Sys2Proof.Machine

/-! ### Entries (R59, R60, Table 2.2, Table 2.3) -/

/-- The units of a class in one region: the first index that is reserved (Table 2.2). -/
def gunUnits (cls : Nat) : Nat :=
  match cls with
  | 1 => 12 | 2 => 16 | 3 => 16 | 4 => 16 | 5 => 1 | 6 => 1 | _ => 0

/-- Whether Table 2.3 gives a class an action; CANCEL 0x3F is of every class. -/
def gunAction (cls action : Nat) : Bool :=
  match cls with
  | 1 => (decide (0x01 ≤ action) && decide (action ≤ 0x07)) || action == 0x3F
  | 2 => (decide (0x10 ≤ action) && decide (action ≤ 0x12)) || action == 0x3F
  | 3 => (decide (0x20 ≤ action) && decide (action ≤ 0x21)) || action == 0x3F
  | 4 => (decide (0x30 ≤ action) && decide (action ≤ 0x32)) || action == 0x3F
  | 5 => action == 0x30 || action == 0x3F
  | 6 => action == 0x38 || action == 0x3F
  | _ => false

/-- The entry that the four slots of a push hold (Table 2.2). -/
def gunEntry (r : Nat) (s0 s1 s2 s3 : Word) (now : Nat) : GunEntry :=
  let t := timeOf s1.toNat s2.toNat
  { region := r, cls := bitsOf s0.toNat 39 36, index := bitsOf s0.toNat 35 30, action := bitsOf s0.toNat 29 24
    tag := bitsOf s0.toNat 23 0, time := t, arg := s3, past := decide (t ≤ now) }

/-- Whether an entry names nothing reserved (R60). -/
def gunOk (e : GunEntry) (frac : Word) : Bool :=
  decide (e.index < gunUnits e.cls) && gunAction e.cls e.action && !fracBad frac.toNat

/-- Whether two entries are of one unit. -/
def GunEntry.sameUnit (e f : GunEntry) : Bool := e.region == f.region && e.cls == f.cls && e.index == f.index

/-- An entry takes its place in gun-time order, behind those of equal time (R60). -/
def insertGun (e : GunEntry) : List GunEntry → List GunEntry
  | [] => [e]
  | f :: fs => if e.time < f.time then e :: f :: fs else f :: insertGun e fs

/-- Whether an action fires at a stride boundary (Table 2.3). -/
def GunEntry.atBoundary (e : GunEntry) : Bool := e.cls == 3 || (e.cls == 1 && decide (6 ≤ e.action))

/-! ### The launch log and late launches (R66, R67) -/

/-- A record with the coordinate of the entry's unit (R66). -/
def gunReport (s : State) (code : Nat) (e : GunEntry) : State :=
  if e.cls = 1 ∨ e.cls = 4 then s.emitTile code (16 * e.region + e.index) else s.emitRegion code e.region

/-- An entry of the launch log, written at TIM_LOG_HEAD (Table 2.4). -/
def gunLog (s : State) (e : GunEntry) (reason at_ late : Nat) : State :=
  let r := e.region
  let head := s.fld F.TIM_LOG_HEAD.IDX r
  let w0 := e.cls * 2 ^ 36 + e.index * 2 ^ 30 + e.action * 2 ^ 24 + e.tag
  let w1 := reason * 2 ^ 36 + s.fld F.TIM_CTRL.SERVO_STATE * 2 ^ 34 + s.time.strideNum % 2 ^ 34
  let ws := [BitVec.ofNat 40 w0, BitVec.ofNat 40 w1, BitVec.ofNat 40 (fracOf at_),
    BitVec.ofNat 40 (Nat.min late (2 ^ 40 - 1))]
  (putSlots .TIM_LOG r (4 * head) ws s).setFld F.TIM_LOG_HEAD.IDX r 0 ((head + 1) % 64)

/-- A late or dropped action is reported and counted (R66). -/
def gunLate (s : State) (e : GunEntry) : State := (gunReport s 0x4101 e).addSat F.TIM_GUN_STAT.LATE e.region 0

/-- Whether `d` units is more than the quantum of an entry's action (Table 2.3, R63). -/
def overQuantum (s : State) (e : GunEntry) (d : Nat) : Bool :=
  let uis (l : Nat) : Bool := decide (1024000000 < d * s.lf l F.LN_RATE.BAUD)
  if e.atBoundary then decide (s.strideT < d)
  else match e.cls with
    | 1 => uis (12 * e.region + e.index)
    | 2 => if s.chFabric e.region e.index then decide (s.fld F.TIM_STRIDE_CFG.P < d)
           else uis (srcLane e.region (s.fld F.HEAT_SRC.UNIT e.region e.index))
    | 4 => decide (2560 < 3 * d)
    | 5 => decide (1280 < d)
    | _ => decide (640 < d)

/-- What is written when an action has fired (R60, R63-R67): the reason, REFUSED before every other and the latest
cause before an earlier one, WAKE for a late action that nothing held (log entry 31), the lateness, and the late
launch. -/
def gunFired (s : State) (e : GunEntry) (at_ : Nat) (ok : Bool) : State :=
  let d := at_ - e.time
  let late0 := overQuantum s e d
  let held := e.past || e.stepped || e.woken || e.waited
  let late := late0 && (held || !e.atBoundary)
  let ui : Bool := e.cls == 1 && e.atBoundary && decide (1024000000 < d * s.lf (12 * e.region + e.index) F.LN_RATE.BAUD)
  let reason := if !ok then 8
    else if e.waited && e.cls == 2 then 4
    else if e.waited || ui then 3
    else if e.woken then 2
    else if e.stepped then 5
    else if e.past then 1
    else if late then 2
    else 0
  let s1 := gunLog s e reason at_ (if late then d else 0)
  if late then gunLate s1 e else s1

/-! ### The effect of an action at its unit (Table 2.3) -/

/-- A lane action (Table 9.4). -/
def laneAction (s : State) (l action : Nat) (arg : Word) : State :=
  match action with
  | 1 => patStart s l (bitsOf arg.toNat 1 0)
  | 2 => setTxSrc s l 0
  | 3 => s.setLf l F.LN_CTRL.MUTE 1
  | 4 => s.setLf l F.LN_CTRL.MUTE 0
  | 5 => startInj s l (bitsOf arg.toNat 15 0)
  | 6 => rxqStart s l
  | _ => rxqStop s l

/-- A heat-channel action and whether the channel accepts it (R271, R272). -/
def heatAction (s : State) (r c action at_ : Nat) (arg : Word) : Bool × State :=
  match action with
  | 0x10 => (armCheck s r c == 0, heatArm s r c at_ (some (bitOf arg.toNat 0)))
  | 0x11 => (true, if bitOf arg.toNat 0 then heatFinish s r c else heatDisarm s r c)
  | _ => (s.chState r c != 0, heatTrigger s r c 127 at_ none)

/-- A zone action and whether the zone accepts it (R379); it applies at a stride boundary. -/
def zoneAction (s : State) (zi action : Nat) : Bool × State :=
  if action = 0x20 then
    if s.zstate zi = 2 ∧ startRefused s zi = false then (true, runZone s zi) else (false, s)
  else if s.zstate zi = 1 then (true, isolateZone s zi) else (false, s)

/-- An action of an engine or a supervisor and whether it accepts it (R158, R168). -/
def procAction (s : State) (p action : Nat) (arg : Word) : Bool × State :=
  match action with
  | 0x30 => (true, gunIrq s p (bitOf arg.toNat 0))
  | 0x31 => (runTaken s p, runCmd s p)
  | _ => (s.pstate p != 0 && s.pstate p != 5, haltCmd s p)

/-- The effect of an action at its unit, and whether the unit accepts it. -/
def gunEffect (s : State) (e : GunEntry) (at_ : Nat) : Bool × State :=
  match e.cls with
  | 1 => (true, laneAction s (12 * e.region + e.index) e.action e.arg)
  | 2 => heatAction s e.region e.index e.action at_ e.arg
  | 3 => zoneAction s (16 * e.region + e.index) e.action
  | 4 => procAction s (16 * e.region + e.index) e.action e.arg
  | 5 => procAction s (64 + e.region) e.action e.arg
  | _ => (true, raiseEvent s e.region (44 + bitsOf e.arg.toNat 1 0) e.time none)

/-! ### The units' power states (R64) -/

/-- The power state that decides a region's resume latency: the state it is in or enters. -/
def regionDepth (s : State) (r : Nat) : Nat := if s.pdir r = 1 then (s.pw r).goal else s.pstateR r

/-- The low-power state of an entry's unit: 0 when it runs, 1 IDLE, 2 DOZE, 3 SLEEP. A lane has its own; the acquisition
controller and the combiner run in IDLE (Table 16.1). -/
def unitDepth (s : State) (e : GunEntry) : Nat :=
  let d := regionDepth s e.region
  match e.cls with
  | 1 => let l := 12 * e.region + e.index
         if s.lf l F.LN_CTRL.EN = 0 ∨ s.lf l F.LN_STATUS.PSTATE < 2 then (if 2 ≤ d then d else 0)
         else s.lf l F.LN_STATUS.PSTATE
  | 2 => if d = 1 then 0 else d
  | 6 => if d = 1 then 0 else d
  | _ => d

/-- The resume latency of a power state, in units (R64). -/
def resumeLatency (d : Nat) : Nat :=
  match d with
  | 0 => 0
  | 1 => 2000 * 1024
  | 2 => 150000 * 1024
  | _ => 3000000 * 1024

/-- The wake request of an entry's unit (R64, R388, R396): the region's, and the lane's alone where its own target holds
it below ON. -/
def wakeUnit (s : State) (e : GunEntry) : State :=
  let l := 12 * e.region + e.index
  let own : Bool := e.cls == 1 && s.lf l F.LN_CTRL.EN == 1
    && bitsOf (s.fld F.PWR_LANE.TARGET e.region) (2 * e.index + 1) (2 * e.index) != 0
  let s1 := if own then
      followTarget (s.setPw e.region { s.pw e.region with laneWake := e.index :: (s.pw e.region).laneWake.filter (· != e.index) }) l
    else s
  if regionDepth s e.region = 0 ∨ (e.cls = 1 ∧ regionDepth s e.region = 1) then s1 else wakeEvent s1 e.region 0

/-- The wake request ahead of an entry, when its instant has come: the gun time less the resume latency and the guard
(R64). -/
def gunWake (s : State) (e : GunEntry) : State :=
  let d := unitDepth s e
  if d = 0 then s
  else if e.time ≤ s.instant + resumeLatency d + s.fld F.TIM_WAKE_GUARD.NS e.region * 1024 then wakeUnit s e
  else s

/-- GUN_WAKE: the gun controller issues the wake request of a unit for its first queued action (R64). -/
def execGunWake (region : Region) (cls : BitVec 4) (index : BitVec 6) (s : State) : Host.Outcome State Fault Refusal :=
  match s.guns.find? (fun e => e.region == region.val && e.cls == cls.toNat && e.index == index.toNat) with
  | some e => .next (gunWake s e)
  | none => .next s

/-- Whether a unit can fire an action: it runs, and no reset holds it (R64, R65). A heat channel that still closes its
last heat makes an ARM wait (R65). -/
def unitReady (s : State) (e : GunEntry) : Bool :=
  unitDepth s e == 0 && s.gStage e.region != 2 && s.rst.warm != 2 &&
    (match e.cls with
     | 1 => !(s.lane (12 * e.region + e.index)).waking
     | 2 => !(e.action == 0x10 && s.chState e.region e.index == 0 && !(s.ch e.region e.index).closing.isEmpty)
     | 4 => procClocked s (16 * e.region + e.index) && !(s.proc (16 * e.region + e.index)).eRst
     | 5 => procClocked s (64 + e.region) && !(s.proc (64 + e.region)).eRst
     | _ => true)

/-! ### Pushes and cancellations (R59-R61) -/

/-- A malformed write of the gun ports is counted (R59). -/
def badPush (s : State) (r : Nat) : State := s.addSat F.TIM_GUN_STAT.BAD_PUSH r 0

/-- A CANCEL entry (R61): every entry of its unit with its TAG is removed and logged, then the entry itself. -/
def gunCancel (s : State) (e : GunEntry) : State :=
  let hit (f : GunEntry) : Bool := e.sameUnit f && f.tag == e.tag
  let s1 := (s.guns.filter hit).foldl (fun s f => gunLog s f 7 s.instant 0) { s with guns := s.guns.filter (fun f => !hit f) }
  gunLog s1 e 7 s.instant 0

/-- The start of the first UI of a lane's grid that starts at or after a device time (R213): UI n starts n · U after the
epoch held at the enable. -/
def gridUi (s : State) (l t : Nat) : Nat :=
  let b : Int := Nat.max (s.lf l F.LN_RATE.BAUD) 1
  let d : Int := (t : Int) - (s.lane l).epochE
  let n := -((-(d * b)) / 1024000000)
  ((s.lane l).epochE + n * 1024000000 / b).toNat

/-- The edge of its unit's clock at which an entry fires when it fires at or after a device time: a lane's is a UI of its
grid (R62, R213). -/
def unitEdge (s : State) (e : GunEntry) (at_ : Nat) : Nat :=
  if e.cls = 1 ∧ e.atBoundary = false ∧ s.lf (12 * e.region + e.index) F.LN_CTRL.EN = 1 then
    gridUi s (12 * e.region + e.index) at_
  else at_

/-- An entry fires at the first edge of its unit's clock at or after device time `at_`. -/
def fireEntry (s : State) (e : GunEntry) (at_ : Nat) : State :=
  let t := unitEdge s e at_
  let x := gunEffect { s with guns := s.guns.erase e } e t
  gunFired x.2 e t x.1

/-- Whether an entry whose gun time has passed fires on arrival: its unit can fire it, and no action queued for the unit
is due before it (R60). -/
def firesNow (s : State) (e : GunEntry) : Bool :=
  e.past && !e.atBoundary && unitReady s e && s.guns.all (fun f => !(e.sameUnit f) || decide (e.time < f.time))

/-- The four slots written as one 32-byte transaction (R59, R60, R61). -/
def gunPush (s : State) (r : Nat) (s0 s1 s2 s3 : Word) : State :=
  let e := gunEntry r s0 s1 s2 s3 s.instant
  if !gunOk e s2 then badPush s r
  else if e.action = 0x3F then gunCancel s e
  else if firesNow s e then fireEntry s e s.instant
  else if 16 ≤ (s.guns.filter e.sameUnit).length then gunReport (s.addSat F.TIM_GUN_STAT.FULL r 0) 0x4102 e
  else gunWake { s with guns := insertGun e s.guns } e

/-- GUN_PUSH: `whole` is whether the write is one aligned transaction of 32 bytes; it arrives `dt` units after the last
tick (R33, R59). -/
def execGunPush (region : Region) (s0 s1 s2 s3 : Word) (whole : Bool) (dt : Nat) (s : State) :
    Host.Outcome State Fault Refusal :=
  .next (if whole then gunPush (s.atPhase dt) region s0 s1 s2 s3 else badPush (s.atPhase dt) region)

/-- CANCEL: a push whose action is CANCEL, `dt` units after the last tick (R61). -/
def execCancel (region : Region) (cls : BitVec 4) (index : BitVec 6) (tag : BitVec 24) (frac : Word) (dt : Nat) (s : State) :
    Host.Outcome State Fault Refusal :=
  let s0 := cls.toNat * 2 ^ 36 + index.toNat * 2 ^ 30 + 0x3F * 2 ^ 24 + tag.toNat
  .next (gunPush (s.atPhase dt) region (BitVec.ofNat 40 s0) 0 frac 0)

/-! ### Firing (R62, R63, R65) -/

/-- The queue with one entry replaced. -/
def replaceGun (e f : GunEntry) (gs : List GunEntry) : List GunEntry := gs.map (fun g => if g == e then f else g)

/-- The first due action of a unit fires at `at_`, the first edge of the unit's clock at or after its gun time; while
the unit is not running the action waits, and fires with REASON WAKE or, for the close of a heat, CHANNEL_BUSY. -/
def gunFire (s : State) (r cls index at_ : Nat) : State :=
  match s.guns.find? (fun e => e.region == r && e.cls == cls && e.index == index && !e.atBoundary && decide (e.time ≤ at_)) with
  | none => s
  | some e =>
    if unitReady s e then fireEntry s e at_
    else if e.cls = 2 ∧ unitDepth s e = 0 ∧ s.gStage r ≠ 2 ∧ s.rst.warm ≠ 2
    then { s with guns := replaceGun e { e with waited := true } s.guns }
    else { s with guns := replaceGun e { e with woken := true } s.guns }

/-- GUN_FIRE: an edge of the unit's clock, `dt` units after the last tick (R62). -/
def execGunFire (region : Region) (cls : BitVec 4) (index : BitVec 6) (dt : Nat) (s : State) :
    Host.Outcome State Fault Refusal :=
  .next (gunFire (s.atPhase dt) region cls.toNat index.toNat (s.nowAt dt))

/-- The node of a unit of the gun: a lane's or engine's tile, the acquisition controller, the configuration controller for a
zone, the supervisor, and the combiner beside the acquisition controller (Table 12.1, log entry 37). -/
def GunEntry.node (e : GunEntry) : Nat :=
  let svc (t : Nat) : Nat := 2 * (16 * e.region + t) + 1
  match e.cls with
  | 1 => 2 * (16 * e.region + e.index)
  | 3 => svc 15
  | 4 => 2 * (16 * e.region + e.index)
  | 5 => svc 13
  | _ => svc 12

/-- LAUNCH: the packet delivers a fired action to its unit (R297). -/
def execLaunch (region : Region) (cls : BitVec 4) (index : BitVec 6) (action : BitVec 6) (arg : Word) (stamp : Nat)
    (s : State) : Host.Outcome State Fault Refusal :=
  let e : GunEntry := { region := region, cls := cls.toNat, index := index.toNat, action := action.toNat, tag := 0
                        time := stamp, arg := arg }
  if e.index < gunUnits e.cls ∧ gunAction e.cls e.action = true ∧ e.action ≠ 0x3F then
    .next (gunEffect (travelCtl s 0x14 (2 * (16 * region.val + 13) + 1) e.node) e stamp).2
  else .next s

/-- The due actions of a class fire at the stride boundary of device time `at_`, in gun-time order (R63, R65, R379). One of
a lane that is not running waits for its return (R64), and a zone START that has to restore its zone first stays queued
until the boundary after the restore. -/
def gunBoundary (cls at_ : Nat) (s : State) : State :=
  let due := s.guns.filter (fun e => e.cls == cls && e.atBoundary && decide (e.time ≤ at_) && s.regionRuns e.region
    && s.gStage e.region != 2)
  due.foldl (fun s e =>
    let zi := 16 * e.region + e.index
    if e.cls = 1 ∧ unitReady s e = false then { s with guns := replaceGun e { e with woken := true } s.guns }
    else if e.cls = 3 ∧ e.action = 0x20 ∧ s.zstate zi = 2 ∧ startRefused s zi = false
        ∧ s.fld F.CFG_ZONE.PRIMED (zi / 16) (zi % 16) ≠ 1 then
      let z := s.zone zi
      { s.setZone zi { z with restoring := if z.restoring = 0 then 1 else z.restoring } with
          guns := replaceGun e { e with waited := true } s.guns }
    else fireEntry s e at_) s

/-- The due actions of a region that waited until its strides ran: for its wake where the region was in a low-power state
(R64), otherwise for strides to start (R65). -/
def gunsWaited (s : State) (r at_ : Nat) (asleep : Bool) : State :=
  { s with guns := s.guns.map (fun e =>
      if e.region == r && e.atBoundary && decide (e.time < at_) then
        (if asleep then { e with woken := true } else { e with waited := true })
      else e) }

/-! ### The lane actions and the heat commands as rows (R217, R231, R232, R239, R271, R272) -/

/-- PAT_START (R232). -/
def execPatStart (lane : Lane) (arg : Word) (s : State) : Host.Outcome State Fault Refusal := .next (laneAction s lane 1 arg)
/-- PAT_STOP (R232). -/
def execPatStop (lane : Lane) (s : State) : Host.Outcome State Fault Refusal := .next (laneAction s lane 2 0)
/-- TX_MUTE (R217). -/
def execTxMute (lane : Lane) (s : State) : Host.Outcome State Fault Refusal := .next (laneAction s lane 3 0)
/-- TX_UNMUTE (R217). -/
def execTxUnmute (lane : Lane) (s : State) : Host.Outcome State Fault Refusal := .next (laneAction s lane 4 0)
/-- INJECT (R239). -/
def execInject (lane : Lane) (arg : Word) (s : State) : Host.Outcome State Fault Refusal := .next (laneAction s lane 5 arg)
/-- RXQ_START (R231). -/
def execRxqStart (lane : Lane) (s : State) : Host.Outcome State Fault Refusal := .next (laneAction s lane 6 0)
/-- RXQ_STOP (R231). -/
def execRxqStop (lane : Lane) (s : State) : Host.Outcome State Fault Refusal := .next (laneAction s lane 7 0)

/-- HEAT_ARM: `auto` is ARG[0] of a gun action, absent for a write of HEAT_CTRL (R271). -/
def execHeatArm (region : Region) (channel : Fin 16) (auto : Option Bool) (s : State) : Host.Outcome State Fault Refusal :=
  .next (heatArm s region channel s.instant auto)
/-- HEAT_DISARM: an immediate DISARM (R272). -/
def execHeatDisarm (region : Region) (channel : Fin 16) (s : State) : Host.Outcome State Fault Refusal :=
  .next (heatDisarm s region channel)
/-- HEAT_FINISH (R272). -/
def execHeatFinish (region : Region) (channel : Fin 16) (s : State) : Host.Outcome State Fault Refusal :=
  .next (heatFinish s region channel)
/-- HEAT_FORCE (R272). -/
def execHeatForce (region : Region) (channel : Fin 16) (s : State) : Host.Outcome State Fault Refusal :=
  .next (heatTrigger s region channel 127 s.instant none)

/-! ### The time link (R45, R47) -/

/-- A time frame arrives at TL_IN at device time `arrival` (R45, R47): a member timestamps it, forwards it and
publishes its offset, its POSITION one more than the hop count received (log entry 12); the master measures the ring
delay. A valid frame raises source 27 of RS0 (Table 6.6); one that fails its check is counted. -/
def execTimeFrame (sec frac : Word) (hop ringDly : Nat) (valid : Bool) (arrival : Nat) (s : State) :
    Host.Outcome State Fault Refusal :=
  let role := s.fld F.TIM_TL_CFG.ROLE
  let marker := timeOf sec.toNat frac.toNat
  if s.time.now < s.time.tlIgnore ∨ (role ≠ 1 ∧ role ≠ 2) then .next s
  else if !valid then .next (s.addSat F.TIM_TL_STAT.CRC_ERR 0 0)
  else if role = 1 then
    let d := arrival - marker
    .next (raiseEdge { s.setFld F.TIM_TL_STAT.RING_DLY 0 0 (Nat.min d (2 ^ 24 - 1)) with
      time := { s.time with tlRing := d } } 64 27)
  else
    let ofs : Int := (arrival : Int) - marker - pathDelay s ringDly hop
    let s1 := s.setFld F.TIM_TL_OFS.OFS 0 0 (unsigned 40 (clampInt (-(2 ^ 39)) (2 ^ 39 - 1) ofs))
    let s2 := s1.setFld F.TIM_STATUS.TL_LOCK 0 0 1
    let s3 := s2.setFld F.TIM_TL_STAT.POSITION 0 0 (hop + 1)
    let s4 := s3.setFld F.TIM_TL_STAT.RING_DLY 0 0 (Nat.min ringDly (2 ^ 24 - 1))
    .next (raiseEdge { s4 with time := { s4.time with tlOut := some ⟨sec, frac, hop + 1, ringDly⟩ } } 64 27)

/-! ### The step of device time (R36, R53, R57, R58) -/

/-- The queued actions that a forward step has passed, in gun-time order (R58): each fires at once with REASON STEP where
its unit can fire it, and otherwise as soon as it can, or is dropped. -/
def gunsStepped (s : State) (old : Nat) : State :=
  let hits := s.guns.filter (fun e => decide (old < e.time) && decide (e.time ≤ s.instant))
  if s.fld F.TIM_CTRL.STEP_POLICY = 1 then
    hits.foldl (fun s e => gunLate (gunLog { s with guns := s.guns.erase e } e 6 s.instant (s.instant - e.time)) e) s
  else
    hits.foldl (fun s e =>
      let f := { e with stepped := true }
      if !e.atBoundary && unitReady s e then fireEntry { s with guns := s.guns.erase e } f s.instant
      else { s with guns := replaceGun e f s.guns }) s

/-- The first strides that wait are chosen again after a step: that of a start by the rule of R53 with the instant of the
step as the command, that of a region that starts while others run among theirs. -/
def restart (s : State) : State :=
  let s1 := match s.time.start with
    | some q =>
      let first := firstStride s.time.epoch s.strideT s.instant s.time.lastExec
      { s with time := { s.time with start := some { q with command := s.instant, first := first } } }
    | none => s
  (List.range 4).foldl (fun s r =>
    match (s.pw r).resume with
    | some _ =>
      s.setPw r { s.pw r with resume := some (match s.time.start with | some q => q.first | none => firstAmong s) }
    | none => s) s1

/-- The step's consequence for the strides: while they run the whole strides leave the offset and the remainder becomes
alignment error (R57); first strides that wait are chosen again (R53). -/
def stepStrides (s : State) (delta : Int) : State :=
  if s.time.running then
    let k := nearestStrides delta s.strideT
    let s1 := s.setReg .TIM_STRIDE_OFS 0 0 (BitVec.ofNat 40 (unsigned 40 (s.strideK - k)))
    restart (alignError s1 (signed 24 (s.fld F.TIM_ALIGN.ERR_PS) + picos (delta - k * s.strideT)))
  else restart s

/-- TIME_STEP: at the next tick the armed step applies, or is ignored with ADJ_BAD; a step of zero changes nothing else
(R36). TIM_ADJ_FRAC is read here (log entry 67), and a PPS_OUT pulse keeps its width (R37). -/
def execTimeStep (s : State) : Host.Outcome State Fault Refusal :=
  if !s.time.stepArmed then .next s
  else
    let s0 := { s with time := { s.time with stepArmed := false } }
    let frac := (s.reg .TIM_ADJ_FRAC).toNat
    if fracBad frac then .next (s0.setFld F.TIM_STATUS.ADJ_BAD 0 0 1)
    else
      let delta : Int := signed 40 (s.reg .TIM_ADJ_SEC).toNat * unitsPerSec + frac
      let now := (((s.time.now : Int) + delta) % timeSpan).toNat
      let fall := s.time.ppsUntil.map (fun t => (((t : Int) + delta) % timeSpan).toNat)
      let s1 := { s0 with time := { s0.time with now := now, phase := 0, ppsUntil := fall } }
      let s2 := (s1.setFld F.TIM_STATUS.STEP_DONE 0 0 1).emitDev 0x5101
      if delta = 0 then .next s2
      else
        let s3 := stepStrides s2 delta
        .next (if 0 < delta then gunsStepped s3 s.time.now else s3)

end Sys2Proof.Machine
end

