-- ==== Sys2Proof/Machine/Stride.lean ====
section
/-! DEFINITION. The steps of a stride: the scheduled step, the stride boundary and the boundary that opens a start (R14,
R53, R79, R467). -/

namespace Sys2Proof.Machine

/-! ### The scheduled step (R79, R96-R111) -/

/-- Whether the next scheduled step executes: strides run, the step is one of S, and no freeze stops them before it. -/
def stepGoes (s : State) : Bool :=
  s.time.running && !s.frz.nowReq && decide (s.time.step < s.stepsS) && !(s.frz.endReq && decide (s.time.step = 0))

/-- Whether a box output of a cluster selects QOUT in a step (R125). -/
def selectsQout (s : State) (step cl : Nat) : Bool :=
  (List.range 32).any (fun o => bitOf (s.selAt cl step o) 29)

/-- What the cells do in a step: each fetches its row, with the words the crossbars carry at the start of the step. Of several
events of a tile in one step CELL_FIRST takes the first in the order of the cells here, and of a cell's operands A, B, C:
DESIGN CHOICE (log entry 68). -/
def cellsStep (s0 : State) (step : Nat) (s : State) : State :=
  (s0.busyCells step).foldl (fun s ci =>
    routeReport s0 step (cellFetch s ci step (s0.routeIn (ci / 64) step (ci % 64))) ci) s

/-- The capture outputs of a step: a selected word goes to the acquisition controller with the start of the step as its
time (R269, R283). -/
def capStep (s0 : State) (step : Nat) (qout : Nat → Word) (s : State) (cl : Nat) : State :=
  match s0.newOut cl step (qout cl) 31 with
  | some w => capWord { s with fab := { s.fab with out := mset 0 s.fab.out (32 * cl + 31) w } } cl w s0.instant
  | none => s

/-- The sources and drives that an injection added to one step are over (R411). -/
def clearStepInj (s : State) (step : Nat) : State :=
  let keep {α : Type} (m : List (Nat × α)) : List (Nat × α) := m.filter (fun e => e.1 / 32 % 2048 != step)
  { s with fab := { s.fab with selInj := keep s.fab.selInj, drvInj := keep s.fab.drvInj } }

/-- The stride tick and the domain enables are high for one step period from the boundary (R118). -/
def strideTickEnds (s : State) (step : Nat) : State :=
  if step = 0 then rckEdges (rckEdges s 2 false) 3 false else s

/-- One scheduled step of every tile that executes. Every word read is the one at the start of the step (R79); the
words loaded into QIN in the step before are pushed (R127), a popped queue gives its oldest word (R125), and a
contention under CONT_POL wakes sleeping regions for its freeze (Table 16.8). Events of one step are taken in this order
(log entry 68): the entries of each cluster with SPAR, XSEL_RSV and SEL_MULTI, the cells, the lines. -/
def scheduledStep (s : State) : State :=
  let k := s.time.step
  let s0 := qinPushes s
  let cls := s0.busyClusters k
  let qout := fun cl => qoutWord s0 (cl / 16) (cl % 16)
  let s1 := (cls.filter (selectsQout s0 k)).foldl (fun s cl => qoutPop s (cl / 16) (cl % 16)) s0
  let s2 := cellsStep s0 k (cls.foldl (entryReports s0 k) s1)
  let s3 := (s0.linesAt k cls).foldl (lineReport s0 k) s2
  let s4 := moveBridges s0 (cls.foldl (loadBox s0 k qout) s3)
  let s5 := cls.foldl (capStep s0 k qout) s4
  let s6 := stepClock 1 (clearStepInj (stepFixes s0 k s5) k)
  let s7 := { strideTickEnds s6 k with time := { s6.time with step := k + 1 } }
  if s7.frz.endReq && !s.frz.endReq then wakeAll s7 3 else s7

/-- SCHEDULED_STEP: a step that starts `dt` units after the last tick (R13, R79). -/
def execScheduledStep (dt : Nat) (s : State) : Host.Outcome State Fault Refusal :=
  if stepGoes s then .next (scheduledStep (s.atPhase dt)) else .next s

/-! ### The stride boundary (R14) -/

/-- The fabric events at the boundary that closes a stride, of the tiles whose region executed it (R255). -/
def fabricEvents (ran : Nat → Bool) (s : State) : State :=
  (List.range 64).foldl (fun s t =>
    if ran (t / 16) && (mget 0 s.fab.out (512 * t + 30)).getLsbD 2 then fabricEvent s t s.instant else s) s

/-- The edges of the stride tick and the domain enables as stride `n` begins, while strides run (R118). -/
def strideClocks (s : State) (n : Nat) : State :=
  if s.time.running then
    (List.range 4).foldl (fun s r => rckEdge s r 3 true (fun table sel => s.domainOn r table sel n)) (rckEdges s 2 true)
  else s

/-- The state in boundary step `k` of a boundary that ends `dt` units after the last tick (R51). -/
def State.inBoundary (s : State) (dt k : Nat) : State := s.atPhase ((dt : Int) - ((8 - k) * s.fld F.TIM_STRIDE_CFG.P : Nat))

/-- What the boundary that opens stride `n` at `dt` does after the commit: the release point with the feeds and then the
lanes' gun actions (R124, R231, R164), the pins by `pins`, the zones and the gun's zone actions (R379), and the RWQ values
(R8). -/
def openStride (s : State) (n dt : Nat) (pins : State → State) : State :=
  let at_ := s.nowAt dt
  let s1 := releaseProcs (gunBoundary 1 at_ (releaseFeeds (releaseAll (s.inBoundary dt 1) n))) n
  let s2 := gunBoundary 3 at_ (zonesAtBoundary ((pins (stepClock 2 (s1.inBoundary dt 2))).atPhase dt))
  (stepClock 6 (injBoundary s2)).applyRwq

/-- Whether a region's entry waits for this boundary to stop its fabric (N2, R393). -/
def stopsHere (s : State) (r : Nat) : Bool :=
  s.pdir r == 1 && s.fld F.PWR_STAT.STEP r == 2 && !(s.pw r).fabOff

/-- The regions whose entry waits for the boundary that closes stride `n` stop their fabric after it. -/
def stopEntering (s : State) (n : Nat) : State :=
  (List.range 4).foldl (fun s r => if stopsHere s r then stopFabric s r (some n) else s) s

/-- The regions that did not execute before and do now: the pause of a fabric source ends (R287), their due actions are
marked (R64, R65), and their cells discard shadows and dirty flags (R467). -/
def endPauses (old s : State) (at_ : Nat) : State :=
  (List.range 4).foldl (fun s r =>
    if s.regionRuns r && !(old.regionRuns r && old.time.running) then
      let s1 := { s with fab := { s.fab with dirty := s.fab.dirty.filter (fun e => e.1 / 1048576 / 16 != r) } }
      gunsWaited (fabricPause s1 r (s.pw r).offAt (s.instant - (s.pw r).offAt)) r at_ (!(old.regionRuns r))
    else s) s

/-- The boundary that closes stride N and opens stride N + 1 at `dt`: the pushes of boundary step 0 (R127), the commit and
the write-backs (R14, R91), and what follows. A region that resumes here opens its first stride (R467); one whose entry
waits for this boundary stops after it (R15). `lands` and `driven` are the levels the board puts on the fabric pins. -/
def strideBoundary (s : State) (dt lands driven : Nat) : State :=
  let n := s.time.strideNum
  let n1 := (n + 1) % 2 ^ 80
  let ran : Nat → Bool := fun r => s.regionRuns r
  let s1 := boundaryFixes (commitAll (swapAtBoundary (qinPushes (s.inBoundary dt 0))) n)
  let s2 := { s1 with time := { s1.time with strideNum := n1, lastExec := some n, step := 0 } }
  let s3 := endPauses s2 (resumeRegions s2 n1) (s.nowAt dt)
  let s4 := openStride s3 n1 dt (fun t => fabricEvents ran (updatePins ran (samplePins t lands driven)))
  let s5 := stopEntering (steer (s4.atPhase dt) n1 (s.nowAt dt)) n
  let s6 := if s5.mode = .loading then loadStep2 s5 else s5
  if s6.frz.endReq then swapIfStopped { s6 with time := { s6.time with running := false, start := none }
                                                frz := { s6.frz with partialAt := none } }
  else strideClocks s6 n1

/-- STRIDE_BOUNDARY (R14), at the end of a stride's scheduled steps. -/
def strideBoundaryCmd (s : State) (dt lands driven : Nat) : State :=
  if s.time.running ∧ s.frz.nowReq = false ∧ s.time.step = s.stepsS ∧ s.stepsS ≠ 0 then strideBoundary s dt lands driven
  else s

/-! ### The boundary that opens a start (R53, R467) -/

/-- The end of a full load at the first boundary of the synchronous start (R377): the device is in RUN, engines with
BOOT_RUN start, the scrub passes begin, the lanes follow their regions (R243), and the pins take the words of their
boxes. -/
def loadStarts (s : State) : State :=
  let s1 := { s with mode := .run, load := s.load.idle, fab := { s.fab with scrubPos := [] } }
  let s2 := (List.range 48).foldl followTarget (idleLoad (loadResult s1 0 0))
  (List.range 64).foldl (fun s p => bootProc s p false) s2

/-- The first boundary of a start, at `dt`: shadows are discarded, the stride number becomes the one chosen, the missed
strides are recorded (R53), and the rest is as at any boundary but that no pin changes its output and no fabric event
occurs (R467). -/
def firstBoundary (s : State) (n dt lands driven : Nat) : State :=
  let loading := decide (s.mode = .loading)
  let s1 := discardShadows (s.inBoundary dt 0)
  let missed := match s.time.lastExec with | some k => n - k - 1 | none => n
  let s2 := { s1 with time := { s1.time with running := true, start := none, strideNum := n, step := 0, missed := missed } }
  let s3 := resumeRegions s2 n
  let s4 := if s3.mode = .frozen then resumeAtBoundary s3 n else if loading then loadStarts s3 else s3
  let s5 := endPauses { s with time := { s.time with running := false } } s4 (s.nowAt dt)
  let s6 := openStride s5 n dt (fun t =>
    let u := samplePins t lands driven
    if loading then updatePins (fun r => u.regionRuns r) u else u)
  strideClocks (steer (s6.atPhase dt) n (s.nowAt dt)) n

/-- FIRST_BOUNDARY (R467), which ends `dt` units after the last tick; the fabric does not advance in TEST (R21). -/
def execFirstBoundary (dt : Nat) (lands driven : BitVec 64) (s : State) : Host.Outcome State Fault Refusal :=
  match s.time.start with
  | none => .next s
  | some q =>
    if s.time.running || s.frz.nowReq || s.frz.endReq || decide (s.mode = .test) then .next s
    else .next (firstBoundary s q.first dt lands.toNat driven.toNat)

end Sys2Proof.Machine
end

