-- ==== Sys2Proof/Machine/Ports.lean ====
section
/-! DEFINITION. Registers whose write commands a unit: DMA channels, the probe collector, the archive engine, the host
registers and the management ports (R169, R171, R305, R309, R331, R333, R335, R436, R437, R439, R440). -/

namespace Sys2Proof.Machine

/-! ### DMA channels (R169, R171) -/

/-- Whether a DMA channel runs a chain. -/
def chanBusy (s : State) (p ch : Nat) : Bool := s.pf p F.SE_DMA_STAT.BUSY F.SUP_DMA_STAT.BUSY ch == 1

/-- A start of a descriptor chain; on a busy channel it is refused (R169). -/
def dmaStart (s : State) (p ch addr : Nat) : State :=
  if chanBusy s p ch then s.setPf p F.SE_DMA_STAT.REFUSED F.SUP_DMA_STAT.REFUSED 1 ch
  else
    (s.setPf p F.SE_DMA_STAT.BUSY F.SUP_DMA_STAT.BUSY 1 ch).setPf p F.SE_DMA_STAT.CUR F.SUP_DMA_STAT.CUR
      (addr / 4 * 4) ch

/-- ABORT stops further issue of a running chain (R171). -/
def dmaAbortAsk (s : State) (p ch : Nat) : State :=
  let v := s.proc p
  if chanBusy s p ch && !v.aborts.contains ch then s.setProc p { v with aborts := v.aborts ++ [ch] } else s

/-- SE_DMA_DESC or SUP_DMA_DESC written (Table 6.17). -/
def writeDmaDesc (s : State) (p ch : Nat) (w : Word) : State :=
  let addr := w.toNat % 2 ^ ptrBits p
  let s1 := s.setPf p F.SE_DMA_DESC.ADDR F.SUP_DMA_DESC.ADDR addr ch
  let s2 := if bitOf w.toNat 39 then dmaStart s1 p ch addr else s1
  if bitOf w.toNat 38 then dmaAbortAsk s2 p ch else s2

/-- DMA_GO (R169): SE_DMA_DESC written with GO. -/
def execDmaGo (proc : Proc) (channel : Fin 4) (addr : BitVec 17) (s : State) : Host.Outcome State Fault Refusal :=
  if isSup proc && decide (2 ≤ channel.val) then .next s
  else .next (writeDmaDesc s proc channel (BitVec.ofNat 40 (2 ^ 39 + addr.toNat)))

/-! ### Processor control (R168, R177, R178) -/

/-- SE_CTRL or SUP_CTRL written. A STEP takes the processor out of HALTED for one instruction, which its own command
issues (log entry 33). -/
def writeProcCtrl (s : State) (p : Nat) (w : Word) : State :=
  if bitOf w.toNat 2 then startEReset s p false
  else match bitsOf w.toNat 1 0 with
    | 1 => runCmd s p
    | 2 => haltCmd s p
    | 3 => stepStart s p
    | _ => s

/-! ### Cells, lanes and the network -/

/-- CELL_CTRL written: when SCRUB_EN changes from 0 to 1, every cell of the tile starts a pass (R93). -/
def writeCellCtrl (s : State) (t : Nat) (w : Word) : State :=
  let s1 := s.writeDefault .CELL_CTRL t 0 w
  if !(s.on F.CELL_CTRL.SCRUB_EN t) && s1.on F.CELL_CTRL.SCRUB_EN t then
    { s1 with fab := { s1.fab with scrubPos := mclear s1.fab.scrubPos (1024 * t) 1024 } }
  else s1

/-- LN_PCS written: MODE is written only while EN = 0 (Table 9.11). -/
def writePcs (s : State) (l : Nat) (w : Word) : State :=
  let t := laneTile l
  let rest := [F.LN_PCS.SCR, F.LN_PCS.GATE, F.LN_PCS.COMMA_SET, F.LN_PCS.COMMA_B0, F.LN_PCS.FEC_DET_ONLY]
  if s.lf l F.LN_CTRL.EN = 0 then s.writeDefault .LN_PCS t 0 w
  else
    let s1 := writeFields t 0 w.toNat false rest s
    if bitsOf w.toNat 39 37 = s.lf l F.LN_PCS.MODE then s1 else s1.setLf l F.LN_STATUS.CFG_ERR 1

/-- NOC_RES written: a write that would take either value above 48 GB/s keeps the old value (R305). -/
def writeNocRes (s : State) (t : Nat) (w : Word) : State :=
  if 192 < bitsOf w.toNat 39 28 ∨ 192 < bitsOf w.toNat 27 16 then s.setFld F.NOC_RSTAT.CFG_ERR t 0 1
  else s.writeDefault .NOC_RES t 0 w

/-- NOC_TBL_PEND written: ignored while a swap request is in progress (R301). -/
def writeTblPend (s : State) (t d : Nat) (w : Word) : State :=
  if s.swapState = 0 then s.writeDefault .NOC_TBL_PEND t d w else s.setFld F.NOC_RSTAT.CFG_ERR t 0 1

/-! ### The probe collector (R309) -/

/-- Whether a ring of blocks lies wholly in main memory. -/
def ringInMain (base blocks : Nat) : Bool := decide (base + 64 * blocks ≤ 0x2000000000)

/-- NOC_PC_CTRL written. -/
def writePcCtrl (s : State) (r : Nat) (w : Word) : State :=
  let s1 := writeFields r 0 w.toNat false [F.NOC_PC_CTRL.WRAPPED, F.NOC_PC_CTRL.SINK_ERR, F.NOC_PC_CTRL.CFG_ERR] s
  let len := s.fld F.NOC_PC_LEN.BLOCKS r
  match bitOf w.toNat 39, s.on F.NOC_PC_CTRL.EN r with
  | true, false =>
    if len = 0 ∨ ringInMain (64 * s.fld F.NOC_PC_BASE.ADDR r) len = false then s1.setFld F.NOC_PC_CTRL.CFG_ERR r 0 1
    else
      let s2 := ((s1.setFld F.NOC_PC_CTRL.EN r 0 1).setReg .NOC_PC_WP r 0 0).setReg .NOC_PC_RP r 0 0
      { s2 with net := { s2.net with staged := s2.net.staged.filter (fun e => e.1 != r) } }
  | false, true => s1.setFld F.NOC_PC_CTRL.EN r 0 0
  | _, _ => s1

/-- NOC_PC_BASE or NOC_PC_LEN written: ignored while EN = 1. -/
def writePcRing (s : State) (reg : Reg) (r : Nat) (w : Word) : State :=
  if s.on F.NOC_PC_CTRL.EN r then s else s.writeDefault reg r 0 w

/-- PROBE_COLLECTOR_START (R309): EN written. -/
def execProbeCollectorStart (region : Region) (s : State) : Host.Outcome State Fault Refusal :=
  .next (writePcCtrl s region 0x8000000000#40)

/-! ### The archive engine (R331, R333, R335) -/

/-- An archive event: bit `n` of ARC_STATUS.EVT, code 0x4701 + `n` (R336). -/
def arcEvent (s : State) (r n : Nat) (inj : Bool := false) : State :=
  if bitOf (s.fld F.ARC_STATUS.EVT r) n then s else (s.orFld F.ARC_STATUS.EVT r 0 n).emitRegion (0x4701 + n) r inj

/-- Records of a ring of `len` blocks at `base`: the block and first word of record `k`, three to a block. -/
def ringSlot (base len k : Nat) : Nat := base + k / 3 % Nat.max len 1 * 64 + 20 * (k % 3)

/-- Four words written as one record of a ring in main memory, with the status of the write. -/
def writeRecord (s : State) (base len k src : Nat) (ws : List Word) : Nat × State :=
  let a := ringSlot base len k
  let st := memAccess s a
  if st ≠ 0 then (st, s) else netWritePart s a src (15 * 2 ^ (4 * (k % 3))) ws

/-- A completion record (Table 13.5): WP advances whether or not the ring's memory took the record (log entry 36). -/
def arcComplete (s : State) (r op status tag fails obj blocks : Nat) : State :=
  let k := s.fld F.ARC_CPL_WP.COUNT r
  let len := s.fld F.ARC_CPL_LEN.BLOCKS r
  let w0 := op * 2 ^ 36 + status * 2 ^ 32 + tag % 2 ^ 12 * 2 ^ 20 + Nat.min fails (2 ^ 20 - 1)
  let ws := [BitVec.ofNat 40 w0, BitVec.ofNat 40 obj, BitVec.ofNat 40 blocks, BitVec.ofNat 40 (fracOf s.instant)]
  let s1 := (writeRecord s (64 * s.fld F.ARC_CPL_BASE.ADDR r) len k (0x50 + r) ws).2
  let s2 := s1.setFld F.ARC_CPL_WP.COUNT r 0 (k + 1)
  if 3 * len < (k + 1 + 2 ^ 40 - s.fld F.ARC_CPL_RP.COUNT r) % 2 ^ 40 then s2.setFld F.ARC_STATUS.WRAPPED r 0 1 else s2

/-- The command of four slots (Table 13.4). -/
def arcEntry (s0 s1 s2 s3 : Word) : ArcCmd :=
  { op := bitsOf s0.toNat 39 36, len := bitsOf s0.toNat 35 12, tag := bitsOf s0.toNat 11 0
    addr := s1.toNat, obj := s2.toNat, off := s3.toNat }

/-- A push of a command (R331): a reserved OP completes at once, a push to a full queue is discarded and counted; an
engine with EN = 0 accepts none. -/
def arcPush (s : State) (r : Nat) (s0 s1 s2 s3 : Word) : State :=
  let c := arcEntry s0 s1 s2 s3
  let a := s.arc r
  if !s.on F.ARC_CTRL.EN r then s
  else if c.op = 0 ∨ 5 < c.op then arcComplete s r c.op 8 c.tag 0 c.obj 0
  else if 16 ≤ a.cmds.length then s.addSat F.ARC_CMD_STAT.REFUSED r 0
  else s.setArc r { a with cmds := a.cmds ++ [c] }

/-- ARC_CTRL written: EN = 1 with CPL_LEN = 0 is ignored (Table 13.10). -/
def writeArcCtrl (s : State) (r : Nat) (w : Word) : State :=
  let s1 := writeFields r 0 w.toNat false [F.ARC_CTRL.FMT_EN, F.ARC_CTRL.PATROL_EN] s
  if bitOf w.toNat 39 && s.fld F.ARC_CPL_LEN.BLOCKS r == 0 then s1
  else s1.setFld F.ARC_CTRL.EN r 0 (bitsOf w.toNat 39 39)

/-- ARC_CPL_BASE or ARC_CPL_LEN written: ignored while EN = 1. -/
def writeArcRing (s : State) (reg : Reg) (r : Nat) (w : Word) : State :=
  if s.on F.ARC_CTRL.EN r then s else s.writeDefault reg r 0 w

/-- ARC_BIND written: while VALID = 1 only VALID = 0 is taken; writing VALID = 1 sets NEXT to the channel's HEAT_RP
(R335). -/
def writeArcBind (s : State) (r n : Nat) (w : Word) : State :=
  let v := bitOf w.toNat 39
  if s.on F.ARC_BIND.VALID r n && v then s
  else
    let s1 := s.writeDefault .ARC_BIND r n w
    let s2 := if v then
        s1.setFld F.ARC_BIND.NEXT r n (s.fld F.HEAT_RP.SEQ (bitsOf w.toNat 37 36) (bitsOf w.toNat 35 32))
      else s1
    let a := s2.arc r
    s2.setArc r { a with retry := a.retry.filter (· != n) }

/-- ARC_BIND: a write of a binding (R335). -/
def execArcBind (region : Region) (index : Fin 16) (value : Word) (s : State) : Host.Outcome State Fault Refusal :=
  .next (writeArcBind s region index value)

/-! ### The host registers (R436, R437) -/

/-- HST_IRQ_ACK written: one further message of a level vector whose condition holds (R436). -/
def irqAck (s : State) (v : Nat) : State := if levelOn s v then signal s v else s

/-- IRQ_ACK (R436). -/
def execIrqAck (vector : BitVec 8) (s : State) : Host.Outcome State Fault Refusal := .next (irqAck s vector.toNat)

/-- HST_HDB written: the value is stored and vector 64 + `n` signalled (R437). -/
def hostDoorbell (s : State) (n : Nat) (w : Word) : State := signal (s.setReg .HST_HDB 0 n w) (64 + n)

/-- HOST_DOORBELL (R437). -/
def execHostDoorbell (index : Fin 64) (value : Word) (s : State) : Host.Outcome State Fault Refusal :=
  .next (hostDoorbell s index value)

/-! ### The management ports (R439, R440) -/

/-- Whether a ring of a management port with entries lies wholly in main memory. -/
def mgtRingOk (base n : Nat) : Bool := n == 0 || ringInMain (64 * base) (32 * n)

/-- HST_MGT_CFG written (R439). -/
def writeMgtCfg (s : State) (p : Nat) (w : Word) : State :=
  let s1 := writeFields 0 p w.toNat false
    [F.HST_MGT_CFG.RATE, F.HST_MGT_CFG.FEC, F.HST_MGT_CFG.PROMISC, F.HST_MGT_CFG.HIRQ, F.HST_MGT_CFG.CFG_ERR] s
  if bitOf w.toNat 39 then
    if mgtRingOk (s.fld F.HST_MGT_RX_BASE.ADDR 0 p) (s.fld F.HST_MGT_RX_N.N 0 p) &&
        mgtRingOk (s.fld F.HST_MGT_TX_BASE.ADDR 0 p) (s.fld F.HST_MGT_TX_N.N 0 p) then s1.setFld F.HST_MGT_CFG.EN 0 p 1
    else s1.setFld F.HST_MGT_CFG.CFG_ERR 0 p 1
  else s1.setFld F.HST_MGT_CFG.EN 0 p 0

/-- A ring base or length written: while EN = 1 it is ignored and sets CFG_ERR (R439). -/
def writeMgtRing (s : State) (reg : Reg) (p : Nat) (w : Word) : State :=
  if s.on F.HST_MGT_CFG.EN 0 p then s.setFld F.HST_MGT_CFG.CFG_ERR 0 p 1 else s.writeDefault reg 0 p w

/-- HST_MGT_RX_RP written: a value above RX_WP is ignored. -/
def writeMgtRxRp (s : State) (p : Nat) (w : Word) : State :=
  if s.fld F.HST_MGT_RX_WP.COUNT 0 p < w.toNat then s else s.setReg .HST_MGT_RX_RP 0 p w

/-- HST_MGT_TX_WP written: a value that would make TX_WP − TX_RP exceed N is ignored and sets CFG_ERR (R440). -/
def writeMgtTxWp (s : State) (p : Nat) (w : Word) : State :=
  if s.fld F.HST_MGT_TX_N.N 0 p < (w.toNat + 2 ^ 40 - s.fld F.HST_MGT_TX_RP.COUNT 0 p) % 2 ^ 40 then
    s.setFld F.HST_MGT_CFG.CFG_ERR 0 p 1
  else s.setReg .HST_MGT_TX_WP 0 p w

/-- MGT_ENABLE (R439): a write of HST_MGT_CFG. -/
def execMgtEnable (port : Fin 2) (value : Word) (s : State) : Host.Outcome State Fault Refusal :=
  .next (writeMgtCfg s port value)

/-- MGT_TX_WP_WRITE (R440). -/
def execMgtTxWpWrite (port : Fin 2) (value : Word) (s : State) : Host.Outcome State Fault Refusal :=
  .next (writeMgtTxWp s port value)

/-! ### Other ignored writes -/

/-- ERR_DEV_TAIL written: a value that would make the occupancy exceed 256 is ignored (Table 17.10). -/
def writeDevTail (s : State) (w : Word) : State :=
  if 256 < (s.fld F.ERR_DEV_HEAD.COUNT + 512 - w.toNat % 512) % 512 then s
  else levelIrq s (s.writeDefault .ERR_DEV_TAIL 0 0 w) 0

/-- Whether a load reads its stream from main memory. -/
def loadReadsMain (s : State) : Bool := s.load.kind != 0 && s.load.src == 0

/-- MEM_CTRL written: under the debug lock the DIAG bit keeps its value (R384). -/
def writeMemCtrl (s : State) (r : Nat) (w : Word) : State :=
  if s.on F.CFG_STATUS.LOCKED then
    writeFields r 0 w.toNat false [F.MEM_CTRL.DIAG_SRCID, F.MEM_CTRL.SCRUB_EN, F.MEM_CTRL.AUTO_REPAIR] s
  else s.writeDefault .MEM_CTRL r 0 w

end Sys2Proof.Machine
end

