-- ==== Sys2Proof/Machine/Access.lean ====
section
/-! DEFINITION. Accesses to the register map: what a write of one slot does and what a read returns (R6, R7, R28, R35,
R193, R443). -/

namespace Sys2Proof.Machine

/-! ### Writes -/

/-- TIM_CTRL written: REF_SEL has its own effect (R40). -/
def writeTimCtrl (s : State) (w : Word) : State :=
  let s1 := writeFields 0 0 w.toNat false
    [F.TIM_CTRL.PPS_OUT_EN, F.TIM_CTRL.REF_OUT_EN, F.TIM_CTRL.STEP_POLICY, F.TIM_CTRL.TS_EN0, F.TIM_CTRL.TS_EN1,
     F.TIM_CTRL.ONE_STEP0, F.TIM_CTRL.ONE_STEP1, F.TIM_CTRL.SERVO_STATE] s
  let sel := bitsOf w.toNat 15 14
  if sel < 2 then writeRefSel s1 sel else s1

/-- A counter of records consumed written: a value above the records written is ignored. -/
def writeRp (s : State) (rp wp : Reg) (u : Nat) (w : Word) : State :=
  if (s.reg wp u).toNat < w.toNat then s else s.setReg rp u 0 w

/-- A write of a register of the device block. -/
def writeDevReg (s : State) (reg : Reg) (i : Nat) (w : Word) : State :=
  match reg with
  | .TIM_CTRL => writeTimCtrl s w
  | .TIM_RATE => writeTimRate s w
  | .TIM_ADJ_SEC => writeTimAdjSec s w
  | .TIM_ALIGN => writeTimAlign s w
  | .TIM_STRIDE_CFG => writeStrideCfg s w
  | .PWR_DEV_REQ => writePwrReq s none w
  | .RST_CMD => writeRstCmd s w
  | .NOC_SWAP => writeSwap s w
  | .ERR_FRZ_CMD => writeFrzCmd s w
  | .ERR_INJ_CTRL => writeInj s w
  | .ERR_DEV_TAIL => writeDevTail s w
  | .HST_IRQ_ACK => irqAck s (w.toNat % 256)
  | .HST_HDB => hostDoorbell s i w
  | .HST_MGT_CFG => writeMgtCfg s i w
  | .HST_MGT_RX_BASE | .HST_MGT_RX_N | .HST_MGT_TX_BASE | .HST_MGT_TX_N => writeMgtRing s reg i w
  | .HST_MGT_RX_RP => writeMgtRxRp s i w
  | .HST_MGT_TX_WP => writeMgtTxWp s i w
  | _ => s.writeDefault reg 0 i w

/-- A write of a register of the SE_ or SUP_ block of a processor. -/
def writeProcReg (s : State) (reg : Reg) (p i : Nat) (w : Word) : State :=
  match reg with
  | .SE_CTRL | .SUP_CTRL => writeProcCtrl s p w
  | .SE_PC | .SUP_PC => writePc s p w
  | .SE_DOORBELL | .SUP_DOORBELL => writeDoorbell s p w
  | .SE_DMA_DESC | .SUP_DMA_DESC => writeDmaDesc s p i w
  | .SE_DBG_DATA | .SUP_DBG_DATA => if s.on F.CFG_STATUS.LOCKED then s else dbgWrite s p w
  | .SE_IMEM | .SUP_IMEM => writeImem s p i w
  | .SUP_WDOG_KICK => wdogKick s (p - 64)
  | _ => s.writeDefault reg (procUnit p) i w

/-- A write of a CFG_ register (Chapter 15). -/
def writeCfgReg (s : State) (reg : Reg) (r i : Nat) (w : Word) : State :=
  match reg with
  | .CFG_CMD => writeCfgCmd s w
  | .CFG_CTRL => updDone (s.writeDefault .CFG_CTRL 0 0 w)
  | .CFG_SRC_ADDR => if loadReadsMain s then s else s.writeDefault .CFG_SRC_ADDR 0 0 w
  | .CFG_ZCMD => writeZcmd s r w
  | .CFG_FUSE_CMD => if bitOf w.toNat 34 then fuseGo s (bitsOf w.toNat 39 35) else s
  | .CFG_FUSE_DATA => s.setReg .CFG_FUSE_DATA 0 i w
  | _ => s.writeDefault reg r i w

/-- A write of a register of a region's block outside the SUP_ and CFG_ blocks. -/
def writeRegionReg (s : State) (reg : Reg) (r i : Nat) (w : Word) : State :=
  match reg with
  | .TRC_CTRL => writeTrcCtrl s r w
  | .TRC_SRC => writeTrcSrc s r w
  | .TRC_RP => writeTrcRp s r w
  | .TRC_MEM_BASE | .TRC_MEM_LEN => writeTrcMem s reg r w
  | .FAB_RCK_CFG => rckWritten (s.writeDefault .FAB_RCK_CFG r i w) r i
  | .TIM_GUN_PORT => badPush s r
  | .TRG_SEQ_CTRL => writeSeqCtrl s r w
  | .TRG_S_COND0 | .TRG_S_COND1 | .TRG_S_RST0 | .TRG_S_RST1 | .TRG_S_TIMEOUT => writeStageReg s reg r i w
  | .TRG_SW => softwareEvent s r (w.toNat % 4)
  | .HEAT_CTRL | .HEAT_SRC | .HEAT_TRIG | .HEAT_PRE | .HEAT_POST | .HEAT_BASE | .HEAT_SLOT | .HEAT_NSLOT | .HEAT_HOLDOFF
  | .HEAT_FELT | .HEAT_BW | .HEAT_NOTIFY | .HEAT_STAT | .HEAT_RP => writeHeatReg s reg r i w
  | .MEM_CTRL => writeMemCtrl s r w
  | .MEM_INIT_CTRL => writeMemInit s r w
  | .MEM_REPAIR => writeMemRepair s r i w
  | .ARC_CTRL => writeArcCtrl s r w
  | .ARC_CPL_BASE | .ARC_CPL_LEN => writeArcRing s reg r w
  | .ARC_CPL_RP => writeRp s .ARC_CPL_RP .ARC_CPL_WP r w
  | .ARC_CMD_PORT => s
  | .ARC_BIND => writeArcBind s r i w
  | .PWR_REQ => writePwrReq s (some (Fin.ofNat 4 r)) w
  | .PWR_LANE => writePwrLane s r w
  | .NOC_PC_CTRL => writePcCtrl s r w
  | .NOC_PC_BASE | .NOC_PC_LEN => writePcRing s reg r w
  | .NOC_PC_RP => writeRp s .NOC_PC_RP .NOC_PC_WP r w
  | _ => s.writeDefault reg r i w

/-- A write of a register of a tile's block outside the SE_ and LN_ blocks. -/
def writeTileReg (s : State) (reg : Reg) (t i : Nat) (w : Word) : State :=
  match reg with
  | .CELL_CTRL => writeCellCtrl s t w
  | .QC_SIZE => writeQcSize s t i w
  | .QC_CFG => writeQcCfg s t i w
  | .QC_RD => writeQcRd s t i w
  | .QC_WM => syncQueue (s.writeDefault .QC_WM t i w) t i
  | .QC_CMD => writeQcCmd s t i w
  | .QC_LANE => writeQcLane s t w
  | .QC_REPAIR => writeRepair true s t i w
  | .SPD_REPAIR => writeRepair false s t i w
  | .SPD_MARCH_CTRL => writeMarch s t w
  | .NOC_RES => writeNocRes s t w
  | .NOC_TBL_PEND => writeTblPend s t i w
  | .TRG_WIN_CTRL => writeWinCtrl s (tileLane t) w
  | .TRG_WIN_PRE => writeWinPre s t w
  | .TRG_DET_CFG => writeDetCfg s t i w
  | _ => s.writeDefault reg t i w

/-- A write of a register of a lane's LN_ block. -/
def writeLaneReg (s : State) (reg : Reg) (t i : Nat) (w : Word) : State :=
  let l := tileLane t
  match reg with
  | .LN_CTRL => writeLnCtrl s l w
  | .LN_RATE => writeLnRate s l w
  | .LN_PCS => writePcs s l w
  | .LN_TX_FFE => writeTxFfe s l w
  | .LN_RX_CFG => writeRxCfg s l w
  | .LN_FFE | .LN_DFE => writeCoef s reg l i w
  | .LN_INJ_CTRL => writeInjCtrl s l w
  | .LN_HIST_CFG => writeHistCfg s l w
  | .LN_SLIP => writeSlip s l w
  | _ => s.writeDefault reg t i w

/-- Whether a register is one of an SE_ or SUP_ block. -/
def Reg.ofProc (r : Reg) : Bool :=
  match r with
  | .SE_CTRL | .SE_STATUS | .SE_BOOT | .SE_PC | .SE_FAULT | .SE_OVF_PC | .SE_IRQ_EN | .SE_IRQ_CLASS | .SE_IRQ_PEND
  | .SE_DOORBELL | .SE_HURDLE | .SE_STALL | .SE_DMA_DESC | .SE_DMA_STAT | .SE_DBG_SEL | .SE_DBG_DATA | .SE_IMEM
  | .SUP_CTRL | .SUP_STATUS | .SUP_BOOT | .SUP_PC | .SUP_FAULT | .SUP_OVF_PC | .SUP_IRQ_EN | .SUP_IRQ_CLASS | .SUP_IRQ_PEND
  | .SUP_DOORBELL | .SUP_HURDLE | .SUP_STALL | .SUP_DMA_DESC | .SUP_DMA_STAT | .SUP_DBG_SEL | .SUP_DBG_DATA | .SUP_IMEM
  | .SUP_WDOG | .SUP_WDOG_KICK | .SUP_NSTAT | .SUP_DMEM => true
  | _ => false

/-- Whether a register is one of a CFG_ block. -/
def Reg.ofCfg (r : Reg) : Bool := r.region0Only || decide (r = .CFG_ZCMD) || decide (r = .CFG_ZONE)

/-- Whether a register is one of an LN_ block. -/
def Reg.ofLane (r : Reg) : Bool :=
  decide (0x41000 ≤ r.place.offset) && decide (r.place.offset < 0x42000) &&
    match r.place.blk with | .laneTile => true | _ => false

/-- A write of a register slot: every field under its access type (R7), and what the write commands. -/
def writeReg (s : State) (q : RegRef) (w : Word) : State :=
  match q.reg.place.blk with
  | .dev => writeDevReg s q.reg q.idx w
  | .region =>
    if q.reg.ofProc then writeProcReg s q.reg (64 + q.unit) q.idx w
    else if q.reg.ofCfg then writeCfgReg s q.reg q.unit q.idx w
    else writeRegionReg s q.reg q.unit q.idx w
  | .tile => if q.reg.ofProc then writeProcReg s q.reg q.unit q.idx w else writeTileReg s q.reg q.unit q.idx w
  | .laneTile => if q.reg.ofLane then writeLaneReg s q.reg q.unit q.idx w else writeTileReg s q.reg q.unit q.idx w

/-! ### Reads -/

/-- The code of a mode in HST_MODE. -/
def modeCode (m : Mode) : Nat :=
  match m with
  | .blank => 0 | .loading => 1 | .run => 2 | .frozen => 3 | .idle => 4 | .doze => 5 | .sleep => 6 | .test => 7

/-- Usable blocks of a region's archive (Table 13.2). -/
def arcUsable : Nat := if Config.productX then 25000000000 else 12500000000

/-- Blocks that the objects of an archive hold. -/
def arcStored (a : ArcSt) : Nat := a.objs.foldl (fun n o => n + o.blocks.length) 0

/-- Free usable blocks of a region's archive. -/
def arcFree (s : State) (r : Nat) : Nat := arcUsable - (s.arc r).retired - arcStored (s.arc r)

/-- The bits of a flag per tile of a region. -/
def tileBits (m : List (Nat × Bool)) (r : Nat) : Nat := ofBits (fun n => mget false m (16 * r + n)) 16

/-- Whether a fabric pin is in CLK mode. -/
def pinIsClk (s : State) (r n : Nat) : Bool := s.fld F.FAB_PIN_CFG.MODE r n == 3

/-- A slot value with a field in place. -/
def putF (f : Fld) (n v : Nat) : Nat := putBits n f.hi f.lo v

/-- A register value with its live fields in place. -/
def live (s : State) (q : RegRef) (n : Nat) : Nat :=
  let u := q.unit
  match q.reg with
  | .HST_ID => putF F.HST_ID.CODE n (if Config.productX then 2 else 1)
  | .HST_MODE => putF F.HST_MODE.MODE n (modeCode s.mode)
  | .HST_MGT_CFG => putF F.HST_MGT_CFG.LINK_UP n (flag (mget false s.host.local_ q.idx))
  | .PWR_DEV_STAT =>
    (List.range 4).foldl (fun n r =>
      putBits (putBits n (2 * r + 33) (2 * r + 32) (s.fld F.PWR_STAT.STATE r)) (28 + r) (28 + r) (s.fld F.PWR_STAT.BUSY r)) n
  | .RST_STATUS =>
    let busy := ofBits (fun r => mget 0 s.rst.region r != 0 ||
      (List.range 16).any (fun z => (mget {} s.zones (16 * r + z)).zreset)) 4
    putF F.RST_STATUS.REGION_BUSY (putF F.RST_STATUS.BUSY n (flag (s.rst.warm != 0))) busy
  | .ERR_FRZ_STAT => putF F.ERR_FRZ_STAT.PENDING_AT n (flag (s.frz.atTime.isSome || s.frz.resumeAt.isSome))
  | .ERR_DEV_STAT => putF F.ERR_DEV_STAT.FULL n (flag (devOcc s == 256))
  | .ERR_INJ_CTRL => putF F.ERR_INJ_CTRL.ARMED n (flag (injArmed s))
  | .SE_IRQ_PEND => n ||| levelBits s u
  | .SUP_IRQ_PEND => n ||| levelBits s (64 + u)
  | .FAB_PIN_IN => putF F.FAB_PIN_IN.LEVEL n (ofBits (fun t => mget 0 s.fab.pi (16 * u + t) != 0) 16)
  | .FAB_PIN_OUT =>
    putF F.FAB_PIN_OUT.LEVEL (putF F.FAB_PIN_OUT.OE n (tileBits s.fab.pinOE u))
      (ofBits (fun t => !pinIsClk s u t && mget false s.fab.pinLevel (16 * u + t)) 16)
  | .FAB_RCK_STAT => putF F.FAB_RCK_STAT.RUN n (rckRunning s u)
  | .ARC_STATUS => putF F.ARC_STATUS.FULL n (flag (arcFree s u == 0))
  | .ARC_CMD_STAT => putF F.ARC_CMD_STAT.DEPTH n (s.arc u).cmds.length
  | .ARC_FREE => arcFree s u
  | .CELL_SCRUB => putF F.CELL_SCRUB.PASSES n (slowestPasses s u)
  | .TRC_STATUS => let t := s.trcUnit u; putF F.TRC_STATUS.BUSY n (flag (t.stopping != 0 || delivering t))
  | .NOC_RSTAT => putF F.NOC_RSTAT.LINK_UP n (ofBits (fun k => !mget false s.net.down (4 * u + (3 - k))) 4)
  | _ => n

/-- The value a read without a side effect returns, live fields in place. -/
def liveWord (s : State) (q : RegRef) : Word := BitVec.ofNat 40 (live s q (s.peek q.reg q.unit q.idx).toNat)

/-- The state a command leaves. -/
def afterCmd (s : State) (o : Host.Outcome State Fault Refusal) : State :=
  match o with
  | .next t => t
  | _ => s

/-- A low word read latches the high word of its pair (R35). -/
def latchPair (s : State) (lo hi : Reg) (u : Nat) (v w : Nat) : State :=
  { (s.setReg lo u 0 (BitVec.ofNat 40 v)).setReg hi u 0 (BitVec.ofNat 40 w) with lastRead := BitVec.ofNat 40 v }

/-- A read of a register slot: the data go to the requester in `lastRead`, RC fields clear and split values latch (R7,
R35). -/
def readReg (s : State) (q : RegRef) : State :=
  let l := tileLane q.unit
  let v := s.lane l
  match q.reg with
  | .TIM_NOW_FRAC => afterCmd s (execTimNowFracRead s.time.phase.toNat s)
  | .TRC_BUF => readTrcBuf s q.unit q.idx
  | .TIM_PPS_IN_FRAC => afterCmd s (execTimPpsInFracRead s)
  | .TIM_STRIDE_LO => afterCmd s (execTimStrideLoRead s)
  | .TIM_TS_INFO => afterCmd s (execTimTsInfoRead s)
  | .LN_CHK_BITS_LO => afterCmd s (execLnChkBitsLoRead (Fin.ofNat 48 l) s)
  | .LN_TS_INFO => afterCmd s (execLnTsInfoRead (Fin.ofNat 48 l) s)
  | .ERR_REG_REC0 => readRec0 s q.unit
  | .LN_FEC_CW_LO => latchPair s .LN_FEC_CW_LO .LN_FEC_CW_HI q.unit v.fecCw (v.fecCw / 2 ^ 40)
  | .TRG_WIN_CNT_LO => latchPair s .TRG_WIN_CNT_LO .TRG_WIN_CNT_HI q.unit v.cnt (v.cnt / 2 ^ 40)
  | .TRG_WIN_TRIG_FRAC =>
    latchPair s .TRG_WIN_TRIG_FRAC .TRG_WIN_TRIG_SEC q.unit (s.reg .TRG_WIN_TRIG_FRAC q.unit).toNat v.trigSec
  | .TRG_WIN_FS_FRAC =>
    latchPair s .TRG_WIN_FS_FRAC .TRG_WIN_FS_SEC q.unit (s.reg .TRG_WIN_FS_FRAC q.unit).toNat v.fsSec
  | .SE_DBG_DATA => { s with lastRead := if s.on F.CFG_STATUS.LOCKED then 0 else dbgRead s q.unit }
  | .SUP_DBG_DATA => { s with lastRead := if s.on F.CFG_STATUS.LOCKED then 0 else dbgRead s (64 + q.unit) }
  | .SE_IMEM | .SUP_IMEM => { s with lastRead := if s.on F.CFG_STATUS.LOCKED then 0 else s.reg q.reg q.unit q.idx }
  | .FAB_RCK_STAT => { (s.readDefault q.reg q.unit q.idx).used with lastRead := liveWord s q }
  | _ => { s.readDefault q.reg q.unit q.idx with lastRead := liveWord s q }

end Sys2Proof.Machine
end

