-- ==== Sys2Proof/Machine/Serve.lean ====
section
/-! DEFINITION. The network's nodes: which node an address names (R295, R420, R443), and how it serves reads and writes
in block form and slot form (R29, R90, R132, R137, R138, R147, R297, R315-R317, R420). -/

namespace Sys2Proof.Machine

/-! ### Addresses (R25, R26, R295) -/

/-- The readout structures of Table 17.6. -/
inductive RdoKind where
  | committed | shadow | control | instr | sched | boxes
  deriving DecidableEq, Repr

/-- What a byte address names (R25, R26, R420, R443): a block of main memory, a line of a tile's queue memory, a line of
its lane window, a word of its scratchpad seen plainly or through an mirror (1 bit-set, 2 bit-clear), a readout structure
with its offset, a register block's span, or nothing. -/
inductive Target where
  | main
  | queueMem (t line : Nat)
  | window (t : Nat)
  | spd (t w mirror : Nat)
  | readout (k : RdoKind) (t off : Nat)
  | regs
  | none
  deriving DecidableEq, Repr

/-- Whether an offset lies in a span of the device block (Table 18.7). -/
def devSpan (o : Nat) : Bool := decide (o < 0x50000) || (decide (0x80000 ≤ o) && decide (o < 0xC0000))

/-- Whether an offset lies in an occupied range of the block of tile `t` of a region (Table 18.9). -/
def tileSpan (t o : Nat) : Bool :=
  decide (o < 0x100) || (decide (0x1000 ≤ o) && decide (o < 0x5000)) || (decide (0x20000 ≤ o) && decide (o < 0x40000)) ||
  (decide (t < 12) && ((decide (0x40000 ≤ o) && decide (o < 0x40100)) || (decide (0x41000 ≤ o) && decide (o < 0x42000)) ||
    decide (0x60000 ≤ o)))

/-- Whether a register block's span covers an address (R443). -/
def regSpan (a : Nat) : Bool :=
  match blockOf a with
  | none => false
  | some (.dev, _, o) => devSpan o
  | some (.region, _, o) => decide (o < 0x1F0000)
  | some (_, u, o) => tileSpan (u % 16) o

/-- What an address names. -/
def targetOf (a : Nat) : Target :=
  if a < 0x2000000000 then .main
  else if 0x4000000000 ≤ a ∧ a < 0x4010000000 then
    let t := (a - 0x4000000000) / 0x400000
    let o := (a - 0x4000000000) % 0x400000
    if o < 0x200000 then .queueMem t (o / 64)
    else if o < 0x300000 ∧ t % 16 < 12 then .window t
    else .none
  else if 0x4100000000 ≤ a ∧ a < 0x4400000000 then
    let k := (a - 0x4100000000) / 0x100000000
    let o := (a - 0x4100000000) % 0x100000000
    if o < 0x4000000 then .spd (o / 0x100000) (o % 0x100000 / 8) k else .none
  else if 0x5000000000 ≤ a ∧ a < 0x5020000000 then
    .readout .committed ((a - 0x5000000000) / 0x800000) ((a - 0x5000000000) % 0x800000)
  else if 0x5020000000 ≤ a ∧ a < 0x5040000000 then
    .readout .shadow ((a - 0x5020000000) / 0x800000) ((a - 0x5020000000) % 0x800000)
  else if 0x5040000000 ≤ a ∧ a < 0x5048000000 then
    .readout .control ((a - 0x5040000000) / 0x200000) ((a - 0x5040000000) % 0x200000)
  else if 0x5100000000 ≤ a ∧ a < 0x5180000000 then
    .readout .instr ((a - 0x5100000000) / 0x2000000) ((a - 0x5100000000) % 0x2000000)
  else if 0x5200000000 ≤ a ∧ a < 0x5240000000 then
    .readout .sched ((a - 0x5200000000) / 0x1000000) ((a - 0x5200000000) % 0x1000000)
  else if 0x5300000000 ≤ a ∧ a < 0x5300040000 then
    .readout .boxes ((a - 0x5300000000) / 0x1000) ((a - 0x5300000000) % 0x1000)
  else if regSpan a then .regs
  else .none

/-- The node of a register block: 0:14 for the device block, *n*:13 for a region's, the tile's local port (Table 12.3). -/
def regNode (a : Nat) : Nat :=
  match blockOf a with
  | some (.dev, _, _) => 2 * 14 + 1
  | some (.region, r, _) => 2 * (16 * r + 13) + 1
  | some (_, u, _) => 2 * u
  | none => 0

/-- The node an address is routed to, 2·router + (0 local, 1 service); none where the address is reserved (R295). -/
def nodeOf (a : Nat) : Option Nat :=
  match targetOf a with
  | .main => some (2 * (16 * memRegion a + memPort a) + 1)
  | .queueMem t _ => some (2 * t)
  | .window t => some (2 * t)
  | .spd t _ _ => some (2 * t)
  | .readout _ t _ => some (2 * t)
  | .regs => some (regNode a)
  | .none => none

/-- Whether an address lies in block form (R170). -/
def isBlockForm (a : Nat) : Bool :=
  match targetOf a with
  | .main | .queueMem _ _ | .window _ => true
  | _ => false

/-- Whether the slots that `sel` names of the 64-byte range at `b` are served by node 13 of a region in SLEEP: those of its
PWR_ and ERR_ blocks and SUP_DOORBELL (R390). -/
def servedAsleep (b sel : Nat) : Bool :=
  match blockOf b with
  | some (.region, r, o) =>
    (decide (0x1C0000 ≤ o) && decide (o < 0x1E0000)) ||
    (List.range 8).all (fun i => !bitOf sel i || b + 8 * i == regAddr .SUP_DOORBELL r 0)
  | _ => true

/-- Whether node 13 of a region in SLEEP turns a request to the 64-byte range at `b` away (R390). -/
def asleep (s : State) (b sel : Nat) : Bool :=
  match blockOf b with
  | some (.region, r, _) => decide (s.fld F.PWR_STAT.STATE r = 3) && !servedAsleep b sel
  | _ => false

/-! ### The readout window (R29, R90, R420) -/

/-- Whether a structure of the window is open at tile `t` (R29, R384). -/
def rdoOpen (s : State) (t : Nat) : Bool :=
  !s.on F.CFG_STATUS.LOCKED && (decide (s.mode = .frozen) || s.tileIsolated t)

/-- An access to the window outside its conditions: the first while EVT is clear is reported (R29). -/
def rdoInvalid (s : State) (a : Nat) : State :=
  if s.on F.ERR_DEV_STAT.EVT then s
  else ((s.setFld F.ERR_DEV_STAT.EVT 0 0 1).setReg .ERR_RDO_ADDR 0 0 (BitVec.ofNat 40 a)).emitDev 0x5401

/-- The cell and word of an offset in the layout of Table 1.9. -/
def rdoCell (t off : Nat) : Nat × Nat := (1024 * t + off / 0x80000 * 64 + off % 0x80000 / 0x2000, off % 0x2000 / 8)

/-- A flag map of a cell in slot `m` of its control record: bits [40m + 39:40m]. -/
def flagSlot (f : List (Nat × Bool)) (ci m : Nat) : Nat :=
  ofBits (fun i => decide (40 * m + i < 1024) && mget false f (1024 * ci + 40 * m + i)) 40

/-- A slot of a cell control record (Table 17.6). -/
def controlSlot (s : State) (ci slot : Nat) : Nat :=
  if slot < 26 then flagSlot s.fab.dirty ci slot
  else if 32 ≤ slot ∧ slot < 58 then flagSlot s.fab.smap ci (slot - 32)
  else if slot = 64 then mget 0 s.fab.domain ci
  else if slot = 65 then (mget 0 s.fab.routeOut ci).toNat
  else 0

/-- Bit `b` of a schedule entry (R106). -/
def schedBit (s : State) (cl step b : Nat) : Bool :=
  let k := 2048 * cl + step
  if b < 1024 then bitOf (mget 0 s.fab.sel (32 * k + b / 32)) (b % 32)
  else if b < 1080 then bitOf (mget 0x7F s.fab.co (8 * k + (b - 1024) / 7)) ((b - 1024) % 7)
  else if b < 2360 then bitOf (mget 0xFE000 s.fab.route (64 * k + (b - 1080) / 20)) ((b - 1080) % 20)
  else false

/-- A read of a structure of the open window. -/
def rdoRead (s : State) (k : RdoKind) (t off : Nat) : Word × State :=
  match k with
  | .committed => let c := rdoCell t off; readEntry s c.1 c.2 (s.committed c.1 c.2) true 0
  | .shadow => let c := rdoCell t off; readEntry s c.1 c.2 (1 - s.committed c.1 c.2) true 0
  | .control =>
    (BitVec.ofNat 40 (controlSlot s (1024 * t + off / 0x20000 * 64 + off % 0x20000 / 0x800) (off % 0x800 / 8)), s)
  | .instr =>
    let ci := 1024 * t + off / 0x200000 * 64 + off % 0x200000 / 0x8000
    let n := (mget 0 s.fab.imem (2048 * ci + off % 0x8000 / 16)).toNat
    (BitVec.ofNat 40 (if off % 16 / 8 = 0 then n % 2 ^ 40 else n / 2 ^ 40), s)
  | .sched =>
    let cl := 16 * t + off / 0x100000
    let w := off % 0x200 / 8
    (wordOf (fun i => schedBit s cl (off % 0x100000 / 0x200) (40 * w + i)), s)
  | .boxes =>
    let o := off % 0x100 / 8
    (mget 0 s.fab.out (32 * (16 * t + off / 0x100) + o), s)

/-- A deposit: the committed entry with fresh check bits, the word's dirty flag cleared (R90). -/
def deposit (s : State) (ci w : Nat) (v : Word) : State :=
  let s1 := writeEntry s ci w (s.committed ci w) v
  { s1 with fab := { s1.fab with dirty := merase s1.fab.dirty (1024 * ci + w) } }

/-! ### Words of a tile -/

/-- Whether a scratchpad is closed to the DMA class by a destructive march (R139). -/
def spdMarching (s : State) (t : Nat) : Bool :=
  let v := mget {} s.tiles t
  v.march && !v.marchQm && !v.marchKeep

/-- A slot read at address `a`: its word, its status and the state after. -/
def readSlot (s : State) (a : Nat) : (Word × Nat) × State :=
  match targetOf a with
  | .spd t w _ =>
    if spdMarching s t then ((0, stTileBusy), s)
    else let r := readSpd s t w; ((r.1.1, stOk), r.2)
  | .readout k t off =>
    if rdoOpen s t then let r := rdoRead s k t off; ((r.1, stOk), r.2) else ((0, stOk), rdoInvalid s a)
  | .regs =>
    match decodeReg a with
    | some q => let t := readReg s q; ((t.lastRead, stOk), t)
    | none => ((0, stOk), s)
  | _ => ((0, stUnmapped), s)

/-- A slot written at address `a`: its status and the state after. -/
def writeSlot (s : State) (a : Nat) (v : Word) : Nat × State :=
  match targetOf a with
  | .spd t w al =>
    if spdMarching s t then (stTileBusy, s)
    else if al = 0 then (stOk, writeSpd s t w v)
    else
      let r := readSpd s t w
      if r.1.2 then (stDataErr, r.2)
      else (stOk, writeSpd r.2 t w (if al = 1 then r.1.1 ||| v else r.1.1 &&& ~~~v))
  | .readout k t off =>
    if rdoOpen s t then
      match k with
      | .committed => let c := rdoCell t off; (stOk, deposit s c.1 c.2 v)
      | _ => (stPriv, s)
    else (stOk, rdoInvalid s a)
  | .regs =>
    match decodeReg a with
    | some q => (stOk, writeReg s q v)
    | none => (stOk, s)
  | _ => (stUnmapped, s)

/-- The first status other than OK. -/
def firstBad (a b : Nat) : Nat := if a = stOk then b else a

/-- The slots of the 64-byte range at `b` that `sel` names, read in ascending order: their words and the first status other
than OK. -/
def readSlots (b sel : Nat) : Nat → Nat → State → (List Word × Nat) × State
  | 0, _, s => (([], stOk), s)
  | n + 1, i, s =>
    if bitOf sel i then
      let r := readSlot s (b + 8 * i)
      let t := readSlots b sel n (i + 1) r.2
      ((r.1.1 :: t.1.1, firstBad r.1.2 t.1.2), t.2)
    else readSlots b sel n (i + 1) s

/-- Slots written in ascending order, one word each. -/
def writeSlots (b sel : Nat) : Nat → Nat → List Word → State → Nat × State
  | 0, _, _, s => (stOk, s)
  | n + 1, i, ws, s =>
    if bitOf sel i then
      let r := writeSlot s (b + 8 * i) (ws.headD 0)
      let t := writeSlots b sel n (i + 1) ws.tail r.2
      (firstBad r.1 t.1, t.2)
    else writeSlots b sel n (i + 1) ws s

/-- Whether an engine's DMA may write the slot at `a` (R147): a slot of its own tile, or a push or doorbell slot. -/
def engineMay (p a : Nat) : Bool :=
  (match blockOf a with | some (.tile, u, _) => u == p | _ => false) ||
  (match decodeReg a with
    | some q =>
      match q.reg with
      | .TIM_GUN_PORT | .ARC_CMD_PORT | .SE_DOORBELL | .SUP_DOORBELL | .HST_HDB => true
      | _ => false
    | none => false)

/-- The push port in the range at `b`, if any: the first of its four slots, the region, and whether it is the gun's. -/
def pushPort (b : Nat) : Option (Nat × Nat × Bool) :=
  match blockOf b with
  | some (.region, r, 0x160000) => some (0, r, true)
  | some (.region, r, 0x1A0000) => some (4, r, false)
  | _ => none

/-- The number of slots below `i` that `sel` names. -/
def slotsBelow (sel i : Nat) : Nat := popBits i sel

/-- A write of register slots (R59, R147, R331): judged as a whole for an engine; four slots of a push port are one entry,
fewer are a bad push of the gun and are ignored by the archive; every other slot is written. -/
def writeRegs (s : State) (src b sel : Nat) (ws : List Word) : Nat × State :=
  if src < 0x40 ∧ (List.range 8).any (fun i => bitOf sel i && !engineMay src (b + 8 * i)) = true then (stPriv, s)
  else
    match pushPort b with
    | none => writeSlots b sel 8 0 ws s
    | some (k, r, gun) =>
      let mine := bitsOf sel (k + 3) k
      let j := slotsBelow sel k
      let w (i : Nat) : Word := ws.getD (j + i) 0
      let s1 :=
        if mine = 15 then (if gun then gunPush s r (w 0) (w 1) (w 2) (w 3) else arcPush s r (w 0) (w 1) (w 2) (w 3))
        else if mine ≠ 0 ∧ gun = true then badPush s r
        else s
      writeSlots b (sel - mine * 2 ^ k) 8 0 (ws.take j ++ ws.drop (j + popBits 4 mine)) s1

/-! ### Lines of a tile -/

/-- A word in block form of a tile read: queue memory with its SECDED, the lane window plainly. -/
def readTileWord (s : State) (a k : Nat) : Word × State :=
  match targetOf a with
  | .queueMem t l =>
    match s.queueOfLine t l with
    | some q => readQm s t (a / 64 * 64 + 5 * k) q (12 * (l - s.fld F.QC_SIZE.BASE t q) + k)
    | none => readQm s t (a / 64 * 64 + 5 * k) 0 (12 * l + k)
  | _ => (s.readBlk (a / 64 * 64 + 5 * k), s)

/-- The words of a line that `sel` names. -/
def readLineWords (a sel : Nat) : Nat → Nat → State → List Word × State
  | 0, _, s => ([], s)
  | n + 1, k, s =>
    if bitOf sel k then
      let r := readTileWord s a k
      let t := readLineWords a sel n (k + 1) r.2
      (r.1 :: t.1, t.2)
    else readLineWords a sel n (k + 1) s

/-- Words of a line written as plain memory. -/
def writeLineWords (a sel : Nat) : Nat → Nat → List Word → State → State
  | 0, _, _, s => s
  | n + 1, k, ws, s =>
    if bitOf sel k then writeLineWords a sel n (k + 1) ws.tail (writeProt s (a / 64 * 64 + 5 * k) (ws.headD 0))
    else writeLineWords a sel n (k + 1) ws s

/-- The inbound NETWORK queue that holds the line at `a`, if any (R132). -/
def netQueueAt (s : State) (a : Nat) : Option (Nat × Nat) :=
  match targetOf a with
  | .queueMem t l =>
    match s.queueOfLine t l with
    | some q => if s.isNetIn t q then some (t, q) else none
    | none => none
  | _ => none

/-! ### One block or 64-byte range -/

/-- The status with which a request to the range of `a` is turned away, or OK: a reserved address (R295), a node that is
not ONLINE and of which the port holds no entry, or a region in SLEEP (R307, R390). -/
def turnedAway (s : State) (a sel : Nat) (held : Bool) : Nat :=
  match nodeOf a with
  | none => stUnmapped
  | some node =>
    if nodeState s node = 2 ∨ (nodeState s node = 1 ∧ held = false) then stOffline
    else if asleep s (a / 64 * 64) sel then stOffline
    else stOk

/-- Bytes 60 to 63 of the `n` blocks from `a` in the diagnostic view; nothing outside it (R27, R316). -/
def diagChecks (s : State) (a n : Nat) : List Nat :=
  if isMain a && s.on F.MEM_CTRL.DIAG (memRegion a) then
    (List.range n).flatMap (fun k => bytesAt s.mem (a / 64 * 64 + 64 * k + 60) 4)
  else []

/-- A read of the words or slots that `sel` names of the block or 64-byte range at `a` (R297, R315). -/
def readRange (s : State) (src a sel : Nat) : (List Word × Nat) × State :=
  match targetOf a with
  | .main =>
    let r := memReadBlock s a src
    (((bytesWords r.1.1).zipIdx.filterMap (fun e => if bitOf sel e.2 then some e.1 else none),
      if r.1.2 then stOk else stDataErr), r.2)
  | .queueMem _ _ | .window _ => let r := readLineWords a sel 12 0 s; ((r.1, stOk), r.2)
  | _ => readSlots (a / 64 * 64) sel 8 0 s

/-- A write of the words or slots that `sel` names (R132, R137, R147, R316, R317): its status, or none while its push
waits for free lines, and the state after. `ack` says whether a push that waits answers the packet. -/
def writeRange (s : State) (src tag stride a sel : Nat) (ws : List Word) (check : Option (List Nat)) (ack : Bool) :
    Option Nat × State :=
  match targetOf a with
  | .main =>
    if sel % 4096 = 4095 then (some stOk, memWriteBlock s a src (wordsBytes ((List.range 12).map (fun k => ws.getD k 0))) check)
    else let r := memWritePart s a src sel ws; (some r.1, r.2)
  | .queueMem _ _ | .window _ =>
    match netQueueAt s a with
    | some (t, q) =>
      if sel % 4096 = 4095 then pushLine s t q src tag stride ((List.range 12).map (fun k => ws.getD k 0)) ack
      else (some stQueueForm, s)
    | none => (some stOk, writeLineWords a sel 12 0 ws s)
  | .regs => let r := writeRegs s src (a / 64 * 64) sel ws; (some r.1, r.2)
  | _ => let r := writeSlots (a / 64 * 64) sel 8 0 ws s; (some r.1, r.2)

/-! ### Whole lines (RDL, WRL) -/

/-- Lines read in ascending order. -/
def readLines (src : Nat) : Nat → Nat → State → (List Word × Nat) × State
  | 0, _, s => (([], stOk), s)
  | n + 1, a, s =>
    let r := readRange s src a 4095
    let t := readLines src n (a + 64) r.2
    ((r.1.1 ++ t.1.1, firstBad r.1.2 t.1.2), t.2)

/-- Lines written in ascending order: the first status other than OK, the queue of the last line that waits, and the state
after. -/
def writeLines (src tag stride : Nat) : Nat → Nat → List Word → List Nat → State → (Nat × Option (Nat × Nat)) × State
  | 0, _, _, _, s => ((stOk, none), s)
  | n + 1, a, ws, cks, s =>
    let ck := if cks.length < 4 then none else some (cks.take 4)
    let r := writeRange s src tag stride a 4095 (ws.take 12) ck false
    let t := writeLines src tag stride n (a + 64) (ws.drop 12) (cks.drop 4) r.2
    match r.1 with
    | some st => ((firstBad st t.1.1, t.1.2), t.2)
    | none => ((t.1.1, if t.1.2.isSome then t.1.2 else netQueueAt s a), t.2)

/-- The last line that waits for a queue answers its packet, with the first status other than OK of the other lines. -/
def markAck (s : State) (tq : Nat × Nat) (st : Nat) : State :=
  let v := s.q tq.1 tq.2
  match v.waiting.getLast? with
  | none => s
  | some p => s.setQ tq.1 tq.2 { v with waiting := v.waiting.dropLast ++ [{ p with ack := true, status := st }] }

/-- A request carried out at its node: its status and data, or none while its acknowledgement waits for free lines. -/
def carryOut (s : State) (q : NetReq) : Option Nat × List Word × State :=
  match q.op with
  | 0 =>
    if q.sel = 0 then (some stOk, [], s)
    else let r := readRange s q.src q.addr q.sel; (some r.1.2, r.1.1, r.2)
  | 1 =>
    if isBlockForm q.addr then
      let r := readLines q.src q.sel (q.addr / 64 * 64) s
      (some r.1.2, r.1.1, r.2)
    else (some stAlign, [], s)
  | 2 =>
    if q.sel = 0 then (some stOk, [], s)
    else let r := writeRange s q.src q.tag q.stride q.addr q.sel q.words none true; (r.1, [], r.2)
  | _ =>
    if isBlockForm q.addr then
      let r := writeLines q.src q.tag q.stride q.sel (q.addr / 64 * 64) q.words q.checks s
      match r.1.2 with
      | none => (some r.1.1, [], r.2)
      | some tq => (none, [], markAck r.2 tq r.1.1)
    else (some stAlign, [], s)

end Sys2Proof.Machine
end

