-- ==== Sys2Proof/Machine/Net.lean ====
section
/-! DEFINITION. The network: requests and responses, leases, links and the probe collector (R296-R310), and what
a response does at its requester (R173, R275, R283, R366, R429). -/

namespace Sys2Proof.Machine

/-! ### The probe collector (R309) -/

/-- The oldest staged record of a region is written to the ring; a write that fails stops the collector (R309). -/
def probeWrite (s : State) (r : Nat) : State :=
  match s.net.staged.find? (fun e => e.1 == r) with
  | none => s
  | some e =>
    let s1 := { s with net := { s.net with staged := s.net.staged.erase e } }
    let len := s.fld F.NOC_PC_LEN.BLOCKS r
    let k := s.fld F.NOC_PC_WP.COUNT r
    let w := writeRecord s1 (64 * s.fld F.NOC_PC_BASE.ADDR r) len k (0x48 + r) e.2
    if w.1 ≠ stOk then (w.2.setFld F.NOC_PC_CTRL.SINK_ERR r 0 1).setFld F.NOC_PC_CTRL.EN r 0 0
    else
      let s2 := w.2.setFld F.NOC_PC_WP.COUNT r 0 (k + 1)
      if 3 * len < (k + 1 + 2 ^ 40 - s.fld F.NOC_PC_RP.COUNT r) % 2 ^ 40 then s2.setFld F.NOC_PC_CTRL.WRAPPED r 0 1 else s2

/-- PROBE_RECORD (R309): a record that a matching head flit staged goes to the ring. -/
def execProbeRecord (region : Region) (s : State) : Host.Outcome State Fault Refusal := .next (probeWrite s region)

/-! ### Requests -/

/-- Payload words of a request. -/
def NetReq.load (q : NetReq) : Nat :=
  match q.op with | 2 => popBits 12 q.sel | 3 => 12 * q.sel | _ => 0

/-- What the range check of a request names: its slots, or whole lines. -/
def NetReq.range (q : NetReq) : Nat := if q.op = 0 ∨ q.op = 2 then q.sel else 4095

/-- Whether a node is of a unit under reset: a tile or the region block under W and G, a tile of the zone under Z (R401). -/
def nodeReset (s : State) (node : Nat) : Bool :=
  let t := node / 2
  let tile := node % 2 == 0
  ((s.rst.warm == 2 || mget 0 s.rst.region (t / 16) == 2) && (tile || t % 16 == 13)) ||
    (tile && (match s.zoneOf t with
      | none => false
      | some z => (s.zone (16 * (t / 16) + z)).zreset && decide (2 ≤ s.zstate (16 * (t / 16) + z))))

/-- Whether a port has an unacknowledged request to a node that it injected before the last swap (R303). -/
def olderOpen (s : State) (port node : Nat) : Bool :=
  s.resps.any (fun x => x.old && x.node == node && srcPort x.dst == port) ||
    (node % 2 == 0 && (List.range 16).any (fun q => (s.q (node / 2) q).waiting.any (fun p => p.old && srcPort p.src == port)))

/-- Whether nothing on the network holds a request: no QUIESCE waits, no unit is under reset, no link is down, and nothing
is unacknowledged from before a swap. -/
def netCalm (s : State) : Bool :=
  s.swapState != 2 && s.rst.warm != 2 && s.rst.region.isEmpty && s.zones.all (fun e => !e.2.zreset) && s.net.down.isEmpty &&
    s.resps.all (fun x => !x.old) && s.queues.all (fun e => e.2.waiting.all (fun p => !p.old))

/-- Whether a request is one that its node takes (R295, R307). -/
def takenBy (s : State) (q : NetReq) (node : Nat) : Bool :=
  turnedAway s q.addr q.range (decide (0 < heldOf s q.src node)) == stOk

/-- Whether a request waits at its source (R301, R303, R304, log entry 38): one that its node turns away completes at
once (R307). -/
def heldBack (s : State) (q : NetReq) : Bool :=
  !netCalm s && (match nodeOf q.addr with
    | none => false
    | some n => takenBy s q n &&
        (s.swapState == 2 || routeDown s (srcPort q.src / 2) (n / 2) || olderOpen s (srcPort q.src) n))

/-- Whether a request waits at a node under reset, which serves it when the reset ends (R401). -/
def heldThere (s : State) (q : NetReq) : Bool :=
  !netCalm s && (match nodeOf q.addr with | none => false | some n => takenBy s q n && nodeReset s n)

/-- A request from its acceptance to its answer: the status and data, or no status while its acknowledgement waits for free
lines (R30, R132, R295, R297, R302, R307). -/
def serveNow (s : State) (q : NetReq) : Option Nat × List Word × State :=
  match nodeOf q.addr with
  | none => (some stUnmapped, List.replicate (if q.op = 0 then popBits 12 q.sel else if q.op = 1 then 12 * q.sel else 0) 0, s)
  | some node =>
    let bad := turnedAway s q.addr q.range (decide (0 < heldOf s q.src node))
    if bad ≠ stOk then (some bad, if q.op = 0 then List.replicate (popBits 12 q.sel) 0 else [], s)
    else
      let s1 := travel (useEntry s q.src node) ⟨0, q.op, q.src, srcPort q.src, node, q.load, q.addr, q.tag⟩
      let r := carryOut s1 q
      match r.1 with
      | none => r
      | some st =>
        (some st, r.2.1, travel r.2.2 ⟨1, if q.op < 2 then 8 else 9, q.src, node, srcPort q.src, r.2.1.length, 0, q.tag⟩)

/-- Whether a request waits on the network. -/
def NetReq.waits (q : NetReq) (s : State) : Bool := heldBack s q || heldThere s q

/-- A request served, or held where something holds it: no status then. -/
def access (s : State) (q : NetReq) : Option Nat × List Word × State :=
  if heldBack s q then (none, [], { s with net := { s.net with waitReq := s.net.waitReq ++ [q] } })
  else if heldThere s q then (none, [], { s with net := { s.net with accepted := s.net.accepted ++ [q] } })
  else serveNow s q

/-- The check bytes that a read shows in the diagnostic view (R316). -/
def NetReq.diag (q : NetReq) (s : State) : List Nat :=
  match q.op with | 0 => diagChecks s q.addr 1 | 1 => diagChecks s q.addr q.sel | _ => []

/-- A request served, its response on the way (R297). -/
def serveReq (s : State) (q : NetReq) : State :=
  let r := access s q
  match r.1 with
  | none => r.2.2
  | some st =>
    { r.2.2 with resps := r.2.2.resps ++ [{
        isRead := decide (q.op < 2), dst := q.src, tag := q.tag, status := st, words := r.2.1
        checks := if st = stOk then q.diag s else [], node := (nodeOf q.addr).getD (srcPort q.src), late := q.late }] }

/-- The requests held go on in order where nothing holds them any longer: first those at nodes, then those at sources. -/
def releaseHeld (s : State) : State :=
  let s1 := s.net.accepted.foldl serveReq { s with net := { s.net with accepted := [] } }
  s1.net.waitReq.foldl serveReq { s1 with net := { s1.net with waitReq := [] } }

/-- An event of the network at a router: bit `n` of NOC_RSTAT.EVT, code 0x3601 + `n` (R310). -/
def nocEvent (s : State) (t n : Nat) (inj : Bool := false) : State :=
  if bitOf (s.fld F.NOC_RSTAT.EVT t) n then s else (s.orFld F.NOC_RSTAT.EVT t 0 n).emitTile (0x3601 + n) t inj

/-- A packet with a reserved encoding is discarded by the router that receives it; a REQ is answered with BAD_DESC (R297). -/
def rejectPacket (s : State) (t : Nat) (inj : Bool) (reply : Option (Bool × Nat × Nat)) : State :=
  let s1 := nocEvent s t 3 inj
  match reply with
  | none => s1
  | some (rd, src, tag) => { s1 with resps := s1.resps ++ [{ isRead := rd, dst := src, tag := tag, status := stBadDesc, node := 2 * t }] }

/-- RD (R297). -/
def execRd (src : BitVec 8) (tag : BitVec 16) (addr : Word) (wen : BitVec 12) (s : State) :
    Host.Outcome State Fault Refusal :=
  .next (serveReq (releaseHeld s) { op := 0, src := src.toNat, tag := tag.toNat, addr := addr.toNat, sel := wen.toNat, stride := 0 })

/-- RDL (R297): LINES is the number of lines minus one; 10 to 15 are reserved. -/
def execRdl (src : BitVec 8) (tag : BitVec 16) (addr : Word) (lines : Fin 16) (s : State) :
    Host.Outcome State Fault Refusal :=
  if 10 ≤ lines.val then .next (rejectPacket (releaseHeld s) (srcPort src.toNat / 2) false (some (true, src.toNat, tag.toNat)))
  else .next (serveReq (releaseHeld s)
    { op := 1, src := src.toNat, tag := tag.toNat, addr := addr.toNat, sel := lines.val + 1, stride := 0 })

/-- WR (R297): `words` are those that `wen` names, in ascending order; `stride` is the sending stride (R306). -/
def execWr (src : BitVec 8) (tag : BitVec 16) (addr : Word) (wen : BitVec 12) (stride : Nat) (words : List Word) (s : State) :
    Host.Outcome State Fault Refusal :=
  .next (serveReq (releaseHeld s)
    { op := 2, src := src.toNat, tag := tag.toNat, addr := addr.toNat, sel := wen.toNat, stride := stride, words := words })

/-- WRL (R297): 12 words per line; `checks` are bytes 60 to 63 of each line for a source that DIAG_SRCID may name (R316). -/
def execWrl (src : BitVec 8) (tag : BitVec 16) (addr : Word) (lines : Fin 16) (stride : Nat) (words : List Word)
    (checks : List (BitVec 8)) (s : State) : Host.Outcome State Fault Refusal :=
  if 10 ≤ lines.val then .next (rejectPacket (releaseHeld s) (srcPort src.toNat / 2) false (some (false, src.toNat, tag.toNat)))
  else .next (serveReq (releaseHeld s)
    { op := 3, src := src.toNat, tag := tag.toNat, addr := addr.toNat, sel := lines.val + 1, stride := stride, words := words
      checks := checks.map (fun b => b.toNat) })

/-- NOC_FORMAT (R297, R310): the armed injection's packet when one waits for the router, which no source waits for. -/
def execNocFormat (router : Tile) (reply : Option (Bool × BitVec 8 × BitVec 16)) (s : State) :
    Host.Outcome State Fault Refusal :=
  if s.net.fmtInj = some router.val then
    .next (rejectPacket { s with net := { s.net with fmtInj := none } } router true (some (false, router.val, 0)))
  else .next (rejectPacket s router false (reply.map (fun e => (e.1, e.2.1.toNat, e.2.2.toNat))))

/-! ### Leases (R302, R307) -/

/-- Entries of a node's request queue: 32 at a local port, 64 at a memory-controller port, 16 at every other. -/
def nodeCap (node : Nat) : Nat := if node % 2 = 0 then 32 else if node / 2 % 16 < 4 then 64 else 16

/-- LEASE (R302, R307): the node queues it behind the leases before it; a port has one outstanding per node; a node that
closes answers with a GRANT of 0 entries. -/
def execLease (port : Fin 128) (node : Fin 128) (entries : Fin 8) (s : State) : Host.Outcome State Fault Refusal :=
  let s1 := travelCtl s 0x10 port node
  if nodeState s node = 1 then .next (travelCtl s1 0x11 node port)
  else if nodeState s node ≠ 0 ∨ s.net.asks.any (fun a => a.1 == node.val && a.2.1 == port.val) = true then .next s1
  else .next { s1 with net := { s1.net with asks := s1.net.asks ++ [(node.val, port.val, entries.val + 1)] } }

/-- GRANT (R302): a node serves its oldest lease with the entries that are free, and the remainder stays queued. A push
that waits keeps its entry. A port holds at most 8 entries of a node. -/
def execGrant (node : Fin 128) (s : State) : Host.Outcome State Fault Refusal :=
  match s.net.asks.find? (fun a => a.1 == node.val) with
  | none => .next (releaseHeld s)
  | some a =>
    let k := 128 * a.2.1 + node.val
    let have_ := mget 0 s.net.held k
    let used := mget 0 s.net.granted node + entriesWaiting s node + (s.net.accepted.filter (fun q => nodeOf q.addr == some node.val)).length
    let g := Nat.min (Nat.min a.2.2 (nodeCap node - used)) (8 - have_)
    let rest := a.2.2 - g
    let asks := if rest = 0 ∨ have_ + g = 8 then s.net.asks.erase a
      else s.net.asks.map (fun b => if b = a then (a.1, a.2.1, rest) else b)
    let s1 := travelCtl s 0x11 node a.2.1
    .next (releaseHeld { s1 with net := { s1.net with
      asks := asks, held := mset 0 s1.net.held k (have_ + g), granted := mset 0 s1.net.granted node (mget 0 s.net.granted node + g) } })

/-- `n` unused entries of a port go back to their node. -/
def giveBack (s : State) (port node n : Nat) : State :=
  let k := 128 * port + node
  let g := Nat.min n (mget 0 s.net.held k)
  if g = 0 then s
  else
    let s1 := travelCtl s 0x13 port node
    { s1 with net := { s1.net with held := mset 0 s1.net.held k (mget 0 s1.net.held k - g)
                                   granted := mset 0 s1.net.granted node (mget 0 s1.net.granted node - g) } }

/-- RECALL (R302): the port returns its unused entries of the node at once. -/
def execRecall (port : Fin 128) (node : Fin 128) (s : State) : Host.Outcome State Fault Refusal :=
  let s1 := travelCtl s 0x12 node port
  .next (giveBack { s1 with net := { s1.net with recalls := s1.net.recalls.erase (node.val, port.val) } } port node 8)

/-- RETURN (R302). -/
def execReturnOp (port : Fin 128) (node : Fin 128) (entries : Fin 8) (s : State) : Host.Outcome State Fault Refusal :=
  .next (giveBack s port node (entries.val + 1))

/-- LEASE_IDLE (R302): a port returns the entries that it has not used for NOC_CTRL.LEASE_IDLE. -/
def execLeaseIdle (port : Fin 128) (node : Fin 128) (s : State) : Host.Outcome State Fault Refusal :=
  .next (giveBack s port node 8)

/-- PWR (R297): the packet passes the probes; the handshake it carries is the entry and exit steps of the region. -/
def execPwr (port : Fin 128) (dest : Fin 128) (s : State) : Host.Outcome State Fault Refusal :=
  .next (travelCtl s 0x17 port dest)

/-! ### Links (R304, R305) -/

/-- The output that leads back over a link. -/
def backOut (out : Nat) : Nat := match out with | 0 => 1 | 1 => 0 | 2 => 3 | _ => 2

/-- The replay counter of an input. -/
def linkErrFld (input : Nat) : Fld :=
  match input with
  | 0 => F.NOC_LINK_ERR.E | 1 => F.NOC_LINK_ERR.W | 2 => F.NOC_LINK_ERR.N | _ => F.NOC_LINK_ERR.S

/-- A flit that a router sends on an output carries a bad CRC on `fails` consecutive transmissions (R304): the receiver
counts the replays and reports; the eighth failed replay takes the link down, in both directions (log entry 38). -/
def linkBad (s : State) (t out fails : Nat) (inj : Bool) : State :=
  if mget false s.net.down (4 * t + out) = true ∨ fails = 0 then s
  else
    let n := hopTo t out
    let back := backOut out
    let s1 := nocEvent (s.addSat (linkErrFld back) n 0 (Nat.min fails 8)) n 0 inj
    if fails ≤ 8 then s1
    else
      nocEvent { s1 with net := { s1.net with down := minsert (minsert s1.net.down (4 * t + out) true) (4 * n + back) true } } n 1 inj

/-- NOC_CRC (R304): of an armed injection on that output, the transmissions it names. -/
def execNocCrc (router : Tile) (output : Fin 4) (fails : Fin 16) (s : State) : Host.Outcome State Fault Refusal :=
  let k := 4 * router.val + output.val
  match mget 0 s.net.crcInj k with
  | 0 => .next (linkBad s router output fails false)
  | f => .next (linkBad { s with net := { s.net with crcInj := merase s.net.crcInj k } } router output f true)

/-- NOC_BW_SHORT (R305): a port counts a shortfall; the first while the event bit is clear is reported. -/
def execNocBwShort (router : Tile) (service : Bool) (s : State) : Host.Outcome State Fault Refusal :=
  .next (nocEvent (s.addSat (if service then F.NOC_RES_STAT.SHORT_S else F.NOC_RES_STAT.SHORT_L) router 0) router 2)

/-! ### What held requests follow (R301, R401) -/

/-- WARM_RESET_END (R22, R400, R401). -/
def execWarmResetEnd (s : State) : Host.Outcome State Fault Refusal :=
  if s.rst.warm = 2 then .next (releaseHeld (warmEnd s)) else .next s

/-- REGION_RESET_END (R400, R401). -/
def execRegionResetEnd (region : Region) (s : State) : Host.Outcome State Fault Refusal :=
  if s.gStage region = 2 then .next (releaseHeld (regionResetEnd s region)) else .next s

/-- ZONE_RESET_END (R400, R401). -/
def execZoneResetEnd (region : Region) (zone : Fin 16) (s : State) : Host.Outcome State Fault Refusal :=
  let zi := 16 * region.val + zone.val
  if (s.zone zi).zreset ∧ 2 ≤ s.zstate zi then .next (releaseHeld (zoneResetEnd s zi)) else .next s

/-- ENTRY_STEP: an entry step, or a step of an unwinding (R393, R394). What is held for a
node that closes completes (R307). -/
def execEntryStep (region : Region) (s : State) : Host.Outcome State Fault Refusal :=
  match s.pdir region with
  | 1 => .next (releaseHeld (entryStep s region))
  | 3 => .next (releaseHeld (afterWake (unwindStep s region)))
  | _ => .next s

/-- STRIDE_BOUNDARY (R14): it ends `dt` units after the last tick. -/
def execStrideBoundary (dt : Nat) (lands driven : BitVec 64) (s : State) : Host.Outcome State Fault Refusal :=
  .next (releaseHeld (strideBoundaryCmd s dt lands.toNat driven.toNat))

/-- TABLE_CHECK_DONE (R301). -/
def execTableCheckDone (s : State) : Host.Outcome State Fault Refusal := .next (releaseHeld (tableCheckDone s))

/-- SWAP_CANCEL (R301). -/
def execSwapCancel (s : State) : Host.Outcome State Fault Refusal := .next (releaseHeld (swapCancel s))

/-- NOC_SWAP_TIMEOUT (R301). -/
def execNocSwapTimeout (s : State) : Host.Outcome State Fault Refusal :=
  .next (releaseHeld (if s.swapState = 2 then swapTimeout s else s))

end Sys2Proof.Machine
end

