-- ==== Sys2Proof/Machine/Isa.lean ====
section
/-! DEFINITION. The instructions of the engines and supervisors as commands (Chapter 7): each is the issue of the named
instruction by the processor at SE_PC (R151, R168, R180-R195). -/

namespace Sys2Proof.Machine

/-! ### Accesses of instructions -/

/-- The word or slot of a request for one word at an address: none where the address has no form of R170. -/
def oneWord (a : Nat) : Option Nat :=
  match targetOf a with
  | .none => some 1
  | .main | .queueMem _ _ | .window _ =>
    if a % 64 % 5 = 0 ∧ a % 64 < 60 then some (2 ^ (a % 64 / 5)) else none
  | _ => if a % 8 = 0 then some (2 ^ (a % 64 / 8)) else none

/-- A request of a supervisor for one word (R170, R173): an address in neither form is answered with ALIGN. -/
def supRequest (s : State) (p op a : Nat) (ws : List Word) : State :=
  let src := 0x40 + (p - 64)
  match oneWord a with
  | none =>
    { s with resps := s.resps ++ [{
        isRead := decide (op = 0), dst := src, tag := 0, status := stAlign, node := srcPort src }] }
  | some sel => serveReq s { op := op, src := src, tag := 0, addr := a, sel := sel, stride := s.time.strideNum, words := ws }

/-- The address of a slot of the processor's own block (R193). -/
def ownSlot (p slot : Nat) : Nat :=
  (if isSup p then regAddr .SUP_CTRL (p - 64) 0 else regAddr .SE_CTRL p 0) + 8 * slot

/-- MFS: a slot that holds no register reads zero. -/
def mfsRead (p slot : Nat) (s : State) : Word × State :=
  match decodeReg (ownSlot p slot) with
  | none => (0, s)
  | some q => let t := readReg s q; (t.lastRead, { t with lastRead := s.lastRead })

/-- MTS: a write to a slot that holds no register has no effect. -/
def mtsWrite (p slot : Nat) (w : Word) (s : State) : State :=
  match decodeReg (ownSlot p slot) with
  | none => s
  | some q => writeReg s q w

/-- NLD leaves the supervisor. -/
def nldRequest (p a : Nat) (s : State) : State := supRequest s p 0 a []

/-- NST leaves the supervisor and is outstanding. -/
def nstRequest (p a : Nat) (w : Word) (s : State) : State :=
  supRequest (s.addSat F.SUP_NSTAT.OUTSTANDING (p - 64) 0) p 2 a [w]

/-- ECTL: a write to the SE_CTRL of an engine (R173, Table 7.14). -/
def ectlWrite (p e cmd : Nat) (s : State) : State :=
  if isSup p then writeProcCtrl s e (match cmd with | 0 => 1 | 1 => 2 | 2 => 3 | _ => 4) else s

/-- The accesses of instructions. -/
def io : Io := { mfs := mfsRead, mts := mtsWrite, load := nldRequest, store := nstRequest, ectl := ectlWrite }

/-- The processor issues an instruction at SE_PC. -/
def runInsn (proc : Proc) (i : Insn) (s : State) : Host.Outcome State Fault Refusal := .next (issue io proc (some i) s)

/-! ### The commands -/

/-- STEP (R168): a halted processor issues the instruction at SE_PC and halts again. -/
def execStep (proc : Proc) (s : State) : Host.Outcome State Fault Refusal := .next (stepCmd io s proc)

/-- RESERVED_INSTRUCTION (R181): the words raise RSV_INSN where they spell no instruction of the processor. -/
def execReservedInstruction (proc : Proc) (first : Word) (second : Word) (s : State) : Host.Outcome State Fault Refusal :=
  match fetchInsn (isSup proc) first second with
  | none => .next (issue io proc none s)
  | some _ => .next s

/-- NOP (R180). -/
def execEngineNop (proc : Proc) (s : State) : Host.Outcome State Fault Refusal := runInsn proc .nop s

/-- ADD (R185, Table 7.4). -/
def execAdd (proc : Proc) (sat : Bool) (rd : Fin 16) (ra : Fin 16) (b : AluSrc) (s : State) :
    Host.Outcome State Fault Refusal :=
  runInsn proc (.alu .add sat rd ra b) s

/-- ADC (R185, Table 7.4). -/
def execAdc (proc : Proc) (sat : Bool) (rd : Fin 16) (ra : Fin 16) (b : AluSrc) (s : State) :
    Host.Outcome State Fault Refusal :=
  runInsn proc (.alu .adc sat rd ra b) s

/-- SUB (R185, Table 7.4). -/
def execSub (proc : Proc) (sat : Bool) (rd : Fin 16) (ra : Fin 16) (b : AluSrc) (s : State) :
    Host.Outcome State Fault Refusal :=
  runInsn proc (.alu .sub sat rd ra b) s

/-- SBC (R185, Table 7.4). -/
def execSbc (proc : Proc) (sat : Bool) (rd : Fin 16) (ra : Fin 16) (b : AluSrc) (s : State) :
    Host.Outcome State Fault Refusal :=
  runInsn proc (.alu .sbc sat rd ra b) s

/-- AND (R185, Table 7.4). -/
def execAndOp (proc : Proc) (sat : Bool) (rd : Fin 16) (ra : Fin 16) (b : AluSrc) (s : State) :
    Host.Outcome State Fault Refusal :=
  runInsn proc (.alu .and_ sat rd ra b) s

/-- OR (R185, Table 7.4). -/
def execOrOp (proc : Proc) (sat : Bool) (rd : Fin 16) (ra : Fin 16) (b : AluSrc) (s : State) :
    Host.Outcome State Fault Refusal :=
  runInsn proc (.alu .or_ sat rd ra b) s

/-- XOR (R185, Table 7.4). -/
def execXorOp (proc : Proc) (sat : Bool) (rd : Fin 16) (ra : Fin 16) (b : AluSrc) (s : State) :
    Host.Outcome State Fault Refusal :=
  runInsn proc (.alu .xor_ sat rd ra b) s

/-- ANDN (R185, Table 7.4). -/
def execAndn (proc : Proc) (sat : Bool) (rd : Fin 16) (ra : Fin 16) (b : AluSrc) (s : State) :
    Host.Outcome State Fault Refusal :=
  runInsn proc (.alu .andn sat rd ra b) s

/-- CMP (R185, Table 7.4). -/
def execCmp (proc : Proc) (sat : Bool) (ra : Fin 16) (b : AluSrc) (s : State) : Host.Outcome State Fault Refusal :=
  runInsn proc (.alu .cmp sat 0 ra b) s

/-- TST (R185, Table 7.4). -/
def execTst (proc : Proc) (sat : Bool) (ra : Fin 16) (b : AluSrc) (s : State) : Host.Outcome State Fault Refusal :=
  runInsn proc (.alu .tst sat 0 ra b) s

/-- MIN (R185, Table 7.4). -/
def execMin (proc : Proc) (sat : Bool) (rd : Fin 16) (ra : Fin 16) (b : AluSrc) (s : State) :
    Host.Outcome State Fault Refusal :=
  runInsn proc (.alu .min_ sat rd ra b) s

/-- MAX (R185, Table 7.4). -/
def execMax (proc : Proc) (sat : Bool) (rd : Fin 16) (ra : Fin 16) (b : AluSrc) (s : State) :
    Host.Outcome State Fault Refusal :=
  runInsn proc (.alu .max_ sat rd ra b) s

/-- ABS (R185, Table 7.4). -/
def execAbs (proc : Proc) (sat : Bool) (rd : Fin 16) (ra : Fin 16) (s : State) : Host.Outcome State Fault Refusal :=
  runInsn proc (.alu .abs sat rd ra (.reg 0)) s

/-- NEG (R185, Table 7.4). -/
def execNeg (proc : Proc) (sat : Bool) (rd : Fin 16) (ra : Fin 16) (s : State) : Host.Outcome State Fault Refusal :=
  runInsn proc (.alu .neg sat rd ra (.reg 0)) s

/-- PCNT (R185, Table 7.4). -/
def execPcnt (proc : Proc) (sat : Bool) (rd : Fin 16) (ra : Fin 16) (s : State) : Host.Outcome State Fault Refusal :=
  runInsn proc (.alu .pcnt sat rd ra (.reg 0)) s

/-- LZC (R185, Table 7.4). -/
def execLzc (proc : Proc) (sat : Bool) (rd : Fin 16) (ra : Fin 16) (s : State) : Host.Outcome State Fault Refusal :=
  runInsn proc (.alu .lzc sat rd ra (.reg 0)) s

/-- SHL (R186, Table 7.5). -/
def execShl (proc : Proc) (sat : Bool) (rd : Fin 16) (ra : Fin 16) (k : ShiftAmt) (s : State) :
    Host.Outcome State Fault Refusal :=
  runInsn proc (.shift .shl sat rd ra k) s

/-- SHR (R186, Table 7.5). -/
def execShr (proc : Proc) (sat : Bool) (rd : Fin 16) (ra : Fin 16) (k : ShiftAmt) (s : State) :
    Host.Outcome State Fault Refusal :=
  runInsn proc (.shift .shr sat rd ra k) s

/-- SAR (R186, Table 7.5). -/
def execSar (proc : Proc) (sat : Bool) (rd : Fin 16) (ra : Fin 16) (k : ShiftAmt) (s : State) :
    Host.Outcome State Fault Refusal :=
  runInsn proc (.shift .sar sat rd ra k) s

/-- ROL (R186, Table 7.5). -/
def execRol (proc : Proc) (sat : Bool) (rd : Fin 16) (ra : Fin 16) (k : ShiftAmt) (s : State) :
    Host.Outcome State Fault Refusal :=
  runInsn proc (.shift .rol sat rd ra k) s

/-- MV (R187, Table 7.6). -/
def execMv (proc : Proc) (rd : Fin 16) (ra : Fin 16) (s : State) : Host.Outcome State Fault Refusal :=
  runInsn proc (.mv rd ra) s

/-- MVI (R187, Table 7.6). -/
def execMvi (proc : Proc) (rd : Fin 16) (v : MoveImm) (s : State) : Host.Outcome State Fault Refusal :=
  runInsn proc (.mvi rd v) s

/-- MVFR (R187, Table 7.6). -/
def execMvfr (proc : Proc) (rd : Fin 16) (code : Fin 64) (s : State) : Host.Outcome State Fault Refusal :=
  runInsn proc (.mvfr rd code) s

/-- MVTR (R187, Table 7.6). -/
def execMvtr (proc : Proc) (code : Fin 64) (ra : Fin 16) (s : State) : Host.Outcome State Fault Refusal :=
  runInsn proc (.mvtr code ra) s

/-- MVTI (R187, Table 7.6). -/
def execMvti (proc : Proc) (code : Fin 64) (imm : Word) (s : State) : Host.Outcome State Fault Refusal :=
  runInsn proc (.mvti code imm) s

/-- LD (R188, Table 7.7). -/
def execLd (proc : Proc) (width : Fin 4) (xt : Fin 16) (pn : Fin 8) (am : AddrMode) (s : State) :
    Host.Outcome State Fault Refusal :=
  runInsn proc (.ld width xt pn am) s

/-- ST (R188, Table 7.7). -/
def execSt (proc : Proc) (width : Fin 4) (xt : Fin 16) (pn : Fin 8) (am : AddrMode) (s : State) :
    Host.Outcome State Fault Refusal :=
  runInsn proc (.st width xt pn am) s

/-- BCC (R189, Table 7.8): condition code 15 is reserved. -/
def execBcc (proc : Proc) (cond : Fin 16) (target : BitVec 15) (s : State) : Host.Outcome State Fault Refusal :=
  match condOf cond with
  | some c => runInsn proc (.bcc c target.toNat) s
  | none => .next (issue io proc none s)

/-- CALL (R190, Table 7.9). -/
def execCall (proc : Proc) (rd : Fin 16) (target : BitVec 15) (s : State) : Host.Outcome State Fault Refusal :=
  runInsn proc (.call rd target.toNat) s

/-- JR (R190, Table 7.9). -/
def execJr (proc : Proc) (ra : Fin 16) (s : State) : Host.Outcome State Fault Refusal :=
  runInsn proc (.jr ra) s

/-- CALLR (R190, Table 7.9). -/
def execCallr (proc : Proc) (rd : Fin 16) (ra : Fin 16) (s : State) : Host.Outcome State Fault Refusal :=
  runInsn proc (.callr rd ra) s

/-- RTI (R162, R190). -/
def execRti (proc : Proc) (s : State) : Host.Outcome State Fault Refusal :=
  runInsn proc (.rti) s

/-- RTF (R162, R190). -/
def execRtf (proc : Proc) (s : State) : Host.Outcome State Fault Refusal :=
  runInsn proc (.rtf) s

/-- BDEC (R191). -/
def execBdec (proc : Proc) (rn : Fin 16) (target : BitVec 15) (s : State) : Host.Outcome State Fault Refusal :=
  runInsn proc (.bdec rn target.toNat) s

/-- MPY (R192, Table 7.10). -/
def execMpy (proc : Proc) (sat : Bool) (n : Fin 4) (ra : Fin 16) (rb : Fin 16) (s : State) :
    Host.Outcome State Fault Refusal :=
  runInsn proc (.mul .mpy sat n ra rb) s

/-- MAC (R192, Table 7.10). -/
def execMac (proc : Proc) (sat : Bool) (n : Fin 4) (ra : Fin 16) (rb : Fin 16) (s : State) :
    Host.Outcome State Fault Refusal :=
  runInsn proc (.mul .mac sat n ra rb) s

/-- MSU (R192, Table 7.10). -/
def execMsu (proc : Proc) (sat : Bool) (n : Fin 4) (ra : Fin 16) (rb : Fin 16) (s : State) :
    Host.Outcome State Fault Refusal :=
  runInsn proc (.mul .msu sat n ra rb) s

/-- MACR (R192, Table 7.10). -/
def execMacr (proc : Proc) (sat : Bool) (n : Fin 4) (ra : Fin 16) (rb : Fin 16) (s : State) :
    Host.Outcome State Fault Refusal :=
  runInsn proc (.mul .macr sat n ra rb) s

/-- CMUL (R192, Table 7.11). -/
def execCmul (proc : Proc) (sat : Bool) (pair : Fin 2) (ra : Fin 16) (rb : Fin 16) (s : State) :
    Host.Outcome State Fault Refusal :=
  runInsn proc (.quad .cmul sat pair ra rb 0) s

/-- CMAC (R192, Table 7.11). -/
def execCmac (proc : Proc) (sat : Bool) (pair : Fin 2) (ra : Fin 16) (rb : Fin 16) (s : State) :
    Host.Outcome State Fault Refusal :=
  runInsn proc (.quad .cmac sat pair ra rb 0) s

/-- CMULJ (R192, Table 7.11). -/
def execCmulj (proc : Proc) (sat : Bool) (pair : Fin 2) (ra : Fin 16) (rb : Fin 16) (s : State) :
    Host.Outcome State Fault Refusal :=
  runInsn proc (.quad .cmulj sat pair ra rb 0) s

/-- CMACJ (R192, Table 7.11). -/
def execCmacj (proc : Proc) (sat : Bool) (pair : Fin 2) (ra : Fin 16) (rb : Fin 16) (s : State) :
    Host.Outcome State Fault Refusal :=
  runInsn proc (.quad .cmacj sat pair ra rb 0) s

/-- DMPY (R192, Table 7.11). -/
def execDmpy (proc : Proc) (sat : Bool) (pair : Fin 2) (ra : Fin 16) (rb : Fin 16) (rc : Fin 16) (s : State) :
    Host.Outcome State Fault Refusal :=
  runInsn proc (.quad .dmpy sat pair ra rb rc) s

/-- DMAC (R192, Table 7.11). -/
def execDmac (proc : Proc) (sat : Bool) (pair : Fin 2) (ra : Fin 16) (rb : Fin 16) (rc : Fin 16) (s : State) :
    Host.Outcome State Fault Refusal :=
  runInsn proc (.quad .dmac sat pair ra rb rc) s

/-- MUL40 (R192, Table 7.11). -/
def execMul40 (proc : Proc) (sat : Bool) (pair : Fin 2) (ra : Fin 16) (rb : Fin 16) (s : State) :
    Host.Outcome State Fault Refusal :=
  runInsn proc (.quad .mul40 sat pair ra rb 0) s

/-- MUL40U (R192, Table 7.11). -/
def execMul40u (proc : Proc) (sat : Bool) (pair : Fin 2) (ra : Fin 16) (rb : Fin 16) (s : State) :
    Host.Outcome State Fault Refusal :=
  runInsn proc (.quad .mul40u sat pair ra rb 0) s

/-- EXT (R156, R192, Table 7.12). -/
def execExt (proc : Proc) (sat : Bool) (rd : Fin 16) (n : Fin 4) (k : Fin 64) (s : State) :
    Host.Outcome State Fault Refusal :=
  runInsn proc (.acc .ext sat rd 0 n 0 k) s

/-- ACLR (R192, Table 7.12). -/
def execAclr (proc : Proc) (n : Fin 4) (s : State) : Host.Outcome State Fault Refusal :=
  runInsn proc (.acc .aclr false 0 0 n 0 0) s

/-- AADD (R192, Table 7.12). -/
def execAadd (proc : Proc) (sat : Bool) (n : Fin 4) (ra : Fin 16) (s : State) : Host.Outcome State Fault Refusal :=
  runInsn proc (.acc .aadd sat 0 ra n 0 0) s

/-- ASUB (R192, Table 7.12). -/
def execAsub (proc : Proc) (sat : Bool) (n : Fin 4) (ra : Fin 16) (s : State) : Host.Outcome State Fault Refusal :=
  runInsn proc (.acc .asub sat 0 ra n 0 0) s

/-- AADDA (R192, Table 7.12). -/
def execAadda (proc : Proc) (sat : Bool) (n : Fin 4) (m : Fin 4) (s : State) : Host.Outcome State Fault Refusal :=
  runInsn proc (.acc .aadda sat 0 0 n m 0) s

/-- ASL (R192, Table 7.12). -/
def execAsl (proc : Proc) (sat : Bool) (n : Fin 4) (k : Fin 64) (s : State) : Host.Outcome State Fault Refusal :=
  runInsn proc (.acc .asl sat 0 0 n 0 k) s

/-- ASR (R192, Table 7.12). -/
def execAsr (proc : Proc) (n : Fin 4) (k : Fin 64) (s : State) : Host.Outcome State Fault Refusal :=
  runInsn proc (.acc .asr false 0 0 n 0 k) s

/-- ANEG (R192, Table 7.12). -/
def execAneg (proc : Proc) (sat : Bool) (n : Fin 4) (s : State) : Host.Outcome State Fault Refusal :=
  runInsn proc (.acc .aneg sat 0 0 n 0 0) s

/-- MFS (R193, Table 7.13). -/
def execMfs (proc : Proc) (rd : Fin 16) (slot : Fin 64) (s : State) : Host.Outcome State Fault Refusal :=
  runInsn proc (.mfs rd slot) s

/-- MTS (R193, Table 7.13). -/
def execMts (proc : Proc) (slot : Fin 64) (ra : Fin 16) (s : State) : Host.Outcome State Fault Refusal :=
  runInsn proc (.mts slot ra) s

/-- HURDLE (R164, R193). -/
def execHurdle (proc : Proc) (rd : Fin 16) (s : State) : Host.Outcome State Fault Refusal :=
  runInsn proc (.hurdle rd) s

/-- HURDLE_N (R164, R193). -/
def execHurdleN (proc : Proc) (rd : Fin 16) (s : State) : Host.Outcome State Fault Refusal :=
  runInsn proc (.hurdleN rd) s

/-- WAITI (R166, R193). -/
def execWaiti (proc : Proc) (s : State) : Host.Outcome State Fault Refusal :=
  runInsn proc (.waiti) s

/-- WAITC (R166, R193). -/
def execWaitc (proc : Proc) (ra : Fin 16) (s : State) : Host.Outcome State Fault Refusal :=
  runInsn proc (.waitc ra) s

/-- DMAGO (R169, R193). -/
def execDmago (proc : Proc) (ra : Fin 16) (ch : Fin 4) (s : State) : Host.Outcome State Fault Refusal :=
  runInsn proc (.dmago ra ch) s

/-- NLD (R173, R194). -/
def execNld (proc : Proc) (rd : Fin 16) (a : NetAddr) (s : State) : Host.Outcome State Fault Refusal :=
  runInsn proc (.nld rd a) s

/-- NST (R173, R194). -/
def execNst (proc : Proc) (rb : Fin 16) (a : NetAddr) (s : State) : Host.Outcome State Fault Refusal :=
  runInsn proc (.nst rb a) s

/-- NFENCE (R173, R194). -/
def execNfence (proc : Proc) (s : State) : Host.Outcome State Fault Refusal :=
  runInsn proc (.nfence) s

/-- ECTL (R173, R194). -/
def execEctl (proc : Proc) (ra : Fin 16) (cmd : Fin 4) (s : State) : Host.Outcome State Fault Refusal :=
  runInsn proc (.ectl ra cmd) s

end Sys2Proof.Machine
end

