-- ==== Sys2Proof/Machine/Dma.lean ====
section
/-! DEFINITION. The processors' DMA descriptors (R136, R147, R169-R171), and the close of a heat with its notification
(R275). -/

namespace Sys2Proof.Machine

/-! ### Descriptors (Table 6.10) -/

/-- The four words of a descriptor. -/
structure Desc where
  w0 : Word
  w1 : Word
  w2 : Word
  w3 : Word
  deriving DecidableEq, Repr

/-- DIR. -/
def Desc.dir (d : Desc) : Nat := bitsOf d.w0.toNat 38 37
/-- IRQ. -/
def Desc.irq (d : Desc) : Bool := bitOf d.w0.toNat 36
/-- CHAIN. -/
def Desc.chain (d : Desc) : Bool := bitOf d.w0.toNat 35
/-- LEN. -/
def Desc.len (d : Desc) : Nat := bitsOf d.w0.toNat 17 0
/-- SADDR. -/
def Desc.saddr (d : Desc) : Nat := bitsOf d.w2.toNat 16 0
/-- NEXT. -/
def Desc.next (d : Desc) : Nat := bitsOf d.w3.toNat 16 0

/-- Whether a descriptor is one that returns BAD_DESC. -/
def Desc.bad (d : Desc) : Bool :=
  decide (1 < d.dir) || decide (131072 < d.len) || (d.chain && decide (d.next % 4 ≠ 0))

/-- A word of the local side, read in the DMA class; a double-bit error passes the stored data bits (R138). -/
def localRead (s : State) (p a : Nat) : Word × State := let r := s.dmemRead p a; (r.1.1, r.2)

/-- The descriptor at a local address. -/
def readDesc (s : State) (p a : Nat) : Desc × State :=
  let r0 := localRead s p a
  let r1 := localRead r0.2 p (a + 1)
  let r2 := localRead r1.2 p (a + 2)
  let r3 := localRead r2.2 p (a + 3)
  (⟨r0.1, r1.1, r2.1, r3.1⟩, r3.2)

/-- Words of the local side from an address on. -/
def localReads (p : Nat) : Nat → Nat → State → List Word × State
  | 0, _, s => ([], s)
  | n + 1, a, s =>
    let r := localRead s p a
    let t := localReads p n (a + 1) r.2
    (r.1 :: t.1, t.2)

/-- Words written to the local side from an address on, modulo its size. -/
def localWrites (p : Nat) : List Word → Nat → State → State
  | [], _, s => s
  | w :: ws, a, s => localWrites p ws (a + 1) (s.dmemWrite p a w)

/-- The source identifier of a processor (Table 12.2). -/
def procSrcId (p : Nat) : Nat := if isSup p then 0x40 + (p - 64) else p

/-! ### The transfer (R170) -/

/-- Progress of a descriptor: its status, the words moved and the acknowledgements due. -/
structure Moved where
  status : Nat := stOk
  count  : Nat := 0
  due    : Nat := 0
  deriving DecidableEq, Repr

/-- The request that takes up to `left` words from `addr` on: the words it moves, WEN, whether it is a whole line, and the
address that follows. -/
def chunkAt (addr left : Nat) : Nat × Nat × Bool × Nat :=
  if isBlockForm addr then
    let j := addr % 64 / 5
    let n := Nat.min left (12 - j)
    (n, (2 ^ n - 1) * 2 ^ j, decide (n = 12), if j + n = 12 then (addr / 64 + 1) * 64 else addr + 5 * n)
  else
    let j := addr % 64 / 8
    let n := Nat.min left (8 - j)
    (n, (2 ^ n - 1) * 2 ^ j, false, addr + 8 * n)

/-- A request of a descriptor. -/
def chunkReq (src tag stride addr wen : Nat) (write whole : Bool) (ws : List Word) : NetReq :=
  if whole then
    { op := if write then 3 else 1, src := src, tag := tag, addr := addr, sel := 1, stride := stride, words := ws }
  else { op := if write then 2 else 0, src := src, tag := tag, addr := addr, sel := wen, stride := stride, words := ws }

/-- Words moved between the local side of a processor and the network, request by request, up to the first that fails
(log entry 39). `stamps` are the sending strides (R306). -/
def moveWords (p tag : Nat) (toDev : Bool) : Nat → Nat → Nat → Nat → List Nat → Moved → State → Moved × State
  | 0, _, _, _, _, m, s => (m, s)
  | fuel + 1, addr, la, left, stamps, m, s =>
    if left = 0 then (m, s)
    else
      let c := chunkAt addr left
      let stride := stamps.headD s.time.strideNum
      let data := if toDev then localReads p c.1 la s else ([], s)
      let r := access data.2 (chunkReq (procSrcId p) tag stride addr c.2.1 toDev c.2.2.1 data.1)
      match r.1 with
      | none =>
        moveWords p tag toDev fuel c.2.2.2 (la + c.1) (left - c.1) stamps.tail { m with count := m.count + c.1, due := m.due + 1 } r.2.2
      | some st =>
        if st ≠ stOk then ({ m with status := st }, r.2.2)
        else
          let s1 := if toDev then r.2.2 else localWrites p (r.2.1.take c.1) la r.2.2
          moveWords p tag toDev fuel c.2.2.2 (la + c.1) (left - c.1) stamps.tail { m with count := m.count + c.1 } s1

/-- Whether one of the requests for `left` words from `addr` on is held (R301, R401): the descriptor then waits (log entry
44). -/
def chunksWait (s : State) (src : Nat) : Nat → Nat → Nat → Bool
  | 0, _, _ => false
  | fuel + 1, addr, left =>
    if left = 0 then false
    else
      let c := chunkAt addr left
      (chunkReq src 0 0 addr c.2.1 true c.2.2.1 []).waits s || chunksWait s src fuel c.2.2.2 (left - c.1)

/-- Whether the transfer of a descriptor that moves words is held. -/
def movesWait (s : State) (src addr len : Nat) (moves : Bool) : Bool :=
  moves && !netCalm s && chunksWait s src len addr len

/-- A descriptor carried out for its first `n` words. -/
def carryDesc (s : State) (p ch : Nat) (d : Desc) (n : Nat) (stamps : List Nat) : Moved × State :=
  let addr := d.w1.toNat
  if d.bad then ({ status := stBadDesc }, s)
  else if d.len = 0 then ({}, s)
  else if oneWord addr = none then ({ status := stAlign }, s)
  else moveWords p (0x8000 + ch) (decide (d.dir = 1)) n addr d.saddr n stamps {} s

/-! ### Completion (R171) -/

/-- Whether the local side of a processor turns DMA requests away: its scratchpad is being marched (R139). -/
def localBusy (s : State) (p : Nat) : Bool := !isSup p && spdMarching s p

/-- DONE, STATUS and COUNT written back. -/
def descBack (s : State) (p a : Nat) (d : Desc) (status count : Nat) : State :=
  if localBusy s p then s
  else
    let w0 := BitVec.ofNat 40 (putBits (putBits d.w0.toNat 39 39 1) 34 31 status)
    let w2 := BitVec.ofNat 40 (putBits d.w2.toNat 39 22 count)
    (s.dmemWrite p a w0).dmemWrite p (a + 2) w2

/-- The channel stops on a status other than OK. -/
def stopChan (s : State) (p ch status : Nat) (inj : Bool) : State :=
  let s1 := (s.setPf p F.SE_DMA_STAT.BUSY F.SUP_DMA_STAT.BUSY 0 ch).setPf p F.SE_DMA_STAT.STATUS F.SUP_DMA_STAT.STATUS status ch
  procEvent (raiseEdge (s1.setPf p F.SE_DMA_STAT.ERR F.SUP_DMA_STAT.ERR 1 ch) p 17) p 2 inj

/-- A descriptor completes: it is written back, then the chain continues or the channel stops. -/
def endDesc (s : State) (p ch a : Nat) (d : Desc) (status count : Nat) (inj : Bool) : State :=
  let s1 := descBack s p a d status count
  let v := s1.proc p
  let s2 := s1.setProc p { v with dmaRun := v.dmaRun.filter (fun e => e.1 != ch), aborts := v.aborts.filter (· != ch) }
  if status ≠ stOk then stopChan s2 p ch status inj
  else
    let s3 := s2.setPf p F.SE_DMA_STAT.STATUS F.SUP_DMA_STAT.STATUS stOk ch
    let s4 := if d.irq then raiseEdge s3 p 16 else s3
    if d.chain then s4.setPf p F.SE_DMA_STAT.CUR F.SUP_DMA_STAT.CUR d.next ch
    else s4.setPf p F.SE_DMA_STAT.BUSY F.SUP_DMA_STAT.BUSY 0 ch

/-- A descriptor with the status of an armed injection, which stops the channel (Table 17.14). -/
def endInjected (s : State) (p ch a : Nat) (d : Desc) (status count : Nat) : State :=
  match (s.proc p).dmaInj.find? (fun e => e.1 == ch) with
  | none => endDesc s p ch a d status count false
  | some e => endDesc (s.setProc p { s.proc p with dmaInj := (s.proc p).dmaInj.erase e }) p ch a d e.2 count true

/-- The current descriptor of a busy channel: what a descriptor that waits for acknowledgements holds, or else its
transfer. -/
def runDesc (s : State) (p ch : Nat) (limit : Option Nat) (stamps : List Nat) : State :=
  let a := s.pf p F.SE_DMA_STAT.CUR F.SUP_DMA_STAT.CUR ch
  if localBusy s p then endDesc s p ch a ⟨0, 0, 0, 0⟩ (if limit.isSome then 12 else stTileBusy) 0 false
  else
    let r := readDesc s p a
    match (s.proc p).dmaRun.find? (fun e => e.1 == ch) with
    | some e =>
      if e.2.2.2 ≠ 0 then s
      else endInjected r.2 p ch a r.1 (if limit.isSome then 12 else e.2.1) e.2.2.1
    | none =>
      let held := movesWait s (procSrcId p) r.1.w1.toNat r.1.len (!r.1.bad && (oneWord r.1.w1.toNat).isSome)
      let n := match limit with | some k => if held then 0 else Nat.min k r.1.len | none => r.1.len
      if held ∧ limit.isNone = true then s
      else
        let m := carryDesc r.2 p ch r.1 n stamps
        let st := if limit.isSome then 12 else m.1.status
        if m.1.due = 0 then endInjected m.2 p ch a r.1 st m.1.count
        else m.2.setProc p { m.2.proc p with dmaRun := (m.2.proc p).dmaRun ++ [(ch, m.1.status, m.1.count, m.1.due)] }

/-- Whether a processor has a DMA channel. -/
def hasChan (p ch : Nat) : Bool := !(isSup p && decide (2 ≤ ch))

/-- DMA_DESCRIPTOR_COMPLETE (R171): the current descriptor of a channel is carried out and completes; `stamps` are the
sending strides of its requests in order, where they differ from the present one (R306). -/
def execDmaDescriptorComplete (proc : Proc) (channel : Fin 4) (stamps : List Nat) (s : State) :
    Host.Outcome State Fault Refusal :=
  if hasChan proc channel && chanBusy s proc channel && !(s.proc proc).aborts.contains channel.val then
    .next (runDesc s proc channel none stamps)
  else .next s

/-- DMA_ABORT (R171): `count` words of the current descriptor were issued before the ABORT. -/
def execDmaAbort (proc : Proc) (channel : Fin 4) (count : Nat) (s : State) : Host.Outcome State Fault Refusal :=
  if hasChan proc channel && chanBusy s proc channel then
    .next (runDesc (dmaAbortAsk s proc channel) proc channel (some count) [])
  else .next s

/-- An acknowledgement of a push that a descriptor waited for; a failed line moved no word (log entry 39). -/
def dmaAck (s : State) (p ch status : Nat) : State :=
  let v := s.proc p
  s.setProc p { v with dmaRun := v.dmaRun.map (fun e =>
    if e.1 = ch then
      (e.1, firstBad e.2.1 status, if status = stOk then e.2.2.1 else e.2.2.1 - 12, e.2.2.2 - 1)
    else e) }

/-! ### The close of a heat (R65, R275) -/

/-- A word posted to a register slot. -/
def postWord (s : State) (src a : Nat) (w : Word) : Nat × State :=
  let r := access s { op := 2, src := src, tag := 1, addr := a, sel := 2 ^ (a % 64 / 8), stride := s.time.strideNum, words := [w] }
  (r.1.getD stOk, r.2.2)

/-- The due gun ARMs of a channel that has just closed its last heat waited for the close (R65). -/
def armsWaited (s : State) (r c : Nat) : State :=
  if (s.ch r c).closing.isEmpty then
    { s with guns := s.guns.map (fun e =>
        if e.region == r && e.cls == 2 && e.index == c && e.action == 0x10 && decide (e.time ≤ s.instant) then
          { e with waited := true }
        else e) }
  else s

/-- HEAT_CLOSED (R275): the oldest closing heat closes and is announced at HEAT_NOTIFY. -/
def execHeatClosed (region : Region) (channel : Fin 16) (s : State) : Host.Outcome State Fault Refusal :=
  let x := closeHeat s region channel
  match x.1 with
  | none => .next x.2
  | some w =>
    let s1 := armsWaited x.2 region channel
    let a := 8 * s1.fld F.HEAT_NOTIFY.ADDR region channel
    if a = 0 then .next s1
    else
      let r := postWord s1 (0x44 + region) a w
      if r.1 = stOk then .next r.2 else .next (acqEvent r.2 region 5 channel)

end Sys2Proof.Machine
end

