-- ==== Sys2Proof/Machine/Archive.lean ====
section
/-! DEFINITION. The archive engine: its commands, completions, bound heats, patrol and cleaner (R324-R336). -/

namespace Sys2Proof.Machine

/-! ### The flash (R327-R330) -/

/-- Status codes of Table 13.5 beside OK. -/
def arFull : Nat := 1
def arNoObj : Nat := 2
def arRange : Nat := 3
def arUncorr : Nat := 4
def arDataErr : Nat := 5
def arOvertaken : Nat := 6
def arWrongMode : Nat := 7
def arOffline : Nat := 11

/-- What the flash reported, in ARC_ECC and ARC_HEALTH and as events. -/
def mediaSeen (s : State) (r : Nat) (m : Media) : State :=
  let s1 := (s.addSat F.ARC_ECC.RETRIES r 0 (m.retries + m.uncorr.length)).addSat F.ARC_ECC.UNCORR r 0 m.uncorr.length
  let s2 := s1.addSat F.ARC_HEALTH.GROWN r 0 (m.fails + m.soft)
  let s3 := s2.setArc r { s2.arc r with retired := (s2.arc r).retired + m.lost }
  let s4 := match m.spare with | some v => s3.setFld F.ARC_HEALTH.SPARE r 0 v.toNat | none => s3
  let s5 := match m.wear with | some v => s4.setFld F.ARC_HEALTH.WEAR r 0 v.toNat | none => s4
  let s6 := if m.uncorr.isEmpty then s5 else arcEvent s5 r 0
  let s7 := if m.fails = 0 then s6 else arcEvent s6 r 1
  if m.low then arcEvent s7 r 4 else s7

/-- An armed injection that fails the next sector read (Table 17.14): the flash is unchanged. -/
def readInjected (s : State) (r : Nat) : Bool × State :=
  if (s.arc r).uncorr then
    let s1 := s.setArc r { s.arc r with uncorr := false }
    (true, arcEvent ((s1.addSat F.ARC_ECC.RETRIES r 0).addSat F.ARC_ECC.UNCORR r 0) r 0 true)
  else (false, s)

/-- An armed injection that fails the next page-group program: the data goes elsewhere and no block is retired. -/
def progInjected (s : State) (r : Nat) : State :=
  if (s.arc r).prog then arcEvent (s.setArc r { s.arc r with prog := false }) r 1 true else s

/-! ### Objects (R325, Table 13.3) -/

/-- The object record that STAT writes. -/
def objRecord (o : ArcObj) : List Word :=
  [BitVec.ofNat 40 o.num,
    BitVec.ofNat 40 ((if o.heat then 2 else 1) * 2 ^ 38 + flag o.isOpen * 2 ^ 37 + flag o.badBlk * 2 ^ 36 + o.region * 2 ^ 34
      + o.chan * 2 ^ 30),
    BitVec.ofNat 40 o.seq, BitVec.ofNat 40 o.blocks.length, BitVec.ofNat 40 (fracOf o.time), BitVec.ofNat 40 (secOf o.time),
    BitVec.ofNat 40 o.tag, 0, 0, 0, 0, 0]

/-- An object of a region's archive. -/
def arcObj (s : State) (r num : Nat) : Option ArcObj := (s.arc r).objs.find? (fun o => o.num == num)

/-- Blocks of main memory read from an address on, with whether one was uncorrectable; none where the memory is offline. -/
def readBlocks (src : Nat) : Nat → Nat → State → Option (List (List Word) × Bool) × State
  | 0, _, s => (some ([], false), s)
  | n + 1, a, s =>
    if memAccess s a ≠ 0 then (none, s)
    else
      let r := netReadBlock s a src
      let t := readBlocks src n (a + 64) r.2
      match t.1 with
      | none => (none, t.2)
      | some x => (some (bytesWords r.1.1 :: x.1, x.2 || !r.1.2), t.2)

/-- An object created under the next number. -/
def createObj (s : State) (r : Nat) (o : ArcObj) : State :=
  let n := s.fld F.ARC_NEXT_OBJ.OBJ r
  let s1 := s.addWrap F.ARC_NEXT_OBJ.OBJ r 0
  s1.setArc r { s1.arc r with objs := (s1.arc r).objs ++ [{ o with num := n }] }

/-- A block written with a check field that fails every read (R327); its words are free values. -/
def writeFailing (s : State) (a src : Nat) : State :=
  let f := freeBlock s
  let s1 := netWriteBlock f.2 a src (wordsBytes f.1)
  let b := a / 64 * 64 + 60
  { s1 with mem := putBytes b ((bytesAt s1.mem b 4).map (fun x => x ^^^ 0xFF)) s1.mem }

/-- Blocks of an object copied to main memory from an address on: blocks moved, blocks written with a failing check field,
and whether the memory was offline. `n` is the number of the next block. -/
def copyOut (src : Nat) (bad : List Nat) : List (List Word) → Nat → Nat → State → (Nat × Nat × Bool) × State
  | [], _, _, s => ((0, 0, false), s)
  | b :: bs, n, a, s =>
    if memAccess s a ≠ 0 then ((0, 0, true), s)
    else
      let fail := bad.contains (n / 64)
      let s1 := if fail then writeFailing s a src else netWriteBlock s a src (wordsBytes b)
      let t := copyOut src bad bs (n + 1) (a + 64) s1
      ((t.1.1 + 1, t.1.2.1 + flag fail, t.1.2.2), t.2)

/-! ### Commands (R331, R332, R334) -/

/-- Whether `n` blocks at an address are a range a command may name (R333). -/
def arcRangeOk (a n : Nat) : Bool := decide (a % 64 = 0) && decide (a + 64 * n ≤ 0x2000000000)

/-- What a command answers: status, object, blocks moved, blocks written with a failing check field. -/
abbrev ArcAns := Nat × Nat × Nat × Nat

/-- WRITE. -/
def arcWrite (s : State) (r : Nat) (c : ArcCmd) (m : Media) : ArcAns × State :=
  if c.len = 0 then ((0, 0, 0, 0), s)
  else if !arcRangeOk c.addr c.len then ((arRange, 0, 0, 0), s)
  else if arcFree s r < c.len then ((arFull, 0, 0, 0), arcEvent s r 2)
  else
    let x := readBlocks (0x50 + r) c.len c.addr s
    match x.1 with
    | none => ((arOffline, 0, 0, 0), x.2)
    | some (bs, bad) =>
      let s1 := mediaSeen (progInjected x.2 r) r { m with uncorr := [] }
      let n := s1.fld F.ARC_NEXT_OBJ.OBJ r
      ((if bad then arDataErr else 0, n, c.len, 0), createObj s1 r
        { num := n, heat := false, isOpen := false, badBlk := bad, region := 0, chan := 0, seq := 0, time := s1.instant
          tag := c.tag, blocks := bs })

/-- READ. -/
def arcRead (s : State) (r : Nat) (c : ArcCmd) (m : Media) : ArcAns × State :=
  if c.len = 0 then ((0, 0, 0, 0), s)
  else
    match arcObj s r c.obj with
    | none => ((arNoObj, c.obj, 0, 0), s)
    | some o =>
      if o.blocks.length < c.off + c.len ∨ arcRangeOk c.addr c.len = false then ((arRange, c.obj, 0, 0), s)
      else
        let i := readInjected s r
        let bad := (m.uncorr ++ if i.1 then [c.off / 64] else [])
        let s1 := mediaSeen i.2 r m
        let x := copyOut (0x50 + r) bad ((o.blocks.drop c.off).take c.len) c.off c.addr s1
        let st := if x.1.2.2 then arOffline else if 0 < x.1.2.1 then arUncorr else 0
        ((st, c.obj, x.1.1, x.1.2.1), x.2)

/-- DELETE. -/
def arcDelete (s : State) (r : Nat) (c : ArcCmd) : ArcAns × State :=
  match arcObj s r c.obj with
  | none => ((arNoObj, c.obj, 0, 0), s)
  | some _ => ((0, c.obj, 0, 0), s.setArc r { s.arc r with objs := (s.arc r).objs.filter (fun o => o.num != c.obj) })

/-- STAT. -/
def arcStat (s : State) (r : Nat) (c : ArcCmd) : ArcAns × State :=
  match arcObj s r c.obj with
  | none => ((arNoObj, c.obj, 0, 0), s)
  | some o =>
    if !arcRangeOk c.addr 1 then ((arRange, c.obj, 0, 0), s)
    else if memAccess s c.addr ≠ 0 then ((arOffline, c.obj, 0, 0), s)
    else ((0, c.obj, 1, 0), netWriteBlock s c.addr (0x50 + r) (wordsBytes (objRecord o)))

/-- FORMAT. -/
def arcFormat (s : State) (r : Nat) : ArcAns × State :=
  if !s.on F.ARC_CTRL.FMT_EN r || decide ((s.arc r).cmds.length ≠ 1) then ((arWrongMode, 0, 0, 0), s)
  else ((0, 0, 0, 0), (s.setArc r { s.arc r with objs := [] }).setFld F.ARC_NEXT_OBJ.OBJ r 0 1)

/-- The queued command `i` of an engine whose directory is built, when it is of operation `op` and has not run. -/
def arcQueued (s : State) (r i op : Nat) : Option ArcCmd :=
  match (s.arc r).cmds[i]? with
  | some c => if c.op = op ∧ c.done = none ∧ s.on F.ARC_STATUS.READY r = true then some c else none
  | none => none

/-- A queued command runs; its completion record follows by ARCHIVE_COMMAND_COMPLETE. -/
def arcRun (s : State) (r i op : Nat) (f : ArcCmd → ArcAns × State) : Host.Outcome State Fault Refusal :=
  match arcQueued s r i op with
  | none => .next s
  | some c =>
    let x := f c
    let a := x.2.arc r
    .next (x.2.setArc r { a with cmds := a.cmds.set i { c with done := some x.1 } })

/-- WRITE (R332). -/
def execWrite (region : Region) (index : Fin 16) (media : Media) (s : State) : Host.Outcome State Fault Refusal :=
  arcRun s region index 1 (fun c => arcWrite s region c media)

/-- READ (R332). -/
def execRead (region : Region) (index : Fin 16) (media : Media) (s : State) : Host.Outcome State Fault Refusal :=
  arcRun s region index 2 (fun c => arcRead s region c media)

/-- DELETE (R332). -/
def execDelete (region : Region) (index : Fin 16) (s : State) : Host.Outcome State Fault Refusal :=
  arcRun s region index 3 (fun c => arcDelete s region c)

/-- STAT (R332). -/
def execStat (region : Region) (index : Fin 16) (s : State) : Host.Outcome State Fault Refusal :=
  arcRun s region index 4 (fun c => arcStat s region c)

/-- FORMAT (R332). -/
def execFormat (region : Region) (index : Fin 16) (s : State) : Host.Outcome State Fault Refusal :=
  arcRun s region index 5 (fun _ => arcFormat s region)

/-- ARCHIVE_COMMAND_COMPLETE (R333): a command that has run writes its record and leaves the queue. -/
def execArchiveCommandComplete (region : Region) (index : Fin 16) (s : State) : Host.Outcome State Fault Refusal :=
  let a := s.arc region
  match a.cmds[index.val]? with
  | none => .next s
  | some c =>
    match c.done with
    | none => .next s
    | some d =>
      let objs := if c.op = 1 then a.objs.map (fun o => if o.num = d.2.1 then { o with time := s.instant } else o) else a.objs
      .next (arcComplete (s.setArc region { a with cmds := a.cmds.eraseIdx index, objs := objs }) region c.op d.1 c.tag d.2.2.2
        d.2.1 d.2.2.1)

/-! ### Bound heats (R334, R335) -/

/-- The next heat of a binding in full width, when it is behind HEAT_DONE. -/
def bindNext (s : State) (r n : Nat) : Option Nat :=
  let done := s.fld F.HEAT_DONE.SEQ (s.fld F.ARC_BIND.REGION r n) (s.fld F.ARC_BIND.CHANNEL r n)
  let left := (done + 2 ^ 32 - s.fld F.ARC_BIND.NEXT r n) % 2 ^ 32
  if s.on F.ARC_BIND.VALID r n && decide (0 < left) && decide (left < 2 ^ 31) then some (done - left) else none

/-- Blocks of a heat's object after its header block 0 (R335). -/
def heatBlocks (s : State) (hr hc a h0 : Nat) : Nat :=
  let words := bitOf h0 27 || bitsOf h0 22 20 == 3
  let u := if words then 12 else 60
  let closed := bitsOf h0 39 38 == 2
  let own := ((bytesWords (bytesAt s.mem (a + 64) 60)).getD 4 0).toNat
  let armed := nOutOf (bitOf h0 19) (s.fld F.HEAT_FELT.DECIM hr hc)
    (s.fld F.HEAT_PRE.NUM hr hc + s.fld F.HEAT_POST.NUM hr hc + 1)
  let out := Nat.min (if closed then own else armed) (capOutOf s hr hc words)
  2 + s.fld F.HEAT_SLOT.EVB hr hc + (out + u - 1) / u

/-- NEXT and, with ADV_RP, HEAT_RP advance. -/
def bindAdvance (s : State) (r n hr hc q : Nat) : State :=
  let s1 := s.setFld F.ARC_BIND.NEXT r n ((q + 1) % 2 ^ 32)
  if s1.on F.ARC_BIND.ADV_RP r n && s1.fld F.HEAT_RP.SEQ hr hc == q then s1.setFld F.HEAT_RP.SEQ hr hc (q + 1) else s1

/-- The next heat of a binding is copied. A full archive stops; a copy that meets offline memory waits to be tried again. -/
def archiveHeat (s : State) (r n : Nat) (m : Media) : State :=
  let hr := s.fld F.ARC_BIND.REGION r n
  let hc := s.fld F.ARC_BIND.CHANNEL r n
  match bindNext s r n with
  | none => s
  | some q =>
    let a := slotAddr s hr hc q
    let h := readBlocks (0x50 + r) 1 a s
    let offline (t : State) : State :=
      arcComplete (t.setArc r { t.arc r with retry := (t.arc r).retry ++ [n] }) r 1 arOffline 0xFFF 0 0 0
    match h.1 with
    | none => offline h.2
    | some (hb, _) =>
      let ws := hb.headD []
      let h0 := (ws.getD 0 0).toNat
      let len := heatBlocks h.2 hr hc a h0
      if arcFree h.2 r < len then arcEvent h.2 r 2
      else
        let x := readBlocks (0x50 + r) len a h.2
        match x.1 with
        | none => offline x.2
        | some (bs, bad) =>
          let s1 := mediaSeen (progInjected x.2 r) r { m with uncorr := [] }
          if (ws.getD 1 0).toNat ≠ q then
            bindAdvance (arcComplete (arcEvent s1 r 3) r 1 arOvertaken 0xFFF 0 0 len) r n hr hc q
          else
            let num := s1.fld F.ARC_NEXT_OBJ.OBJ r
            let s2 := createObj s1 r
              { num := num, heat := true, isOpen := bitsOf h0 39 38 == 1, badBlk := bad, region := hr, chan := hc, seq := q
                time := s1.instant, tag := 0xFFF, blocks := bs }
            bindAdvance (arcComplete s2 r 1 0 0xFFF 0 num len) r n hr hc q

/-- Whether the engine archives heats: it is enabled and its directory is built. -/
def arcRuns (s : State) (r : Nat) : Bool := s.on F.ARC_CTRL.EN r && s.on F.ARC_STATUS.READY r

/-- HEAT_ARCHIVE (R335). -/
def execHeatArchive (region : Region) (index : Fin 16) (media : Media) (s : State) : Host.Outcome State Fault Refusal :=
  if arcRuns s region && !(s.arc region).retry.contains index.val then .next (archiveHeat s region index media) else .next s

/-- OFFLINE_RETRY (R334): 100 µs have passed since the copy of a bound heat met offline memory. -/
def execOfflineRetry (region : Region) (index : Fin 16) (media : Media) (s : State) : Host.Outcome State Fault Refusal :=
  if arcRuns s region && (s.arc region).retry.contains index.val then
    let a := s.arc region
    .next (archiveHeat (s.setArc region { a with retry := a.retry.filter (· != index.val) }) region index media)
  else .next s

/-! ### Background work (R326, R328, R330) -/

/-- PATROL (R328): what the patrol of the programmed pages met; relocation moves no object's contents. -/
def execPatrol (region : Region) (media : Media) (s : State) : Host.Outcome State Fault Refusal :=
  if s.on F.ARC_CTRL.PATROL_EN region && s.on F.ARC_STATUS.READY region then
    .next (mediaSeen (readInjected s region).2 region media)
  else .next s

/-- CLEANER (R330): the cleaner and wear levelling move live data, and what they met. -/
def execCleaner (region : Region) (media : Media) (s : State) : Host.Outcome State Fault Refusal :=
  if s.on F.ARC_STATUS.READY region then .next (mediaSeen (progInjected s region) region media) else .next s

/-- ARCHIVE_READY (R326): the directory is rebuilt; `cut` says that a write had been cut off. -/
def execArchiveReady (region : Region) (cut : Bool) (media : Media) (s : State) : Host.Outcome State Fault Refusal :=
  let s1 := mediaSeen (s.setFld F.ARC_STATUS.READY region 0 1) region media
  .next (if cut then arcEvent s1 region 5 else s1)

end Sys2Proof.Machine
end

