-- ==== Sys2Proof/Machine/HostPort.lean ====
section
/-! DEFINITION. The PCI Express function: reads and writes of its BARs, the error flags, the MSI-X table, and what PERST_N
and the power states of function and link do (R427-R431, R436, R438). -/

namespace Sys2Proof.Machine

/-! ### Errors (R429) -/

/-- The HST_ERR bit of a status other than OK. -/
def hstErrFld (st : Nat) : Fld :=
  if st = stUnmapped then F.HST_ERR.ADDR_UNMAPPED
  else if st = stOffline then F.HST_ERR.DOMAIN_OFFLINE
  else if st = stDataErr then F.HST_ERR.DATA_ERR
  else F.HST_ERR.OTHER

/-- An HST_ERR bit sets; the status and address are captured while HST_ERR[39:34] is zero; vector 1 follows. -/
def hstErr (s : State) (f : Fld) (st a : Nat) : State :=
  let s1 := if bitsOf (s.reg .HST_ERR).toNat 39 34 = 0 then
      (s.setFld F.HST_ERR.FIRST_STATUS 0 0 st).setFld F.HST_ERR_ADDR.ADDR 0 0 (a % 2 ^ 40)
    else s
  levelIrq s (s1.setFld f 0 0 1) 1

/-- The flags of a host access that completed with a status. -/
def hstStatus (s : State) (st a : Nat) : State := if st = stOk then s else hstErr s (hstErrFld st) st a

/-! ### The parts of an access (R428, R431) -/

/-- The parts of `len` bytes from byte address `a` in aligned 64-byte ranges: the range, the first byte and the length. -/
def partsOf : Nat → Nat → Nat → List (Nat × Nat × Nat)
  | 0, _, _ => []
  | fuel + 1, a, len =>
    if len = 0 then []
    else
      let n := Nat.min len (64 - a % 64)
      (a / 64 * 64, a % 64, n) :: partsOf fuel (a + n) (len - n)

/-- WEN of the slots, or in block form the words, that bytes `first` to `first + n - 1` of a range touch. -/
def touched (block : Bool) (first n : Nat) : Nat :=
  let size := if block then 5 else 8
  (List.range (if block then 12 else 8)).foldl (fun m k =>
    m + flag (decide (size * k < first + n) && decide (first < size * k + size)) * 2 ^ k) 0

/-- The 64 bytes of a range that words named by WEN make: slots of eight bytes, or words of five followed by the tag bytes,
which are zero outside the diagnostic view (R27, R28, R316). -/
def rangeBytes (block : Bool) (wen : Nat) (tagged : List Nat) : Nat → Nat → List Word → List Nat
  | 0, _, _ => if block then (List.range 4).map (fun i => tagged.getD i 0) else []
  | n + 1, k, ws =>
    let pad := if block then [] else [0, 0, 0]
    if bitOf wen k then wordBytes (ws.headD 0) ++ pad ++ rangeBytes block wen tagged n (k + 1) ws.tail
    else [0, 0, 0, 0, 0] ++ pad ++ rangeBytes block wen tagged n (k + 1) ws

/-- The bytes a read of a part returns: zero on an error other than DATA_ERR. -/
def partBytes (block : Bool) (st first n : Nat) (ws : List Word) (tagged : List Nat) : List Nat :=
  if st = stOk ∨ st = stDataErr then
    ((rangeBytes block (touched block first n) tagged (if block then 12 else 8) 0 ws).drop first).take n
  else List.replicate n 0

/-- The request of a read of a part. -/
def partReq (block : Bool) (p : Nat × Nat × Nat) (tag : Nat) : NetReq :=
  { op := 0, src := 0x58, tag := tag, addr := p.1, sel := touched block p.2.1 p.2.2, stride := 0 }

/-- A part read at once. -/
def readPart (block : Bool) (s : State) (p : Nat × Nat × Nat) : State :=
  let r := access s (partReq block p 0)
  let st := r.1.getD stOk
  let s1 := hstStatus r.2.2 st p.1
  { s1 with host := { s1.host with data := s1.host.data ++ partBytes block st p.2.1 p.2.2 r.2.1 (diagChecks s p.1 1) } }

/-- A part whose response comes later (R429). -/
def readLate (block : Bool) (s : State) (p : Nat × Nat × Nat) : State :=
  let t := s.host.tag
  let s1 := { s with host := { s.host with
    reads := s.host.reads ++ [{ tag := t, addr := p.1, first := p.2.1, len := p.2.2, bar2 := block }], tag := (t + 1) % 0x8000 } }
  serveReq s1 (partReq block p t)

/-- A read of `len` bytes from a device byte address; `late` leaves its responses in the network, as does what holds its
request. -/
def hostRead (s : State) (block : Bool) (a len : Nat) (late : Bool) : State :=
  let s1 := { s with host := { s.host with data := [] } }
  (partsOf len a len).foldl (fun s p =>
    if late || (partReq block p 0).waits s then readLate block s p else readPart block s p) s1

/-- BAR0_READ (R428). -/
def execBar0Read (offset : BitVec 28) (len : Nat) (late : Bool) (s : State) : Host.Outcome State Fault Refusal :=
  if s.host.inReset then .next s else .next (hostRead s false (0x7FF0000000 + offset.toNat) len late)

/-- The main-memory address of a BAR2 offset (R431). -/
def bar2Addr (s : State) (y : Nat) : Nat := s.fld F.HST_BAR2_BASE.GIB * 0x40000000 + y

/-- BAR2_READ (R431). -/
def execBar2Read (offset : BitVec 36) (len : Nat) (late : Bool) (s : State) : Host.Outcome State Fault Refusal :=
  if s.host.inReset then .next s else .next (hostRead s true (bar2Addr s offset.toNat) len late)

/-- RD_TIMEOUT (R429): a read whose response did not come within RD_LIMIT completes with zero data; a response that comes
later is discarded. -/
def execRdTimeout (tag : BitVec 16) (s : State) : Host.Outcome State Fault Refusal :=
  match s.host.reads.find? (fun r => r.tag == tag.toNat) with
  | none => .next s
  | some r =>
    if s.fld F.HST_CTRL.RD_LIMIT = 0 then .next s
    else
      let s1 := { s with host := { s.host with reads := s.host.reads.erase r, data := List.replicate r.len 0 } }
      .next (hstErr s1 F.HST_ERR.RD_TIMEOUT 0 r.addr)

/-- The response of a late read (R429). -/
def hostReply (s : State) (tag st : Nat) (ws : List Word) (tagged : List Nat) : State :=
  match s.host.reads.find? (fun r => r.tag == tag) with
  | none => s
  | some r =>
    let s1 := { s with host := { s.host with
      reads := s.host.reads.erase r, data := partBytes r.bar2 st r.first r.len ws tagged } }
    hstStatus s1 st r.addr

/-! ### Writes (R317, R428, R431) -/

/-- The bytes of a write in one range by position: absent outside the write, and none where the byte enable is clear. -/
def byteAt (first : Nat) (bs : List (Option (BitVec 8))) (i : Nat) : Option (Option (BitVec 8)) :=
  if i < first then none else bs[i - first]?

/-- How a slot or word of `size` bytes is covered: 0 not at all, 1 in part, 2 whole. -/
def coverOf (first : Nat) (bs : List (Option (BitVec 8))) (size k : Nat) : Nat :=
  let xs := (List.range size).map (fun i => byteAt first bs (size * k + i))
  if xs.all (fun x => match x with | some (some _) => true | _ => false) then 2
  else if xs.all (fun x => x.isNone) then 0
  else 1

/-- The word of a slot or word whose bytes are written, over the bytes of an old one. -/
def mergeBytes (first : Nat) (bs : List (Option (BitVec 8))) (size k : Nat) (old : Word) : Word :=
  bytesWord ((wordBytes old).zipIdx.map (fun e =>
    match byteAt first bs (size * k + e.2) with
    | some (some b) => b.toNat
    | _ => e.1))

/-- A request of the host that writes the words WEN names of a range; one that is not acknowledged at once keeps its address
for the error flags (R429). -/
def hostWr (s : State) (a wen : Nat) (ws : List Word) : State :=
  let t := s.host.tag
  let r := access s { op := 2, src := 0x58, tag := t, addr := a, sel := wen, stride := s.time.strideNum, words := ws }
  match r.1 with
  | some st => hstStatus r.2.2 st a
  | none => { r.2.2 with host := { r.2.2.host with writes := r.2.2.host.writes ++ [(t, a)], tag := (t + 1) % 0x8000 } }

/-- The late acknowledgement of a host write (R429). -/
def hostWack (s : State) (tag st : Nat) : State :=
  match s.host.writes.find? (fun e => e.1 == tag) with
  | none => s
  | some e => hstStatus { s with host := { s.host with writes := s.host.writes.erase e } } st e.2

/-- A BAR0 write of one range (R428): partial slots set SIZE, the others are written. -/
def writeBar0 (s : State) (a first : Nat) (bs : List (Option (BitVec 8))) : State :=
  let ks := List.range 8
  let part := ks.filter (fun k => coverOf first bs 8 k == 1)
  let whole := ks.filter (fun k => coverOf first bs 8 k == 2)
  let s1 := part.foldl (fun s k => hstErr s F.HST_ERR.SIZE 0 (a + 8 * k)) s
  if whole.isEmpty then s1
  else hostWr s1 a (whole.foldl (fun m k => m + 2 ^ k) 0) (whole.map (fun k => mergeBytes first bs 8 k 0))

/-- A BAR2 write of one block (R317, R431): a word covered in part is read and written back with the merged bytes; tag
bytes are ignored. -/
def writeBar2 (s : State) (a first : Nat) (bs : List (Option (BitVec 8))) : State :=
  let ks := List.range 12
  let touch (k : Nat) : Bool := (List.range 5).any (fun i =>
    match byteAt first bs (5 * k + i) with | some (some _) => true | _ => false)
  let part := ks.filter (fun k => touch k && coverOf first bs 5 k == 1)
  let sel (l : List Nat) : Nat := l.foldl (fun m k => m + 2 ^ k) 0
  let rd := if part.isEmpty then (some stOk, [], s)
    else serveNow s { op := 0, src := 0x58, tag := 0, addr := a, sel := sel part, stride := 0 }
  let st := rd.1.getD stOk
  let s1 := hstStatus rd.2.2 st a
  let old (k : Nat) : Word := ((part.zip rd.2.1).find? (fun e => e.1 == k)).map (fun e => e.2) |>.getD 0
  let named := ks.filter (fun k => coverOf first bs 5 k == 2 || (touch k && coverOf first bs 5 k == 1 && st == stOk))
  if named.isEmpty then s1 else hostWr s1 a (sel named) (named.map (fun k => mergeBytes first bs 5 k (old k)))

/-- A host write, range by range. -/
def hostWrite (s : State) (block : Bool) (a : Nat) (bs : List (Option (BitVec 8))) : State :=
  (partsOf bs.length a bs.length).foldl (fun s p =>
    let mine := (bs.drop (p.1 + p.2.1 - a)).take p.2.2
    if block then writeBar2 s p.1 p.2.1 mine else writeBar0 s p.1 p.2.1 mine) s

/-- BAR0_WRITE (R428): `data` holds the bytes written, none where the byte enable is clear. -/
def execBar0Write (offset : BitVec 28) (data : List (Option (BitVec 8))) (s : State) : Host.Outcome State Fault Refusal :=
  if s.host.inReset then .next s else .next (hostWrite s false (0x7FF0000000 + offset.toNat) data)

/-- BAR2_WRITE (R431). -/
def execBar2Write (offset : BitVec 36) (data : List (Option (BitVec 8))) (s : State) : Host.Outcome State Fault Refusal :=
  if s.host.inReset then .next s else .next (hostWrite s true (bar2Addr s offset.toNat) data)

/-- BAR2_BASE_WRITE (R431): GIB above 64 is reserved. -/
def execBar2BaseWrite (gib : BitVec 7) (s : State) : Host.Outcome State Fault Refusal :=
  .next (s.writeDefault .HST_BAR2_BASE 0 0 (BitVec.ofNat 40 gib.toNat))

/-! ### MSI-X (R436) -/

/-- The pending vectors that are no longer masked send their message. -/
def sendPending (s : State) : State :=
  (List.range 256).foldl (fun s v =>
    if bitOf s.host.pba v && !s.masked v then signal { s with host := { s.host with pba := s.host.pba - 2 ^ v } } v else s) s

/-- MSIX_UNMASK (R436): a vector, or the function. -/
def execMsixUnmask (vector : Option (Fin 256)) (s : State) : Host.Outcome State Fault Refusal :=
  let h := s.host
  if h.inReset then .next s
  else
    match vector with
    | none => .next (sendPending { s with host := { h with fnMask := false } })
    | some v =>
      let i := 2 * v.val + 1
      .next (sendPending { s with host := { h with
        table := mset (2 ^ 32) h.table i (putBits (s.msixWord i) 32 32 0) } })

/-! ### PERST_N and the power states (R438) -/

/-- PERST_N (R438): the host interface is held in reset; what its requests answer is discarded (R401). -/
def execPerstN (s : State) : Host.Outcome State Fault Refusal :=
  let h := s.host
  .next { orphan s (fun src _ => src == 0x58) with host := { h with
    inReset := true, reads := [], writes := [], chans := h.chans.map (fun e => (e.1, { e.2 with en := false, run := none, abort := false })) } }

/-- PERST_N_RISE (R438): configuration space, the MSI-X table, BAR4 and HST_BAR2_BASE take their reset values. -/
def execPerstNRise (s : State) : Host.Outcome State Fault Refusal :=
  let h := s.host
  if h.inReset then
    let z : HostSt := {}
    .next ({ s with host := { z with
      mem := h.mem, msgs := h.msgs, data := h.data, tag := h.tag, frames := h.frames, local_ := h.local_ } }.setReg .HST_BAR2_BASE 0 0 0)
  else .next s

/-- PCIE_POWER_STATE (R438): in D0 with the link in L0, WAKE_N is released and the held messages go out. -/
def execPciePowerState (d3 : Bool) (l2 : Bool) (s : State) : Host.Outcome State Fault Refusal :=
  let h := s.host
  if h.inReset then .next s
  else if d3 || l2 then .next { s with host := { h with d3 := d3, l2 := l2 } }
  else
    let s1 := { s with host := { h with d3 := false, l2 := false, wakeLow := false, held := 0 } }
    .next ((List.range 256).foldl (fun s v => if bitOf h.held v then signal s v else s) s1)

end Sys2Proof.Machine
end

