-- ==== Sys2Proof/Machine/HostDma.lean ====
section
/-! DEFINITION. Host DMA: the rings and controls of BAR4, descriptors and completion records (R432-R435). -/

namespace Sys2Proof.Machine

/-- A host DMA channel. -/
def State.hch (s : State) (c : Nat) : HostCh := mget {} s.host.chans c

/-- The state with a host DMA channel set. -/
def State.setHch (s : State) (c : Nat) (v : HostCh) : State :=
  { s with host := { s.host with chans := mset {} s.host.chans c v } }

/-- Descriptors that wait. -/
def HostCh.occ (v : HostCh) : Nat := (v.pi + 65536 - v.ci) % 65536

/-! ### Controls (R434, Table 18.4) -/

/-- HST_DMA_DB written. -/
def hostDoor (s : State) (c pi : Nat) : State :=
  let v := s.hch c
  if 256 < (pi + 65536 - v.ci) % 65536 then s.setHch c { v with dbErr := true } else s.setHch c { v with pi := pi }

/-- HST_DMA_CTRL.EN written. -/
def hostEnable (s : State) (c : Nat) (en : Bool) : State :=
  let v := s.hch c
  if en && decide (v.n = 0) then s.setHch c { v with dbErr := true }
  else if en && !v.en then s.setHch c { v with en := true, pi := 0, ci := 0, recs := 0, run := none, abort := false }
  else s.setHch c { v with en := en }

/-- RESTART (R435). -/
def hostRestart (s : State) (c : Nat) : State := s.setHch c { s.hch c with stopped := false }

/-- DMA_DOORBELL (R434). -/
def execDmaDoorbell (channel : Fin 8) (pi : BitVec 16) (s : State) : Host.Outcome State Fault Refusal :=
  if s.host.inReset then .next s else .next (hostDoor s channel pi.toNat)

/-- HOST_DMA_ENABLE (R434). -/
def execHostDmaEnable (channel : Fin 8) (en : Bool) (s : State) : Host.Outcome State Fault Refusal :=
  if s.host.inReset then .next s else .next (hostEnable s channel en)

/-- HOST_DMA_RESTART (R435). -/
def execHostDmaRestart (channel : Fin 8) (s : State) : Host.Outcome State Fault Refusal :=
  if s.host.inReset then .next s else .next (hostRestart s channel)

/-! ### Descriptors (R433, Table 18.3) -/

/-- The four 64-bit words of a host descriptor. -/
structure HostDesc where
  w0 : Nat
  w1 : Nat
  w2 : Nat
  w3 : Nat
  deriving DecidableEq, Repr

/-- The descriptor at CI of a channel. -/
def hostDesc (s : State) (c : Nat) : HostDesc :=
  let a := 1024 * c + 4 * ((s.hch c).ci % 256)
  ⟨mget 0 s.host.ring a, mget 0 s.host.ring (a + 1), mget 0 s.host.ring (a + 2), mget 0 s.host.ring (a + 3)⟩

/-- DADDR. -/
def HostDesc.daddr (d : HostDesc) : Nat := bitsOf d.w1 39 0
/-- TAG. -/
def HostDesc.tag (d : HostDesc) : Nat := bitsOf d.w2 63 48
/-- IRQ. -/
def HostDesc.irq (d : HostDesc) : Bool := bitOf d.w2 36
/-- DIR: 0 host to device, 1 device to host. -/
def HostDesc.dir (d : HostDesc) : Nat := bitsOf d.w2 35 34
/-- HFMT. -/
def HostDesc.hfmt (d : HostDesc) : Nat := bitsOf d.w2 33 32
/-- LEN. -/
def HostDesc.len (d : HostDesc) : Nat := bitsOf d.w2 31 0

/-- Whether a descriptor is one that returns BAD_DESC. -/
def HostDesc.bad (d : HostDesc) : Bool :=
  decide (1 < d.dir) || decide (d.hfmt = 3) || decide (bitsOf d.w1 63 40 ≠ 0) || decide (bitsOf d.w2 47 37 ≠ 0) || decide (d.w3 ≠ 0)

/-- Whether the alignment rules of R170 and R433 hold. -/
def HostDesc.aligned (d : HostDesc) : Bool :=
  let form := (oneWord d.daddr).isSome
  match d.hfmt with
  | 0 => form
  | 1 => form && decide (d.w0 % 8 = 0)
  | _ => decide (d.w0 % 64 = 0) && decide (d.len % 12 = 0) && decide (d.daddr % 64 = 0) &&
      (isBlockForm d.daddr || (nodeOf d.daddr).isNone)

/-- Where word `k` of a transfer lies in host memory, and the bytes it takes there. -/
def hostPlace (hfmt k : Nat) : Nat × Nat :=
  match hfmt with
  | 0 => (5 * k, 5)
  | 1 => (8 * k, 8)
  | _ => (64 * (k / 12) + 5 * (k % 12), if k % 12 = 11 then 9 else 5)

/-- The words that host bytes spell (R433). -/
def hostWords (hfmt len : Nat) (bytes : List Nat) : List Word :=
  (List.range len).map (fun k => bytesWord ((bytes.drop (hostPlace hfmt k).1).take 5))

/-- Words written to host memory from an address on; the unused bytes of a slot or block are zero. -/
def toHost (hfmt addr : Nat) : Nat → List Word → List Host.Cell → List Host.Cell
  | _, [], m => m
  | k, w :: ws, m =>
    let p := hostPlace hfmt k
    toHost hfmt addr (k + 1) ws (putBytes (addr + p.1) (wordBytes w ++ List.replicate (p.2 - 5) 0) m)

/-- The accesses of a host descriptor from device address `addr`, request by request, up to the first that fails: its
progress and the words read. -/
def hostMove (tag : Nat) (write : Bool) : Nat → Nat → Nat → List Word → List Nat → Moved → List Word → State →
    (Moved × List Word) × State
  | 0, _, _, _, _, m, out, s => ((m, out), s)
  | fuel + 1, addr, left, ws, stamps, m, out, s =>
    if left = 0 then ((m, out), s)
    else
      let c := chunkAt addr left
      let stride := stamps.headD s.time.strideNum
      let r := access s (chunkReq 0x58 tag stride addr c.2.1 write c.2.2.1 (if write then ws.take c.1 else []))
      match r.1 with
      | none =>
        hostMove tag write fuel c.2.2.2 (left - c.1) (ws.drop c.1) stamps.tail
          { m with count := m.count + c.1, due := m.due + 1 } out r.2.2
      | some st =>
        if st ≠ stOk then (({ m with status := st }, out), r.2.2)
        else
          hostMove tag write fuel c.2.2.2 (left - c.1) (ws.drop c.1) stamps.tail { m with count := m.count + c.1 }
            (out ++ r.2.1.take c.1) r.2.2

/-- A descriptor carried out for its first `n` words; `bytes` are those of host memory from HADDR on. -/
def hostCarry (s : State) (c : Nat) (d : HostDesc) (n : Nat) (bytes : List Nat) (stamps : List Nat) : Moved × State :=
  if d.bad then ({ status := stBadDesc }, s)
  else if d.len = 0 then ({}, s)
  else if !d.aligned then ({ status := stAlign }, s)
  else
    let toDev := decide (d.dir = 0)
    let r := hostMove (0xC000 + c) toDev n d.daddr n (if toDev then hostWords d.hfmt n bytes else []) stamps {} [] s
    if toDev then (r.1.1, r.2)
    else (r.1.1, { r.2 with host := { r.2.host with mem := toHost d.hfmt d.w0 0 r.1.2 r.2.host.mem } })

/-! ### Completion (R435) -/

/-- HOST_ERR, used only in host completion records. -/
def stHostErr : Nat := 13

/-- The bytes of a completion record. -/
def cplBytes (tag status chan count phase : Nat) : List Nat :=
  [tag % 256, tag / 256 % 256, status, chan, 0, 0, 0, 0, count % 256, count / 2 ^ 8 % 256, count / 2 ^ 16 % 256,
    count / 2 ^ 24 % 256, 0, 0, 0, phase]

/-- The record of the descriptor at CI is written and CI advances; an error stops the channel. -/
def hostComplete (s : State) (c : Nat) (d : HostDesc) (status count : Nat) : State :=
  let v := s.hch c
  let n := Nat.max v.n 1
  let a := v.base + 16 * (v.recs % n)
  let phase := 1 - v.recs / n % 2
  let s1 := { s with host := { s.host with mem := putBytes a (cplBytes d.tag status c count phase) s.host.mem } }
  let s2 := s1.setHch c
    { v with ci := (v.ci + 1) % 65536, recs := v.recs + 1, run := none, stopped := v.stopped || decide (status ≠ stOk) }
  if d.irq || decide (status ≠ stOk) then signal s2 (2 + c) else s2

/-- Whether a channel works on its descriptors. -/
def hostRuns (s : State) (c : Nat) : Bool :=
  !s.host.inReset && (s.hch c).en && !(s.hch c).stopped && decide (0 < (s.hch c).occ)

/-- HOST_DMA_COMPLETE (R435): the descriptor at CI is carried out and completes. `bytes` are those of host memory from
HADDR on, `stamps` the sending strides; `failAt` is the first word whose access to host memory failed. -/
def execHostDmaComplete (channel : Fin 8) (bytes : List (BitVec 8)) (stamps : List Nat) (failAt : Option Nat) (s : State) :
    Host.Outcome State Fault Refusal :=
  if hostRuns s channel then
    let d := hostDesc s channel
    match (s.hch channel).run with
    | some e => if e.2.2 = 0 then .next (hostComplete s channel d e.1 e.2.1) else .next s
    | none =>
      let n := match failAt with | some k => Nat.min k d.len | none => d.len
      if movesWait s 0x58 d.daddr d.len (!d.bad && d.aligned) then .next s
      else
        let m := hostCarry s channel d n (bytes.map (fun b => b.toNat)) stamps
        let st := if m.1.status = stOk ∧ failAt.isSome = true ∧ n < d.len then stHostErr else m.1.status
        if m.1.due = 0 then .next (hostComplete m.2 channel d st m.1.count)
        else .next (m.2.setHch channel { m.2.hch channel with run := some (st, m.1.count, m.1.due) })
  else .next s

/-- ABORTED for the descriptors that have not completed, oldest first; `count` words of the first were moved. -/
def hostAborted (c : Nat) : Nat → Nat → State → State
  | 0, _, s => s
  | n + 1, count, s => hostAborted c n 0 (hostComplete s c (hostDesc s c) stAborted count)

/-- An acknowledgement of a push that a host descriptor waited for; the last one lets an ABORT complete (R435). -/
def hostDmaAck (s : State) (c status : Nat) : State :=
  let v := s.hch c
  match v.run with
  | none => s
  | some e =>
    let n := if status = stOk then e.2.1 else e.2.1 - 12
    let w := { v with run := some (firstBad e.1 status, n, e.2.2 - 1) }
    if v.abort && decide (e.2.2 ≤ 1) then hostAborted c v.occ n (s.setHch c { w with abort := false }) else s.setHch c w

/-- ABORT (R435): `count` words of the descriptor at CI were issued. It waits for every outstanding response. -/
def hostAbort (s : State) (c count : Nat) (bytes : List Nat) : State :=
  let v := s.hch c
  if !v.en then s
  else if v.run.any (fun e => e.2.2 != 0) then s.setHch c { v with abort := true }
  else if v.occ = 0 then signal (s.setHch c { v with stopped := true }) (2 + c)
  else
    let d := hostDesc s c
    let m := match v.run with
      | some e => (({ status := e.1, count := e.2.1, due := e.2.2 } : Moved), s)
      | none => if v.stopped then ({}, s) else hostCarry s c d (if movesWait s 0x58 d.daddr d.len (!d.bad && d.aligned) then 0 else Nat.min count d.len) bytes []
    hostAborted c v.occ m.1.count m.2

/-- HOST_DMA_ABORT (R435). -/
def execHostDmaAbort (channel : Fin 8) (count : Nat) (bytes : List (BitVec 8)) (s : State) :
    Host.Outcome State Fault Refusal :=
  if s.host.inReset then .next s else .next (hostAbort s channel count (bytes.map (fun b => b.toNat)))

/-! ### BAR4 (R432, Table 18.2) -/

/-- The controls of a channel written. -/
def writeHostCtl (s : State) (c o v : Nat) : State :=
  let ch := s.hch c
  match o with
  | 0x00 => hostDoor s c (v % 65536)
  | 0x10 => if ch.en then s else s.setHch c { ch with base := v }
  | 0x18 =>
    let n := v % 2 ^ 17
    if ch.en || !(decide (n = 0) || (List.range 13).any (fun k => n == 2 ^ (k + 4))) then s else s.setHch c { ch with n := n }
  | 0x20 =>
    let s1 := hostEnable s c (bitOf v 2)
    let s2 := if bitOf v 1 then hostRestart s1 c else s1
    if bitOf v 0 then hostAbort s2 c 0 [] else s2
  | 0x28 => if bitOf v 0 then s.setHch c { ch with dbErr := false } else s
  | _ => s

/-- A 64-bit word of BAR4 written; offsets that Table 18.2 does not name, and the pending bits, ignore it. -/
def writeBar4 (s : State) (x v : Nat) : State :=
  let h := s.host
  if h.inReset ∨ x % 8 ≠ 0 then s
  else if x < 0x10000 then { s with host := { h with ring := mset 0 h.ring (1024 * (x / 0x2000) + x % 0x2000 / 8) (v % 2 ^ 64) } }
  else if x < 0x10200 then writeHostCtl s ((x - 0x10000) / 0x40) (x % 0x40) (v % 2 ^ 64)
  else if 0x20000 ≤ x ∧ x < 0x21000 then
    let i := (x - 0x20000) / 8
    let w := if i % 2 = 1 then v % 2 ^ 33 else v % 2 ^ 64
    sendPending { s with host := { h with table := mset (if i % 2 = 1 then 2 ^ 32 else 0) h.table i w } }
  else s

end Sys2Proof.Machine
end

