-- ==== Sys2Proof/Machine/Mgt.lean ====
section
/-! DEFINITION. The management ports: frames between the land and the rings, and one-step PTP messages (R43, R439,
R440). -/

namespace Sys2Proof.Machine

/-- `n` bytes of a list from an offset as a number, most significant first. -/
def beNum (bs : List Nat) (o n : Nat) : Nat := ((bs.drop o).take n).foldl (fun x b => 256 * x + b) 0

/-- A number as `n` bytes, most significant first. -/
def beBytes (n v : Nat) : List Nat := ((List.range n).map (fun i => v / 256 ^ i % 256)).reverse

/-- Bytes of a list replaced from an offset. -/
def putAt (bs : List Nat) (o : Nat) (v : List Nat) : List Nat := bs.take o ++ v ++ bs.drop (o + v.length)

/-! ### The receive ring -/

/-- The MAC address of a port. -/
def mgtMac (s : State) (p : Nat) : Nat := s.fld F.HST_MGT_MAC_HI.MAC 0 p * 2 ^ 24 + s.fld F.HST_MGT_MAC_LO.MAC 0 p

/-- Whether a port accepts a frame (R439). -/
def mgtAccepts (s : State) (p : Nat) (frame : List Nat) : Bool :=
  let dst := beNum frame 0 6
  s.on F.HST_MGT_CFG.PROMISC 0 p || dst == mgtMac s p || dst == 0xFFFFFFFFFFFF || dst == 0x011B19000000 ||
    dst == 0x0180C200000E

/-- Blocks written from an address on; one whose memory does not take it is lost. The rest of the last block of a frame
is left open. -/
def mgtBlocks (src : Nat) : Nat → Nat → List Nat → State → State
  | 0, _, _, s => s
  | n + 1, a, bs, s =>
    if memAccess s a ≠ 0 then mgtBlocks src n (a + 64) (bs.drop 60) s
    else
      let f := freeBlock s
      let data := bs.take 60 ++ (wordsBytes f.1).drop (bs.take 60).length
      mgtBlocks src n (a + 64) (bs.drop 60) (netWriteBlock (if bs.length < 60 then f.2 else s) a src data)

/-- The first block of a received entry. -/
def mgtHead (len : Nat) (stamp : Nat) : List Nat :=
  wordsBytes [BitVec.ofNat 40 (len * 2 ^ 29), BitVec.ofNat 40 (fracOf stamp), BitVec.ofNat 40 (secOf stamp), 0, 0, 0, 0, 0, 0, 0, 0, 0]

/-- A frame without its FCS arrives at a port. -/
def mgtReceive (s : State) (p : Nat) (frame : List Nat) (badFcs : Bool) (stamp : Nat) : State :=
  let n := s.fld F.HST_MGT_RX_N.N 0 p
  let wp := s.fld F.HST_MGT_RX_WP.COUNT 0 p
  if badFcs ∨ 1522 < frame.length then s.addSat F.HST_MGT_CNT1.RX_BAD 0 p
  else if !mgtAccepts s p frame then s
  else if n = 0 ∨ (wp + 2 ^ 40 - s.fld F.HST_MGT_RX_RP.COUNT 0 p) % 2 ^ 40 = n then s.addSat F.HST_MGT_CNT1.RX_DROP 0 p
  else
    let a := 64 * s.fld F.HST_MGT_RX_BASE.ADDR 0 p + 2048 * (wp % n)
    let s1 := mgtBlocks (0x59 + p) 1 a (mgtHead frame.length stamp) s
    let s2 := mgtBlocks (0x59 + p) ((frame.length + 59) / 60) (a + 64) frame s1
    let s3 := (s2.addWrap F.HST_MGT_RX_WP.COUNT 0 p).addSat F.HST_MGT_CNT0.RX_FRAMES 0 p
    let note := 8 * s3.fld F.HST_MGT_NOTIFY.ADDR 0 p
    let s4 := if note = 0 then s3 else (postWord s3 (0x59 + p) note (BitVec.ofNat 40 (s3.fld F.HST_MGT_RX_WP.COUNT 0 p))).2
    if s4.on F.HST_MGT_CFG.HIRQ 0 p then signal s4 (18 + p) else s4

/-- MGT_FRAME_RECEIVE (R440): a frame, FCS removed, with whether its FCS was bad and the device time at which its
start-of-frame delimiter crossed the land. -/
def execMgtFrameReceive (port : Fin 2) (frame : List (BitVec 8)) (badFcs : Bool) (stamp : Nat) (s : State) :
    Host.Outcome State Fault Refusal :=
  if s.on F.HST_MGT_CFG.EN 0 port then .next (mgtReceive s port (frame.map (fun b => b.toNat)) badFcs stamp) else .next s

/-! ### The transmit ring -/

/-- `n` steps of the reflected polynomial of the Ethernet FCS. -/
def fcsBits : Nat → Nat → Nat
  | 0, c => c
  | n + 1, c => fcsBits n (if c % 2 = 1 then c / 2 ^^^ 0xEDB88320 else c / 2)

/-- The Ethernet FCS, in the order in which its bytes are sent. -/
def fcs (bs : List Nat) : List Nat :=
  (beBytes 4 (bs.foldl (fun c b => fcsBits 8 (c ^^^ b)) 0xFFFFFFFF ^^^ 0xFFFFFFFF)).reverse

/-- Where the PTP header of a frame lies, with the UDP checksum of IPv4 (R41); IPv6 is not rewritten (R43). -/
def ptpAt (f : List Nat) : Option (Nat × Option Nat) :=
  let o := if beNum f 12 2 = 0x8100 then 18 else 14
  let ty := beNum f (o - 2) 2
  let udp := o + 4 * (f.getD o 0 % 16)
  if ty = 0x88F7 then some (o, none)
  else if ty = 0x0800 ∧ f.getD (o + 9) 0 = 17 ∧ beNum f (udp + 2) 2 = 319 then some (udp + 8, some (udp + 6))
  else none

/-- A timestamp field: 48 bits of seconds and 32 of nanoseconds. -/
def ptpTime (t : Nat) : List Nat := beBytes 6 (secOf t) ++ beBytes 4 (fracOf t / 1024)

/-- One-step rewriting of an outgoing Sync or Pdelay_Resp (R43). `t` is what its timestamp field takes. -/
def oneStepFrame (f : List Nat) (o : Nat) (sum : Option Nat) (t : Nat) : List Nat :=
  let c := (beNum f (o + 8) 8 + fracOf t % 1024 * 64) % 2 ^ 64
  let g := putAt (putAt f (o + 8) (beBytes 8 c)) (o + 34) (ptpTime t)
  match sum with
  | some k => putAt g k [0, 0]
  | none => g

/-- The time that an outgoing one-step message of sequence number `seq` takes on a port (R43): of a Sync its own
timestamp; of a Pdelay_Resp the receipt of the Pdelay_Req it answers, whose number it repeats, a free value where none was
received. -/
def oneStepTime (s : State) (p msg seq stamp : Nat) : Nat × State :=
  if msg = 0 then (stamp, s)
  else
    match mget (0, none) (s.time.pdReqs.map (fun e => (e.1, (e.2.1, some e.2.2)))) p with
    | (q, some t) => if q = seq then (t, s) else freeTime s
    | _ => freeTime s
where
  /-- A free device time. -/
  freeTime (s : State) : Nat × State :=
    ((Config.freeWord s.free).toNat * unitsPerSec + (Config.freeWord (s.free + 1)).toNat % unitsPerSec, s.used.used)

/-- The bytes of an entry of `len` bytes, read from its blocks. -/
def mgtFrame (src : Nat) : Nat → Nat → Nat → State → List Nat × State
  | 0, _, _, s => ([], s)
  | n + 1, a, len, s =>
    let r := netReadBlock s a src
    let t := mgtFrame src n (a + 64) (len - 60) r.2
    (r.1.1.take (Nat.min len 60) ++ t.1, t.2)

/-- The next ready entry is sent or consumed. -/
def mgtSend (s : State) (p stamp : Nat) : State :=
  let n := s.fld F.HST_MGT_TX_N.N 0 p
  let rp := s.fld F.HST_MGT_TX_RP.COUNT 0 p
  let a := 64 * s.fld F.HST_MGT_TX_BASE.ADDR 0 p + 2048 * (rp % Nat.max n 1)
  let h := netReadBlock s a (0x59 + p)
  let len := bitsOf ((bytesWords h.1.1).getD 0 0).toNat 39 29
  let s1 := h.2.addWrap F.HST_MGT_TX_RP.COUNT 0 p
  if len = 0 then s1
  else if 1522 < len then s1.addSat F.HST_MGT_CNT1.TX_BAD 0 p
  else
    let x := mgtFrame (0x59 + p) ((len + 59) / 60) (a + 64) len s1
    let f0 := x.1
    let rewritten :=
      match ptpAt f0 with
      | none => (f0, x.2)
      | some (o, sum) =>
        let msg := f0.getD o 0 % 16
        if oneStep s p && (msg == 0 || msg == 3) then
          let t := oneStepTime x.2 p msg (beNum f0 (o + 30) 2) stamp
          (oneStepFrame f0 o sum t.1, t.2)
        else (f0, x.2)
    let f := rewritten.1 ++ List.replicate (60 - rewritten.1.length) 0
    let s2 := rewritten.2.addSat F.HST_MGT_CNT0.TX_FRAMES 0 p
    { s2 with host := { s2.host with frames := s2.host.frames ++ [(p, f ++ fcs f)] } }

/-- MGT_FRAME_TRANSMIT (R440): the port sends the entry TX_RP mod N; `stamp` is the device time at which its timestamp
point crosses the land. -/
def execMgtFrameTransmit (port : Fin 2) (stamp : Nat) (s : State) : Host.Outcome State Fault Refusal :=
  let n := s.fld F.HST_MGT_TX_N.N 0 port
  let rp := s.fld F.HST_MGT_TX_RP.COUNT 0 port
  let a := 64 * s.fld F.HST_MGT_TX_BASE.ADDR 0 port + 2048 * (rp % Nat.max n 1)
  if s.on F.HST_MGT_CFG.EN 0 port ∧ n ≠ 0 ∧ s.fld F.HST_MGT_TX_WP.COUNT 0 port ≠ rp ∧ memAccess s a = 0
      ∧ memAccess s (a + 1984) = 0 then
    .next (mgtSend s port stamp)
  else .next s

/-- MGT_LINK_UP (R439): block lock without a local fault is gained or lost. -/
def execMgtLinkUp (port : Fin 2) (up : Bool) (s : State) : Host.Outcome State Fault Refusal :=
  .next { s with host := { s.host with local_ := mset false s.host.local_ port up } }

end Sys2Proof.Machine
end

