-- ==== Sys2Proof/Machine/Sideband.lean ====
section
/-! DEFINITION. The SMBus sideband and the module's temperature judgement (R441, R442, R458), and the JTAG access to the
device address space (R424). -/

namespace Sys2Proof.Machine

/-! ### Answers -/

/-- A reply byte, word or block of the SMBus target. -/
def reply (s : State) (bs : List Nat) : Host.Outcome State Fault Refusal := .next { s with module := { s.module with reply := bs } }

/-- A read word, low byte first. -/
def replyWord (s : State) (w : Nat) : Host.Outcome State Fault Refusal := reply s [w % 256, w / 256 % 256]

/-- A block read: the byte count, then the bytes. -/
def replyBlock (s : State) (bs : List Nat) : Host.Outcome State Fault Refusal := reply s (bs.length :: bs)

/-- The mantissa of `n` / `d` at exponent `e`, rounded down, or up with `up` when it is not exact. -/
def linMant (n : Int) (d : Nat) (e : Int) (up : Bool) : Int :=
  let num : Int := if e < 0 then n * (2 ^ (-e).toNat : Nat) else n
  let den : Nat := if e < 0 then d else d * 2 ^ e.toNat
  let q := num / (den : Int)
  if up && decide (num % (den : Int) ≠ 0) then q + 1 else q

/-- LINEAR11 of `n` / `d`: the most negative exponent at which the mantissa fits in 11 signed bits (R441). -/
def linear11 (n : Int) (d : Nat) (up : Bool) : Nat :=
  let es := (List.range 32).map (fun (k : Nat) => (k : Int) - 16)
  let fits (e : Int) : Bool := decide (-1024 ≤ linMant n d e up) && decide (linMant n d e up ≤ 1023)
  let e := (es.find? fits).getD 15
  unsigned 5 e * 2 ^ 11 + unsigned 11 (linMant n d e up)

/-- A LINEAR11 answer; which neighbour an inexact mantissa takes is not stated: a free value. -/
def replyLin (s : State) (n : Int) (d : Nat) : Host.Outcome State Fault Refusal :=
  replyWord s.used (linear11 n d (s.fresh.getLsbD 0))

/-! ### Status -/

/-- Status bits become set: ALERT_N is driven when one of them is new (R442). -/
def latchTemp (s : State) (bits : Nat) : State :=
  let m := s.module
  let s1 := { s with module := { m with temp := m.temp ||| bits } }
  if m.temp ||| bits = m.temp then s1 else alert s1

/-- Bits of STATUS_INPUT become set. -/
def latchInput (s : State) (bits : Nat) : State :=
  let m := s.module
  let s1 := { s with module := { m with input := m.input ||| bits } }
  if m.input ||| bits = m.input then s1 else alert s1

/-- Bits of STATUS_CML become set. -/
def latchCml (s : State) (bits : Nat) : State :=
  let m := s.module
  let s1 := { s with module := { m with cml := m.cml ||| bits } }
  if m.cml ||| bits = m.cml then s1 else alert s1

/-- STATUS_WORD (Table 18.6). -/
def statusWord (s : State) : Nat :=
  let m := s.module
  flag (m.input != 0) * 2 ^ 13 + flag (mfrBit s) * 2 ^ 12 + flag (!m.badRails.isEmpty) * 2 ^ 11 + flag (bitOf m.input 4) * 2 ^ 3
    + flag (m.temp != 0) * 2 ^ 2 + flag (m.cml != 0) * 2

/-! ### The commands of Table 18.6 -/

/-- CLEAR_FAULTS: the latched bits clear and ALERT_N is released. -/
def execClearFaults (s : State) : Host.Outcome State Fault Refusal :=
  .next { s with module := { s.module with temp := 0, input := 0, cml := 0, mfr := false, alert := false } }

/-- CAPABILITY. -/
def execCapability (s : State) : Host.Outcome State Fault Refusal := reply s [0xB0]

/-- STATUS_WORD. -/
def execStatusWord (s : State) : Host.Outcome State Fault Refusal := replyWord s (statusWord s)

/-- STATUS_INPUT. -/
def execStatusInput (s : State) : Host.Outcome State Fault Refusal := reply s [s.module.input]

/-- STATUS_TEMPERATURE. -/
def execStatusTemperature (s : State) : Host.Outcome State Fault Refusal := reply s [s.module.temp]

/-- STATUS_CML. -/
def execStatusCml (s : State) : Host.Outcome State Fault Refusal := reply s [s.module.cml]

/-- READ_VIN, in volts. -/
def execReadVin (s : State) : Host.Outcome State Fault Refusal := replyLin s (s.fld F.PWR_VIN.VIN : Nat) 1000

/-- READ_IIN, in amperes. -/
def execReadIin (s : State) : Host.Outcome State Fault Refusal := replyLin s (s.fld F.PWR_VIN.IIN : Nat) 1000

/-- A temperature field in sixteenths of a degree. -/
def tempOf (s : State) (f : Fld) : Int := signed 12 (s.fld f)

/-- READ_TEMPERATURE_1: the case. -/
def execReadTemperature1 (s : State) : Host.Outcome State Fault Refusal := replyLin s (tempOf s F.PWR_TEMP.CASE_T) 16

/-- READ_TEMPERATURE_2: the hottest die. -/
def execReadTemperature2 (s : State) : Host.Outcome State Fault Refusal := replyLin s (tempOf s F.PWR_TEMP.DIE_MAX_T) 16

/-- READ_TEMPERATURE_3: the reference oscillator. -/
def execReadTemperature3 (s : State) : Host.Outcome State Fault Refusal := replyLin s (tempOf s F.PWR_TEMP.OSC_T) 16

/-- READ_PIN: the input power, measured in milliwatts, in watts. -/
def execReadPin (milliwatts : Nat) (s : State) : Host.Outcome State Fault Refusal := replyLin s (milliwatts : Nat) 1000

/-- PMBUS_REVISION. -/
def execPmbusRevision (s : State) : Host.Outcome State Fault Refusal := reply s [0x33]

/-- MFR_ID: "NALAUSKO". -/
def execMfrId (s : State) : Host.Outcome State Fault Refusal := replyBlock s [0x4E, 0x41, 0x4C, 0x41, 0x55, 0x53, 0x4B, 0x4F]

/-- MFR_MODEL: "WK9640-E" or "WK9640-X". -/
def execMfrModel (s : State) : Host.Outcome State Fault Refusal :=
  replyBlock s [0x57, 0x4B, 0x39, 0x36, 0x34, 0x30, 0x2D, if Config.productX then 0x58 else 0x45]

/-- MFR_REVISION: "B1". -/
def execMfrRevision (s : State) : Host.Outcome State Fault Refusal := replyBlock s [0x42, 0x31]

/-- MFR_SPECIFIC_00: HST_MODE.MODE. -/
def execMfrSpecific00 (s : State) : Host.Outcome State Fault Refusal := replyWord s (modeCode s.mode)

/-- MFR_SPECIFIC_01: HST_ID, least significant byte first. -/
def execMfrSpecific01 (s : State) : Host.Outcome State Fault Refusal :=
  replyBlock s (wordBytes (liveWord s ⟨.HST_ID, 0, 0⟩))

/-- MFR_SPECIFIC_02: the occupancy of the device error ring. -/
def execMfrSpecific02 (s : State) : Host.Outcome State Fault Refusal := replyWord s (devOcc s)

/-- SMBUS_INVALID_COMMAND: 0 an unlisted command or a write to a read-only one, 1 invalid data, 2 a failed PEC. -/
def execSmbusInvalidCommand (kind : Fin 3) (s : State) : Host.Outcome State Fault Refusal :=
  .next (latchCml { s with module := { s.module with reply := [] } } (2 ^ (7 - kind.val)))

/-- ALERT_RESPONSE (R442): while it drives ALERT_N, the target answers with its own address and releases it. -/
def execAlertResponse (s : State) : Host.Outcome State Fault Refusal :=
  if s.module.alert then
    .next { s with module := { s.module with alert := false, reply := [2 * s.fld F.HST_CTRL.SMB_ADDR] } }
  else .next s

/-! ### Temperature (R458) -/

/-- A threshold in degrees with its hysteresis of 3 °C, over a temperature in sixteenths. -/
def overTemp (held : Bool) (t : Int) (limit : Int) : Bool := decide (16 * (if held then limit - 3 else limit) ≤ t)

/-- TEMPERATURE_CHECK (R458): the temperatures in sixteenths of a degree, VIN in millivolts and the input current in
milliamperes are measured and judged; `ov` and `uv` say whether VIN is out of its range. -/
def execTemperatureCheck (caseT : BitVec 12) (die : BitVec 12) (osc : BitVec 12) (vin : BitVec 16) (iin : BitVec 16) (ov : Bool) (uv : Bool)
    (s : State) : Host.Outcome State Fault Refusal :=
  let s1 := ((s.setFld F.PWR_TEMP.CASE_T 0 0 caseT.toNat).setFld F.PWR_TEMP.DIE_MAX_T 0 0 die.toNat).setFld F.PWR_TEMP.OSC_T 0 0
    osc.toNat
  let s2 := (s1.setFld F.PWR_VIN.VIN 0 0 vin.toNat).setFld F.PWR_VIN.IIN 0 0 iin.toNat
  let c := caseT.toInt
  let d := die.toInt
  let m := s.module
  let warn := overTemp m.warn c 85 || overTemp m.warn d 110
  let fault := overTemp m.fault c 90 || overTemp m.fault d 115
  let under := decide (c < 16 * (if m.under then -37 else -40))
  let s3 := { s2 with module := { m with
    warn := warn, fault := fault, under := under, tripped := m.tripped && decide (1600 < d) } }
  .next (latchInput (latchTemp s3 (flag fault * 2 ^ 7 + flag warn * 2 ^ 6 + flag under * 2 ^ 4))
    (flag ov * 2 ^ 7 + flag uv * 2 ^ 4))

/-- THERM_N is driven low while OT_WARNING or OT_FAULT holds. -/
def thermLow (s : State) : Bool := s.module.warn || s.module.fault

/-- THERMAL_TRIP (R458): the core rails go off, and the loss of regulation starts a P reset with cause SUPPLY. -/
def execThermalTrip (s : State) : Host.Outcome State Fault Refusal :=
  .next { powerOn s 6 with module := { tripped := true } }

/-! ### MEMACC (R424) -/

/-- Whether an access of JTAG has not completed. -/
def jtagBusy (s : State) : Bool :=
  s.resps.any (fun r => r.dst == 0x5B) || (s.net.waitReq ++ s.net.accepted).any (fun q => q.src == 0x5B) ||
  s.queues.any (fun e => e.2.waiting.any (fun p => p.src == 0x5B))

/-- What Capture-DR of MEMACC reads. -/
def jtagCapture (s : State) : Nat := flag (jtagBusy s) * 2 ^ 81 + s.jtag.status * 2 ^ 76 + s.jtag.data.toNat

/-- MEMACC (R424): Capture-DR, then Update-DR with DR[81:80] = `op`; under the debug lock it acts as BYPASS (R384). -/
def execMemacc (op : BitVec 2) (addr : Word) (data : Word) (s : State) : Host.Outcome State Fault Refusal :=
  if s.on F.CFG_STATUS.LOCKED then .next (quietInsn s 0x20 0)
  else
    let s1 := quietInsn s 0x20 (jtagCapture s)
    match oneWord addr.toNat, op.toNat with
    | some sel, 1 => .next (serveReq s1 { op := 0, src := 0x5B, tag := 0, addr := addr.toNat, sel := sel, stride := 0 })
    | some sel, 2 => .next (serveReq s1
        { op := 2, src := 0x5B, tag := 0, addr := addr.toNat, sel := sel, stride := s.time.strideNum, words := [data] })
    | _, _ => .next s1

end Sys2Proof.Machine
end

