-- ==== Sys2Proof/Machine/Reply.lean ====
section
/-! DEFINITION. What a response of the network does at its requester (R169, R173, R205, R283, R297, R366, R401, R424,
R429), and the write of a register field that has no row of its own (R7, R432). -/

namespace Sys2Proof.Machine

/-! ### Supervisors (R173) -/

/-- The wait of a network instruction ends; how long it lasted is not known (log entry 18). -/
def endNet (s : State) (p : Nat) : State := settle (endRtf (trcWait (s.setProc p { s.proc p with net := .none }) p) p) p

/-- A network load or store failed. -/
def supNerr (s : State) (p st : Nat) : State :=
  let r := p - 64
  let s1 := if s.on F.SUP_NSTAT.NERR r then s else s.setFld F.SUP_NSTAT.STATUS r 0 st
  raiseEdge (s1.setFld F.SUP_NSTAT.NERR r 0 1) p 29

/-- The response of an NLD. The cycles of its wait count in SUP_STALL; how many they were is a free value. -/
def nldReply (s : State) (p st : Nat) (ws : List Word) : State :=
  match (s.proc p).net with
  | .load rd _ =>
    let s1 := (s.addSat F.SUP_STALL.CYCLES (p - 64) 0 s.fresh.toNat).used
    let s2 := if st = stOk then s1.setX p rd (ws.headD 0) else supNerr (s1.setX p rd 0) p st
    endNet s2 p
  | _ => s

/-- The acknowledgement of an NST; a stalled NST leaves, and an NFENCE ends with the last one. -/
def nstAck (s : State) (p st : Nat) : State :=
  let r := p - 64
  let s1 := s.setFld F.SUP_NSTAT.OUTSTANDING r 0 (s.fld F.SUP_NSTAT.OUTSTANDING r - 1)
  let s2 := if st = stOk then s1 else procEvent (supNerr s1 p st) p 3
  match (s2.proc p).net with
  | .store a w => endNet (nstRequest p a w s2) p
  | .fence => if s2.fld F.SUP_NSTAT.OUTSTANDING r = 0 then endNet s2 p else s2
  | _ => s2

/-! ### Responses at their requesters -/

/-- Whether a response is one for a requester and tag that can arrive: its route uses no link that is down (R304). -/
def Resp.isFor (r : Resp) (s : State) (rd : Bool) (dst tag : Nat) : Bool :=
  r.isRead == rd && r.dst == dst && r.tag == tag && !routeDown s (r.node / 2) (srcPort r.dst / 2)

/-- A read response at its requester. One for a requester that was reset since is discarded (R401). -/
def readReply (s : State) (r : Resp) : State :=
  let w := r.words.headD 0
  if r.late then s
  else if 0x40 ≤ r.dst ∧ r.dst < 0x44 then nldReply s r.dst r.status r.words
  else if 0x4C ≤ r.dst ∧ r.dst < 0x50 then
    if r.status ≠ stOk ∧ s.load.kind ≠ 0 ∧ s.load.src = 0 then endLoad s 0 2 else s
  else if r.dst = 0x58 then hostReply s r.tag r.status r.words r.checks
  else if r.dst = 0x5B then { s with jtag := { s.jtag with status := r.status, data := if r.status = stOk then w else s.jtag.data } }
  else s

/-- A write acknowledgement at its requester. -/
def writeReply (s : State) (r : Resp) : State :=
  if r.late then s
  else if r.dst < 0x40 then (if 0x8000 ≤ r.tag then dmaAck s r.dst (r.tag % 4) r.status else s)
  else if r.dst < 0x44 then
    if 0x8000 ≤ r.tag then dmaAck s r.dst (r.tag % 4) r.status else nstAck s r.dst r.status
  else if r.dst < 0x48 ∧ r.tag % 4096 ≠ 0 then s
  else if r.dst < 0x48 then heatAck s (r.dst - 0x44) (r.tag / 4096 % 16) r.status
  else if r.dst < 0x4C then ringAck s (r.dst - 0x48) r.status
  else if r.dst = 0x58 then (if 0xC000 ≤ r.tag then hostDmaAck s (r.tag % 8) r.status else hostWack s r.tag r.status)
  else if r.dst = 0x5B then { s with jtag := { s.jtag with status := r.status } }
  else s

/-- What follows a response: a swap or held request that waited for the buffers (R301). -/
def afterReply (s : State) : State := releaseHeld (swapIfStopped s)

/-- RDATA (R297): the oldest read response with this tag reaches its requester. -/
def execRdata (dst : BitVec 8) (tag : BitVec 16) (s : State) : Host.Outcome State Fault Refusal :=
  match s.resps.find? (fun r => r.isFor s true dst.toNat tag.toNat) with
  | none => .next s
  | some r => .next (afterReply (readReply { s with resps := s.resps.erase r, lastRead := r.words.headD 0 } r))

/-- WACK (R297): the oldest acknowledgement with this tag reaches its requester. -/
def execWack (dst : BitVec 8) (tag : BitVec 16) (s : State) : Host.Outcome State Fault Refusal :=
  match s.resps.find? (fun r => r.isFor s false dst.toNat tag.toNat) with
  | none => .next s
  | some r => .next (afterReply (writeReply { s with resps := s.resps.erase r } r))

/-! ### REGISTER_WRITE -/

/-- REGISTER_WRITE (R7, R28, R432): a slot of the register space, whose upper 24 bits are ignored, or from 2⁴⁰ on an offset
of BAR4. -/
def execRegisterWrite (addr : Nat) (value : BitVec 64) (s : State) : Host.Outcome State Fault Refusal :=
  if 2 ^ 40 ≤ addr then .next (writeBar4 s (addr - 2 ^ 40) value.toNat)
  else
    match decodeReg addr with
    | some q => .next (writeReg s q (BitVec.ofNat 40 value.toNat))
    | none => .next s

end Sys2Proof.Machine
end

