-- ==== Sys2Proof/Machine/Dispatch.lean ====
section
/-! DEFINITION. The dispatcher: one arm per command, each a direct call of its meaning. -/

namespace Sys2Proof.Machine

open Sys2Proof

/-- The effect of a command on everything but the queue. -/
def exec (i : Instr) (s : State) : Host.Outcome State Fault Refusal :=
  match i with
  | .registerWrite addr value => Sys2Proof.Machine.execRegisterWrite addr value s
  | .scheduledStep dt => Sys2Proof.Machine.execScheduledStep dt s
  | .strideBoundary dt lands driven => Sys2Proof.Machine.execStrideBoundary dt lands driven s
  | .firstBoundary dt lands driven => Sys2Proof.Machine.execFirstBoundary dt lands driven s
  | .heldStrideAdvance => Sys2Proof.Machine.execHeldStrideAdvance s
  | .slice3 cell instr => Sys2Proof.Machine.execSlice3 cell instr s
  | .lut4 cell instr => Sys2Proof.Machine.execLut4 cell instr s
  | .chain cell instr => Sys2Proof.Machine.execChain cell instr s
  | .rot cell instr => Sys2Proof.Machine.execRot cell instr s
  | .reduce cell instr => Sys2Proof.Machine.execReduce cell instr s
  | .nop cell => Sys2Proof.Machine.execNop cell s
  | .correctionWriteBack cell => Sys2Proof.Machine.execCorrectionWriteBack cell s
  | .cellScrub cell => Sys2Proof.Machine.execCellScrub cell s
  | .rckSourceSwitch region tree => Sys2Proof.Machine.execRckSourceSwitch region tree s
  | .rckForced region tree => Sys2Proof.Machine.execRckForced region tree s
  | .timNowFracRead dt => Sys2Proof.Machine.execTimNowFracRead dt s
  | .timPpsInFracRead => Sys2Proof.Machine.execTimPpsInFracRead s
  | .timStrideLoRead => Sys2Proof.Machine.execTimStrideLoRead s
  | .timTsInfoRead => Sys2Proof.Machine.execTimTsInfoRead s
  | .timRateWrite value => Sys2Proof.Machine.execTimRateWrite value s
  | .timAdjSecWrite value => Sys2Proof.Machine.execTimAdjSecWrite value s
  | .timeStep => Sys2Proof.Machine.execTimeStep s
  | .timStrideCfgWrite value => Sys2Proof.Machine.execTimStrideCfgWrite value s
  | .ppsOut => Sys2Proof.Machine.execPpsOut s
  | .ppsOutFall => Sys2Proof.Machine.execPpsOutFall s
  | .ppsInEdge rising dt => Sys2Proof.Machine.execPpsInEdge rising dt s
  | .refLost => Sys2Proof.Machine.execRefLost s
  | .refQualified => Sys2Proof.Machine.execRefQualified s
  | .refSelWrite sel => Sys2Proof.Machine.execRefSelWrite sel s
  | .ptpEventMessage port transmit msg seq ipv6 stamp => Sys2Proof.Machine.execPtpEventMessage port transmit msg seq ipv6 stamp s
  | .timeFrameLaunch => Sys2Proof.Machine.execTimeFrameLaunch s
  | .timeFrame sec frac hop ringDly valid arrival => Sys2Proof.Machine.execTimeFrame sec frac hop ringDly valid arrival s
  | .tlLost => Sys2Proof.Machine.execTlLost s
  | .gunPush region s0 s1 s2 s3 whole dt => Sys2Proof.Machine.execGunPush region s0 s1 s2 s3 whole dt s
  | .cancel region cls index tag frac dt => Sys2Proof.Machine.execCancel region cls index tag frac dt s
  | .gunFire region cls index dt => Sys2Proof.Machine.execGunFire region cls index dt s
  | .gunWake region cls index => Sys2Proof.Machine.execGunWake region cls index s
  | .patStart lane arg => Sys2Proof.Machine.execPatStart lane arg s
  | .patStop lane => Sys2Proof.Machine.execPatStop lane s
  | .txMute lane => Sys2Proof.Machine.execTxMute lane s
  | .txUnmute lane => Sys2Proof.Machine.execTxUnmute lane s
  | .inject lane arg => Sys2Proof.Machine.execInject lane arg s
  | .rxqStart lane => Sys2Proof.Machine.execRxqStart lane s
  | .rxqStop lane => Sys2Proof.Machine.execRxqStop lane s
  | .heatArm region channel auto => Sys2Proof.Machine.execHeatArm region channel auto s
  | .heatDisarm region channel => Sys2Proof.Machine.execHeatDisarm region channel s
  | .heatFinish region channel => Sys2Proof.Machine.execHeatFinish region channel s
  | .heatForce region channel => Sys2Proof.Machine.execHeatForce region channel s
  | .zoneStart region zone => Sys2Proof.Machine.execZoneStart region zone s
  | .zoneIsolate region zone => Sys2Proof.Machine.execZoneIsolate region zone s
  | .gunIrq proc fast => Sys2Proof.Machine.execGunIrq proc fast s
  | .gunEvent region index stamp => Sys2Proof.Machine.execGunEvent region index stamp s
  | .run proc => Sys2Proof.Machine.execRun proc s
  | .halt proc => Sys2Proof.Machine.execHalt proc s
  | .step proc => Sys2Proof.Machine.execStep proc s
  | .engineReset proc => Sys2Proof.Machine.execEngineReset proc s
  | .engineResetEnd proc => Sys2Proof.Machine.execEngineResetEnd proc s
  | .qcSizeWrite tile queue value => Sys2Proof.Machine.execQcSizeWrite tile queue value s
  | .qcRdWrite tile queue value => Sys2Proof.Machine.execQcRdWrite tile queue value s
  | .truncate tile queue len => Sys2Proof.Machine.execTruncate tile queue len s
  | .flush tile queue => Sys2Proof.Machine.execFlush tile queue s
  | .queueCommandDone tile queue => Sys2Proof.Machine.execQueueCommandDone tile queue s
  | .qcLaneWrite tile value => Sys2Proof.Machine.execQcLaneWrite tile value s
  | .queueMemoryScrub tile row => Sys2Proof.Machine.execQueueMemoryScrub tile row s
  | .scratchpadScrub tile row => Sys2Proof.Machine.execScratchpadScrub tile row s
  | .spdStarve tile word cycles => Sys2Proof.Machine.execSpdStarve tile word cycles s
  | .marchStart tile value => Sys2Proof.Machine.execMarchStart tile value s
  | .marchDone tile => Sys2Proof.Machine.execMarchDone tile s
  | .repair tile queueMem index value => Sys2Proof.Machine.execRepair tile queueMem index value s
  | .repairDone tile queueMem index => Sys2Proof.Machine.execRepairDone tile queueMem index s
  | .add proc sat rd ra b => Sys2Proof.Machine.execAdd proc sat rd ra b s
  | .adc proc sat rd ra b => Sys2Proof.Machine.execAdc proc sat rd ra b s
  | .sub proc sat rd ra b => Sys2Proof.Machine.execSub proc sat rd ra b s
  | .sbc proc sat rd ra b => Sys2Proof.Machine.execSbc proc sat rd ra b s
  | .andOp proc sat rd ra b => Sys2Proof.Machine.execAndOp proc sat rd ra b s
  | .orOp proc sat rd ra b => Sys2Proof.Machine.execOrOp proc sat rd ra b s
  | .xorOp proc sat rd ra b => Sys2Proof.Machine.execXorOp proc sat rd ra b s
  | .andn proc sat rd ra b => Sys2Proof.Machine.execAndn proc sat rd ra b s
  | .cmp proc sat ra b => Sys2Proof.Machine.execCmp proc sat ra b s
  | .tst proc sat ra b => Sys2Proof.Machine.execTst proc sat ra b s
  | .min proc sat rd ra b => Sys2Proof.Machine.execMin proc sat rd ra b s
  | .max proc sat rd ra b => Sys2Proof.Machine.execMax proc sat rd ra b s
  | .abs proc sat rd ra => Sys2Proof.Machine.execAbs proc sat rd ra s
  | .neg proc sat rd ra => Sys2Proof.Machine.execNeg proc sat rd ra s
  | .pcnt proc sat rd ra => Sys2Proof.Machine.execPcnt proc sat rd ra s
  | .lzc proc sat rd ra => Sys2Proof.Machine.execLzc proc sat rd ra s
  | .shl proc sat rd ra k => Sys2Proof.Machine.execShl proc sat rd ra k s
  | .shr proc sat rd ra k => Sys2Proof.Machine.execShr proc sat rd ra k s
  | .sar proc sat rd ra k => Sys2Proof.Machine.execSar proc sat rd ra k s
  | .rol proc sat rd ra k => Sys2Proof.Machine.execRol proc sat rd ra k s
  | .mv proc rd ra => Sys2Proof.Machine.execMv proc rd ra s
  | .mvi proc rd v => Sys2Proof.Machine.execMvi proc rd v s
  | .mvfr proc rd code => Sys2Proof.Machine.execMvfr proc rd code s
  | .mvtr proc code ra => Sys2Proof.Machine.execMvtr proc code ra s
  | .mvti proc code imm => Sys2Proof.Machine.execMvti proc code imm s
  | .ld proc width xt pn am => Sys2Proof.Machine.execLd proc width xt pn am s
  | .st proc width xt pn am => Sys2Proof.Machine.execSt proc width xt pn am s
  | .bcc proc cond target => Sys2Proof.Machine.execBcc proc cond target s
  | .call proc rd target => Sys2Proof.Machine.execCall proc rd target s
  | .jr proc ra => Sys2Proof.Machine.execJr proc ra s
  | .callr proc rd ra => Sys2Proof.Machine.execCallr proc rd ra s
  | .rti proc => Sys2Proof.Machine.execRti proc s
  | .rtf proc => Sys2Proof.Machine.execRtf proc s
  | .bdec proc rn target => Sys2Proof.Machine.execBdec proc rn target s
  | .mpy proc sat n ra rb => Sys2Proof.Machine.execMpy proc sat n ra rb s
  | .mac proc sat n ra rb => Sys2Proof.Machine.execMac proc sat n ra rb s
  | .msu proc sat n ra rb => Sys2Proof.Machine.execMsu proc sat n ra rb s
  | .macr proc sat n ra rb => Sys2Proof.Machine.execMacr proc sat n ra rb s
  | .cmul proc sat pair ra rb => Sys2Proof.Machine.execCmul proc sat pair ra rb s
  | .cmac proc sat pair ra rb => Sys2Proof.Machine.execCmac proc sat pair ra rb s
  | .cmulj proc sat pair ra rb => Sys2Proof.Machine.execCmulj proc sat pair ra rb s
  | .cmacj proc sat pair ra rb => Sys2Proof.Machine.execCmacj proc sat pair ra rb s
  | .dmpy proc sat pair ra rb rc => Sys2Proof.Machine.execDmpy proc sat pair ra rb rc s
  | .dmac proc sat pair ra rb rc => Sys2Proof.Machine.execDmac proc sat pair ra rb rc s
  | .mul40 proc sat pair ra rb => Sys2Proof.Machine.execMul40 proc sat pair ra rb s
  | .mul40u proc sat pair ra rb => Sys2Proof.Machine.execMul40u proc sat pair ra rb s
  | .ext proc sat rd n k => Sys2Proof.Machine.execExt proc sat rd n k s
  | .aclr proc n => Sys2Proof.Machine.execAclr proc n s
  | .aadd proc sat n ra => Sys2Proof.Machine.execAadd proc sat n ra s
  | .asub proc sat n ra => Sys2Proof.Machine.execAsub proc sat n ra s
  | .aadda proc sat n m => Sys2Proof.Machine.execAadda proc sat n m s
  | .asl proc sat n k => Sys2Proof.Machine.execAsl proc sat n k s
  | .asr proc n k => Sys2Proof.Machine.execAsr proc n k s
  | .aneg proc sat n => Sys2Proof.Machine.execAneg proc sat n s
  | .mfs proc rd slot => Sys2Proof.Machine.execMfs proc rd slot s
  | .mts proc slot ra => Sys2Proof.Machine.execMts proc slot ra s
  | .hurdle proc rd => Sys2Proof.Machine.execHurdle proc rd s
  | .hurdleN proc rd => Sys2Proof.Machine.execHurdleN proc rd s
  | .waiti proc => Sys2Proof.Machine.execWaiti proc s
  | .waitiComplete proc => Sys2Proof.Machine.execWaitiComplete proc s
  | .waitc proc ra => Sys2Proof.Machine.execWaitc proc ra s
  | .waitcExpiry proc => Sys2Proof.Machine.execWaitcExpiry proc s
  | .dmago proc ra ch => Sys2Proof.Machine.execDmago proc ra ch s
  | .nld proc rd a => Sys2Proof.Machine.execNld proc rd a s
  | .nst proc rb a => Sys2Proof.Machine.execNst proc rb a s
  | .nfence proc => Sys2Proof.Machine.execNfence proc s
  | .ectl proc ra cmd => Sys2Proof.Machine.execEctl proc ra cmd s
  | .engineNop proc => Sys2Proof.Machine.execEngineNop proc s
  | .reservedInstruction proc first second => Sys2Proof.Machine.execReservedInstruction proc first second s
  | .normalInterrupt proc => Sys2Proof.Machine.execNormalInterrupt proc s
  | .fastInterrupt proc => Sys2Proof.Machine.execFastInterrupt proc s
  | .doorbell proc value => Sys2Proof.Machine.execDoorbell proc value s
  | .dmaGo proc channel addr => Sys2Proof.Machine.execDmaGo proc channel addr s
  | .dmaAbort proc channel count => Sys2Proof.Machine.execDmaAbort proc channel count s
  | .dmaDescriptorComplete proc channel stamps => Sys2Proof.Machine.execDmaDescriptorComplete proc channel stamps s
  | .seImemWrite proc addr value => Sys2Proof.Machine.execSeImemWrite proc addr value s
  | .seDbgDataAccess proc write value => Sys2Proof.Machine.execSeDbgDataAccess proc write value s
  | .wdogKick region => Sys2Proof.Machine.execWdogKick region s
  | .wdogWarning region => Sys2Proof.Machine.execWdogWarning region s
  | .wdog region => Sys2Proof.Machine.execWdog region s
  | .traceLineDeliver region => Sys2Proof.Machine.execTraceLineDeliver region s
  | .syncLong proc => Sys2Proof.Machine.execSyncLong proc s
  | .sinkStart region value => Sys2Proof.Machine.execSinkStart region value s
  | .sinkStop region => Sys2Proof.Machine.execSinkStop region s
  | .sinkStopped region => Sys2Proof.Machine.execSinkStopped region s
  | .trcSrcWrite region value => Sys2Proof.Machine.execTrcSrcWrite region value s
  | .laneEnable lane value => Sys2Proof.Machine.execLaneEnable lane value s
  | .laneDisable lane => Sys2Proof.Machine.execLaneDisable lane s
  | .txSrcWrite lane src => Sys2Proof.Machine.execTxSrcWrite lane src s
  | .loopWrite lane loop => Sys2Proof.Machine.execLoopWrite lane loop s
  | .lnTxFfeWrite lane value => Sys2Proof.Machine.execLnTxFfeWrite lane value s
  | .clrCnt lane => Sys2Proof.Machine.execClrCnt lane s
  | .slip lane => Sys2Proof.Machine.execSlip lane s
  | .injectGo lane value => Sys2Proof.Machine.execInjectGo lane value s
  | .injectStop lane => Sys2Proof.Machine.execInjectStop lane s
  | .injectionEvent lane => Sys2Proof.Machine.execInjectionEvent lane s
  | .histStart lane value => Sys2Proof.Machine.execHistStart lane value s
  | .histDone lane => Sys2Proof.Machine.execHistDone lane s
  | .lnTsInfoRead lane => Sys2Proof.Machine.execLnTsInfoRead lane s
  | .lnChkBitsLoRead lane => Sys2Proof.Machine.execLnChkBitsLoRead lane s
  | .decodedWord lane adc levels behind time => Sys2Proof.Machine.execDecodedWord lane adc levels behind time s
  | .fecCodeword lane => Sys2Proof.Machine.execFecCodeword lane s
  | .laneTxUnit lane => Sys2Proof.Machine.execLaneTxUnit lane s
  | .lossOfSignal lane => Sys2Proof.Machine.execLossOfSignal lane s
  | .lnCdrLoss lane => Sys2Proof.Machine.execLnCdrLoss lane s
  | .lnPllLoss lane => Sys2Proof.Machine.execLnPllLoss lane s
  | .pcsAlignLock lane => Sys2Proof.Machine.execPcsAlignLock lane s
  | .lnAlignLoss lane => Sys2Proof.Machine.execLnAlignLoss lane s
  | .checkerLock lane => Sys2Proof.Machine.execCheckerLock lane s
  | .lnChkLoss lane => Sys2Proof.Machine.execLnChkLoss lane s
  | .acquisitionPhaseDone lane agc freq mse => Sys2Proof.Machine.execAcquisitionPhaseDone lane agc freq mse s
  | .lnRelockLate lane => Sys2Proof.Machine.execLnRelockLate lane s
  | .laneDetectorEvent lane => Sys2Proof.Machine.execLaneDetectorEvent lane s
  | .windowArm lane => Sys2Proof.Machine.execWindowArm lane s
  | .windowForce lane => Sys2Proof.Machine.execWindowForce lane s
  | .tapChange lane => Sys2Proof.Machine.execTapChange lane s
  | .prefillDone lane => Sys2Proof.Machine.execPrefillDone lane s
  | .snapDone lane => Sys2Proof.Machine.execSnapDone lane s
  | .eventProcess region => Sys2Proof.Machine.execEventProcess region s
  | .stageTimeout region => Sys2Proof.Machine.execStageTimeout region s
  | .sequencerEnable region value => Sys2Proof.Machine.execSequencerEnable region value s
  | .softwareEvent region index dt => Sys2Proof.Machine.execSoftwareEvent region index dt s
  | .trigInEdge pin rising dt => Sys2Proof.Machine.execTrigInEdge pin rising dt s
  | .busEvent region => Sys2Proof.Machine.execBusEvent region s
  | .trigOutEdge region => Sys2Proof.Machine.execTrigOutEdge region s
  | .trigOutPulseEnd region => Sys2Proof.Machine.execTrigOutPulseEnd region s
  | .captureEnd region channel => Sys2Proof.Machine.execCaptureEnd region channel s
  | .heatClosed region channel => Sys2Proof.Machine.execHeatClosed region channel s
  | .channelReady region channel => Sys2Proof.Machine.execChannelReady region channel s
  | .windowOverrun region channel => Sys2Proof.Machine.execWindowOverrun region channel s
  | .rd src tag addr wen => Sys2Proof.Machine.execRd src tag addr wen s
  | .rdl src tag addr lines => Sys2Proof.Machine.execRdl src tag addr lines s
  | .wr src tag addr wen stride words => Sys2Proof.Machine.execWr src tag addr wen stride words s
  | .wrl src tag addr lines stride words checks => Sys2Proof.Machine.execWrl src tag addr lines stride words checks s
  | .rdata dst tag => Sys2Proof.Machine.execRdata dst tag s
  | .wack dst tag => Sys2Proof.Machine.execWack dst tag s
  | .lease port node entries => Sys2Proof.Machine.execLease port node entries s
  | .grant node => Sys2Proof.Machine.execGrant node s
  | .recall port node => Sys2Proof.Machine.execRecall port node s
  | .returnOp port node entries => Sys2Proof.Machine.execReturnOp port node entries s
  | .leaseIdle port node => Sys2Proof.Machine.execLeaseIdle port node s
  | .launch region cls index action arg stamp => Sys2Proof.Machine.execLaunch region cls index action arg stamp s
  | .pwr port dest => Sys2Proof.Machine.execPwr port dest s
  | .nocFormat router reply => Sys2Proof.Machine.execNocFormat router reply s
  | .nocCrc router output fails => Sys2Proof.Machine.execNocCrc router output fails s
  | .nocBwShort router service => Sys2Proof.Machine.execNocBwShort router service s
  | .swap immediate timeout => Sys2Proof.Machine.execSwap immediate timeout s
  | .swapCancel => Sys2Proof.Machine.execSwapCancel s
  | .tableCheckDone => Sys2Proof.Machine.execTableCheckDone s
  | .nocSwapTimeout => Sys2Proof.Machine.execNocSwapTimeout s
  | .nodeOffline router service => Sys2Proof.Machine.execNodeOffline router service s
  | .probeCollectorStart region => Sys2Proof.Machine.execProbeCollectorStart region s
  | .probeRecord region => Sys2Proof.Machine.execProbeRecord region s
  | .memoryScrub region => Sys2Proof.Machine.execMemoryScrub region s
  | .memInit region => Sys2Proof.Machine.execMemInit region s
  | .memInitDone region => Sys2Proof.Machine.execMemInitDone region s
  | .memoryRepair region index value => Sys2Proof.Machine.execMemoryRepair region index value s
  | .memoryRepairDone region index => Sys2Proof.Machine.execMemoryRepairDone region index s
  | .memBwShort region channel => Sys2Proof.Machine.execMemBwShort region channel s
  | .write region index media => Sys2Proof.Machine.execWrite region index media s
  | .read region index media => Sys2Proof.Machine.execRead region index media s
  | .delete region index => Sys2Proof.Machine.execDelete region index s
  | .stat region index => Sys2Proof.Machine.execStat region index s
  | .format region index => Sys2Proof.Machine.execFormat region index s
  | .archiveCommandComplete region index => Sys2Proof.Machine.execArchiveCommandComplete region index s
  | .arcBind region index value => Sys2Proof.Machine.execArcBind region index value s
  | .heatArchive region index media => Sys2Proof.Machine.execHeatArchive region index media s
  | .offlineRetry region index media => Sys2Proof.Machine.execOfflineRetry region index media s
  | .patrol region media => Sys2Proof.Machine.execPatrol region media s
  | .cleaner region media => Sys2Proof.Machine.execCleaner region media s
  | .archiveReady region cut media => Sys2Proof.Machine.execArchiveReady region cut media s
  | .load => Sys2Proof.Machine.execLoad s
  | .loadPartial => Sys2Proof.Machine.execLoadPartial s
  | .loadSlot slot => Sys2Proof.Machine.execLoadSlot slot s
  | .store slot => Sys2Proof.Machine.execStore slot s
  | .storeDone programmed => Sys2Proof.Machine.execStoreDone programmed s
  | .erase slot => Sys2Proof.Machine.execErase slot s
  | .abort => Sys2Proof.Machine.execAbort s
  | .clearDone => Sys2Proof.Machine.execClearDone s
  | .header skip words => Sys2Proof.Machine.execHeader skip words s
  | .noop word => Sys2Proof.Machine.execNoop word s
  | .frame words => Sys2Proof.Machine.execFrame words s
  | .copy word => Sys2Proof.Machine.execCopy word s
  | .wreg word value => Sys2Proof.Machine.execWreg word value s
  | .zdom word value => Sys2Proof.Machine.execZdom word value s
  | .forward words => Sys2Proof.Machine.execForward words s
  | .endOp word tagOk sigOk => Sys2Proof.Machine.execEndOp word tagOk sigOk s
  | .applyDone => Sys2Proof.Machine.execApplyDone s
  | .retDone => Sys2Proof.Machine.execRetDone s
  | .loadTimeout => Sys2Proof.Machine.execLoadTimeout s
  | .cfgDoneHigh => Sys2Proof.Machine.execCfgDoneHigh s
  | .synchronousStart => Sys2Proof.Machine.execSynchronousStart s
  | .progN => Sys2Proof.Machine.execProgN s
  | .progNRise => Sys2Proof.Machine.execProgNRise s
  | .relayStart => Sys2Proof.Machine.execRelayStart s
  | .relayEnd agrees => Sys2Proof.Machine.execRelayEnd agrees s
  | .linkLost => Sys2Proof.Machine.execLinkLost s
  | .relayWaitTimeout => Sys2Proof.Machine.execRelayWaitTimeout s
  | .restore region zone => Sys2Proof.Machine.execRestore region zone s
  | .reload region zone => Sys2Proof.Machine.execReload region zone s
  | .restoreDone region zone => Sys2Proof.Machine.execRestoreDone region zone s
  | .fuseProgram target => Sys2Proof.Machine.execFuseProgram target s
  | .fuseProgramDone ok => Sys2Proof.Machine.execFuseProgramDone ok s
  | .runRequest region => Sys2Proof.Machine.execRunRequest region s
  | .idleRequest region => Sys2Proof.Machine.execIdleRequest region s
  | .dozeRequest region => Sys2Proof.Machine.execDozeRequest region s
  | .sleepRequest region => Sys2Proof.Machine.execSleepRequest region s
  | .entryStep region => Sys2Proof.Machine.execEntryStep region s
  | .pwrEntryTimeout region => Sys2Proof.Machine.execPwrEntryTimeout region s
  | .regulatorPoll rail good fault status => Sys2Proof.Machine.execRegulatorPoll rail good fault status s
  | .pwrRegTimeout rail command res status => Sys2Proof.Machine.execPwrRegTimeout rail command res status s
  | .wakeEvent region source => Sys2Proof.Machine.execWakeEvent region source s
  | .exitStep region => Sys2Proof.Machine.execExitStep region s
  | .powerOnReset supply => Sys2Proof.Machine.execPowerOnReset supply s
  | .pDone boot pull untrained => Sys2Proof.Machine.execPDone boot pull untrained s
  | .coldReset => Sys2Proof.Machine.execColdReset s
  | .coldResetRelease boot pull untrained => Sys2Proof.Machine.execColdResetRelease boot pull untrained s
  | .warmReset source => Sys2Proof.Machine.execWarmReset source s
  | .warmResetEnd => Sys2Proof.Machine.execWarmResetEnd s
  | .regionReset region source => Sys2Proof.Machine.execRegionReset region source s
  | .regionResetEnd region => Sys2Proof.Machine.execRegionResetEnd region s
  | .zoneReset region zone => Sys2Proof.Machine.execZoneReset region zone s
  | .zoneResetEnd region zone => Sys2Proof.Machine.execZoneResetEnd region zone s
  | .temperatureCheck caseT die osc vin iin ov uv => Sys2Proof.Machine.execTemperatureCheck caseT die osc vin iin ov uv s
  | .thermalTrip => Sys2Proof.Machine.execThermalTrip s
  | .record => Sys2Proof.Machine.execRecord s
  | .freezeN low => Sys2Proof.Machine.execFreezeN low s
  | .freezeEnd => Sys2Proof.Machine.execFreezeEnd s
  | .freezeNow => Sys2Proof.Machine.execFreezeNow s
  | .freezeAt => Sys2Proof.Machine.execFreezeAt s
  | .freezeAtTime => Sys2Proof.Machine.execFreezeAtTime s
  | .freezeStop => Sys2Proof.Machine.execFreezeStop s
  | .freeze region => Sys2Proof.Machine.execFreeze region s
  | .resume => Sys2Proof.Machine.execResume s
  | .resumeAt => Sys2Proof.Machine.execResumeAt s
  | .resumeAtTime => Sys2Proof.Machine.execResumeAtTime s
  | .cancelAt => Sys2Proof.Machine.execCancelAt s
  | .errRegRec0Read region => Sys2Proof.Machine.execErrRegRec0Read region s
  | .injectDataBit => Sys2Proof.Machine.execInjectDataBit s
  | .injectInstructionParity => Sys2Proof.Machine.execInjectInstructionParity s
  | .injectSelMulti => Sys2Proof.Machine.execInjectSelMulti s
  | .injectLineMulti => Sys2Proof.Machine.execInjectLineMulti s
  | .injectSpar => Sys2Proof.Machine.execInjectSpar s
  | .injectQueueBit => Sys2Proof.Machine.execInjectQueueBit s
  | .injectScratchpadBit => Sys2Proof.Machine.execInjectScratchpadBit s
  | .injectMarchFail => Sys2Proof.Machine.execInjectMarchFail s
  | .injectEngineParity => Sys2Proof.Machine.execInjectEngineParity s
  | .injectDmaErr => Sys2Proof.Machine.execInjectDmaErr s
  | .injectPllLoss => Sys2Proof.Machine.execInjectPllLoss s
  | .injectCdrLoss => Sys2Proof.Machine.execInjectCdrLoss s
  | .injectLinkCrc => Sys2Proof.Machine.execInjectLinkCrc s
  | .injectNocFormat => Sys2Proof.Machine.execInjectNocFormat s
  | .injectHeatWriteErr => Sys2Proof.Machine.execInjectHeatWriteErr s
  | .injectArcUncorr => Sys2Proof.Machine.execInjectArcUncorr s
  | .injectArcProgFail => Sys2Proof.Machine.execInjectArcProgFail s
  | .injectRegTimeout => Sys2Proof.Machine.execInjectRegTimeout s
  | .injectTlLost => Sys2Proof.Machine.execInjectTlLost s
  | .injectRefLost => Sys2Proof.Machine.execInjectRefLost s
  | .extest lands next => Sys2Proof.Machine.execExtest lands next s
  | .idcode => Sys2Proof.Machine.execIdcode s
  | .samplePreload lands next => Sys2Proof.Machine.execSamplePreload lands next s
  | .highz => Sys2Proof.Machine.execHighz s
  | .clamp => Sys2Proof.Machine.execClamp s
  | .extestPulse lands next => Sys2Proof.Machine.execExtestPulse lands next s
  | .extestTrain lands next => Sys2Proof.Machine.execExtestTrain lands next s
  | .memacc op addr data => Sys2Proof.Machine.execMemacc op addr data s
  | .bypass => Sys2Proof.Machine.execBypass s
  | .bar0Read offset len late => Sys2Proof.Machine.execBar0Read offset len late s
  | .bar0Write offset data => Sys2Proof.Machine.execBar0Write offset data s
  | .bar2Read offset len late => Sys2Proof.Machine.execBar2Read offset len late s
  | .bar2Write offset data => Sys2Proof.Machine.execBar2Write offset data s
  | .bar2BaseWrite gib => Sys2Proof.Machine.execBar2BaseWrite gib s
  | .rdTimeout tag => Sys2Proof.Machine.execRdTimeout tag s
  | .dmaDoorbell channel pi => Sys2Proof.Machine.execDmaDoorbell channel pi s
  | .hostDmaEnable channel en => Sys2Proof.Machine.execHostDmaEnable channel en s
  | .hostDmaRestart channel => Sys2Proof.Machine.execHostDmaRestart channel s
  | .hostDmaAbort channel count bytes => Sys2Proof.Machine.execHostDmaAbort channel count bytes s
  | .hostDmaComplete channel bytes stamps failAt => Sys2Proof.Machine.execHostDmaComplete channel bytes stamps failAt s
  | .irqAck vector => Sys2Proof.Machine.execIrqAck vector s
  | .hostDoorbell index value => Sys2Proof.Machine.execHostDoorbell index value s
  | .msixUnmask vector => Sys2Proof.Machine.execMsixUnmask vector s
  | .perstN => Sys2Proof.Machine.execPerstN s
  | .perstNRise => Sys2Proof.Machine.execPerstNRise s
  | .mgtEnable port value => Sys2Proof.Machine.execMgtEnable port value s
  | .mgtFrameReceive port frame badFcs stamp => Sys2Proof.Machine.execMgtFrameReceive port frame badFcs stamp s
  | .mgtTxWpWrite port value => Sys2Proof.Machine.execMgtTxWpWrite port value s
  | .mgtFrameTransmit port stamp => Sys2Proof.Machine.execMgtFrameTransmit port stamp s
  | .clearFaults => Sys2Proof.Machine.execClearFaults s
  | .capability => Sys2Proof.Machine.execCapability s
  | .statusWord => Sys2Proof.Machine.execStatusWord s
  | .statusInput => Sys2Proof.Machine.execStatusInput s
  | .statusTemperature => Sys2Proof.Machine.execStatusTemperature s
  | .statusCml => Sys2Proof.Machine.execStatusCml s
  | .readVin => Sys2Proof.Machine.execReadVin s
  | .readIin => Sys2Proof.Machine.execReadIin s
  | .readTemperature1 => Sys2Proof.Machine.execReadTemperature1 s
  | .readTemperature2 => Sys2Proof.Machine.execReadTemperature2 s
  | .readTemperature3 => Sys2Proof.Machine.execReadTemperature3 s
  | .readPin milliwatts => Sys2Proof.Machine.execReadPin milliwatts s
  | .pmbusRevision => Sys2Proof.Machine.execPmbusRevision s
  | .mfrId => Sys2Proof.Machine.execMfrId s
  | .mfrModel => Sys2Proof.Machine.execMfrModel s
  | .mfrRevision => Sys2Proof.Machine.execMfrRevision s
  | .mfrSpecific00 => Sys2Proof.Machine.execMfrSpecific00 s
  | .mfrSpecific01 => Sys2Proof.Machine.execMfrSpecific01 s
  | .mfrSpecific02 => Sys2Proof.Machine.execMfrSpecific02 s
  | .smbusInvalidCommand kind => Sys2Proof.Machine.execSmbusInvalidCommand kind s
  | .alertResponse => Sys2Proof.Machine.execAlertResponse s
  | .timeBaseTick => Sys2Proof.Machine.execTimeBaseTick s
  | .pwrLaneWrite region value => Sys2Proof.Machine.execPwrLaneWrite region value s
  | .mgtLinkUp port up => Sys2Proof.Machine.execMgtLinkUp port up s
  | .relayLaneLock lock aligned => Sys2Proof.Machine.execRelayLaneLock lock aligned s
  | .pciePowerState d3 l2 => Sys2Proof.Machine.execPciePowerState d3 l2 s
  | .hostTestCommand => Sys2Proof.Machine.execHostTestCommand s

end Sys2Proof.Machine
end

