-- ==== Sys2Proof/Machine/Encode.lean ====
section
/-! DEFINITION. The words of an instruction, written from Tables 7.1 to 7.14, and which fields of an instruction its
encoding can hold. -/

namespace Sys2Proof.Machine

/-- A first word: its fields above the class fields, and the class fields as a number (Table 7.1). -/
def insnWord (l op s fn rd ra rest : Nat) : Word :=
  BitVec.ofNat 40 (l * 2 ^ 39 + op * 2 ^ 34 + s * 2 ^ 33 + fn * 2 ^ 29 + rd * 2 ^ 25 + ra * 2 ^ 21 + rest)

/-- FN of ALU and ALUI (Table 7.4). -/
def AluFn.code : AluFn → Nat
  | .add => 0 | .adc => 1 | .sub => 2 | .sbc => 3 | .and_ => 4 | .or_ => 5 | .xor_ => 6 | .andn => 7
  | .cmp => 8 | .tst => 9 | .min_ => 10 | .max_ => 11 | .abs => 12 | .neg => 13 | .pcnt => 14 | .lzc => 15

/-- FN of SHIFT with an immediate amount (Table 7.5); a register amount adds 4. -/
def ShiftFn.code : ShiftFn → Nat
  | .shl => 0 | .shr => 1 | .sar => 2 | .rol => 3

/-- FN of BCC (Table 7.8). -/
def Cond.code : Cond → Nat
  | .al => 0 | .eq => 1 | .ne => 2 | .lt => 3 | .ge => 4 | .le => 5 | .gt => 6 | .lo => 7 | .hs => 8 | .mi => 9
  | .pl => 10 | .vs => 11 | .vc => 12 | .avs => 13 | .bps => 14

/-- FN of MUL (Table 7.10). -/
def MulFn.code : MulFn → Nat
  | .mpy => 0 | .mac => 1 | .msu => 2 | .macr => 3

/-- FN of QUAD (Table 7.11). -/
def QuadFn.code : QuadFn → Nat
  | .cmul => 0 | .cmac => 1 | .cmulj => 2 | .cmacj => 3 | .dmpy => 4 | .dmac => 5 | .mul40 => 6 | .mul40u => 7

/-- FN of ACC (Table 7.12). -/
def AccFn.code : AccFn → Nat
  | .ext => 0 | .aclr => 1 | .aadd => 2 | .asub => 3 | .aadda => 4 | .asl => 5 | .asr => 6 | .aneg => 7

/-- The AM code of a load or store and the field of its immediate (Table 7.7). -/
def amCode : AddrMode → Nat × Nat
  | .plain => (0, 0)
  | .postM => (1, 0)
  | .postImm i => (2, i.toNat * 2 ^ 4)
  | .indexed => (3, 0)

/-- The words of an instruction: the first word, and the word at the next address for an 80-bit form. -/
def encodeInsn : Insn → Word × Word
  | .nop => (0, 0)
  | .alu fn sat rd ra (.reg b) => (insnWord 0 0x01 (flag sat) fn.code rd ra (b.val * 2 ^ 17), 0)
  | .alu fn sat rd ra (.imm i) => (insnWord 0 0x02 (flag sat) fn.code rd ra i.toNat, 0)
  | .alu fn sat rd ra (.imm40 w) => (insnWord 1 0x02 (flag sat) fn.code rd ra 0, w)
  | .shift fn sat rd ra (.imm k) => (insnWord 0 0x03 (flag sat) fn.code rd ra k.toNat, 0)
  | .shift fn sat rd ra (.reg b) => (insnWord 0 0x03 (flag sat) (4 + fn.code) rd ra (b.val * 2 ^ 17), 0)
  | .mv rd ra => (insnWord 0 0x04 0 0 rd ra 0, 0)
  | .mvi rd (.imm i) => (insnWord 0 0x04 0 1 rd 0 i.toNat, 0)
  | .mvi rd (.imm40 w) => (insnWord 1 0x04 0 1 rd 0 0, w)
  | .mvfr rd code => (insnWord 0 0x04 0 2 rd 0 (code * 2 ^ 15), 0)
  | .mvtr code ra => (insnWord 0 0x04 0 3 0 ra (code * 2 ^ 15), 0)
  | .mvti code w => (insnWord 1 0x04 0 4 0 0 (code * 2 ^ 15), w)
  | .ld w xt pn am => (insnWord 0 0x05 0 (4 * w + (amCode am).1) xt 0 (pn * 2 ^ 22 + (amCode am).2), 0)
  | .st w xt pn am => (insnWord 0 0x06 0 (4 * w + (amCode am).1) xt 0 (pn * 2 ^ 22 + (amCode am).2), 0)
  | .bcc c target => (insnWord 0 0x07 0 c.code 0 0 (target * 2 ^ 6), 0)
  | .call rd target => (insnWord 0 0x08 0 0 rd 0 (target * 2 ^ 6), 0)
  | .jr ra => (insnWord 0 0x08 0 1 0 ra 0, 0)
  | .callr rd ra => (insnWord 0 0x08 0 2 rd ra 0, 0)
  | .rti => (insnWord 0 0x08 0 3 0 0 0, 0)
  | .rtf => (insnWord 0 0x08 0 4 0 0 0, 0)
  | .bdec rn target => (insnWord 0 0x09 0 0 rn 0 (target * 2 ^ 6), 0)
  | .mul fn sat n ra rb => (insnWord 0 0x0A (flag sat) fn.code n ra (rb * 2 ^ 17), 0)
  | .quad fn sat k ra rb rc => (insnWord 0 0x0B (flag sat) fn.code (2 * k) ra (rb * 2 ^ 17 + rc * 2 ^ 13), 0)
  | .acc fn sat rd ra n m k => (insnWord 0 0x0C (flag sat) fn.code rd ra (n * 2 ^ 11 + m * 2 ^ 9 + k), 0)
  | .mfs rd slot => (insnWord 0 0x0D 0 0 rd 0 (slot * 2 ^ 15), 0)
  | .mts slot ra => (insnWord 0 0x0D 0 1 0 ra (slot * 2 ^ 15), 0)
  | .hurdle rd => (insnWord 0 0x0D 0 2 rd 0 0, 0)
  | .hurdleN rd => (insnWord 0 0x0D 0 3 rd 0 0, 0)
  | .waiti => (insnWord 0 0x0D 0 4 0 0 0, 0)
  | .waitc ra => (insnWord 0 0x0D 0 5 0 ra 0, 0)
  | .dmago ra ch => (insnWord 0 0x0D 0 6 0 ra (ch * 2 ^ 11), 0)
  | .nld rd (.reg a) => (insnWord 0 0x0E 0 0 rd a.val 0, 0)
  | .nld rd (.imm40 w) => (insnWord 1 0x0E 0 0 rd 0 0, w)
  | .nst rb (.reg a) => (insnWord 0 0x0E 0 1 0 a.val (rb * 2 ^ 17), 0)
  | .nst rb (.imm40 w) => (insnWord 1 0x0E 0 1 0 0 (rb * 2 ^ 17), w)
  | .nfence => (insnWord 0 0x0E 0 2 0 0 0, 0)
  | .ectl ra cmd => (insnWord 0 0x0E 0 3 0 ra (cmd * 2 ^ 11), 0)

/-- Whether every field of an instruction fits where its encoding puts it. -/
def Insn.fits : Insn → Bool
  | .nop | .rti | .rtf | .waiti | .nfence => true
  | .alu _ _ rd ra _ => decide (rd < 16) && decide (ra < 16)
  | .shift _ _ rd ra _ => decide (rd < 16) && decide (ra < 16)
  | .mv rd ra => decide (rd < 16) && decide (ra < 16)
  | .mvi rd _ => decide (rd < 16)
  | .mvfr rd code => decide (rd < 16) && decide (code < 64)
  | .mvtr code ra => decide (code < 64) && decide (ra < 16)
  | .mvti code _ => decide (code < 64)
  | .ld w xt pn _ => decide (w < 4) && decide (xt < 16) && decide (pn < 8)
  | .st w xt pn _ => decide (w < 4) && decide (xt < 16) && decide (pn < 8)
  | .bcc _ target => decide (target < 2 ^ 15)
  | .call rd target => decide (rd < 16) && decide (target < 2 ^ 15)
  | .jr ra => decide (ra < 16)
  | .callr rd ra => decide (rd < 16) && decide (ra < 16)
  | .bdec rn target => decide (rn < 16) && decide (target < 2 ^ 15)
  | .mul _ _ n ra rb => decide (n < 4) && decide (ra < 16) && decide (rb < 16)
  | .quad _ _ k ra rb rc => decide (k < 2) && decide (ra < 16) && decide (rb < 16) && decide (rc < 16)
  | .acc _ _ rd ra n m k => decide (rd < 16) && decide (ra < 16) && decide (n < 4) && decide (m < 4) && decide (k < 64)
  | .mfs rd slot => decide (rd < 16) && decide (slot < 64)
  | .mts slot ra => decide (slot < 64) && decide (ra < 16)
  | .hurdle rd => decide (rd < 16)
  | .hurdleN rd => decide (rd < 16)
  | .waitc ra => decide (ra < 16)
  | .dmago ra ch => decide (ra < 16) && decide (ch < 4)
  | .nld rd _ => decide (rd < 16)
  | .nst rb _ => decide (rb < 16)
  | .ectl ra cmd => decide (ra < 16) && decide (cmd < 4)

end Sys2Proof.Machine
end

