-- ==== Sys2Proof/Safety.lean ====
section
/-! DEFINITION. What counts as a safe run of the block, and the words the statements share: what a command leaves
alone. -/

namespace Sys2Proof.Safety

open Sys2Proof.Machine

/-- The step from a state does not stop. -/
def Goes (s : State) : Prop := ∃ t, step s = .next t

/-- The state `n` steps later, while no step stops. -/
def after : Nat → State → Option State
  | 0, s => some s
  | n + 1, s =>
    match step s with
    | .next t => after n t
    | _ => none

/-- No step of a run stops. -/
def Safe (s : State) : Prop := ∀ n, (after n s).isSome = true

/-- Every register slot but those at the listed addresses reads as before. -/
def KeepsRegs (s t : State) (as : List Nat) : Prop := ∀ r u i, regAddr r u i ∉ as → t.reg r u i = s.reg r u i

/-- Every field but the listed ones reads as before: the fields of other registers, and those of a listed register that
lie apart from the listed bits. -/
def KeepsFlds (s t : State) (fs : List (Fld × Nat × Nat)) : Prop :=
  ∀ (g : Fld) (u i : Nat), g.lo ≤ g.hi →
    (∀ f ∈ fs, regAddr g.reg u i = regAddr f.1.reg f.2.1 f.2.2 →
      g.reg = f.1.reg ∧ u = f.2.1 ∧ i = f.2.2 ∧ (f.1.hi < g.lo ∨ g.hi < f.1.lo)) →
    t.fld g u i = s.fld g u i

/-- One more record has been detected, with an event code (R405, R407). -/
def Reports (s t : State) (code : Nat) : Prop :=
  ∃ e, t.detected = s.detected ++ [e] ∧ bitsOf e.w0.toNat 39 24 = code

/-- The commands run one after the other, while none stops (the queue is left alone). -/
def runAll : List Instr → State → Option State
  | [], s => some s
  | c :: cs, s =>
    match exec c s with
    | .next t => runAll cs t
    | _ => none

/-! ### Processors -/

/-- The field of SE_PC or SUP_PC. -/
def pcField (p : Nat) : Fld × Nat × Nat := (if isSup p then F.SUP_PC.PC else F.SE_PC.PC, procUnit p, 0)

/-- The bank in force of a processor. -/
def bankNow (s : State) (p : Nat) : Bank := (s.proc p).bank (s.inFast p)

/-- The processor issues the instruction at SE_PC in the next cycle, and nothing but that instruction acts in the cycle
beside results in flight: its source does not trace, the parity of both words is good, no delay slot and no return from a
FAST handler is open, and no HALT or STEP waits. -/
abbrev Issuing (s : State) (p : Nat) : Prop :=
  issues s p = true ∧ s.traced p = false ∧ s.imemBad p (s.ppc p) = false ∧ s.imemBad p (s.ppc p + 1) = false ∧
  (s.proc p).slots = 0 ∧ (s.proc p).rtf = false ∧ (s.proc p).haltReq = false ∧ (s.proc p).stepping = false

/-- The same with no result in flight. -/
abbrev Quiet (s : State) (p : Nat) : Prop := Issuing s p ∧ (s.proc p).fly = []

/-- Of the whole state, only one processor and the listed fields of registers changed. -/
def ProcOnly (s t : State) (p : Nat) (fs : List (Fld × Nat × Nat)) : Prop :=
  (∀ q, q ≠ p → t.proc q = s.proc q) ∧ KeepsFlds s t fs ∧ t = { s with regs := t.regs, procs := t.procs }

/-- From `e`, the state when the results due in the issue cycle have landed, an instruction changed only the listed X
registers, SR and SE_PC, which moves past its `n` words. -/
def EndsInCycle (e t : State) (p pc n : Nat) (xs : List Nat) : Prop :=
  ProcOnly e t p [pcField p] ∧ t.ppc p = (pc + n) % imemWords p ∧
  (∀ k, k ∉ xs → t.getX p k = e.getX p k) ∧
  t.proc p = (e.proc p).setBank (e.inFast p) { bankNow e p with x := (bankNow t p).x, sr := t.sr p }

/-- An instruction put one result in flight and moved SE_PC past its word. -/
def PutsInFlight (s t : State) (p : Nat) : Prop :=
  ProcOnly s t p [pcField p] ∧ t.ppc p = (s.ppc p + 1) % imemWords p ∧
  t.proc p = { s.proc p with fly := (t.proc p).fly }

/-- The flags N, Z, C and V of a new SR, every other bit as in the old one (Table 6.2). -/
def FlagsSet (old new : Word) (n z c v : Bool) : Prop :=
  new.getLsbD 27 = n ∧ new.getLsbD 26 = z ∧ new.getLsbD 25 = c ∧ new.getLsbD 24 = v ∧
  ∀ i, i < 40 → (i < 24 ∨ 27 < i) → new.getLsbD i = old.getLsbD i

/-- The word of an exact signed result: modulo 2⁴⁰, or clamped when saturating (R185). -/
def WordOf (sat : Bool) (i : Int) (w : Word) : Prop :=
  if (-(2 ^ 39) ≤ i ∧ i < 2 ^ 39) ∨ sat = false then (w.toNat : Int) = i % 2 ^ 40
  else w = if i < 0 then 0x8000000000#40 else 0x7FFFFFFFFF#40

/-- A result of a function with saturation: the word, the carry, and V where the exact result left the range (R185). -/
def Sums (e t : State) (p rd : Nat) (sat : Bool) (i : Int) (carry : Bool) : Prop :=
  WordOf sat i (t.getX p rd) ∧
  FlagsSet (e.sr p) (t.sr p) ((t.getX p rd).getLsbD 39) (t.getX p rd == 0) carry (decide (i < -(2 ^ 39)) || decide (2 ^ 39 ≤ i))

/-- A result of a function without saturation: the word, with C and V clear (R185). -/
def Plain (e t : State) (p rd : Nat) (w : Word) : Prop :=
  t.getX p rd = w ∧ FlagsSet (e.sr p) (t.sr p) (w.getLsbD 39) (w == 0) false false

/-- An accumulator of the bank in force, as a signed number. -/
def accNow (s : State) (p n : Nat) : Int := accValue p (bankNow s p) n

/-- From `s` to `t` an accumulator of the bank in force takes an exact result of its width: as it is, clamped when
saturating, or modulo its width, with AV set where it is judged and left the width, and AG telling whether the guard is
in use (R155); the listed accumulators aside, nothing else of the bank but SR changed. -/
def AccTakes (s t : State) (p n : Nat) (judged sat : Bool) (i : Int) : Prop :=
  let lim : Int := 2 ^ (accBits p - 1)
  (accNow t p n = if -lim ≤ i ∧ i < lim then i else if sat then (if i < 0 then -lim else lim - 1)
    else signed (accBits p) (unsigned (accBits p) i)) ∧
  (t.sr p).getLsbD (36 + n) = ((s.sr p).getLsbD (36 + n) || (judged && (decide (i < -lim) || decide (lim ≤ i)))) ∧
  (t.sr p).getLsbD (32 + n) =
    (decide (accNow t p n < -(2 ^ (rangeBits p - 1))) || decide (2 ^ (rangeBits p - 1) ≤ accNow t p n))

/-- Nothing of the bank in force changed but SR and the listed accumulators. -/
def AccOnly (s t : State) (p : Nat) (ns : List Nat) : Prop :=
  bankNow t p = { bankNow s p with a := (bankNow t p).a, sr := t.sr p } ∧
  (∀ k, k ∉ ns → mget 0 (bankNow t p).a k = mget 0 (bankNow s p).a k) ∧
  (∀ k, k < 4 → k ∉ ns → (t.sr p).getLsbD (32 + k) = (s.sr p).getLsbD (32 + k) ∧
    (t.sr p).getLsbD (36 + k) = (s.sr p).getLsbD (36 + k)) ∧
  ∀ i, i < 32 → (t.sr p).getLsbD i = (s.sr p).getLsbD i

/-! ### Lanes and other units -/

/-- Of the whole state, only one lane, the listed fields of its registers and the detected records changed. -/
def LaneOnly (s t : State) (l : Nat) (fs : List Fld) : Prop :=
  (∀ k, k ≠ l → t.lane k = s.lane k) ∧ KeepsFlds s t (fs.map (fun f => (f, laneTile l, 0))) ∧
  t = { s with regs := t.regs, lanes := t.lanes, detected := t.detected }

/-- A lane event: its record while its bit of LN_STATUS.EVT is clear, and the bit set (R246). -/
def LaneReports (s t : State) (l bit : Nat) : Prop :=
  bitOf (t.lf l F.LN_STATUS.EVT) bit = true ∧
  (bitOf (s.lf l F.LN_STATUS.EVT) bit = false → Reports s t (0x3401 + bit)) ∧
  (bitOf (s.lf l F.LN_STATUS.EVT) bit = true → t.detected = s.detected)

/-- The function signals a vector (R436, R438): nothing in its reset, a pending bit while it is masked, held back with
WAKE_N low in D3hot or L2, and otherwise one message. -/
def Signalled (masked : Bool) (h k : HostSt) (v : Nat) : Prop :=
  k = if h.inReset then h
    else if masked then { h with pba := h.pba ||| 2 ^ v }
    else if h.d3 ∨ h.l2 then { h with held := h.held ||| 2 ^ v, wakeLow := true }
    else { h with msgs := h.msgs ++ [v] }

end Sys2Proof.Safety
end

