-- ==== Sys2Proof/WellFormed.lean ====
section
/-! DEFINITION. Which commands are well formed: what the types of the operands cannot say of a transfer that the spec
allows. -/

namespace Sys2Proof

open Sys2Proof.Machine

/-- A register slot, or an 8-byte word of BAR4 (R28, R432). -/
def slotOk (addr : Nat) : Bool := decide (addr % 8 = 0) && decide (addr < 2 ^ 40 + 2 ^ 20)

/-- Words of a write that match its WEN (R297). -/
def wrOk (wen : BitVec 12) (words : List Word) : Bool := decide (words.length = popBits 12 wen.toNat)

/-- Lines of a whole-line write: 12 words each, and four check bytes each where check bytes are given (R297, R316). -/
def wrlOk (lines : Fin 16) (words : List Word) (checks : List (BitVec 8)) : Bool :=
  decide (lines.val < 10) && decide (words.length = 12 * (lines.val + 1)) &&
    (checks.isEmpty || decide (checks.length = 4 * (lines.val + 1)))

/-- A host read: naturally aligned to 4 bytes in BAR0, and within the largest read request and the BAR (R427, R428). -/
def hostReadOk (align size offset len : Nat) : Bool :=
  decide (offset % align = 0) && decide (len % align = 0) && decide (0 < len) && decide (len ≤ 4096) && decide (offset + len ≤ size)

/-- A host write within the largest payload and the BAR (R427). -/
def hostWriteOk (size offset len : Nat) : Bool := decide (0 < len) && decide (len ≤ 512) && decide (offset + len ≤ size)

/-- A DMA channel that the processor has (R169, Table 6.12). -/
def channelOk (p : Proc) (c : Fin 4) : Bool := decide (p.val < 64) || decide (c.val < 2)

/-- Whether a command is well formed. -/
def WellFormed (i : Instr) : Bool :=
  match i with
  | .registerWrite addr _ => slotOk addr
  | .seImemWrite p addr _ => decide (addr < imemWords p)
  | .dmaGo p c _ => channelOk p c
  | .dmaAbort p c _ => channelOk p c
  | .dmaDescriptorComplete p c _ => channelOk p c
  | .decodedWord _ adc levels _ _ => decide (levels.length = adc.length)
  | .wr _ _ _ wen _ words => wrOk wen words
  | .rdl _ _ _ lines => decide (lines.val < 10)
  | .wrl _ _ _ lines _ words checks => wrlOk lines words checks
  | .header _ words => decide (words.length = 12)
  | .frame words => decide (0 < words.length)
  | .bar0Read offset len _ => hostReadOk 4 (2 ^ 28) offset.toNat len
  | .bar2Read offset len _ => hostReadOk 1 (2 ^ 36) offset.toNat len
  | .bar0Write offset data => hostWriteOk (2 ^ 28) offset.toNat data.length
  | .bar2Write offset data => hostWriteOk (2 ^ 36) offset.toNat data.length
  | _ => true

end Sys2Proof
end

