-- ==== Sys2Proof/Certificates/Slice0/Obligations.lean ====
section
/-! DEFINITION. The statements for the provers, from the rules of the spec; each docstring names the rules it rests on. -/

open Sys2Proof Sys2Proof.Machine Sys2Proof.Safety

/-- The block's step (log entry 1): the command at the front of the queue takes effect on the state with the queue's rest,
and on an empty queue the block idles, which is the model's own choice. -/
def Obligations.StepRunsTheFrontCommand : Prop :=
  ∀ s : State, (∀ c rest, s.pending = c :: rest → step s = exec c { s with pending := rest }) ∧
    (s.pending = [] → step s = .next s)

/-- Every command has an effect in every state: none faults and none is refused. -/
def Obligations.NoCommandStops : Prop := ∀ (c : Instr) (s : State), ∃ t, exec c s = .next t

/-- R9, R19, R400, R404, R409, R426, R441: the values that the spec states after a P reset: mode BLANK, device time 0,
every region in RUN, no gun entry, RST_CAUSE with class P and source VIN, and the defaults of the freeze, power, host
and policy registers. What the spec leaves without a value after reset is no part of this. -/
def Obligations.ResetLeavesTheSpecValues : Prop :=
  let s := State.reset
  s.mode = .blank ∧ s.time.now = 0 ∧ s.time.running = false ∧ s.guns = [] ∧ s.pending = [] ∧
  (∀ r : Region, s.pstateR r = 0 ∧ s.pdir r = 0 ∧ s.fld F.PWR_WAKE_EN.GUN r = 1) ∧
  s.reg .TIM_RATE = 0 ∧ s.fld F.RST_STATUS.P_DONE = 0 ∧ s.fld F.RST_CAUSE.CLASS = 1 ∧ s.fld F.RST_CAUSE.SRC = 1 ∧
  s.fld F.RST_CAUSE.WARM_COUNT = 0 ∧ s.fld F.PWR_CTRL.ENTRY_TIMEOUT = 10000 ∧ s.fld F.ERR_FRZ_CFG.PIN_MODE = 1 ∧
  s.fld F.ERR_FRZ_CFG.HALT = 0 ∧ s.fld F.HST_CTRL.SMB_ADDR = 0x5C ∧ s.fld F.HST_BAR2_BASE.GIB = 0 ∧
  (∀ e ∈ [1, 2, 259, 610], s.fld F.ERR_POL.ACTION 0 e = 1) ∧ s.fld F.ERR_POL.ACTION 0 0 = 0 ∧
  (∀ p ∈ [0, 63, 64, 67], s.pstate p = 0) ∧ (∀ z : Fin 64, s.zstate z = 0)

/-- R180, R181, Tables 7.1 to 7.14: every instruction whose fields fit is read back from its own words with every field as
it was, whatever follows a one-word form; a processor fetches it where it holds no reserved value, and RSV_INSN
follows where it does. -/
def Obligations.EngineInstructionsEncodeAndDecode : Prop :=
  ∀ (i : Insn) (sup : Bool) (after : Word), i.fits = true →
    let w := (encodeInsn i).1
    let second := if i.len = 2 then (encodeInsn i).2 else after
    decodeInsn w second = some i ∧ (i.legal sup = true → fetchInsn sup w second = some i) ∧
    (i.legal sup = false → fetchInsn sup w second = none)

/-- R180, R181: words written out from Tables 7.1 to 7.14 are read as the instructions they stand for, and reserved ones
as none. -/
def Obligations.EngineWordsReadAsTabled : Prop :=
  decodeInsn 0 0 = some .nop ∧
  decodeInsn 0x0606240000 0 = some (.alu .add true 3 1 (.reg 2)) ∧
  decodeInsn 0x08401FFFFF 0 = some (.alu .sub false 0 0 (.imm 0x1FFFFF)) ∧
  decodeInsn 0x903E000000 0x123456789A = some (.mvi 15 (.imm40 0x123456789A)) ∧
  decodeInsn 0x14A4C00000 0 = some (.ld 1 2 3 .postM) ∧
  decodeInsn 0x1C20004000 0 = some (.bcc .eq 0x100) ∧
  decodeInsn 0x2E202A0000 0 = some (.quad .cmac true 0 1 5 0) ∧
  decodeInsn 0x3008000828 0 = some (.acc .ext false 4 0 1 0 40) ∧
  decodeInsn 0x344E000000 0 = some (.hurdle 7) ∧
  decodeInsn 0x3802400000 0 = some (.nld 1 (.reg 2)) ∧
  decodeInsn 0x3C00000000 0 = none ∧ decodeInsn 0x1080000000 0 = none ∧ decodeInsn 0x8000000000 0 = none

/-- The invariant of the model's memory: the list of main memory, queue memory, lane windows and scratchpads keeps its
canonical form, addresses rising and no listed byte equal to what an unlisted one reads as, in every step from every
state that has it, so that equal memories stay equal data. Points the rules leave open are the model's own readings:
log entry 2. -/
def Obligations.StepKeepsMemoryCanonical : Prop :=
  ∀ s t : State, Memory.wf s.mem = true → step s = .next t → Memory.wf t.mem = true

/-- The memory of the state after reset has the canonical form, and every byte of it reads as one that nothing has
written. Points the rules leave open are the model's own readings: log entry 2. -/
def Obligations.ResetMemoryIsCanonical : Prop :=
  Memory.wf State.reset.mem = true ∧ ∀ a, readByte State.reset.mem a = readByte [] a

/-- R35, R41, R42, R45, R47: A read of the low part of a split value returns it and latches the high part at the same
instant: device time `dt` units after the last tick, the last PPS_IN edge, the stride number, the oldest entry of the
timestamp FIFO (R42), the oldest entry of a lane's match FIFO (R241) and the counts of a lane's checker (R236).
Nothing else changes. An event message at a port that takes timestamps is entered in a FIFO of 64 or counted as a
drop; the master launches the time of the last microsecond; a member publishes its offset, its position and TL_LOCK
and forwards the frame one hop on; a frame that fails its check is counted; eight microseconds without one log
TL_LOST. Points the rules leave open are the model's own readings: log entries 7 and 12. -/
def Obligations.SplitReadsAndTimestamps : Prop :=
  (
  ∀ s : State,
    (∀ dt, exec (.timNowFracRead dt) s = .next
      { (s.setReg .TIM_NOW_FRAC 0 0 (BitVec.ofNat 40 ((s.time.now + dt) % timeSpan % unitsPerSec))).setReg .TIM_NOW_SEC 0 0
          (BitVec.ofNat 40 ((s.time.now + dt) % timeSpan / unitsPerSec % 2 ^ 40)) with
        lastRead := BitVec.ofNat 40 ((s.time.now + dt) % timeSpan % unitsPerSec) }) ∧
    exec .timPpsInFracRead s = .next
      { s.setReg .TIM_PPS_IN_SEC 0 0 (BitVec.ofNat 40 s.time.ppsInSec) with lastRead := s.reg .TIM_PPS_IN_FRAC } ∧
    exec .timStrideLoRead s = .next
      { (s.setReg .TIM_STRIDE_LO 0 0 (BitVec.ofNat 40 s.time.strideNum)).setReg .TIM_STRIDE_HI 0 0
          (BitVec.ofNat 40 (s.time.strideNum / 2 ^ 40)) with lastRead := BitVec.ofNat 40 s.time.strideNum } ∧
    (∀ e es, s.time.tsFifo = e :: es → ∃ t, exec .timTsInfoRead s = .next t ∧ t.time = { s.time with tsFifo := es } ∧
      t.lastRead.getLsbD 39 = true ∧ t.fld F.TIM_TS_INFO.VALID = 0 ∧
      t.reg .TIM_TS_FRAC = BitVec.ofNat 40 (e.stamp % unitsPerSec) ∧
      t.reg .TIM_TS_SEC = BitVec.ofNat 40 (e.stamp / unitsPerSec % 2 ^ 40) ∧
      KeepsRegs s t [regAddr .TIM_TS_INFO 0 0, regAddr .TIM_TS_FRAC 0 0, regAddr .TIM_TS_SEC 0 0] ∧
      t = { s with regs := t.regs, lastRead := t.lastRead, time := t.time }) ∧
    (∀ (l : Lane) e es, (s.lane l).tsFifo = e :: es → ∃ t, exec (.lnTsInfoRead l) s = .next t ∧
      (t.lane l).tsFifo = es ∧ t.lastRead.getLsbD 39 = true ∧
      t.reg .LN_TS_FRAC (laneTile l) = BitVec.ofNat 40 (e % unitsPerSec) ∧
      t.reg .LN_TS_SEC (laneTile l) = BitVec.ofNat 40 (e / unitsPerSec % 2 ^ 40) ∧
      KeepsRegs s t [regAddr .LN_TS_INFO (laneTile l) 0, regAddr .LN_TS_FRAC (laneTile l) 0,
        regAddr .LN_TS_SEC (laneTile l) 0] ∧
      t = { s with regs := t.regs, lastRead := t.lastRead, lanes := t.lanes }) ∧
    (∀ l : Lane, exec (.lnChkBitsLoRead l) s = .next
      { ((s.setReg .LN_CHK_BITS_LO (laneTile l) 0 (BitVec.ofNat 40 (s.lane l).chkBits)).setReg .LN_CHK_BITS_HI (laneTile l) 0
          (BitVec.ofNat 40 ((s.lane l).chkBits / 2 ^ 40))).setReg .LN_CHK_ERR (laneTile l) 0
          (BitVec.ofNat 40 (s.lane l).chkErrs) with lastRead := BitVec.ofNat 40 (s.lane l).chkBits })) ∧
  (
  ∀ s : State,
    (∀ (port : Fin 2) (msg : BitVec 4) seq stamp, msg.toNat < 4 → tsEnabled s port = true → s.time.tsFifo.length = 64 →
      exec (.ptpEventMessage port true msg seq true stamp) s = .next (s.addSat F.TIM_STATUS.TS_DROPS 0 0 1)) ∧
    (∀ (port : Fin 2) (msg : BitVec 4) seq stamp, msg.toNat < 4 → tsEnabled s port = true → s.time.tsFifo.length < 64 →
      ∃ t, exec (.ptpEventMessage port true msg seq true stamp) s = .next t ∧
      t.time = { s.time with tsFifo := s.time.tsFifo ++
        [{ port := port, transmit := true, msg := msg.toNat, seq := seq.toNat, stamp := stamp % timeSpan }] } ∧
      t.regs = s.regs ∧ t.mem = s.mem) ∧
    (s.fld F.TIM_TL_CFG.ROLE = 1 → ∃ t fr, exec .timeFrameLaunch s = .next t ∧ t.time.tlOut = some fr ∧ fr.hop = 0 ∧
      fr.ringDly = s.time.tlRing ∧
      (s.time.now < timeSpan → fr.sec.toNat * unitsPerSec + fr.frac.toNat = s.time.now / 1024000 * 1024000) ∧
      t = { s with time := { s.time with tlOut := some fr } }) ∧
    (∀ sec frac hop ring (arrival : Nat), s.fld F.TIM_TL_CFG.ROLE = 2 → s.time.tlIgnore ≤ s.time.now → hop < 15 →
      ∀ ofs : Int, ofs = arrival - (sec.toNat * unitsPerSec + frac.toNat : Nat) - pathDelay s ring hop →
      -(2 ^ 39) ≤ ofs → ofs < 2 ^ 39 → ∃ t, exec (.timeFrame sec frac hop ring true arrival) s = .next t ∧
        (t.reg .TIM_TL_OFS).toInt = ofs ∧ t.fld F.TIM_STATUS.TL_LOCK = 1 ∧ t.fld F.TIM_TL_STAT.POSITION = hop + 1 ∧
        t.time = { s.time with tlOut := some ⟨sec, frac, hop + 1, ring⟩ }) ∧
    (∀ sec frac hop ring arrival, (s.fld F.TIM_TL_CFG.ROLE = 1 ∨ s.fld F.TIM_TL_CFG.ROLE = 2) → s.time.tlIgnore ≤ s.time.now →
      exec (.timeFrame sec frac hop ring false arrival) s = .next (s.addSat F.TIM_TL_STAT.CRC_ERR 0 0 1)) ∧
    (s.fld F.TIM_TL_CFG.ROLE = 2 → s.fld F.TIM_STATUS.TL_LOCK = 1 → ∃ t, exec .tlLost s = .next t ∧
      t.fld F.TIM_STATUS.TL_LOCK = 0 ∧ Reports s t 0x5104 ∧
      bitOf (t.fld F.PWR_WAKE_PEND.PEND 0) 5 = true))

/-- R33, R34, R36, R37, R50, R54, R55, R37-R40: A tick advances device time by 1,024 units and 1,024 × TIM_RATE × 2⁻⁴⁰
units with no fraction lost, REF_OUT rises at a multiple of 100 ns while it is enabled, and the clock trees take its
edges; TIM_RATE is clamped to ±109,951,163, and while strides run STEER_CLAMP says whether it and the phase correction
together leave that range; a write of TIM_ADJ_SEC arms a step, which the next tick makes and logs as TIME_STEP, or
ignores with ADJ_BAD when the fraction holds more than 999,999,999 ns; P changes in BLANK, LOADING and FROZEN alone,
and a write of another P elsewhere sets P_REFUSED; the held stride number advances to the largest ideal boundary that
device time has reached. PPS_OUT rises in the tick in which the fraction returned to zero by counting, when it is
enabled, and falls after WIDTH ns; an active edge at PPS_IN captures device time and sets PPS_IN_NEW; the loss of
REF_IN clears REF_VALID and, while the synthesis runs from it, switches to the oscillator with REF_LOST; its
qualification makes an armed switch; and REF_SEL switches or arms. Points the rules leave open are the model's own
readings: log entries 5 and 7. -/
def Obligations.DeviceTimeAndReferences : Prop :=
  (
  ∀ s : State,
    (∃ t, exec .timeBaseTick s = .next t ∧
      (∀ total : Int, total = s.time.now * 2 ^ 40 + s.time.sub + 1024 * 2 ^ 40 + 1024 * (s.reg .TIM_RATE).toInt →
        0 ≤ total → total < 2 ^ 40 * timeSpan → (t.time.now : Int) * 2 ^ 40 + t.time.sub = total ∧ t.time.sub < 2 ^ 40) ∧
      (s.fld F.TIM_CTRL.REF_OUT_EN = 1 → s.time.now / 102400 < t.time.now / 102400 →
        t.time.refOut = some (t.time.now / 102400 * 102400)) ∧
      (s.fld F.TIM_CTRL.REF_OUT_EN = 0 → t.time.refOut = none) ∧
      t = { s with time := { s.time with now := t.time.now, sub := t.time.sub, phase := 0, refOut := t.time.refOut,
                                         ppsDue := t.time.ppsDue },
                   fab := { s.fab with rck := t.fab.rck } }) ∧
    (∀ v : Word, ∃ t, exec (.timRateWrite v) s = .next t ∧
      (t.reg .TIM_RATE).toInt = max (-109951163) (min 109951163 v.toInt) ∧
      t = if s.time.running then (s.setReg .TIM_RATE 0 0 (t.reg .TIM_RATE)).setFld F.TIM_STATUS.STEER_CLAMP 0 0
            (if (t.reg .TIM_RATE).toInt + s.time.steer < -109951163 ∨ 109951163 < (t.reg .TIM_RATE).toInt + s.time.steer
             then 1 else 0)
          else s.setReg .TIM_RATE 0 0 (t.reg .TIM_RATE)) ∧
    (∀ v : Word, exec (.timAdjSecWrite v) s = .next
      { s.setReg .TIM_ADJ_SEC 0 0 v with time := { s.time with stepArmed := true } }) ∧
    (s.time.stepArmed = true → 999999999 < (s.reg .TIM_ADJ_FRAC).toNat / 1024 → exec .timeStep s = .next
      ({ s with time := { s.time with stepArmed := false } }.setFld F.TIM_STATUS.ADJ_BAD 0 0 1)) ∧
    (s.time.stepArmed = true → (s.reg .TIM_ADJ_FRAC).toNat / 1024 ≤ 999999999 → s.time.running = false →
      s.time.start = none → s.guns = [] → (∀ r, (s.pw r).resume = none) → ∃ t, exec .timeStep s = .next t ∧
      (t.time.now : Int) = (s.time.now + (s.reg .TIM_ADJ_SEC).toInt * unitsPerSec + (s.reg .TIM_ADJ_FRAC).toNat) % timeSpan ∧
      t.time.stepArmed = false ∧ t.fld F.TIM_STATUS.STEP_DONE = 1 ∧
      Reports s t 0x5101 ∧
      KeepsFlds s t [(F.TIM_STATUS.STEP_DONE, 0, 0)] ∧
      (s.time.ppsUntil = none → t.time.ppsUntil = none) ∧
      t = { s with regs := t.regs, detected := t.detected,
                   time := { s.time with now := t.time.now, phase := 0, stepArmed := false, ppsUntil := t.time.ppsUntil } }) ∧
    (s.time.stepArmed = true → (s.reg .TIM_ADJ_FRAC).toNat / 1024 ≤ 999999999 → ∃ t, exec .timeStep s = .next t ∧
      (t.time.now : Int) = (s.time.now + (s.reg .TIM_ADJ_SEC).toInt * unitsPerSec + (s.reg .TIM_ADJ_FRAC).toNat) % timeSpan ∧
      t.time.stepArmed = false ∧ t.fld F.TIM_STATUS.STEP_DONE = 1) ∧
    (∀ v : Word, bitsOf v.toNat 27 21 ≤ 100 →
      ((s.mode = .blank ∨ s.mode = .loading ∨ s.mode = .frozen) →
        640 ≤ bitsOf v.toNat 10 0 → bitsOf v.toNat 10 0 ≤ 1024 → exec (.timStrideCfgWrite v) s = .next
          ((s.setFld F.TIM_STRIDE_CFG.SLEW 0 0 (bitsOf v.toNat 27 21)).setFld F.TIM_STRIDE_CFG.P 0 0 (bitsOf v.toNat 10 0))) ∧
      (¬(s.mode = .blank ∨ s.mode = .loading ∨ s.mode = .frozen) → bitsOf v.toNat 10 0 ≠ s.fld F.TIM_STRIDE_CFG.P →
        exec (.timStrideCfgWrite v) s = .next
          ((s.setFld F.TIM_STRIDE_CFG.SLEW 0 0 (bitsOf v.toNat 27 21)).setFld F.TIM_STATUS.P_REFUSED 0 0 1))) ∧
    (s.time.running = false → s.stepsS ≠ 0 → 0 ≤ s.strideK →
      (boundaryAt s.epochReg s.strideK s.strideT 0 ≤ s.time.now) → s.time.now < timeSpan → 0 < s.fld F.TIM_STRIDE_CFG.P →
      ∃ t, exec .heldStrideAdvance s = .next t ∧
      (∀ n : Nat, n < 2 ^ 80 → (n ≤ t.time.strideNum ↔ n ≤ s.time.strideNum ∨ boundaryAt s.epochReg s.strideK s.strideT n ≤ s.time.now)) ∧
      t = { s with time := { s.time with strideNum := t.time.strideNum } })) ∧
  (
  ∀ s : State,
    (s.time.ppsDue = true → s.fld F.TIM_CTRL.PPS_OUT_EN = 1 → s.fld F.TIM_PPS_CFG.WIDTH ≠ 0 → exec .ppsOut s = .next
      { s with time := { s.time with ppsDue := false, ppsOut := true,
                                     ppsUntil := some (s.time.now + s.fld F.TIM_PPS_CFG.WIDTH * 1024) } }) ∧
    (∀ at_, s.time.ppsUntil = some at_ → at_ ≤ s.time.now → exec .ppsOutFall s = .next
      { s with time := { s.time with ppsOut := false, ppsUntil := none } }) ∧
    (∀ rising dt, rising ≠ s.on F.TIM_PPS_CFG.PPS_IN_EDGE → ∃ t, exec (.ppsInEdge rising dt) s = .next t ∧
      t.reg .TIM_PPS_IN_FRAC = BitVec.ofNat 40 ((s.time.now + dt) % timeSpan % unitsPerSec) ∧
      t.time.ppsInSec = (s.time.now + dt) % timeSpan / unitsPerSec ∧ t.fld F.TIM_STATUS.PPS_IN_NEW = 1) ∧
    (s.fld F.TIM_STATUS.REF_ACTIVE = 0 → exec .refLost s = .next (s.setFld F.TIM_STATUS.REF_VALID 0 0 0)) ∧
    (s.fld F.TIM_STATUS.REF_ACTIVE = 1 → ∃ t, exec .refLost s = .next t ∧ t.fld F.TIM_STATUS.REF_VALID = 0 ∧
      t.fld F.TIM_STATUS.REF_ACTIVE = 0 ∧ Reports s t 0x5103 ∧
      KeepsFlds s t [(F.TIM_STATUS.REF_VALID, 0, 0), (F.TIM_STATUS.REF_ACTIVE, 0, 0)] ∧
      t = { s with regs := t.regs, time := { s.time with refArmed := false }, detected := t.detected }) ∧
    (s.refAbsent ≤ s.time.now → s.time.refArmed = true → ∃ t, exec .refQualified s = .next t ∧
      t.fld F.TIM_STATUS.REF_VALID = 1 ∧ t.fld F.TIM_STATUS.REF_ACTIVE = 1 ∧
      KeepsFlds s t [(F.TIM_STATUS.REF_VALID, 0, 0), (F.TIM_STATUS.REF_ACTIVE, 0, 0)] ∧
      t = { s with regs := t.regs, time := { s.time with refArmed := false } }) ∧
    (s.refAbsent ≤ s.time.now → s.time.refArmed = false → exec .refQualified s = .next (s.setFld F.TIM_STATUS.REF_VALID 0 0 1)) ∧
    (s.fld F.TIM_STATUS.REF_ACTIVE = 0 → s.fld F.TIM_STATUS.REF_VALID = 0 → exec (.refSelWrite 1) s = .next
      { s.setFld F.TIM_CTRL.REF_SEL 0 0 1 with time := { s.time with refArmed := true } }) ∧
    (s.fld F.TIM_STATUS.REF_ACTIVE = 0 → s.fld F.TIM_STATUS.REF_VALID = 1 → ∃ t, exec (.refSelWrite 1) s = .next t ∧
      t.fld F.TIM_STATUS.REF_ACTIVE = 1 ∧ t.fld F.TIM_CTRL.REF_SEL = 1 ∧ t.time.refArmed = false) ∧
    (∃ t, exec (.refSelWrite 0) s = .next t ∧ t.fld F.TIM_STATUS.REF_ACTIVE = 0 ∧ t.fld F.TIM_CTRL.REF_SEL = 0 ∧
      t.time.refArmed = false) ∧
    (∀ sel : BitVec 2, 2 ≤ sel.toNat → exec (.refSelWrite sel) s = .next s))

/-- R73, R74, R75, R76, R77, R80, R75, Table 3.7: With no inverted bit in the words it reads, a cell operation with WE = 1
writes to word D the result of its operation on the committed entries of A, B and C: SLICE3 looks each bit up in an
8-entry table, LUT4 replaces one bit of A, ROT rotates or shifts A and merges under C, REDUCE folds the bits of A
under C into one bit of B, CHAIN runs a carry through each segment and gives the sum, the carries out or the
overflows; nothing else changes. CHAIN with one segment of 40 bits adds with PT 0x6, GT 0x8 and carry-in zero, and
subtracts with PT 0x9, GT 0x2 and carry-in one, modulo 2⁴⁰. Points the rules leave open are the model's own readings:
log entry 8. -/
def Obligations.CellOperationsWriteTheirResults : Prop :=
  (
  ∀ (s : State) (ci : Cell) (n : BitVec 80),
    (∀ w, mget 0 s.fab.dmemErr (entryIx ci w (s.committed ci w)) = 0) → n.getLsbD 76 = true →
    let rd : Nat → Word := fun w => mget 0 s.fab.dmem (entryIx ci w (s.committed ci w))
    let a := rd (bitsOf n.toNat 65 56)
    let b := rd (bitsOf n.toNat 55 46)
    let c := rd (bitsOf n.toNat 45 36)
    let d := bitsOf n.toNat 75 66
    (∃ v, exec (.slice3 ci n) s = .next (writeWord s ci d v) ∧
      ∀ i < 40, v.getLsbD i = bitOf n.toNat ((a.getLsbD i).toNat + 2 * (b.getLsbD i).toNat + 4 * (c.getLsbD i).toNat)) ∧
    (bitsOf n.toNat 45 40 < 40 → bitsOf n.toNat 39 34 < 40 → bitsOf n.toNat 33 28 < 40 → bitsOf n.toNat 27 22 < 40 →
      bitsOf n.toNat 21 16 < 40 → ∃ v, exec (.lut4 ci n) s = .next (writeWord s ci d v) ∧
      ∀ i < 40, v.getLsbD i = if i = bitsOf n.toNat 45 40 then
          bitOf n.toNat ((a.getLsbD (bitsOf n.toNat 21 16)).toNat + 2 * (a.getLsbD (bitsOf n.toNat 27 22)).toNat
            + 4 * (b.getLsbD (bitsOf n.toNat 33 28)).toNat + 8 * (b.getLsbD (bitsOf n.toNat 39 34)).toNat)
        else a.getLsbD i) ∧
    (∃ v r : Word, exec (.rot ci n) s = .next (writeWord s ci d v) ∧
      let k := bitsOf n.toNat 5 0
      (∀ i < 40, v.getLsbD i =
        if bitOf n.toNat 8 then r.getLsbD i else ((r.getLsbD i && c.getLsbD i) || (b.getLsbD i && !c.getLsbD i))) ∧
      (bitsOf n.toNat 7 6 = 0 → ∀ i < 40, r.getLsbD ((i + k) % 40) = a.getLsbD i) ∧
      (bitsOf n.toNat 7 6 = 1 → ∀ i < 40, r.getLsbD i = (decide (k ≤ i) && a.getLsbD (i - k))) ∧
      (bitsOf n.toNat 7 6 = 2 → ∀ i < 40, r.getLsbD i = (decide (i + k ≤ 39) && a.getLsbD (i + k))) ∧
      (bitsOf n.toNat 7 6 = 3 → ∀ i < 40, r.getLsbD i = a.getLsbD (if i + k ≤ 39 then i + k else 39))) ∧
    (bitsOf n.toNat 8 3 < 40 → bitsOf n.toNat 1 0 ≠ 3 → ∃ v, exec (.reduce ci n) s = .next (writeWord s ci d v) ∧
      ∀ i < 40, v.getLsbD i = if i ≠ bitsOf n.toNat 8 3 then b.getLsbD i else
        (bitOf n.toNat 2 != match bitsOf n.toNat 1 0 with
          | 0 => (List.range 40).all (fun j => !c.getLsbD j || a.getLsbD j)
          | 1 => (List.range 40).any (fun j => c.getLsbD j && a.getLsbD j)
          | _ => ((List.range 40).filter (fun j => c.getLsbD j && a.getLsbD j)).length % 2 == 1)) ∧
    (bitsOf n.toNat 14 12 < 5 → bitsOf n.toNat 11 10 ≠ 3 → bitsOf n.toNat 9 8 ≠ 3 →
      ∃ (v : Word) (carry : Nat → Bool), exec (.chain ci n) s = .next (writeWord s ci d v) ∧
        let w := [40, 20, 10, 8, 5].getD (bitsOf n.toNat 14 12) 1
        let ix := fun i : Nat => (a.getLsbD i).toNat + 2 * (b.getLsbD i).toNat
        let p := fun i : Nat => bitOf n.toNat (ix i)
        let past := fun i : Nat => if p i then carry i else bitOf n.toNat (4 + ix i)
        let last := fun i : Nat => i + w - 1
        (∀ i < 40, carry i = if i % w ≠ 0 then past (i - 1) else
          match bitsOf n.toNat 9 8 with | 0 => false | 1 => true | _ => c.getLsbD i) ∧
        (∀ i < 40, v.getLsbD i = match bitsOf n.toNat 11 10 with
          | 0 => p i != carry i
          | 1 => decide (i % w = 0) && past (last i)
          | _ => decide (i % w = 0) && (past (last i) != carry (last i))))) ∧
  (
  ∀ (s : State) (ci : Cell) (n : BitVec 80),
    (∀ w, mget 0 s.fab.dmemErr (entryIx ci w (s.committed ci w)) = 0) → n.getLsbD 76 = true →
    bitsOf n.toNat 14 10 = 0 →
    (bitsOf n.toNat 9 0 = 0x086 → exec (.chain ci n) s = .next (writeWord s ci (bitsOf n.toNat 75 66)
      (mget 0 s.fab.dmem (entryIx ci (bitsOf n.toNat 65 56) (s.committed ci (bitsOf n.toNat 65 56)))
        + mget 0 s.fab.dmem (entryIx ci (bitsOf n.toNat 55 46) (s.committed ci (bitsOf n.toNat 55 46)))))) ∧
    (bitsOf n.toNat 9 0 = 0x129 → exec (.chain ci n) s = .next (writeWord s ci (bitsOf n.toNat 75 66)
      (mget 0 s.fab.dmem (entryIx ci (bitsOf n.toNat 65 56) (s.committed ci (bitsOf n.toNat 65 56)))
        - mget 0 s.fab.dmem (entryIx ci (bitsOf n.toNat 55 46) (s.committed ci (bitsOf n.toNat 55 46)))))))

/-- R78, R82, R91, R93, R118, R119, R122, R136, R138-R141: A NOP changes nothing; where the step leaves its port idle, or
none runs, a correction write-back puts the corrected word back with fresh check bits, and a scrub read of a clean
entry only moves the scrubber on; once its high phase is complete a clock tree's switch takes the configured source
with its output low, and a forced one sets FORCED. A scrub of words without errors changes nothing; a DMA request that
waits for the engine's port adds its cycles to SPD_DMA_STALL and, at STARVE_THR cycles, reports SPD_STARVE, which a
threshold of zero never does; a march starts where the rule allows it and is refused elsewhere, and when it ends a
destructive one leaves its target zero and no other byte changed; a repair register takes a row of its sub-array or
sets DUP, and its copy sets DONE. Points the rules leave open are the model's own readings: log entries 13 and 17. -/
def Obligations.CellAndTileMemoryUpkeep : Prop :=
  (
  ∀ (s : State) (ci : Cell),
    exec (.nop ci) s = .next s ∧
    (s.time.running = false ∨ writePortIdle s ci s.time.step = true →
      ∀ k v rest, s.cellFixes ci = (k, v) :: rest → ∃ t, exec (.correctionWriteBack ci) s = .next t ∧
      mget 0 t.fab.dmem k = v ∧ mget 0 t.fab.dmemErr k = 0 ∧ (∀ e ∈ t.cellFixes ci, e.1 ≠ k) ∧
      (∀ j, j ≠ k → mget 0 t.fab.dmem j = mget 0 s.fab.dmem j ∧ mget 0 t.fab.dmemErr j = mget 0 s.fab.dmemErr j) ∧
      t = { s with fab := { s.fab with dmem := t.fab.dmem, dmemErr := t.fab.dmemErr, fixes := t.fab.fixes } }) ∧
    (s.fld F.CELL_CTRL.SCRUB_EN (ci.val / 1024) = 1 → s.mode ≠ .blank → s.mode ≠ .loading →
      (s.time.running = false ∨ portCIdle s ci s.time.step = true) → mget 0 s.fab.scrubPos ci < 2047 → mget 0 s.fab.dmemErr (2048 * ci + mget 0 s.fab.scrubPos ci) = 0 →
      exec (.cellScrub ci) s = .next { s with fab := { s.fab with
        scrubPos := mset 0 s.fab.scrubPos ci (mget 0 s.fab.scrubPos ci + 1) } }) ∧
    (s.fld F.CELL_CTRL.SCRUB_EN (ci.val / 1024) = 1 → s.mode ≠ .blank → s.mode ≠ .loading →
      (s.time.running = false ∨ portCIdle s ci s.time.step = true) → ∃ t, exec (.cellScrub ci) s = .next t ∧
      mget 0 t.fab.scrubPos ci = (mget 0 s.fab.scrubPos ci + 1) % 2048 ∧ mget 0 t.fab.passes ci =
        (if mget 0 s.fab.scrubPos ci = 2047 then mget 0 s.fab.passes ci + 1 else mget 0 s.fab.passes ci) ∧
      (∀ j, j ≠ ci.val → mget 0 t.fab.scrubPos j = mget 0 s.fab.scrubPos j) ∧ t.fab.dmem = s.fab.dmem) ∧
    (∀ (r : Region) (n : Fin 8), (mget {} s.fab.rck (8 * r.val + n.val)).switching = true →
      (mget {} s.fab.rck (8 * r.val + n.val)).high = false → ∃ t u, exec (.rckSourceSwitch r n) s = .next t ∧ exec (.rckForced r n) s = .next u ∧ u.fab = t.fab ∧
        mget {} t.fab.rck (8 * r.val + n.val) =
          { src := s.fld F.FAB_RCK_CFG.SRC r n, sel := s.fld F.FAB_RCK_CFG.SEL r n, table := s.fld F.FAB_RCK_CFG.TABLE r n } ∧
        (∀ j, j ≠ 8 * r.val + n.val → mget {} t.fab.rck j = mget {} s.fab.rck j) ∧
        t = { s with fab := { s.fab with rck := t.fab.rck } } ∧
        bitOf (u.fld F.FAB_RCK_STAT.FORCED r) n = true)) ∧
  (
  ∀ (s : State) (t : Tile),
    (∀ row, (∀ a, mget 0 s.memErr a = 0) → exec (.queueMemoryScrub t row) s = .next s ∧
      ∀ row', exec (.scratchpadScrub t row') s = .next s) ∧
    (∀ (row : Fin 98304) k b, s.fld F.SPD_CTRL.QSCRUB_EN t = 1 → k < 4 → b < 47 →
      let a := fun j : Nat => qmAddr t ((4 * row.val + j) / 12) ((4 * row.val + j) % 12)
      mget 0 s.memErr (a k) = 2 ^ b → (∀ j, j < 4 → j ≠ k → mget 0 s.memErr (a j) = 0) →
      ∃ u, exec (.queueMemoryScrub t row) s = .next u ∧ (∀ x, mget 0 u.memErr x = if x = a k then 0 else mget 0 s.memErr x) ∧
      u = { s.addSat F.QC_SBE_CNT.COUNT t 0 with memErr := u.memErr }) ∧
    (∀ (row : Fin 16384) k b, s.fld F.SPD_CTRL.SCRUB_EN t = 1 → k < 8 → b < 47 →
      let a := fun j : Nat => spdAddr t (8 * row.val + j)
      mget 0 s.memErr (a k) = 2 ^ b → (∀ j, j < 8 → j ≠ k → mget 0 s.memErr (a j) = 0) →
      ∃ u, exec (.scratchpadScrub t row) s = .next u ∧ (∀ x, mget 0 u.memErr x = if x = a k then 0 else mget 0 s.memErr x) ∧
      u = { s.addSat F.SPD_SBE_CNT.COUNT t 0 with memErr := u.memErr }) ∧
    (∀ w n, s.fld F.SPD_CTRL.STARVE_THR t ≠ 0 → s.fld F.SPD_CTRL.STARVE_THR t ≤ n → bitOf (s.fld F.SPD_STATUS.EVT t) 1 = false →
      ∃ u, exec (.spdStarve t w n) s = .next u ∧ Reports s u 0x3202 ∧ bitOf (u.fld F.SPD_STATUS.EVT t) 1 = true ∧
      u.fld F.SPD_FIRST.KIND t = 2 ∧ u.fld F.SPD_FIRST.WORD t = w ∧
      u.fld F.SPD_DMA_STALL.CYCLES t = Nat.min (s.fld F.SPD_DMA_STALL.CYCLES t + n) (2 ^ 40 - 1) ∧
      u = { s with regs := u.regs, detected := u.detected }) ∧
    (∀ w n, s.fld F.SPD_CTRL.STARVE_THR t = 0 ∨ n < s.fld F.SPD_CTRL.STARVE_THR t →
      exec (.spdStarve t w n) s = .next (s.addSat F.SPD_DMA_STALL.CYCLES t 0 n)) ∧
    (∀ v : Word, v.getLsbD 39 = true →
      let may := (mget {} s.tiles t).march = false ∧ (v.getLsbD 37 = true ∨
        (v.getLsbD 38 = false ∧ (s.fld F.SE_STATUS.STATE t = 0 ∨ (mget {} s.procs t).eRst = true)) ∨
        (v.getLsbD 38 = true ∧ (∀ q : QueueIx, s.fld F.QC_SIZE.LEN t q = 0) ∧
          s.fld F.QC_LANE.RX_EN t = 0 ∧ s.fld F.QC_LANE.TX_EN t = 0))
      ∃ u, exec (.marchStart t v) s = .next u ∧
      (may → (mget {} u.tiles t).march = true ∧ u.fld F.SPD_MARCH_STAT.STATE t = 1 ∧ u.fld F.SPD_MARCH_STAT.REFUSED t = 0 ∧
        (mget {} u.tiles t).marchQm = v.getLsbD 38 ∧ (mget {} u.tiles t).marchKeep = v.getLsbD 37) ∧
      (¬may → u.fld F.SPD_MARCH_STAT.REFUSED t = 1 ∧ u.tiles = s.tiles) ∧
      KeepsRegs s u [regAddr .SPD_MARCH_CTRL t 0, regAddr .SPD_MARCH_STAT t 0] ∧ u = { s with regs := u.regs, tiles := u.tiles }) ∧
    ((mget {} s.tiles t).march = true → (mget {} s.tiles t).marchFails = [] →
      let lo := if (mget {} s.tiles t).marchQm = true then 0x4000000000 + t.val * 0x400000 else 0x4100000000 + t.val * 0x100000
      let n := if (mget {} s.tiles t).marchQm = true then 0x200000 else 0x100000
      ∃ u, exec (.marchDone t) s = .next u ∧ u.fld F.SPD_MARCH_STAT.STATE t = 2 ∧ (mget {} u.tiles t).march = false ∧
      ((mget {} s.tiles t).marchKeep = true → u.mem = s.mem) ∧
      ((mget {} s.tiles t).marchKeep = false →
        ∀ a, readByte u.mem a = if lo ≤ a ∧ a < lo + n then 0 else readByte s.mem a)) ∧
    (∀ (n : Fin 24) (v : Word), n.val < 8 → v.getLsbD 39 = true → s.fld F.SPD_REPAIR.VALID t n = 0 →
      let taken := ∃ k : Fin 24, k ≠ n ∧ k.val / 4 = n.val / 4 ∧ s.fld F.SPD_REPAIR.VALID t k = 1 ∧
        s.fld F.SPD_REPAIR.ROW t k = bitsOf v.toNat 13 0
      ∃ u, exec (.repair t false n v) s = .next u ∧
      (bitsOf v.toNat 13 0 < 8192 → ¬taken → u.fld F.SPD_REPAIR.VALID t n = 1 ∧ u.fld F.SPD_REPAIR.ROW t n = bitsOf v.toNat 13 0 ∧
        u.fld F.SPD_REPAIR.DUP t n = 0 ∧ n.val ∈ (mget {} u.tiles t).repairBusy) ∧
      (bitsOf v.toNat 13 0 < 8192 → taken → u.fld F.SPD_REPAIR.VALID t n = 0 ∧ u.fld F.SPD_REPAIR.DUP t n = 1 ∧ u.tiles = s.tiles) ∧
      KeepsRegs s u [regAddr .SPD_REPAIR t n] ∧ u = { s with regs := u.regs, tiles := u.tiles }) ∧
    (∀ (n : Fin 24) (v : Word), v.getLsbD 39 = true → s.fld F.QC_REPAIR.VALID t n = 0 →
      let taken := ∃ k : Fin 24, k ≠ n ∧ k.val / 4 = n.val / 4 ∧ s.fld F.QC_REPAIR.VALID t k = 1 ∧
        s.fld F.QC_REPAIR.ROW t k = bitsOf v.toNat 13 0
      ∃ u, exec (.repair t true n v) s = .next u ∧
      (¬taken → u.fld F.QC_REPAIR.VALID t n = 1 ∧ u.fld F.QC_REPAIR.ROW t n = bitsOf v.toNat 13 0 ∧
        u.fld F.QC_REPAIR.DUP t n = 0) ∧
      (taken → u.fld F.QC_REPAIR.VALID t n = 0 ∧ u.fld F.QC_REPAIR.DUP t n = 1 ∧ u.tiles = s.tiles) ∧
      KeepsRegs s u [regAddr .QC_REPAIR t n] ∧ u = { s with regs := u.regs, tiles := u.tiles }) ∧
    (∀ (n : Fin 24) (v : Word), v.getLsbD 39 = true → s.fld F.QC_REPAIR.VALID t n = 1 → exec (.repair t true n v) s = .next s) ∧
    (∀ n : Fin 24, n.val < 8 → n.val ∈ (mget {} s.tiles t).repairBusy → ∃ u, exec (.repairDone t false n) s = .next u ∧
      u.fld F.SPD_REPAIR.DONE t n = 1 ∧ n.val ∉ (mget {} u.tiles t).repairBusy ∧
      ((∀ a, mget 0 s.memErr a = 0) → KeepsFlds s u [(F.SPD_REPAIR.DONE, t.val, n.val)] ∧
        u = { s with regs := u.regs, tiles := u.tiles })) ∧
    (∀ n : Fin 24, 100 + n.val ∈ (mget {} s.tiles t).repairBusy → ∃ u, exec (.repairDone t true n) s = .next u ∧
      u.fld F.QC_REPAIR.DONE t n = 1 ∧ 100 + n.val ∉ (mget {} u.tiles t).repairBusy ∧
      ((∀ a, mget 0 s.memErr a = 0) → KeepsFlds s u [(F.QC_REPAIR.DONE, t.val, n.val)] ∧
        u = { s with regs := u.regs, tiles := u.tiles })))

/-- R123, R132, R133, R134: a write of QC_SIZE to an empty queue takes a range that lies in the memory, overlaps no other
enabled queue and is none of an outbound calendar queue; a queue that holds words keeps its range with
QUEUE_NOT_EMPTY, and a range past the end is refused with QUEUE_RANGE. FLUSH and TRUNCATE run while the tile executes
no strides, while its zone is isolated and on a disabled queue: FLUSH empties it, TRUNCATE keeps the oldest words up
to 12 × L and sets LEN, and DISCARD counts the rest; on a queue whose tile executes they are refused with RUNNING. The
end of a command lets pushes go in again. A polling reader's write of QC_RD frees the words before it, or is refused
where it would pass QC_WR. A write of QC_LANE sets the groups, and an enable stays 0 with CFG_ERR where its group
breaks a rule; tiles 12 to 15 ignore it. Points the rules leave open are the model's own readings: log entry 16. -/
def Obligations.QueueRangesAndCommands : Prop :=
  ∀ (s : State) (t : Tile) (q : QueueIx),
    let fits := fun base len : Nat => base + len ≤ 32768 ∧
      (∀ k : QueueIx, k ≠ q → s.fld F.QC_SIZE.LEN t k ≠ 0 → len ≠ 0 →
        base + len ≤ s.fld F.QC_SIZE.BASE t k ∨ s.fld F.QC_SIZE.BASE t k + s.fld F.QC_SIZE.LEN t k ≤ base) ∧
      (len = 0 ∨ s.fld F.QC_CFG.MODE t q ≠ 2 ∨ s.fld F.QC_CFG.DIR t q = 0)
    let open_ := s.time.running = false ∨ s.regionRuns (t.val / 16) = false ∨ s.tileIsolated t = true ∨
      s.fld F.QC_SIZE.LEN t q = 0
    (∀ v : Word, (s.q t q).count = 0 → (s.q t q).marks = [] → bitsOf v.toNat 15 0 ≤ 32768 →
      fits (bitsOf v.toNat 30 16) (bitsOf v.toNat 15 0) → ∃ u, exec (.qcSizeWrite t q v) s = .next u ∧
        u.fld F.QC_SIZE.BASE t q = bitsOf v.toNat 30 16 ∧ u.fld F.QC_SIZE.LEN t q = bitsOf v.toNat 15 0 ∧
        u.fld F.QC_STAT.RES t q = 0 ∧
        ((s.q t q).waiting = [] → (u.q t q).count = 0 ∧ u.fld F.QC_STAT.COUNT t q = 0 ∧
          u = { s with regs := u.regs, queues := u.queues })) ∧
    (∀ v : Word, (s.q t q).count ≠ 0 → exec (.qcSizeWrite t q v) s = .next (s.setFld F.QC_STAT.RES t q 1)) ∧
    (∀ v : Word, (s.q t q).count = 0 → (s.q t q).marks = [] → bitsOf v.toNat 15 0 ≤ 32768 →
      32768 < bitsOf v.toNat 30 16 + bitsOf v.toNat 15 0 →
      exec (.qcSizeWrite t q v) s = .next (s.setFld F.QC_STAT.RES t q 2)) ∧
    (open_ → ∃ u, exec (.flush t q) s = .next u ∧ (u.q t q).count = 0 ∧ (u.q t q).cmdBusy = true ∧
      u.fld F.QC_CMD.DISCARD t q = (s.q t q).count % 2 ^ 19 ∧ u.fld F.QC_STAT.RES t q = 0 ∧
      u.fld F.QC_STAT.COUNT t q = 0 ∧ u = { s with regs := u.regs, queues := u.queues }) ∧
    (∀ len : BitVec 16, open_ → fits (s.fld F.QC_SIZE.BASE t q) len.toNat → ∃ u, exec (.truncate t q len) s = .next u ∧
      (u.q t q).count = Nat.min (s.q t q).count (12 * len.toNat) ∧ (u.q t q).cmdBusy = true ∧
      u.fld F.QC_CMD.DISCARD t q = ((s.q t q).count - 12 * len.toNat) % 2 ^ 19 ∧ u.fld F.QC_SIZE.LEN t q = len.toNat ∧
      u.fld F.QC_STAT.RES t q = 0) ∧
    (¬open_ → (∀ len, exec (.truncate t q len) s = .next (s.setFld F.QC_STAT.RES t q 4)) ∧
      exec (.flush t q) s = .next (s.setFld F.QC_STAT.RES t q 4)) ∧
    (∃ u, exec (.queueCommandDone t q) s = .next u ∧ (u.q t q).cmdBusy = false ∧
      ((s.q t q).waiting = [] → u = s.setQ t q { s.q t q with cmdBusy := false })) ∧
    (∀ v : Word, ∀ n, s.qCap t q ≠ 0 → s.fld F.QC_CFG.DIR t q = 1 → s.fld F.QC_CFG.PORT t q = 0 →
      n = (bitsOf v.toNat 18 0 + s.qCap t q - (s.q t q).rd % s.qCap t q) % s.qCap t q →
      ((s.q t q).released < n → exec (.qcRdWrite t q v) s = .next (s.setFld F.QC_STAT.RES t q 5)) ∧
      (n ≤ (s.q t q).released → ∃ u, exec (.qcRdWrite t q v) s = .next u ∧ u.fld F.QC_STAT.RES t q = 0 ∧
        u.q t q = (s.q t q).dropN (s.qCap t q) n ∧ ((∀ r ∈ (s.q t q).rel, 0 < r.2) → (u.q t q).count + n = (s.q t q).count) ∧
        u = { s with regs := u.regs, queues := u.queues })) ∧
    (∀ v : Word, 12 ≤ t.val % 16 → exec (.qcLaneWrite t v) s = .next s) ∧
    (∀ v : Word, t.val % 16 < 12 → bitsOf v.toNat 34 32 ≤ 4 → bitsOf v.toNat 26 24 ≤ 4 →
      let good := fun q0 k out : Nat => q0 % 2 ^ k = 0 ∧ q0 + 2 ^ k ≤ 16 ∧ ∀ j, j < 2 ^ k →
        s.fld F.QC_SIZE.LEN t (j + q0) ≠ 0 ∧ s.fld F.QC_CFG.PORT t (j + q0) = 1 ∧ s.fld F.QC_CFG.DIR t (j + q0) = out ∧
        (out = 0 → s.fld F.QC_CFG.MODE t (j + q0) = s.fld F.QC_CFG.MODE t q0 ∧
          s.fld F.QC_CFG.D t (j + q0) = s.fld F.QC_CFG.D t q0 ∧ s.fld F.QC_CFG.HDR t (j + q0) = s.fld F.QC_CFG.HDR t q0)
      let rx := good (bitsOf v.toNat 38 35) (bitsOf v.toNat 34 32) 0
      let tx := good (bitsOf v.toNat 30 27) (bitsOf v.toNat 26 24) 1
      ∃ u, exec (.qcLaneWrite t v) s = .next u ∧
      u.fld F.QC_LANE.RX_Q t = bitsOf v.toNat 38 35 ∧ u.fld F.QC_LANE.RX_K t = bitsOf v.toNat 34 32 ∧
      u.fld F.QC_LANE.TX_Q t = bitsOf v.toNat 30 27 ∧ u.fld F.QC_LANE.TX_K t = bitsOf v.toNat 26 24 ∧
      (u.fld F.QC_LANE.RX_EN t = 1 ↔ v.getLsbD 39 = true ∧ rx) ∧ (u.fld F.QC_LANE.TX_EN t = 1 ↔ v.getLsbD 31 = true ∧ tx) ∧
      ((v.getLsbD 39 = true ∧ ¬rx) ∨ (v.getLsbD 31 = true ∧ ¬tx) → u.fld F.QC_LANE.CFG_ERR t = 1) ∧
      (s.fld F.QC_LANE.RX_EN t = 0 → u.fld F.QC_LANE.RX_EN t = 1 → (mget {} u.tiles t).laneRx = 0) ∧
      (s.fld F.QC_LANE.TX_EN t = 0 → u.fld F.QC_LANE.TX_EN t = 1 → (mget {} u.tiles t).laneTx = 0) ∧
      KeepsRegs s u [regAddr .QC_LANE t 0] ∧ u = { s with regs := u.regs, tiles := u.tiles })

/-- R319-R322: a scrub read of a block without errors only moves the scrub on, and after the last block counts a pass; an
initialisation is taken, completes at once for no blocks, or is refused, and when it ends its blocks read zero and no
other byte changes; a repair entry takes a row of its channel or sets DUP, and its copy sets DONE; a shortfall of a
reservation is counted, and the first is reported. Points the rules leave open are the model's own readings: log
entries 2 and 5. -/
def Obligations.MainMemoryUpkeep : Prop :=
  ∀ (s : State) (r : Region),
    let good := (rsDecode (bytesAt s.mem (r.val * 0x800000000 + 64 * (s.memSt r).scrubPos) 64)).2 = 0
    (s.fld F.MEM_CTRL.SCRUB_EN r = 0 → exec (.memoryScrub r) s = .next s) ∧
    (s.fld F.MEM_CTRL.SCRUB_EN r = 1 → memOnline s (r * 0x800000000) = true → (s.memSt r).scrubPos + 1 < 2 ^ 29 → good →
      exec (.memoryScrub r) s = .next (s.setMemSt r { s.memSt r with scrubPos := (s.memSt r).scrubPos + 1 })) ∧
    (s.fld F.MEM_CTRL.SCRUB_EN r = 1 → memOnline s (r * 0x800000000) = true → (s.memSt r).scrubPos + 1 = 2 ^ 29 → good →
      ∃ u, exec (.memoryScrub r) s = .next u ∧ (u.memSt r).scrubPos = 0 ∧
      u.fld F.MEM_SCRUB.PASSES r = (s.fld F.MEM_SCRUB.PASSES r + 1) % 2 ^ 32 ∧
      u = { s with regs := u.regs, mems := u.mems }) ∧
    (let base := s.fld F.MEM_INIT_BASE.ADDR r * 64
     let n := s.fld F.MEM_INIT_LEN.BLOCKS r
     let fits := (s.memSt r).initRun = none ∧ memRegion base = r ∧ base + 64 * n ≤ (r.val + 1) * 0x800000000
     (fits → n ≠ 0 → ∃ t, exec (.memInit r) s = .next t ∧ (t.memSt r).initRun = some (base, n) ∧
       t.fld F.MEM_STATUS.INIT_BUSY r = 1 ∧ t.fld F.MEM_INIT_CTRL.REFUSED r = 0 ∧ t = { s with regs := t.regs, mems := t.mems }) ∧
     (fits → n = 0 → exec (.memInit r) s = .next (s.setFld F.MEM_INIT_CTRL.REFUSED r 0 0)) ∧
     (¬fits → exec (.memInit r) s = .next (s.setFld F.MEM_INIT_CTRL.REFUSED r 0 1))) ∧
    (∀ base n, (s.memSt r).initRun = some (base, n) → ∃ t, exec (.memInitDone r) s = .next t ∧
      (∀ a, readByte t.mem a = if base ≤ a ∧ a < base + 64 * n then 0 else readByte s.mem a) ∧
      (t.memSt r).initRun = none ∧ t.fld F.MEM_STATUS.INIT_BUSY r = 0 ∧
      KeepsFlds s t [(F.MEM_STATUS.INIT_BUSY, r.val, 0)] ∧ t = { s with mem := t.mem, regs := t.regs, mems := t.mems }) ∧
    (∀ (n : Fin 32) (v : Word), v.getLsbD 39 = true → s.fld F.MEM_REPAIR.VALID r n = 0 →
      let taken := ∃ k : Fin 32, k.val / 4 = n.val / 4 ∧ s.fld F.MEM_REPAIR.VALID r k = 1 ∧
        s.fld F.MEM_REPAIR.BANK r k = bitsOf v.toNat 20 18 ∧ s.fld F.MEM_REPAIR.ROW r k = bitsOf v.toNat 17 0
      ∃ t, exec (.memoryRepair r n v) s = .next t ∧
      t.fld F.MEM_REPAIR.BANK r n = bitsOf v.toNat 20 18 ∧ t.fld F.MEM_REPAIR.ROW r n = bitsOf v.toNat 17 0 ∧
      (¬taken → t.fld F.MEM_REPAIR.VALID r n = 1 ∧ t.fld F.MEM_REPAIR.DONE r n = 0 ∧ t.fld F.MEM_REPAIR.DUP r n = 0 ∧
        n.val ∈ (t.memSt r).copying) ∧
      (taken → t.fld F.MEM_REPAIR.VALID r n = 0 ∧ t.fld F.MEM_REPAIR.DUP r n = 1 ∧ t.mems = s.mems) ∧
      KeepsRegs s t [regAddr .MEM_REPAIR r n] ∧ t = { s with regs := t.regs, mems := t.mems }) ∧
    (∀ (n : Fin 32) (v : Word), v.getLsbD 39 = true → s.fld F.MEM_REPAIR.VALID r n = 1 →
      exec (.memoryRepair r n v) s = .next s) ∧
    (∀ n : Fin 32, n.val ∈ (s.memSt r).copying → ∃ t, exec (.memoryRepairDone r n) s = .next t ∧
      t.fld F.MEM_REPAIR.DONE r n = 1 ∧ n.val ∉ (t.memSt r).copying ∧ KeepsFlds s t [(F.MEM_REPAIR.DONE, r.val, n.val)] ∧
      t = { s with regs := t.regs, mems := t.mems }) ∧
    (∀ ch, bitOf (s.fld F.MEM_STATUS.EVT r) 2 = true → exec (.memBwShort r ch) s = .next (s.used.addSat F.MEM_RES_STAT.SHORT r 0 1)) ∧
    (∀ ch, bitOf (s.fld F.MEM_STATUS.EVT r) 2 = false → ∃ t, exec (.memBwShort r ch) s = .next t ∧ Reports s t 0x4603 ∧
      t.fld F.MEM_FIRST.KIND r = 3 ∧ t.fld F.MEM_FIRST.CHANNEL r = ch ∧ t.fld F.MEM_FIRST.SRCID r / 4 = 0x11 ∧ bitOf (t.fld F.MEM_STATUS.EVT r) 2 = true ∧
      t = { s with regs := t.regs, detected := t.detected, free := t.free })

/-- R185, R185, R186: ADD, ADC, SUB and SBC write the exact signed result modulo 2⁴⁰, clamped with S = 1, and set N and Z
from the result, C from the unsigned carry or from the absence of a borrow, and V where the exact result left the
range; CMP sets the flags of Xa − Xb alone. Operands are read before the results due in the cycle land; nothing else
changes. AND, OR, XOR, ANDN, MIN, MAX, PCNT and LZC write their results and clear C and V, and TST sets the flags of
Xa AND Xb alone; ABS and NEG saturate and set V on the most negative number, and NEG sets C where Xa is zero. SHL,
SHR, SAR and ROL by k, 0 to 63: SHL gives Xa · 2ᵏ modulo 2⁴⁰, clamped with S = 1, SHR divides the unsigned and SAR the
signed value by 2ᵏ rounding down, ROL rotates left by k mod 40; C is the bit shifted out last and clear for k = 0.
Points the rules leave open are the model's own readings: log entry 20. -/
def Obligations.AluAndShiftResultsAndFlags : Prop :=
  (
  ∀ (s : State) (p : Proc) (sat : Bool) (rd ra : Fin 16) (b : AluSrc), Issuing s p →
    let e := endCycle s p
    let x := s.getX p ra
    let y := aluOperand s p b
    let n := match b with | .imm40 _ => 2 | _ => 1
    let c := ((s.sr p).getLsbD 25).toNat
    (∃ t, exec (.add p sat rd ra b) s = .next t ∧ EndsInCycle e t p (s.ppc p) n [rd] ∧
      Sums e t p rd sat (x.toInt + y.toInt) (decide (2 ^ 40 ≤ x.toNat + y.toNat))) ∧
    (∃ t, exec (.adc p sat rd ra b) s = .next t ∧ EndsInCycle e t p (s.ppc p) n [rd] ∧
      Sums e t p rd sat (x.toInt + y.toInt + c) (decide (2 ^ 40 ≤ x.toNat + y.toNat + c))) ∧
    (∃ t, exec (.sub p sat rd ra b) s = .next t ∧ EndsInCycle e t p (s.ppc p) n [rd] ∧
      Sums e t p rd sat (x.toInt - y.toInt) (decide (y.toNat ≤ x.toNat))) ∧
    (∃ t, exec (.sbc p sat rd ra b) s = .next t ∧ EndsInCycle e t p (s.ppc p) n [rd] ∧
      Sums e t p rd sat (x.toInt - y.toInt - (1 - c)) (decide (y.toNat + (1 - c) ≤ x.toNat))) ∧
    (∃ t w, exec (.cmp p sat ra b) s = .next t ∧ EndsInCycle e t p (s.ppc p) n [] ∧ WordOf sat (x.toInt - y.toInt) w ∧
      FlagsSet (e.sr p) (t.sr p) (w.getLsbD 39) (w == 0) (decide (y.toNat ≤ x.toNat))
        (decide (x.toInt - y.toInt < -(2 ^ 39)) || decide (2 ^ 39 ≤ x.toInt - y.toInt)))) ∧
  (
  ∀ (s : State) (p : Proc) (sat : Bool) (rd ra : Fin 16) (b : AluSrc), Issuing s p →
    let e := endCycle s p
    let x := s.getX p ra
    let y := aluOperand s p b
    let n := match b with | .imm40 _ => 2 | _ => 1
    (∃ t, exec (.andOp p sat rd ra b) s = .next t ∧ EndsInCycle e t p (s.ppc p) n [rd] ∧ Plain e t p rd (x &&& y)) ∧
    (∃ t, exec (.orOp p sat rd ra b) s = .next t ∧ EndsInCycle e t p (s.ppc p) n [rd] ∧ Plain e t p rd (x ||| y)) ∧
    (∃ t, exec (.xorOp p sat rd ra b) s = .next t ∧ EndsInCycle e t p (s.ppc p) n [rd] ∧ Plain e t p rd (x ^^^ y)) ∧
    (∃ t, exec (.andn p sat rd ra b) s = .next t ∧ EndsInCycle e t p (s.ppc p) n [rd] ∧ Plain e t p rd (x &&& ~~~ y)) ∧
    (∃ t, exec (.tst p sat ra b) s = .next t ∧ EndsInCycle e t p (s.ppc p) n [] ∧
      FlagsSet (e.sr p) (t.sr p) ((x &&& y).getLsbD 39) (x &&& y == 0) false false) ∧
    (∃ t, exec (.min p sat rd ra b) s = .next t ∧ EndsInCycle e t p (s.ppc p) n [rd] ∧
      Plain e t p rd (if x.toInt ≤ y.toInt then x else y)) ∧
    (∃ t, exec (.max p sat rd ra b) s = .next t ∧ EndsInCycle e t p (s.ppc p) n [rd] ∧
      Plain e t p rd (if x.toInt ≤ y.toInt then y else x)) ∧
    (∃ t, exec (.pcnt p sat rd ra) s = .next t ∧ EndsInCycle e t p (s.ppc p) 1 [rd] ∧
      ∃ w, Plain e t p rd w ∧ w.toNat = ((List.range 40).filter (fun i => x.getLsbD i)).length) ∧
    (∃ t, exec (.lzc p sat rd ra) s = .next t ∧ EndsInCycle e t p (s.ppc p) 1 [rd] ∧
      ∃ w, Plain e t p rd w ∧ w.toNat ≤ 40 ∧ (∀ i, i < 40 → 40 ≤ i + w.toNat → x.getLsbD i = false) ∧
        (w.toNat < 40 → x.getLsbD (39 - w.toNat) = true)) ∧
    (∃ t, exec (.abs p sat rd ra) s = .next t ∧ EndsInCycle e t p (s.ppc p) 1 [rd] ∧
      Sums e t p rd sat (if x.toInt < 0 then -x.toInt else x.toInt) false) ∧
    (∃ t, exec (.neg p sat rd ra) s = .next t ∧ EndsInCycle e t p (s.ppc p) 1 [rd] ∧
      Sums e t p rd sat (-x.toInt) (decide (x = 0)))) ∧
  (
  ∀ (s : State) (p : Proc) (sat : Bool) (rd ra : Fin 16) (a : ShiftAmt), Issuing s p →
    let e := endCycle s p
    let x := s.getX p ra
    let k := shiftOperand s p a
    (∃ t, exec (.shl p sat rd ra a) s = .next t ∧ EndsInCycle e t p (s.ppc p) 1 [rd] ∧
      Sums e t p rd sat (x.toInt * 2 ^ k) (decide (0 < k) && decide (k ≤ 40) && x.getLsbD (40 - k))) ∧
    (∃ t w, exec (.shr p sat rd ra a) s = .next t ∧ EndsInCycle e t p (s.ppc p) 1 [rd] ∧ t.getX p rd = w ∧
      w.toNat = x.toNat / 2 ^ k ∧
      FlagsSet (e.sr p) (t.sr p) (w.getLsbD 39) (w == 0) (decide (0 < k) && x.getLsbD (k - 1)) false) ∧
    (∃ t w, exec (.sar p sat rd ra a) s = .next t ∧ EndsInCycle e t p (s.ppc p) 1 [rd] ∧ t.getX p rd = w ∧
      w.toInt = x.toInt / 2 ^ k ∧
      FlagsSet (e.sr p) (t.sr p) (w.getLsbD 39) (w == 0) (decide (0 < k) && x.getLsbD (Nat.min (k - 1) 39)) false) ∧
    (∃ t w, exec (.rol p sat rd ra a) s = .next t ∧ EndsInCycle e t p (s.ppc p) 1 [rd] ∧ t.getX p rd = w ∧
      (∀ i, i < 40 → w.getLsbD ((i + k) % 40) = x.getLsbD i) ∧
      FlagsSet (e.sr p) (t.sr p) (w.getLsbD 39) (w == 0) (decide (0 < k) && w.getLsbD 0) false))

/-- R187, R145: MV and MVI write Xd and leave the flags; MVFR reads any register of the bank in force; MVTR and MVTI write
one with the conversion to its width: X whole, an accumulator sign-extended, its guard from bits [7:0], P, B and the
return addresses truncated, M sign-extended from its width, L no longer than the memory, SR under its writable bits.
Points the rules leave open are the model's own readings: log entry 20. -/
def Obligations.MovesConvertToTheRegisterWidth : Prop :=
  ∀ (s : State) (p : Proc) (rd ra : Fin 16) (code : Fin 64), Issuing s p →
    let e := endCycle s p
    (∃ t, exec (.mv p rd ra) s = .next t ∧ EndsInCycle e t p (s.ppc p) 1 [rd] ∧ t.getX p rd = s.getX p ra ∧ t.sr p = e.sr p) ∧
    (∀ i, ∃ t, exec (.mvi p rd (.imm i)) s = .next t ∧ EndsInCycle e t p (s.ppc p) 1 [rd] ∧
      (t.getX p rd).toInt = i.toInt ∧ t.sr p = e.sr p) ∧
    (∀ w, ∃ t, exec (.mvi p rd (.imm40 w)) s = .next t ∧ EndsInCycle e t p (s.ppc p) 2 [rd] ∧ t.getX p rd = w ∧
      t.sr p = e.sr p) ∧
    (codeOk (isSup p) code = true →
      (∃ t, exec (.mvfr p rd code) s = .next t ∧ EndsInCycle e t p (s.ppc p) 1 [rd] ∧
        t.getX p rd = readCode s p (s.inFast p) code ∧ t.sr p = e.sr p) ∧
      ∀ w : Word, ∃ t u, exec (.mvti p code w) s = .next t ∧ t.ppc p = (s.ppc p + 2) % imemWords p ∧
        (s.getX p ra = w → exec (.mvtr p code ra) s = .next u ∧ u.ppc p = (s.ppc p + 1) % imemWords p ∧ u.proc p = t.proc p) ∧
        ProcOnly e t p [pcField p] ∧
        let r := fun c : Nat => readCode t p (s.inFast p) c
        (code.val < 16 → r code = w) ∧
        (16 ≤ code.val → code.val < 24 → isSup p = true ∨ code.val % 2 = 0 → r code = w) ∧
        (16 ≤ code.val → code.val < 24 → isSup p = false → code.val % 2 = 0 → r (code + 1) = if w.toInt < 0 then -1 else 0) ∧
        (16 ≤ code.val → code.val < 24 → code.val % 2 = 1 → (r code).toInt = signed 8 w.toNat) ∧
        (24 ≤ code.val ∧ code.val < 32 ∨ 40 ≤ code.val ∧ code.val < 48 → (r code).toNat = w.toNat % 2 ^ ptrBits p) ∧
        (32 ≤ code.val → code.val < 40 → (r code).toInt = signed (ptrBits p + 1) w.toNat) ∧
        (48 ≤ code.val → code.val < 56 → (r code).toNat = Nat.min (w.toNat % 2 ^ (ptrBits p + 1)) (2 ^ ptrBits p)) ∧
        (code.val = 56 → ∀ i, i < 40 → (r code).getLsbD i =
          if (srMask p).getLsbD i then w.getLsbD i else (readCode e p (s.inFast p) 56).getLsbD i) ∧
        (code.val = 57 → bitsOf (r code).toNat 39 38 = bitsOf w.toNat 39 38 ∧ (bitsOf w.toNat 37 32 ≤ 40 →
          bitsOf (r code).toNat 37 32 = bitsOf w.toNat 37 32)) ∧
        (code.val = 58 ∨ code.val = 60 → (r code).toNat = w.toNat % 2 ^ pcBits p) ∧
        (code.val = 59 → r code = w) ∧
        ∀ c, c < 61 → (16 ≤ c ∧ c < 24 ∨ c = 56 → code.val < 16 ∨ 24 ≤ code.val) → c ≠ code.val →
          r c = readCode e p (s.inFast p) c)

/-- R148, R149, R150, R188: a load of 1, 2 or 4 words gives X registers the words it addresses two cycles later, and a
store puts the registers read at issue there; the address is Pn, or Pn + Mn modulo the memory, words past the end of a
circular buffer wrap to its base, and a post-modify moves Pn by Mn or by the immediate, modulo the buffer when Ln is
not zero. Reserved widths and odd registers are RSV_INSN. Points the rules leave open are the model's own readings:
log entry 20. -/
def Obligations.LoadsAndStoresPostModify : Prop :=
  ∀ (s : State) (p : Proc) (w : Fin 4) (xt : Fin 16) (pn : Fin 8) (am : AddrMode), Quiet s p → (∀ a, mget 0 s.memErr a = 0) →
    (Insn.ld w xt pn am).legal (isSup p) = true →
    let b := bankNow s p
    let first := match am with
      | .indexed => (((mget 0 b.p pn : Nat) + signed (ptrBits p + 1) (mget 0 b.m pn)) % (dmemWords p : Nat)).toNat
      | _ => mget 0 b.p pn
    let addrs := accessWords p b pn first (widthWords w)
    let m : Int := match am with | .postM => signed (ptrBits p + 1) (mget 0 b.m pn) | .postImm i => i.toInt | _ => 0
    let post := fun t : State => mget 0 b.p pn < dmemWords p → mget 0 b.b pn < dmemWords p →
      (mget 0 b.l pn = 0 → ((mget 0 (bankNow t p).p pn : Nat) : Int) = (mget 0 b.p pn + m) % dmemWords p) ∧
      (∀ d, d < mget 0 b.l pn → mget 0 b.l pn ≤ dmemWords p → mget 0 b.p pn = (mget 0 b.b pn + d) % dmemWords p → m ≠ 0 →
        ((mget 0 (bankNow t p).p pn : Nat) : Int) = (mget 0 b.b pn + ((d : Int) + m) % mget 0 b.l pn) % dmemWords p)
    (∃ t, exec (.ld p w xt pn am) s = .next t ∧ t.ppc p = (s.ppc p + 1) % imemWords p ∧ post t ∧ t.mem = s.mem ∧
      ∀ i a, addrs[i]? = some a → (advance p 2 t).getX p (xt + i) = (s.dmemRead p a).1.1) ∧
    (∃ t, exec (.st p w xt pn am) s = .next t ∧ t.ppc p = (s.ppc p + 1) % imemWords p ∧ post t ∧
      (addrs.Nodup → ∀ i a, addrs[i]? = some a → ((advance p 2 t).dmemRead p a).1.1 = s.getX p (xt + i)) ∧
      ∀ a, a < dmemWords p → a ∉ addrs → ((advance p 2 t).dmemRead p a).1.1 = (s.dmemRead p a).1.1)

/-- R153, R162, R189, R190, R191: a branch issues the two instructions after it and then the target when it is taken, the
next address otherwise; CALL and CALLR write the address that follows the second slot; BDEC branches while the
decremented register is not zero; RTI restores the writable bits of SR from ISR and returns to IRA; RTF returns to FRA
and leaves the shadow bank. Points the rules leave open are the model's own readings: log entry 20. -/
def Obligations.BranchesHaveTwoDelaySlots : Prop :=
  ∀ (s : State) (p : Proc), Quiet s p → (∀ a, s.imemBad p a = false) → (∀ a, (s.imemWord p a).getLsbD 39 = false) →
    let nop2 := fun t : State => runAll [.engineNop p, .engineNop p] t
    (∀ (cond : Fin 16) (c : Cond) (target : BitVec 15), condOf cond = some c →
      ∃ t u, exec (.bcc p cond target) s = .next t ∧ t.ppc p = (s.ppc p + 1) % imemWords p ∧ nop2 t = some u ∧
        u.ppc p = (if condHolds (s.sr p) (s.pf p F.SE_STATUS.BP F.SUP_STATUS.BP == 1) c then target.toNat
          else s.ppc p + 3) % imemWords p ∧ bankNow u p = bankNow s p) ∧
    (∀ (rd : Fin 16) (target : BitVec 15), ∃ t u, exec (.call p rd target) s = .next t ∧ nop2 t = some u ∧
      u.ppc p = target.toNat % imemWords p ∧ u.getX p rd = BitVec.ofNat 40 ((s.ppc p + 3) % imemWords p) ∧
      ∀ k, k ≠ rd.val → u.getX p k = s.getX p k) ∧
    (∀ ra : Fin 16, ∃ t u, exec (.jr p ra) s = .next t ∧ nop2 t = some u ∧
      u.ppc p = (s.getX p ra).toNat % imemWords p ∧ bankNow u p = bankNow s p) ∧
    (∀ rd ra : Fin 16, ∃ t u, exec (.callr p rd ra) s = .next t ∧ nop2 t = some u ∧
      u.ppc p = (s.getX p ra).toNat % imemWords p ∧ u.getX p rd = BitVec.ofNat 40 ((s.ppc p + 3) % imemWords p) ∧
      ∀ k, k ≠ rd.val → u.getX p k = s.getX p k) ∧
    (∀ (rn : Fin 16) (target : BitVec 15), ∃ t u, exec (.bdec p rn target) s = .next t ∧ nop2 t = some u ∧
      u.ppc p = (if s.getX p rn ≠ 1 then target.toNat else s.ppc p + 3) % imemWords p ∧ u.getX p rn = s.getX p rn - 1 ∧
      ∀ k, k ≠ rn.val → u.getX p k = s.getX p k) ∧
    (s.inFast p = false → (s.proc p).ira < imemWords p → ∃ t u, exec (.rti p) s = .next t ∧ nop2 t = some u ∧
      u.ppc p = (s.proc p).ira ∧ u.sr p = srWrite p (s.sr p) (s.proc p).isr ∧ ∀ k, u.getX p k = s.getX p k) ∧
    (s.inFast p = true → (s.proc p).fra < imemWords p → ∃ t u, exec (.rtf p) s = .next t ∧ nop2 t = some u ∧
      u.ppc p = (s.proc p).fra ∧ u.inFast p = false ∧ (u.proc p).main = (s.proc p).main ∧ (u.proc p).shadow = (s.proc p).shadow)

/-- R154, R155, R157, R192, R154, R192: MPY, MAC, MSU and MACR multiply the low halves, doubled under CR.FRAC; the
accumulator takes the product, or the sum with its old value, two cycles later, MACR rounded to nearest even at
CR.RPOS; an overflow is judged where the accumulator is kept. On a supervisor they act on ACC alone. The QUAD
functions of an engine give an accumulator pair the products of Table 6.4 two cycles later: CMUL and CMULJ a complex
product, CMAC and CMACJ its sum with the pair, DMPY and DMAC two dual products that share Xc, MUL40 the signed and
MUL40U the unsigned 80-bit product, low word first. On a supervisor they are RSV_INSN. Points the rules leave open are
the model's own readings: log entries 20 and 21. -/
def Obligations.ProductsAccumulateAndFillPairs : Prop :=
  (
  ∀ (s : State) (p : Proc) (sat : Bool) (n : Fin 4) (ra rb : Fin 16), Quiet s p → (isSup p = true → n = 0) →
    let prod : Int := fracProd ((s.proc p).cr.getLsbD 38) (loHalf p (s.getX p ra)) (loHalf p (s.getX p rb))
    let old := accNow s p n
    (∃ t, exec (.mpy p sat n ra rb) s = .next t ∧ PutsInFlight s t p ∧ AccOnly s (advance p 2 t) p [n] ∧
      AccTakes s (advance p 2 t) p n false sat prod) ∧
    (∃ t, exec (.mac p sat n ra rb) s = .next t ∧ PutsInFlight s t p ∧ AccOnly s (advance p 2 t) p [n] ∧
      AccTakes s (advance p 2 t) p n true sat (old + prod)) ∧
    (∃ t, exec (.msu p sat n ra rb) s = .next t ∧ PutsInFlight s t p ∧ AccOnly s (advance p 2 t) p [n] ∧
      AccTakes s (advance p 2 t) p n true sat (old - prod)) ∧
    (∃ t, exec (.macr p sat n ra rb) s = .next t ∧ PutsInFlight s t p ∧ AccOnly s (advance p 2 t) p [n] ∧
      ∃ q : Int, let m : Int := 2 ^ bitsOf (s.proc p).cr.toNat 37 32
        AccTakes s (advance p 2 t) p n true sat (q * m) ∧
        2 * (old + prod - q * m) ≤ m ∧ -m ≤ 2 * (old + prod - q * m) ∧
        ((2 * (old + prod - q * m) = m ∨ 2 * (old + prod - q * m) = -m) → m = 1 ∨ q % 2 = 0))) ∧
  (
  ∀ (s : State) (p : Proc) (sat : Bool) (k : Fin 2) (ra rb rc : Fin 16), Quiet s p → isSup p = false →
    let f := fracProd ((s.proc p).cr.getLsbD 38)
    let lo := fun r : Fin 16 => signed 20 (s.getX p r).toNat
    let hi := fun r : Fin 16 => signed 20 ((s.getX p r).toNat / 2 ^ 20)
    let n0 := 2 * k.val
    let n1 := 2 * k.val + 1
    let pair := fun (t : State) (keep : Bool) (x y : Int) => PutsInFlight s t p ∧ AccOnly s (advance p 2 t) p [n0, n1] ∧
      AccTakes s (advance p 2 t) p n0 keep sat ((if keep then accNow s p n0 else 0) + x) ∧
      AccTakes s (advance p 2 t) p n1 keep sat ((if keep then accNow s p n1 else 0) + y)
    let re := f (lo ra) (lo rb) - f (hi ra) (hi rb)
    let im := f (lo ra) (hi rb) + f (hi ra) (lo rb)
    let rej := f (lo ra) (lo rb) + f (hi ra) (hi rb)
    let imj := f (hi ra) (lo rb) - f (lo ra) (hi rb)
    let d0 := f (lo ra) (lo rc) + f (hi ra) (hi rc)
    let d1 := f (lo rb) (lo rc) + f (hi rb) (hi rc)
    (∃ t, exec (.cmul p sat k ra rb) s = .next t ∧ pair t false re im) ∧
    (∃ t, exec (.cmac p sat k ra rb) s = .next t ∧ pair t true re im) ∧
    (∃ t, exec (.cmulj p sat k ra rb) s = .next t ∧ pair t false rej imj) ∧
    (∃ t, exec (.cmacj p sat k ra rb) s = .next t ∧ pair t true rej imj) ∧
    (∃ t, exec (.dmpy p sat k ra rb rc) s = .next t ∧ pair t false d0 d1) ∧
    (∃ t, exec (.dmac p sat k ra rb rc) s = .next t ∧ pair t true d0 d1) ∧
    (∃ t, exec (.mul40 p sat k ra rb) s = .next t ∧ PutsInFlight s t p ∧ AccOnly s (advance p 2 t) p [n0, n1] ∧
      mget 0 (bankNow (advance p 2 t) p).a n0 + 2 ^ 40 * (mget 0 (bankNow (advance p 2 t) p).a n1 % 2 ^ 40) =
        unsigned 80 ((s.getX p ra).toInt * (s.getX p rb).toInt) ∧
      (accNow (advance p 2 t) p n1 < 0 ↔ (s.getX p ra).toInt * (s.getX p rb).toInt < 0)) ∧
    (∃ t, exec (.mul40u p sat k ra rb) s = .next t ∧ PutsInFlight s t p ∧ AccOnly s (advance p 2 t) p [n0, n1] ∧
      mget 0 (bankNow (advance p 2 t) p).a n0 + 2 ^ 40 * mget 0 (bankNow (advance p 2 t) p).a n1 =
        (s.getX p ra).toNat * (s.getX p rb).toNat))

/-- R155, R156, R192: ACLR clears an accumulator, AADD and ASUB add and subtract Xa, AADDA adds another accumulator, ASL
and ASR shift, ANEG negates, each two cycles later, and overflow is judged under R155 but by ACLR and ASR; EXT writes
the accumulator shifted right by k, 0 to 40, rounded to nearest even, clamped with S = 1. Points the rules leave open
are the model's own readings: log entries 20, 21 and 23. -/
def Obligations.AccumulatorOperationsAndExtraction : Prop :=
  ∀ (s : State) (p : Proc) (sat : Bool) (n m : Fin 4) (ra rd : Fin 16) (k : Fin 64), Quiet s p →
    (isSup p = true → n = 0 ∧ m = 0) →
    let does := fun (t : State) (judged sat : Bool) (i : Int) => PutsInFlight s t p ∧ AccOnly s (advance p 2 t) p [n] ∧
      AccTakes s (advance p 2 t) p n judged sat i
    let old := accNow s p n
    (∃ t, exec (.aclr p n) s = .next t ∧ does t false false 0) ∧
    (∃ t, exec (.aadd p sat n ra) s = .next t ∧ does t true sat (old + (s.getX p ra).toInt)) ∧
    (∃ t, exec (.asub p sat n ra) s = .next t ∧ does t true sat (old - (s.getX p ra).toInt)) ∧
    (∃ t, exec (.aadda p sat n m) s = .next t ∧ does t true sat (old + accNow s p m)) ∧
    (k.val < accBits p → (∃ t, exec (.asl p sat n k) s = .next t ∧ does t true sat (old * 2 ^ k.val)) ∧
      ∃ t, exec (.asr p n k) s = .next t ∧ does t false false (old / 2 ^ k.val)) ∧
    (∃ t, exec (.aneg p sat n) s = .next t ∧ does t true sat (-old)) ∧
    (k.val ≤ 40 → ∃ t, exec (.ext p sat rd n k) s = .next t ∧ PutsInFlight s t p ∧
      let u := advance p 2 t
      let w := rangeBits p
      ∃ q : Int, 2 * (old - q * 2 ^ k.val) ≤ 2 ^ k.val ∧ -(2 ^ k.val) ≤ 2 * (old - q * 2 ^ k.val) ∧
        ((2 * (old - q * 2 ^ k.val) = 2 ^ k.val ∨ 2 * (old - q * 2 ^ k.val) = -(2 ^ k.val)) → k.val = 0 ∨ q % 2 = 0) ∧
        (-(2 ^ (w - 1)) ≤ q ∧ q < 2 ^ (w - 1) → (u.getX p rd).toInt = q) ∧
        (¬(-(2 ^ (w - 1)) ≤ q ∧ q < 2 ^ (w - 1)) → sat = true →
          (u.getX p rd).toInt = if q < 0 then -(2 ^ (w - 1)) else 2 ^ (w - 1) - 1) ∧
        (¬(-(2 ^ (w - 1)) ≤ q ∧ q < 2 ^ (w - 1)) → sat = false →
          (u.getX p rd).toInt = signed w (unsigned w q) ∧ (u.sr p).getLsbD (36 + n) = true) ∧
        ∀ j, j ≠ rd.val → u.getX p j = s.getX p j)

/-- R168, R177, R166, R181: RUN resumes a halted processor, HALT stops one at an acceptance point or in a wait, STEP
issues one instruction and halts again; an engine reset stops issue and, once its DMA has ended, leaves every register
of both banks at its reset value and the processor at ENTRY, running where BOOT_RUN asks for it. A wait ends when a
request is pending or its count expires; a reserved encoding is the fault RSV_INSN, which stops the processor with the
cause, the address and the bank in SE_FAULT and reports once. Points the rules leave open are the model's own
readings: log entries 20 and 33. -/
def Obligations.ProcessorsStartStopAndFault : Prop :=
  (
  ∀ (s : State) (p : Proc), s.traced p = false →
    let isolated := isSup p = false ∧ s.tileIsolated p = true
    (s.pstate p = 0 → (s.proc p).eRst = false → ¬isolated → exec (.run p) s = .next (s.setPstate p 1)) ∧
    (s.pstate p = 0 → (s.proc p).eRst = true ∨ isolated → exec (.run p) s = .next s) ∧
    (s.pstate p ≠ 0 → exec (.run p) s = .next s) ∧
    (s.pstate p = 0 ∨ s.pstate p = 5 → exec (.halt p) s = .next s) ∧
    ((s.proc p).fly = [] → (Issuing s p ∨ s.pstate p = 2 ∨ s.pstate p = 3 ∨ s.pstate p = 4) →
      ∃ t, exec (.halt p) s = .next t ∧ t.pstate p = 0 ∧ t.ppc p = s.ppc p ∧ bankNow t p = bankNow s p ∧ t.mem = s.mem) ∧
    (stepAllowed s p = true → (s.proc p).fly = [] → (s.proc p).net = .none → (s.proc p).slots = 0 → (s.proc p).rtf = false →
      s.imemBad p (s.ppc p) = false → s.imemWord p (s.ppc p) = 0 →
      ∃ t, exec (.step p) s = .next t ∧ t.pstate p = 0 ∧ t.ppc p = (s.ppc p + 1) % imemWords p ∧
        bankNow t p = bankNow s p ∧ t.mem = s.mem) ∧
    ((s.proc p).fly = [] → ∃ t, exec (.engineReset p) s = .next t ∧ t.pstate p = 0 ∧ (t.proc p).eRst = true ∧
      bankNow t p = bankNow s p ∧ t.mem = s.mem) ∧
    ((s.proc p).eRst = true → s.fld F.PWR_STAT.STATE (procRegion p) = 0 →
      ∃ t, exec (.engineResetEnd p) s = .next t ∧ t.proc p = {} ∧
        t.ppc p = s.pf p F.SE_BOOT.ENTRY F.SUP_BOOT.ENTRY ∧
        (t.pstate p = 1 ↔ s.pf p F.SE_BOOT.BOOT_RUN F.SUP_BOOT.BOOT_RUN = 1 ∧ (s.proc p).eHold = false ∧
          (isSup p = true ∨ s.tileIsolated p = false)) ∧ t.mem = s.mem)) ∧
  (
  ∀ (s : State) (p : Proc), s.traced p = false → (s.proc p).fly = [] →
    (s.pstate p = 3 → enabledBits s p ≠ 0 → (s.proc p).haltReq = false → (s.proc p).stepping = false →
      exec (.waitiComplete p) s = .next (s.setPstate p 1)) ∧
    (s.pstate p = 3 → enabledBits s p = 0 → exec (.waitiComplete p) s = .next s) ∧
    (s.pstate p = 4 → (s.proc p).haltReq = false → (s.proc p).stepping = false → ∃ t, exec (.waitcExpiry p) s = .next t ∧
      t.pstate p = 1 ∧ t.ppc p = s.ppc p ∧ bankNow t p = bankNow s p ∧ (t.proc p).waitLeft = 0) ∧
    (∀ w v : Word, fetchInsn (isSup p) w v = none → Issuing s p → ∃ t, exec (.reservedInstruction p w v) s = .next t ∧
      t.pstate p = 5 ∧ t.ppc p = s.ppc p ∧ bankNow t p = bankNow s p ∧ t.mem = s.mem ∧
      t.pf p F.SE_FAULT.CAUSE F.SUP_FAULT.CAUSE = 1 ∧ t.pf p F.SE_FAULT.PC F.SUP_FAULT.PC = s.ppc p ∧
      t.pf p F.SE_FAULT.BANK F.SUP_FAULT.BANK = flag (s.inFast p) ∧
      (bitOf (s.pf p F.SE_STATUS.EVT F.SUP_STATUS.EVT) 0 = false → Reports s t (if isSup p then 0x4201 else 0x3301)) ∧
      (bitOf (s.pf p F.SE_STATUS.EVT F.SUP_STATUS.EVT) 0 = true → t.detected = s.detected)))

/-- R164, R166, R193, R173: MFS reads and MTS writes the register of any slot of the processor's own block, as R3 says,
and slot 0 commands the processor itself; one that holds no register reads zero and takes no write; HURDLE takes a
latched release point at once and otherwise waits, HURDLE.N always waits; WAITI waits while no enabled request is
pending and WAITC its count; NOP changes nothing; a supervisor's NLD waits for its response, NST is posted while fewer
than 32 are outstanding, NFENCE waits for those, ECTL commands an engine of its region. Points the rules leave open
are the model's own readings: log entries 18 and 20. -/
def Obligations.SystemInstructionsWaitAndPost : Prop :=
  ∀ (s : State) (p : Proc), Quiet s p →
    let sup := isSup p
    let moved := fun t : State => t.ppc p = (s.ppc p + 1) % imemWords p ∧ bankNow t p = bankNow s p
    (∃ t, exec (.engineNop p) s = .next t ∧ moved t ∧ ProcOnly s t p [pcField p]) ∧
    (∀ (rd : Fin 16) (slot : Fin 64), ∃ t, exec (.mfs p rd slot) s = .next t ∧ t.ppc p = (s.ppc p + 1) % imemWords p ∧
      (∀ q, decodeReg (ownSlot p slot) = some q → t.getX p rd = (readReg s q).lastRead) ∧
      ∀ k, k ≠ rd.val → t.getX p k = s.getX p k) ∧
    (∀ (ra : Fin 16) (slot : Fin 64) q, slot ≠ 0 → decodeReg (ownSlot p slot) = some q →
      exec (.mts p slot ra) s = .next (writeReg (s.setPpc p ((s.ppc p + 1) % imemWords p)) q (s.getX p ra))) ∧
    (∀ ra : Fin 16, ∃ t, exec (.mts p 0 ra) s = .next t ∧ t.ppc p = (s.ppc p + 1) % imemWords p ∧
      t.pstate p = (if (s.getX p ra).getLsbD 2 = true ∨ bitsOf (s.getX p ra).toNat 1 0 = 2 then 0 else 1) ∧
      (t.proc p).eRst = (s.getX p ra).getLsbD 2 ∧ bankNow t p = bankNow s p ∧ t.mem = s.mem) ∧
    (∀ (rd : Fin 16) (slot : Fin 64), decodeReg (ownSlot p slot) = none → ∃ t, exec (.mfs p rd slot) s = .next t ∧
      EndsInCycle s t p (s.ppc p) 1 [rd] ∧ t.getX p rd = 0) ∧
    (∀ (rd : Fin 16) (slot : Fin 64), ownSlot p slot = regAddr (if sup then .SUP_IRQ_EN else .SE_IRQ_EN) (procUnit p) 0 →
      s.rwq = [] → ∃ t, exec (.mfs p rd slot) s = .next t ∧ EndsInCycle s t p (s.ppc p) 1 [rd] ∧
      t.getX p rd = s.reg (if sup then .SUP_IRQ_EN else .SE_IRQ_EN) (procUnit p)) ∧
    (∀ (ra : Fin 16) (slot : Fin 64), decodeReg (ownSlot p slot) = none → ∃ t, exec (.mts p slot ra) s = .next t ∧ moved t ∧
      ProcOnly s t p [pcField p]) ∧
    (∀ (ra : Fin 16) (slot : Fin 64), ownSlot p slot = regAddr (if sup then .SUP_IRQ_EN else .SE_IRQ_EN) (procUnit p) 0 →
      ∃ t, exec (.mts p slot ra) s = .next t ∧ moved t ∧
      t.pf p F.SE_IRQ_EN.EN F.SUP_IRQ_EN.EN = (s.getX p ra).toNat % 2 ^ 32 ∧
      ProcOnly s t p [pcField p, (if sup then F.SUP_IRQ_EN.EN else F.SE_IRQ_EN.EN, procUnit p, 0)]) ∧
    (∀ rd : Fin 16, s.pf p F.SE_STATUS.BP F.SUP_STATUS.BP = 1 → ∃ t, exec (.hurdle p rd) s = .next t ∧
      t.ppc p = (s.ppc p + 1) % imemWords p ∧ t.pstate p = 1 ∧ t.getX p rd = BitVec.ofNat 40 (s.proc p).bpStride ∧
      t.pf p F.SE_STATUS.BP F.SUP_STATUS.BP = 0 ∧ ∀ k, k ≠ rd.val → t.getX p k = s.getX p k) ∧
    (∀ rd : Fin 16, (s.pf p F.SE_STATUS.BP F.SUP_STATUS.BP = 0 → ∃ t, exec (.hurdle p rd) s = .next t ∧
        t.pstate p = 2 ∧ t.ppc p = s.ppc p ∧ bankNow t p = bankNow s p ∧ (t.proc p).hurdleRd = rd) ∧
      ∃ t, exec (.hurdleN p rd) s = .next t ∧ t.pstate p = 2 ∧ t.ppc p = s.ppc p ∧ bankNow t p = bankNow s p ∧
        (t.proc p).hurdleRd = rd ∧ t.pf p F.SE_STATUS.BP F.SUP_STATUS.BP = 0) ∧
    (∃ t, exec (.waiti p) s = .next t ∧ moved t ∧ (t.pstate p = if enabledBits s p = 0 then 3 else 1)) ∧
    (∀ ra : Fin 16, ∃ t, exec (.waitc p ra) s = .next t ∧ moved t ∧
      (t.pstate p = if s.getX p ra = 0 then 1 else 4) ∧ (s.getX p ra ≠ 0 → (t.proc p).waitLeft = (s.getX p ra).toNat)) ∧
    (sup = true →
      (∀ (rd : Fin 16) (a : NetAddr), oneWord (netOperand s p a) = none → ∃ t, exec (.nld p rd a) s = .next t ∧
        t.resps = s.resps ++ [{ isRead := true, dst := procSrcId p, tag := 0, status := stAlign, node := srcPort (procSrcId p) }] ∧ (t.proc p).net = .load rd (netOperand s p a) ∧
        bankNow t p = bankNow s p) ∧
      (∀ (rb : Fin 16) (a : NetAddr), s.fld F.SUP_NSTAT.OUTSTANDING (p - 64) < 32 → oneWord (netOperand s p a) = none →
        ∃ t, exec (.nst p rb a) s = .next t ∧ t.resps = s.resps ++ [{ isRead := false, dst := procSrcId p, tag := 0, status := stAlign, node := srcPort (procSrcId p) }] ∧
        t.fld F.SUP_NSTAT.OUTSTANDING (p - 64) = s.fld F.SUP_NSTAT.OUTSTANDING (p - 64) + 1 ∧ (t.proc p).net = .none ∧
        bankNow t p = bankNow s p) ∧
      (∀ (rb : Fin 16) (a : NetAddr), 32 ≤ s.fld F.SUP_NSTAT.OUTSTANDING (p - 64) → ∃ t, exec (.nst p rb a) s = .next t ∧
        (t.proc p).net = .store (netOperand s p a) (s.getX p rb) ∧ bankNow t p = bankNow s p ∧ ProcOnly s t p [pcField p]) ∧
      (∃ t, exec (.nfence p) s = .next t ∧ moved t ∧ ProcOnly s t p [pcField p] ∧
        (t.proc p).net = if s.fld F.SUP_NSTAT.OUTSTANDING (p - 64) = 0 then .none else .fence) ∧
      (∀ (rd : Fin 16) (a : NetAddr) (sel : BitVec 12), oneWord (netOperand s p a) = some sel.toNat → s.net.waitReq = [] →
        s.net.accepted = [] →
        let u := s.setPpc p ((s.ppc p + (match a with | .reg _ => 1 | .imm40 _ => 2)) % imemWords p)
        ∃ t, exec (.nld p rd a) s = .next t ∧ (t.proc p).net = .load rd (netOperand s p a) ∧ bankNow t p = bankNow s p ∧
          exec (.rd (BitVec.ofNat 8 (procSrcId p)) 0 (BitVec.ofNat 40 (netOperand s p a)) sel)
            (u.setProc p { u.proc p with net := .load rd (netOperand s p a) }) = .next t) ∧
      (∀ (rb : Fin 16) (a : NetAddr) (sel : BitVec 12), oneWord (netOperand s p a) = some sel.toNat → s.net.waitReq = [] →
        s.net.accepted = [] → s.fld F.SUP_NSTAT.OUTSTANDING (p - 64) < 32 →
        let u := s.setPpc p ((s.ppc p + (match a with | .reg _ => 1 | .imm40 _ => 2)) % imemWords p)
        ∃ t v, exec (.nst p rb a) s = .next t ∧ exec (.wr (BitVec.ofNat 8 (procSrcId p)) 0 (BitVec.ofNat 40 (netOperand s p a))
            sel s.time.strideNum [s.getX p rb]) (u.addSat F.SUP_NSTAT.OUTSTANDING (p - 64) 0) = .next v ∧ t = settle v p) ∧
      (∀ (ra : Fin 16) (e : Proc), e.val = 16 * (p - 64) + (s.getX p ra).toNat % 16 →
        let u := s.setPpc p ((s.ppc p + 1) % imemWords p)
        ∃ t₀ t₁ t₂ t₃, exec (.ectl p ra 0) s = .next t₀ ∧ exec (.ectl p ra 1) s = .next t₁ ∧ exec (.ectl p ra 2) s = .next t₂ ∧
          exec (.ectl p ra 3) s = .next t₃ ∧ exec (.run e) u = .next t₀ ∧ exec (.halt e) u = .next t₁ ∧
          exec (.engineReset e) u = .next t₃ ∧ t₂.pstate e = (if stepAllowed s e then 1 else s.pstate e) ∧
          (t₂.proc e).stepping = (stepAllowed s e || (s.proc e).stepping)) ∧
      (∀ ra : Fin 16, let e := 16 * (p - 64) + (s.getX p ra).toNat % 16
        s.pstate e = 0 → (s.proc e).eRst = false → s.traced e = false → s.tileIsolated e = false →
        ∃ t, exec (.ectl p ra 0) s = .next t ∧ moved t ∧ t.pstate e = 1 ∧
          ProcOnly s t p [pcField p, (F.SE_STATUS.STATE, e, 0)]))

/-- R158-R161, R146, R174, R178: An accepted normal interrupt saves the next address in IRA and SR in ISR, clears IE and
goes on at VBASE + 8 × source; a FAST one saves the address in FRA and switches to the shadow bank; both clear the
pending bit of an edge source. A doorbell stores its value and raises its source, and the gun action IRQ raises source
18 with its class. Instruction memory is written only while the processor is HALTED or in FAULT, and SE_DBG_DATA
reaches the selected register only then; a watchdog's kick restarts its count, and its warning raises source 28 once.
Points the rules leave open are the model's own readings: log entry 22. -/
def Obligations.InterruptsAndDebugAccess : Prop :=
  (
  ∀ (s : State) (p : Proc), s.traced p = false → (s.proc p).fly = [] →
    let asks := fun k : Nat => bitOf (enabledBits s p) k
    let fast := fun k : Nat => fastClass s p k
    let sr := (s.proc p).main.sr
    let handler := fun b : Nat => (s.pf p F.SE_BOOT.VBASE F.SUP_BOOT.VBASE / 8 * 8 + 8 * b) % imemWords p
    let edge := fun t : State => t.pf p F.SE_IRQ_PEND.EDGE F.SUP_IRQ_PEND.EDGE
    (∀ b, b < 32 → acceptPoint s p = true → s.inFast p = false → sr.getLsbD 30 = true → asks b = true → fast b = false →
      (∀ k, k < b → asks k = true → fast k = true) → (sr.getLsbD 28 = true → ∀ k, k < 32 → asks k = true → fast k = false) →
      ∃ t, exec (.normalInterrupt p) s = .next t ∧ (t.proc p).ira = s.ppc p ∧ (t.proc p).isr = sr ∧
        (∀ i, i < 40 → (t.proc p).main.sr.getLsbD i = (sr.getLsbD i && i != 30)) ∧
        (t.proc p).main.x = (s.proc p).main.x ∧ (t.proc p).shadow = (s.proc p).shadow ∧ t.inFast p = false ∧
        t.ppc p = handler b ∧ t.pstate p = 1 ∧
        (∀ k, k < 16 → bitOf (edge t) k = (bitOf (edge s) k && decide (16 + k ≠ b)))) ∧
    (∀ b, b < 32 → acceptPoint s p = true → s.inFast p = false → sr.getLsbD 28 = true → asks b = true → fast b = true →
      (∀ k, k < b → asks k = true → fast k = false) →
      ∃ t, exec (.fastInterrupt p) s = .next t ∧ (t.proc p).fra = s.ppc p ∧ (t.proc p).main = (s.proc p).main ∧
        (t.proc p).shadow = (s.proc p).shadow ∧ t.inFast p = true ∧ t.ppc p = handler b ∧ t.pstate p = 1 ∧
        (∀ k, k < 16 → bitOf (edge t) k = (bitOf (edge s) k && decide (16 + k ≠ b)))) ∧
    (∀ v : Word, ∃ t, exec (.doorbell p v) s = .next t ∧
      t.reg (if isSup p then .SUP_DOORBELL else .SE_DOORBELL) (procUnit p) = v ∧ edge t = edge s ||| 8 ∧
      t.procs = s.procs ∧ t.mem = s.mem ∧
      (isSup p = true → bitOf (t.fld F.PWR_WAKE_PEND.PEND (p - 64)) 7 = true)) ∧
    (∀ fastNow, ∃ t, exec (.gunIrq p fastNow) s = .next t ∧ edge t = edge s ||| 4 ∧ (t.proc p).gunFast = fastNow ∧
      ProcOnly s t p [(if isSup p then F.SUP_IRQ_PEND.EDGE else F.SE_IRQ_PEND.EDGE, procUnit p, 0)])) ∧
  (
  ∀ (s : State) (p : Proc) (w : Word),
    let idle := s.pstate p = 0 ∨ s.pstate p = 5
    (∀ a, idle → ∃ t, exec (.seImemWrite p a w) s = .next t ∧ t.imemWord p a = w ∧ t.imemBad p a = false ∧
      KeepsRegs s t [regAddr (imemReg p) (procUnit p) (a % imemWords p)] ∧
      t = { s with regs := t.regs, imemPar := t.imemPar }) ∧
    (∀ a, ¬idle → exec (.seImemWrite p a w) s = .next s) ∧
    (¬idle → exec (.seDbgDataAccess p true w) s = .next s ∧ exec (.seDbgDataAccess p false w) s = .next { s with lastRead := 0 }) ∧
    (idle → dbgCode s p < 16 →
      (∃ t, exec (.seDbgDataAccess p true w) s = .next t ∧
        ((t.proc p).bank (dbgBank s p)).getX (dbgCode s p) = w ∧
        (∀ k, k ≠ dbgCode s p → ((t.proc p).bank (dbgBank s p)).getX k = ((s.proc p).bank (dbgBank s p)).getX k) ∧
        ProcOnly s t p []) ∧
      exec (.seDbgDataAccess p false w) s = .next { s with lastRead := ((s.proc p).bank (dbgBank s p)).getX (dbgCode s p) }) ∧
    (∀ r : Region, (∃ t, exec (.wdogKick r) s = .next t ∧ (t.proc (64 + r)).warned = false ∧ ProcOnly s t (64 + r) []) ∧
      (wdogCounts s r = true → (s.proc (64 + r)).warned = false → ∃ t, exec (.wdogWarning r) s = .next t ∧
        (t.proc (64 + r)).warned = true ∧ bitOf (t.fld F.SUP_IRQ_PEND.EDGE r) 12 = true ∧
        ProcOnly s t (64 + r) [(F.SUP_IRQ_PEND.EDGE, r, 0)])))

/-- R169, R171: GO starts a chain on an idle channel, DMAGO does the same from Xa, and either is refused on a busy one; a
descriptor that completes is written back with DONE, its status and its count, and chains or ends; a status other than
OK stops the channel with ERR and raises its source; ABORT writes back ABORTED. Points the rules leave open are the
model's own readings: log entry 39. -/
def Obligations.DmaChannelsRunDescriptorChains : Prop :=
  ∀ (s : State) (p : Proc) (ch : Fin 4), (isSup p = true → ch.val < 2) →
    let busy := fun t : State => t.pf p F.SE_DMA_STAT.BUSY F.SUP_DMA_STAT.BUSY ch
    let cur := fun t : State => t.pf p F.SE_DMA_STAT.CUR F.SUP_DMA_STAT.CUR ch
    let status := fun t : State => t.pf p F.SE_DMA_STAT.STATUS F.SUP_DMA_STAT.STATUS ch
    let a := cur s
    let d := (readDesc s p a).1
    let back := fun (t : State) (st n : Nat) => a % 4 = 0 → a + 4 ≤ dmemWords p →
      let w0 := (t.dmemRead p a).1.1
      let w2 := (t.dmemRead p (a + 2)).1.1
      w0.getLsbD 39 = true ∧ bitsOf w0.toNat 34 31 = st ∧ bitsOf w0.toNat 38 35 = bitsOf d.w0.toNat 38 35 ∧
        bitsOf w2.toNat 39 22 = n ∧ bitsOf w2.toNat 21 0 = bitsOf d.w2.toNat 21 0
    (∀ addr : BitVec 17, busy s = 0 → (isSup p = true → addr.toNat < 2 ^ 16) → ∃ t, exec (.dmaGo p ch addr) s = .next t ∧
      busy t = 1 ∧ cur t = addr.toNat / 4 * 4 ∧ t = { s with regs := t.regs }) ∧
    (∀ addr : BitVec 17, busy s = 1 → ∃ t, exec (.dmaGo p ch addr) s = .next t ∧ busy t = 1 ∧ cur t = cur s ∧
      t.pf p F.SE_DMA_STAT.REFUSED F.SUP_DMA_STAT.REFUSED ch = 1 ∧ t = { s with regs := t.regs }) ∧
    (∀ ra : Fin 16, Quiet s p → busy s = 0 → ∃ t, exec (.dmago p ra ch) s = .next t ∧ busy t = 1 ∧
      cur t = (s.getX p ra).toNat % 2 ^ ptrBits p / 4 * 4 ∧ t.ppc p = (s.ppc p + 1) % imemWords p ∧
      bankNow t p = bankNow s p) ∧
    ((∀ x, mget 0 s.memErr x = 0) → (isSup p = true ∨ spdMarching s p = false) → busy s = 1 → (s.proc p).dmaInj = [] →
      (s.proc p).dmaRun = [] → (s.proc p).aborts = [] →
      (∀ stamps, d.bad = false → d.len = 0 → ∃ t, exec (.dmaDescriptorComplete p ch stamps) s = .next t ∧ back t stOk 0 ∧
        status t = stOk ∧ (busy t = if d.chain then 1 else 0) ∧ (d.chain = true → d.next < dmemWords p → cur t = d.next) ∧
        (bitOf (t.pf p F.SE_IRQ_PEND.EDGE F.SUP_IRQ_PEND.EDGE) 0 =
          (d.irq || bitOf (s.pf p F.SE_IRQ_PEND.EDGE F.SUP_IRQ_PEND.EDGE) 0))) ∧
      (∀ stamps, d.bad = true → ∃ t, exec (.dmaDescriptorComplete p ch stamps) s = .next t ∧ back t stBadDesc 0 ∧
        status t = stBadDesc ∧ busy t = 0 ∧ t.pf p F.SE_DMA_STAT.ERR F.SUP_DMA_STAT.ERR ch = 1 ∧
        bitOf (t.pf p F.SE_IRQ_PEND.EDGE F.SUP_IRQ_PEND.EDGE) 1 = true) ∧
      (∀ stamps word, d.bad = false → d.dir = 0 → d.len = 1 → oneWord d.w1.toNat = some word → d.saddr < dmemWords p →
        (d.saddr < a ∨ a + 4 ≤ d.saddr) → a % 4 = 0 → a + 4 ≤ dmemWords p →
        let go := access s { op := 0, src := procSrcId p, tag := 0x8000 + ch.val, addr := d.w1.toNat, sel := word,
                             stride := stamps.headD s.time.strideNum }
        go.1 = some stOk → (∀ x, mget 0 go.2.2.memErr x = 0) → (isSup p = true ∨ spdMarching go.2.2 p = false) →
          (go.2.2.proc p).dmaInj = [] → ∃ t, exec (.dmaDescriptorComplete p ch stamps) s = .next t ∧ back t stOk 1 ∧
          status t = stOk ∧ (t.dmemRead p d.saddr).1.1 = go.2.1.headD 0) ∧
      (∃ t, exec (.dmaAbort p ch 0) s = .next t ∧ (d.bad = false → back t 12 0) ∧ status t = 12 ∧ busy t = 0 ∧
        t.pf p F.SE_DMA_STAT.ERR F.SUP_DMA_STAT.ERR ch = 1))

/-- R79, R104, R14, R53, R84, R91, R467: In a scheduled step every box output of a tile that executes takes the OR of the
sources its select names, all read as they were at the start of the step, and an output that selects none becomes
zero. A boundary makes the words committed whose dirty flag is set and whose domain was enabled, clears the flags,
writes back the corrections that wait, applies the pending RWQ values and opens the next stride; a FRZ_END stops the
strides there; the boundary that opens a start executes the stride chosen, discards shadows, commits nothing and gives
the number of strides missed. Points the rules leave open are the model's own readings: log entry 11. -/
def Obligations.StepsAndBoundariesRunTheStrides : Prop :=
  (
  ∀ (s : State) (dt : Nat), s.time.running = true → s.frz.nowReq = false → (s.frz.endReq = true → s.time.step ≠ 0) →
    s.time.step < s.stepsS → s.time.step < 2048 → ∃ t, exec (.scheduledStep dt) s = .next t ∧ t.time.step = s.time.step + 1 ∧ t.time.strideNum = s.time.strideNum ∧
      t.time.now = s.time.now ∧
      ∀ cl o, cl < 1024 → o < 29 → s.tileRuns (cl / 16) = true → bitOf (s.selAt cl s.time.step o) 29 = false → ∀ b, b < 40 →
        (mget 0 t.fab.out (32 * cl + o)).getLsbD b =
          (List.range 32).any (fun i => bitOf (s.selAt cl s.time.step o) i &&
            (s.boxSource cl (s.coWord cl s.time.step) 0 i).getLsbD b)) ∧
  (
  ∀ (s : State) (dt : Nat) (lands driven : BitVec 64), s.guns = [] → s.zones = [] → s.mode = .run →
    (s.time.running = true → s.frz.nowReq = false → s.time.step = s.stepsS → s.stepsS ≠ 0 →
      (s.fab.dirty.map Prod.fst).Nodup →
      ∃ t, exec (.strideBoundary dt lands driven) s = .next t ∧
        t.time.strideNum = (s.time.strideNum + 1) % 2 ^ 80 ∧ t.time.step = 0 ∧ t.time.lastExec = some s.time.strideNum ∧
        t.time.running = !s.frz.endReq ∧ t.rwq = [] ∧
        (s.fab.fixes = [] → t.fab.dmem = s.fab.dmem) ∧
        (∀ k, s.tileRuns (k / 1024 / 1024) = true → (∀ v, (k, v) ∉ t.fab.dirty) ∧
          mget false t.fab.role k = (mget false s.fab.role k !=
            (s.fab.dirty.any (fun e => e.1 == k) && s.cellCommits (k / 1024) s.time.strideNum)))) ∧
    (∀ q, s.time.start = some q → s.time.running = false → s.frz.nowReq = false → s.frz.endReq = false →
      ∃ t, exec (.firstBoundary dt lands driven) s = .next t ∧ t.time.strideNum = q.first ∧ t.time.step = 0 ∧
        t.time.missed = (match s.time.lastExec with | some k => q.first - k - 1 | none => q.first) ∧
        t.time.running = true ∧ t.time.start = none ∧ t.rwq = [] ∧ t.fab.dirty = [] ∧ t.fab.role = s.fab.role ∧
        t.fab.dmem = s.fab.dmem))

/-- R33, R59-R61, R62-R67, R158: A whole push of a valid entry whose time has not come enters the queue in gun-time order
behind entries of equal time; one whose gun time is not later than device time fires at once where its unit can fire
it, and is logged; the seventeenth entry of a unit is refused and reported as GUN_FULL; a malformed push is counted;
CANCEL removes the entries of its unit with its TAG and logs them and itself. The first due action of a unit that runs
fires once, leaves the queue and is logged with its class, index, action and tag: REASON OK and no lateness within the
quantum, PAST with its lateness, the LATE counter and a record when it arrived past its time; a unit that sleeps gets
its wake request ahead of the action; a LAUNCH packet has the effect of the action it names. Points the rules leave
open are the model's own readings: log entries 31 and 32. -/
def Obligations.GunEntriesQueueFireAndAreLogged : Prop :=
  (
  ∀ (s : State) (r : Region) (s0 s1 s2 s3 : Word) (dt : Nat),
    let cls := bitsOf s0.toNat 39 36
    let index := bitsOf s0.toNat 35 30
    let action := bitsOf s0.toNat 29 24
    let time := s1.toNat * unitsPerSec + s2.toNat
    let o := s.atPhase dt
    let e : GunEntry := { region := r, cls := cls, index := index, action := action, tag := bitsOf s0.toNat 23 0
                          time := time, arg := s3, past := decide (time ≤ s.nowAt dt) }
    let valid := index < gunUnits cls ∧ gunAction cls action = true ∧ s2.toNat / 1024 ≤ 999999999
    let mine := s.guns.filter (fun f => f.region == r.val && f.cls == cls && f.index == index)
    let go := exec (.gunPush r s0 s1 s2 s3 true dt) s
    exec (.gunPush r s0 s1 s2 s3 false dt) s = .next (o.addSat F.TIM_GUN_STAT.BAD_PUSH r 0) ∧
    (¬valid → go = .next (o.addSat F.TIM_GUN_STAT.BAD_PUSH r 0)) ∧
    (valid → action ≠ 0x3F → mine.length < 16 → s.nowAt dt < time → unitDepth o e = 0 →
      s.guns.Pairwise (fun f g => f.time ≤ g.time) →
      ∃ l m, s.guns = l ++ m ∧ (∀ f ∈ l, f.time ≤ time) ∧ (∀ f ∈ m, time < f.time) ∧ go = .next { o with guns := l ++ e :: m }) ∧
    (valid → action ≠ 0x3F → time ≤ s.nowAt dt → e.atBoundary = false → unitReady o e = true → (∀ f ∈ mine, time < f.time) →
      ∃ t, go = .next t ∧ t.guns = s.guns ∧ t.fld F.TIM_LOG_HEAD.IDX r = (s.fld F.TIM_LOG_HEAD.IDX r + 1) % 64 ∧
        (bitsOf (t.reg .TIM_LOG r (4 * s.fld F.TIM_LOG_HEAD.IDX r + 1)).toNat 39 36 = 1 ∨
          bitsOf (t.reg .TIM_LOG r (4 * s.fld F.TIM_LOG_HEAD.IDX r + 1)).toNat 39 36 = 8)) ∧
    (valid → action ≠ 0x3F → 16 ≤ mine.length → s.nowAt dt < time → ∃ t, go = .next t ∧ t.guns = s.guns ∧
      Reports s t 0x4102 ∧ t = { o with regs := t.regs, detected := t.detected } ∧
      t.regs = (s.addSat F.TIM_GUN_STAT.FULL r 0).regs) ∧
    (∀ (c : BitVec 4) (ix : BitVec 6) (tag : BitVec 24), ix.toNat < gunUnits c.toNat → s2.toNat / 1024 ≤ 999999999 →
      let hit := fun f : GunEntry => f.region == r.val && f.cls == c.toNat && f.index == ix.toNat && f.tag == tag.toNat
      ∃ t, exec (.cancel r c ix tag s2 dt) s = .next t ∧ t.guns = s.guns.filter (fun f => !hit f) ∧
        t.fld F.TIM_LOG_HEAD.IDX r = (s.fld F.TIM_LOG_HEAD.IDX r + (s.guns.filter hit).length + 1) % 64 ∧
        t = { o with regs := t.regs, guns := t.guns })) ∧
  (
  ∀ (s : State) (r : Region) (ix : BitVec 6) (e : GunEntry), ix.toNat < 16 →
    s.guns.find? (fun f => f.region == r.val && f.cls == 4 && f.index == ix.toNat) = some e →
    e.action = 0x30 → e.tag < 2 ^ 24 →
    let p := 16 * r.val + ix.toNat
    let head := s.fld F.TIM_LOG_HEAD.IDX r
    let fires := fun (t : State) (reason late : Nat) => t.guns = s.guns.erase e ∧
      t.pf p F.SE_IRQ_PEND.EDGE F.SUP_IRQ_PEND.EDGE = s.pf p F.SE_IRQ_PEND.EDGE F.SUP_IRQ_PEND.EDGE ||| 4 ∧
      (t.proc p).gunFast = bitOf e.arg.toNat 0 ∧ t.fld F.TIM_LOG_HEAD.IDX r = (head + 1) % 64 ∧
      (t.reg .TIM_LOG r (4 * head)).toNat = 4 * 2 ^ 36 + ix.toNat * 2 ^ 30 + 0x30 * 2 ^ 24 + e.tag ∧
      bitsOf (t.reg .TIM_LOG r (4 * head + 1)).toNat 39 36 = reason ∧
      (t.reg .TIM_LOG r (4 * head + 3)).toNat = late ∧ t.mem = s.mem
    (∀ dt at_, at_ = (s.time.now + dt) % timeSpan → e.time ≤ at_ → unitReady s e = true →
      (e.past = false → e.stepped = false → e.woken = false → e.waited = false → 3 * (at_ - e.time) ≤ 2560 →
        ∃ t, exec (.gunFire r 4 ix dt) s = .next t ∧ fires t 0 0 ∧ t.detected = s.detected ∧
          t.fld F.TIM_GUN_STAT.LATE r = s.fld F.TIM_GUN_STAT.LATE r) ∧
      (e.past = true → e.stepped = false → e.woken = false → e.waited = false → 2560 < 3 * (at_ - e.time) →
        at_ - e.time < 2 ^ 40 → ∃ t, exec (.gunFire r 4 ix dt) s = .next t ∧ fires t 1 (at_ - e.time) ∧ Reports s t 0x4101 ∧
          (s.fld F.TIM_GUN_STAT.LATE r < 2 ^ 24 - 1 → t.fld F.TIM_GUN_STAT.LATE r = s.fld F.TIM_GUN_STAT.LATE r + 1))) ∧
    (regionDepth s r ≠ 0 → e.time ≤ s.instant + resumeLatency (regionDepth s r) + s.fld F.TIM_WAKE_GUARD.NS r * 1024 →
      ∃ t, exec (.gunWake r 4 ix) s = .next t ∧ bitOf (t.fld F.PWR_WAKE_PEND.PEND r) 0 = true ∧
        (s.pdir r = 0 → t.pdir r = 2 ∧ t.fld F.PWR_WAKE_PEND.LAST r = 0)) ∧
    (∀ (l : Lane) (arg : Word) stamp, let q : Region := ⟨l.val / 12, by omega⟩
      let k := BitVec.ofNat 6 (l.val % 12)
      let u := travelCtl s 0x14 (2 * (16 * q.val + 13) + 1) (2 * laneTile l)
      ∃ t₁ t₂ t₃ t₄ t₅ t₆ t₇, exec (.launch q 1 k 1 arg stamp) s = .next t₁ ∧ exec (.patStart l arg) u = .next t₁ ∧
        exec (.launch q 1 k 2 arg stamp) s = .next t₂ ∧ exec (.patStop l) u = .next t₂ ∧
        exec (.launch q 1 k 3 arg stamp) s = .next t₃ ∧ exec (.txMute l) u = .next t₃ ∧
        exec (.launch q 1 k 4 arg stamp) s = .next t₄ ∧ exec (.txUnmute l) u = .next t₄ ∧
        exec (.launch q 1 k 5 arg stamp) s = .next t₅ ∧ exec (.inject l arg) u = .next t₅ ∧
        exec (.launch q 1 k 6 arg stamp) s = .next t₆ ∧ exec (.rxqStart l) u = .next t₆ ∧
        exec (.launch q 1 k 7 arg stamp) s = .next t₇ ∧ exec (.rxqStop l) u = .next t₇) ∧
    (∀ (c : Fin 16) (arg : Word), let k := BitVec.ofNat 6 c.val
      let u := travelCtl s 0x14 (2 * (16 * r.val + 13) + 1) (2 * (16 * r.val + 12) + 1)
      ∃ t₁ t₂ t₃ t₄ t₅, exec (.launch r 2 k 0x10 arg s.instant) s = .next t₁ ∧
        exec (.heatArm r c (some (bitOf arg.toNat 0))) u = .next t₁ ∧
        exec (.launch r 2 k 0x11 (arg &&& ~~~1#40) s.instant) s = .next t₂ ∧ exec (.heatDisarm r c) u = .next t₂ ∧
        exec (.launch r 2 k 0x11 (arg ||| 1#40) s.instant) s = .next t₃ ∧ exec (.heatFinish r c) u = .next t₃ ∧
        exec (.launch r 2 k 0x12 arg s.instant) s = .next t₄ ∧ exec (.heatForce r c) u = .next t₄ ∧
        exec (.launch r 6 0 0x38 arg s.instant) s = .next t₅ ∧
        exec (.gunEvent r (BitVec.extractLsb' 0 2 arg).toFin s.instant) u = .next t₅) ∧
    (∀ (arg : Word) stamp (h : 16 * r.val + ix.toNat < 68),
      let u := travelCtl s 0x14 (2 * (16 * r.val + 13) + 1) (2 * p)
      ∃ t w v, exec (.launch r 4 ix 0x30 arg stamp) s = .next t ∧ exec (.launch r 4 ix 0x31 arg stamp) s = .next w ∧
        exec (.launch r 4 ix 0x32 arg stamp) s = .next v ∧
        exec (.gunIrq ⟨16 * r.val + ix.toNat, h⟩ (bitOf arg.toNat 0)) u = .next t ∧
        exec (.run ⟨16 * r.val + ix.toNat, h⟩) u = .next w ∧ exec (.halt ⟨16 * r.val + ix.toNat, h⟩) u = .next v))

/-- R210, R213, R243, R248, R218, R220, R224, R226, R229, R236, R244: A write of EN = 1 is refused with CFG_ERR at a rate
and mode that are not available; otherwise the lane takes the epoch for its grid, starts a new element count and
begins its acquisition; EN = 0 turns it off with its land idle and its locks lost, and the heat channels that read it
are disarmed. The phases of an acquisition set the group's rail, the PLL's lock, the running transmitter, the signal
with its gain, the CDR's lock with its offset where that lies in its range and the settled equaliser with its error,
in that order; in RAW40 the decoder is aligned with the CDR; a decoder or checker that has met its lock condition sets
ALIGN or CHK_LOCK. Points the rules leave open are the model's own readings: log entries 5 and 25. -/
def Obligations.LanesEnableAndAcquireTheirLocks : Prop :=
  (
  ∀ (s : State) (l : Lane) (w : Word), s.mode = .run →
    let f := fun (t : State) (g : Fld) => t.lf l g
    (f s F.LN_CTRL.EN = 0 → rateOk s l = false → w.getLsbD 28 = false → ∃ t, exec (.laneEnable l w) s = .next t ∧
      f t F.LN_STATUS.CFG_ERR = 1 ∧ f t F.LN_CTRL.EN = 0) ∧
    (f s F.LN_CTRL.EN = 0 → rateOk s l = true → f s F.LN_STATUS.PSTATE = 0 → w.getLsbD 28 = false →
      (s.pw (l.val / 12)).lanes = 0 → s.fld F.PWR_LANE.TARGET (l.val / 12) = 0 → ∃ t, exec (.laneEnable l w) s = .next t ∧
      f t F.LN_CTRL.EN = 1 ∧ f t F.LN_STATUS.PSTATE = 1 ∧ (t.lane l).epochE = s.epochReg ∧ (t.lane l).cnt = 0 ∧
      (t.lane l).tap = f s F.LN_RX_CFG.TAP ∧ (t.lane l).txPlus = false ∧
      (t.lane l).phase = (if f s F.LN_STATUS.GRP_ON = 0 then 1 else if f s F.LN_STATUS.PLL_LOCK = 0 then 2 else 3) ∧
      f t F.LN_CTRL.TX_SRC = bitsOf w.toNat 33 32 ∧ f t F.LN_CTRL.MUTE = bitsOf w.toNat 31 31 ∧ t.mem = s.mem) ∧
    (f s F.LN_CTRL.EN = 1 → f s F.LN_STATUS.PSTATE ≠ 0 → ∃ t, exec (.laneDisable l) s = .next t ∧ f t F.LN_CTRL.EN = 0 ∧ f t F.LN_STATUS.PSTATE = 0 ∧
      f t F.LN_STATUS.PLL_LOCK = 0 ∧ f t F.LN_STATUS.CDR_LOCK = 0 ∧ f t F.LN_STATUS.ALIGN = 0 ∧ f t F.LN_STATUS.SIG = 0 ∧
      (t.lane l).txIdle = true ∧ (t.lane l).txOut = [] ∧ (∀ c ∈ laneChannels s l, t.chState (l.val / 12) c = 0)) ∧
    (f s F.LN_CTRL.EN = 0 → exec (.laneDisable l) s = .next s)) ∧
  (
  ∀ (s : State) (l : Lane) (agc : BitVec 8) (freq mse : BitVec 16), s.laneOn l = true →
    (s.lane l).pllInj = false → (s.lane l).cdrInj = false →
    let go := fun t => exec (.acquisitionPhaseDone l agc freq mse) s = .next t
    let f := fun (t : State) (g : Fld) => t.lf l g
    ((s.lane l).phase = 1 → ∃ t, go t ∧ (t.lane l).phase = 2 ∧ (∀ k, k / 4 = l.val / 4 → t.lf k F.LN_STATUS.GRP_ON = 1)) ∧
    ((s.lane l).phase = 2 → ∃ t, go t ∧ (t.lane l).phase = 3 ∧ f t F.LN_STATUS.PLL_LOCK = 1 ∧
      LaneOnly s t l [F.LN_STATUS.PLL_LOCK]) ∧
    ((s.lane l).phase = 3 → ∃ t, go t ∧ (t.lane l).phase = 4 ∧ (t.lane l).txIdle = (f s F.LN_CTRL.MUTE == 1) ∧
      LaneOnly s t l []) ∧
    ((s.lane l).phase = 4 → (s.lane l).origin ≠ 2 → ∃ t, go t ∧ (t.lane l).phase = 5 ∧ f t F.LN_STATUS.SIG = 1 ∧
      f t F.LN_EQ_STAT.AGC = agc.toNat ∧ LaneOnly s t l [F.LN_STATUS.SIG, F.LN_EQ_STAT.AGC]) ∧
    let locks := (if f s F.LN_RX_CFG.SSC = 1 then -21200 else -1200) ≤ freq.toInt ∧ freq.toInt ≤ 1200
    ((s.lane l).phase = 5 → ¬locks → go s) ∧
    ((s.lane l).phase = 5 → locks → ∃ t, go t ∧ (t.lane l).phase = 6 ∧ f t F.LN_STATUS.CDR_LOCK = 1 ∧
      f t F.LN_EQ_STAT.FREQ = freq.toNat ∧ (f s F.LN_PCS.MODE = 0 → f t F.LN_STATUS.ALIGN = 1) ∧
      (f s F.LN_PCS.MODE ≠ 0 → f t F.LN_STATUS.ALIGN = f s F.LN_STATUS.ALIGN)) ∧
    ((s.lane l).phase = 6 → ∃ t, go t ∧ (t.lane l).phase = (if f s F.LN_STATUS.ALIGN = 1 then 8 else 7) ∧
      f t F.LN_STATUS.ADAPT_DONE = 1 ∧ f t F.LN_EQ_STAT.MSE = mse.toNat ∧ (f s F.LN_RX_CFG.ADAPT ≠ 0 →
        LaneOnly s t l [F.LN_STATUS.ADAPT_DONE, F.LN_EQ_STAT.MSE])) ∧
    ((s.lane l).phase = 7 → f s F.LN_STATUS.ALIGN = 1 → ∃ t, go t ∧ (t.lane l).phase = 8 ∧ LaneOnly s t l []) ∧
    ((s.lane l).lockDue = true → f s F.LN_STATUS.ALIGN = 0 → f s F.LN_STATUS.CDR_LOCK = 1 →
      ∃ t, exec (.pcsAlignLock l) s = .next t ∧ f t F.LN_STATUS.ALIGN = 1 ∧ (t.lane l).lockDue = false ∧
        LaneOnly s t l [F.LN_STATUS.ALIGN]) ∧
    ((s.lane l).chkDue = true → f s F.LN_STATUS.CHK_LOCK = 0 → ∃ t, exec (.checkerLock l) s = .next t ∧
      f t F.LN_STATUS.CHK_LOCK = 1 ∧ (t.lane l).chkDue = false ∧ LaneOnly s t l [F.LN_STATUS.CHK_LOCK]))

/-- R218, R224, R236, R244-R246: a lane loses its signal, its CDR or PLL lock, its alignment or its checker lock, or
relocks late: the status bit changes, the event bit sets, and the first while that bit is clear issues a record;
without the lock there is nothing to lose. Points the rules leave open are the model's own readings: log entry 5. -/
def Obligations.LaneLossesReportOnce : Prop :=
  ∀ (s : State) (l : Lane),
    let f := fun (t : State) (g : Fld) => t.lf l g
    (f s F.LN_RX_CFG.LOS_THR ≠ 0 → f s F.LN_STATUS.SIG = 1 → ∃ t, exec (.lossOfSignal l) s = .next t ∧
      f t F.LN_STATUS.SIG = 0 ∧ f t F.LN_STATUS.CDR_LOCK = 0 ∧ (f s F.LN_STATUS.CDR_LOCK = 1 → LaneReports s t l 1) ∧
      LaneOnly s t l [F.LN_STATUS.SIG, F.LN_STATUS.CDR_LOCK, F.LN_STATUS.ALIGN, F.LN_STATUS.EVT]) ∧
    (f s F.LN_RX_CFG.LOS_THR = 0 ∨ f s F.LN_STATUS.SIG = 0 → exec (.lossOfSignal l) s = .next s) ∧
    (f s F.LN_STATUS.CDR_LOCK = 1 → ∃ t, exec (.lnCdrLoss l) s = .next t ∧ f t F.LN_STATUS.CDR_LOCK = 0 ∧
      (f s F.LN_PCS.MODE = 0 → f t F.LN_STATUS.ALIGN = 0) ∧ LaneReports s t l 1 ∧
      LaneOnly s t l [F.LN_STATUS.CDR_LOCK, F.LN_STATUS.ALIGN, F.LN_STATUS.EVT]) ∧
    (f s F.LN_STATUS.CDR_LOCK = 0 → exec (.lnCdrLoss l) s = .next s) ∧
    (s.laneOn l = true → f s F.LN_STATUS.PLL_LOCK = 1 → ∃ t, exec (.lnPllLoss l) s = .next t ∧
      f t F.LN_STATUS.PLL_LOCK = 0 ∧ (t.lane l).txIdle = true ∧ (t.lane l).phase = 2 ∧ LaneReports s t l 0 ∧
      LaneOnly s t l [F.LN_STATUS.PLL_LOCK, F.LN_STATUS.EVT]) ∧
    ((s.lane l).lossDue = true → f s F.LN_STATUS.ALIGN = 1 → ∃ t, exec (.lnAlignLoss l) s = .next t ∧
      f t F.LN_STATUS.ALIGN = 0 ∧ f t F.LN_PCS_CNT.LOSSES = Nat.min (f s F.LN_PCS_CNT.LOSSES + 1) 1023 ∧
      LaneReports s t l 2 ∧ LaneOnly s t l [F.LN_STATUS.ALIGN, F.LN_PCS_CNT.LOSSES, F.LN_STATUS.EVT]) ∧
    ((s.lane l).chkLoss = true → f s F.LN_STATUS.CHK_LOCK = 1 → ∃ t, exec (.lnChkLoss l) s = .next t ∧
      f t F.LN_STATUS.CHK_LOCK = 0 ∧ LaneReports s t l 4 ∧ LaneOnly s t l [F.LN_STATUS.CHK_LOCK, F.LN_STATUS.EVT]) ∧
    ((s.lane l).waking = true → (s.lane l).wakeLate = false → (s.lane l).phase < 4 ∨ f s F.LN_STATUS.ALIGN = 0 →
      ∃ t, exec (.lnRelockLate l) s = .next t ∧ f t F.LN_STATUS.RELOCK_LATE = 1 ∧
      (t.lane l).waking = decide ((s.lane l).phase < 4) ∧ LaneReports s t l 5 ∧
      LaneOnly s t l [F.LN_STATUS.RELOCK_LATE, F.LN_STATUS.EVT]) ∧
    ((s.lane l).waking = true → 4 ≤ (s.lane l).phase → f s F.LN_STATUS.ALIGN = 1 → exec (.lnRelockLate l) s =
      .next (s.setLane l { s.lane l with waking := false, wakeLate := false }))

/-- R214-R217, R231, R232, R237-R239, R242: the transmit source changes and restarts its generators, PAT_START restarts
them always; MUTE and FEED take the gun's value; a loop other than the one in force drops the CDR's lock and 0b11 is
ignored; a transmit equaliser beyond its limits is refused; a unit of RAW40 fill leaves the land with bit 0 first; an
injection sequence counts its events down, each falling PERIOD units after the one before. Points the rules leave open
are the model's own readings: log entry 29. -/
def Obligations.LanesTransmitAndInject : Prop :=
  ∀ (s : State) (l : Lane),
    let f := fun (t : State) (g : Fld) => t.lf l g
    let fresh := { s.lane l with txPrbs := none, txPos := 0, txPlus := false, txFec := [], txFecIx := 0 }
    (∀ src : BitVec 2, src.toNat ≠ f s F.LN_CTRL.TX_SRC → ∃ t, exec (.txSrcWrite l src) s = .next t ∧
      f t F.LN_CTRL.TX_SRC = src.toNat ∧ t.lane l = fresh ∧ LaneOnly s t l [F.LN_CTRL.TX_SRC]) ∧
    (∀ src : BitVec 2, src.toNat = f s F.LN_CTRL.TX_SRC → exec (.txSrcWrite l src) s = .next s) ∧
    (∀ arg : Word, ∃ t, exec (.patStart l arg) s = .next t ∧ f t F.LN_CTRL.TX_SRC = bitsOf arg.toNat 1 0 ∧ t.lane l = fresh ∧
      (bitsOf arg.toNat 1 0 = 1 → (mget {} t.tiles (laneTile l)).laneTx = 0) ∧ t.mem = s.mem) ∧
    (f s F.LN_CTRL.TX_SRC ≠ 0 → ∃ t, exec (.patStop l) s = .next t ∧ f t F.LN_CTRL.TX_SRC = 0 ∧ t.lane l = fresh ∧
      LaneOnly s t l [F.LN_CTRL.TX_SRC]) ∧
    exec (.txMute l) s = .next (s.setLf l F.LN_CTRL.MUTE 1) ∧
    exec (.txUnmute l) s = .next (s.setLf l F.LN_CTRL.MUTE 0) ∧
    exec (.rxqStop l) s = .next (s.setLf l F.LN_CTRL.FEED 0) ∧
    (∃ t, exec (.rxqStart l) s = .next t ∧ f t F.LN_CTRL.FEED = 1 ∧ t.lane l = { s.lane l with feedNew := true } ∧
      LaneOnly s t l [F.LN_CTRL.FEED]) ∧
    (∀ k : BitVec 2, (k.toNat = 3 ∨ k.toNat = f s F.LN_CTRL.LOOP) → exec (.loopWrite l k) s = .next s) ∧
    (∀ k : BitVec 2, k.toNat ≠ 3 → k.toNat ≠ f s F.LN_CTRL.LOOP → ∃ t, exec (.loopWrite l k) s = .next t ∧
      f t F.LN_CTRL.LOOP = k.toNat ∧ f t F.LN_STATUS.CDR_LOCK = 0 ∧
      LaneOnly s t l [F.LN_CTRL.LOOP, F.LN_STATUS.CDR_LOCK, F.LN_STATUS.ALIGN]) ∧
    (∀ w : Word,
      let c := fun lo : Nat => signed 8 (bitsOf w.toNat (lo + 7) lo)
      let ok := 0 < c 16 ∧ (c 32).natAbs + (c 24).natAbs + (c 16).natAbs + (c 8).natAbs + (c 0).natAbs ≤ 64
      (ok → exec (.lnTxFfeWrite l w) s = .next (s.writeDefault .LN_TX_FFE (laneTile l) 0 w)) ∧
      (¬ok → exec (.lnTxFfeWrite l w) s = .next (s.setLf l F.LN_STATUS.CFG_ERR 1))) ∧
    (txRuns s l = true → f s F.LN_CTRL.LOOP ≠ 2 → laneParked s l = false → f s F.LN_CTRL.TX_SRC = 0 → f s F.LN_PCS.MODE = 0 →
      s.pam l = false → f s F.LN_CTRL.TX_POL = 0 → f s F.LN_CTRL.MUTE = 0 → (s.lane l).txInj = [] →
      ∃ t, exec (.laneTxUnit l) s = .next t ∧ LaneOnly s t l [] ∧ (t.lane l).txIdle = false ∧
        (t.lane l).txOut = (List.range 40).map (fun i => ((s.reg .LN_TX_FILL0 (laneTile l)).getLsbD i).toNat)) ∧
    (txRuns s l = true → f s F.LN_CTRL.LOOP ≠ 2 → laneParked s l = true → f s F.LN_CTRL.PARK = 0 →
      ∃ t, exec (.laneTxUnit l) s = .next t ∧ LaneOnly s t l [] ∧ (t.lane l).txIdle = true ∧ (t.lane l).txOut = []) ∧
    (txRuns s l = true → f s F.LN_CTRL.LOOP ≠ 2 → ∃ t, exec (.laneTxUnit l) s = .next t ∧ t.mem = s.mem ∧
      ((t.lane l).txIdle = true ↔ landSource s l = none ∨ f s F.LN_CTRL.MUTE = 1) ∧
      ((t.lane l).txIdle = true → (t.lane l).txOut = []) ∧ ∀ j : Lane, j ≠ l → t.lane j = s.lane j) ∧
    (∀ arg : Word, ∃ t, exec (.inject l arg) s = .next t ∧ (t.lane l).injLeft = bitsOf arg.toNat 15 0 ∧
      f t F.LN_INJ_CTRL.REMAIN = bitsOf arg.toNat 15 0 ∧ (t.lane l).injKind = f s F.LN_INJ_CFG.KIND ∧
      LaneOnly s t l [F.LN_INJ_CTRL.REMAIN, F.LN_INJ_CTRL.BUSY]) ∧
    (∀ w : Word, w.getLsbD 39 = true → ∃ t, exec (.injectGo l w) s = .next t ∧ (t.lane l).injLeft = bitsOf w.toNat 15 0 ∧
      f t F.LN_INJ_CTRL.REMAIN = bitsOf w.toNat 15 0 ∧ f t F.LN_INJ_CTRL.BUSY = (if bitsOf w.toNat 15 0 = 0 then 0 else 1)) ∧
    (∃ t, exec (.injectStop l) s = .next t ∧ t.lane l = { s.lane l with injLeft := 0, rxInj := [], txInj := (s.lane l).txInj.filter (fun e => e.1 == 15) } ∧ f t F.LN_INJ_CTRL.REMAIN = 0 ∧
      f t F.LN_INJ_CTRL.BUSY = 0 ∧ LaneOnly s t l [F.LN_INJ_CTRL.REMAIN, F.LN_INJ_CTRL.BUSY]) ∧
    ((s.lane l).injLeft = 0 → exec (.injectionEvent l) s = .next s) ∧
    (0 < (s.lane l).injLeft → (s.lane l).injLeft < 2 ^ 16 → f s F.LN_INJ_CTRL.CONT = 0 →
      ∃ t, exec (.injectionEvent l) s = .next t ∧ (t.lane l).injLeft = (s.lane l).injLeft - 1 ∧
      (t.lane l).injNext = (s.lane l).injNext + (s.lane l).injPer ∧
      ((s.lane l).injRx = true → (s.lane l).injKind = 0 → (t.lane l).rxInj =
        (s.lane l).rxInj ++ [((s.lane l).injNext, Nat.max (s.lane l).injLen 1)]) ∧
      f t F.LN_INJ_CTRL.REMAIN = (s.lane l).injLeft - 1 ∧
      (injApplies s l (s.lane l).injRx (s.lane l).injKind = false → f t F.LN_STATUS.INJ_NA = 1) ∧
      LaneOnly s t l [F.LN_INJ_CTRL.REMAIN, F.LN_INJ_CTRL.BUSY, F.LN_STATUS.INJ_NA])

/-- R222, R223, R230, R236, R240, R248: a RAW40 word decoded from 40 NRZ decisions, bit 0 first, enters the window of the
WORD tap and is counted; a codeword decoded while locked counts; SLIP drops one bit in RAW40 and does nothing
elsewhere; CLR_CNT clears the counters; a histogram clears its bins, counts a sample by its value and sets DONE after
the last. Points the rules leave open are the model's own readings: log entries 25 and 28. -/
def Obligations.LanesReceiveAndMeasure : Prop :=
  ∀ (s : State) (l : Lane),
    let f := fun (t : State) (g : Fld) => t.lf l g
    let v := s.lane l
    (∀ (adc : List (BitVec 8)) (levels : List (Fin 4)) time, adc.length = 40 → levels.length = 40 → (∀ k ∈ levels, k.val < 2) → s.laneOn l = true → 4 ≤ v.phase →
      f s F.LN_CTRL.LOOP = 0 → f s F.LN_STATUS.CDR_LOCK = 1 → f s F.LN_PCS.MODE = 0 → s.pam l = false →
      f s F.LN_CTRL.RX_POL = 0 → f s F.LN_PAT_CFG.CHK = 0 → f s F.LN_PCS.GATE = 0 → v.rxBits = [] → v.rxSlips = 0 →
      v.rxInj = [] → v.feedOn = false → v.tap = 3 → v.cnt < 196608 → s.reg .LN_TS_MASK (laneTile l) = 0 →
      f s F.TRG_WIN_CTRL.MODE ≠ 1 → (∀ d, d < 2 → s.fld F.TRG_DET_CFG.KIND (laneTile l) d = 0) →
      ∃ t, exec (.decodedWord l adc levels false time) s = .next t ∧ (t.lane l).cnt = v.cnt + 1 ∧ (t.lane l).lastT = time ∧
        (∀ i, i < 40 → (t.readBlk (elemAddr l 3 v.cnt)).getLsbD i = decide (levels[i]? = some 1)) ∧
        ∀ a, (a < elemAddr l 3 v.cnt ∨ elemAddr l 3 v.cnt + 5 ≤ a) → readByte t.mem a = readByte s.mem a) ∧
    (s.laneOn l = true → f s F.LN_PCS.MODE = 3 → f s F.LN_STATUS.CDR_LOCK = 1 → f s F.LN_STATUS.ALIGN = 1 →
      (v.rxBits.length < 5440 → exec (.fecCodeword l) s = .next s) ∧
      (5440 ≤ v.rxBits.length → ∃ t, exec (.fecCodeword l) s = .next t ∧ (t.lane l).rxBits = v.rxBits.drop 5440 ∧
        (t.lane l).fecCw = (v.fecCw + 1) % 2 ^ 80 ∧
        t.reg .LN_FEC_CW_LO (laneTile l) = BitVec.ofNat 40 ((v.fecCw + 1) % 2 ^ 80) ∧ t.mem = s.mem)) ∧
    (f s F.LN_PCS.MODE = 0 → ∃ t, exec (.slip l) s = .next t ∧ t.lane l = { v with rxSlips := v.rxSlips + 1 } ∧
      LaneOnly s t l []) ∧
    (f s F.LN_PCS.MODE ≠ 0 → exec (.slip l) s = .next s) ∧
    (∃ t, exec (.clrCnt l) s = .next t ∧ t.lane l = { v with chkBits := 0, chkErrs := 0, fecCw := 0 } ∧
      (∀ r ∈ [Reg.LN_PCS_CNT, .LN_CHK_BITS_LO, .LN_CHK_BITS_HI, .LN_CHK_ERR, .LN_FEC_CW_LO, .LN_FEC_CW_HI, .LN_FEC_CORR,
        .LN_FEC_UNCORR], t.reg r (laneTile l) = 0) ∧ (∀ i, i < 17 → t.reg .LN_FEC_HIST (laneTile l) i = 0) ∧ t.mem = s.mem) ∧
    (∀ w : Word, w.getLsbD 39 = true → ∃ t, exec (.histStart l w) s = .next t ∧
      (∀ i, i < 256 → t.reg .LN_HIST (laneTile l) i = 0) ∧
      (t.lane l).histLeft = (if f s F.LN_HIST_N.NUM = 0 then none else some (f s F.LN_HIST_N.NUM)) ∧
      f t F.LN_HIST_CFG.DONE = (if f s F.LN_HIST_N.NUM = 0 then 1 else 0) ∧ t.mem = s.mem) ∧
    (∀ (x : BitVec 8) (k : Fin 4) n behind time, v.histLeft = some (n + 1) → v.histSkip = 0 → v.tap = 3 → s.laneOn l = true →
      4 ≤ v.phase → f s F.LN_CTRL.LOOP = 0 → f s F.LN_STATUS.CDR_LOCK = 0 → f s F.LN_HIST_CFG.SRC = 0 → f s F.LN_HIST_CFG.COND = 0 →
      ∃ t, exec (.decodedWord l [x] [k] behind time) s = .next t ∧ (t.lane l).histLeft = some n ∧
      t.fld F.LN_HIST.NUM (laneTile l) (x.toInt + 128).toNat =
        Nat.min (s.fld F.LN_HIST.NUM (laneTile l) (x.toInt + 128).toNat + 1) (2 ^ 40 - 1) ∧ t.mem = s.mem) ∧
    (∀ (x : BitVec 8) (k : Fin 4) behind time, v.histLeft = none → v.tap = 0 → v.cnt < 983040 → s.laneOn l = true →
      4 ≤ v.phase → f s F.LN_CTRL.LOOP = 0 → f s F.LN_STATUS.CDR_LOCK = 0 → f s F.TRG_WIN_CTRL.MODE ≠ 1 →
      (∀ d, d < 2 → s.fld F.TRG_DET_CFG.KIND (laneTile l) d = 0) → ∃ t, exec (.decodedWord l [x] [k] behind time) s = .next t ∧
      (t.lane l).cnt = v.cnt + 1 ∧ (t.lane l).lastT = time ∧
      ∀ a, readByte t.mem a = if a = elemAddr l 0 v.cnt then x else readByte s.mem a) ∧
    (v.histLeft = some 0 → ∃ t, exec (.histDone l) s = .next t ∧ t.lane l = { v with histLeft := none } ∧
      f t F.LN_HIST_CFG.DONE = 1 ∧ LaneOnly s t l [F.LN_HIST_CFG.DONE]) ∧
    (v.histLeft ≠ some 0 → exec (.histDone l) s = .next s)

/-- R254, R256, R257, R263, R265, R248, R251-R253: Each source raises its event at the combiner with its stamp: a lane
detector 2 · lane + detector, a TRIG_IN pin 40 + pin in the regions that select its edge, the gun 44 + n, software 48
+ n, never late, and the trigger bus 52 + region in every region; it is late when its stamp plus SETTLE has passed.
ARM starts the fill of a SNAP window, the pre-fill ends in ARMED, a trigger there records its element and ends the
record after POST, and the record ends in DONE; a TAP change starts a new element count at a line boundary; nothing
happens in another mode. Points the rules leave open are the model's own readings: log entries 7 and 27. -/
def Obligations.EventSourcesAndSnapWindows : Prop :=
  (
  ∀ (s : State) (r : Region),
    let late := fun (q stamp : Nat) => decide (stamp + s.fld F.TRG_SEQ_CTRL.SETTLE q * 640 < s.instant)
    let gets := fun (t : State) (q : Nat) (e : TrigEv) => (t.trig q).held = (s.trig q).held ++ [e]
    (∀ (l : Lane) d ds, (s.lane l).detQ = d :: ds → ∃ t, exec (.laneDetectorEvent l) s = .next t ∧ (t.lane l).detQ = ds ∧
      gets t (l.val / 12) ⟨2 * (l.val % 12) + d.det, d.stamp, some (l.val, d.elem, d.frac), late (l.val / 12) d.stamp⟩ ∧
      t = { s with lanes := t.lanes, trigs := t.trigs }) ∧
    (∀ (pin : Fin 4) rising dt, ∃ t, exec (.trigInEdge pin rising dt) s = .next t ∧ ∀ q, q < 4 →
      let on := bitOf (bitsOf (s.fld F.TRG_TIN_CFG.EDGE q) (2 * pin.val + 1) (2 * pin.val)) (if rising then 0 else 1)
      (on = true → gets t q ⟨40 + pin.val, s.nowAt dt, none, false⟩ ∧
        bitOf (t.fld F.PWR_WAKE_PEND.PEND q) 1 = true) ∧
      (on = false → t.trig q = s.trig q)) ∧
    (∀ (i : Fin 4) dt, ∃ t, exec (.softwareEvent r i dt) s = .next t ∧ gets t r ⟨48 + i.val, s.nowAt dt, none, false⟩ ∧
      t = { s.atPhase dt with trigs := t.trigs }) ∧
    (∀ (i : Fin 4) stamp, ∃ t, exec (.gunEvent r i stamp) s = .next t ∧ gets t r ⟨44 + i.val, stamp, none, late r stamp⟩ ∧
      t = { s with trigs := t.trigs }) ∧
    (∀ e es, (s.trig r).bus = e :: es → ∃ t, exec (.busEvent r) s = .next t ∧ (t.trig r).bus = es ∧
      (∀ q, q < 4 → gets t q ⟨52 + r.val, e.stamp, e.pos, late q e.stamp⟩) ∧ t = { s with trigs := t.trigs })) ∧
  (
  ∀ (s : State) (l : Lane),
    let f := fun (t : State) (g : Fld) => t.lf l g
    let st := f s F.TRG_WIN_STAT.STATE
    let v := s.lane l
    (f s F.TRG_WIN_CTRL.MODE ≠ 1 → exec (.windowArm l) s = .next s ∧ exec (.windowForce l) s = .next s) ∧
    (f s F.TRG_WIN_CTRL.MODE = 1 → ∃ t, exec (.windowArm l) s = .next t ∧
      f t F.TRG_WIN_STAT.STATE = (if f s F.TRG_WIN_PRE.PRE = 0 then 2 else 1) ∧ f t F.TRG_WIN_STAT.FS = 0 ∧
      f t F.TRG_WIN_STAT.STALE = 0 ∧ f t F.TRG_WIN_STAT.CLIPPED = 0 ∧ (t.lane l).fill = v.cnt ∧ (t.lane l).snapEnd = none ∧
      (t.lane l).cnt = v.cnt ∧ t = { s with regs := t.regs, lanes := t.lanes }) ∧
    (f s F.TRG_WIN_CTRL.MODE = 1 → st = 2 → v.fill + f s F.TRG_WIN_PRE.PRE ≤ v.cnt → v.fillT ≤ s.instant →
      f s F.TRG_WIN_PRE.PRE < winCap v.tap → ∃ t, exec (.windowForce l) s = .next t ∧ f t F.TRG_WIN_STAT.STATE = 3 ∧
      t.reg .TRG_WIN_TRIG_E (laneTile l) = BitVec.ofNat 40 v.cnt ∧
      (t.lane l).snapEnd = some (Nat.min (v.cnt + f s F.TRG_WIN_PRE.POST) (v.cnt - f s F.TRG_WIN_PRE.PRE + winCap v.tap - 1)) ∧
      t = { s with regs := t.regs, lanes := t.lanes }) ∧
    (st = 1 → v.fill + f s F.TRG_WIN_PRE.PRE ≤ v.cnt → v.preFrom < v.cnt → ∃ t, exec (.prefillDone l) s = .next t ∧
      f t F.TRG_WIN_STAT.STATE = 2 ∧ KeepsRegs s t [regAddr .TRG_WIN_STAT (laneTile l) 0, regAddr .TRG_WIN_DEAD (laneTile l) 0] ∧
      t = { s with regs := t.regs }) ∧
    (∀ e, v.snapEnd = some e → st = 3 → e < v.cnt → f s F.TRG_WIN_PRE.PRE + f s F.TRG_WIN_PRE.POST + 1 ≤ winCap v.tap →
      exec (.snapDone l) s = .next (s.setLf l F.TRG_WIN_STAT.STATE 4)) ∧
    (f s F.LN_RX_CFG.TAP ≠ v.tap → v.cnt % (if v.tap = 3 then 12 else 60) = 0 → ∃ t, exec (.tapChange l) s = .next t ∧
      (t.lane l).tap = f s F.LN_RX_CFG.TAP ∧ (t.lane l).cnt = 0 ∧ (t.lane l).fill = 0 ∧
      ∀ c ∈ laneChannels s l, t.chState (l.val / 12) c = 0))

/-- R260-R262, R264: the first held event is processed once SETTLE has passed and is logged with its number, position and
stamp when the mask selects it; the sequencer takes no event while EN = 0, is enabled only with a first stage that can
complete, and falls back to stage 0 at a stage's deadline; TRIG_OUT toggles, or pulses for WIDTH ns. Points the rules
leave open are the model's own readings: log entry 27. -/
def Obligations.CombinersProcessInStampOrder : Prop :=
  ∀ (s : State) (r : Region),
    let v := s.trig r
    (∀ e, firstHeld v.held = some e → e.stamp + s.fld F.TRG_SEQ_CTRL.SETTLE r * 640 ≤ s.instant → e.late = false → e.ev < 64 →
      s.fld F.TRG_SEQ_CTRL.EN r = 0 → s.fld F.TRG_TOUT_CFG.SEL r ≠ e.ev → s.fld F.TRG_BUS_SEL.SEL r ≠ e.ev →
      (∀ c : Fin 16, s.fld F.HEAT_TRIG.SEL r c ≠ e.ev) → (∀ l : Lane, s.fld F.TRG_WIN_CTRL.TRIG_SEL (laneTile l) ≠ e.ev) →
      (∀ p ∈ e.pos, p.1 < 64 ∧ p.2.2 < 256) →
      ∃ t, exec (.eventProcess r) s = .next t ∧ (t.trig r).held = v.held.erase e ∧
        let sel := inMask (s.fld F.TRG_LOG_MASK0.EVENTS r) (s.fld F.TRG_LOG_MASK1.EVENTS r) e.ev
        let i := s.fld F.TRG_LOG_HEAD.IDX r
        (sel = false → t.regs = s.regs) ∧
        (sel = true → bitsOf (t.reg .TRG_LOG r (4 * i)).toNat 39 33 = e.ev ∧
          t.reg .TRG_LOG r (4 * i + 2) = BitVec.ofNat 40 (e.stamp % unitsPerSec) ∧
          t.reg .TRG_LOG r (4 * i + 1) = BitVec.ofNat 40 ((e.pos.map (fun p => p.2.1)).getD 0) ∧
          t.fld F.TRG_LOG_HEAD.IDX r = (i + 1) % 64) ∧
        t = { s with regs := t.regs, trigs := t.trigs }) ∧
    (∀ e, firstHeld v.held = some e → e.stamp + s.fld F.TRG_SEQ_CTRL.SETTLE r * 640 ≤ s.instant →
      ∃ t, exec (.eventProcess r) s = .next t ∧ (t.trig r).held = v.held.erase e) ∧
    (∀ e, firstHeld v.held = some e → s.instant < e.stamp + s.fld F.TRG_SEQ_CTRL.SETTLE r * 640 →
      exec (.eventProcess r) s = .next s) ∧
    (∀ d, stageDeadline s r = some d → d < s.instant → (∀ e ∈ v.held, d < e.stamp) → ∃ t, exec (.stageTimeout r) s = .next t ∧
      t.fld F.TRG_SEQ_CTRL.STAGE r = 0 ∧ (t.trig r).count = 0 ∧ (t.trig r).held = v.held ∧
      t.fld F.TRG_SEQ_STAT.TIMEOUTS r = Nat.min (s.fld F.TRG_SEQ_STAT.TIMEOUTS r + 1) (2 ^ 20 - 1)) ∧
    (∀ w : Word, w.getLsbD 39 = true → s.fld F.TRG_SEQ_CTRL.EN r = 0 →
      let able := s.fld F.TRG_S_COND1.COUNT r 0 ≠ 0 ∧ (s.fld F.TRG_S_COND0.EVENTS r 0 ≠ 0 ∨ s.fld F.TRG_S_COND1.EVENTS r 0 ≠ 0)
      (able → ∃ t, exec (.sequencerEnable r w) s = .next t ∧ t.fld F.TRG_SEQ_CTRL.EN r = 1 ∧
        t.fld F.TRG_SEQ_CTRL.STAGE r = 0 ∧ t.fld F.TRG_SEQ_CTRL.LAST r = bitsOf w.toNat 38 37 ∧
        t.trig r = { v with count := 0, entry := s.instant }) ∧
      (¬able → ∃ t, exec (.sequencerEnable r w) s = .next t ∧ t.fld F.TRG_SEQ_CTRL.EN r = 0 ∧
        t.fld F.TRG_SEQ_CTRL.CFG_ERR r = 1 ∧ t.trig r = v)) ∧
    (∀ at_ stop es, v.edges = (at_, stop) :: es →
      (s.instant < at_ → exec (.trigOutEdge r) s = .next s) ∧
      (at_ ≤ s.instant → stop = none → exec (.trigOutEdge r) s = .next (s.setTrig r { v with edges := es, out := !v.out })) ∧
      (∀ w, at_ ≤ s.instant → stop = some w → exec (.trigOutEdge r) s = .next (s.setTrig r
        { v with edges := es, out := true, pulseEnd := some w }))) ∧
    (∀ at_, v.pulseEnd = some at_ → at_ ≤ s.instant →
      exec (.trigOutPulseEnd r) s = .next (s.setTrig r { v with out := false, pulseEnd := none }))

/-- R271, R272, R275, R276: an ARM is refused with the first check of Table 11.2 that fails, waits while the last heat of
an IDLE channel closes, or takes slot HEAT_WP mod NSLOT and opens its header; DISARM ends a heat in POST truncated and
takes every other state to IDLE; FINISH marks a heat in POST and else is a DISARM; FORCE starts a heat of an ARMED
channel, is counted in POST and ignored in IDLE; and capture ends when element e + POST has been taken. Points the
rules leave open are the model's own readings: log entry 26. -/
def Obligations.HeatChannelsArmForceAndStop : Prop :=
  ∀ (s : State) (r : Region) (c : Fin 16),
    let v := s.ch r c
    let st := s.chState r c
    let fab := s.fld F.HEAT_SRC.KIND r c = 1
    let unit := s.fld F.HEAT_SRC.UNIT r c
    let l := 12 * r.val + unit
    let tap := (s.lane l).tap
    let cap := if tap = 3 then 196608 else 983040
    let blocks := s.fld F.HEAT_SLOT.BLOCKS r c
    let evb := s.fld F.HEAT_SLOT.EVB r c
    let base := s.fld F.HEAT_BASE.ADDR r c * 64
    let notify := s.fld F.HEAT_NOTIFY.ADDR r c * 8
    let pre := s.fld F.HEAT_PRE.NUM r c
    let post := s.fld F.HEAT_POST.NUM r c
    let d := s.fld F.HEAT_FELT.DECIM r c
    let felt := s.fld F.HEAT_FELT.FELT r c = 1
    let nOut := if felt then 2 * ((pre + post + 1 + d - 1) / d) else pre + post + 1
    let capOut := (blocks - 2 - evb) * (if fab ∨ tap = 3 then 12 else 60)
    let slot := base + s.fld F.HEAT_WP.SEQ r c % s.fld F.HEAT_NSLOT.NUM r c * blocks * 64
    let res :=
      if s.mode = .blank ∨ s.mode = .loading then 1
      else if st ≠ 0 then 2
      else if (fab ∧ (s.fld F.HEAT_SRC.CMASK r c = 0 ∨ s.fld F.HEAT_SRC.BUF r c = 0)) ∨
          (¬fab ∧ (11 < unit ∨ s.fld F.TRG_WIN_CTRL.MODE (laneTile l) ≠ 0)) then 3
      else if s.fld F.HEAT_NSLOT.NUM r c = 0 then 4
      else if blocks ≤ 2 + evb then 5
      else if 0x2000000000 < base + s.fld F.HEAT_NSLOT.NUM r c * blocks * 64 ∨
          (notify ≠ 0 ∧ (notify < 0x7FF0000000 ∨ 0x7FF8000000 ≤ notify)) ∨
          16384 < bufQuota s r + (if fab then s.fld F.HEAT_SRC.BUF r c else 0) then 6
      else if felt ∧ (fab ∨ 1 < tap) then 7
      else if felt ∧ d < 2 then 8
      else if ¬fab ∧ cap ≤ pre then 9
      else if capOut < nOut ∧ s.fld F.HEAT_CTRL.OVERRUN_OK r c = 0 then 10
      else if ∃ m ∈ List.range 4, chBw s r c m ≠ 0 ∧ s.fld F.MEM_RES_LIMIT.LIMIT m < memBwUsed s m + chBw s r c m then 11
      else 0
    (∀ auto, (st ≠ 0 ∨ v.closing = []) → res ≠ 0 → ∃ t, exec (.heatArm r c auto) s = .next t ∧
      t.fld F.HEAT_STAT.RES r c = res ∧ t.chState r c = st ∧
      (bitOf (s.fld F.ACQ_STATUS.EVT r) 2 = false → Reports s t 0x4503) ∧
      (bitOf (s.fld F.ACQ_STATUS.EVT r) 2 = true → t.detected = s.detected) ∧
      t = { s with regs := t.regs, detected := t.detected }) ∧
    (∀ auto, st = 0 → v.closing ≠ [] →
      exec (.heatArm r c auto) s = .next (s.setCh r c { v with waitArm := some (s.instant, auto) })) ∧
    (∀ auto, st = 0 → v.closing = [] → res = 0 → (fab ∨ tap ≤ 3) → ∃ t, exec (.heatArm r c auto) s = .next t ∧
      t.fld F.HEAT_STAT.RES r c = 0 ∧ t.chState r c = (if fab ∧ pre ≠ 0 then 1 else 2) ∧
      t.fld F.HEAT_CTRL.AUTO r c = (match auto with | some a => flag a | none => s.fld F.HEAT_CTRL.AUTO r c) ∧
      (t.ch r c).armT = s.instant ∧ (t.ch r c).heat = v.heat ∧ t.reg .HEAT_WP r c = s.reg .HEAT_WP r c ∧
      (memAccess s slot = 0 → bitsOf (t.readBlk slot).toNat 39 38 = 1 ∧ t.readBlk (slot + 5) = s.reg .HEAT_WP r c) ∧
      (∀ a, a < slot ∨ slot + 64 ≤ a → readByte t.mem a = readByte s.mem a) ∧
      (∀ (q : Region) (k : Fin 16), (q, k) ≠ (r, c) → t.ch q k = s.ch q k) ∧
      (memAccess s slot = 0 → t.detected = s.detected) ∧
      t = { s with regs := t.regs, heats := t.heats, mem := t.mem, free := t.free, detected := t.detected }) ∧
    (st = 0 → exec (.heatDisarm r c) s = .next (s.setCh r c { v with waitArm := none })) ∧
    (st ≠ 0 → st ≠ 3 → ∃ t, exec (.heatDisarm r c) s = .next t ∧ t.chState r c = 0 ∧
      t.ch r c = { v with waitArm := none, buf := {} } ∧ t = { s with regs := t.regs, heats := t.heats }) ∧
    (∀ h, st = 3 → v.heat = some h → h.fabric = false → ∃ t, exec (.heatDisarm r c) s = .next t ∧ t.chState r c = 0 ∧
      (t.ch r c).heat = none ∧ (t.ch r c).closing = v.closing ++
        [{ h with lastE := some (Nat.min ((s.lane (12 * r.val + h.unit)).cnt - 1) (h.trigE + h.post)), trunc := true }] ∧
      t = { s with regs := t.regs, heats := t.heats }) ∧
    (st = 3 → exec (.heatFinish r c) s = .next (s.setCh r c { v with finish := true })) ∧
    (st ≠ 3 → exec (.heatFinish r c) s = exec (.heatDisarm r c) s) ∧
    (st = 0 → exec (.heatForce r c) s = .next s) ∧
    (∀ h, st = 3 → v.armT ≤ s.instant → v.heat = some h → ∃ x, exec (.heatForce r c) s = .next (s.setCh r c
        { v with heat := some { h with later := Nat.min (h.later + 1) 65535, recs := h.recs ++ [x] } }) ∧ x.1 / 2 ^ 36 = 3) ∧
    (st = 2 → v.armT ≤ s.instant → (fab ∨ winJudge s l (elemAt s l s.instant) pre s.instant = 0) → ∃ t h,
      exec (.heatForce r c) s = .next t ∧ t.chState r c = 3 ∧
      t.fld F.HEAT_WP.SEQ r c = (s.fld F.HEAT_WP.SEQ r c + 1) % 2 ^ 40 ∧ (t.ch r c).heat = some h ∧ h.event = 127 ∧
      h.stamp = s.instant ∧ h.seq = s.fld F.HEAT_WP.SEQ r c ∧ h.pre = pre ∧ h.post = post ∧ h.firstE = h.trigE - pre ∧
      h.next = h.firstE ∧ h.lastE = none ∧ t = { s with regs := t.regs, heats := t.heats, lanes := t.lanes }) ∧
    (∀ h, v.heat = some h → h.fabric = false →
      (h.trigE + h.post < (s.lane (12 * r.val + h.unit)).cnt → ∃ t, exec (.captureEnd r c) s = .next t ∧
        t.chState r c = (if v.finish = true ∨ s.fld F.HEAT_CTRL.AUTO r c = 0 then 0 else 4) ∧ (t.ch r c).heat = none ∧
        (t.ch r c).closing = v.closing ++ [{ h with lastE := some (h.trigE + h.post), trunc := false }] ∧
        (t.ch r c).holdLeft = s.fld F.HEAT_HOLDOFF.VALUE r c ∧ t = { s with regs := t.regs, heats := t.heats }) ∧
      ((s.lane (12 * r.val + h.unit)).cnt ≤ h.trigE + h.post → exec (.captureEnd r c) s = .next s))

/-- R275, R276, R282: the oldest closing heat of a fabric source that lost nothing writes header blocks 1 and 0, with
STATE = CLOSED, its sequence number, trigger element and span, and HEAT_DONE increments; a channel in REARM becomes
ready when every condition of R276 holds and opens the next slot; a copy that the window writer overtakes resumes
8,192 elements after the element overwritten, under a gap, and never with window hold. Points the rules leave open are
the model's own readings: log entry 26. -/
def Obligations.HeatsCloseRearmAndJump : Prop :=
  ∀ (s : State) (r : Region) (c : Fin 16),
    let v := s.ch r c
    (v.closing = [] → exec (.heatClosed r c) s = .next s) ∧
    (∀ h, v.closing = [h] → v.heat = none → v.waitArm = none → h.fabric = true → h.felt = false → h.recs = [] → h.gaps = [] →
      h.gap = none → h.evb = 0 → h.span ≤ h.capOut → h.unit < 16 → h.servo < 4 → s.resps = [] →
      h.base % 64 = 0 → memAccess s h.base = 0 → memAccess s (h.base + 64) = 0 → s.fld F.HEAT_NOTIFY.ADDR r c = 0 →
      ∃ t, exec (.heatClosed r c) s = .next t ∧
      t.fld F.HEAT_DONE.SEQ r c = (s.fld F.HEAT_DONE.SEQ r c + 1) % 2 ^ 40 ∧ (t.ch r c).closing = [] ∧
      bitsOf (t.readBlk h.base).toNat 39 38 = 2 ∧ t.readBlk (h.base + 5) = BitVec.ofNat 40 h.seq ∧
      t.readBlk (h.base + 10) = BitVec.ofNat 40 h.trigE ∧ t.readBlk (h.base + 45) = BitVec.ofNat 40 h.firstE ∧
      t.readBlk (h.base + 55) = BitVec.ofNat 40 h.span ∧ t.readBlk (h.base + 64) = BitVec.ofNat 40 h.span ∧
      (∀ a, a < h.base ∨ h.base + 128 ≤ a → readByte t.mem a = readByte s.mem a) ∧
      t = { s with regs := t.regs, heats := t.heats, mem := t.mem, guns := t.guns }) ∧
    (∀ h rest, v.closing = h :: rest → v.waitArm = none → s.fld F.HEAT_NOTIFY.ADDR r c = 0 →
      ∃ t, exec (.heatClosed r c) s = .next t ∧ t.fld F.HEAT_DONE.SEQ r c = (s.fld F.HEAT_DONE.SEQ r c + 1) % 2 ^ 40 ∧
      (t.ch r c).closing.map (fun x => x.seq) = rest.map (fun x => x.seq)) ∧
    (s.chState r c ≠ 4 → exec (.channelReady r c) s = .next s) ∧
    (s.chState r c = 4 →
      let ready := (s.fld F.HEAT_CTRL.WRAP r c = 1 ∨
          (s.fld F.HEAT_WP.SEQ r c + 2 ^ 40 - s.fld F.HEAT_RP.SEQ r c) % 2 ^ 40 < s.fld F.HEAT_NSLOT.NUM r c) ∧
        v.closing.length ≤ (if s.fld F.HEAT_CTRL.WHOLD r c = 1 then 0 else 1) ∧
        (if s.fld F.HEAT_HOLDOFF.KIND r c = 1 then v.holdLeft = 0
          else v.endT + s.fld F.HEAT_HOLDOFF.VALUE r c * 1024 ≤ s.instant) ∧ v.endT + 200 * 1024 ≤ s.instant
      (¬ready → exec (.channelReady r c) s = .next s) ∧
      (ready → s.fld F.HEAT_NSLOT.NUM r c ≠ 0 → (s.fld F.HEAT_SRC.KIND r c = 1 ∨ (s.lane (12 * r.val + s.fld F.HEAT_SRC.UNIT r c)).tap ≤ 3) →
        ∃ t, exec (.channelReady r c) s = .next t ∧
        t.chState r c = (if s.fld F.HEAT_SRC.KIND r c = 1 ∧ s.fld F.HEAT_PRE.NUM r c ≠ 0 then 1 else 2) ∧
        (t.ch r c).readyT = s.instant ∧ (t.ch r c).closing = v.closing ∧
        (let slot := s.fld F.HEAT_BASE.ADDR r c * 64 +
            s.fld F.HEAT_WP.SEQ r c % s.fld F.HEAT_NSLOT.NUM r c * s.fld F.HEAT_SLOT.BLOCKS r c * 64
         (memAccess s slot = 0 → bitsOf (t.readBlk slot).toNat 39 38 = 1 ∧ t.readBlk (slot + 5) = s.reg .HEAT_WP r c) ∧
         (memAccess s slot = 0 → t.detected = s.detected) ∧
         ∀ a, a < slot ∨ slot + 64 ≤ a → readByte t.mem a = readByte s.mem a) ∧
      t = { s with regs := t.regs, heats := t.heats, mem := t.mem, free := t.free, detected := t.detected })) ∧
    (∀ h, v.closing = [] → v.heat = some h → h.fabric = false → h.felt = false → h.gap = none → h.lastE = none →
      let w := (s.lane (12 * r.val + h.unit)).cnt
      let cap := if h.tap = 3 then 196608 else 983040
      let go := Nat.min (w - cap + 8192) (h.trigE + h.post + 1)
      (h.whold = true → exec (.windowOverrun r c) s = .next s) ∧
      (h.whold = false → cap ≤ w → h.next = w - cap → h.firstE ≤ h.next → h.next ≤ h.trigE + h.post →
        exec (.windowOverrun r c) s = .next (s.setCh r c { v with heat := some { h with
          next := go, gap := some ⟨1, h.next, go - h.next, elemTime s (12 * r.val + h.unit) h.next⟩ } })))

/-- R198, R201, R202, R203, R205, R207: a start of the sink resets its pointers and makes a SYNC due at every enabled
source, a bad memory ring is refused; the next staged line in round-robin order goes to the buffer with its header; a
full sink in stop mode takes none and one in wrap mode sets WRAPPED; the buffer of a memory sink gives its oldest line
to the ring; stopping closes the open lines with FLUSH and ends when every line is delivered; a saturated counter
emits SYNC LONG; a source whose EN clears emits STOP DISABLED. Points the rules leave open are the model's own
readings: log entries 18 and 19. -/
def Obligations.TraceLinesReachTheSinkInOrder : Prop :=
  ∀ (s : State) (r : Region),
    let u := s.trcUnit r
    let src := fun (t : State) (i : Nat) => t.trcSrc (srcProc r i)
    let sink := s.fld F.TRC_CTRL.SINK r
    let len := s.fld F.TRC_MEM_LEN.BLOCKS r
    let ringBad := len = 0 ∨ 0x2000000000 < s.fld F.TRC_MEM_BASE.ADDR r * 64 + 64 * len
    (∀ v : Word, sink = 0 → (bitsOf v.toNat 39 38 = 1 ∨ (bitsOf v.toNat 39 38 = 2 ∧ ¬ringBad)) →
      ∃ t, exec (.sinkStart r v) s = .next t ∧ t.fld F.TRC_CTRL.SINK r = bitsOf v.toNat 39 38 ∧
      t.fld F.TRC_CTRL.MODE r = bitsOf v.toNat 37 37 ∧ t.reg .TRC_WP r = 0 ∧ t.reg .TRC_RP r = 0 ∧
      (∀ i, i < 17 → src t i = if bitOf (s.fld F.TRC_SRC.EN r) i then { sync := some 0 } else {}) ∧
      t = { s with regs := t.regs, trc := t.trc }) ∧
    (∀ v : Word, sink = 0 → bitsOf v.toNat 39 38 = 2 → ringBad → ∃ t, exec (.sinkStart r v) s = .next t ∧
      t.fld F.TRC_CTRL.SINK r = 0 ∧ t.fld F.TRC_STATUS.CFG_ERR r = 1 ∧ t = { s with regs := t.regs }) ∧
    ((∀ i, i < 17 → (src s i).staged = []) → u.fifo = 0 → exec (.traceLineDeliver r) s = .next s) ∧
    (∀ d i l ls, d < 17 → i = (u.next + d) % 17 → (∀ j, j < d → (src s ((u.next + j) % 17)).staged = []) →
      (src s i).staged = l :: ls → (src s i).lost = none → (src s i).cur.length < 55 → sink = 1 → u.fifo = 0 → s.fld F.TRC_CTRL.THR r = 0 →
      l.seq < 256 → l.bytes.length ≤ 55 → (∀ b ∈ l.bytes, b.byte < 256) →
      let wp := (s.reg .TRC_WP r).toNat
      let full := 2048 ≤ (s.reg .TRC_WP r - s.reg .TRC_RP r).toNat
      let slot := fun (t : State) (k : Nat) => (t.reg .TRC_BUF r (12 * (wp % 2048) + k)).toNat
      (full → s.fld F.TRC_CTRL.MODE r = 1 → exec (.traceLineDeliver r) s = .next s) ∧
      (¬full ∨ s.fld F.TRC_CTRL.MODE r = 0 → ∃ t, exec (.traceLineDeliver r) s = .next t ∧
        t.fld F.TRC_WP.COUNT r = (wp + 1) % 2 ^ 40 ∧ t.fld F.TRC_STATUS.WRAPPED r = (if full then 1 else s.fld F.TRC_STATUS.WRAPPED r) ∧
        bitsOf (slot t 0) 39 35 = i ∧ bitsOf (slot t 0) 34 27 = l.seq ∧ bitsOf (slot t 0) 20 15 = l.bytes.length ∧
        bitsOf (slot t 0) 14 14 = flag l.flush ∧
        (∀ k b, l.bytes[k]? = some b → bitsOf (slot t (1 + k / 5)) (8 * (k % 5) + 7) (8 * (k % 5)) = b.byte) ∧
        (src t i).staged = ls ∧ (t.trcUnit r).next = (i + 1) % 17 ∧ (∀ j, j < 17 → j ≠ i → src t j = src s j) ∧
        t = { s with regs := t.regs, trc := t.trc })) ∧
    ((∀ i, i < 17 → (src s i).staged = []) → sink = 2 → u.fifo ≠ 0 → (∀ k, mget 0 u.bufErr k = 0) → s.fld F.TRC_CTRL.THR r = 0 →
      let k := (s.reg .TRC_WP r).toNat
      let at_ := s.fld F.TRC_MEM_BASE.ADDR r * 64 + 64 * (k % len)
      let full := len ≤ (s.reg .TRC_WP r - s.reg .TRC_RP r).toNat
      (full → s.fld F.TRC_CTRL.MODE r = 1 → exec (.traceLineDeliver r) s = .next s) ∧
      (¬full ∨ s.fld F.TRC_CTRL.MODE r = 0 → memAccess s at_ = 0 → ∃ t, exec (.traceLineDeliver r) s = .next t ∧
        (∀ j, j < 12 → t.readBlk (at_ + 5 * j) = s.reg .TRC_BUF r (12 * (k % 2048) + j)) ∧
        (∀ a, a < at_ ∨ at_ + 64 ≤ a → readByte t.mem a = readByte s.mem a) ∧
        t.fld F.TRC_WP.COUNT r = (k + 1) % 2 ^ 40 ∧ (t.trcUnit r).fifo = u.fifo - 1 ∧ (t.trcUnit r).ringWait = u.ringWait + 1 ∧
        t.resps = s.resps ++ [{ isRead := false, dst := 0x48 + r.val, tag := 0, status := 0, node := srcPort (0x48 + r.val) }])) ∧
    (sink = 0 → exec (.sinkStop r) s = .next s) ∧
    (sink ≠ 0 → ∃ t, exec (.sinkStop r) s = .next t ∧ t.fld F.TRC_CTRL.SINK r = 0 ∧ bitOf (liveWord t ⟨.TRC_STATUS, r, 0⟩).toNat F.TRC_STATUS.BUSY.lo = true ∧
      (t.trcUnit r).stopping = sink ∧ (∀ i, i < 17 → bitOf (s.fld F.TRC_SRC.EN r) i = true → (src s i).atom = [] →
        (src s i).cur ≠ [] → (src s i).cur.length < 55 →
        (src t i).staged = (src s i).staged ++ [⟨(src s i).seq, true, (src s i).cur⟩] ∧ (src t i).cur = []) ∧
      t = { s with regs := t.regs, trc := t.trc, detected := t.detected }) ∧
    (u.stopping ≠ 0 → u.ringWait = 0 → u.fifo = 0 → (∀ e ∈ u.srcs, e.2.staged = []) →
      exec (.sinkStopped r) s = .next (s.setTrcUnit r { u with stopping := 0 })) ∧
    ((u.stopping = 0 ∨ u.ringWait ≠ 0 ∨ u.fifo ≠ 0 ∨ ∃ e ∈ u.srcs, e.2.staged ≠ []) → exec (.sinkStopped r) s = .next s) ∧
    (∀ p : Proc, s.traced p = false ∨ (s.trcSrc p).cyc ≠ 2 ^ 40 - 1 → exec (.syncLong p) s = .next s) ∧
    (∀ p : Proc, s.traced p = true → (s.trcSrc p).cyc = 2 ^ 40 - 1 → (s.trcSrc p).atom = [] → (s.trcSrc p).lost = none →
      (s.trcSrc p).staged = [] → (s.trcSrc p).cur.length + 19 < 55 → ∃ t, exec (.syncLong p) s = .next t ∧
      (t.trcSrc p).cur = (s.trcSrc p).cur ++ packetBytes ([0x01, 4 + 8 * flag (s.inFast p)] ++ leBytes 2 (s.ppc p) ++
        leBytes 5 (fracOf s.instant) ++ leBytes 5 (secOf s.instant) ++ leBytes 5 s.time.strideNum) ∧
      t.trcSrc p = { s.trcSrc p with cyc := 0, sinceSync := 0, sync := none, cur := (t.trcSrc p).cur } ∧
      (∀ q : Proc, q ≠ p → t.trcSrc q = s.trcSrc q) ∧ t = { s with trc := t.trc }) ∧
    (∀ v : Word, sink = 0 → exec (.trcSrcWrite r v) s = .next (s.setReg .TRC_SRC r 0 (BitVec.ofNat 40 (v.toNat % 2 ^ 34)))) ∧
    (∀ v : Word, sink ≠ 0 → ∃ t, exec (.trcSrcWrite r v) s = .next t ∧ t.fld F.TRC_SRC.EN r = bitsOf v.toNat 16 0 ∧
      (∀ i, i < 17 →
        let was := bitOf (s.fld F.TRC_SRC.EN r) i
        (was = false → bitOf v.toNat i = true → src t i = { src s i with sync := some 0 }) ∧
        (was = true → bitOf v.toNat i = false → (src s i).atom = [] → (src s i).lost = none → (src s i).staged = [] →
          (src s i).cur.length + 4 < 55 → s.fld F.TRC_CTRL.CYC_EN r = 0 → (src t i).cur = [] ∧ (src t i).staged =
            [⟨(src s i).seq, true, (src s i).cur ++ packetBytes ([0x08, 3] ++ leBytes 2 (s.ppc (srcProc r i)))⟩]) ∧
        (was = bitOf v.toNat i → src t i = src s i)) ∧
      t = { s with regs := t.regs, trc := t.trc, detected := t.detected, free := t.free })

/-- R26, R27, R28, R295, R297, R307, R315-R317, R401: a request to a reserved address answers ADDR_UNMAPPED and one to an
offline node DOMAIN_OFFLINE; RD and WR move the words that WEN names of a main-memory block or of scratchpad slots,
RDL and WRL whole lines in order, and no byte outside them changes; whole lines of slot form answer ALIGN, and 10 to
15 lines are a format error with BAD_DESC; a waiting QUIESCE holds them at the source, and a node under reset until
its reset ends. Points the rules leave open are the model's own readings: log entry 44. -/
def Obligations.ReadsAndWritesMoveTheNamedWords : Prop :=
  ∀ (s : State) (src : BitVec 8) (tag : BitVec 16) (addr : Word) (wen : BitVec 12) (lines : Fin 16) (stride : Nat)
    (words : List Word), s.net.waitReq = [] → s.net.accepted = [] → probing s = false →
    let a := addr.toNat
    let blk := a / 64 * 64
    let n := lines.val + 1
    let answer := fun (rd : Bool) (st : Nat) (ws : List Word) => s.resps ++
      [{ isRead := rd, dst := src.toNat, tag := tag.toNat, status := st, words := ws,
         node := (nodeOf a).getD (srcPort src.toNat) }]
    let misfit := fun (rd : Bool) => s.resps ++
      [{ isRead := rd, dst := src.toNat, tag := tag.toNat, status := 9, node := 2 * (srcPort src.toNat / 2) }]
    let rd := exec (.rd src tag addr wen) s
    let rdl := exec (.rdl src tag addr lines) s
    let wr := exec (.wr src tag addr wen stride words) s
    let wrl := exec (.wrl src tag addr lines stride words []) s
    let picked := fun (w : Nat → Word) (m : Nat) => ((List.range m).filter (fun k => bitOf wen.toNat k)).map w
    (nodeOf a = none →
      rd = .next { s with resps := answer true 1 (List.replicate (popBits 12 wen.toNat) 0) } ∧
      wr = .next { s with resps := answer false 1 [] } ∧
      (lines.val < 10 → rdl = .next { s with resps := answer true 1 (List.replicate (12 * n) 0) } ∧
        wrl = .next { s with resps := answer false 1 [] })) ∧
    (∀ node, nodeOf a = some node → nodeState s node = 0 → asleep s blk wen.toNat = false → s.swapState = 2 → ∃ q : NetReq, q.src = src.toNat ∧ q.tag = tag.toNat ∧ q.addr = a ∧
      q.op = 2 ∧ q.words = words ∧ wr = .next { s with net := { s.net with waitReq := [q] } }) ∧
    (∀ node, nodeOf a = some node → nodeState s node = 0 → asleep s blk wen.toNat = false → nodeReset s node = true →
      heldBack s { op := 2, src := src.toNat, tag := tag.toNat, addr := a, sel := wen.toNat, stride := stride } = false →
      ∃ q : NetReq, q.src = src.toNat ∧ q.tag = tag.toNat ∧ q.addr = a ∧ q.op = 2 ∧ q.words = words ∧
      wr = .next { s with net := { s.net with accepted := [q] } }) ∧
    (∀ node, nodeOf a = some node → nodeState s node = 2 →
      rd = .next { s with resps := answer true 2 (List.replicate (popBits 12 wen.toNat) 0) } ∧
      wr = .next { s with resps := answer false 2 [] } ∧
      (lines.val < 10 → rdl = .next { s with resps := answer true 2 [] } ∧ wrl = .next { s with resps := answer false 2 [] })) ∧
    (∀ node, nodeOf a = some node → netCalm s = true → nodeState s node = 0 → a < 0x2000000000 →
      (∀ r : Region, s.fld F.MEM_CTRL.DIAG r = 0) → (rsDecode (bytesAt s.mem blk 64)).2 = 0 →
      (∃ t, rd = .next t ∧ t.resps = answer true 0 (picked (fun k => s.readBlk (blk + 5 * k)) 12) ∧
        t = { s with resps := t.resps, net := t.net }) ∧
      (words.length = popBits 12 wen.toNat → ∃ t, wr = .next t ∧ t.resps = answer false 0 [] ∧
        (∀ k, k < 12 → t.readBlk (blk + 5 * k) =
          if bitOf wen.toNat k then words.getD (popBits k wen.toNat) 0 else s.readBlk (blk + 5 * k)) ∧
        (∀ b, b < blk ∨ blk + 64 ≤ b → readByte t.mem b = readByte s.mem b) ∧
        t = { s with resps := t.resps, net := t.net, mem := t.mem })) ∧
    (∀ node, nodeOf a = some node → netCalm s = true → nodeState s node = 0 → lines.val < 10 → blk + 64 * n ≤ 0x2000000000 →
      (∀ r : Region, s.fld F.MEM_CTRL.DIAG r = 0) →
      ((∀ j, j < n → (rsDecode (bytesAt s.mem (blk + 64 * j) 64)).2 = 0) → ∃ t, rdl = .next t ∧
        t.resps = answer true 0 ((List.range (12 * n)).map (fun k => s.readBlk (blkWord blk k))) ∧
        t = { s with resps := t.resps, net := t.net }) ∧
      (words.length = 12 * n → ∃ t, wrl = .next t ∧ t.resps = answer false 0 [] ∧
        (∀ k, k < 12 * n → t.readBlk (blkWord blk k) = words.getD k 0) ∧
        (∀ b, b < blk ∨ blk + 64 * n ≤ b → readByte t.mem b = readByte s.mem b) ∧
        t = { s with resps := t.resps, net := t.net, mem := t.mem })) ∧
    (∀ (tl : Tile) (w : Nat), w < 131072 → w % 8 = 0 → a = 0x4100000000 + tl.val * 0x100000 + 8 * w → netCalm s = true →
      nodeState s (2 * tl.val) = 0 → spdMarching s tl = false → (∀ k, k < 8 → mget 0 s.memErr (spdAddr tl (w + k)) = 0) →
      (∃ t, rd = .next t ∧ t.resps = answer true 0 (picked (fun k => s.readBlk (spdAddr tl (w + k))) 8) ∧
        t = { s with resps := t.resps, net := t.net }) ∧
      (words.length = popBits 8 wen.toNat → ∃ t, wr = .next t ∧ t.resps = answer false 0 [] ∧
        (∀ k, k < 8 → bitOf wen.toNat k = true → t.readBlk (spdAddr tl (w + k)) = words.getD (popBits k wen.toNat) 0) ∧
        (∀ b, (∀ k, k < 8 → bitOf wen.toNat k = true → b < spdAddr tl (w + k) ∨ spdAddr tl (w + k) + 5 ≤ b) →
          readByte t.mem b = readByte s.mem b) ∧
        t = { s with resps := t.resps, net := t.net, mem := t.mem, memErr := t.memErr }) ∧
      (lines.val < 10 → ∃ t u, rdl = .next t ∧ wrl = .next u ∧ t.resps = answer true 10 [] ∧ u.resps = answer false 10 [] ∧
        t = { s with resps := t.resps, net := t.net } ∧ u = { s with resps := u.resps, net := u.net })) ∧
    (10 ≤ lines.val → ∃ t u, rdl = .next t ∧ wrl = .next u ∧ t.resps = misfit true ∧ u.resps = misfit false ∧
      bitOf (t.fld F.NOC_RSTAT.EVT (srcPort src.toNat / 2)) 3 = true ∧ t.mem = s.mem ∧ u.mem = s.mem ∧
      (bitOf (s.fld F.NOC_RSTAT.EVT (srcPort src.toNat / 2)) 3 = false → Reports s t 0x3604 ∧ Reports s u 0x3604))

/-- R302, R307, R173, R205, R283, R297, R401: LEASE queues at an open node, one of a port at a time; GRANT gives the
oldest lease what is free, at most 8 to a port, and queues the remainder, while a push that waits keeps its entry;
RECALL, RETURN and the idle limit give unused entries back to the node; a closing node with nothing granted and no
request of its own open goes OFFLINE; a power handshake changes nothing else. A response leaves the network and
reaches its requester: a supervisor's load writes its register and an error writes 0 and sets NERR, an acknowledged
NST is outstanding no longer, MEMACC takes its status and data, a ring write of a sink is acknowledged, and one that
no requester waits for, or whose requester was reset, is discarded; with no response of that tag that can arrive
nothing happens. Points the rules leave open are the model's own readings: log entry 43. -/
def Obligations.LeasesAndResponsesReachTheirOwners : Prop :=
  (
  ∀ (s : State) (port node : Fin 128) (n : Fin 8), probing s = false → s.net.waitReq = [] → s.net.accepted = [] →
    let k := 128 * port.val + node.val
    let held := fun t : State => mget 0 t.net.held k
    let used := fun t : State => mget 0 t.net.granted node.val
    let cap := if node.val % 2 = 0 then 32 else if node.val / 2 % 16 < 4 then 64 else 16
    let gives := fun (o : Host.Outcome State Fault Refusal) (m : Nat) => ∃ t, o = .next t ∧
      held t = held s - m ∧ used t = used s - Nat.min m (held s) ∧
      (∀ j, j ≠ k → mget 0 t.net.held j = mget 0 s.net.held j) ∧ t.net.asks = s.net.asks ∧ t = { s with net := t.net }
    (nodeState s node = 0 → (∀ e ∈ s.net.asks, ¬(e.1 = node.val ∧ e.2.1 = port.val)) →
      exec (.lease port node n) s = .next { s with net := { s.net with asks := s.net.asks ++ [(node.val, port.val, n.val + 1)] } }) ∧
    (nodeState s node ≠ 0 ∨ (∃ e ∈ s.net.asks, e.1 = node.val ∧ e.2.1 = port.val) → exec (.lease port node n) s = .next s) ∧
    ((∀ e ∈ s.net.asks, e.1 ≠ node.val) → exec (.grant node) s = .next s) ∧
    (∀ asked rest, s.net.asks = (node.val, port.val, asked) :: rest → (∀ e ∈ rest, ¬(e.1 = node.val ∧ e.2.1 = port.val)) →
      held s ≤ 8 → used s + entriesWaiting s node ≤ cap →
      let g := Nat.min (Nat.min asked (cap - (used s + entriesWaiting s node))) (8 - held s)
      ∃ t, exec (.grant node) s = .next t ∧ held t = held s + g ∧ used t = used s + g ∧
      (∀ j, j ≠ k → mget 0 t.net.held j = mget 0 s.net.held j) ∧
      t.net.asks = (if g = asked ∨ held s + g = 8 then rest else (node.val, port.val, asked - g) :: rest) ∧
      t = { s with net := t.net }) ∧
    gives (exec (.returnOp port node n) s) (n.val + 1) ∧
    (held s ≤ 8 → gives (exec (.recall port node) s) 8 ∧ gives (exec (.leaseIdle port node) s) 8) ∧
    exec (.pwr port node) s = .next s ∧
    (∀ (tile : Tile) (svc : Bool), node.val = 2 * tile.val + flag svc →
      (nodeState s node = 1 → used s = 0 → entriesWaiting s node = 0 → (∀ x ∈ s.resps, srcPort x.dst ≠ node.val) → ∃ t, exec (.nodeOffline tile svc) s = .next t ∧ nodeState t node = 2 ∧
        (∀ m, m < 128 → m ≠ node.val → nodeState t m = nodeState s m) ∧ t = { s with regs := t.regs }) ∧
      (nodeState s node ≠ 1 ∨ used s ≠ 0 ∨ entriesWaiting s node ≠ 0 ∨ (∃ x ∈ s.resps, srcPort x.dst = node.val) → exec (.nodeOffline tile svc) s = .next s))) ∧
  (
  ∀ (s : State) (dst : BitVec 8) (tag : BitVec 16), s.net.waitReq = [] → s.net.accepted = [] → s.swapState ≠ 2 → s.swapState ≠ 3 →
    let mine := fun (rd : Bool) (x : Resp) => x.isFor s rd dst.toNat tag.toNat
    (s.resps.find? (mine true) = none → exec (.rdata dst tag) s = .next s) ∧
    (s.resps.find? (mine false) = none → exec (.wack dst tag) s = .next s) ∧
    (∀ x, s.resps.find? (mine true) = some x →
      let data := x.words.headD 0
      (x.late = true → exec (.rdata dst tag) s = .next { s with resps := s.resps.erase x, lastRead := data }) ∧
      (x.late = false → dst.toNat = 0x5B → exec (.rdata dst tag) s = .next { s with
        resps := s.resps.erase x, lastRead := data
        jtag := { s.jtag with status := x.status, data := if x.status = 0 then data else s.jtag.data } }) ∧
      (dst.toNat < 0x40 ∨ (0x44 ≤ dst.toNat ∧ dst.toNat < 0x4C) ∨ 0x5C ≤ dst.toNat →
        exec (.rdata dst tag) s = .next { s with resps := s.resps.erase x, lastRead := data }) ∧
      (∀ (r : Region) rd at_, x.late = false → dst.toNat = 0x40 + r.val → (s.proc (64 + r)).net = .load rd at_ → s.traced (64 + r) = false →
        (s.proc (64 + r)).rtf = false → (s.proc (64 + r)).haltReq = false → (s.proc (64 + r)).stepping = false → ∃ t, exec (.rdata dst tag) s = .next t ∧
        t.resps = s.resps.erase x ∧ (t.proc (64 + r)).net = .none ∧
        t.getX (64 + r) rd = (if x.status = 0 then data else 0) ∧
        (∀ k, k ≠ rd → t.getX (64 + r) k = s.getX (64 + r) k) ∧ t.sr (64 + r) = s.sr (64 + r) ∧
        t.fld F.SUP_NSTAT.NERR r = (if x.status = 0 then s.fld F.SUP_NSTAT.NERR r else 1) ∧
        (x.status ≠ 0 → x.status < 16 → s.fld F.SUP_NSTAT.NERR r = 0 → t.fld F.SUP_NSTAT.STATUS r = x.status) ∧
        t = { s with resps := t.resps, lastRead := t.lastRead, regs := t.regs, procs := t.procs, free := t.free })) ∧
    (∀ x, s.resps.find? (mine false) = some x →
      (x.late = true → exec (.wack dst tag) s = .next { s with resps := s.resps.erase x }) ∧
      (x.late = false → dst.toNat = 0x5B → exec (.wack dst tag) s = .next { s with
        resps := s.resps.erase x, jtag := { s.jtag with status := x.status } }) ∧
      ((0x4C ≤ dst.toNat ∧ dst.toNat < 0x58) ∨ 0x5C ≤ dst.toNat → exec (.wack dst tag) s = .next { s with resps := s.resps.erase x }) ∧
      (∀ e, x.late = false → dst.toNat = 0x58 → tag.toNat < 0xC000 → x.status = 0 →
        s.host.writes.find? (fun e => e.1 == tag.toNat) = some e → exec (.wack dst tag) s = .next { s with
        resps := s.resps.erase x, host := { s.host with writes := s.host.writes.erase e } }) ∧
      (∀ r : Region, x.late = false → dst.toNat = 0x40 + r.val → tag.toNat < 0x8000 → (s.proc (64 + r)).net = .none →
        0 < s.fld F.SUP_NSTAT.OUTSTANDING r → ∃ t, exec (.wack dst tag) s = .next t ∧ t.resps = s.resps.erase x ∧
        t.fld F.SUP_NSTAT.OUTSTANDING r = s.fld F.SUP_NSTAT.OUTSTANDING r - 1 ∧
        t.fld F.SUP_NSTAT.NERR r = (if x.status = 0 then s.fld F.SUP_NSTAT.NERR r else 1) ∧
        (x.status ≠ 0 → bitOf (s.fld F.SUP_STATUS.EVT r) 3 = false → Reports s t 0x4204) ∧
        t = { s with resps := t.resps, regs := t.regs, detected := t.detected }) ∧
      (∀ r : Region, x.late = false → dst.toNat = 0x48 + r.val → x.status = 0 → exec (.wack dst tag) s = .next
        (State.setTrcUnit { s with resps := s.resps.erase x } r { s.trcUnit r with ringWait := (s.trcUnit r).ringWait - 1 }))))

/-- R297, R300, R301, R304, R305, R309, R310: reserved encodings, CRC errors and shortfalls are counted and reported, and
the eighth failed replay takes the link down both ways; a swap is checked, refused while another is in progress,
cancelled, timed out or made, and the pending table stays the copy of the active one; the probe collector starts with
a good ring and writes its staged records in order. Points the rules leave open are the model's own readings: log
entries 38, 45 and 60. -/
def Obligations.LinksSwapsAndProbesReport : Prop :=
  ∀ (s : State) (t : Tile), s.net.waitReq = [] → s.net.accepted = [] →
    let evt := fun (u : State) (n : Nat) => bitOf (u.fld F.NOC_RSTAT.EVT n)
    (∀ reply, s.net.fmtInj = none → ∃ u, exec (.nocFormat t reply) s = .next u ∧ evt u t 3 = true ∧
      (evt s t 3 = false → Reports s u 0x3604) ∧
      u.resps = s.resps ++ (match reply with
        | none => []
        | some (rd, src, tag) => [{ isRead := rd, dst := src.toNat, tag := tag.toNat, status := 9, node := 2 * t.val }]) ∧
      u = { s with regs := u.regs, detected := u.detected, resps := u.resps }) ∧
    (∀ (out : Fin 4) (fails : Fin 16), mget 0 s.net.crcInj (4 * t.val + out.val) = 0 →
      mget false s.net.down (4 * t.val + out.val) = false → fails.val ≠ 0 →
      let n := hopTo t out
      let back := if out = 0 then 1 else if out = 1 then 0 else if out = 2 then 3 else 2
      ∃ u, exec (.nocCrc t out fails) s = .next u ∧ evt u n 0 = true ∧
      (8 < fails.val → evt u n 1 = true ∧ mget false u.net.down (4 * t.val + out.val) = true ∧ mget false u.net.down (4 * n + back) = true) ∧
      (fails.val ≤ 8 → u.net = s.net ∧ (evt s n 0 = false → Reports s u 0x3601)) ∧
      u = { s with regs := u.regs, detected := u.detected, net := u.net }) ∧
    (∀ svc : Bool, ∃ u, exec (.nocBwShort t svc) s = .next u ∧ evt u t 2 = true ∧ (evt s t 2 = false → Reports s u 0x3603) ∧
      (let f := if svc then F.NOC_RES_STAT.SHORT_S else F.NOC_RES_STAT.SHORT_L
       u.fld f t = Nat.min (s.fld f t + 1) (2 ^ (f.hi + 1 - f.lo) - 1)) ∧ u = { s with regs := u.regs, detected := u.detected }) ∧
    (∀ (imm : Bool) (lim : BitVec 10), s.swapState ≠ 0 → exec (.swap imm lim) s = .next (s.setFld F.NOC_SWAP_STAT.RES 0 0 3)) ∧
    (∀ (imm : Bool) (lim : BitVec 10), s.swapState = 0 → ∃ u, exec (.swap imm lim) s = .next u ∧ u.swapState = 1 ∧
      u.fld F.NOC_SWAP.MODE = flag imm ∧ u.fld F.NOC_SWAP.TIMEOUT = lim.toNat ∧ u = { s with regs := u.regs }) ∧
    (s.swapState ≠ 0 → ∃ u, exec .swapCancel s = .next u ∧ u.swapState = 0 ∧ u.fld F.NOC_SWAP_STAT.RES = 4 ∧
      u = { s with regs := u.regs }) ∧
    (s.swapState = 2 → ∃ u, exec .nocSwapTimeout s = .next u ∧ u.swapState = 0 ∧ u.fld F.NOC_SWAP_STAT.RES = 2 ∧ Reports s u 0x5202 ∧
      u = { s with regs := u.regs, detected := u.detected }) ∧
    (s.swapState ≠ 2 → exec .nocSwapTimeout s = .next s) ∧
    (s.swapState ≠ 1 → exec .tableCheckDone s = .next s) ∧
    (∀ x, s.swapState = 1 → checkTables s (s.on F.NOC_SWAP.MODE) = some x → ∃ u, exec .tableCheckDone s = .next u ∧
      u.swapState = 0 ∧ u.fld F.NOC_SWAP_STAT.RES = 1 ∧ Reports s u 0x5201 ∧
      (∀ n d : Tile, u.tblAct n d = s.tblAct n d ∧ u.tblPend n d = s.tblPend n d)) ∧
    (s.swapState = 1 → checkTables s (s.on F.NOC_SWAP.MODE) = none → s.time.running = true → ∃ u, exec .tableCheckDone s = .next u ∧
      u.swapState = (if s.fld F.NOC_SWAP.MODE = 1 then 3 else 2) ∧ u = { s with regs := u.regs }) ∧
    (s.swapState = 1 → checkTables s (s.on F.NOC_SWAP.MODE) = none → s.time.running = false → s.resps = [] →
      ∃ u, exec .tableCheckDone s = .next u ∧ u.swapState = 0 ∧ u.fld F.NOC_SWAP_STAT.RES = 0 ∧
      u.fld F.NOC_SWAP_STAT.COUNT = (s.fld F.NOC_SWAP_STAT.COUNT + 1) % 2 ^ (F.NOC_SWAP_STAT.COUNT.hi + 1 - F.NOC_SWAP_STAT.COUNT.lo) ∧
      (s.regs.Pairwise (fun x y => x.1 < y.1) → ∀ n d : Tile, u.tblAct n d = s.tblPend n d ∧ u.tblPend n d = s.tblPend n d) ∧
      u = { s with regs := u.regs, queues := s.queues.map (fun e =>
        (e.1, { e.2 with waiting := e.2.waiting.map (fun p => { p with old := true }) })) }) ∧
    (∀ r : Region, let len := s.fld F.NOC_PC_LEN.BLOCKS r
      s.fld F.NOC_PC_CTRL.EN r = 0 →
      ((len = 0 ∨ 0x2000000000 < 64 * s.fld F.NOC_PC_BASE.ADDR r + 64 * len) → ∃ u, exec (.probeCollectorStart r) s = .next u ∧
        u.fld F.NOC_PC_CTRL.EN r = 0 ∧ u.fld F.NOC_PC_CTRL.CFG_ERR r = 1 ∧ u = { s with regs := u.regs }) ∧
      (len ≠ 0 → 64 * s.fld F.NOC_PC_BASE.ADDR r + 64 * len ≤ 0x2000000000 → ∃ u, exec (.probeCollectorStart r) s = .next u ∧
        u.fld F.NOC_PC_CTRL.EN r = 1 ∧ u.reg .NOC_PC_WP r = 0 ∧ u.reg .NOC_PC_RP r = 0 ∧
        (∀ e ∈ u.net.staged, e.1 ≠ r.val) ∧ u = { s with regs := u.regs, net := u.net })) ∧
    (∀ r : Region, (∀ e ∈ s.net.staged, e.1 ≠ r.val) → exec (.probeRecord r) s = .next s) ∧
    (∀ (r : Region) ws rest, s.net.staged = (r.val, ws) :: rest →
      let k := s.fld F.NOC_PC_WP.COUNT r
      let len := s.fld F.NOC_PC_LEN.BLOCKS r
      let at_ := 64 * s.fld F.NOC_PC_BASE.ADDR r + k / 3 % len * 64
      len ≠ 0 → ws.length = 4 → memAccess s at_ = 0 → s.fld F.MEM_CTRL.DIAG (memRegion at_) = 0 →
      (rsDecode (bytesAt s.mem at_ 64)).2 = 0 → ∃ u, exec (.probeRecord r) s = .next u ∧ u.net.staged = rest ∧
      u.fld F.NOC_PC_WP.COUNT r = (k + 1) % 2 ^ 40 ∧
      (∀ j, j < 4 → u.readBlk (at_ + 20 * (k % 3) + 5 * j) = ws.getD j 0) ∧
      (∀ b, b < at_ + 20 * (k % 3) ∨ at_ + 20 * (k % 3) + 20 ≤ b → b < at_ + 60 ∨ at_ + 64 ≤ b → readByte u.mem b = readByte s.mem b) ∧
      u = { s with regs := u.regs, net := u.net, mem := u.mem })

/-- R325, R326, R331-R334: WRITE makes the next object of its blocks, READ copies blocks out, DELETE removes, STAT writes
the record, FORMAT erases all where it is allowed; an empty one does nothing, and NO_OBJ, RANGE, ARC_FULL, WRONG_MODE
and OFFLINE answer as the rules say; a completion writes its record, leaves the queue and moves no object. Points the
rules leave open are the model's own readings: log entries 36, 40 and 41. -/
def Obligations.ArchiveCommandsAnswerAndComplete : Prop :=
  ∀ (s : State) (r : Region) (i : Fin 16) (m : Media) (c : ArcCmd),
    let a := s.arc r
    let run := match c.op with
      | 1 => exec (.write r i m) s
      | 2 => exec (.read r i m) s
      | 3 => exec (.delete r i) s
      | 4 => exec (.stat r i) s
      | _ => exec (.format r i) s
    let answers := fun (st obj moved : Nat) (t : State) => (t.arc r).cmds = a.cmds.set i { c with done := some (st, obj, moved, 0) }
    let rangeOk := c.addr % 64 = 0 ∧ c.addr + 64 * (if c.op = 4 then 1 else c.len) ≤ 0x2000000000
    let online := ∀ j, j < (if c.op = 4 then 1 else c.len) → memAccess s (c.addr + 64 * j) = 0
    let obj := a.objs.find? (fun o => o.num == c.obj)
    (a.cmds[i.val]? = some c → s.fld F.ARC_STATUS.READY r = 0 → run = .next s) ∧
    (a.cmds[i.val]? = none → run = .next s ∧ exec (.archiveCommandComplete r i) s = .next s) ∧
    (a.cmds[i.val]? = some c → c.done = none → exec (.archiveCommandComplete r i) s = .next s) ∧
    (a.cmds[i.val]? = some c → c.done = none → s.fld F.ARC_STATUS.READY r = 1 →
      ((c.op = 1 ∨ c.op = 2) → c.len = 0 → ∃ t, run = .next t ∧ answers 0 0 0 t ∧ (t.arc r).objs = a.objs ∧ t = { s with arcs := t.arcs }) ∧
      (c.op = 1 → c.len ≠ 0 → ¬rangeOk → ∃ t, run = .next t ∧ answers 3 0 0 t ∧ (t.arc r).objs = a.objs ∧ t = { s with arcs := t.arcs }) ∧
      (c.op = 1 → c.len ≠ 0 → rangeOk → arcFree s r < c.len → ∃ t, run = .next t ∧ answers 1 0 0 t ∧ (t.arc r).objs = a.objs ∧
        bitOf (t.fld F.ARC_STATUS.EVT r) 2 = true ∧ t = { s with arcs := t.arcs, regs := t.regs, detected := t.detected }) ∧
      (c.op = 1 → c.len ≠ 0 → rangeOk → c.len ≤ arcFree s r → ¬online → (∀ b : Region, s.fld F.MEM_CTRL.DIAG b = 1) →
        ∃ t, run = .next t ∧ answers 11 0 0 t ∧ (t.arc r).objs = a.objs ∧ t.mem = s.mem) ∧
      (c.op = 1 → c.len ≠ 0 → rangeOk → c.len ≤ arcFree s r → online → (∀ b : Region, s.fld F.MEM_CTRL.DIAG b = 0) →
        (∀ j, j < c.len → (rsDecode (bytesAt s.mem (c.addr + 64 * j) 64)).2 = 0) → ∃ t, run = .next t ∧
        answers 0 (s.fld F.ARC_NEXT_OBJ.OBJ r) c.len t ∧
        t.fld F.ARC_NEXT_OBJ.OBJ r = (s.fld F.ARC_NEXT_OBJ.OBJ r + 1) % 2 ^ 40 ∧
        (t.arc r).objs = a.objs ++ [{ num := s.fld F.ARC_NEXT_OBJ.OBJ r, heat := false, isOpen := false, badBlk := false
                                      region := 0, chan := 0, seq := 0, time := s.instant, tag := c.tag
                                      blocks := (List.range c.len).map (fun j =>
                                        (List.range 12).map (fun k => s.readBlk (c.addr + 64 * j + 5 * k))) }] ∧
        t = { s with arcs := t.arcs, regs := t.regs, detected := t.detected }) ∧
      ((c.op = 3 ∨ c.op = 4 ∨ (c.op = 2 ∧ c.len ≠ 0)) → obj = none → ∃ t, run = .next t ∧ answers 2 c.obj 0 t ∧
        (t.arc r).objs = a.objs ∧ t = { s with arcs := t.arcs }) ∧
      (∀ o, c.op = 2 → c.len ≠ 0 → obj = some o → (o.blocks.length < c.off + c.len ∨ ¬rangeOk) → ∃ t, run = .next t ∧
        answers 3 c.obj 0 t ∧ t = { s with arcs := t.arcs }) ∧
      (∀ o, c.op = 2 → c.len ≠ 0 → obj = some o → c.off + c.len ≤ o.blocks.length → rangeOk → online → m.uncorr = [] →
        a.uncorr = false → (∀ b ∈ o.blocks, b.length = 12) → ∃ t, run = .next t ∧ answers 0 c.obj c.len t ∧
        (∀ j k, j < c.len → k < 12 → t.readBlk (c.addr + 64 * j + 5 * k) = (o.blocks.getD (c.off + j) []).getD k 0) ∧
        (∀ b, b < c.addr ∨ c.addr + 64 * c.len ≤ b → readByte t.mem b = readByte s.mem b) ∧ (t.arc r).objs = a.objs ∧
        t = { s with arcs := t.arcs, regs := t.regs, detected := t.detected, mem := t.mem }) ∧
      (c.op = 3 → obj ≠ none → ∃ t, run = .next t ∧ answers 0 c.obj 0 t ∧
        (t.arc r).objs = a.objs.filter (fun o => o.num != c.obj) ∧ t = { s with arcs := t.arcs }) ∧
      (∀ o, c.op = 4 → obj = some o → ¬rangeOk → ∃ t, run = .next t ∧ answers 3 c.obj 0 t ∧ t = { s with arcs := t.arcs }) ∧
      (∀ o, c.op = 4 → obj = some o → rangeOk → ¬online → ∃ t, run = .next t ∧ answers 11 c.obj 0 t ∧ t = { s with arcs := t.arcs }) ∧
      (∀ o, c.op = 4 → obj = some o → rangeOk → online → o.region < 4 → o.chan < 16 → ∃ t, run = .next t ∧ answers 0 c.obj 1 t ∧
        t.readBlk c.addr = BitVec.ofNat 40 o.num ∧ bitsOf (t.readBlk (c.addr + 5)).toNat 39 38 = (if o.heat then 2 else 1) ∧
        t.readBlk (c.addr + 10) = BitVec.ofNat 40 o.seq ∧ t.readBlk (c.addr + 15) = BitVec.ofNat 40 o.blocks.length ∧
        t.readBlk (c.addr + 30) = BitVec.ofNat 40 o.tag ∧
        (∀ b, b < c.addr ∨ c.addr + 64 ≤ b → readByte t.mem b = readByte s.mem b) ∧ t = { s with arcs := t.arcs, mem := t.mem }) ∧
      (c.op = 5 → s.fld F.ARC_CTRL.FMT_EN r = 1 → a.cmds.length = 1 → ∃ t, run = .next t ∧ answers 0 0 0 t ∧ (t.arc r).objs = [] ∧
        t.fld F.ARC_NEXT_OBJ.OBJ r = 1 ∧ t = { s with arcs := t.arcs, regs := t.regs }) ∧
      (c.op = 5 → (s.fld F.ARC_CTRL.FMT_EN r = 0 ∨ a.cmds.length ≠ 1) → ∃ t, run = .next t ∧ answers 7 0 0 t ∧
        (t.arc r).objs = a.objs ∧ t = { s with arcs := t.arcs })) ∧
    (∀ st ob moved fails, a.cmds[i.val]? = some c → c.done = some (st, ob, moved, fails) → c.op < 16 → st < 16 →
      let k := s.fld F.ARC_CPL_WP.COUNT r
      let len := s.fld F.ARC_CPL_LEN.BLOCKS r
      let at_ := 64 * s.fld F.ARC_CPL_BASE.ADDR r + k / 3 % len * 64
      len ≠ 0 → memAccess s at_ = 0 → s.fld F.MEM_CTRL.DIAG (memRegion at_) = 0 → (rsDecode (bytesAt s.mem at_ 64)).2 = 0 →
      ∃ t, exec (.archiveCommandComplete r i) s = .next t ∧ (t.arc r).cmds = a.cmds.eraseIdx i ∧
      (c.op ≠ 1 → (t.arc r).objs = a.objs) ∧ t.fld F.ARC_CPL_WP.COUNT r = (k + 1) % 2 ^ 40 ∧
      (let w := fun j => t.readBlk (at_ + 20 * (k % 3) + 5 * j)
       bitsOf (w 0).toNat 39 36 = c.op ∧ bitsOf (w 0).toNat 35 32 = st ∧ bitsOf (w 0).toNat 31 20 = c.tag % 4096 ∧
       w 1 = BitVec.ofNat 40 ob ∧ w 2 = BitVec.ofNat 40 moved ∧ w 3 = BitVec.ofNat 40 (fracOf s.instant)) ∧
      (∀ b, b < at_ ∨ at_ + 64 ≤ b → readByte t.mem b = readByte s.mem b) ∧
      t = { s with arcs := t.arcs, regs := t.regs, mem := t.mem })

/-- R326, R328-R330, R335: a binding starts at HEAT_RP and keeps while it is valid; the next closed heat of a binding
becomes one object of 2 + EVB + d blocks, NEXT advances, and HEAT_RP with ADV_RP; a slot reused meanwhile is
OVERTAKEN; a full archive or no heat leaves everything; a copy that met offline memory waits for its retry; patrol,
cleaner and the rebuilt directory count what the flash reported and change no object. Points the rules leave open are
the model's own readings: log entries 41 and 42. -/
def Obligations.BoundHeatsAndFlashUpkeep : Prop :=
  ∀ (s : State) (r : Region) (n : Fin 16) (m : Media),
    let a := s.arc r
    let hr := s.fld F.ARC_BIND.REGION r n
    let hc := s.fld F.ARC_BIND.CHANNEL r n
    let q := s.fld F.HEAT_DONE.SEQ hr hc - 1
    let runs := s.fld F.ARC_CTRL.EN r = 1 ∧ s.fld F.ARC_STATUS.READY r = 1
    let sat := fun (t : State) (f : Fld) (k : Nat) => t.fld f r = Nat.min (s.fld f r + k) (2 ^ (f.hi + 1 - f.lo) - 1)
    let seen := fun (t : State) (uncorr : List Nat) =>
      sat t F.ARC_ECC.RETRIES (m.retries + uncorr.length) ∧ sat t F.ARC_ECC.UNCORR uncorr.length ∧
      sat t F.ARC_HEALTH.GROWN (m.fails + m.soft) ∧ (t.arc r).retired = a.retired + m.lost ∧
      (m.fails ≠ 0 → bitOf (t.fld F.ARC_STATUS.EVT r) 1 = true) ∧ (m.low = true → bitOf (t.fld F.ARC_STATUS.EVT r) 4 = true) ∧
      (uncorr ≠ [] → bitOf (t.fld F.ARC_STATUS.EVT r) 0 = true)
    let upkeep := fun (t : State) => (t.arc r).objs = a.objs ∧ (t.arc r).cmds = a.cmds ∧
      t = { s with arcs := t.arcs, regs := t.regs, detected := t.detected }
    (∀ v : Word, v.getLsbD 39 = true → s.fld F.ARC_BIND.VALID r n = 1 → exec (.arcBind r n v) s = .next s) ∧
    (∀ v : Word, ¬(v.getLsbD 39 = true ∧ s.fld F.ARC_BIND.VALID r n = 1) → ∃ t, exec (.arcBind r n v) s = .next t ∧
      t.fld F.ARC_BIND.VALID r n = flag (v.getLsbD 39) ∧ t.fld F.ARC_BIND.REGION r n = bitsOf v.toNat 37 36 ∧
      t.fld F.ARC_BIND.CHANNEL r n = bitsOf v.toNat 35 32 ∧ t.fld F.ARC_BIND.ADV_RP r n = bitsOf v.toNat 38 38 ∧
      (v.getLsbD 39 = true → t.fld F.ARC_BIND.NEXT r n = s.fld F.HEAT_RP.SEQ (bitsOf v.toNat 37 36) (bitsOf v.toNat 35 32) % 2 ^ 32) ∧
      KeepsRegs s t [regAddr .ARC_BIND r n] ∧ t = { s with regs := t.regs, arcs := t.arcs }) ∧
    ((¬runs ∨ n.val ∈ a.retry ∨ s.fld F.ARC_BIND.VALID r n = 0) → exec (.heatArchive r n m) s = .next s) ∧
    ((¬runs ∨ n.val ∉ a.retry) → exec (.offlineRetry r n m) s = .next s) ∧
    (s.fld F.ARC_BIND.VALID r n = 1 → s.fld F.HEAT_DONE.SEQ hr hc ≠ 0 → s.fld F.ARC_BIND.NEXT r n = q % 2 ^ 32 → runs →
      let slot := s.fld F.HEAT_BASE.ADDR hr hc * 64 +
        q % Nat.max (s.fld F.HEAT_NSLOT.NUM hr hc) 1 * s.fld F.HEAT_SLOT.BLOCKS hr hc * 64
      let h0 := (s.readBlk slot).toNat
      let u := if h0.testBit 27 ∨ bitsOf h0 22 20 = 3 then 12 else 60
      let nOut := (s.readBlk (slot + 64 + 20)).toNat
      let len := 2 + s.fld F.HEAT_SLOT.EVB hr hc +
        (Nat.min nOut ((s.fld F.HEAT_SLOT.BLOCKS hr hc - 2 - s.fld F.HEAT_SLOT.EVB hr hc) * u) + u - 1) / u
      bitsOf h0 39 38 = 2 → slot + 64 * len ≤ 0x2000000000 → (∀ b : Region, s.fld F.MEM_CTRL.DIAG b = 0) →
      (∀ j, j < len → memAccess s (slot + 64 * j) = 0 ∧ (rsDecode (bytesAt s.mem (slot + 64 * j) 64)).2 = 0) →
      (arcFree s r < len → n.val ∉ a.retry → ∃ t, exec (.heatArchive r n m) s = .next t ∧
        bitOf (t.fld F.ARC_STATUS.EVT r) 2 = true ∧ t = { s with regs := t.regs, detected := t.detected }) ∧
      (len ≤ arcFree s r → ∀ go, go = (if n.val ∈ a.retry then exec (.offlineRetry r n m) s else exec (.heatArchive r n m) s) →
        ∃ t, go = .next t ∧ t.fld F.ARC_BIND.NEXT r n = (q + 1) % 2 ^ 32 ∧ n.val ∉ (t.arc r).retry ∧
        t.fld F.HEAT_RP.SEQ hr hc = (if s.fld F.ARC_BIND.ADV_RP r n = 1 ∧ s.fld F.HEAT_RP.SEQ hr hc = q then q + 1
          else s.fld F.HEAT_RP.SEQ hr hc) ∧
        t.fld F.ARC_CPL_WP.COUNT r = (s.fld F.ARC_CPL_WP.COUNT r + 1) % 2 ^ 40 ∧
        ((s.readBlk (slot + 5)).toNat ≠ q → (t.arc r).objs = a.objs ∧ bitOf (t.fld F.ARC_STATUS.EVT r) 3 = true) ∧
        ((s.readBlk (slot + 5)).toNat = q → (t.arc r).objs = a.objs ++ [{
            num := s.fld F.ARC_NEXT_OBJ.OBJ r, heat := true, isOpen := false, badBlk := false, region := hr, chan := hc, seq := q
            time := s.instant, tag := 0xFFF, blocks := (List.range len).map (fun j =>
              (List.range 12).map (fun k => s.readBlk (slot + 64 * j + 5 * k))) }]))) ∧
    (s.fld F.ARC_CTRL.PATROL_EN r = 1 → s.fld F.ARC_STATUS.READY r = 1 → a.uncorr = false →
      ∃ t, exec (.patrol r m) s = .next t ∧ seen t m.uncorr ∧ upkeep t) ∧
    (s.fld F.ARC_CTRL.PATROL_EN r = 0 ∨ s.fld F.ARC_STATUS.READY r = 0 → exec (.patrol r m) s = .next s) ∧
    (s.fld F.ARC_STATUS.READY r = 1 → ∃ t, exec (.cleaner r m) s = .next t ∧ seen t m.uncorr ∧ upkeep t) ∧
    (∀ cut, ∃ t, exec (.archiveReady r cut m) s = .next t ∧ t.fld F.ARC_STATUS.READY r = 1 ∧ seen t m.uncorr ∧
      (cut = true → bitOf (t.fld F.ARC_STATUS.EVT r) 5 = true) ∧ upkeep t)

/-- R361, R364-R368, R370: a configuration command is refused with its reason, leaving everything else; LOAD, LOAD_SLOT
and PROG_N start a full load at step 1 with CFG_DONE low, LOAD_PARTIAL hunts for its header while the design runs;
STORE copies the stream into a slot, valid when it was programmed and its header matches, ERASE clears one; ABORT and
the timeout end the load; step 3 clears every row and the zone table; the rising edge of PROG_N acts on BOOT_SRC.
Points the rules leave open are the model's own readings: log entry 58. -/
def Obligations.LoadsBeginClearAndEnd : Prop :=
  ∀ (s : State) (slot : Fin 2),
    let l := s.load
    let res := fun (n : Nat) => Host.Outcome.next (s.setFld F.CFG_CMD.RES 0 0 n)
    let status := fun (t : State) (f : Fld) => t.fld f
    let far := 0x2000000000 < 64 * s.fld F.CFG_SRC_ADDR.ADDR + (s.fld F.CFG_SRC_LEN.BYTES + 59) / 60 * 64
    let begins := fun (o : Host.Outcome State Fault Refusal) (src : Nat) (prog : Bool) => ∃ t, o = .next t ∧ t.mode = .loading ∧
      t.load.kind = 1 ∧ t.load.phase = 1 ∧ t.load.src = src ∧ t.load.progSrc = prog ∧ status t F.CFG_STATUS.SRC = src ∧
      status t F.CFG_STATUS.RESULT = 0 ∧ status t F.CFG_STATUS.CAUSE = 0 ∧ status t F.CFG_STATUS.PARTIAL = 0 ∧
      status t F.CFG_STATUS.STEP = 1 ∧ status t F.CFG_STATUS.DONE_OUT = 0 ∧ t.ret = s.ret ∧ t.zones = s.zones ∧ t.store = s.store ∧
      (s.time.running = true → t = { s with mode := t.mode, load := t.load, rst := t.rst, frz := t.frz, jtag := t.jtag, regs := t.regs }) ∧
      (s.time.running = false → t.guns = [] ∧ t.time.start = none ∧ (∀ k : Lane, t.lf k F.LN_CTRL.EN = 0) ∧
        (∀ p : Proc, t.pstate p = 0 ∧ (t.proc p).eRst = true) ∧ (∀ r : Region, t.fld F.TRC_CTRL.SINK r = 0) ∧
        (∀ (r : Region) (c : Fin 16), t.chState r c = 0))
    let idleHere := l.kind = 0 ∧ l.fwd = false ∧ allRun s = true
    (l.kind = 1 → exec .load s = res 1 ∧ exec (.loadSlot slot) s = res 1) ∧
    (l.kind ≠ 1 → far → exec .load s = res 4) ∧
    (idleHere → ¬far → begins (exec .load s) 0 false) ∧
    (l.kind ≠ 1 → s.fld F.CFG_SLOT.VALID 0 slot = 0 → exec (.loadSlot slot) s = res 3) ∧
    (idleHere → s.fld F.CFG_SLOT.VALID 0 slot = 1 → begins (exec (.loadSlot slot) s) (slot + 1) false) ∧
    (idleHere → begins (exec .progN s) 0 true) ∧
    (s.mode ≠ .run → s.mode ≠ .frozen → exec .loadPartial s = res 2) ∧
    ((s.mode = .run ∨ s.mode = .frozen) → (l.kind ≠ 0 → exec .loadPartial s = res 1) ∧ (l.kind = 0 → far → exec .loadPartial s = res 4) ∧
      (l.kind = 0 → ¬far → ∃ t, exec .loadPartial s = .next t ∧ status t F.CFG_STATUS.PARTIAL = 1 ∧ status t F.CFG_STATUS.STEP = 2 ∧
        status t F.CFG_CMD.RES = 0 ∧ t.load.kind = 2 ∧ t.load.phase = 2 ∧ t.load.src = 0 ∧ t = { s with load := t.load, regs := t.regs })) ∧
    (slotBusy s slot = true ∨ l.storing ≠ none → exec (.store slot) s = res 1) ∧
    (slotBusy s slot = false → l.storing = none → (far ∨ 2 ^ 32 < s.fld F.CFG_SRC_LEN.BYTES) → exec (.store slot) s = res 4) ∧
    (slotBusy s slot = false → l.storing = none → ¬far → s.fld F.CFG_SRC_LEN.BYTES ≤ 2 ^ 32 → ∃ t, exec (.store slot) s = .next t ∧
      t.fld F.CFG_SLOT.VALID 0 slot = 0 ∧ status t F.CFG_CMD.RES = 0 ∧
      t.load = { l with storing := some (slot.val, s.fld F.CFG_SRC_ADDR.ADDR, s.fld F.CFG_SRC_LEN.BYTES) } ∧
      t = { s with load := t.load, regs := t.regs }) ∧
    (l.storing = none → ∀ ok, exec (.storeDone ok) s = .next s) ∧
    (∀ blk len, l.storing = some (slot.val, blk, len) → len < 2 ^ 32 → s.fld F.CFG_SLOT.VALID 0 slot = 0 →
      let byte := fun i => (readByte s.mem (64 * blk + i / 60 * 64 + i % 60)).toNat
      (s.fld F.CFG_SRC_LIMIT.BYTES < len → ∀ ok, exec (.storeDone ok) s = .next s) ∧
      (len ≤ s.fld F.CFG_SRC_LIMIT.BYTES → probing s = false →
        (∀ b, b < (len + 59) / 60 → memAccess s (64 * blk + 64 * b) = 0 ∧
          (rsDecode (bytesAt s.mem (64 * blk + 64 * b) 64)).2 = 0) →
      (∃ u, exec (.storeDone false) s = .next u ∧ u = { s with load := { l with storing := none }, net := u.net }) ∧
      ∃ t, exec (.storeDone true) s = .next t ∧ t.load.storing = none ∧
        (∀ i, i < len → (readByte t.store (storeAddr slot i)).toNat = byte i) ∧
        (∀ a, a < storeAddr slot 0 ∨ storeAddr slot 0 + 2 ^ 32 ≤ a → readByte t.store a = readByte s.store a) ∧
        t.fld F.CFG_SLOT.VALID 0 slot = flag (hcrcOk byte len) ∧ t = { s with load := t.load, regs := t.regs, store := t.store, net := t.net })) ∧
    (slotBusy s slot = true → exec (.erase slot) s = res 1) ∧
    (slotBusy s slot = false → ∃ t, exec (.erase slot) s = .next t ∧ t.fld F.CFG_SLOT.VALID 0 slot = 0 ∧
      (∀ i, i < 2 ^ 32 → readByte t.store (storeAddr slot i) = 0) ∧ t = { s with regs := t.regs, store := t.store }) ∧
    (l.kind = 0 → exec .abort s = res 5 ∧ exec .loadTimeout s = .next s) ∧
    ((l.phase ≠ 2 ∧ l.phase ≠ 3) ∨ l.waitStart = true ∨ status s F.CFG_CTRL.TIMEOUT = 0 → exec .loadTimeout s = .next s) ∧
    (∀ (o : Host.Outcome State Fault Refusal) (cause : Nat),
      (o = exec .abort s ∧ cause = 5) ∨ (o = exec .loadTimeout s ∧ cause = 1 ∧ (l.phase = 2 ∨ l.phase = 3) ∧ l.waitStart = false ∧
        status s F.CFG_CTRL.TIMEOUT ≠ 0) →
      (l.kind = 2 → l.hdr = [] → ∃ t, o = .next t ∧ t.load.kind = 0 ∧ status t F.CFG_STATUS.RESULT = 0 ∧
        status t F.CFG_STATUS.CAUSE = cause ∧ t = { s with load := t.load, regs := t.regs, host := t.host }) ∧
      (l.kind = 2 → l.hdr ≠ [] → l.zone < 64 → ∃ t, o = .next t ∧ t.load.kind = 0 ∧ status t F.CFG_STATUS.CAUSE = cause ∧
        t.zstate l.zone = 2 ∧ t.fld F.CFG_ZONE.PARTIAL_ABORT (l.zone / 16) (l.zone % 16) = 1 ∧ t.mem = s.mem ∧ t.fab = s.fab) ∧
      (l.kind = 1 → l.waking = false → status s F.CFG_CTRL.CROWN_EN = 0 → ∃ t, o = .next t ∧ t.mode = .blank ∧ t.load.kind = 0 ∧
        t.ret = {} ∧ status t F.CFG_STATUS.RESULT = 0 ∧ status t F.CFG_STATUS.CAUSE = cause ∧ t.time.start = none ∧
        t.mem = s.mem ∧ t.fab = s.fab)) ∧
    ((l.kind ≠ 1 ∨ l.phase ≠ 1 ∨ l.waking = true ∨ s.time.running = true) → exec .clearDone s = .next s) ∧
    (l.kind = 1 → l.phase = 1 → l.waking = false → s.time.running = false → ∃ t, exec .clearDone s = .next t ∧
      (l.progSrc = false → status t F.CFG_STATUS.STEP = 2) ∧ t.load = { l with phase := if l.progSrc then 6 else 2 } ∧
      t.ret = {} ∧ t.zones = [] ∧ (∀ (r : Region) (z : Fin 16), t.fld F.CFG_ZONE.STATE r z = 0) ∧
      t.fab.imem = [] ∧ t.fab.dmem = [] ∧ t.fab.sel = [] ∧ t.fab.route = [] ∧
      (∀ a, 0x4100000000 ≤ a → a < 0x4104000000 → readByte t.mem a = 0) ∧
      (∀ a, a < 0x2000000000 → readByte t.mem a = readByte s.mem a)) ∧
    (l.progSrc = false → exec .progNRise s = .next { s with load := { l with progLow := false } }) ∧
    (l.progSrc = true → l.phase = 6 →
      let boot := status s F.CFG_STATUS.BOOT_SRC
      (boot = 1 ∨ boot = 2 ∨ boot = 3 → ∃ t, exec .progNRise s = .next t ∧ status t F.CFG_STATUS.STEP = 2 ∧
        status t F.CFG_STATUS.SRC = (if boot = 1 then 1 else 3) ∧
        t.load = { l with progLow := false, progSrc := false, phase := 2, src := if boot = 1 then 1 else 3, waitStart := decide (boot ≠ 1) } ∧
        t = { s with load := t.load, regs := t.regs }) ∧
      (boot ≠ 1 → boot ≠ 2 → boot ≠ 3 → l.kind = 1 → l.waking = false → ∃ t, exec .progNRise s = .next t ∧ t.mode = .blank ∧
        status t F.CFG_STATUS.CAUSE = 5 ∧ t.load.kind = 0))

/-- R342, R346-R352, R354, R360: a header that passes every check opens the body, and the first check that fails ends the
load with its result; NOOP only counts; FRAME and COPY write a row whole or end the load; WREG and ZDOM stage values,
which END applies; FORWARD passes words to the relay link; a command not allowed in the stream is BAD_CMD; END checks
length, tag and signature in this order and ends the stream. A partial load that ends so leaves its zone ISOLATED with
PARTIAL_ABORT. Points the rules leave open are the model's own readings: log entries 57 and 58. -/
def Obligations.StreamCommandsTakeEffectInOrder : Prop :=
  ∀ s : State,
    let l := s.load
    let full := l.kind = 1
    let part := l.kind = 2
    let fails := fun (o : Host.Outcome State Fault Refusal) (code : Nat) => ∃ t, o = .next t ∧ t.load.kind = 0 ∧
      t.fld F.CFG_STATUS.RESULT = code ∧ t.fld F.CFG_STATUS.CAUSE = 0 ∧ (full → t.mode = .blank) ∧
      (part → l.hdr ≠ [] → t.zstate l.zone = 2 ∧ t.fld F.CFG_ZONE.PARTIAL_ABORT (l.zone / 16) (l.zone % 16) = 1 ∧
        t.fld F.CFG_ZONE.RESULT (l.zone / 16) (l.zone % 16) = code)
    (full ∨ part) → l.waking = false → s.fld F.CFG_CTRL.CROWN_EN = 0 → l.zone < 64 →
    (∀ skip words, (l.phase ≠ 2 ∨ l.waitStart = true) → exec (.header skip words) s = .next s) ∧
    (∀ (k : Nat) (words : List Word), l.phase = 2 → l.waitStart = false → l.src = 3 → l.stream = true → words.length = 12 →
      let go := exec (.header (some k) words) s
      (hbits words 11 31 0 ≠ crc32c ([0xA5, 0x5A, 0xC3, 0x3C] ++ wordsBytes (words.take 11)) → fails go 1) ∧
      (headerCheck s words ≠ 0 → fails go (headerCheck s words)) ∧
      (headerCheck s words = 0 → hbits words 3 39 0 ≠ 0 → full → ∃ t, go = .next t ∧
        t.load = { l with skip := k, hdr := words, phase := 3, zone := 0 } ∧
        t.fld F.CFG_PROGRESS.BYTES = Nat.min (k + 64) (2 ^ 40 - 1) ∧ t = { s with load := t.load, regs := t.regs }) ∧
      (headerCheck s words = 0 → hbits words 3 39 0 ≠ 0 → part → s.zstate (hdrZone words) ≠ 2 → ∃ t, go = .next t ∧
        t.load.kind = 0 ∧ t.fld F.CFG_STATUS.RESULT = 6) ∧
      (headerCheck s words = 0 → hbits words 3 39 0 ≠ 0 → part → s.zstate (hdrZone words) = 2 → hbits words 0 25 25 = 0 →
        ∃ t, go = .next t ∧ t.zstate (hdrZone words) = 3 ∧ t.load.phase = 3 ∧ t.load.hdr = words ∧ t.load.zone = hdrZone words ∧
        t.fld F.CFG_ZONE.PRIMED (hdrZone words / 16) (hdrZone words % 16) = 0 ∧ t = { s with load := t.load, regs := t.regs })) ∧
    (l.phase = 3 → (l.src = 3 → l.stream = true) → l.hdr ≠ [] → l.fwd = false →
      let comes := fun (ws : List Word) => bodyWords s 1 (ws.take 1) = (([ws.headD 0], 0), s) ∧
        bodyWords s ws.length ws = ((ws, 0), s) ∧ l.off + 5 * ws.length ≤ bodyLen s
      let word := fun (op arg : Nat) => BitVec.ofNat 40 (op * 2 ^ 32 + arg)
      let on := fun (t : State) (n : Nat) => t.load.off = l.off + 5 * n ∧
        t.fld F.CFG_PROGRESS.BYTES = Nat.min (l.skip + 64 + l.off + 5 * n) (2 ^ 40 - 1)
      (comes [word 0 0] → ∃ t, exec (.noop (word 0 0)) s = .next t ∧ on t 1 ∧ t.load = { l with off := l.off + 5 } ∧
        t = { s with load := t.load, regs := t.regs }) ∧
      (∀ op arg, op < 256 → arg < 2 ^ 32 → (op = 0 ∧ arg ≠ 0) ∨ (5 < op ∧ op ≠ 15) → comes [word op arg] →
        fails (exec (.noop (word op arg)) s) 8) ∧
      (∀ (tile : Tile) (n : Fin 8) (pay : List Word) (crc : Word), full → pay.length = 2048 →
        let a := 2 ^ 15 * tile.val + 2 ^ 12 * 5 + n.val
        comes (word 1 a :: pay ++ [crc]) →
        (crc.toNat ≠ crc32c (wordsBytes (word 1 a :: pay)) → fails (exec (.frame (word 1 a :: pay ++ [crc])) s) 9) ∧
        (crc.toNat = crc32c (wordsBytes (word 1 a :: pay)) → ∃ t, exec (.frame (word 1 a :: pay ++ [crc])) s = .next t ∧ on t 2050 ∧
          t.load.frames = l.frames + 1 ∧ t.load.last = some (a, pay) ∧
          (∀ i, i < 2048 → t.reg .SE_IMEM tile (2048 * n.val + i) = pay.getD i 0) ∧ t.mem = s.mem ∧ t.fab = s.fab)) ∧
      (∀ (tile : Tile) (n : Fin 8), comes [word 3 (2 ^ 15 * tile.val + 2 ^ 12 * 5 + n.val)] →
        let a := 2 ^ 15 * tile.val + 2 ^ 12 * 5 + n.val
        ((∀ x, l.last = some x → frType x.1 ≠ 5) → fails (exec (.copy (word 3 a)) s) 0x0E) ∧
        (∀ x, full → l.last = some x → frType x.1 = 5 → x.2.length = 2048 → ∃ t, exec (.copy (word 3 a)) s = .next t ∧ on t 1 ∧
          t.load.frames = l.frames + 1 ∧ (∀ i, i < 2048 → t.reg .SE_IMEM tile (2048 * n.val + i) = x.2.getD i 0) ∧ t.mem = s.mem)) ∧
      (∀ (r : Nat) (v : Word), r < 256 → comes [word 2 r, v] →
        let bad := ¬(0x10 ≤ r ∧ r ≤ 0x13) ∧ ¬(full ∧ (r = 1 ∨ r = 0x20))
        let range := (r = 1 ∧ v ≠ 0 ∧ (v.toNat < 640 ∨ 1024 < v.toNat)) ∨ (r = 0x20 ∧ 1 < v.toNat)
        let go := exec (.wreg (word 2 r) v) s
        (bad → fails go 8) ∧ (¬bad → range → fails go 0x0C) ∧
        (¬bad → ¬range → ∃ t, go = .next t ∧ on t 2 ∧ t.load = { l with off := l.off + 10, wregs := minsert l.wregs r v } ∧
          t = { s with load := t.load, regs := t.regs })) ∧
      (∀ (d : Fin 16) (v : Word), comes [word 4 d.val, v] →
        let go := exec (.zdom (word 4 d.val) v) s
        let div := bitsOf v.toNat F.RTE_DOM.DIV.hi F.RTE_DOM.DIV.lo
        (full → fails go 8) ∧ (part → 65536 < div → fails go 0x0C) ∧
        (part → div ≤ 65536 → ∃ t, go = .next t ∧ on t 2 ∧ t.load = { l with off := l.off + 10, zdoms := minsert l.zdoms d.val v } ∧
          t = { s with load := t.load, regs := t.regs })) ∧
      (∀ pay : List Word, pay ≠ [] → pay.length < 2 ^ 32 → comes (word 5 pay.length :: pay) →
        let go := exec (.forward (word 5 pay.length :: pay)) s
        (part → fails go 8) ∧
        (full → ∃ t, go = .next t ∧ on t (1 + pay.length) ∧ t.fld F.CFG_RELAY.TX_ACTIVE = 1 ∧ t.load.fwd = true ∧
          t.load.fwdOut = l.fwdOut ++ pay ∧ t = { s with load := t.load, regs := t.regs })) ∧
      (∀ (auto : Bool) (tagOk sigOk : Bool), comes [word 15 (flag auto)] →
        let go := exec (.endOp (word 15 (flag auto)) tagOk sigOk) s
        let short := l.off + 5 ≠ bodyLen s ∨ l.frames ≠ hbits l.hdr 4 31 0
        let tagBad := hdrEnc l.hdr = true ∧ tagOk = false
        let sigBad := hdrSig l.hdr = true ∧ sigOk = false
        (full → auto = true → fails go 8) ∧
        ((part ∨ auto = false) → (short → fails go 0x0F) ∧ (¬short → tagBad → fails go 0x10) ∧ (¬short → ¬tagBad → sigBad → fails go 0x11)) ∧
        (full → auto = false → ¬short → ¬tagBad → ¬sigBad → ∃ t, go = .next t ∧ t.load.phase = 4 ∧ t.load.kind = 1 ∧
          t.fld F.CFG_STATUS.STEP = 4 ∧ t.fld F.CFG_STATUS.RESULT = 0 ∧ t.fld F.CFG_STATUS.CAUSE = 0 ∧
          t = { s with load := t.load, regs := t.regs, host := t.host }) ∧
        (part → ¬short → ¬tagBad → ¬sigBad → ∃ t, go = .next t ∧ t.load.phase = 4 ∧ t.load.auto = auto ∧ t.fld F.CFG_STATUS.STEP = 4 ∧
          (t.zone l.zone).restoring = 1 ∧ (∀ i v, i < 4 → l.wregs.find? (fun e => e.1 == 0x10 + i) = some (0x10 + i, v) →
            t.reg .CFG_USER 0 i = v) ∧ t = { s with load := t.load, regs := t.regs, zones := t.zones, ret := t.ret })))

/-- R362, R368, R370-R377, R382, R383: step 7 applies the stream and ends in step 5 of the status with CFG_DONE released;
CFG_DONE high is taken once; EDGE starts at that instant and TIMED at CFG_START, or late; a relay START opens a stream
or is counted, its END and a lost link end the load, and RELAY_FLASH falls back to slot 0; a fuse command is refused
with its reason or programs its item, and one that fails revokes its slot. Points the rules leave open are the model's
own readings: log entry 57. -/
def Obligations.LoadsFinishAndFusesProgram : Prop :=
  ∀ s : State,
    let l := s.load
    let st := fun (t : State) (f : Fld) => t.fld f
    (¬(l.kind = 1 ∧ l.phase = 4) → exec .applyDone s = .next s) ∧
    (l.kind = 1 → l.phase = 4 → ∃ t, exec .applyDone s = .next t ∧
      t.load = { l with phase := 5 } ∧ st t F.CFG_STATUS.STEP = 5 ∧ st t F.TIM_STRIDE_CFG.S = hdrS l.hdr ∧
      st t F.CFG_STATUS.CROWN = flag (decide (l.src = 2)) ∧ t.ret.valid = true ∧
      st t F.CFG_STATUS.DONE_OUT = flag (decide (s.fld F.CFG_CTRL.HOLD_DONE = 0 ∧
        (s.mode ≠ .blank ∨ 4 ≤ s.fld F.CFG_STATUS.BOOT_SRC ∨ s.fld F.CFG_CTRL.RELEASE_BLANK = 1))) ∧ t.mode = s.mode) ∧
    (s.ret.valid = true → exec .retDone s = .next (s.setFld F.CFG_STATUS.RET_DONE 0 0 1)) ∧
    (s.ret.valid = false → exec .retDone s = .next s) ∧
    (s.fld F.CFG_STATUS.DONE_OUT = 1 → s.fld F.CFG_STATUS.DONE_IN = 0 → exec .cfgDoneHigh s =
      .next { s.setFld F.CFG_STATUS.DONE_IN 0 0 1 with load := { l with doneAt := s.instant } }) ∧
    (s.fld F.CFG_STATUS.DONE_OUT = 0 ∨ s.fld F.CFG_STATUS.DONE_IN = 1 → exec .cfgDoneHigh s = .next s) ∧
    (l.kind ≠ 1 ∨ l.phase ≠ 5 ∨ s.fld F.CFG_STATUS.DONE_IN = 0 ∨ s.time.start ≠ none → exec .synchronousStart s = .next s) ∧
    (l.kind = 1 → l.phase = 5 → s.fld F.CFG_STATUS.DONE_IN = 1 → s.time.start = none →
      let at_ := (s.reg .CFG_START_SEC).toNat * 1024000000000 + (s.reg .CFG_START_FRAC).toNat
      let starts := fun (cmd late : Nat) => ∃ t, exec .synchronousStart s = .next t ∧
        t.time.start = some { command := cmd, first := firstStride s.epochReg s.strideT cmd s.time.lastExec } ∧
        st t F.CFG_STATUS.LATE_START = late ∧ t = { s with regs := t.regs, time := t.time }
      (s.fld F.CFG_CTRL.START_MODE = 0 → starts l.doneAt (s.fld F.CFG_STATUS.LATE_START)) ∧
      (s.fld F.CFG_CTRL.START_MODE = 1 → at_ < l.doneAt + 2000 * 1024 → starts l.doneAt 1) ∧
      (s.fld F.CFG_CTRL.START_MODE = 1 → l.doneAt + 2000 * 1024 ≤ at_ →
        (at_ ≤ s.instant → starts at_ (s.fld F.CFG_STATUS.LATE_START)) ∧ (s.instant < at_ → exec .synchronousStart s = .next s))) ∧
    (let boot := s.fld F.CFG_STATUS.BOOT_SRC
     let counted := fun (t : State) => t.fld F.CFG_RELAY.ERR =
       Nat.min (s.fld F.CFG_RELAY.ERR + 1) (2 ^ (F.CFG_RELAY.ERR.hi + 1 - F.CFG_RELAY.ERR.lo) - 1)
     (boot ≠ 2 → boot ≠ 3 → exec .relayStart s = .next s) ∧
     (boot = 2 ∨ boot = 3 → l.kind = 1 → l.waitStart = true → l.phase = 2 →
       exec .relayStart s = .next { s with load := { l with waitStart := false, stream := true } }) ∧
     (boot = 2 ∨ boot = 3 → l.kind = 1 → (l.waitStart = false ∨ l.phase ≠ 2) → ∃ t, exec .relayStart s = .next t ∧ counted t ∧
       t = { s with regs := t.regs }) ∧
     (boot = 2 ∨ boot = 3 → l.kind = 0 → s.mode = .blank → l.fwd = false → allRun s = true → s.time.running = true →
       ∃ t, exec .relayStart s = .next t ∧ t.mode = .loading ∧ t.load.kind = 1 ∧ t.load.src = 3 ∧ t.load.stream = true) ∧
     (l.stream = false → exec .linkLost s = .next s ∧ ∀ ok, exec (.relayEnd ok) s = .next s) ∧
     (l.stream = true → l.kind = 1 → l.waking = false → s.fld F.CFG_CTRL.CROWN_EN = 0 →
       let ends := fun (o : Host.Outcome State Fault Refusal) (res cause : Nat) => ∃ t, o = .next t ∧ t.mode = .blank ∧
         t.load.kind = 0 ∧ st t F.CFG_STATUS.RESULT = res ∧ st t F.CFG_STATUS.CAUSE = cause
       ends (exec .linkLost s) 0 4 ∧ ends (exec (.relayEnd false) s) 0 4 ∧ (l.phase = 3 → ends (exec (.relayEnd true) s) 0x0F 0) ∧
       (l.phase = 2 → ends (exec (.relayEnd true) s) 0 3) ∧
       (l.phase = 4 ∨ l.phase = 5 → exec (.relayEnd true) s = .next { s with load := { l with stream := false } })) ∧
     (boot ≠ 3 → exec .relayWaitTimeout s = .next s) ∧
     (boot = 3 → l.kind = 1 → l.waitStart = true → exec .relayWaitTimeout s =
       .next { s.setFld F.CFG_STATUS.SRC 0 0 1 with load := { l with src := 1, waitStart := false } })) ∧
    (∀ (lock : BitVec 4) (aligned : Bool), ∃ t, exec (.relayLaneLock lock aligned) s = .next t ∧
      t.fld F.CFG_RELAY.LANE_LOCK = lock.toNat ∧ t.fld F.CFG_RELAY.ALIGNED = flag aligned ∧
      KeepsFlds s t [(F.CFG_RELAY.LANE_LOCK, 0, 0), (F.CFG_RELAY.ALIGNED, 0, 0)] ∧ t = { s with regs := t.regs }) ∧
    (∀ g : BitVec 5, ∃ t, exec (.fuseProgram g) s = .next t ∧ (∀ i, i < 10 → t.reg .CFG_FUSE_DATA 0 i = 0) ∧
      let k := g.toNat
      let locked := s.fld F.CFG_FUSE_STAT.FUSE_LOCK = 1 ∧ ¬(8 ≤ k ∧ k < 16)
      (0x13 < k → t.fuse = s.fuse) ∧
      (k ≤ 0x13 → s.fuse.pending ≠ none → t.fuse = s.fuse ∧ t.fld F.CFG_FUSE_STAT.RES = 5) ∧
      (k ≤ 0x13 → s.fuse.pending = none → s.mode ≠ .blank → t.fuse = s.fuse ∧ t.fld F.CFG_FUSE_STAT.RES = 1) ∧
      (k ≤ 0x13 → s.fuse.pending = none → s.mode = .blank → locked → t.fuse = s.fuse ∧ t.fld F.CFG_FUSE_STAT.RES = 2) ∧
      (k ≤ 0x13 → s.fuse.pending = none → s.mode = .blank → ¬locked → fuseUsed s k = true →
        t.fuse = s.fuse ∧ t.fld F.CFG_FUSE_STAT.RES = 3) ∧
      (k ≤ 0x13 → s.fuse.pending = none → s.mode = .blank → ¬locked → fuseUsed s k = false →
        t.fuse = { s.fuse with pending := some (k, fuseData s) }) ∧
      t = { s with regs := t.regs, fuse := t.fuse }) ∧
    (s.fuse.pending = none → ∀ ok, exec (.fuseProgramDone ok) s = .next s) ∧
    (∀ k v, s.fuse.pending = some (k, v) → k ≤ 0x13 → ∃ t u, exec (.fuseProgramDone true) s = .next t ∧
      exec (.fuseProgramDone false) s = .next u ∧ t.fuse.pending = none ∧ u.fuse.pending = none ∧
      t.fld F.CFG_FUSE_STAT.RES = 0 ∧ u.fld F.CFG_FUSE_STAT.RES = 4 ∧
      (k < 4 → t.fuse.keys = minsert s.fuse.keys k (v % 2 ^ 256)) ∧
      (4 ≤ k → k < 8 → t.fuse.hashes = minsert s.fuse.hashes (k - 4) (v % 2 ^ 384)) ∧
      (8 ≤ k → k < 16 → t.fuse.revoked = (k - 8) :: s.fuse.revoked) ∧
      (k = 0x10 → t.fld F.CFG_FUSE_STAT.REQ_ENC = 1) ∧ (k = 0x11 → t.fld F.CFG_FUSE_STAT.REQ_SIG = 1) ∧
      (k = 0x12 → t.fld F.CFG_FUSE_STAT.PERM_LOCK = 1 ∧ t.fld F.CFG_STATUS.LOCKED = 1) ∧
      (k = 0x13 → t.fld F.CFG_FUSE_STAT.FUSE_LOCK = 1) ∧
      u.fuse.keys = s.fuse.keys ∧ u.fuse.hashes = s.fuse.hashes ∧ (k < 8 → u.fuse.revoked = k :: s.fuse.revoked) ∧
      t = { s with regs := t.regs, fuse := t.fuse } ∧ u = { s with regs := u.regs, fuse := u.fuse })

/-- R352, R379, R381, R113: a zone command answers NO_ZONE, REFUSED, BUSY or NOT_RETAINED and then changes nothing; START
of an ISOLATED zone waits for the boundary when it is PRIMED and restores it first when not; ISOLATE waits for the
boundary, or acts at once while FROZEN; RESTORE and RELOAD run and leave the zone PRIMED; a partial load ends with its
zone ISOLATED, PRIMED and status OK. Points the rules leave open are the model's own readings: log entry 30. -/
def Obligations.ZoneCommandsStartIsolateAndRestore : Prop :=
  ∀ (s : State) (r : Region) (z : Fin 16),
    let zi := 16 * r.val + z.val
    let st := s.fld F.CFG_ZONE.STATE r z
    let v := s.zone zi
    let only := fun (n : Nat) => Host.Outcome.next (s.setFld F.CFG_ZCMD.RES r 0 n)
    let primed := s.fld F.CFG_ZONE.PRIMED r z = 1
    let refused := st = 3 ∨ s.fld F.CFG_ZONE.PARTIAL_ABORT r z = 1 ∨ v.zreset = true
    let takes := fun (o : Host.Outcome State Fault Refusal) (w : Zone) => ∃ t, o = .next t ∧ t.fld F.CFG_ZCMD.RES r = 0 ∧
      t.zone zi = w ∧ t.fld F.CFG_ZONE.STATE r z = st ∧ (∀ k, k ≠ zi → t.zone k = s.zone k) ∧
      KeepsRegs s t [regAddr .CFG_ZCMD r 0] ∧ t = { s with regs := t.regs, zones := t.zones }
    (st = 0 → exec (.zoneStart r z) s = only 4 ∧ exec (.zoneIsolate r z) s = only 4 ∧ exec (.restore r z) s = only 4 ∧
      exec (.reload r z) s = only 4) ∧
    (st ≠ 0 → refused → exec (.zoneStart r z) s = only 2) ∧
    (st = 1 → ¬refused → exec (.zoneStart r z) s = only 0) ∧
    (st = 2 → ¬refused → takes (exec (.zoneStart r z) s) (if primed then { v with startPend := true }
      else { v with restoring := if v.restoring = 0 then 1 else v.restoring, thenStart := true })) ∧
    (st = 1 → s.mode ≠ .frozen → takes (exec (.zoneIsolate r z) s) { v with isoPend := true }) ∧
    (st = 1 → s.mode = .frozen → ∃ t, exec (.zoneIsolate r z) s = .next t ∧ t.fld F.CFG_ZONE.STATE r z = 2 ∧
      t.fld F.CFG_ZCMD.RES r = 0 ∧ (t.zone zi).isoPend = false) ∧
    (2 ≤ st → exec (.zoneIsolate r z) s = only 0) ∧
    (st ≠ 0 → st ≠ 2 → exec (.restore r z) s = only 2 ∧ exec (.reload r z) s = only 2) ∧
    (st = 2 → v.restoring ≠ 0 ∨ v.zreset = true → exec (.restore r z) s = only 1 ∧ exec (.reload r z) s = only 1) ∧
    (st = 2 → v.restoring = 0 → v.zreset = false →
      takes (exec (.restore r z) s) { v with restoring := 1 } ∧
      (s.fld F.CFG_STATUS.RET_DONE = 0 → exec (.reload r z) s = only 3) ∧
      (s.fld F.CFG_STATUS.RET_DONE = 1 → takes (exec (.reload r z) s) { v with restoring := 2 })) ∧
    (v.restoring = 0 ∨ v.zreset = true → exec (.restoreDone r z) s = .next s) ∧
    (st = 2 → v.restoring = 1 → v.zreset = false → ∃ t, exec (.restoreDone r z) s = .next t ∧ t.fld F.CFG_ZONE.PRIMED r z = 1 ∧
      t.fld F.CFG_ZONE.STATE r z = 2 ∧ t.zone zi = { v with restoring := 0, startPend := v.thenStart, thenStart := false } ∧ t.mem = s.mem) ∧
    (st = 3 → v.restoring = 1 → v.zreset = false → s.load.kind = 2 → s.load.phase = 4 → ∃ t, exec (.restoreDone r z) s = .next t ∧
      t.fld F.CFG_ZONE.PRIMED r z = 1 ∧ t.fld F.CFG_ZONE.STATE r z = 2 ∧ t.fld F.CFG_ZONE.PARTIAL_ABORT r z = 0 ∧
      t.fld F.CFG_ZONE.RESULT r z = 0 ∧ t.load.kind = 0 ∧ t.fld F.CFG_STATUS.RESULT = 0 ∧
      (t.zone zi).startPend = (s.load.auto || v.thenStart))

/-- R392, R393, R399: a power request to a region is refused with WRONG_MODE or BUSY, completes with OK when the region is
in the state it names, is answered ABORTED_BY_WAKE when an enabled wake source is pending, and otherwise begins the
entry at its step N2 or the exit at X1 or X2; a RUN request turns an entry round; a request to all four regions is the
same request to each. Points the rules leave open are the model's own readings: log entry 30. -/
def Obligations.PowerRequestsAreJudged : Prop :=
  ∀ (s : State) (r : Region) (st : Nat), st < 4 →
    let req := fun (x : Option (Fin 4)) => match st with
      | 0 => exec (.runRequest x) s
      | 1 => exec (.idleRequest x) s
      | 2 => exec (.dozeRequest x) s
      | _ => exec (.sleepRequest x) s
    let allowed := s.mode ≠ .blank ∧ s.mode ≠ .loading ∧ s.mode ≠ .frozen ∧ s.mode ≠ .test
    let done := fun (code : Nat) (t : State) => t.fld F.PWR_STAT.RESULT r = code ∧ t.pdir r = s.pdir r ∧
      t.pstateR r = s.pstateR r ∧ t = { s with regs := t.regs, pwr := t.pwr, host := t.host }
    let moves := fun (dir step : Nat) (t : State) => t.pdir r = dir ∧ t.fld F.PWR_STAT.STEP r = step ∧
      t.fld F.PWR_STAT.BUSY r = 1 ∧ t.fld F.PWR_STAT.TARGET r = st ∧ t.pstateR r = s.pstateR r ∧
      t = { s with regs := t.regs, pwr := t.pwr }
    (¬allowed → ∃ t, req (some r) = .next t ∧ done 2 t) ∧
    (¬allowed → ∃ t, req none = .next t ∧ (∀ k : Fin 4, t.fld F.PWR_STAT.RESULT k = 2) ∧ t.fld F.PWR_DEV_STAT.RESULT = 2 ∧
      t = { s with regs := t.regs, pwr := t.pwr, host := t.host }) ∧
    (allowed → (s.pdir r ≠ 0 ∨ busyDevice s = true) → (st ≠ 0 ∨ s.pdir r = 0) → ∃ t, req (some r) = .next t ∧ done 1 t) ∧
    (allowed → st = 0 → s.pdir r = 1 → ∃ t, req (some r) = .next t ∧ moves 3 (s.fld F.PWR_STAT.STEP r) t ∧
      t.fld F.PWR_STAT.DELAY_LAST r = s.fld F.PWR_STAT.DELAY r ∧ (t.pw r).result = 3 ∧ (t.pw r).runReq = true ∧
      t.fld F.PWR_WAKE_PEND.LAST r = 15) ∧
    (allowed → st = 0 → 1 < s.pdir r → ∃ t, req (some r) = .next t ∧ t.pdir r = s.pdir r ∧
      t.pw r = { s.pw r with runReq := true } ∧ t = { s with regs := t.regs, pwr := t.pwr }) ∧
    (allowed → s.pdir r = 0 → busyDevice s = false →
      (s.pstateR r = st → ∃ t, req (some r) = .next t ∧ done 0 t) ∧
      (s.pstateR r ≠ st → s.pstateR r ≠ 0 → st ≠ 0 → ∃ t, req (some r) = .next t ∧ done 2 t) ∧
      (s.pstateR r ≠ 0 → st = 0 → ∃ t, req (some r) = .next t ∧ moves 2 (if s.pstateR r = 3 then 9 else 10) t ∧
        (t.pw r).rails = (if s.pstateR r = 3 then sleepRails s r else []) ∧ (t.pw r).began = s.instant ∧
        t.fld F.PWR_WAKE_PEND.LAST r = 15) ∧
      (∀ k, s.pstateR r = 0 → st ≠ 0 → pendingWake s r = some k → ∃ t, req (some r) = .next t ∧ done 4 t ∧
        t.fld F.PWR_WAKE_PEND.LAST r = k) ∧
      (s.pstateR r = 0 → st ≠ 0 → pendingWake s r = none → s.time.running = true → ∃ t, req (some r) = .next t ∧
        moves 1 2 t ∧ (t.pw r).began = s.instant ∧ (t.pw r).goal = st ∧ (t.pw r).fabOff = (s.pw r).fabOff) ∧
      (s.pstateR r = 0 → st ≠ 0 → pendingWake s r = none → s.time.running = false → ∃ t, req (some r) = .next t ∧
        t.pdir r = 1 ∧ t.fld F.PWR_STAT.STEP r = 2 ∧ (t.pw r).goal = st ∧ (t.pw r).fabOff = true)) ∧
    (allowed → busyDevice s = false → s.time.running = true → st ≠ 0 →
      (∀ k : Fin 4, s.pdir k = 0 ∧ s.pstateR k = 0 ∧ pendingWake s k = none) →
      ∃ t, req none = .next t ∧ (∀ k : Fin 4, t.pdir k = 1 ∧ t.fld F.PWR_STAT.STEP k = 2 ∧ t.fld F.PWR_STAT.TARGET k = st ∧
        (t.pw k).dev = true) ∧ t = { s with regs := t.regs, pwr := t.pwr })

/-- R393-R395, R398: an entry step waits, with its reasons in DELAY, or leads to the next of Table 16.4, and the last one
reports the state; an unwinding ends with its result; ENTRY_TIMEOUT turns an entry round; two consecutive good polls
settle a rail, a fault is reported, and a voltage request that times out is recorded, retried once in an exit, and
then ends it. Points the rules leave open are the model's own readings: log entry 30. -/
def Obligations.EntriesStepAndRailsSettle : Prop :=
  ∀ (s : State) (r : Region), s.net.waitReq = [] → s.net.accepted = [] →
    let v := s.pw r
    let step := s.fld F.PWR_STAT.STEP r
    let d := entryDelay s r v.goal
    let enters := exec (.entryStep r) s
    let polled := step ≠ 3 ∨ v.procOff = true
    (s.pdir r ≠ 1 → s.pdir r ≠ 3 → enters = .next s) ∧
    (s.pdir r = 1 → v.goal < 4 →
      (step = 3 → v.procOff = false → procsStop s r = false → enters = .next s) ∧
      (step = 3 → v.procOff = false → procsStop s r = true → ∃ t, enters = .next t ∧ (t.pw r).procOff = true ∧
        t.fld F.PWR_STAT.STEP r = 3 ∧ t.pdir r = 1) ∧
      (polled → d ≠ 0 → ∃ t, enters = .next t ∧ t.fld F.PWR_STAT.DELAY r = d ∧ t.fld F.PWR_STAT.STEP r = step ∧
        t.pdir r = 1 ∧ t = { s with regs := t.regs }) ∧
      (polled → step = 2 → v.fabOff = false → d = 1) ∧
      (polled → step = 3 → dmaBusy s r = true → bitOf d 1 = true) ∧
      (polled → step = 3 → traceBusy s r = true → bitOf d 2 = true) ∧
      (step = 4 → (heatBusy s r = true ∨ arcBusy s r = true ∨ initBusy s r = true) → d ≠ 0) ∧
      (step = 5 → (∃ n ∈ stateNodes r v.goal, nodeState s n ≠ 2) → d = 64) ∧
      (step = 7 → v.rails ≠ [] → d = 128) ∧
      (polled → d = 0 → (step = 2 ∨ (step = 3 ∧ v.goal ≠ 1) ∨ step = 4) → ∃ t, enters = .next t ∧ t.pdir r = 1 ∧
        t.fld F.PWR_STAT.STEP r = step + 1 ∧ t.fld F.PWR_STAT.DELAY r = 0 ∧
        (step = 4 → ∀ n ∈ stateNodes r v.goal, nodeState t n = 1)) ∧
      (polled → d = 0 → (step = 5 ∨ (step = 3 ∧ v.goal = 1)) → ∃ t, enters = .next t ∧ t.pdir r = 1 ∧
        t.fld F.PWR_STAT.STEP r = 6) ∧
      (d = 0 → step = 6 → v.goal = 3 → ∃ t, enters = .next t ∧ t.pdir r = 1 ∧ t.fld F.PWR_STAT.STEP r = 7 ∧
        (t.pw r).rails = sleepRails s r) ∧
      (d = 0 → step = 7 ∨ (step = 6 ∧ v.goal ≠ 3) → ∃ t, enters = .next t ∧ t.pdir r = 0 ∧
        t.fld F.PWR_STAT.STEP r = 0 ∧ t.fld F.PWR_STAT.BUSY r = 0 ∧ t.pstateR r = v.goal ∧
        t.fld F.PWR_STAT.RESULT r = 0)) ∧
    (s.pdir r = 3 → step ≤ 2 → v.result < 16 → s.load.waking = false → s.rst.warm ≠ 1 → ∃ t, enters = .next t ∧
      t.pdir r = 0 ∧ (t.pw r).procOff = false ∧ t.fld F.PWR_STAT.RESULT r = v.result ∧ t.pstateR r = s.pstateR r) ∧
    (let lim := s.fld F.PWR_CTRL.ENTRY_TIMEOUT
     let due := s.pdir r = 1 ∧ lim ≠ 0 ∧ v.began + lim * 1024000 ≤ s.instant
     let go := exec (.pwrEntryTimeout r) s
     (¬due → go = .next s) ∧
     (due → ∃ t, go = .next t ∧ t.pdir r = 3 ∧ t.fld F.PWR_STAT.DELAY_LAST r = s.fld F.PWR_STAT.DELAY r ∧
       t.fld F.PWR_STAT.DELAY r = 0 ∧ (t.pw r).result = 5 ∧ bitOf (t.fld F.PWR_STAT.EVT r) 0 = true ∧
       (bitOf (s.fld F.PWR_STAT.EVT r) 0 = false → Reports s t 0x4801) ∧
       t = { s with regs := t.regs, pwr := t.pwr, detected := t.detected })) ∧
    (∀ (rail : Fin 64) (good fault : Bool) (status : BitVec 16),
      let go := exec (.regulatorPoll rail good fault status) s
      (20 ≤ rail.val → ∃ t, go = .next t ∧ t.pwr = s.pwr ∧ t = { s with regs := t.regs, module := t.module }) ∧
      (railRegion rail = some r.val → ∃ t, go = .next t ∧
        (rail.val ∉ t.module.badRails ↔ good = true) ∧
        (fault = true → t.fld F.PWR_REG_STAT.RAIL = rail ∧ t.fld F.PWR_REG_STAT.RES = 4 ∧
          t.fld F.PWR_REG_STAT.STATUS_WORD = status.toNat ∧ bitOf (t.fld F.PWR_STAT.EVT r) 2 = true ∧
          (bitOf (s.fld F.PWR_STAT.EVT r) 2 = false → Reports s t 0x4803)) ∧
        (fault = false → t.regs = s.regs ∧ t.detected = s.detected) ∧
        (rail.val ∈ v.rails → s.railInj ≠ some rail.val → good = true →
          (rail.val ∈ v.good → rail.val ∉ (t.pw r).rails ∧ ∀ k, k ≠ rail.val → (k ∈ (t.pw r).rails ↔ k ∈ v.rails)) ∧
          (rail.val ∉ v.good → (t.pw r).rails = v.rails ∧ rail.val ∈ (t.pw r).good)) ∧
        (rail.val ∈ v.rails → s.railInj ≠ some rail.val → good = false →
          (t.pw r).rails = v.rails ∧ rail.val ∉ (t.pw r).good) ∧
        t = { s with regs := t.regs, module := t.module, pwr := t.pwr, detected := t.detected })) ∧
    (∀ (rail : Fin 64) (command : BitVec 8) (res : Fin 4) (status : BitVec 16),
      let go := exec (.pwrRegTimeout rail command res status) s
      (20 ≤ rail.val → go = .next s) ∧
      (railRegion rail = some r.val → rail.val ∉ v.rails → go = .next s) ∧
      (railRegion rail = some r.val → rail.val ∈ v.rails → ∃ t, go = .next t ∧ t.fld F.PWR_REG_STAT.RAIL = rail ∧
        t.fld F.PWR_REG_STAT.CMD = command.toNat ∧ t.fld F.PWR_REG_STAT.RES = res ∧
        t.fld F.PWR_REG_STAT.STATUS_WORD = status.toNat ∧
        t.fld F.PWR_REG_STAT.TIMEOUTS = Nat.min (s.fld F.PWR_REG_STAT.TIMEOUTS + 1) 127 ∧
        bitOf (t.fld F.PWR_STAT.EVT r) 1 = true ∧ (bitOf (s.fld F.PWR_STAT.EVT r) 1 = false → Reports s t 0x4802) ∧
        t.pstateR r = s.pstateR r ∧
        (s.pdir r = 2 → rail.val ∉ v.retried → t.pdir r = 2 ∧ (t.pw r).rails = v.rails ∧ rail.val ∈ (t.pw r).retried) ∧
        (s.pdir r = 2 → rail.val ∈ v.retried → t.pdir r = 0 ∧ (t.pw r).rails = [] ∧ t.fld F.PWR_STAT.RESULT r = 6)))

/-- R388, R396, R397, R399: an event sets its bit of PWR_WAKE_PEND, and one that is enabled wakes a region in a low-power
state or turns its entry round; the exit steps follow Table 16.7 and end in RUN; a write of PWR_LANE gives each lane
its target and leaves a reserved one as it was. Points the rules leave open are the model's own readings: log entry
32. -/
def Obligations.WakesExitAndLanesFollow : Prop :=
  ∀ (s : State) (r : Region),
    let v := s.pw r
    let step := s.fld F.PWR_STAT.STEP r
    (∀ src : Fin 8,
      let enabled := src = 0 ∨ bitOf (s.fld F.PWR_WAKE_EN.EN r) (src.val - 1) = true
      ∃ t, exec (.wakeEvent r src) s = .next t ∧ bitOf (t.fld F.PWR_WAKE_PEND.PEND r) src = true ∧
        (∀ k, k < 8 → k ≠ src.val → bitOf (t.fld F.PWR_WAKE_PEND.PEND r) k = bitOf (s.fld F.PWR_WAKE_PEND.PEND r) k) ∧
        (enabled → s.pdir r = 0 → s.pstateR r ≠ 0 → t.pdir r = 2 ∧ t.fld F.PWR_WAKE_PEND.LAST r = src ∧
          t.fld F.PWR_STAT.STEP r = (if s.pstateR r = 3 then 9 else 10) ∧ (t.pw r).began = s.instant) ∧
        (enabled → s.pdir r = 1 → t.pdir r = 3 ∧ t.fld F.PWR_WAKE_PEND.LAST r = src ∧ (t.pw r).result = 4) ∧
        ((¬enabled ∨ (s.pdir r = 0 ∧ s.pstateR r = 0) ∨ 1 < s.pdir r) → t.pwr = s.pwr ∧
          KeepsRegs s t [regAddr .PWR_WAKE_PEND r 0]) ∧
        t = { s with regs := t.regs, pwr := t.pwr }) ∧
    (let go := exec (.exitStep r) s
     (s.pdir r ≠ 2 → go = .next s) ∧
     (s.pdir r = 2 →
       (step = 9 → v.rails ≠ [] → go = .next s) ∧
       (step = 9 → v.rails = [] → ∃ t, go = .next t ∧ t.pdir r = 2 ∧ t.fld F.PWR_STAT.STEP r = 10 ∧ t = { s with regs := t.regs }) ∧
       (step = 10 → s.pstateR r = 1 → ∃ t, go = .next t ∧ t.pdir r = 2 ∧ t.fld F.PWR_STAT.STEP r = 13 ∧
         t = { s with regs := t.regs }) ∧
       (step = 10 → s.pstateR r ≠ 1 → ∃ t, go = .next t ∧ t.pdir r = 2 ∧ t.fld F.PWR_STAT.STEP r = 11 ∧
         (∀ n ∈ stateNodes r (s.pstateR r), nodeState t n = 0) ∧ (t.pw r).lanes = 0) ∧
       (step = 11 → lanesWake s r = true → go = .next s) ∧
       ((step = 11 ∧ lanesWake s r = false) ∨ step = 12 → ∃ t, go = .next t ∧ t.pdir r = 2 ∧
         t.fld F.PWR_STAT.STEP r = step + 1 ∧ t = { s with regs := t.regs }) ∧
       (step = 13 → s.load.waking = false → s.rst.warm ≠ 1 → ∃ t, go = .next t ∧ t.pdir r = 0 ∧ t.pstateR r = 0 ∧
         t.fld F.PWR_STAT.BUSY r = 0 ∧ (t.pw r).procOff = false ∧
         (t.fld F.PWR_TIMES.EXIT r = Nat.min ((s.instant - v.began) / 1024000) (2 ^ 20 - 1)) ∧
         (v.runReq = true → t.fld F.PWR_STAT.RESULT r = 0)))) ∧
    (∀ value : Word, ∃ t, exec (.pwrLaneWrite r value) s = .next t ∧ (t.pw r).laneWake = [] ∧
      ∀ l : Nat, l < 12 →
        let field := bitsOf value.toNat (2 * l + 1) (2 * l)
        bitsOf (t.fld F.PWR_LANE.TARGET r) (2 * l + 1) (2 * l) =
          (if field = 3 then bitsOf (s.fld F.PWR_LANE.TARGET r) (2 * l + 1) (2 * l) else field) ∧
        (s.lf (12 * r.val + l) F.LN_CTRL.EN = 1 → s.mode ≠ .blank → s.mode ≠ .loading → v.lanes ≤ 3 → field ≠ 3 →
          t.lf (12 * r.val + l) F.LN_STATUS.PSTATE = Nat.max (if v.lanes = 0 then 1 else v.lanes) (field + 1)))

/-- R174, R379, R381, R400, R403: a W reset stops the strides and puts every processor into its E reset, after waking what
is in a low-power state, and ends in FROZEN or BLANK; a G reset does so in its region, after the device has frozen; a
Z reset takes its zone out of PRIMED, ends a partial load of the zone, and sets PRIMED again at its end; each records
its cause and its record; the watchdog orders a W reset from region 0 and a G reset from another. Points the rules
leave open are the model's own readings: log entries 34 and 35. -/
def Obligations.ResetsOfUnitsRunTheirSequence : Prop :=
  ∀ s : State, s.net.waitReq = [] → s.net.accepted = [] →
    let guard := s.rst.warm ≠ 0 ∨ s.rst.cold = true
    let inEReset := fun (t : State) (p : Nat) => (t.proc p).eRst = true
    let recorded := fun (t : State) (code : Nat) => ∃ e ∈ t.detected, bitsOf e.w0.toNat 39 24 = code
    let caused := fun (t : State) (cls src : Nat) => t.fld F.RST_CAUSE.CLASS = cls ∧ t.fld F.RST_CAUSE.SRC = src
    (∀ src : Fin 16,
      let go := exec (.warmReset src) s
      (guard → go = .next s) ∧
      (¬guard → s.load.kind = 0 → allRun s = true → ∃ t, go = .next t ∧ t.rst.warm = 2 ∧ t.rst.src = src ∧
        t.time.running = false ∧ t.frz.endReq = false ∧ t.frz.nowReq = false ∧ (∀ p, p < 68 → inEReset t p) ∧
        (∀ g ∈ t.guns, 4 ≤ g.region) ∧ t.time.tsFifo = [] ∧ t.time.now = s.time.now ∧ t.mode = s.mode) ∧
      (∀ r : Region, ¬guard → s.load.kind = 0 → s.pdir r = 0 → s.pstateR r ≠ 0 → ∃ t, go = .next t ∧ t.rst.warm = 1 ∧
        t.pdir r = 2 ∧ (∀ k : Region, s.pdir k = 1 → s.pstateR k = 0 → t.fld F.PWR_STAT.RESULT k = 7 ∧ t.pdir k = 0))) ∧
    (s.rst.warm ≠ 2 → exec .warmResetEnd s = .next s) ∧
    (s.rst.warm = 2 → s.rst.src < 16 → ∃ t, exec .warmResetEnd s = .next t ∧ t.rst = {} ∧ caused t 3 s.rst.src ∧
      t.fld F.RST_CAUSE.WARM_COUNT = Nat.min (s.fld F.RST_CAUSE.WARM_COUNT + 1) 2047 ∧ recorded t 0x5301 ∧
      t.mode = (if s.rst.toBlank then .blank else .frozen) ∧ (∀ p, p < 68 → ¬inEReset t p)) ∧
    (∀ (r : Region) (src : Fin 16),
      let go := exec (.regionReset r src) s
      ((guard ∨ s.gStage r ≠ 0) → go = .next s) ∧
      (¬guard → s.gStage r = 0 → s.pdir r ≠ 1 → s.pdir r ≠ 3 → freezeActs s = true → s.frz.nowReq = false →
        ∃ t, go = .next t ∧ t.gStage r = 1 ∧ t.frz.nowReq = true ∧ t.frz.cause = 6 ∧ t.rst.rsrc = src ∧
        t = { s with rst := t.rst, frz := t.frz, regs := t.regs, pwr := t.pwr }) ∧
      (¬guard → s.gStage r = 0 → s.pdir r ≠ 1 → s.pdir r ≠ 3 → freezeActs s = false → ∃ t, go = .next t ∧
        t.gStage r = 2 ∧ t.rst.rsrc = src ∧ (∀ p ∈ regionProcs r, inEReset t p) ∧ (∀ g ∈ t.guns, g.region ≠ r.val) ∧
        t.mode = s.mode)) ∧
    (∀ r : Region, (s.gStage r ≠ 2 → exec (.regionResetEnd r) s = .next s) ∧
      (s.gStage r = 2 → s.rst.rsrc < 16 → ∃ t, exec (.regionResetEnd r) s = .next t ∧ t.gStage r = 0 ∧ caused t 4 s.rst.rsrc ∧
        t.fld F.RST_CAUSE.REGION = r ∧ recorded t 0x5302 ∧ (∀ p ∈ regionProcs r, ¬inEReset t p) ∧ t.mode = s.mode)) ∧
    (∀ (r : Region) (z : Fin 16),
      let zi := 16 * r.val + z.val
      let v := s.zone zi
      let loads := s.load.kind = 2 ∧ s.load.hdr ≠ [] ∧ s.load.zone = zi
      let go := exec (.zoneReset r z) s
      let fin := exec (.zoneResetEnd r z) s
      ((guard ∨ s.zstate zi = 0 ∨ v.zreset = true) → go = .next s) ∧
      (¬guard → s.zstate zi ≠ 0 → v.zreset = false → s.pdir r ≠ 1 → s.pdir r ≠ 3 → ∃ t, go = .next t ∧
        (t.zone zi).zreset = true ∧ t.fld F.CFG_ZONE.PRIMED r z = 0 ∧ t.rst.rsrc = 4 ∧
        (∀ k ∈ s.zoneTiles zi, inEReset t k) ∧
        (s.zstate zi = 1 → s.mode = .frozen → t.zstate zi = 2) ∧
        (loads → t.load.kind = 0 ∧ t.fld F.CFG_STATUS.CAUSE = 5 ∧ t.fld F.CFG_ZONE.PARTIAL_ABORT r z = 1) ∧
        (¬loads → t.load = s.load) ∧
        (s.zstate zi = 1 → s.mode ≠ .frozen → ¬loads → t.zstate zi = 1 ∧ (t.zone zi).isoPend = true)) ∧
      (¬(v.zreset = true ∧ 2 ≤ s.zstate zi) → fin = .next s) ∧
      (v.zreset = true → 2 ≤ s.zstate zi → s.rst.rsrc < 16 → ∃ t, fin = .next t ∧ (t.zone zi).zreset = false ∧
        (s.zstate zi = 2 → t.fld F.CFG_ZONE.PRIMED r z = 1) ∧ caused t 5 s.rst.rsrc ∧ t.fld F.RST_CAUSE.REGION = r ∧
        t.fld F.RST_CAUSE.ZONE = z ∧ (∀ k ∈ s.zoneTiles zi, ¬inEReset t k) ∧ recorded t 0x5303 ∧ t.mode = s.mode)) ∧
    (∀ r : Region,
      let runs := s.fld F.SUP_WDOG.EN r = 1 ∧ s.fld F.SUP_WDOG.TIMEOUT r ≠ 0 ∧ procClocked s (64 + r) = true
      (¬runs → exec (.wdog r) s = .next s) ∧
      (runs → ∃ t, exec (.wdog r) s = .next t ∧ (t.proc (64 + r)).warned = false ∧
        (bitOf (s.fld F.SUP_STATUS.EVT r) 1 = false → recorded t 0x4203) ∧
        (¬guard → r = 0 → t.rst.warm ≠ 0 ∧ t.rst.src = 5) ∧ (¬guard → r ≠ 0 → t.gStage r ≠ 0)))

/-- R362, R391, R400, R402: a P reset keeps the fuses, the store and the archived objects, and a C reset the memories
beside; everything else takes its value after reset; each ends with the straps sampled and the clocks locked, and a
boot source of 1 begins a load. Points the rules leave open are the model's own readings: log entries 2, 3 and 35. -/
def Obligations.PowerOnAndColdResetsClear : Prop :=
  ∀ s : State,
    let cleared := fun (t : State) => t.mode = .blank ∧ t.procs = [] ∧ t.guns = [] ∧ t.queues = [] ∧ t.fab = {} ∧ t.time = {} ∧
      t.load = {} ∧ t.net = {} ∧ t.lanes = [] ∧ t.reg .TIM_RATE = 0 ∧ (∀ r : Region, t.pstateR r = 0) ∧
      t.store = s.store ∧ t.fuse.keys = s.fuse.keys ∧ t.fuse.hashes = s.fuse.hashes ∧ t.fuse.revoked = s.fuse.revoked ∧ t.pending = s.pending ∧
      (∀ r : Region, t.reg .ARC_NEXT_OBJ r = s.reg .ARC_NEXT_OBJ r ∧ (t.arc r).objs = (s.arc r).objs ∧ (t.arc r).cmds = [])
    let boots := fun (boot : BitVec 3) (pull : BitVec 2) (untrained : List (Fin 4 × Fin 8)) (t : State) =>
      t.fld F.TIM_STATUS.TB_LOCK = 1 ∧ t.fld F.TIM_STATUS.STEP_LOCK = 1 ∧ t.fld F.CFG_STATUS.BOOT_SRC = boot.toNat ∧
      t.fld F.CFG_STATUS.PULL_SEL = pull.toNat ∧ t.fld F.CFG_STATUS.STRAP_ERR = (if 5 ≤ boot.toNat then 1 else 0) ∧
      (∀ r : Region, t.fld F.MEM_STATUS.READY r = (if ∃ c ∈ untrained, c.1 = r then 0 else 1)) ∧
      (boot = 1 → t.load.kind = 1 ∧ t.load.src = 1) ∧ (boot = 3 → t.rst.relayWait = true) ∧
      (boot ≠ 1 → t.mode = s.mode ∧ t.load = s.load ∧ t.mem = s.mem)
    (∀ supply : Bool, ∃ t, exec (.powerOnReset supply) s = .next t ∧ cleared t ∧ t.mem = [] ∧
      t.fld F.RST_CAUSE.CLASS = 1 ∧ t.fld F.RST_CAUSE.SRC = (if supply then 6 else 1) ∧ t.fld F.RST_CAUSE.WARM_COUNT = 0 ∧
      t.fld F.RST_STATUS.P_DONE = 0 ∧ t.rst = {}) ∧
    (∃ t, exec .coldReset s = .next t ∧ cleared t ∧ t.mem = s.mem ∧ t.memErr = s.memErr ∧
      t.fld F.RST_CAUSE.CLASS = 2 ∧ t.fld F.RST_CAUSE.SRC = 2 ∧ t.fld F.RST_CAUSE.WARM_COUNT = s.fld F.RST_CAUSE.WARM_COUNT ∧
      (∀ (k : Tile) (i : Nat), i < 16384 → t.reg .SE_IMEM k i = s.reg .SE_IMEM k i) ∧
      t.fld F.RST_STATUS.P_DONE = s.fld F.RST_STATUS.P_DONE ∧ t.rst = { cold := true }) ∧
    (∀ boot pull untrained,
      let go := exec (.pDone boot pull untrained) s
      ((s.fld F.RST_STATUS.P_DONE = 1 ∨ s.module.tripped = true) → go = .next s) ∧
      (s.fld F.RST_STATUS.P_DONE = 0 → s.module.tripped = false → ∃ t, go = .next t ∧ t.fld F.RST_STATUS.P_DONE = 1 ∧
        boots boot pull untrained t)) ∧
    ∀ boot pull untrained,
      let go := exec (.coldResetRelease boot pull untrained) s
      (s.rst.cold = false → go = .next s) ∧
      (s.rst.cold = true → ∃ t, go = .next t ∧ t.rst.cold = false ∧ boots boot pull untrained t)

/-- R413, R417, R421, R422: the freeze and resume commands answer as their refusals stand, or request a freeze at stride
end or at once with its cause, wait for their time, or give the start command; FREEZE_N does so under PIN_MODE; every
region in a low-power state wakes with the request. Points the rules leave open are the model's own readings: log
entry 34. -/
def Obligations.FreezeAndResumeCommandsAnswer : Prop :=
  ∀ s : State,
    let idle := s.frz.endReq = false ∧ s.frz.nowReq = false
    let acts := freezeActs s = true
    let res := fun (t : State) => t.fld F.ERR_FRZ_CMD.RES
    let tells := fun (o : Host.Outcome State Fault Refusal) (code : Nat) => ∃ t, o = .next t ∧ res t = code ∧
      KeepsFlds s t [(F.ERR_FRZ_CMD.RES, 0, 0)] ∧ t = { s with regs := t.regs }
    let asks := fun (t : State) (now : Bool) (cause : Nat) => t.frz.endReq = !now ∧ t.frz.nowReq = now ∧ t.frz.cause = cause ∧
      (∀ r : Region, s.pdir r = 0 → s.pstateR r ≠ 0 → t.pdir r = 2) ∧ t.mode = s.mode ∧ t.time = s.time ∧
      t = { s with regs := t.regs, pwr := t.pwr, frz := t.frz }
    let command := fun (now : Bool) => exec (if now then .freezeNow else .freezeEnd) s
    let atT := timeOf (s.reg .ERR_FRZ_TIME_SEC).toNat (s.reg .ERR_FRZ_TIME_FRAC).toNat
    let resT := timeOf (s.reg .ERR_RESUME_SEC).toNat (s.reg .ERR_RESUME_FRAC).toNat
    let held := s.frz.pinLow = true ∧ s.fld F.ERR_FRZ_CFG.PIN_MODE ≠ 0
    let busy := s.rst.warm ≠ 0 ∨ s.rst.region ≠ [] ∨ ¬idle
    let starts := fun (t : State) => t.fld F.ERR_FRZ_CMD.RES = 0 ∧ (s.time.start = none →
      ∃ q, t.time.start = some q ∧ q.command = s.instant ∧ t.time.epoch = s.epochReg ∧ t.strideK = 0) ∧
      t.mode = .frozen ∧ t = { s with regs := t.regs, time := t.time }
    (∀ now, ¬acts → s.mode ≠ .frozen → tells (command now) 1) ∧
    (∀ now, s.mode = .frozen → tells (command now) 0) ∧
    (∀ now, acts → s.rst.warm ≠ 2 → idle → ∃ t, command now = .next t ∧ res t = 0 ∧ asks t now 2) ∧
    (acts → s.rst.warm ≠ 2 → s.frz.endReq = true → s.frz.nowReq = false → ∃ t, command true = .next t ∧ res t = 0 ∧
      t.frz.nowReq = true ∧ t.frz.cause = 2) ∧
    (∀ low : Bool,
      let pin := exec (.freezeN low) s
      let mode := s.fld F.ERR_FRZ_CFG.PIN_MODE
      ((low = false ∨ mode = 0 ∨ mode = 3 ∨ ¬acts) → pin = .next { s with frz := { s.frz with pinLow := low } }) ∧
      (low = true → (mode = 1 ∨ mode = 2) → acts → s.rst.warm ≠ 2 → idle → ∃ t, pin = .next t ∧
        asks t (decide (mode = 2)) 1 ∧ t.frz.pinLow = true)) ∧
    (let go := exec .freezeAt s
     (¬acts → s.mode ≠ .frozen → tells go 1) ∧
     ((acts ∨ s.mode = .frozen) → s.frz.atTime ≠ none → tells go 4) ∧
     ((acts ∨ s.mode = .frozen) → s.frz.atTime = none →
       (s.instant + 1024000 ≤ atT → ∃ t, go = .next t ∧ res t = 0 ∧ t.frz = { s.frz with atTime := some atT, atFrozen := decide (s.mode = .frozen) } ∧
         t = { s with regs := t.regs, frz := t.frz }) ∧
       (atT < s.instant + 1024000 → ∃ t, go = .next t ∧ res t = 0 ∧ t.fld F.ERR_FRZ_STAT.LATE = 1 ∧ t.frz.atTime = none ∧
         (s.mode = .frozen → t.frz = s.frz) ∧ (acts → s.rst.warm ≠ 2 → idle → asks t false 3)))) ∧
    (let go := exec .freezeAtTime s
     let passed := s.frz.atFrozen = true ∧ s.time.running = false
     (s.frz.atTime = none → go = .next s) ∧
     (∀ w, s.frz.atTime = some w → s.instant < w → go = .next s) ∧
     (∀ w, s.frz.atTime = some w → w ≤ s.instant → ∃ t, go = .next t ∧ t.frz.atTime = none ∧
       (acts → s.rst.warm ≠ 2 → idle → ¬passed → asks t false 3) ∧
       (¬acts ∨ passed → t.frz = { s.frz with atTime := none, atFrozen := false }))) ∧
    (let now := exec .resume s
     let later := exec .resumeAt s
     (s.mode ≠ .frozen → tells now 1 ∧ tells later 1) ∧
     (s.mode = .frozen → held → tells now 3 ∧ tells later 3) ∧
     (s.mode = .frozen → ¬held → busy → tells now 2 ∧ tells later 2) ∧
     (s.mode = .frozen → ¬held → ¬busy →
       (∃ t, now = .next t ∧ starts t) ∧
       (s.frz.resumeAt ≠ none → tells later 4) ∧
       (s.frz.resumeAt = none → resT < s.instant → ∃ t, later = .next t ∧ starts t ∧ t.fld F.ERR_FRZ_STAT.LATE = 1) ∧
       (s.frz.resumeAt = none → s.instant ≤ resT → ∃ t, later = .next t ∧ res t = 0 ∧
         t.frz = { s.frz with resumeAt := some resT } ∧ t = { s with regs := t.regs, frz := t.frz }))) ∧
    (let go := exec .resumeAtTime s
     (s.frz.resumeAt = none → go = .next s) ∧
     (∀ w, s.frz.resumeAt = some w → s.instant < w → go = .next s) ∧
     (∀ w, s.frz.resumeAt = some w → w ≤ s.instant → ∃ t, go = .next t ∧ t.frz.resumeAt = none ∧
       (s.mode = .frozen → s.rst.warm = 0 → s.rst.region = [] → t.time.start ≠ none) ∧
       (s.mode ≠ .frozen → t.time = s.time))) ∧
    (∃ t, exec .cancelAt s = .next t ∧ res t = 0 ∧ t.frz = { s.frz with atTime := none, resumeAt := none } ∧
      t = { s with regs := t.regs, frz := t.frz })

/-- R415, R416, R418, R425: at the freeze point the strides stop, the device enters FROZEN, or TEST where a scan
instruction asked for it, and the registers, the FREEZE record and a FREEZE packet to each region follow; the packet
halts the processors that HALT names, and they are recorded. Points the rules leave open are the model's own readings:
log entry 34. -/
def Obligations.FreezesStopAndHalt : Prop :=
  ∀ s : State,
    let go := exec .freezeStop s
    let part := s.time.running = true ∧ s.time.step ≠ 0
    let last := if part then some s.time.strideNum else s.time.lastExec
    (freezeReady s = false → go = .next s) ∧
    ((freezeActs s = false ∨ (s.frz.endReq = false ∧ s.frz.nowReq = false) ∨ s.rst.warm = 2 ∨
      (s.frz.nowReq = false ∧ s.time.running = true) ∨ ∃ r : Region, s.pstateR r ≠ 0 ∨ s.pdir r ≠ 0) → go = .next s) ∧
    (freezeReady s = true → (∀ r : Region, s.gStage r ≠ 1) → s.frz.cause < 8 → s.frz.code < 2 ^ 16 → s.frz.region < 4 →
      s.time.step ≤ 2048 → ∃ t, go = .next t ∧ t.mode = (if s.frz.testReq then .test else .frozen) ∧
      t.time.running = false ∧ t.time.start = none ∧ t.time.lastExec = last ∧ t.time.now = s.time.now ∧
      t.frz.endReq = false ∧ t.frz.nowReq = false ∧ t.fld F.ERR_FRZ_STAT.CAUSE = s.frz.cause ∧
      t.fld F.ERR_FRZ_STAT.CODE = s.frz.code ∧ t.fld F.ERR_FRZ_STAT.REGION = s.frz.region ∧
      t.fld F.ERR_FRZ_STAT.PARTIAL = (if part then 1 else 0) ∧
      t.fld F.ERR_FRZ_STAT.STEP = (if part then s.time.step - 1 else 0) ∧
      (∀ n, last = some n → t.reg .ERR_FRZ_STRIDE = BitVec.ofNat 40 n) ∧
      (∃ e ∈ t.detected, e.w0 = s.frz.rec0 ∧ e.w1 = t.reg .ERR_FRZ_STRIDE ∧ e.w2 = BitVec.ofNat 40 (fracOf s.instant)) ∧
      t.frz.packets = [0, 1, 2, 3] ∧ t.frz.halted = [] ∧
      t.frz.haltMode = (if s.frz.locked then 3 else s.fld F.ERR_FRZ_CFG.HALT)) ∧
    ∀ r : Region,
      let halt := exec (.freeze r) s
      let runs := fun p => 1 ≤ s.pstate p ∧ s.pstate p ≤ 4
      let named := fun p => (s.frz.haltMode = 1 ∧ p < 64) ∨ (s.frz.haltMode = 2 ∧ p ≠ 64) ∨ 2 < s.frz.haltMode
      (r.val ∉ s.frz.packets → halt = .next s) ∧
      (r.val ∈ s.frz.packets → ∃ t, halt = .next t ∧ (∀ k, k ∈ t.frz.packets ↔ k ∈ s.frz.packets ∧ k ≠ r.val) ∧
        (∀ p, p ∈ t.frz.halted ↔ p ∈ s.frz.halted ∨ (p ∈ regionProcs r ∧ runs p ∧ named p)) ∧
        (∀ p ∈ regionProcs r, runs p → named p → t.pstate p = 0 ∨ (t.proc p).haltReq = true) ∧ t.mode = s.mode)

/-- R407-R410, R426: the oldest detected record goes into its region's FIFO of 32 and, unless QUIET, into the device ring
of 256, which lose it when full, and the policy entry's action is taken; a read of ERR_REG_REC0 removes the oldest
record of the FIFO and latches the other two words. Points the rules leave open are the model's own readings: log
entry 10. -/
def Obligations.RecordsAreStoredAndEscalated : Prop :=
  ∀ s : State,
    (s.detected = [] → exec .record s = .next s) ∧
    (∀ e es, s.detected = e :: es →
      let code := bitsOf e.w0.toNat 39 24
      let r := bitsOf e.w0.toNat 23 22
      let occ := (s.fld F.ERR_DEV_HEAD.COUNT + 512 - s.fld F.ERR_DEV_TAIL.COUNT) % 512
      let i := s.fld F.ERR_DEV_HEAD.COUNT % 256
      let quiet := code < 0x5000 ∧ s.fld F.ERR_POL.QUIET 0 (policyIndex code) = 1
      let action := s.fld F.ERR_POL.ACTION 0 (policyIndex code)
      let acts := freezeActs s = true
      let still := s.rst.warm = 0 ∧ s.rst.cold = false
      let go := exec .record s
      let inRing := fun (t : State) => t.fld F.ERR_DEV_HEAD.COUNT = (s.fld F.ERR_DEV_HEAD.COUNT + 1) % 512 ∧
        t.reg .ERR_DEV_LOG 0 (4 * i) = BitVec.ofNat 40 (putBits e.w0.toNat 3 3 (if 4 ∈ s.lossy then 1 else 0)) ∧
        t.reg .ERR_DEV_LOG 0 (4 * i + 1) = e.w1 ∧ t.reg .ERR_DEV_LOG 0 (4 * i + 2) = e.w2 ∧
        t.reg .ERR_DEV_LOG 0 (4 * i + 3) = BitVec.ofNat 40 (secOf s.instant)
      (action = 0 → (code ≠ 0x2001 ∧ code ≠ 0x2002) → ∃ t, go = .next t ∧ t.detected = es ∧ t.mode = s.mode ∧
        t.frz = s.frz ∧ t.rst = s.rst ∧
        (0x5000 ≤ code → t.fifos = s.fifos) ∧
        (code < 0x5000 → (s.fifo r).length < 32 →
          t.fifo r = s.fifo r ++ [{ e with w0 := BitVec.ofNat 40 (putBits e.w0.toNat 3 3 (if r ∈ s.lossy then 1 else 0)) }] ∧
          t.fld F.ERR_REG_STAT.COUNT r = (s.fifo r).length + 1 ∧ bitOf (t.fld F.PWR_WAKE_PEND.PEND r) 6 = true) ∧
        (code < 0x5000 → 32 ≤ (s.fifo r).length → t.fifo r = s.fifo r ∧ r ∈ t.lossy ∧
          t.fld F.ERR_REG_STAT.LOST r = Nat.min (s.fld F.ERR_REG_STAT.LOST r + 1) 1023) ∧
        (quiet → t.fld F.ERR_DEV_HEAD.COUNT = s.fld F.ERR_DEV_HEAD.COUNT) ∧
        (¬quiet → occ < 256 → inRing t) ∧
        (¬quiet → 256 ≤ occ → t.fld F.ERR_DEV_HEAD.COUNT = s.fld F.ERR_DEV_HEAD.COUNT ∧ 4 ∈ t.lossy ∧
          t.fld F.ERR_DEV_STAT.LOST = Nat.min (s.fld F.ERR_DEV_STAT.LOST + 1) 65535)) ∧
      ((action = 1 ∨ action = 2) → code ≠ 0x2001 → code ≠ 0x2002 → acts → still → s.frz.endReq = false →
        s.frz.nowReq = false → ∃ t, go = .next t ∧ t.detected = es ∧ t.frz.endReq = decide (action = 1) ∧
        t.frz.nowReq = decide (action = 2) ∧ t.frz.cause = 4 ∧ t.frz.code = code ∧ t.frz.region = r) ∧
      (action = 3 → code ≠ 0x2001 → code ≠ 0x2002 → (acts ∨ s.mode = .frozen) → still → code < 0x5000 →
        ∃ t, go = .next t ∧ t.gStage r ≠ 0) ∧
      ((action = 4 ∨ (action = 3 ∧ 0x5000 ≤ code)) → code ≠ 0x2001 → code ≠ 0x2002 → (acts ∨ s.mode = .frozen) → still →
        ∃ t, go = .next t ∧ t.rst.warm ≠ 0 ∧ t.rst.src = 7) ∧
      (¬acts → s.mode ≠ .frozen → ∃ t, go = .next t ∧ t.detected = es ∧ t.frz = s.frz ∧ t.rst = s.rst)) ∧
    ∀ r : Region,
      let go := exec (.errRegRec0Read r) s
      (s.fifo r = [] → ∃ t, go = .next t ∧ t.lastRead = 0 ∧ t.reg .ERR_REG_REC1 r = 0 ∧ t.reg .ERR_REG_REC2 r = 0 ∧
        t = { s with regs := t.regs, lastRead := t.lastRead }) ∧
      (∀ e es, s.fifo r = e :: es → es.length < 64 → ∃ t, go = .next t ∧ t.lastRead = e.w0 ∧ t.reg .ERR_REG_REC1 r = e.w1 ∧
        t.reg .ERR_REG_REC2 r = e.w2 ∧ t.fifo r = es ∧ t.fld F.ERR_REG_STAT.COUNT r = es.length ∧
        (∀ k, k ≠ r.val → t.fifo k = s.fifo k) ∧ t = { s with regs := t.regs, lastRead := t.lastRead, fifos := t.fifos })

/-- R411 and Tables 17.3 and 17.4: an injection is refused by the first condition of LOCKED, BAD_TARGET, WRONG_MODE and
BUSY that holds; an accepted one inverts the named stored bits or arms the named occasion, and nothing else changes
but KIND and RES of ERR_INJ_CTRL. Points the rules leave open are the model's own readings: log entries 34 and 56. -/
def Obligations.InjectionsInvertBitsOrArm : Prop :=
  ∀ (s : State) (k : Nat), 1 ≤ k → k ≤ 20 →
    let row : Instr := match k with
      | 1 => .injectDataBit | 2 => .injectInstructionParity | 3 => .injectSelMulti | 4 => .injectLineMulti
      | 5 => .injectSpar | 6 => .injectQueueBit | 7 => .injectScratchpadBit | 8 => .injectMarchFail
      | 9 => .injectEngineParity | 10 => .injectDmaErr | 11 => .injectPllLoss | 12 => .injectCdrLoss
      | 13 => .injectLinkCrc | 14 => .injectNocFormat | 15 => .injectHeatWriteErr | 16 => .injectArcUncorr
      | 17 => .injectArcProgFail | 18 => .injectRegTimeout | 19 => .injectTlLost | _ => .injectRefLost
    let go := exec row s
    let arg := (s.reg .ERR_INJ_ARG).toNat
    let region := s.fld F.ERR_INJ_TGT.REGION
    let tileN := s.fld F.ERR_INJ_TGT.TILE
    let cellN := s.fld F.ERR_INJ_TGT.CELL
    let tile := 16 * region + tileN
    let cluster := 16 * tile + s.fld F.ERR_INJ_TGT.CLUSTER
    let cell := 64 * cluster + cellN
    let b := arg % 64
    let pair := bitOf arg 39 = true
    let mask := 2 ^ b + (if bitOf arg 39 then 2 ^ (b + 1) else 0)
    let out := bitsOf arg 9 5
    let bitBad := 46 < b ∨ (pair ∧ 45 < b)
    let bad := (k = 1 ∧ bitBad) ∨ (k = 4 ∧ out ≠ 16 ∧ out ≠ 17 ∧ out ≠ 26 ∧ out ≠ 27 ∧ out ≠ 28) ∨
      (k = 5 ∧ 40 ≤ arg % 128 ∧ arg % 128 < 64) ∨ (k = 6 ∧ (bitBad ∨ 12 ≤ bitsOf arg 9 6)) ∨ (k = 7 ∧ bitBad) ∨
      (k = 8 ∧ 6 ≤ bitsOf arg 16 14) ∨ (k = 9 ∧ (2 ≤ cellN ∨ (cellN = 0 ∧ 16384 ≤ arg % 32768))) ∨
      (k = 10 ∧ (2 ≤ cellN ∨ (cellN = 1 ∧ 2 ≤ arg % 4) ∨ bitsOf arg 7 4 = 0 ∨ 12 < bitsOf arg 7 4)) ∨
      ((k = 11 ∨ k = 12) ∧ 12 ≤ tileN) ∨ (k = 13 ∧ bitsOf arg 5 2 = 0) ∨ (k = 18 ∧ ((4 ≤ b ∧ b < 8) ∨ 20 ≤ b))
    let locked := s.fld F.CFG_STATUS.LOCKED = 1
    let early := k ≤ 5 ∧ (s.mode = .blank ∨ s.mode = .loading)
    let refused := fun (code : Nat) => ∃ t, go = .next t ∧ t.fld F.ERR_INJ_CTRL.RES = code ∧ t.fld F.ERR_INJ_CTRL.KIND = k ∧
      KeepsRegs s t [regAddr .ERR_INJ_CTRL 0 0] ∧ t = { s with regs := t.regs }
    let proc := if cellN = 1 then 64 + region else tile
    (locked → refused 4) ∧ (¬locked → bad → refused 2) ∧ (¬locked → ¬bad → early → refused 5) ∧
    (¬locked → ¬bad → ¬early → injArmed s = true → refused 3) ∧
    (¬locked → ¬bad → ¬early → injArmed s = false → ∃ t, go = .next t ∧ t.fld F.ERR_INJ_CTRL.RES = 0 ∧
      t.fld F.ERR_INJ_CTRL.KIND = k ∧ (k ≠ 11 → k ≠ 12 → KeepsRegs s t [regAddr .ERR_INJ_CTRL 0 0]) ∧
      (k = 1 → (let w := bitsOf arg 15 6
        let e := if bitOf arg 16 then 1 - s.committed cell w else s.committed cell w
        ∀ x, mget 0 t.fab.dmemErr x =
          (if x = entryIx cell w e then mget 0 s.fab.dmemErr x ^^^ mask else mget 0 s.fab.dmemErr x)) ∧
        t = { s with regs := t.regs, fab := { s.fab with dmemErr := t.fab.dmemErr } }) ∧
      (k = 2 → (∀ x, mget 0 t.fab.ipar x = (if x = 2048 * cell + bitsOf arg 11 1 then mget 0 s.fab.ipar x ^^^ 2 ^ (arg % 2)
          else mget 0 s.fab.ipar x)) ∧ t = { s with regs := t.regs, fab := { s.fab with ipar := t.fab.ipar } }) ∧
      ((k = 3 ∨ k = 4) →
        let entry := 32 * entryOf cluster (bitsOf arg 20 10) + out
        (s.time.running = true → s.time.step ≠ 0 →
          t.fab = { s.fab with injNext := some (entry, if k = 3 then some (arg % 32) else none) }) ∧
        ((s.time.running = false ∨ s.time.step = 0) →
          (k = 3 → mget 0 t.fab.selInj entry = 2 ^ (arg % 32)) ∧ (k = 4 → mget false t.fab.drvInj entry = true)) ∧
        t = { s with regs := t.regs, fab := t.fab }) ∧
      (k = 5 → (let part := if arg % 128 < 40 then arg % 128 else arg % 128 - 24
        ∀ x, mget false t.fab.spar x = (if x = 104 * entryOf cluster (bitsOf arg 17 7) + part then !mget false s.fab.spar x
          else mget false s.fab.spar x)) ∧ t = { s with regs := t.regs, fab := { s.fab with spar := t.fab.spar } }) ∧
      ((k = 6 ∨ k = 7) →
        let a := if k = 6 then qmAddr tile (bitsOf arg 24 10) (bitsOf arg 9 6) else spdAddr tile (bitsOf arg 22 6)
        (∀ x, mget 0 t.memErr x = (if x = a then mget 0 s.memErr x ^^^ mask else mget 0 s.memErr x)) ∧
        t = { s with regs := t.regs, memErr := t.memErr }) ∧
      (k = 8 → (mget {} t.tiles tile).marchFails = [(bitsOf arg 16 14, arg % 16384)] ∧
        (∀ x, x ≠ tile → mget {} t.tiles x = mget {} s.tiles x) ∧ t = { s with regs := t.regs, tiles := t.tiles }) ∧
      (k = 9 → (∀ a, t.imemBad proc a = (if a % imemWords proc = arg % 32768 then !s.imemBad proc a else s.imemBad proc a)) ∧
        t = { s with regs := t.regs, imemPar := t.imemPar }) ∧
      (k = 10 → t.proc proc = { s.proc proc with dmaInj := [(arg % 4, bitsOf arg 7 4)] } ∧
        (∀ p, p ≠ proc → t.proc p = s.proc p) ∧ t = { s with regs := t.regs, procs := t.procs }) ∧
      ((k = 11 ∨ k = 12) →
        let l := 12 * region + tileN
        let lock := if k = 11 then F.LN_STATUS.PLL_LOCK else F.LN_STATUS.CDR_LOCK
        ((s.lf l lock = 0 ∨ (k = 11 ∧ s.laneOn l = false)) →
          t.lane l = (if k = 11 then { s.lane l with pllInj := true } else { s.lane l with cdrInj := true })) ∧
        (s.lf l lock = 1 → s.laneOn l = true → t.lf l lock = 0 ∧ LaneReports s t l (k - 11))) ∧
      (k = 13 → mget 0 t.net.crcInj (4 * tile + arg % 4) = bitsOf arg 5 2 ∧
        t = { s with regs := t.regs, net := { s.net with crcInj := t.net.crcInj } }) ∧
      (k = 14 → t = { s with regs := t.regs, net := { s.net with fmtInj := some tile } }) ∧
      (k = 15 → (t.ch region (arg % 16)) = { s.ch region (arg % 16) with writeErr := true } ∧
        t = { s with regs := t.regs, heats := t.heats }) ∧
      (k = 16 → t.arc region = { s.arc region with uncorr := true } ∧ t = { s with regs := t.regs, arcs := t.arcs }) ∧
      (k = 17 → t.arc region = { s.arc region with prog := true } ∧ t = { s with regs := t.regs, arcs := t.arcs }) ∧
      (k = 18 → t = { s with regs := t.regs, railInj := some b }) ∧
      (k = 19 → t = { s with regs := t.regs, time := { s.time with tlIgnore := s.instant + 10240000 } }) ∧
      (k = 20 → t = { s with regs := t.regs, refAbsent := s.instant + 20480000 }))

/-- R19, R384, R423-R425: a scan instruction becomes the current one, its cells drive the lands or the outputs float, and
the device takes TEST at once from BLANK and FROZEN and after a freeze at once from the running modes, but under the
debug lock it freezes or stays in BLANK; IDCODE, SAMPLE/PRELOAD and BYPASS leave the lands and the mode alone; MEMACC
is an RD or a WR of one word with source 0x5B after it captured the access before, and BYPASS under the lock. A host
test command takes TEST from BLANK and FROZEN and ends a start that waits; elsewhere, and under the lock, it is
refused with WRONG_MODE. Points the rules leave open are the model's own readings: log entry 54. -/
def Obligations.JtagInstructionsScanAndTest : Prop :=
  ∀ (s : State) (lands next : Nat),
    let locked := s.fld F.CFG_STATUS.LOCKED = 1
    let running := freezeActs s = true
    let scans := fun (o : Host.Outcome State Fault Refusal) (ir drive tdo bsr : Nat) => ∃ t, o = .next t ∧
      t.jtag = { s.jtag with ir := ir, drive := drive, tdo := tdo, bsr := bsr } ∧ t.mem = s.mem ∧ t.fab = s.fab ∧
      (¬locked → (s.mode = .blank ∨ s.mode = .frozen) → t.mode = .test ∧ t.frz.test = some s.mode) ∧
      (¬locked → s.mode = .test → t.mode = .test ∧ t.frz = s.frz) ∧
      (¬locked → running → s.rst.warm ≠ 2 → s.frz.endReq = false → s.frz.nowReq = false → t.mode = s.mode ∧
        t.frz.testReq = true ∧ t.frz.nowReq = true ∧ t.frz.cause = 2) ∧
      (locked → s.mode = .blank → t.mode = .blank) ∧
      (locked → s.mode = .frozen → t.mode = .frozen ∧ t.frz.packets = [0, 1, 2, 3] ∧ t.frz.haltMode = 3) ∧
      (locked → running → s.rst.warm ≠ 2 → s.frz.endReq = false → s.frz.nowReq = false → t.mode = s.mode ∧
        t.frz.locked = true ∧ t.frz.nowReq = true ∧ t.frz.testReq = s.frz.testReq)
    let quiet := fun (o : Host.Outcome State Fault Refusal) (ir tdo bsr : Nat) =>
      o = .next { s with jtag := { s.jtag with ir := ir, drive := 0, tdo := tdo, bsr := bsr } }
    (s.mode ≠ .loading → scans (exec (.extest lands next) s) 0x00 1 lands next ∧
      scans (exec (.extestPulse lands next) s) 0x05 1 lands next ∧
      scans (exec (.extestTrain lands next) s) 0x06 1 lands next ∧
      scans (exec .highz s) 0x03 2 0 s.jtag.bsr ∧ scans (exec .clamp s) 0x04 1 0 s.jtag.bsr) ∧
    (s.mode = .loading → s.load.kind = 1 → s.load.waking = false → ∃ t, exec (.extest lands next) s = .next t ∧ t.jtag.ir = 0x00 ∧ t.load.kind = 0 ∧
      t.mode = (if s.fld F.CFG_STATUS.LOCKED = 1 then .blank else .test)) ∧
    quiet (exec .idcode s) 0x01 0x2964036B s.jtag.bsr ∧ quiet (exec .bypass s) 0xFF 0 s.jtag.bsr ∧
    quiet (exec (.samplePreload lands next) s) 0x02 lands next ∧
    (∀ (op : BitVec 2) (addr data : Word),
      let go := exec (.memacc op addr data) s
      let capture := (if jtagBusy s then 2 ^ 81 else 0) + s.jtag.status * 2 ^ 76 + s.jtag.data.toNat
      let u := { s with jtag := { s.jtag with ir := 0x20, drive := 0, tdo := capture } }
      (locked → quiet go 0x20 0 s.jtag.bsr) ∧
      (¬locked → (op = 0 ∨ op = 3 ∨ oneWord addr.toNat = none) → go = .next u) ∧
      (∀ sel : BitVec 12, ¬locked → oneWord addr.toNat = some sel.toNat → s.net.waitReq = [] → s.net.accepted = [] →
        (op = 1 → ∃ t, go = .next t ∧ exec (.rd 0x5B 0 addr sel) u = .next t) ∧
        (op = 2 → ∃ t, go = .next t ∧ exec (.wr 0x5B 0 addr sel s.time.strideNum [data]) u = .next t))) ∧
    ((s.mode = .blank ∨ s.mode = .frozen) → ¬locked →
      exec .hostTestCommand s = .next { s with
        mode := .test, frz := { s.frz with test := some s.mode, testWrong := false }, time := { s.time with start := none } }) ∧
    (((s.mode ≠ .blank ∧ s.mode ≠ .frozen) ∨ locked) →
      exec .hostTestCommand s = .next { s with frz := { s.frz with testWrong := true } })

/-- R27, R317, R428, R429, R431: a host read returns the bytes of main memory with zero tag bytes, or of a register slot;
a write changes exactly the bytes it enables of a block, or a whole slot, and a slot covered in part is not written
and sets SIZE; an access to a reserved address reads zero and sets ADDR_UNMAPPED, with the first status and address
kept; a late read waits for its response, and RD_LIMIT ends it with zero data; under PERST_N nothing is taken. Points
the rules leave open are the model's own readings: log entry 46. -/
def Obligations.HostAccessesReachTheDevice : Prop :=
  ∀ (s : State) (len : Nat) (data : List (Option (BitVec 8))) (late : Bool),
    let errClear := bitsOf (s.reg .HST_ERR).toNat 39 34 = 0
    let keepsFirst := fun (t : State) (st a : Nat) =>
      (errClear → t.fld F.HST_ERR.FIRST_STATUS = st ∧ t.fld F.HST_ERR_ADDR.ADDR = a) ∧
      (¬errClear → t.fld F.HST_ERR.FIRST_STATUS = s.fld F.HST_ERR.FIRST_STATUS ∧ t.reg .HST_ERR_ADDR = s.reg .HST_ERR_ADDR) ∧
      KeepsRegs s t [regAddr .HST_ERR 0 0, regAddr .HST_ERR_ADDR 0 0]
    (s.host.inReset = true → ∀ o y, exec (.bar0Read o len late) s = .next s ∧ exec (.bar0Write o data) s = .next s ∧
      exec (.bar2Read y len late) s = .next s ∧ exec (.bar2Write y data) s = .next s) ∧
    (∀ y : BitVec 36, s.host.inReset = false → s.fld F.HST_BAR2_BASE.GIB ≤ 64 →
      let a := s.fld F.HST_BAR2_BASE.GIB * 2 ^ 30 + y.toNat
      let blk := a / 64 * 64
      let first := a % 64
      (∀ node, nodeOf a = some node → nodeState s node = 0) → netCalm s = true → probing s = false → (∀ r : Region, s.fld F.MEM_CTRL.DIAG r = 0) →
      (rsDecode (bytesAt s.mem blk 64)).2 = 0 →
      (first + len ≤ 64 → 0 < len → ∃ t, exec (.bar2Read y len false) s = .next t ∧ t.host.data.length = len ∧
        (∀ i, i < len → t.host.data.getD i 1 = (if first + i < 60 then (readByte s.mem (a + i)).toNat else 0)) ∧
        t = { s with host := { s.host with data := t.host.data }, net := t.net }) ∧
      (first + len ≤ 64 → 0 < len → ∃ t, exec (.bar2Read y len true) s = .next t ∧
        t.host.reads = s.host.reads ++ [{ tag := s.host.tag, addr := blk, first := first, len := len, bar2 := true }] ∧
        t.host.tag = (s.host.tag + 1) % 0x8000 ∧ t.resps.length = s.resps.length + 1 ∧ t.mem = s.mem) ∧
      (first + data.length ≤ 64 → ∃ t, exec (.bar2Write y data) s = .next t ∧
        (∀ j, j < 60 → readByte t.mem (blk + j) =
          (match (if j < first then none else data.getD (j - first) none) with
          | some b => b
          | none => readByte s.mem (blk + j))) ∧
        (∀ b, b < blk ∨ blk + 64 ≤ b → readByte t.mem b = readByte s.mem b) ∧ t = { s with mem := t.mem, net := t.net })) ∧
    (∀ o : BitVec 28, s.host.inReset = false → nodeOf (0x7FF0000000 + o.toNat) = none →
      let a := 0x7FF0000000 + o.toNat
      (a % 64 + len ≤ 64 → 0 < len → ∃ t, exec (.bar0Read o len false) s = .next t ∧
        t.host.data = List.replicate len 0 ∧ t.fld F.HST_ERR.ADDR_UNMAPPED = 1 ∧ keepsFirst t 1 (a / 64 * 64) ∧
        t = { s with regs := t.regs, host := t.host }) ∧
      (a % 8 = 0 → data.length = 8 → (∀ x ∈ data, x ≠ none) → ∃ t, exec (.bar0Write o data) s = .next t ∧
        t.fld F.HST_ERR.ADDR_UNMAPPED = 1 ∧ keepsFirst t 1 (a / 64 * 64) ∧ t = { s with regs := t.regs, host := t.host })) ∧
    (∀ o : BitVec 28, s.host.inReset = false → o.toNat % 8 = 0 → data.length = 8 → none ∈ data →
      ∃ t, exec (.bar0Write o data) s = .next t ∧ t.fld F.HST_ERR.SIZE = 1 ∧ keepsFirst t 0 (0x7FF0000000 + o.toNat) ∧
        t = { s with regs := t.regs, host := t.host }) ∧
    (∀ (o : BitVec 28) (n : Fin 64), s.host.inReset = false → 0x7FF0000000 + o.toNat = regAddr .HST_HDB 0 n →
      nodeState s 29 = 0 → netCalm s = true → probing s = false →
      (∃ t, exec (.bar0Read o 8 false) s = .next t ∧
        t.host.data = wordBytes (s.reg .HST_HDB 0 n) ++ [0, 0, 0] ∧ t.regs = s.regs ∧ t.mem = s.mem) ∧
      (data.length = 8 → (∀ x ∈ data, x ≠ none) → ∃ t, exec (.bar0Write o data) s = .next t ∧
        (∀ i, i < 5 → data.getD i none = some (BitVec.ofNat 8 ((t.reg .HST_HDB 0 n).toNat / 256 ^ i))) ∧
        KeepsRegs s t [regAddr .HST_HDB 0 n] ∧ Signalled (s.masked (64 + n)) s.host t.host (64 + n) ∧
        t = { s with regs := t.regs, host := t.host, net := t.net })) ∧
    (∀ gib : BitVec 7, ∃ t, exec (.bar2BaseWrite gib) s = .next t ∧
      t.fld F.HST_BAR2_BASE.GIB = (if gib.toNat ≤ 64 then gib.toNat else s.fld F.HST_BAR2_BASE.GIB) ∧
      t = { s with regs := t.regs, rwq := t.rwq }) ∧
    (∀ tag : BitVec 16,
      let go := exec (.rdTimeout tag) s
      ((∀ r ∈ s.host.reads, r.tag ≠ tag.toNat) → go = .next s) ∧ (s.fld F.HST_CTRL.RD_LIMIT = 0 → go = .next s) ∧
      (∀ r, s.host.reads.find? (fun r => r.tag == tag.toNat) = some r → s.fld F.HST_CTRL.RD_LIMIT ≠ 0 → r.addr < 2 ^ 40 →
        ∃ t, go = .next t ∧ t.host.reads = s.host.reads.erase r ∧ t.host.data = List.replicate r.len 0 ∧
        t.fld F.HST_ERR.RD_TIMEOUT = 1 ∧ keepsFirst t 0 r.addr ∧ t = { s with regs := t.regs, host := t.host }))

/-- R433-R435: a host DMA channel counts its descriptors, is enabled, restarted and aborted; the descriptor at CI moves
its words and completes with its status, its record goes to the completion ring with the phase of the pass, CI
advances, and IRQ or an error signals the vector; an error stops the channel. Points the rules leave open are the
model's own readings: log entry 47. -/
def Obligations.HostDmaCompletesInRingOrder : Prop :=
  ∀ (s : State) (c : Fin 8) (bytes : List (BitVec 8)) (stamps : List Nat),
    let v := s.hch c
    let d := hostDesc s c
    let only := fun (t : State) (w : HostCh) => t.hch c = w ∧ (∀ k, k ≠ c.val → t.hch k = s.hch k) ∧
      t = { s with host := { s.host with chans := t.host.chans } }
    let gives := fun (o : Host.Outcome State Fault Refusal) (w : HostCh) => ∃ t, o = .next t ∧ only t w
    let runs := s.host.inReset = false ∧ v.en = true ∧ v.stopped = false ∧ v.pi ≠ v.ci ∧ v.pi < 65536 ∧ v.ci < 65536
    let n := Nat.max v.n 1
    let at_ := v.base + 16 * (v.recs % n)
    let go := exec (.hostDmaComplete c bytes stamps none) s
    let finishes := fun (t : State) (status count : Nat) =>
      t.hch c = { v with ci := (v.ci + 1) % 65536, recs := v.recs + 1, run := none, stopped := decide (status ≠ 0) } ∧
      (∀ i, i < 16 → readByte t.host.mem (at_ + i) = BitVec.ofNat 8 ([d.tag % 256, d.tag / 256, status, c.val, 0, 0, 0, 0,
        count % 256, count / 2 ^ 8 % 256, count / 2 ^ 16 % 256, count / 2 ^ 24 % 256, 0, 0, 0,
        1 - v.recs / n % 2].getD i 0)) ∧
      (if d.irq = true ∨ status ≠ 0 then Signalled (s.masked (2 + c)) s.host { t.host with mem := s.host.mem, chans := s.host.chans } (2 + c)
       else t.host = { s.host with mem := t.host.mem, chans := t.host.chans })
    (s.host.inReset = true → ∀ pi en k, exec (.dmaDoorbell c pi) s = .next s ∧ exec (.hostDmaEnable c en) s = .next s ∧
      exec (.hostDmaRestart c) s = .next s ∧ exec (.hostDmaAbort c k bytes) s = .next s ∧ go = .next s) ∧
    (s.host.inReset = false →
      (∀ pi : BitVec 16, v.ci < 65536 →
        gives (exec (.dmaDoorbell c pi) s) (if 256 < (pi.toNat + 65536 - v.ci) % 65536 then { v with dbErr := true }
          else { v with pi := pi.toNat })) ∧
      (v.n = 0 → gives (exec (.hostDmaEnable c true) s) { v with dbErr := true }) ∧
      (v.n ≠ 0 → v.en = false → gives (exec (.hostDmaEnable c true) s)
        { v with en := true, pi := 0, ci := 0, recs := 0, run := none, abort := false }) ∧
      (v.n ≠ 0 → v.en = true → gives (exec (.hostDmaEnable c true) s) v) ∧
      gives (exec (.hostDmaEnable c false) s) { v with en := false } ∧
      gives (exec (.hostDmaRestart c) s) { v with stopped := false } ∧
      (∀ k, v.en = false → exec (.hostDmaAbort c k bytes) s = .next s) ∧
      (∀ k e, v.en = true → v.run = some e → e.2.2 ≠ 0 → gives (exec (.hostDmaAbort c k bytes) s) { v with abort := true }) ∧
      (∀ k, v.en = true → v.run = none → v.pi = v.ci → ∃ t, exec (.hostDmaAbort c k bytes) s = .next t ∧
        t.hch c = { v with stopped := true } ∧ t.host.mem = s.host.mem ∧ t = { s with host := t.host }) ∧
      (∀ k, v.en = true → v.run = none → v.ci < 65536 → v.pi < 65536 → ∃ t, exec (.hostDmaAbort c k bytes) s = .next t ∧
        (t.hch c).ci = v.pi ∧ (t.hch c).stopped = true ∧ (t.hch c).recs = v.recs + (v.pi + 65536 - v.ci) % 65536) ∧
      (∀ k, v.en = true → v.run = none → v.stopped = true → v.ci < 65535 → v.pi = v.ci + 1 →
        ∃ t, exec (.hostDmaAbort c k bytes) s = .next t ∧ t.hch c = { v with ci := v.pi, recs := v.recs + 1 } ∧
        readByte t.host.mem (at_ + 2) = 12 ∧ t = { s with host := t.host })) ∧
    ((v.en = false ∨ v.stopped = true ∨ (v.pi = v.ci ∧ v.ci < 65536)) → go = .next s) ∧
    (runs → v.run = none →
      (∀ st, (d.bad = true ∧ st = 9) ∨ (d.bad = false ∧ d.len = 0 ∧ st = 0) ∨
          (d.bad = false ∧ d.len ≠ 0 ∧ d.aligned = false ∧ st = 10) →
        ∃ t, go = .next t ∧ finishes t st 0 ∧ t = { s with host := t.host }) ∧
      (let word := d.daddr % 64 / 5
       let ready := d.bad = false ∧ d.len = 1 ∧ d.hfmt = 0 ∧ d.daddr < 0x2000000000 ∧ d.daddr % 64 % 5 = 0 ∧ word < 12 ∧
         (∀ node, nodeOf d.daddr = some node → nodeState s node = 0) ∧ netCalm s = true ∧ probing s = false ∧
         (∀ r : Region, s.fld F.MEM_CTRL.DIAG r = 0) ∧ (rsDecode (bytesAt s.mem (d.daddr / 64 * 64) 64)).2 = 0
       (ready → d.dir = 1 → (d.w0 + 5 ≤ at_ ∨ at_ + 16 ≤ d.w0) → ∃ t, go = .next t ∧ finishes t 0 1 ∧
         (∀ i, i < 5 → readByte t.host.mem (d.w0 + i) = readByte s.mem (d.daddr + i)) ∧
         t = { s with host := t.host, net := t.net }) ∧
       (ready → d.dir = 0 → bytes.length = 5 → ∃ t, go = .next t ∧ finishes t 0 1 ∧
         (∀ i, i < 5 → readByte t.mem (d.daddr + i) = bytes.getD i 0) ∧
         (∀ b, b < d.daddr / 64 * 64 ∨ d.daddr / 64 * 64 + 64 ≤ b → readByte t.mem b = readByte s.mem b) ∧
         t = { s with host := t.host, net := t.net, mem := t.mem }) ∧
       (ready → d.dir < 2 → ∃ t, exec (.hostDmaComplete c bytes stamps (some 0)) s = .next t ∧ finishes t 13 0 ∧
         t.mem = s.mem)))

/-- R436-R438: HST_IRQ_ACK sends a further message while the condition of a level vector holds; a doorbell stores its
value and signals its vector; unmasking sends what is pending; PERST_N stops the channels and drops what is due to
them, and its rise resets the tables and controls; D0 with L0 releases WAKE_N and sends the held messages. Points the
rules leave open are the model's own readings: log entry 48. -/
def Obligations.VectorsAndPowerStatesOfTheHost : Prop :=
  ∀ s : State,
    let h := s.host
    (∀ v : BitVec 8,
      let holds := (v = 0 ∧ s.fld F.ERR_DEV_HEAD.COUNT ≠ s.fld F.ERR_DEV_TAIL.COUNT) ∨
        (v = 1 ∧ bitsOf (s.reg .HST_ERR).toNat 39 34 ≠ 0) ∨ (v = 16 ∧ s.time.tsFifo ≠ []) ∨
        (v = 17 ∧ s.fld F.TIM_STATUS.PPS_IN_NEW = 1)
      (¬holds → exec (.irqAck v) s = .next s) ∧
      (holds → ∃ t, exec (.irqAck v) s = .next t ∧ Signalled (s.masked v.toNat) h t.host v.toNat ∧
        t = { s with host := t.host })) ∧
    (∀ (n : Fin 64) (value : Word), ∃ t, exec (.hostDoorbell n value) s = .next t ∧ t.reg .HST_HDB 0 n = value ∧
      KeepsRegs s t [regAddr .HST_HDB 0 n] ∧ Signalled (s.masked (64 + n)) h t.host (64 + n) ∧
      t = { s with regs := t.regs, host := t.host }) ∧
    (h.inReset = true → ∀ x, exec (.msixUnmask x) s = .next s) ∧
    (h.inReset = false → (∀ v, bitOf h.pba v = false) → exec (.msixUnmask none) s = .next { s with host := { h with fnMask := false } }) ∧
    (∀ v : Fin 256, h.inReset = false → h.fnMask = false → h.pba = 2 ^ v.val → h.d3 = false → h.l2 = false →
      ∃ t, exec (.msixUnmask (some v)) s = .next t ∧ t.masked v = false ∧ t.host.pba = 0 ∧ t.host.msgs = h.msgs ++ [v.val] ∧
        (∀ w : Fin 256, w ≠ v → t.masked w = s.masked w) ∧ t = { s with host := t.host }) ∧
    (∀ x : Option (Fin 256), h.inReset = false → h.d3 = false → h.l2 = false → ∃ t, exec (.msixUnmask x) s = .next t ∧
      (∀ v, x = some v → bitOf (t.msixWord (2 * v + 1)) 32 = false) ∧ (x = none → t.host.fnMask = false) ∧
      (∀ v : Fin 256, bitOf t.host.pba v = (bitOf h.pba v && t.masked v)) ∧
      t.host.msgs = h.msgs ++ (List.range 256).filter (fun v => bitOf h.pba v && !t.masked v)) ∧
    (∀ v : Fin 256, h.inReset = false → h.fnMask = true → ∃ t, exec (.msixUnmask (some v)) s = .next t ∧
      bitOf (t.msixWord (2 * v + 1)) 32 = false ∧ t.host.pba = h.pba ∧ t.host.msgs = h.msgs) ∧
    (∃ t, exec .perstN s = .next t ∧ t.host.inReset = true ∧ t.host.reads = [] ∧ (∀ c : Fin 8, (t.hch c).en = false ∧
      (t.hch c).recs = (s.hch c).recs) ∧ t.host.mem = h.mem ∧ t.host.msgs = h.msgs ∧
      (∀ x ∈ t.resps, x.dst = 0x58 → x.late = true) ∧ (∀ q ∈ t.net.waitReq, q.src ≠ 0x58) ∧
      t = { s with host := t.host, resps := t.resps, queues := t.queues, net := t.net }) ∧
    (h.inReset = false → exec .perstNRise s = .next s) ∧
    (h.inReset = true → ∃ t, exec .perstNRise s = .next t ∧ t.host.inReset = false ∧ t.host.table = [] ∧ t.host.fnMask = true ∧
      t.host.pba = 0 ∧ t.host.chans = [] ∧ t.host.ring = [] ∧ t.fld F.HST_BAR2_BASE.GIB = 0 ∧ t.host.msgs = h.msgs ∧
      KeepsRegs s t [regAddr .HST_BAR2_BASE 0 0] ∧ t = { s with regs := t.regs, host := t.host }) ∧
    (∀ d3 l2 : Bool, h.inReset = true → exec (.pciePowerState d3 l2) s = .next s) ∧
    (∀ d3 l2 : Bool, h.inReset = false → (d3 = true ∨ l2 = true) →
      exec (.pciePowerState d3 l2) s = .next { s with host := { h with d3 := d3, l2 := l2 } }) ∧
    (h.inReset = false → ∃ t, exec (.pciePowerState false false) s = .next t ∧ t.host.d3 = false ∧ t.host.l2 = false ∧
      t.host.wakeLow = false ∧ t.host.held = 0 ∧
      (∀ v, v < 256 → bitOf h.held v = true → s.masked v = false → v ∈ t.host.msgs) ∧
      (h.held = 0 → t.host.msgs = h.msgs) ∧ t = { s with host := t.host })

/-- R439, R440: a port is enabled unless a ring lies outside main memory; a received frame that is bad, not addressed to
the port or without room is counted and dropped as the rules say, and another goes to the entry RX_WP mod N with its
length, time and bytes; TX_WP is refused beyond the ring; a transmitted entry is consumed, and sent with padding and
FCS unless its length is 0 or above 1,522. Points the rules leave open are the model's own readings: log entries 50
and 51. -/
def Obligations.ManagementPortsMoveFrames : Prop :=
  ∀ (s : State) (p : Fin 2),
    let f := fun (t : State) (g : Fld) => t.fld g 0 p
    let inMain := fun (base n : Nat) => n = 0 ∨ 64 * base + 2048 * n ≤ 0x2000000000
    let cfgOnly := fun (t : State) => KeepsRegs s t [regAddr .HST_MGT_CFG 0 p] ∧ t = { s with regs := t.regs }
    (∀ value : Word, ∃ t, exec (.mgtEnable p value) s = .next t ∧ cfgOnly t ∧
      f t F.HST_MGT_CFG.RATE = bitsOf value.toNat 38 38 ∧ f t F.HST_MGT_CFG.FEC = bitsOf value.toNat 37 37 ∧
      f t F.HST_MGT_CFG.PROMISC = bitsOf value.toNat 36 36 ∧ f t F.HST_MGT_CFG.HIRQ = bitsOf value.toNat 35 35 ∧
      (value.getLsbD 39 = false → f t F.HST_MGT_CFG.EN = 0) ∧
      (value.getLsbD 39 = true →
        let ok := inMain (f s F.HST_MGT_RX_BASE.ADDR) (f s F.HST_MGT_RX_N.N) ∧
          inMain (f s F.HST_MGT_TX_BASE.ADDR) (f s F.HST_MGT_TX_N.N)
        (ok → f t F.HST_MGT_CFG.EN = 1) ∧
        (¬ok → f t F.HST_MGT_CFG.EN = f s F.HST_MGT_CFG.EN ∧ f t F.HST_MGT_CFG.CFG_ERR = 1))) ∧
    (∀ value : Word, ∃ t, exec (.mgtTxWpWrite p value) s = .next t ∧
      (let beyond := f s F.HST_MGT_TX_N.N < (value.toNat + 2 ^ 40 - f s F.HST_MGT_TX_RP.COUNT) % 2 ^ 40
       (beyond → f t F.HST_MGT_CFG.CFG_ERR = 1 ∧ cfgOnly t) ∧
       (¬beyond → t.reg .HST_MGT_TX_WP 0 p = value ∧ KeepsRegs s t [regAddr .HST_MGT_TX_WP 0 p] ∧ t = { s with regs := t.regs }))) ∧
    (∀ up : Bool, ∃ t, exec (.mgtLinkUp p up) s = .next t ∧ (liveWord t ⟨.HST_MGT_CFG, 0, p⟩).getLsbD 34 = up ∧
      t = { s with host := { s.host with local_ := t.host.local_ } }) ∧
    (∀ (frame : List (BitVec 8)) (bad : Bool) (stamp : Nat),
      let go := exec (.mgtFrameReceive p frame bad stamp) s
      let counts := fun (g : Fld) (lim : Nat) => ∃ t, go = .next t ∧ f t g = Nat.min (f s g + 1) lim ∧
        KeepsRegs s t [regAddr .HST_MGT_CNT1 0 p] ∧ t = { s with regs := t.regs }
      let bs := frame.map (fun b => b.toNat)
      let mac := f s F.HST_MGT_MAC_HI.MAC * 2 ^ 24 + f s F.HST_MGT_MAC_LO.MAC
      let mine := f s F.HST_MGT_CFG.PROMISC = 1 ∨ beNum bs 0 6 = mac ∨ beNum bs 0 6 = 0xFFFFFFFFFFFF ∨
        beNum bs 0 6 = 0x011B19000000 ∨ beNum bs 0 6 = 0x0180C200000E
      let n := f s F.HST_MGT_RX_N.N
      let wp := f s F.HST_MGT_RX_WP.COUNT
      let full := n = 0 ∨ (wp + 2 ^ 40 - f s F.HST_MGT_RX_RP.COUNT) % 2 ^ 40 = n
      let a := 64 * f s F.HST_MGT_RX_BASE.ADDR + 2048 * (wp % n)
      (f s F.HST_MGT_CFG.EN = 0 → go = .next s) ∧
      (f s F.HST_MGT_CFG.EN = 1 → (bad = true ∨ 1522 < frame.length) → counts F.HST_MGT_CNT1.RX_BAD 1023) ∧
      (f s F.HST_MGT_CFG.EN = 1 → bad = false → frame.length ≤ 1522 → ¬mine → go = .next s) ∧
      (f s F.HST_MGT_CFG.EN = 1 → bad = false → frame.length ≤ 1522 → mine → full → counts F.HST_MGT_CNT1.RX_DROP 1023) ∧
      (f s F.HST_MGT_CFG.EN = 1 → bad = false → frame.length ≤ 1522 → mine → ¬full → f s F.HST_MGT_NOTIFY.ADDR = 0 →
        inMain (f s F.HST_MGT_RX_BASE.ADDR) n → (∀ b, b < 32 → memAccess s (a + 64 * b) ≠ 2) → ∃ t, go = .next t ∧
        f t F.HST_MGT_RX_WP.COUNT = (wp + 1) % 2 ^ 40 ∧ f t F.HST_MGT_CNT0.RX_FRAMES = Nat.min (f s F.HST_MGT_CNT0.RX_FRAMES + 1) (2 ^ 20 - 1) ∧
        (bitsOf (t.readBlk a).toNat 39 29 = frame.length) ∧ t.readBlk (a + 5) = BitVec.ofNat 40 (fracOf stamp) ∧
        t.readBlk (a + 10) = BitVec.ofNat 40 (secOf stamp) ∧
        (∀ i, i < frame.length → readByte t.mem (a + 64 + 64 * (i / 60) + i % 60) = frame.getD i 0) ∧
        (∀ b, b < a ∨ a + 2048 ≤ b → readByte t.mem b = readByte s.mem b) ∧
        (f s F.HST_MGT_CFG.HIRQ = 1 → Signalled (s.masked (18 + p)) s.host t.host (18 + p)) ∧
        (f s F.HST_MGT_CFG.HIRQ = 0 → t.host = s.host) ∧
        t = { s with regs := t.regs, mem := t.mem, host := t.host, free := t.free })) ∧
    (∀ stamp : Nat,
      let go := exec (.mgtFrameTransmit p stamp) s
      let n := f s F.HST_MGT_TX_N.N
      let rp := f s F.HST_MGT_TX_RP.COUNT
      let a := 64 * f s F.HST_MGT_TX_BASE.ADDR + 2048 * (rp % n)
      let ready := f s F.HST_MGT_CFG.EN = 1 ∧ n ≠ 0 ∧ f s F.HST_MGT_TX_WP.COUNT ≠ rp ∧ memAccess s a = 0 ∧ memAccess s (a + 1984) = 0
      let clean := ∀ b, b < 32 → (rsDecode (bytesAt s.mem ((a + 64 * b) / 64 * 64) 64)).2 = 0
      let len := bitsOf (bytesWord (bytesAt s.mem a 5)).toNat 39 29
      let raw := (List.range len).map (fun i => (readByte s.mem (a + 64 + 64 * (i / 60) + i % 60)).toNat)
      let sent := raw ++ List.replicate (60 - len) 0
      ((f s F.HST_MGT_CFG.EN = 0 ∨ n = 0 ∨ f s F.HST_MGT_TX_WP.COUNT = rp) → go = .next s) ∧
      (ready → clean → (∀ r : Region, s.fld F.MEM_CTRL.DIAG r = 0) → ∃ t, go = .next t ∧ f t F.HST_MGT_TX_RP.COUNT = (rp + 1) % 2 ^ 40 ∧
        t.mem = s.mem ∧ (len = 0 → t = { s with regs := t.regs } ∧ f t F.HST_MGT_CNT0.TX_FRAMES = f s F.HST_MGT_CNT0.TX_FRAMES) ∧
        (1522 < len → t = { s with regs := t.regs } ∧
          f t F.HST_MGT_CNT1.TX_BAD = Nat.min (f s F.HST_MGT_CNT1.TX_BAD + 1) 1023) ∧
        (0 < len → len ≤ 1522 → ptpAt raw = none →
          f t F.HST_MGT_CNT0.TX_FRAMES = Nat.min (f s F.HST_MGT_CNT0.TX_FRAMES + 1) (2 ^ 20 - 1) ∧
          t.host.frames = s.host.frames ++ [(p.val, sent ++ fcs sent)] ∧
          t = { s with regs := t.regs, host := { s.host with frames := t.host.frames } })))

/-- R441: measured values are answered in LINEAR11, low byte first, with a mantissa within one step of the value and at
the most negative exponent at which it fits in 11 signed bits. Points the rules leave open are the model's own
readings: log entry 52. -/
def Obligations.MeasuredValuesAreLinearElevens : Prop :=
  ∀ (s : State) (milliwatts : Nat), milliwatts ≤ 1000 * 1000 * 32768 →
    let temp := fun (f : Fld) => signed 12 (s.fld f)
    let lin := fun (o : Host.Outcome State Fault Refusal) (n : Int) (d : Nat) => ∃ t, o = .next t ∧ ∃ (k : Nat) (m : Int),
      let w := unsigned 5 ((k : Int) - 16) * 2 ^ 11 + unsigned 11 m
      t.module.reply = [w % 256, w / 256] ∧ k < 32 ∧ -1024 ≤ m ∧ m ≤ 1023 ∧
      m * (d * 2 ^ k : Nat) < n * 2 ^ 16 + (d * 2 ^ k : Nat) ∧ n * 2 ^ 16 < (m + 1) * (d * 2 ^ k : Nat) ∧
      (k = 0 ∨ 1023 * (d * 2 ^ (k - 1) : Nat) < n * 2 ^ 16 ∨ n * 2 ^ 16 < -1024 * (d * 2 ^ (k - 1) : Nat)) ∧
      t = { s with module := { s.module with reply := t.module.reply }, free := t.free }
    lin (exec .readVin s) (s.fld F.PWR_VIN.VIN) 1000 ∧ lin (exec .readIin s) (s.fld F.PWR_VIN.IIN) 1000 ∧
    lin (exec (.readPin milliwatts) s) milliwatts 1000 ∧ lin (exec .readTemperature1 s) (temp F.PWR_TEMP.CASE_T) 16 ∧
    lin (exec .readTemperature2 s) (temp F.PWR_TEMP.DIE_MAX_T) 16 ∧ lin (exec .readTemperature3 s) (temp F.PWR_TEMP.OSC_T) 16

/-- R441, R442, R458: the sideband answers its constants, its status bits, the mode, the identification and the ring's
occupancy; CLEAR_FAULTS clears what is latched and releases ALERT_N, as the alert response does; a bad command sets
its bit of STATUS_CML; a temperature check stores the measured values, judges each threshold with 3 °C of hysteresis
and latches its bits; a trip starts a P reset with cause SUPPLY that holds until the die has cooled. Points the rules
leave open are the model's own readings: log entries 52 and 53. -/
def Obligations.SidebandAnswersAndJudges : Prop :=
  ∀ s : State,
    let m := s.module
    let bit := fun (x : Bool) (k : Nat) => if x then 2 ^ k else 0
    let says_ := fun (o : Host.Outcome State Fault Refusal) (bs : List Nat) => o = .next { s with module := { m with reply := bs } }
    let occ := (s.fld F.ERR_DEV_HEAD.COUNT + 512 - s.fld F.ERR_DEV_TAIL.COUNT) % 512
    let status := bit (m.input != 0) 13 + bit (m.mfr || decide (0 < occ)) 12 + bit (!m.badRails.isEmpty) 11 + bit (bitOf m.input 4) 3 +
      bit (m.temp != 0) 2 + bit (m.cml != 0) 1
    let mode := match s.mode with
      | .blank => 0 | .loading => 1 | .run => 2 | .frozen => 3 | .idle => 4 | .doze => 5 | .sleep => 6 | .test => 7
    says_ (exec .capability s) [0xB0] ∧ says_ (exec .pmbusRevision s) [0x33] ∧
    says_ (exec .mfrId s) [8, 0x4E, 0x41, 0x4C, 0x41, 0x55, 0x53, 0x4B, 0x4F] ∧
    says_ (exec .mfrModel s) [8, 0x57, 0x4B, 0x39, 0x36, 0x34, 0x30, 0x2D, if Config.productX then 0x58 else 0x45] ∧
    says_ (exec .mfrRevision s) [2, 0x42, 0x31] ∧
    says_ (exec .statusWord s) [status % 256, status / 256] ∧ says_ (exec .statusInput s) [m.input] ∧
    says_ (exec .statusTemperature s) [m.temp] ∧ says_ (exec .statusCml s) [m.cml] ∧
    says_ (exec .mfrSpecific00 s) [mode, 0] ∧ says_ (exec .mfrSpecific02 s) [occ % 256, occ / 256] ∧
    says_ (exec .mfrSpecific01 s) (5 :: wordBytes (liveWord s ⟨.HST_ID, 0, 0⟩)) ∧
    exec .clearFaults s = .next { s with module := { m with temp := 0, input := 0, cml := 0, mfr := false, alert := false } } ∧
    (∀ kind : Fin 3, exec (.smbusInvalidCommand kind) s = .next { s with module := { m with
      reply := [], cml := m.cml ||| 2 ^ (7 - kind.val), alert := m.alert || decide (m.cml ||| 2 ^ (7 - kind.val) ≠ m.cml) } }) ∧
    (m.alert = false → exec .alertResponse s = .next s) ∧
    (m.alert = true → exec .alertResponse s =
      .next { s with module := { m with alert := false, reply := [2 * s.fld F.HST_CTRL.SMB_ADDR] } }) ∧
    (∀ (caseT die osc : BitVec 12) (vin iin : BitVec 16) (ov uv : Bool),
      let c := caseT.toInt
      let d := die.toInt
      let past := fun (held : Bool) (t limit : Int) => (16 * limit ≤ t) ∨ (held = true ∧ 16 * (limit - 3) ≤ t)
      ∃ t, exec (.temperatureCheck caseT die osc vin iin ov uv) s = .next t ∧
        t.fld F.PWR_TEMP.CASE_T = caseT.toNat ∧ t.fld F.PWR_TEMP.DIE_MAX_T = die.toNat ∧ t.fld F.PWR_TEMP.OSC_T = osc.toNat ∧
        t.fld F.PWR_VIN.VIN = vin.toNat ∧ t.fld F.PWR_VIN.IIN = iin.toNat ∧
        KeepsRegs s t [regAddr .PWR_TEMP 0 0, regAddr .PWR_VIN 0 0] ∧
        (t.module.warn = true ↔ past m.warn c 85 ∨ past m.warn d 110) ∧
        (t.module.fault = true ↔ past m.fault c 90 ∨ past m.fault d 115) ∧
        (t.module.under = true ↔ c < 16 * (-40) ∨ (m.under = true ∧ c < 16 * (-37))) ∧
        t.module.temp = m.temp ||| (bit t.module.fault 7 + bit t.module.warn 6 + bit t.module.under 4) ∧
        t.module.input = m.input ||| (bit ov 7 + bit uv 4) ∧
        t.module.tripped = (m.tripped && decide (1600 < d)) ∧
        t.module.alert = (m.alert || decide (t.module.temp ≠ m.temp) || decide (t.module.input ≠ m.input)) ∧
        t = { s with regs := t.regs, module := t.module }) ∧
    (∃ t, exec .thermalTrip s = .next t ∧ t.mode = .blank ∧ t.module.tripped = true ∧ t.fld F.RST_CAUSE.CLASS = 1 ∧
      t.fld F.RST_CAUSE.SRC = 6 ∧ t.fld F.RST_STATUS.P_DONE = 0 ∧ t.mem = [] ∧
      ∀ boot pull untrained, exec (.pDone boot pull untrained) t = .next t)

/-- R3, R6, R7, R28, R432: a write of a slot ignores the upper 24 bits and gives each field the effect of its access type,
a reserved encoding none; no other slot changes; a write of a command field is that command, and one of BAR4 that of
its table; an address of no register ignores the write. Points the rules leave open are the model's own readings: log
entry 55. -/
def Obligations.RegisterWritesFollowTheAccessTypes : Prop :=
  ∀ (s : State) (addr : Nat) (value : BitVec 64),
    let go := exec (.registerWrite addr value) s
    let plain := [Reg.TIM_PPS_CFG, .TIM_NOW_FRAC, .PWR_CTRL, .PWR_WAKE_EN, .PWR_WAKE_PEND, .PWR_TEMP, .ERR_FRZ_CFG,
      .ERR_REG_STAT, .ERR_POL, .ERR_INJ_TGT, .HST_BAR2_BASE, .HST_MGT_MAC_LO, .SUP_WDOG, .SE_IRQ_EN, .RTE_DOM, .NOC_RSTAT, .LN_STATUS]
    (addr < 2 ^ 40 → decodeReg addr = none → go = .next s) ∧
    (∀ q, addr < 2 ^ 40 → decodeReg addr = some q → q.reg ∈ plain → ∃ t, go = .next t ∧
      (∀ f ∈ q.reg.fields,
        let v := bitsOf value.toNat f.hi f.lo
        let old := s.fld f q.unit q.idx
        let new := t.fld f q.unit q.idx
        match f.acc with
        | .RW => new = if f.isReserved v then old else v
        | .RWL => new = if f.isReserved v ∨ s.fld F.SUP_WDOG.LOCK q.unit = 1 then old else v
        | .RWQ => new = old ∧ (f.isReserved v = false →
            ∃ e ∈ t.rwq, e.addr = regAddr q.reg q.unit q.idx ∧ e.hi = f.hi ∧ e.lo = f.lo ∧ e.value = v)
        | .W1C => ∀ b, bitOf new b = (bitOf old b && !bitOf v b)
        | .W1S => ∀ b, bitOf new b = (bitOf old b || bitOf v b)
        | .RO | .WO | .RC => new = old) ∧
      KeepsRegs s t [regAddr q.reg q.unit q.idx] ∧ t = { s with regs := t.regs, rwq := t.rwq }) ∧
    (∀ r : Region, addr = regAddr .PWR_REQ r 0 →
      (bitsOf value.toNat 39 37 = 1 → go = exec (.runRequest (some r)) s) ∧
      (bitsOf value.toNat 39 37 = 4 → go = exec (.sleepRequest (some r)) s) ∧
      (4 < bitsOf value.toNat 39 37 → go = .next s)) ∧
    (addr = regAddr .ERR_FRZ_CMD 0 0 →
      (bitsOf value.toNat 39 37 = 2 → go = exec .freezeNow s) ∧ (bitsOf value.toNat 39 37 = 4 → go = exec .resume s)) ∧
    (addr = regAddr .RST_CMD 0 0 → bitsOf value.toNat 30 15 ≠ 0x9640 → ∃ t, go = .next t ∧
      t.fld F.RST_STATUS.KEY_ERR = 1 ∧ t = { s with regs := t.regs }) ∧
    (∀ c : Fin 8, s.host.inReset = false → addr = 2 ^ 40 + 0x10000 + 0x40 * c.val →
      go = exec (.dmaDoorbell c (BitVec.ofNat 16 value.toNat)) s) ∧
    (∀ (c : Fin 8) (i : Fin 1024), s.host.inReset = false → addr = 2 ^ 40 + 0x2000 * c.val + 8 * i.val →
      ∃ t, go = .next t ∧ mget 0 t.host.ring (1024 * c.val + i.val) = value.toNat ∧
        (∀ k, k ≠ 1024 * c.val + i.val → mget 0 t.host.ring k = mget 0 s.host.ring k) ∧
        t = { s with host := { s.host with ring := t.host.ring } })
end

