-- ==== Sys2Proof/Laws/Maps.lean ====
section
/-! SUPPORT. The sparse maps: a read after a write, what a write leaves alone, and the canonical form. -/

namespace Sys2Proof.Machine

variable {α : Type}

theorem mget_minsert_same (d : α) (m : List (Nat × α)) (k : Nat) (v : α) : mget d (minsert m k v) k = v := by
  induction m with
  | nil => simp [minsert, mget]
  | cons e m ih =>
    obtain ⟨k', v'⟩ := e
    unfold minsert
    split
    · simp [mget]
    · split
      · simp [mget]
      · simp only [mget, if_neg ‹¬k = k'›, ih]

theorem mget_minsert_other (d : α) (m : List (Nat × α)) (k j : Nat) (v : α) (h : j ≠ k) :
    mget d (minsert m k v) j = mget d m j := by
  induction m with
  | nil => simp [minsert, mget, h]
  | cons e m ih =>
    obtain ⟨k', v'⟩ := e
    unfold minsert
    split
    · next hk => subst hk; simp [mget, h]
    · split
      · simp [mget, h]
      · simp only [mget, ih]

theorem mget_filter_other (d : α) (m : List (Nat × α)) (p : Nat × α → Bool) (j : Nat)
    (h : ∀ v, p (j, v) = true) : mget d (m.filter p) j = mget d m j := by
  induction m with
  | nil => rfl
  | cons e m ih =>
    obtain ⟨k', v'⟩ := e
    by_cases hp : p (k', v') = true
    · simp only [List.filter_cons_of_pos hp, mget, ih]
    · rw [List.filter_cons_of_neg hp, ih, mget]
      split
      · next hj => exact absurd (hj ▸ h v') hp
      · rfl

theorem mget_filter_none (d : α) (m : List (Nat × α)) (p : Nat × α → Bool) (j : Nat)
    (h : ∀ v, p (j, v) = false) : mget d (m.filter p) j = d := by
  induction m with
  | nil => rfl
  | cons e m ih =>
    obtain ⟨k', v'⟩ := e
    by_cases hp : p (k', v') = true
    · rw [List.filter_cons_of_pos hp, mget, ih]
      split
      · next hj => subst hj; simp [h v'] at hp
      · rfl
    · rw [List.filter_cons_of_neg hp, ih]

@[simp] theorem mget_nil (d : α) (k : Nat) : mget d [] k = d := rfl

theorem mget_merase_same (d : α) (m : List (Nat × α)) (k : Nat) : mget d (merase m k) k = d :=
  mget_filter_none d m _ k (by simp)

theorem mget_merase_other (d : α) (m : List (Nat × α)) (k j : Nat) (h : j ≠ k) : mget d (merase m k) j = mget d m j :=
  mget_filter_other d m _ j (by simp [h])

/-- A read after a write of the same key gives the value written. -/
@[simp] theorem mget_mset_same [DecidableEq α] (d : α) (m : List (Nat × α)) (k : Nat) (v : α) : mget d (mset d m k v) k = v := by
  unfold mset
  split
  · next h => rw [h, mget_merase_same]
  · exact mget_minsert_same ..

/-- A write leaves every other key alone. -/
theorem mget_mset_other [DecidableEq α] (d d' : α) (m : List (Nat × α)) (k j : Nat) (v : α) (h : j ≠ k) :
    mget d (mset d' m k v) j = mget d m j := by
  unfold mset
  split
  · exact mget_merase_other _ _ _ _ h
  · exact mget_minsert_other _ _ _ _ _ h

/-- A read after a write of any key. -/
theorem mget_mset [DecidableEq α] (d : α) (m : List (Nat × α)) (k j : Nat) (v : α) :
    mget d (mset d m k v) j = if j = k then v else mget d m j := by
  split
  · next h => subst h; simp
  · next h => exact mget_mset_other _ _ _ _ _ _ h

/-! ### The canonical form -/

/-- The canonical form in terms of the entries: keys pairwise rising and no entry at the default. -/
theorem mwf_iff [DecidableEq α] (d : α) (m : List (Nat × α)) :
    mwf d m = true ↔ m.Pairwise (fun a b => a.1 < b.1) ∧ ∀ e ∈ m, e.2 ≠ d := by
  induction m with
  | nil => simp [mwf]
  | cons e m ih =>
    obtain ⟨k, v⟩ := e
    cases m with
    | nil => simp [mwf]
    | cons f m =>
      obtain ⟨k', v'⟩ := f
      simp only [mwf, Bool.and_eq_true, decide_eq_true_eq, ih, List.pairwise_cons, List.mem_cons, forall_eq_or_imp]
      constructor
      · rintro ⟨⟨hv, hk⟩, ⟨h1, h2⟩, h3, h4⟩
        exact ⟨⟨⟨hk, fun a ha => Nat.lt_trans hk (h1 a ha)⟩, h1, h2⟩, hv, h3, h4⟩
      · rintro ⟨⟨⟨hk, _⟩, h1, h2⟩, hv, h3, h4⟩
        exact ⟨⟨hv, hk⟩, ⟨h1, h2⟩, h3, h4⟩

theorem mem_minsert {m : List (Nat × α)} {k : Nat} {v : α} {e : Nat × α} (h : e ∈ minsert m k v) : e = (k, v) ∨ e ∈ m := by
  induction m with
  | nil => simpa [minsert] using h
  | cons f m ih =>
    obtain ⟨k', v'⟩ := f
    unfold minsert at h
    split at h
    · rcases List.mem_cons.1 h with h | h
      · exact .inl h
      · exact .inr (List.mem_cons_of_mem _ h)
    · split at h
      · rcases List.mem_cons.1 h with h | h
        · exact .inl h
        · exact .inr h
      · rcases List.mem_cons.1 h with h | h
        · exact .inr (h ▸ List.mem_cons_self ..)
        · rcases ih h with h | h
          · exact .inl h
          · exact .inr (List.mem_cons_of_mem _ h)

theorem pairwise_minsert {m : List (Nat × α)} (k : Nat) (v : α) (h : m.Pairwise (fun a b => a.1 < b.1)) :
    (minsert m k v).Pairwise (fun a b => a.1 < b.1) := by
  induction m with
  | nil => simp [minsert]
  | cons f m ih =>
    obtain ⟨k', v'⟩ := f
    obtain ⟨h1, h2⟩ := List.pairwise_cons.1 h
    unfold minsert
    split
    · next hk => subst hk; exact List.pairwise_cons.2 ⟨h1, h2⟩
    · split
      · next hk =>
        refine List.pairwise_cons.2 ⟨fun a ha => ?_, h⟩
        rcases List.mem_cons.1 ha with ha | ha
        · rw [ha]; exact hk
        · exact Nat.lt_trans hk (h1 a ha)
      · refine List.pairwise_cons.2 ⟨fun a ha => ?_, ih h2⟩
        rcases mem_minsert ha with ha | ha
        · rw [ha]; show k' < k; omega
        · exact h1 a ha

/-- A write keeps the canonical form. -/
theorem mwf_mset [DecidableEq α] (d : α) (m : List (Nat × α)) (k : Nat) (v : α) (h : mwf d m = true) :
    mwf d (mset d m k v) = true := by
  rw [mwf_iff] at h ⊢
  unfold mset
  split
  · exact ⟨h.1.filter _, fun e he => h.2 e (List.mem_filter.1 he).1⟩
  · next hv =>
    refine ⟨pairwise_minsert k v h.1, fun e he => ?_⟩
    rcases mem_minsert he with he | he
    · rw [he]; exact hv
    · exact h.2 e he

/-- Clearing a range keeps the canonical form. -/
theorem mwf_mclear [DecidableEq α] (d : α) (m : List (Nat × α)) (k n : Nat) (h : mwf d m = true) :
    mwf d (mclear m k n) = true := by
  rw [mwf_iff] at h ⊢
  exact ⟨h.1.filter _, fun e he => h.2 e (List.mem_filter.1 he).1⟩

/-! ### Byte memory -/

theorem readByte_writeByte (m : List Host.Cell) (a b : Nat) (v : Sys2Proof.Byte) :
    readByte (writeByte m a v) b = if b = a then v else readByte m b := mget_mset ..

theorem writeByte_wf (m : List Host.Cell) (a : Nat) (v : Sys2Proof.Byte) (h : Memory.wf m = true) :
    Memory.wf (writeByte m a v) = true := mwf_mset _ _ _ _ h

/-- A wide write changes the bytes it covers and no other. -/
theorem readByte_writeBytes (n : Nat) : ∀ (m : List Host.Cell) (a v b : Nat),
    readByte (writeBytes m a n v) b
      = if a ≤ b ∧ b < a + n then BitVec.ofNat 8 (v / 256 ^ (b - a)) else readByte m b := by
  induction n with
  | zero => intro m a v b; rw [writeBytes, if_neg (by omega)]
  | succ n ih =>
    intro m a v b
    rw [writeBytes, ih, readByte_writeByte]
    by_cases h1 : a + 1 ≤ b ∧ b < a + 1 + n
    · rw [if_pos h1, if_pos (by omega), Nat.div_div_eq_div_mul, show b - a = b - (a + 1) + 1 by omega, Nat.pow_succ,
        Nat.mul_comm]
    · rw [if_neg h1]
      by_cases h2 : b = a
      · subst h2; simp
      · rw [if_neg h2, if_neg (by omega)]

theorem writeBytes_wf (n : Nat) : ∀ (m : List Host.Cell) (a v : Nat), Memory.wf m = true →
    Memory.wf (writeBytes m a n v) = true := by
  induction n with
  | zero => intro m a v h; exact h
  | succ n ih => intro m a v h; exact ih _ _ _ (writeByte_wf _ _ _ h)

theorem readBytes_lt (m : List Host.Cell) (n : Nat) : ∀ a, readBytes m a n < 256 ^ n := by
  induction n with
  | zero => intro a; simp [readBytes]
  | succ n ih =>
    intro a
    have h1 := ih (a + 1)
    have h2 := (readByte m a).isLt
    simp only [readBytes, Nat.pow_succ]
    omega

/-- Reading back what a wide write wrote. -/
theorem readBytes_writeBytes (n : Nat) : ∀ (m : List Host.Cell) (a v : Nat),
    readBytes (writeBytes m a n v) a n = v % 256 ^ n := by
  have key : ∀ (k : Nat) (m : List Host.Cell) (a v b j : Nat), a ≤ b → j = b - a → b + k ≤ a + n →
      readBytes (writeBytes m a n v) b k = v / 256 ^ j % 256 ^ k := by
    intro k
    induction k with
    | zero => intro m a v b j _ _ _; simp [readBytes, Nat.mod_one]
    | succ k ih =>
      intro m a v b j hab hj hb
      rw [readBytes, ih m a v (b + 1) (j + 1) (by omega) (by omega) (by omega), readByte_writeBytes,
        if_pos (by omega), ← hj]
      simp only [BitVec.toNat_ofNat]
      rw [show v / 256 ^ (j + 1) = v / 256 ^ j / 256 by rw [Nat.pow_succ, Nat.div_div_eq_div_mul],
        show (256 : Nat) ^ (k + 1) = 256 * 256 ^ k by rw [Nat.pow_succ, Nat.mul_comm], Nat.mod_mul]
  intro m a v
  simpa using key n m a v a 0 (Nat.le_refl _) (by omega) (Nat.le_refl _)

end Sys2Proof.Machine
end

