-- ==== Sys2Proof/Laws/State.lean ====
section
/-! SUPPORT. What each updater of the state leaves alone: one lemma for each field. The
parentheses keep simp from using them as definitional unfoldings, which the kernel would have to repeat on the
operands of each use. -/

namespace Sys2Proof.Machine

open Sys2Proof

/-! ### State.setReg -/

@[simp] theorem State.setReg_rwq (s : State) (r : Reg) (u i : Nat) (w : Word) : (s.setReg r u i w).rwq = s.rwq := (rfl)
@[simp] theorem State.setReg_mem (s : State) (r : Reg) (u i : Nat) (w : Word) : (s.setReg r u i w).mem = s.mem := (rfl)
@[simp] theorem State.setReg_mode (s : State) (r : Reg) (u i : Nat) (w : Word) : (s.setReg r u i w).mode = s.mode := (rfl)
@[simp] theorem State.setReg_time (s : State) (r : Reg) (u i : Nat) (w : Word) : (s.setReg r u i w).time = s.time := (rfl)
@[simp] theorem State.setReg_guns (s : State) (r : Reg) (u i : Nat) (w : Word) : (s.setReg r u i w).guns = s.guns := (rfl)
@[simp] theorem State.setReg_fab (s : State) (r : Reg) (u i : Nat) (w : Word) : (s.setReg r u i w).fab = s.fab := (rfl)
@[simp] theorem State.setReg_memErr (s : State) (r : Reg) (u i : Nat) (w : Word) : (s.setReg r u i w).memErr = s.memErr := (rfl)
@[simp] theorem State.setReg_queues (s : State) (r : Reg) (u i : Nat) (w : Word) : (s.setReg r u i w).queues = s.queues := (rfl)
@[simp] theorem State.setReg_tiles (s : State) (r : Reg) (u i : Nat) (w : Word) : (s.setReg r u i w).tiles = s.tiles := (rfl)
@[simp] theorem State.setReg_resps (s : State) (r : Reg) (u i : Nat) (w : Word) : (s.setReg r u i w).resps = s.resps := (rfl)
@[simp] theorem State.setReg_mems (s : State) (r : Reg) (u i : Nat) (w : Word) : (s.setReg r u i w).mems = s.mems := (rfl)
@[simp] theorem State.setReg_procs (s : State) (r : Reg) (u i : Nat) (w : Word) : (s.setReg r u i w).procs = s.procs := (rfl)
@[simp] theorem State.setReg_imemPar (s : State) (r : Reg) (u i : Nat) (w : Word) : (s.setReg r u i w).imemPar = s.imemPar := (rfl)
@[simp] theorem State.setReg_trc (s : State) (r : Reg) (u i : Nat) (w : Word) : (s.setReg r u i w).trc = s.trc := (rfl)
@[simp] theorem State.setReg_lanes (s : State) (r : Reg) (u i : Nat) (w : Word) : (s.setReg r u i w).lanes = s.lanes := (rfl)
@[simp] theorem State.setReg_trigs (s : State) (r : Reg) (u i : Nat) (w : Word) : (s.setReg r u i w).trigs = s.trigs := (rfl)
@[simp] theorem State.setReg_heats (s : State) (r : Reg) (u i : Nat) (w : Word) : (s.setReg r u i w).heats = s.heats := (rfl)
@[simp] theorem State.setReg_ret (s : State) (r : Reg) (u i : Nat) (w : Word) : (s.setReg r u i w).ret = s.ret := (rfl)
@[simp] theorem State.setReg_load (s : State) (r : Reg) (u i : Nat) (w : Word) : (s.setReg r u i w).load = s.load := (rfl)
@[simp] theorem State.setReg_store (s : State) (r : Reg) (u i : Nat) (w : Word) : (s.setReg r u i w).store = s.store := (rfl)
@[simp] theorem State.setReg_fuse (s : State) (r : Reg) (u i : Nat) (w : Word) : (s.setReg r u i w).fuse = s.fuse := (rfl)
@[simp] theorem State.setReg_pwr (s : State) (r : Reg) (u i : Nat) (w : Word) : (s.setReg r u i w).pwr = s.pwr := (rfl)
@[simp] theorem State.setReg_rst (s : State) (r : Reg) (u i : Nat) (w : Word) : (s.setReg r u i w).rst = s.rst := (rfl)
@[simp] theorem State.setReg_arcs (s : State) (r : Reg) (u i : Nat) (w : Word) : (s.setReg r u i w).arcs = s.arcs := (rfl)
@[simp] theorem State.setReg_net (s : State) (r : Reg) (u i : Nat) (w : Word) : (s.setReg r u i w).net = s.net := (rfl)
@[simp] theorem State.setReg_railInj (s : State) (r : Reg) (u i : Nat) (w : Word) : (s.setReg r u i w).railInj = s.railInj := (rfl)
@[simp] theorem State.setReg_refAbsent (s : State) (r : Reg) (u i : Nat) (w : Word) : (s.setReg r u i w).refAbsent = s.refAbsent := (rfl)
@[simp] theorem State.setReg_zones (s : State) (r : Reg) (u i : Nat) (w : Word) : (s.setReg r u i w).zones = s.zones := (rfl)
@[simp] theorem State.setReg_frz (s : State) (r : Reg) (u i : Nat) (w : Word) : (s.setReg r u i w).frz = s.frz := (rfl)
@[simp] theorem State.setReg_host (s : State) (r : Reg) (u i : Nat) (w : Word) : (s.setReg r u i w).host = s.host := (rfl)
@[simp] theorem State.setReg_module (s : State) (r : Reg) (u i : Nat) (w : Word) : (s.setReg r u i w).module = s.module := (rfl)
@[simp] theorem State.setReg_jtag (s : State) (r : Reg) (u i : Nat) (w : Word) : (s.setReg r u i w).jtag = s.jtag := (rfl)
@[simp] theorem State.setReg_fifos (s : State) (r : Reg) (u i : Nat) (w : Word) : (s.setReg r u i w).fifos = s.fifos := (rfl)
@[simp] theorem State.setReg_lossy (s : State) (r : Reg) (u i : Nat) (w : Word) : (s.setReg r u i w).lossy = s.lossy := (rfl)
@[simp] theorem State.setReg_detected (s : State) (r : Reg) (u i : Nat) (w : Word) : (s.setReg r u i w).detected = s.detected := (rfl)
@[simp] theorem State.setReg_lastRead (s : State) (r : Reg) (u i : Nat) (w : Word) : (s.setReg r u i w).lastRead = s.lastRead := (rfl)
@[simp] theorem State.setReg_free (s : State) (r : Reg) (u i : Nat) (w : Word) : (s.setReg r u i w).free = s.free := (rfl)
@[simp] theorem State.setReg_pending (s : State) (r : Reg) (u i : Nat) (w : Word) : (s.setReg r u i w).pending = s.pending := (rfl)

/-! ### State.setFld -/

@[simp] theorem State.setFld_rwq (s : State) (f : Fld) (u i v : Nat) : (s.setFld f u i v).rwq = s.rwq := (rfl)
@[simp] theorem State.setFld_mem (s : State) (f : Fld) (u i v : Nat) : (s.setFld f u i v).mem = s.mem := (rfl)
@[simp] theorem State.setFld_mode (s : State) (f : Fld) (u i v : Nat) : (s.setFld f u i v).mode = s.mode := (rfl)
@[simp] theorem State.setFld_time (s : State) (f : Fld) (u i v : Nat) : (s.setFld f u i v).time = s.time := (rfl)
@[simp] theorem State.setFld_guns (s : State) (f : Fld) (u i v : Nat) : (s.setFld f u i v).guns = s.guns := (rfl)
@[simp] theorem State.setFld_fab (s : State) (f : Fld) (u i v : Nat) : (s.setFld f u i v).fab = s.fab := (rfl)
@[simp] theorem State.setFld_memErr (s : State) (f : Fld) (u i v : Nat) : (s.setFld f u i v).memErr = s.memErr := (rfl)
@[simp] theorem State.setFld_queues (s : State) (f : Fld) (u i v : Nat) : (s.setFld f u i v).queues = s.queues := (rfl)
@[simp] theorem State.setFld_tiles (s : State) (f : Fld) (u i v : Nat) : (s.setFld f u i v).tiles = s.tiles := (rfl)
@[simp] theorem State.setFld_resps (s : State) (f : Fld) (u i v : Nat) : (s.setFld f u i v).resps = s.resps := (rfl)
@[simp] theorem State.setFld_mems (s : State) (f : Fld) (u i v : Nat) : (s.setFld f u i v).mems = s.mems := (rfl)
@[simp] theorem State.setFld_procs (s : State) (f : Fld) (u i v : Nat) : (s.setFld f u i v).procs = s.procs := (rfl)
@[simp] theorem State.setFld_imemPar (s : State) (f : Fld) (u i v : Nat) : (s.setFld f u i v).imemPar = s.imemPar := (rfl)
@[simp] theorem State.setFld_trc (s : State) (f : Fld) (u i v : Nat) : (s.setFld f u i v).trc = s.trc := (rfl)
@[simp] theorem State.setFld_lanes (s : State) (f : Fld) (u i v : Nat) : (s.setFld f u i v).lanes = s.lanes := (rfl)
@[simp] theorem State.setFld_trigs (s : State) (f : Fld) (u i v : Nat) : (s.setFld f u i v).trigs = s.trigs := (rfl)
@[simp] theorem State.setFld_heats (s : State) (f : Fld) (u i v : Nat) : (s.setFld f u i v).heats = s.heats := (rfl)
@[simp] theorem State.setFld_ret (s : State) (f : Fld) (u i v : Nat) : (s.setFld f u i v).ret = s.ret := (rfl)
@[simp] theorem State.setFld_load (s : State) (f : Fld) (u i v : Nat) : (s.setFld f u i v).load = s.load := (rfl)
@[simp] theorem State.setFld_store (s : State) (f : Fld) (u i v : Nat) : (s.setFld f u i v).store = s.store := (rfl)
@[simp] theorem State.setFld_fuse (s : State) (f : Fld) (u i v : Nat) : (s.setFld f u i v).fuse = s.fuse := (rfl)
@[simp] theorem State.setFld_pwr (s : State) (f : Fld) (u i v : Nat) : (s.setFld f u i v).pwr = s.pwr := (rfl)
@[simp] theorem State.setFld_rst (s : State) (f : Fld) (u i v : Nat) : (s.setFld f u i v).rst = s.rst := (rfl)
@[simp] theorem State.setFld_arcs (s : State) (f : Fld) (u i v : Nat) : (s.setFld f u i v).arcs = s.arcs := (rfl)
@[simp] theorem State.setFld_net (s : State) (f : Fld) (u i v : Nat) : (s.setFld f u i v).net = s.net := (rfl)
@[simp] theorem State.setFld_railInj (s : State) (f : Fld) (u i v : Nat) : (s.setFld f u i v).railInj = s.railInj := (rfl)
@[simp] theorem State.setFld_refAbsent (s : State) (f : Fld) (u i v : Nat) : (s.setFld f u i v).refAbsent = s.refAbsent := (rfl)
@[simp] theorem State.setFld_zones (s : State) (f : Fld) (u i v : Nat) : (s.setFld f u i v).zones = s.zones := (rfl)
@[simp] theorem State.setFld_frz (s : State) (f : Fld) (u i v : Nat) : (s.setFld f u i v).frz = s.frz := (rfl)
@[simp] theorem State.setFld_host (s : State) (f : Fld) (u i v : Nat) : (s.setFld f u i v).host = s.host := (rfl)
@[simp] theorem State.setFld_module (s : State) (f : Fld) (u i v : Nat) : (s.setFld f u i v).module = s.module := (rfl)
@[simp] theorem State.setFld_jtag (s : State) (f : Fld) (u i v : Nat) : (s.setFld f u i v).jtag = s.jtag := (rfl)
@[simp] theorem State.setFld_fifos (s : State) (f : Fld) (u i v : Nat) : (s.setFld f u i v).fifos = s.fifos := (rfl)
@[simp] theorem State.setFld_lossy (s : State) (f : Fld) (u i v : Nat) : (s.setFld f u i v).lossy = s.lossy := (rfl)
@[simp] theorem State.setFld_detected (s : State) (f : Fld) (u i v : Nat) : (s.setFld f u i v).detected = s.detected := (rfl)
@[simp] theorem State.setFld_lastRead (s : State) (f : Fld) (u i v : Nat) : (s.setFld f u i v).lastRead = s.lastRead := (rfl)
@[simp] theorem State.setFld_free (s : State) (f : Fld) (u i v : Nat) : (s.setFld f u i v).free = s.free := (rfl)
@[simp] theorem State.setFld_pending (s : State) (f : Fld) (u i v : Nat) : (s.setFld f u i v).pending = s.pending := (rfl)

/-! ### State.addSat -/

@[simp] theorem State.addSat_rwq (s : State) (f : Fld) (u i k : Nat) : (s.addSat f u i k).rwq = s.rwq := (rfl)
@[simp] theorem State.addSat_mem (s : State) (f : Fld) (u i k : Nat) : (s.addSat f u i k).mem = s.mem := (rfl)
@[simp] theorem State.addSat_mode (s : State) (f : Fld) (u i k : Nat) : (s.addSat f u i k).mode = s.mode := (rfl)
@[simp] theorem State.addSat_time (s : State) (f : Fld) (u i k : Nat) : (s.addSat f u i k).time = s.time := (rfl)
@[simp] theorem State.addSat_guns (s : State) (f : Fld) (u i k : Nat) : (s.addSat f u i k).guns = s.guns := (rfl)
@[simp] theorem State.addSat_fab (s : State) (f : Fld) (u i k : Nat) : (s.addSat f u i k).fab = s.fab := (rfl)
@[simp] theorem State.addSat_memErr (s : State) (f : Fld) (u i k : Nat) : (s.addSat f u i k).memErr = s.memErr := (rfl)
@[simp] theorem State.addSat_queues (s : State) (f : Fld) (u i k : Nat) : (s.addSat f u i k).queues = s.queues := (rfl)
@[simp] theorem State.addSat_tiles (s : State) (f : Fld) (u i k : Nat) : (s.addSat f u i k).tiles = s.tiles := (rfl)
@[simp] theorem State.addSat_resps (s : State) (f : Fld) (u i k : Nat) : (s.addSat f u i k).resps = s.resps := (rfl)
@[simp] theorem State.addSat_mems (s : State) (f : Fld) (u i k : Nat) : (s.addSat f u i k).mems = s.mems := (rfl)
@[simp] theorem State.addSat_procs (s : State) (f : Fld) (u i k : Nat) : (s.addSat f u i k).procs = s.procs := (rfl)
@[simp] theorem State.addSat_imemPar (s : State) (f : Fld) (u i k : Nat) : (s.addSat f u i k).imemPar = s.imemPar := (rfl)
@[simp] theorem State.addSat_trc (s : State) (f : Fld) (u i k : Nat) : (s.addSat f u i k).trc = s.trc := (rfl)
@[simp] theorem State.addSat_lanes (s : State) (f : Fld) (u i k : Nat) : (s.addSat f u i k).lanes = s.lanes := (rfl)
@[simp] theorem State.addSat_trigs (s : State) (f : Fld) (u i k : Nat) : (s.addSat f u i k).trigs = s.trigs := (rfl)
@[simp] theorem State.addSat_heats (s : State) (f : Fld) (u i k : Nat) : (s.addSat f u i k).heats = s.heats := (rfl)
@[simp] theorem State.addSat_ret (s : State) (f : Fld) (u i k : Nat) : (s.addSat f u i k).ret = s.ret := (rfl)
@[simp] theorem State.addSat_load (s : State) (f : Fld) (u i k : Nat) : (s.addSat f u i k).load = s.load := (rfl)
@[simp] theorem State.addSat_store (s : State) (f : Fld) (u i k : Nat) : (s.addSat f u i k).store = s.store := (rfl)
@[simp] theorem State.addSat_fuse (s : State) (f : Fld) (u i k : Nat) : (s.addSat f u i k).fuse = s.fuse := (rfl)
@[simp] theorem State.addSat_pwr (s : State) (f : Fld) (u i k : Nat) : (s.addSat f u i k).pwr = s.pwr := (rfl)
@[simp] theorem State.addSat_rst (s : State) (f : Fld) (u i k : Nat) : (s.addSat f u i k).rst = s.rst := (rfl)
@[simp] theorem State.addSat_arcs (s : State) (f : Fld) (u i k : Nat) : (s.addSat f u i k).arcs = s.arcs := (rfl)
@[simp] theorem State.addSat_net (s : State) (f : Fld) (u i k : Nat) : (s.addSat f u i k).net = s.net := (rfl)
@[simp] theorem State.addSat_railInj (s : State) (f : Fld) (u i k : Nat) : (s.addSat f u i k).railInj = s.railInj := (rfl)
@[simp] theorem State.addSat_refAbsent (s : State) (f : Fld) (u i k : Nat) : (s.addSat f u i k).refAbsent = s.refAbsent := (rfl)
@[simp] theorem State.addSat_zones (s : State) (f : Fld) (u i k : Nat) : (s.addSat f u i k).zones = s.zones := (rfl)
@[simp] theorem State.addSat_frz (s : State) (f : Fld) (u i k : Nat) : (s.addSat f u i k).frz = s.frz := (rfl)
@[simp] theorem State.addSat_host (s : State) (f : Fld) (u i k : Nat) : (s.addSat f u i k).host = s.host := (rfl)
@[simp] theorem State.addSat_module (s : State) (f : Fld) (u i k : Nat) : (s.addSat f u i k).module = s.module := (rfl)
@[simp] theorem State.addSat_jtag (s : State) (f : Fld) (u i k : Nat) : (s.addSat f u i k).jtag = s.jtag := (rfl)
@[simp] theorem State.addSat_fifos (s : State) (f : Fld) (u i k : Nat) : (s.addSat f u i k).fifos = s.fifos := (rfl)
@[simp] theorem State.addSat_lossy (s : State) (f : Fld) (u i k : Nat) : (s.addSat f u i k).lossy = s.lossy := (rfl)
@[simp] theorem State.addSat_detected (s : State) (f : Fld) (u i k : Nat) : (s.addSat f u i k).detected = s.detected := (rfl)
@[simp] theorem State.addSat_lastRead (s : State) (f : Fld) (u i k : Nat) : (s.addSat f u i k).lastRead = s.lastRead := (rfl)
@[simp] theorem State.addSat_free (s : State) (f : Fld) (u i k : Nat) : (s.addSat f u i k).free = s.free := (rfl)
@[simp] theorem State.addSat_pending (s : State) (f : Fld) (u i k : Nat) : (s.addSat f u i k).pending = s.pending := (rfl)

/-! ### State.addWrap -/

@[simp] theorem State.addWrap_rwq (s : State) (f : Fld) (u i k : Nat) : (s.addWrap f u i k).rwq = s.rwq := (rfl)
@[simp] theorem State.addWrap_mem (s : State) (f : Fld) (u i k : Nat) : (s.addWrap f u i k).mem = s.mem := (rfl)
@[simp] theorem State.addWrap_mode (s : State) (f : Fld) (u i k : Nat) : (s.addWrap f u i k).mode = s.mode := (rfl)
@[simp] theorem State.addWrap_time (s : State) (f : Fld) (u i k : Nat) : (s.addWrap f u i k).time = s.time := (rfl)
@[simp] theorem State.addWrap_guns (s : State) (f : Fld) (u i k : Nat) : (s.addWrap f u i k).guns = s.guns := (rfl)
@[simp] theorem State.addWrap_fab (s : State) (f : Fld) (u i k : Nat) : (s.addWrap f u i k).fab = s.fab := (rfl)
@[simp] theorem State.addWrap_memErr (s : State) (f : Fld) (u i k : Nat) : (s.addWrap f u i k).memErr = s.memErr := (rfl)
@[simp] theorem State.addWrap_queues (s : State) (f : Fld) (u i k : Nat) : (s.addWrap f u i k).queues = s.queues := (rfl)
@[simp] theorem State.addWrap_tiles (s : State) (f : Fld) (u i k : Nat) : (s.addWrap f u i k).tiles = s.tiles := (rfl)
@[simp] theorem State.addWrap_resps (s : State) (f : Fld) (u i k : Nat) : (s.addWrap f u i k).resps = s.resps := (rfl)
@[simp] theorem State.addWrap_mems (s : State) (f : Fld) (u i k : Nat) : (s.addWrap f u i k).mems = s.mems := (rfl)
@[simp] theorem State.addWrap_procs (s : State) (f : Fld) (u i k : Nat) : (s.addWrap f u i k).procs = s.procs := (rfl)
@[simp] theorem State.addWrap_imemPar (s : State) (f : Fld) (u i k : Nat) : (s.addWrap f u i k).imemPar = s.imemPar := (rfl)
@[simp] theorem State.addWrap_trc (s : State) (f : Fld) (u i k : Nat) : (s.addWrap f u i k).trc = s.trc := (rfl)
@[simp] theorem State.addWrap_lanes (s : State) (f : Fld) (u i k : Nat) : (s.addWrap f u i k).lanes = s.lanes := (rfl)
@[simp] theorem State.addWrap_trigs (s : State) (f : Fld) (u i k : Nat) : (s.addWrap f u i k).trigs = s.trigs := (rfl)
@[simp] theorem State.addWrap_heats (s : State) (f : Fld) (u i k : Nat) : (s.addWrap f u i k).heats = s.heats := (rfl)
@[simp] theorem State.addWrap_ret (s : State) (f : Fld) (u i k : Nat) : (s.addWrap f u i k).ret = s.ret := (rfl)
@[simp] theorem State.addWrap_load (s : State) (f : Fld) (u i k : Nat) : (s.addWrap f u i k).load = s.load := (rfl)
@[simp] theorem State.addWrap_store (s : State) (f : Fld) (u i k : Nat) : (s.addWrap f u i k).store = s.store := (rfl)
@[simp] theorem State.addWrap_fuse (s : State) (f : Fld) (u i k : Nat) : (s.addWrap f u i k).fuse = s.fuse := (rfl)
@[simp] theorem State.addWrap_pwr (s : State) (f : Fld) (u i k : Nat) : (s.addWrap f u i k).pwr = s.pwr := (rfl)
@[simp] theorem State.addWrap_rst (s : State) (f : Fld) (u i k : Nat) : (s.addWrap f u i k).rst = s.rst := (rfl)
@[simp] theorem State.addWrap_arcs (s : State) (f : Fld) (u i k : Nat) : (s.addWrap f u i k).arcs = s.arcs := (rfl)
@[simp] theorem State.addWrap_net (s : State) (f : Fld) (u i k : Nat) : (s.addWrap f u i k).net = s.net := (rfl)
@[simp] theorem State.addWrap_railInj (s : State) (f : Fld) (u i k : Nat) : (s.addWrap f u i k).railInj = s.railInj := (rfl)
@[simp] theorem State.addWrap_refAbsent (s : State) (f : Fld) (u i k : Nat) : (s.addWrap f u i k).refAbsent = s.refAbsent := (rfl)
@[simp] theorem State.addWrap_zones (s : State) (f : Fld) (u i k : Nat) : (s.addWrap f u i k).zones = s.zones := (rfl)
@[simp] theorem State.addWrap_frz (s : State) (f : Fld) (u i k : Nat) : (s.addWrap f u i k).frz = s.frz := (rfl)
@[simp] theorem State.addWrap_host (s : State) (f : Fld) (u i k : Nat) : (s.addWrap f u i k).host = s.host := (rfl)
@[simp] theorem State.addWrap_module (s : State) (f : Fld) (u i k : Nat) : (s.addWrap f u i k).module = s.module := (rfl)
@[simp] theorem State.addWrap_jtag (s : State) (f : Fld) (u i k : Nat) : (s.addWrap f u i k).jtag = s.jtag := (rfl)
@[simp] theorem State.addWrap_fifos (s : State) (f : Fld) (u i k : Nat) : (s.addWrap f u i k).fifos = s.fifos := (rfl)
@[simp] theorem State.addWrap_lossy (s : State) (f : Fld) (u i k : Nat) : (s.addWrap f u i k).lossy = s.lossy := (rfl)
@[simp] theorem State.addWrap_detected (s : State) (f : Fld) (u i k : Nat) : (s.addWrap f u i k).detected = s.detected := (rfl)
@[simp] theorem State.addWrap_lastRead (s : State) (f : Fld) (u i k : Nat) : (s.addWrap f u i k).lastRead = s.lastRead := (rfl)
@[simp] theorem State.addWrap_free (s : State) (f : Fld) (u i k : Nat) : (s.addWrap f u i k).free = s.free := (rfl)
@[simp] theorem State.addWrap_pending (s : State) (f : Fld) (u i k : Nat) : (s.addWrap f u i k).pending = s.pending := (rfl)

/-! ### State.orFld -/

@[simp] theorem State.orFld_rwq (s : State) (f : Fld) (u i bit : Nat) : (s.orFld f u i bit).rwq = s.rwq := (rfl)
@[simp] theorem State.orFld_mem (s : State) (f : Fld) (u i bit : Nat) : (s.orFld f u i bit).mem = s.mem := (rfl)
@[simp] theorem State.orFld_mode (s : State) (f : Fld) (u i bit : Nat) : (s.orFld f u i bit).mode = s.mode := (rfl)
@[simp] theorem State.orFld_time (s : State) (f : Fld) (u i bit : Nat) : (s.orFld f u i bit).time = s.time := (rfl)
@[simp] theorem State.orFld_guns (s : State) (f : Fld) (u i bit : Nat) : (s.orFld f u i bit).guns = s.guns := (rfl)
@[simp] theorem State.orFld_fab (s : State) (f : Fld) (u i bit : Nat) : (s.orFld f u i bit).fab = s.fab := (rfl)
@[simp] theorem State.orFld_memErr (s : State) (f : Fld) (u i bit : Nat) : (s.orFld f u i bit).memErr = s.memErr := (rfl)
@[simp] theorem State.orFld_queues (s : State) (f : Fld) (u i bit : Nat) : (s.orFld f u i bit).queues = s.queues := (rfl)
@[simp] theorem State.orFld_tiles (s : State) (f : Fld) (u i bit : Nat) : (s.orFld f u i bit).tiles = s.tiles := (rfl)
@[simp] theorem State.orFld_resps (s : State) (f : Fld) (u i bit : Nat) : (s.orFld f u i bit).resps = s.resps := (rfl)
@[simp] theorem State.orFld_mems (s : State) (f : Fld) (u i bit : Nat) : (s.orFld f u i bit).mems = s.mems := (rfl)
@[simp] theorem State.orFld_procs (s : State) (f : Fld) (u i bit : Nat) : (s.orFld f u i bit).procs = s.procs := (rfl)
@[simp] theorem State.orFld_imemPar (s : State) (f : Fld) (u i bit : Nat) : (s.orFld f u i bit).imemPar = s.imemPar := (rfl)
@[simp] theorem State.orFld_trc (s : State) (f : Fld) (u i bit : Nat) : (s.orFld f u i bit).trc = s.trc := (rfl)
@[simp] theorem State.orFld_lanes (s : State) (f : Fld) (u i bit : Nat) : (s.orFld f u i bit).lanes = s.lanes := (rfl)
@[simp] theorem State.orFld_trigs (s : State) (f : Fld) (u i bit : Nat) : (s.orFld f u i bit).trigs = s.trigs := (rfl)
@[simp] theorem State.orFld_heats (s : State) (f : Fld) (u i bit : Nat) : (s.orFld f u i bit).heats = s.heats := (rfl)
@[simp] theorem State.orFld_ret (s : State) (f : Fld) (u i bit : Nat) : (s.orFld f u i bit).ret = s.ret := (rfl)
@[simp] theorem State.orFld_load (s : State) (f : Fld) (u i bit : Nat) : (s.orFld f u i bit).load = s.load := (rfl)
@[simp] theorem State.orFld_store (s : State) (f : Fld) (u i bit : Nat) : (s.orFld f u i bit).store = s.store := (rfl)
@[simp] theorem State.orFld_fuse (s : State) (f : Fld) (u i bit : Nat) : (s.orFld f u i bit).fuse = s.fuse := (rfl)
@[simp] theorem State.orFld_pwr (s : State) (f : Fld) (u i bit : Nat) : (s.orFld f u i bit).pwr = s.pwr := (rfl)
@[simp] theorem State.orFld_rst (s : State) (f : Fld) (u i bit : Nat) : (s.orFld f u i bit).rst = s.rst := (rfl)
@[simp] theorem State.orFld_arcs (s : State) (f : Fld) (u i bit : Nat) : (s.orFld f u i bit).arcs = s.arcs := (rfl)
@[simp] theorem State.orFld_net (s : State) (f : Fld) (u i bit : Nat) : (s.orFld f u i bit).net = s.net := (rfl)
@[simp] theorem State.orFld_railInj (s : State) (f : Fld) (u i bit : Nat) : (s.orFld f u i bit).railInj = s.railInj := (rfl)
@[simp] theorem State.orFld_refAbsent (s : State) (f : Fld) (u i bit : Nat) : (s.orFld f u i bit).refAbsent = s.refAbsent := (rfl)
@[simp] theorem State.orFld_zones (s : State) (f : Fld) (u i bit : Nat) : (s.orFld f u i bit).zones = s.zones := (rfl)
@[simp] theorem State.orFld_frz (s : State) (f : Fld) (u i bit : Nat) : (s.orFld f u i bit).frz = s.frz := (rfl)
@[simp] theorem State.orFld_host (s : State) (f : Fld) (u i bit : Nat) : (s.orFld f u i bit).host = s.host := (rfl)
@[simp] theorem State.orFld_module (s : State) (f : Fld) (u i bit : Nat) : (s.orFld f u i bit).module = s.module := (rfl)
@[simp] theorem State.orFld_jtag (s : State) (f : Fld) (u i bit : Nat) : (s.orFld f u i bit).jtag = s.jtag := (rfl)
@[simp] theorem State.orFld_fifos (s : State) (f : Fld) (u i bit : Nat) : (s.orFld f u i bit).fifos = s.fifos := (rfl)
@[simp] theorem State.orFld_lossy (s : State) (f : Fld) (u i bit : Nat) : (s.orFld f u i bit).lossy = s.lossy := (rfl)
@[simp] theorem State.orFld_detected (s : State) (f : Fld) (u i bit : Nat) : (s.orFld f u i bit).detected = s.detected := (rfl)
@[simp] theorem State.orFld_lastRead (s : State) (f : Fld) (u i bit : Nat) : (s.orFld f u i bit).lastRead = s.lastRead := (rfl)
@[simp] theorem State.orFld_free (s : State) (f : Fld) (u i bit : Nat) : (s.orFld f u i bit).free = s.free := (rfl)
@[simp] theorem State.orFld_pending (s : State) (f : Fld) (u i bit : Nat) : (s.orFld f u i bit).pending = s.pending := (rfl)

/-! ### State.used -/

@[simp] theorem State.used_regs (s : State) : (s.used).regs = s.regs := (rfl)
@[simp] theorem State.used_rwq (s : State) : (s.used).rwq = s.rwq := (rfl)
@[simp] theorem State.used_mem (s : State) : (s.used).mem = s.mem := (rfl)
@[simp] theorem State.used_mode (s : State) : (s.used).mode = s.mode := (rfl)
@[simp] theorem State.used_time (s : State) : (s.used).time = s.time := (rfl)
@[simp] theorem State.used_guns (s : State) : (s.used).guns = s.guns := (rfl)
@[simp] theorem State.used_fab (s : State) : (s.used).fab = s.fab := (rfl)
@[simp] theorem State.used_memErr (s : State) : (s.used).memErr = s.memErr := (rfl)
@[simp] theorem State.used_queues (s : State) : (s.used).queues = s.queues := (rfl)
@[simp] theorem State.used_tiles (s : State) : (s.used).tiles = s.tiles := (rfl)
@[simp] theorem State.used_resps (s : State) : (s.used).resps = s.resps := (rfl)
@[simp] theorem State.used_mems (s : State) : (s.used).mems = s.mems := (rfl)
@[simp] theorem State.used_procs (s : State) : (s.used).procs = s.procs := (rfl)
@[simp] theorem State.used_imemPar (s : State) : (s.used).imemPar = s.imemPar := (rfl)
@[simp] theorem State.used_trc (s : State) : (s.used).trc = s.trc := (rfl)
@[simp] theorem State.used_lanes (s : State) : (s.used).lanes = s.lanes := (rfl)
@[simp] theorem State.used_trigs (s : State) : (s.used).trigs = s.trigs := (rfl)
@[simp] theorem State.used_heats (s : State) : (s.used).heats = s.heats := (rfl)
@[simp] theorem State.used_ret (s : State) : (s.used).ret = s.ret := (rfl)
@[simp] theorem State.used_load (s : State) : (s.used).load = s.load := (rfl)
@[simp] theorem State.used_store (s : State) : (s.used).store = s.store := (rfl)
@[simp] theorem State.used_fuse (s : State) : (s.used).fuse = s.fuse := (rfl)
@[simp] theorem State.used_pwr (s : State) : (s.used).pwr = s.pwr := (rfl)
@[simp] theorem State.used_rst (s : State) : (s.used).rst = s.rst := (rfl)
@[simp] theorem State.used_arcs (s : State) : (s.used).arcs = s.arcs := (rfl)
@[simp] theorem State.used_net (s : State) : (s.used).net = s.net := (rfl)
@[simp] theorem State.used_railInj (s : State) : (s.used).railInj = s.railInj := (rfl)
@[simp] theorem State.used_refAbsent (s : State) : (s.used).refAbsent = s.refAbsent := (rfl)
@[simp] theorem State.used_zones (s : State) : (s.used).zones = s.zones := (rfl)
@[simp] theorem State.used_frz (s : State) : (s.used).frz = s.frz := (rfl)
@[simp] theorem State.used_host (s : State) : (s.used).host = s.host := (rfl)
@[simp] theorem State.used_module (s : State) : (s.used).module = s.module := (rfl)
@[simp] theorem State.used_jtag (s : State) : (s.used).jtag = s.jtag := (rfl)
@[simp] theorem State.used_fifos (s : State) : (s.used).fifos = s.fifos := (rfl)
@[simp] theorem State.used_lossy (s : State) : (s.used).lossy = s.lossy := (rfl)
@[simp] theorem State.used_detected (s : State) : (s.used).detected = s.detected := (rfl)
@[simp] theorem State.used_lastRead (s : State) : (s.used).lastRead = s.lastRead := (rfl)
@[simp] theorem State.used_pending (s : State) : (s.used).pending = s.pending := (rfl)

/-! ### State.emit -/

@[simp] theorem State.emit_regs (s : State) (code : Nat) (sc : Scope) (region tile cluster cell : Nat) (inj : Bool) : (s.emit code sc region tile cluster cell inj).regs = s.regs := (rfl)
@[simp] theorem State.emit_rwq (s : State) (code : Nat) (sc : Scope) (region tile cluster cell : Nat) (inj : Bool) : (s.emit code sc region tile cluster cell inj).rwq = s.rwq := (rfl)
@[simp] theorem State.emit_mem (s : State) (code : Nat) (sc : Scope) (region tile cluster cell : Nat) (inj : Bool) : (s.emit code sc region tile cluster cell inj).mem = s.mem := (rfl)
@[simp] theorem State.emit_mode (s : State) (code : Nat) (sc : Scope) (region tile cluster cell : Nat) (inj : Bool) : (s.emit code sc region tile cluster cell inj).mode = s.mode := (rfl)
@[simp] theorem State.emit_time (s : State) (code : Nat) (sc : Scope) (region tile cluster cell : Nat) (inj : Bool) : (s.emit code sc region tile cluster cell inj).time = s.time := (rfl)
@[simp] theorem State.emit_guns (s : State) (code : Nat) (sc : Scope) (region tile cluster cell : Nat) (inj : Bool) : (s.emit code sc region tile cluster cell inj).guns = s.guns := (rfl)
@[simp] theorem State.emit_fab (s : State) (code : Nat) (sc : Scope) (region tile cluster cell : Nat) (inj : Bool) : (s.emit code sc region tile cluster cell inj).fab = s.fab := (rfl)
@[simp] theorem State.emit_memErr (s : State) (code : Nat) (sc : Scope) (region tile cluster cell : Nat) (inj : Bool) : (s.emit code sc region tile cluster cell inj).memErr = s.memErr := (rfl)
@[simp] theorem State.emit_queues (s : State) (code : Nat) (sc : Scope) (region tile cluster cell : Nat) (inj : Bool) : (s.emit code sc region tile cluster cell inj).queues = s.queues := (rfl)
@[simp] theorem State.emit_tiles (s : State) (code : Nat) (sc : Scope) (region tile cluster cell : Nat) (inj : Bool) : (s.emit code sc region tile cluster cell inj).tiles = s.tiles := (rfl)
@[simp] theorem State.emit_resps (s : State) (code : Nat) (sc : Scope) (region tile cluster cell : Nat) (inj : Bool) : (s.emit code sc region tile cluster cell inj).resps = s.resps := (rfl)
@[simp] theorem State.emit_mems (s : State) (code : Nat) (sc : Scope) (region tile cluster cell : Nat) (inj : Bool) : (s.emit code sc region tile cluster cell inj).mems = s.mems := (rfl)
@[simp] theorem State.emit_procs (s : State) (code : Nat) (sc : Scope) (region tile cluster cell : Nat) (inj : Bool) : (s.emit code sc region tile cluster cell inj).procs = s.procs := (rfl)
@[simp] theorem State.emit_imemPar (s : State) (code : Nat) (sc : Scope) (region tile cluster cell : Nat) (inj : Bool) : (s.emit code sc region tile cluster cell inj).imemPar = s.imemPar := (rfl)
@[simp] theorem State.emit_trc (s : State) (code : Nat) (sc : Scope) (region tile cluster cell : Nat) (inj : Bool) : (s.emit code sc region tile cluster cell inj).trc = s.trc := (rfl)
@[simp] theorem State.emit_lanes (s : State) (code : Nat) (sc : Scope) (region tile cluster cell : Nat) (inj : Bool) : (s.emit code sc region tile cluster cell inj).lanes = s.lanes := (rfl)
@[simp] theorem State.emit_trigs (s : State) (code : Nat) (sc : Scope) (region tile cluster cell : Nat) (inj : Bool) : (s.emit code sc region tile cluster cell inj).trigs = s.trigs := (rfl)
@[simp] theorem State.emit_heats (s : State) (code : Nat) (sc : Scope) (region tile cluster cell : Nat) (inj : Bool) : (s.emit code sc region tile cluster cell inj).heats = s.heats := (rfl)
@[simp] theorem State.emit_ret (s : State) (code : Nat) (sc : Scope) (region tile cluster cell : Nat) (inj : Bool) : (s.emit code sc region tile cluster cell inj).ret = s.ret := (rfl)
@[simp] theorem State.emit_load (s : State) (code : Nat) (sc : Scope) (region tile cluster cell : Nat) (inj : Bool) : (s.emit code sc region tile cluster cell inj).load = s.load := (rfl)
@[simp] theorem State.emit_store (s : State) (code : Nat) (sc : Scope) (region tile cluster cell : Nat) (inj : Bool) : (s.emit code sc region tile cluster cell inj).store = s.store := (rfl)
@[simp] theorem State.emit_fuse (s : State) (code : Nat) (sc : Scope) (region tile cluster cell : Nat) (inj : Bool) : (s.emit code sc region tile cluster cell inj).fuse = s.fuse := (rfl)
@[simp] theorem State.emit_pwr (s : State) (code : Nat) (sc : Scope) (region tile cluster cell : Nat) (inj : Bool) : (s.emit code sc region tile cluster cell inj).pwr = s.pwr := (rfl)
@[simp] theorem State.emit_rst (s : State) (code : Nat) (sc : Scope) (region tile cluster cell : Nat) (inj : Bool) : (s.emit code sc region tile cluster cell inj).rst = s.rst := (rfl)
@[simp] theorem State.emit_arcs (s : State) (code : Nat) (sc : Scope) (region tile cluster cell : Nat) (inj : Bool) : (s.emit code sc region tile cluster cell inj).arcs = s.arcs := (rfl)
@[simp] theorem State.emit_net (s : State) (code : Nat) (sc : Scope) (region tile cluster cell : Nat) (inj : Bool) : (s.emit code sc region tile cluster cell inj).net = s.net := (rfl)
@[simp] theorem State.emit_railInj (s : State) (code : Nat) (sc : Scope) (region tile cluster cell : Nat) (inj : Bool) : (s.emit code sc region tile cluster cell inj).railInj = s.railInj := (rfl)
@[simp] theorem State.emit_refAbsent (s : State) (code : Nat) (sc : Scope) (region tile cluster cell : Nat) (inj : Bool) : (s.emit code sc region tile cluster cell inj).refAbsent = s.refAbsent := (rfl)
@[simp] theorem State.emit_zones (s : State) (code : Nat) (sc : Scope) (region tile cluster cell : Nat) (inj : Bool) : (s.emit code sc region tile cluster cell inj).zones = s.zones := (rfl)
@[simp] theorem State.emit_frz (s : State) (code : Nat) (sc : Scope) (region tile cluster cell : Nat) (inj : Bool) : (s.emit code sc region tile cluster cell inj).frz = s.frz := (rfl)
@[simp] theorem State.emit_host (s : State) (code : Nat) (sc : Scope) (region tile cluster cell : Nat) (inj : Bool) : (s.emit code sc region tile cluster cell inj).host = s.host := (rfl)
@[simp] theorem State.emit_module (s : State) (code : Nat) (sc : Scope) (region tile cluster cell : Nat) (inj : Bool) : (s.emit code sc region tile cluster cell inj).module = s.module := (rfl)
@[simp] theorem State.emit_jtag (s : State) (code : Nat) (sc : Scope) (region tile cluster cell : Nat) (inj : Bool) : (s.emit code sc region tile cluster cell inj).jtag = s.jtag := (rfl)
@[simp] theorem State.emit_fifos (s : State) (code : Nat) (sc : Scope) (region tile cluster cell : Nat) (inj : Bool) : (s.emit code sc region tile cluster cell inj).fifos = s.fifos := (rfl)
@[simp] theorem State.emit_lossy (s : State) (code : Nat) (sc : Scope) (region tile cluster cell : Nat) (inj : Bool) : (s.emit code sc region tile cluster cell inj).lossy = s.lossy := (rfl)
@[simp] theorem State.emit_lastRead (s : State) (code : Nat) (sc : Scope) (region tile cluster cell : Nat) (inj : Bool) : (s.emit code sc region tile cluster cell inj).lastRead = s.lastRead := (rfl)
@[simp] theorem State.emit_free (s : State) (code : Nat) (sc : Scope) (region tile cluster cell : Nat) (inj : Bool) : (s.emit code sc region tile cluster cell inj).free = s.free := (rfl)
@[simp] theorem State.emit_pending (s : State) (code : Nat) (sc : Scope) (region tile cluster cell : Nat) (inj : Bool) : (s.emit code sc region tile cluster cell inj).pending = s.pending := (rfl)

/-! ### State.writeBlk -/

@[simp] theorem State.writeBlk_regs (s : State) (a : Nat) (w : Word) : (s.writeBlk a w).regs = s.regs := (rfl)
@[simp] theorem State.writeBlk_rwq (s : State) (a : Nat) (w : Word) : (s.writeBlk a w).rwq = s.rwq := (rfl)
@[simp] theorem State.writeBlk_mode (s : State) (a : Nat) (w : Word) : (s.writeBlk a w).mode = s.mode := (rfl)
@[simp] theorem State.writeBlk_time (s : State) (a : Nat) (w : Word) : (s.writeBlk a w).time = s.time := (rfl)
@[simp] theorem State.writeBlk_guns (s : State) (a : Nat) (w : Word) : (s.writeBlk a w).guns = s.guns := (rfl)
@[simp] theorem State.writeBlk_fab (s : State) (a : Nat) (w : Word) : (s.writeBlk a w).fab = s.fab := (rfl)
@[simp] theorem State.writeBlk_memErr (s : State) (a : Nat) (w : Word) : (s.writeBlk a w).memErr = s.memErr := (rfl)
@[simp] theorem State.writeBlk_queues (s : State) (a : Nat) (w : Word) : (s.writeBlk a w).queues = s.queues := (rfl)
@[simp] theorem State.writeBlk_tiles (s : State) (a : Nat) (w : Word) : (s.writeBlk a w).tiles = s.tiles := (rfl)
@[simp] theorem State.writeBlk_resps (s : State) (a : Nat) (w : Word) : (s.writeBlk a w).resps = s.resps := (rfl)
@[simp] theorem State.writeBlk_mems (s : State) (a : Nat) (w : Word) : (s.writeBlk a w).mems = s.mems := (rfl)
@[simp] theorem State.writeBlk_procs (s : State) (a : Nat) (w : Word) : (s.writeBlk a w).procs = s.procs := (rfl)
@[simp] theorem State.writeBlk_imemPar (s : State) (a : Nat) (w : Word) : (s.writeBlk a w).imemPar = s.imemPar := (rfl)
@[simp] theorem State.writeBlk_trc (s : State) (a : Nat) (w : Word) : (s.writeBlk a w).trc = s.trc := (rfl)
@[simp] theorem State.writeBlk_lanes (s : State) (a : Nat) (w : Word) : (s.writeBlk a w).lanes = s.lanes := (rfl)
@[simp] theorem State.writeBlk_trigs (s : State) (a : Nat) (w : Word) : (s.writeBlk a w).trigs = s.trigs := (rfl)
@[simp] theorem State.writeBlk_heats (s : State) (a : Nat) (w : Word) : (s.writeBlk a w).heats = s.heats := (rfl)
@[simp] theorem State.writeBlk_ret (s : State) (a : Nat) (w : Word) : (s.writeBlk a w).ret = s.ret := (rfl)
@[simp] theorem State.writeBlk_load (s : State) (a : Nat) (w : Word) : (s.writeBlk a w).load = s.load := (rfl)
@[simp] theorem State.writeBlk_store (s : State) (a : Nat) (w : Word) : (s.writeBlk a w).store = s.store := (rfl)
@[simp] theorem State.writeBlk_fuse (s : State) (a : Nat) (w : Word) : (s.writeBlk a w).fuse = s.fuse := (rfl)
@[simp] theorem State.writeBlk_pwr (s : State) (a : Nat) (w : Word) : (s.writeBlk a w).pwr = s.pwr := (rfl)
@[simp] theorem State.writeBlk_rst (s : State) (a : Nat) (w : Word) : (s.writeBlk a w).rst = s.rst := (rfl)
@[simp] theorem State.writeBlk_arcs (s : State) (a : Nat) (w : Word) : (s.writeBlk a w).arcs = s.arcs := (rfl)
@[simp] theorem State.writeBlk_net (s : State) (a : Nat) (w : Word) : (s.writeBlk a w).net = s.net := (rfl)
@[simp] theorem State.writeBlk_railInj (s : State) (a : Nat) (w : Word) : (s.writeBlk a w).railInj = s.railInj := (rfl)
@[simp] theorem State.writeBlk_refAbsent (s : State) (a : Nat) (w : Word) : (s.writeBlk a w).refAbsent = s.refAbsent := (rfl)
@[simp] theorem State.writeBlk_zones (s : State) (a : Nat) (w : Word) : (s.writeBlk a w).zones = s.zones := (rfl)
@[simp] theorem State.writeBlk_frz (s : State) (a : Nat) (w : Word) : (s.writeBlk a w).frz = s.frz := (rfl)
@[simp] theorem State.writeBlk_host (s : State) (a : Nat) (w : Word) : (s.writeBlk a w).host = s.host := (rfl)
@[simp] theorem State.writeBlk_module (s : State) (a : Nat) (w : Word) : (s.writeBlk a w).module = s.module := (rfl)
@[simp] theorem State.writeBlk_jtag (s : State) (a : Nat) (w : Word) : (s.writeBlk a w).jtag = s.jtag := (rfl)
@[simp] theorem State.writeBlk_fifos (s : State) (a : Nat) (w : Word) : (s.writeBlk a w).fifos = s.fifos := (rfl)
@[simp] theorem State.writeBlk_lossy (s : State) (a : Nat) (w : Word) : (s.writeBlk a w).lossy = s.lossy := (rfl)
@[simp] theorem State.writeBlk_detected (s : State) (a : Nat) (w : Word) : (s.writeBlk a w).detected = s.detected := (rfl)
@[simp] theorem State.writeBlk_lastRead (s : State) (a : Nat) (w : Word) : (s.writeBlk a w).lastRead = s.lastRead := (rfl)
@[simp] theorem State.writeBlk_free (s : State) (a : Nat) (w : Word) : (s.writeBlk a w).free = s.free := (rfl)
@[simp] theorem State.writeBlk_pending (s : State) (a : Nat) (w : Word) : (s.writeBlk a w).pending = s.pending := (rfl)

/-! ### State.setProc -/

@[simp] theorem State.setProc_regs (s : State) (p : Nat) (v : ProcSt) : (s.setProc p v).regs = s.regs := (rfl)
@[simp] theorem State.setProc_rwq (s : State) (p : Nat) (v : ProcSt) : (s.setProc p v).rwq = s.rwq := (rfl)
@[simp] theorem State.setProc_mem (s : State) (p : Nat) (v : ProcSt) : (s.setProc p v).mem = s.mem := (rfl)
@[simp] theorem State.setProc_mode (s : State) (p : Nat) (v : ProcSt) : (s.setProc p v).mode = s.mode := (rfl)
@[simp] theorem State.setProc_time (s : State) (p : Nat) (v : ProcSt) : (s.setProc p v).time = s.time := (rfl)
@[simp] theorem State.setProc_guns (s : State) (p : Nat) (v : ProcSt) : (s.setProc p v).guns = s.guns := (rfl)
@[simp] theorem State.setProc_fab (s : State) (p : Nat) (v : ProcSt) : (s.setProc p v).fab = s.fab := (rfl)
@[simp] theorem State.setProc_memErr (s : State) (p : Nat) (v : ProcSt) : (s.setProc p v).memErr = s.memErr := (rfl)
@[simp] theorem State.setProc_queues (s : State) (p : Nat) (v : ProcSt) : (s.setProc p v).queues = s.queues := (rfl)
@[simp] theorem State.setProc_tiles (s : State) (p : Nat) (v : ProcSt) : (s.setProc p v).tiles = s.tiles := (rfl)
@[simp] theorem State.setProc_resps (s : State) (p : Nat) (v : ProcSt) : (s.setProc p v).resps = s.resps := (rfl)
@[simp] theorem State.setProc_mems (s : State) (p : Nat) (v : ProcSt) : (s.setProc p v).mems = s.mems := (rfl)
@[simp] theorem State.setProc_imemPar (s : State) (p : Nat) (v : ProcSt) : (s.setProc p v).imemPar = s.imemPar := (rfl)
@[simp] theorem State.setProc_trc (s : State) (p : Nat) (v : ProcSt) : (s.setProc p v).trc = s.trc := (rfl)
@[simp] theorem State.setProc_lanes (s : State) (p : Nat) (v : ProcSt) : (s.setProc p v).lanes = s.lanes := (rfl)
@[simp] theorem State.setProc_trigs (s : State) (p : Nat) (v : ProcSt) : (s.setProc p v).trigs = s.trigs := (rfl)
@[simp] theorem State.setProc_heats (s : State) (p : Nat) (v : ProcSt) : (s.setProc p v).heats = s.heats := (rfl)
@[simp] theorem State.setProc_ret (s : State) (p : Nat) (v : ProcSt) : (s.setProc p v).ret = s.ret := (rfl)
@[simp] theorem State.setProc_load (s : State) (p : Nat) (v : ProcSt) : (s.setProc p v).load = s.load := (rfl)
@[simp] theorem State.setProc_store (s : State) (p : Nat) (v : ProcSt) : (s.setProc p v).store = s.store := (rfl)
@[simp] theorem State.setProc_fuse (s : State) (p : Nat) (v : ProcSt) : (s.setProc p v).fuse = s.fuse := (rfl)
@[simp] theorem State.setProc_pwr (s : State) (p : Nat) (v : ProcSt) : (s.setProc p v).pwr = s.pwr := (rfl)
@[simp] theorem State.setProc_rst (s : State) (p : Nat) (v : ProcSt) : (s.setProc p v).rst = s.rst := (rfl)
@[simp] theorem State.setProc_arcs (s : State) (p : Nat) (v : ProcSt) : (s.setProc p v).arcs = s.arcs := (rfl)
@[simp] theorem State.setProc_net (s : State) (p : Nat) (v : ProcSt) : (s.setProc p v).net = s.net := (rfl)
@[simp] theorem State.setProc_railInj (s : State) (p : Nat) (v : ProcSt) : (s.setProc p v).railInj = s.railInj := (rfl)
@[simp] theorem State.setProc_refAbsent (s : State) (p : Nat) (v : ProcSt) : (s.setProc p v).refAbsent = s.refAbsent := (rfl)
@[simp] theorem State.setProc_zones (s : State) (p : Nat) (v : ProcSt) : (s.setProc p v).zones = s.zones := (rfl)
@[simp] theorem State.setProc_frz (s : State) (p : Nat) (v : ProcSt) : (s.setProc p v).frz = s.frz := (rfl)
@[simp] theorem State.setProc_host (s : State) (p : Nat) (v : ProcSt) : (s.setProc p v).host = s.host := (rfl)
@[simp] theorem State.setProc_module (s : State) (p : Nat) (v : ProcSt) : (s.setProc p v).module = s.module := (rfl)
@[simp] theorem State.setProc_jtag (s : State) (p : Nat) (v : ProcSt) : (s.setProc p v).jtag = s.jtag := (rfl)
@[simp] theorem State.setProc_fifos (s : State) (p : Nat) (v : ProcSt) : (s.setProc p v).fifos = s.fifos := (rfl)
@[simp] theorem State.setProc_lossy (s : State) (p : Nat) (v : ProcSt) : (s.setProc p v).lossy = s.lossy := (rfl)
@[simp] theorem State.setProc_detected (s : State) (p : Nat) (v : ProcSt) : (s.setProc p v).detected = s.detected := (rfl)
@[simp] theorem State.setProc_lastRead (s : State) (p : Nat) (v : ProcSt) : (s.setProc p v).lastRead = s.lastRead := (rfl)
@[simp] theorem State.setProc_free (s : State) (p : Nat) (v : ProcSt) : (s.setProc p v).free = s.free := (rfl)
@[simp] theorem State.setProc_pending (s : State) (p : Nat) (v : ProcSt) : (s.setProc p v).pending = s.pending := (rfl)

/-! ### State.setPf -/

@[simp] theorem State.setPf_rwq (s : State) (p : Nat) (se sup : Fld) (v i : Nat) : (s.setPf p se sup v i).rwq = s.rwq := (rfl)
@[simp] theorem State.setPf_mem (s : State) (p : Nat) (se sup : Fld) (v i : Nat) : (s.setPf p se sup v i).mem = s.mem := (rfl)
@[simp] theorem State.setPf_mode (s : State) (p : Nat) (se sup : Fld) (v i : Nat) : (s.setPf p se sup v i).mode = s.mode := (rfl)
@[simp] theorem State.setPf_time (s : State) (p : Nat) (se sup : Fld) (v i : Nat) : (s.setPf p se sup v i).time = s.time := (rfl)
@[simp] theorem State.setPf_guns (s : State) (p : Nat) (se sup : Fld) (v i : Nat) : (s.setPf p se sup v i).guns = s.guns := (rfl)
@[simp] theorem State.setPf_fab (s : State) (p : Nat) (se sup : Fld) (v i : Nat) : (s.setPf p se sup v i).fab = s.fab := (rfl)
@[simp] theorem State.setPf_memErr (s : State) (p : Nat) (se sup : Fld) (v i : Nat) : (s.setPf p se sup v i).memErr = s.memErr := (rfl)
@[simp] theorem State.setPf_queues (s : State) (p : Nat) (se sup : Fld) (v i : Nat) : (s.setPf p se sup v i).queues = s.queues := (rfl)
@[simp] theorem State.setPf_tiles (s : State) (p : Nat) (se sup : Fld) (v i : Nat) : (s.setPf p se sup v i).tiles = s.tiles := (rfl)
@[simp] theorem State.setPf_resps (s : State) (p : Nat) (se sup : Fld) (v i : Nat) : (s.setPf p se sup v i).resps = s.resps := (rfl)
@[simp] theorem State.setPf_mems (s : State) (p : Nat) (se sup : Fld) (v i : Nat) : (s.setPf p se sup v i).mems = s.mems := (rfl)
@[simp] theorem State.setPf_procs (s : State) (p : Nat) (se sup : Fld) (v i : Nat) : (s.setPf p se sup v i).procs = s.procs := (rfl)
@[simp] theorem State.setPf_imemPar (s : State) (p : Nat) (se sup : Fld) (v i : Nat) : (s.setPf p se sup v i).imemPar = s.imemPar := (rfl)
@[simp] theorem State.setPf_trc (s : State) (p : Nat) (se sup : Fld) (v i : Nat) : (s.setPf p se sup v i).trc = s.trc := (rfl)
@[simp] theorem State.setPf_lanes (s : State) (p : Nat) (se sup : Fld) (v i : Nat) : (s.setPf p se sup v i).lanes = s.lanes := (rfl)
@[simp] theorem State.setPf_trigs (s : State) (p : Nat) (se sup : Fld) (v i : Nat) : (s.setPf p se sup v i).trigs = s.trigs := (rfl)
@[simp] theorem State.setPf_heats (s : State) (p : Nat) (se sup : Fld) (v i : Nat) : (s.setPf p se sup v i).heats = s.heats := (rfl)
@[simp] theorem State.setPf_ret (s : State) (p : Nat) (se sup : Fld) (v i : Nat) : (s.setPf p se sup v i).ret = s.ret := (rfl)
@[simp] theorem State.setPf_load (s : State) (p : Nat) (se sup : Fld) (v i : Nat) : (s.setPf p se sup v i).load = s.load := (rfl)
@[simp] theorem State.setPf_store (s : State) (p : Nat) (se sup : Fld) (v i : Nat) : (s.setPf p se sup v i).store = s.store := (rfl)
@[simp] theorem State.setPf_fuse (s : State) (p : Nat) (se sup : Fld) (v i : Nat) : (s.setPf p se sup v i).fuse = s.fuse := (rfl)
@[simp] theorem State.setPf_pwr (s : State) (p : Nat) (se sup : Fld) (v i : Nat) : (s.setPf p se sup v i).pwr = s.pwr := (rfl)
@[simp] theorem State.setPf_rst (s : State) (p : Nat) (se sup : Fld) (v i : Nat) : (s.setPf p se sup v i).rst = s.rst := (rfl)
@[simp] theorem State.setPf_arcs (s : State) (p : Nat) (se sup : Fld) (v i : Nat) : (s.setPf p se sup v i).arcs = s.arcs := (rfl)
@[simp] theorem State.setPf_net (s : State) (p : Nat) (se sup : Fld) (v i : Nat) : (s.setPf p se sup v i).net = s.net := (rfl)
@[simp] theorem State.setPf_railInj (s : State) (p : Nat) (se sup : Fld) (v i : Nat) : (s.setPf p se sup v i).railInj = s.railInj := (rfl)
@[simp] theorem State.setPf_refAbsent (s : State) (p : Nat) (se sup : Fld) (v i : Nat) : (s.setPf p se sup v i).refAbsent = s.refAbsent := (rfl)
@[simp] theorem State.setPf_zones (s : State) (p : Nat) (se sup : Fld) (v i : Nat) : (s.setPf p se sup v i).zones = s.zones := (rfl)
@[simp] theorem State.setPf_frz (s : State) (p : Nat) (se sup : Fld) (v i : Nat) : (s.setPf p se sup v i).frz = s.frz := (rfl)
@[simp] theorem State.setPf_host (s : State) (p : Nat) (se sup : Fld) (v i : Nat) : (s.setPf p se sup v i).host = s.host := (rfl)
@[simp] theorem State.setPf_module (s : State) (p : Nat) (se sup : Fld) (v i : Nat) : (s.setPf p se sup v i).module = s.module := (rfl)
@[simp] theorem State.setPf_jtag (s : State) (p : Nat) (se sup : Fld) (v i : Nat) : (s.setPf p se sup v i).jtag = s.jtag := (rfl)
@[simp] theorem State.setPf_fifos (s : State) (p : Nat) (se sup : Fld) (v i : Nat) : (s.setPf p se sup v i).fifos = s.fifos := (rfl)
@[simp] theorem State.setPf_lossy (s : State) (p : Nat) (se sup : Fld) (v i : Nat) : (s.setPf p se sup v i).lossy = s.lossy := (rfl)
@[simp] theorem State.setPf_detected (s : State) (p : Nat) (se sup : Fld) (v i : Nat) : (s.setPf p se sup v i).detected = s.detected := (rfl)
@[simp] theorem State.setPf_lastRead (s : State) (p : Nat) (se sup : Fld) (v i : Nat) : (s.setPf p se sup v i).lastRead = s.lastRead := (rfl)
@[simp] theorem State.setPf_free (s : State) (p : Nat) (se sup : Fld) (v i : Nat) : (s.setPf p se sup v i).free = s.free := (rfl)
@[simp] theorem State.setPf_pending (s : State) (p : Nat) (se sup : Fld) (v i : Nat) : (s.setPf p se sup v i).pending = s.pending := (rfl)

/-! ### State.setPstate -/

@[simp] theorem State.setPstate_rwq (s : State) (p v : Nat) : (s.setPstate p v).rwq = s.rwq := (rfl)
@[simp] theorem State.setPstate_mem (s : State) (p v : Nat) : (s.setPstate p v).mem = s.mem := (rfl)
@[simp] theorem State.setPstate_mode (s : State) (p v : Nat) : (s.setPstate p v).mode = s.mode := (rfl)
@[simp] theorem State.setPstate_time (s : State) (p v : Nat) : (s.setPstate p v).time = s.time := (rfl)
@[simp] theorem State.setPstate_guns (s : State) (p v : Nat) : (s.setPstate p v).guns = s.guns := (rfl)
@[simp] theorem State.setPstate_fab (s : State) (p v : Nat) : (s.setPstate p v).fab = s.fab := (rfl)
@[simp] theorem State.setPstate_memErr (s : State) (p v : Nat) : (s.setPstate p v).memErr = s.memErr := (rfl)
@[simp] theorem State.setPstate_queues (s : State) (p v : Nat) : (s.setPstate p v).queues = s.queues := (rfl)
@[simp] theorem State.setPstate_tiles (s : State) (p v : Nat) : (s.setPstate p v).tiles = s.tiles := (rfl)
@[simp] theorem State.setPstate_resps (s : State) (p v : Nat) : (s.setPstate p v).resps = s.resps := (rfl)
@[simp] theorem State.setPstate_mems (s : State) (p v : Nat) : (s.setPstate p v).mems = s.mems := (rfl)
@[simp] theorem State.setPstate_procs (s : State) (p v : Nat) : (s.setPstate p v).procs = s.procs := (rfl)
@[simp] theorem State.setPstate_imemPar (s : State) (p v : Nat) : (s.setPstate p v).imemPar = s.imemPar := (rfl)
@[simp] theorem State.setPstate_trc (s : State) (p v : Nat) : (s.setPstate p v).trc = s.trc := (rfl)
@[simp] theorem State.setPstate_lanes (s : State) (p v : Nat) : (s.setPstate p v).lanes = s.lanes := (rfl)
@[simp] theorem State.setPstate_trigs (s : State) (p v : Nat) : (s.setPstate p v).trigs = s.trigs := (rfl)
@[simp] theorem State.setPstate_heats (s : State) (p v : Nat) : (s.setPstate p v).heats = s.heats := (rfl)
@[simp] theorem State.setPstate_ret (s : State) (p v : Nat) : (s.setPstate p v).ret = s.ret := (rfl)
@[simp] theorem State.setPstate_load (s : State) (p v : Nat) : (s.setPstate p v).load = s.load := (rfl)
@[simp] theorem State.setPstate_store (s : State) (p v : Nat) : (s.setPstate p v).store = s.store := (rfl)
@[simp] theorem State.setPstate_fuse (s : State) (p v : Nat) : (s.setPstate p v).fuse = s.fuse := (rfl)
@[simp] theorem State.setPstate_pwr (s : State) (p v : Nat) : (s.setPstate p v).pwr = s.pwr := (rfl)
@[simp] theorem State.setPstate_rst (s : State) (p v : Nat) : (s.setPstate p v).rst = s.rst := (rfl)
@[simp] theorem State.setPstate_arcs (s : State) (p v : Nat) : (s.setPstate p v).arcs = s.arcs := (rfl)
@[simp] theorem State.setPstate_net (s : State) (p v : Nat) : (s.setPstate p v).net = s.net := (rfl)
@[simp] theorem State.setPstate_railInj (s : State) (p v : Nat) : (s.setPstate p v).railInj = s.railInj := (rfl)
@[simp] theorem State.setPstate_refAbsent (s : State) (p v : Nat) : (s.setPstate p v).refAbsent = s.refAbsent := (rfl)
@[simp] theorem State.setPstate_zones (s : State) (p v : Nat) : (s.setPstate p v).zones = s.zones := (rfl)
@[simp] theorem State.setPstate_frz (s : State) (p v : Nat) : (s.setPstate p v).frz = s.frz := (rfl)
@[simp] theorem State.setPstate_host (s : State) (p v : Nat) : (s.setPstate p v).host = s.host := (rfl)
@[simp] theorem State.setPstate_module (s : State) (p v : Nat) : (s.setPstate p v).module = s.module := (rfl)
@[simp] theorem State.setPstate_jtag (s : State) (p v : Nat) : (s.setPstate p v).jtag = s.jtag := (rfl)
@[simp] theorem State.setPstate_fifos (s : State) (p v : Nat) : (s.setPstate p v).fifos = s.fifos := (rfl)
@[simp] theorem State.setPstate_lossy (s : State) (p v : Nat) : (s.setPstate p v).lossy = s.lossy := (rfl)
@[simp] theorem State.setPstate_detected (s : State) (p v : Nat) : (s.setPstate p v).detected = s.detected := (rfl)
@[simp] theorem State.setPstate_lastRead (s : State) (p v : Nat) : (s.setPstate p v).lastRead = s.lastRead := (rfl)
@[simp] theorem State.setPstate_free (s : State) (p v : Nat) : (s.setPstate p v).free = s.free := (rfl)
@[simp] theorem State.setPstate_pending (s : State) (p v : Nat) : (s.setPstate p v).pending = s.pending := (rfl)

/-! ### State.setPpc -/

@[simp] theorem State.setPpc_rwq (s : State) (p v : Nat) : (s.setPpc p v).rwq = s.rwq := (rfl)
@[simp] theorem State.setPpc_mem (s : State) (p v : Nat) : (s.setPpc p v).mem = s.mem := (rfl)
@[simp] theorem State.setPpc_mode (s : State) (p v : Nat) : (s.setPpc p v).mode = s.mode := (rfl)
@[simp] theorem State.setPpc_time (s : State) (p v : Nat) : (s.setPpc p v).time = s.time := (rfl)
@[simp] theorem State.setPpc_guns (s : State) (p v : Nat) : (s.setPpc p v).guns = s.guns := (rfl)
@[simp] theorem State.setPpc_fab (s : State) (p v : Nat) : (s.setPpc p v).fab = s.fab := (rfl)
@[simp] theorem State.setPpc_memErr (s : State) (p v : Nat) : (s.setPpc p v).memErr = s.memErr := (rfl)
@[simp] theorem State.setPpc_queues (s : State) (p v : Nat) : (s.setPpc p v).queues = s.queues := (rfl)
@[simp] theorem State.setPpc_tiles (s : State) (p v : Nat) : (s.setPpc p v).tiles = s.tiles := (rfl)
@[simp] theorem State.setPpc_resps (s : State) (p v : Nat) : (s.setPpc p v).resps = s.resps := (rfl)
@[simp] theorem State.setPpc_mems (s : State) (p v : Nat) : (s.setPpc p v).mems = s.mems := (rfl)
@[simp] theorem State.setPpc_procs (s : State) (p v : Nat) : (s.setPpc p v).procs = s.procs := (rfl)
@[simp] theorem State.setPpc_imemPar (s : State) (p v : Nat) : (s.setPpc p v).imemPar = s.imemPar := (rfl)
@[simp] theorem State.setPpc_trc (s : State) (p v : Nat) : (s.setPpc p v).trc = s.trc := (rfl)
@[simp] theorem State.setPpc_lanes (s : State) (p v : Nat) : (s.setPpc p v).lanes = s.lanes := (rfl)
@[simp] theorem State.setPpc_trigs (s : State) (p v : Nat) : (s.setPpc p v).trigs = s.trigs := (rfl)
@[simp] theorem State.setPpc_heats (s : State) (p v : Nat) : (s.setPpc p v).heats = s.heats := (rfl)
@[simp] theorem State.setPpc_ret (s : State) (p v : Nat) : (s.setPpc p v).ret = s.ret := (rfl)
@[simp] theorem State.setPpc_load (s : State) (p v : Nat) : (s.setPpc p v).load = s.load := (rfl)
@[simp] theorem State.setPpc_store (s : State) (p v : Nat) : (s.setPpc p v).store = s.store := (rfl)
@[simp] theorem State.setPpc_fuse (s : State) (p v : Nat) : (s.setPpc p v).fuse = s.fuse := (rfl)
@[simp] theorem State.setPpc_pwr (s : State) (p v : Nat) : (s.setPpc p v).pwr = s.pwr := (rfl)
@[simp] theorem State.setPpc_rst (s : State) (p v : Nat) : (s.setPpc p v).rst = s.rst := (rfl)
@[simp] theorem State.setPpc_arcs (s : State) (p v : Nat) : (s.setPpc p v).arcs = s.arcs := (rfl)
@[simp] theorem State.setPpc_net (s : State) (p v : Nat) : (s.setPpc p v).net = s.net := (rfl)
@[simp] theorem State.setPpc_railInj (s : State) (p v : Nat) : (s.setPpc p v).railInj = s.railInj := (rfl)
@[simp] theorem State.setPpc_refAbsent (s : State) (p v : Nat) : (s.setPpc p v).refAbsent = s.refAbsent := (rfl)
@[simp] theorem State.setPpc_zones (s : State) (p v : Nat) : (s.setPpc p v).zones = s.zones := (rfl)
@[simp] theorem State.setPpc_frz (s : State) (p v : Nat) : (s.setPpc p v).frz = s.frz := (rfl)
@[simp] theorem State.setPpc_host (s : State) (p v : Nat) : (s.setPpc p v).host = s.host := (rfl)
@[simp] theorem State.setPpc_module (s : State) (p v : Nat) : (s.setPpc p v).module = s.module := (rfl)
@[simp] theorem State.setPpc_jtag (s : State) (p v : Nat) : (s.setPpc p v).jtag = s.jtag := (rfl)
@[simp] theorem State.setPpc_fifos (s : State) (p v : Nat) : (s.setPpc p v).fifos = s.fifos := (rfl)
@[simp] theorem State.setPpc_lossy (s : State) (p v : Nat) : (s.setPpc p v).lossy = s.lossy := (rfl)
@[simp] theorem State.setPpc_detected (s : State) (p v : Nat) : (s.setPpc p v).detected = s.detected := (rfl)
@[simp] theorem State.setPpc_lastRead (s : State) (p v : Nat) : (s.setPpc p v).lastRead = s.lastRead := (rfl)
@[simp] theorem State.setPpc_free (s : State) (p v : Nat) : (s.setPpc p v).free = s.free := (rfl)
@[simp] theorem State.setPpc_pending (s : State) (p v : Nat) : (s.setPpc p v).pending = s.pending := (rfl)

/-! ### State.setX -/

@[simp] theorem State.setX_regs (s : State) (p n : Nat) (w : Word) : (s.setX p n w).regs = s.regs := (rfl)
@[simp] theorem State.setX_rwq (s : State) (p n : Nat) (w : Word) : (s.setX p n w).rwq = s.rwq := (rfl)
@[simp] theorem State.setX_mem (s : State) (p n : Nat) (w : Word) : (s.setX p n w).mem = s.mem := (rfl)
@[simp] theorem State.setX_mode (s : State) (p n : Nat) (w : Word) : (s.setX p n w).mode = s.mode := (rfl)
@[simp] theorem State.setX_time (s : State) (p n : Nat) (w : Word) : (s.setX p n w).time = s.time := (rfl)
@[simp] theorem State.setX_guns (s : State) (p n : Nat) (w : Word) : (s.setX p n w).guns = s.guns := (rfl)
@[simp] theorem State.setX_fab (s : State) (p n : Nat) (w : Word) : (s.setX p n w).fab = s.fab := (rfl)
@[simp] theorem State.setX_memErr (s : State) (p n : Nat) (w : Word) : (s.setX p n w).memErr = s.memErr := (rfl)
@[simp] theorem State.setX_queues (s : State) (p n : Nat) (w : Word) : (s.setX p n w).queues = s.queues := (rfl)
@[simp] theorem State.setX_tiles (s : State) (p n : Nat) (w : Word) : (s.setX p n w).tiles = s.tiles := (rfl)
@[simp] theorem State.setX_resps (s : State) (p n : Nat) (w : Word) : (s.setX p n w).resps = s.resps := (rfl)
@[simp] theorem State.setX_mems (s : State) (p n : Nat) (w : Word) : (s.setX p n w).mems = s.mems := (rfl)
@[simp] theorem State.setX_imemPar (s : State) (p n : Nat) (w : Word) : (s.setX p n w).imemPar = s.imemPar := (rfl)
@[simp] theorem State.setX_trc (s : State) (p n : Nat) (w : Word) : (s.setX p n w).trc = s.trc := (rfl)
@[simp] theorem State.setX_lanes (s : State) (p n : Nat) (w : Word) : (s.setX p n w).lanes = s.lanes := (rfl)
@[simp] theorem State.setX_trigs (s : State) (p n : Nat) (w : Word) : (s.setX p n w).trigs = s.trigs := (rfl)
@[simp] theorem State.setX_heats (s : State) (p n : Nat) (w : Word) : (s.setX p n w).heats = s.heats := (rfl)
@[simp] theorem State.setX_ret (s : State) (p n : Nat) (w : Word) : (s.setX p n w).ret = s.ret := (rfl)
@[simp] theorem State.setX_load (s : State) (p n : Nat) (w : Word) : (s.setX p n w).load = s.load := (rfl)
@[simp] theorem State.setX_store (s : State) (p n : Nat) (w : Word) : (s.setX p n w).store = s.store := (rfl)
@[simp] theorem State.setX_fuse (s : State) (p n : Nat) (w : Word) : (s.setX p n w).fuse = s.fuse := (rfl)
@[simp] theorem State.setX_pwr (s : State) (p n : Nat) (w : Word) : (s.setX p n w).pwr = s.pwr := (rfl)
@[simp] theorem State.setX_rst (s : State) (p n : Nat) (w : Word) : (s.setX p n w).rst = s.rst := (rfl)
@[simp] theorem State.setX_arcs (s : State) (p n : Nat) (w : Word) : (s.setX p n w).arcs = s.arcs := (rfl)
@[simp] theorem State.setX_net (s : State) (p n : Nat) (w : Word) : (s.setX p n w).net = s.net := (rfl)
@[simp] theorem State.setX_railInj (s : State) (p n : Nat) (w : Word) : (s.setX p n w).railInj = s.railInj := (rfl)
@[simp] theorem State.setX_refAbsent (s : State) (p n : Nat) (w : Word) : (s.setX p n w).refAbsent = s.refAbsent := (rfl)
@[simp] theorem State.setX_zones (s : State) (p n : Nat) (w : Word) : (s.setX p n w).zones = s.zones := (rfl)
@[simp] theorem State.setX_frz (s : State) (p n : Nat) (w : Word) : (s.setX p n w).frz = s.frz := (rfl)
@[simp] theorem State.setX_host (s : State) (p n : Nat) (w : Word) : (s.setX p n w).host = s.host := (rfl)
@[simp] theorem State.setX_module (s : State) (p n : Nat) (w : Word) : (s.setX p n w).module = s.module := (rfl)
@[simp] theorem State.setX_jtag (s : State) (p n : Nat) (w : Word) : (s.setX p n w).jtag = s.jtag := (rfl)
@[simp] theorem State.setX_fifos (s : State) (p n : Nat) (w : Word) : (s.setX p n w).fifos = s.fifos := (rfl)
@[simp] theorem State.setX_lossy (s : State) (p n : Nat) (w : Word) : (s.setX p n w).lossy = s.lossy := (rfl)
@[simp] theorem State.setX_detected (s : State) (p n : Nat) (w : Word) : (s.setX p n w).detected = s.detected := (rfl)
@[simp] theorem State.setX_lastRead (s : State) (p n : Nat) (w : Word) : (s.setX p n w).lastRead = s.lastRead := (rfl)
@[simp] theorem State.setX_free (s : State) (p n : Nat) (w : Word) : (s.setX p n w).free = s.free := (rfl)
@[simp] theorem State.setX_pending (s : State) (p n : Nat) (w : Word) : (s.setX p n w).pending = s.pending := (rfl)

/-! ### State.setSr -/

@[simp] theorem State.setSr_regs (s : State) (p : Nat) (w : Word) : (s.setSr p w).regs = s.regs := (rfl)
@[simp] theorem State.setSr_rwq (s : State) (p : Nat) (w : Word) : (s.setSr p w).rwq = s.rwq := (rfl)
@[simp] theorem State.setSr_mem (s : State) (p : Nat) (w : Word) : (s.setSr p w).mem = s.mem := (rfl)
@[simp] theorem State.setSr_mode (s : State) (p : Nat) (w : Word) : (s.setSr p w).mode = s.mode := (rfl)
@[simp] theorem State.setSr_time (s : State) (p : Nat) (w : Word) : (s.setSr p w).time = s.time := (rfl)
@[simp] theorem State.setSr_guns (s : State) (p : Nat) (w : Word) : (s.setSr p w).guns = s.guns := (rfl)
@[simp] theorem State.setSr_fab (s : State) (p : Nat) (w : Word) : (s.setSr p w).fab = s.fab := (rfl)
@[simp] theorem State.setSr_memErr (s : State) (p : Nat) (w : Word) : (s.setSr p w).memErr = s.memErr := (rfl)
@[simp] theorem State.setSr_queues (s : State) (p : Nat) (w : Word) : (s.setSr p w).queues = s.queues := (rfl)
@[simp] theorem State.setSr_tiles (s : State) (p : Nat) (w : Word) : (s.setSr p w).tiles = s.tiles := (rfl)
@[simp] theorem State.setSr_resps (s : State) (p : Nat) (w : Word) : (s.setSr p w).resps = s.resps := (rfl)
@[simp] theorem State.setSr_mems (s : State) (p : Nat) (w : Word) : (s.setSr p w).mems = s.mems := (rfl)
@[simp] theorem State.setSr_imemPar (s : State) (p : Nat) (w : Word) : (s.setSr p w).imemPar = s.imemPar := (rfl)
@[simp] theorem State.setSr_trc (s : State) (p : Nat) (w : Word) : (s.setSr p w).trc = s.trc := (rfl)
@[simp] theorem State.setSr_lanes (s : State) (p : Nat) (w : Word) : (s.setSr p w).lanes = s.lanes := (rfl)
@[simp] theorem State.setSr_trigs (s : State) (p : Nat) (w : Word) : (s.setSr p w).trigs = s.trigs := (rfl)
@[simp] theorem State.setSr_heats (s : State) (p : Nat) (w : Word) : (s.setSr p w).heats = s.heats := (rfl)
@[simp] theorem State.setSr_ret (s : State) (p : Nat) (w : Word) : (s.setSr p w).ret = s.ret := (rfl)
@[simp] theorem State.setSr_load (s : State) (p : Nat) (w : Word) : (s.setSr p w).load = s.load := (rfl)
@[simp] theorem State.setSr_store (s : State) (p : Nat) (w : Word) : (s.setSr p w).store = s.store := (rfl)
@[simp] theorem State.setSr_fuse (s : State) (p : Nat) (w : Word) : (s.setSr p w).fuse = s.fuse := (rfl)
@[simp] theorem State.setSr_pwr (s : State) (p : Nat) (w : Word) : (s.setSr p w).pwr = s.pwr := (rfl)
@[simp] theorem State.setSr_rst (s : State) (p : Nat) (w : Word) : (s.setSr p w).rst = s.rst := (rfl)
@[simp] theorem State.setSr_arcs (s : State) (p : Nat) (w : Word) : (s.setSr p w).arcs = s.arcs := (rfl)
@[simp] theorem State.setSr_net (s : State) (p : Nat) (w : Word) : (s.setSr p w).net = s.net := (rfl)
@[simp] theorem State.setSr_railInj (s : State) (p : Nat) (w : Word) : (s.setSr p w).railInj = s.railInj := (rfl)
@[simp] theorem State.setSr_refAbsent (s : State) (p : Nat) (w : Word) : (s.setSr p w).refAbsent = s.refAbsent := (rfl)
@[simp] theorem State.setSr_zones (s : State) (p : Nat) (w : Word) : (s.setSr p w).zones = s.zones := (rfl)
@[simp] theorem State.setSr_frz (s : State) (p : Nat) (w : Word) : (s.setSr p w).frz = s.frz := (rfl)
@[simp] theorem State.setSr_host (s : State) (p : Nat) (w : Word) : (s.setSr p w).host = s.host := (rfl)
@[simp] theorem State.setSr_module (s : State) (p : Nat) (w : Word) : (s.setSr p w).module = s.module := (rfl)
@[simp] theorem State.setSr_jtag (s : State) (p : Nat) (w : Word) : (s.setSr p w).jtag = s.jtag := (rfl)
@[simp] theorem State.setSr_fifos (s : State) (p : Nat) (w : Word) : (s.setSr p w).fifos = s.fifos := (rfl)
@[simp] theorem State.setSr_lossy (s : State) (p : Nat) (w : Word) : (s.setSr p w).lossy = s.lossy := (rfl)
@[simp] theorem State.setSr_detected (s : State) (p : Nat) (w : Word) : (s.setSr p w).detected = s.detected := (rfl)
@[simp] theorem State.setSr_lastRead (s : State) (p : Nat) (w : Word) : (s.setSr p w).lastRead = s.lastRead := (rfl)
@[simp] theorem State.setSr_free (s : State) (p : Nat) (w : Word) : (s.setSr p w).free = s.free := (rfl)
@[simp] theorem State.setSr_pending (s : State) (p : Nat) (w : Word) : (s.setSr p w).pending = s.pending := (rfl)

/-! ### State.setQ -/

@[simp] theorem State.setQ_regs (s : State) (t q : Nat) (v : QueueSt) : (s.setQ t q v).regs = s.regs := (rfl)
@[simp] theorem State.setQ_rwq (s : State) (t q : Nat) (v : QueueSt) : (s.setQ t q v).rwq = s.rwq := (rfl)
@[simp] theorem State.setQ_mem (s : State) (t q : Nat) (v : QueueSt) : (s.setQ t q v).mem = s.mem := (rfl)
@[simp] theorem State.setQ_mode (s : State) (t q : Nat) (v : QueueSt) : (s.setQ t q v).mode = s.mode := (rfl)
@[simp] theorem State.setQ_time (s : State) (t q : Nat) (v : QueueSt) : (s.setQ t q v).time = s.time := (rfl)
@[simp] theorem State.setQ_guns (s : State) (t q : Nat) (v : QueueSt) : (s.setQ t q v).guns = s.guns := (rfl)
@[simp] theorem State.setQ_fab (s : State) (t q : Nat) (v : QueueSt) : (s.setQ t q v).fab = s.fab := (rfl)
@[simp] theorem State.setQ_memErr (s : State) (t q : Nat) (v : QueueSt) : (s.setQ t q v).memErr = s.memErr := (rfl)
@[simp] theorem State.setQ_tiles (s : State) (t q : Nat) (v : QueueSt) : (s.setQ t q v).tiles = s.tiles := (rfl)
@[simp] theorem State.setQ_resps (s : State) (t q : Nat) (v : QueueSt) : (s.setQ t q v).resps = s.resps := (rfl)
@[simp] theorem State.setQ_mems (s : State) (t q : Nat) (v : QueueSt) : (s.setQ t q v).mems = s.mems := (rfl)
@[simp] theorem State.setQ_procs (s : State) (t q : Nat) (v : QueueSt) : (s.setQ t q v).procs = s.procs := (rfl)
@[simp] theorem State.setQ_imemPar (s : State) (t q : Nat) (v : QueueSt) : (s.setQ t q v).imemPar = s.imemPar := (rfl)
@[simp] theorem State.setQ_trc (s : State) (t q : Nat) (v : QueueSt) : (s.setQ t q v).trc = s.trc := (rfl)
@[simp] theorem State.setQ_lanes (s : State) (t q : Nat) (v : QueueSt) : (s.setQ t q v).lanes = s.lanes := (rfl)
@[simp] theorem State.setQ_trigs (s : State) (t q : Nat) (v : QueueSt) : (s.setQ t q v).trigs = s.trigs := (rfl)
@[simp] theorem State.setQ_heats (s : State) (t q : Nat) (v : QueueSt) : (s.setQ t q v).heats = s.heats := (rfl)
@[simp] theorem State.setQ_ret (s : State) (t q : Nat) (v : QueueSt) : (s.setQ t q v).ret = s.ret := (rfl)
@[simp] theorem State.setQ_load (s : State) (t q : Nat) (v : QueueSt) : (s.setQ t q v).load = s.load := (rfl)
@[simp] theorem State.setQ_store (s : State) (t q : Nat) (v : QueueSt) : (s.setQ t q v).store = s.store := (rfl)
@[simp] theorem State.setQ_fuse (s : State) (t q : Nat) (v : QueueSt) : (s.setQ t q v).fuse = s.fuse := (rfl)
@[simp] theorem State.setQ_pwr (s : State) (t q : Nat) (v : QueueSt) : (s.setQ t q v).pwr = s.pwr := (rfl)
@[simp] theorem State.setQ_rst (s : State) (t q : Nat) (v : QueueSt) : (s.setQ t q v).rst = s.rst := (rfl)
@[simp] theorem State.setQ_arcs (s : State) (t q : Nat) (v : QueueSt) : (s.setQ t q v).arcs = s.arcs := (rfl)
@[simp] theorem State.setQ_net (s : State) (t q : Nat) (v : QueueSt) : (s.setQ t q v).net = s.net := (rfl)
@[simp] theorem State.setQ_railInj (s : State) (t q : Nat) (v : QueueSt) : (s.setQ t q v).railInj = s.railInj := (rfl)
@[simp] theorem State.setQ_refAbsent (s : State) (t q : Nat) (v : QueueSt) : (s.setQ t q v).refAbsent = s.refAbsent := (rfl)
@[simp] theorem State.setQ_zones (s : State) (t q : Nat) (v : QueueSt) : (s.setQ t q v).zones = s.zones := (rfl)
@[simp] theorem State.setQ_frz (s : State) (t q : Nat) (v : QueueSt) : (s.setQ t q v).frz = s.frz := (rfl)
@[simp] theorem State.setQ_host (s : State) (t q : Nat) (v : QueueSt) : (s.setQ t q v).host = s.host := (rfl)
@[simp] theorem State.setQ_module (s : State) (t q : Nat) (v : QueueSt) : (s.setQ t q v).module = s.module := (rfl)
@[simp] theorem State.setQ_jtag (s : State) (t q : Nat) (v : QueueSt) : (s.setQ t q v).jtag = s.jtag := (rfl)
@[simp] theorem State.setQ_fifos (s : State) (t q : Nat) (v : QueueSt) : (s.setQ t q v).fifos = s.fifos := (rfl)
@[simp] theorem State.setQ_lossy (s : State) (t q : Nat) (v : QueueSt) : (s.setQ t q v).lossy = s.lossy := (rfl)
@[simp] theorem State.setQ_detected (s : State) (t q : Nat) (v : QueueSt) : (s.setQ t q v).detected = s.detected := (rfl)
@[simp] theorem State.setQ_lastRead (s : State) (t q : Nat) (v : QueueSt) : (s.setQ t q v).lastRead = s.lastRead := (rfl)
@[simp] theorem State.setQ_free (s : State) (t q : Nat) (v : QueueSt) : (s.setQ t q v).free = s.free := (rfl)
@[simp] theorem State.setQ_pending (s : State) (t q : Nat) (v : QueueSt) : (s.setQ t q v).pending = s.pending := (rfl)

/-! ### State.setLane -/

@[simp] theorem State.setLane_regs (s : State) (l : Nat) (v : LaneSt) : (s.setLane l v).regs = s.regs := (rfl)
@[simp] theorem State.setLane_rwq (s : State) (l : Nat) (v : LaneSt) : (s.setLane l v).rwq = s.rwq := (rfl)
@[simp] theorem State.setLane_mem (s : State) (l : Nat) (v : LaneSt) : (s.setLane l v).mem = s.mem := (rfl)
@[simp] theorem State.setLane_mode (s : State) (l : Nat) (v : LaneSt) : (s.setLane l v).mode = s.mode := (rfl)
@[simp] theorem State.setLane_time (s : State) (l : Nat) (v : LaneSt) : (s.setLane l v).time = s.time := (rfl)
@[simp] theorem State.setLane_guns (s : State) (l : Nat) (v : LaneSt) : (s.setLane l v).guns = s.guns := (rfl)
@[simp] theorem State.setLane_fab (s : State) (l : Nat) (v : LaneSt) : (s.setLane l v).fab = s.fab := (rfl)
@[simp] theorem State.setLane_memErr (s : State) (l : Nat) (v : LaneSt) : (s.setLane l v).memErr = s.memErr := (rfl)
@[simp] theorem State.setLane_queues (s : State) (l : Nat) (v : LaneSt) : (s.setLane l v).queues = s.queues := (rfl)
@[simp] theorem State.setLane_tiles (s : State) (l : Nat) (v : LaneSt) : (s.setLane l v).tiles = s.tiles := (rfl)
@[simp] theorem State.setLane_resps (s : State) (l : Nat) (v : LaneSt) : (s.setLane l v).resps = s.resps := (rfl)
@[simp] theorem State.setLane_mems (s : State) (l : Nat) (v : LaneSt) : (s.setLane l v).mems = s.mems := (rfl)
@[simp] theorem State.setLane_procs (s : State) (l : Nat) (v : LaneSt) : (s.setLane l v).procs = s.procs := (rfl)
@[simp] theorem State.setLane_imemPar (s : State) (l : Nat) (v : LaneSt) : (s.setLane l v).imemPar = s.imemPar := (rfl)
@[simp] theorem State.setLane_trc (s : State) (l : Nat) (v : LaneSt) : (s.setLane l v).trc = s.trc := (rfl)
@[simp] theorem State.setLane_trigs (s : State) (l : Nat) (v : LaneSt) : (s.setLane l v).trigs = s.trigs := (rfl)
@[simp] theorem State.setLane_heats (s : State) (l : Nat) (v : LaneSt) : (s.setLane l v).heats = s.heats := (rfl)
@[simp] theorem State.setLane_ret (s : State) (l : Nat) (v : LaneSt) : (s.setLane l v).ret = s.ret := (rfl)
@[simp] theorem State.setLane_load (s : State) (l : Nat) (v : LaneSt) : (s.setLane l v).load = s.load := (rfl)
@[simp] theorem State.setLane_store (s : State) (l : Nat) (v : LaneSt) : (s.setLane l v).store = s.store := (rfl)
@[simp] theorem State.setLane_fuse (s : State) (l : Nat) (v : LaneSt) : (s.setLane l v).fuse = s.fuse := (rfl)
@[simp] theorem State.setLane_pwr (s : State) (l : Nat) (v : LaneSt) : (s.setLane l v).pwr = s.pwr := (rfl)
@[simp] theorem State.setLane_rst (s : State) (l : Nat) (v : LaneSt) : (s.setLane l v).rst = s.rst := (rfl)
@[simp] theorem State.setLane_arcs (s : State) (l : Nat) (v : LaneSt) : (s.setLane l v).arcs = s.arcs := (rfl)
@[simp] theorem State.setLane_net (s : State) (l : Nat) (v : LaneSt) : (s.setLane l v).net = s.net := (rfl)
@[simp] theorem State.setLane_railInj (s : State) (l : Nat) (v : LaneSt) : (s.setLane l v).railInj = s.railInj := (rfl)
@[simp] theorem State.setLane_refAbsent (s : State) (l : Nat) (v : LaneSt) : (s.setLane l v).refAbsent = s.refAbsent := (rfl)
@[simp] theorem State.setLane_zones (s : State) (l : Nat) (v : LaneSt) : (s.setLane l v).zones = s.zones := (rfl)
@[simp] theorem State.setLane_frz (s : State) (l : Nat) (v : LaneSt) : (s.setLane l v).frz = s.frz := (rfl)
@[simp] theorem State.setLane_host (s : State) (l : Nat) (v : LaneSt) : (s.setLane l v).host = s.host := (rfl)
@[simp] theorem State.setLane_module (s : State) (l : Nat) (v : LaneSt) : (s.setLane l v).module = s.module := (rfl)
@[simp] theorem State.setLane_jtag (s : State) (l : Nat) (v : LaneSt) : (s.setLane l v).jtag = s.jtag := (rfl)
@[simp] theorem State.setLane_fifos (s : State) (l : Nat) (v : LaneSt) : (s.setLane l v).fifos = s.fifos := (rfl)
@[simp] theorem State.setLane_lossy (s : State) (l : Nat) (v : LaneSt) : (s.setLane l v).lossy = s.lossy := (rfl)
@[simp] theorem State.setLane_detected (s : State) (l : Nat) (v : LaneSt) : (s.setLane l v).detected = s.detected := (rfl)
@[simp] theorem State.setLane_lastRead (s : State) (l : Nat) (v : LaneSt) : (s.setLane l v).lastRead = s.lastRead := (rfl)
@[simp] theorem State.setLane_free (s : State) (l : Nat) (v : LaneSt) : (s.setLane l v).free = s.free := (rfl)
@[simp] theorem State.setLane_pending (s : State) (l : Nat) (v : LaneSt) : (s.setLane l v).pending = s.pending := (rfl)

/-! ### State.setLf -/

@[simp] theorem State.setLf_rwq (s : State) (l : Nat) (f : Fld) (v : Nat) : (s.setLf l f v).rwq = s.rwq := (rfl)
@[simp] theorem State.setLf_mem (s : State) (l : Nat) (f : Fld) (v : Nat) : (s.setLf l f v).mem = s.mem := (rfl)
@[simp] theorem State.setLf_mode (s : State) (l : Nat) (f : Fld) (v : Nat) : (s.setLf l f v).mode = s.mode := (rfl)
@[simp] theorem State.setLf_time (s : State) (l : Nat) (f : Fld) (v : Nat) : (s.setLf l f v).time = s.time := (rfl)
@[simp] theorem State.setLf_guns (s : State) (l : Nat) (f : Fld) (v : Nat) : (s.setLf l f v).guns = s.guns := (rfl)
@[simp] theorem State.setLf_fab (s : State) (l : Nat) (f : Fld) (v : Nat) : (s.setLf l f v).fab = s.fab := (rfl)
@[simp] theorem State.setLf_memErr (s : State) (l : Nat) (f : Fld) (v : Nat) : (s.setLf l f v).memErr = s.memErr := (rfl)
@[simp] theorem State.setLf_queues (s : State) (l : Nat) (f : Fld) (v : Nat) : (s.setLf l f v).queues = s.queues := (rfl)
@[simp] theorem State.setLf_tiles (s : State) (l : Nat) (f : Fld) (v : Nat) : (s.setLf l f v).tiles = s.tiles := (rfl)
@[simp] theorem State.setLf_resps (s : State) (l : Nat) (f : Fld) (v : Nat) : (s.setLf l f v).resps = s.resps := (rfl)
@[simp] theorem State.setLf_mems (s : State) (l : Nat) (f : Fld) (v : Nat) : (s.setLf l f v).mems = s.mems := (rfl)
@[simp] theorem State.setLf_procs (s : State) (l : Nat) (f : Fld) (v : Nat) : (s.setLf l f v).procs = s.procs := (rfl)
@[simp] theorem State.setLf_imemPar (s : State) (l : Nat) (f : Fld) (v : Nat) : (s.setLf l f v).imemPar = s.imemPar := (rfl)
@[simp] theorem State.setLf_trc (s : State) (l : Nat) (f : Fld) (v : Nat) : (s.setLf l f v).trc = s.trc := (rfl)
@[simp] theorem State.setLf_lanes (s : State) (l : Nat) (f : Fld) (v : Nat) : (s.setLf l f v).lanes = s.lanes := (rfl)
@[simp] theorem State.setLf_trigs (s : State) (l : Nat) (f : Fld) (v : Nat) : (s.setLf l f v).trigs = s.trigs := (rfl)
@[simp] theorem State.setLf_heats (s : State) (l : Nat) (f : Fld) (v : Nat) : (s.setLf l f v).heats = s.heats := (rfl)
@[simp] theorem State.setLf_ret (s : State) (l : Nat) (f : Fld) (v : Nat) : (s.setLf l f v).ret = s.ret := (rfl)
@[simp] theorem State.setLf_load (s : State) (l : Nat) (f : Fld) (v : Nat) : (s.setLf l f v).load = s.load := (rfl)
@[simp] theorem State.setLf_store (s : State) (l : Nat) (f : Fld) (v : Nat) : (s.setLf l f v).store = s.store := (rfl)
@[simp] theorem State.setLf_fuse (s : State) (l : Nat) (f : Fld) (v : Nat) : (s.setLf l f v).fuse = s.fuse := (rfl)
@[simp] theorem State.setLf_pwr (s : State) (l : Nat) (f : Fld) (v : Nat) : (s.setLf l f v).pwr = s.pwr := (rfl)
@[simp] theorem State.setLf_rst (s : State) (l : Nat) (f : Fld) (v : Nat) : (s.setLf l f v).rst = s.rst := (rfl)
@[simp] theorem State.setLf_arcs (s : State) (l : Nat) (f : Fld) (v : Nat) : (s.setLf l f v).arcs = s.arcs := (rfl)
@[simp] theorem State.setLf_net (s : State) (l : Nat) (f : Fld) (v : Nat) : (s.setLf l f v).net = s.net := (rfl)
@[simp] theorem State.setLf_railInj (s : State) (l : Nat) (f : Fld) (v : Nat) : (s.setLf l f v).railInj = s.railInj := (rfl)
@[simp] theorem State.setLf_refAbsent (s : State) (l : Nat) (f : Fld) (v : Nat) : (s.setLf l f v).refAbsent = s.refAbsent := (rfl)
@[simp] theorem State.setLf_zones (s : State) (l : Nat) (f : Fld) (v : Nat) : (s.setLf l f v).zones = s.zones := (rfl)
@[simp] theorem State.setLf_frz (s : State) (l : Nat) (f : Fld) (v : Nat) : (s.setLf l f v).frz = s.frz := (rfl)
@[simp] theorem State.setLf_host (s : State) (l : Nat) (f : Fld) (v : Nat) : (s.setLf l f v).host = s.host := (rfl)
@[simp] theorem State.setLf_module (s : State) (l : Nat) (f : Fld) (v : Nat) : (s.setLf l f v).module = s.module := (rfl)
@[simp] theorem State.setLf_jtag (s : State) (l : Nat) (f : Fld) (v : Nat) : (s.setLf l f v).jtag = s.jtag := (rfl)
@[simp] theorem State.setLf_fifos (s : State) (l : Nat) (f : Fld) (v : Nat) : (s.setLf l f v).fifos = s.fifos := (rfl)
@[simp] theorem State.setLf_lossy (s : State) (l : Nat) (f : Fld) (v : Nat) : (s.setLf l f v).lossy = s.lossy := (rfl)
@[simp] theorem State.setLf_detected (s : State) (l : Nat) (f : Fld) (v : Nat) : (s.setLf l f v).detected = s.detected := (rfl)
@[simp] theorem State.setLf_lastRead (s : State) (l : Nat) (f : Fld) (v : Nat) : (s.setLf l f v).lastRead = s.lastRead := (rfl)
@[simp] theorem State.setLf_free (s : State) (l : Nat) (f : Fld) (v : Nat) : (s.setLf l f v).free = s.free := (rfl)
@[simp] theorem State.setLf_pending (s : State) (l : Nat) (f : Fld) (v : Nat) : (s.setLf l f v).pending = s.pending := (rfl)

/-! ### State.setCh -/

@[simp] theorem State.setCh_regs (s : State) (r c : Nat) (v : HeatCh) : (s.setCh r c v).regs = s.regs := (rfl)
@[simp] theorem State.setCh_rwq (s : State) (r c : Nat) (v : HeatCh) : (s.setCh r c v).rwq = s.rwq := (rfl)
@[simp] theorem State.setCh_mem (s : State) (r c : Nat) (v : HeatCh) : (s.setCh r c v).mem = s.mem := (rfl)
@[simp] theorem State.setCh_mode (s : State) (r c : Nat) (v : HeatCh) : (s.setCh r c v).mode = s.mode := (rfl)
@[simp] theorem State.setCh_time (s : State) (r c : Nat) (v : HeatCh) : (s.setCh r c v).time = s.time := (rfl)
@[simp] theorem State.setCh_guns (s : State) (r c : Nat) (v : HeatCh) : (s.setCh r c v).guns = s.guns := (rfl)
@[simp] theorem State.setCh_fab (s : State) (r c : Nat) (v : HeatCh) : (s.setCh r c v).fab = s.fab := (rfl)
@[simp] theorem State.setCh_memErr (s : State) (r c : Nat) (v : HeatCh) : (s.setCh r c v).memErr = s.memErr := (rfl)
@[simp] theorem State.setCh_queues (s : State) (r c : Nat) (v : HeatCh) : (s.setCh r c v).queues = s.queues := (rfl)
@[simp] theorem State.setCh_tiles (s : State) (r c : Nat) (v : HeatCh) : (s.setCh r c v).tiles = s.tiles := (rfl)
@[simp] theorem State.setCh_resps (s : State) (r c : Nat) (v : HeatCh) : (s.setCh r c v).resps = s.resps := (rfl)
@[simp] theorem State.setCh_mems (s : State) (r c : Nat) (v : HeatCh) : (s.setCh r c v).mems = s.mems := (rfl)
@[simp] theorem State.setCh_procs (s : State) (r c : Nat) (v : HeatCh) : (s.setCh r c v).procs = s.procs := (rfl)
@[simp] theorem State.setCh_imemPar (s : State) (r c : Nat) (v : HeatCh) : (s.setCh r c v).imemPar = s.imemPar := (rfl)
@[simp] theorem State.setCh_trc (s : State) (r c : Nat) (v : HeatCh) : (s.setCh r c v).trc = s.trc := (rfl)
@[simp] theorem State.setCh_lanes (s : State) (r c : Nat) (v : HeatCh) : (s.setCh r c v).lanes = s.lanes := (rfl)
@[simp] theorem State.setCh_trigs (s : State) (r c : Nat) (v : HeatCh) : (s.setCh r c v).trigs = s.trigs := (rfl)
@[simp] theorem State.setCh_ret (s : State) (r c : Nat) (v : HeatCh) : (s.setCh r c v).ret = s.ret := (rfl)
@[simp] theorem State.setCh_load (s : State) (r c : Nat) (v : HeatCh) : (s.setCh r c v).load = s.load := (rfl)
@[simp] theorem State.setCh_store (s : State) (r c : Nat) (v : HeatCh) : (s.setCh r c v).store = s.store := (rfl)
@[simp] theorem State.setCh_fuse (s : State) (r c : Nat) (v : HeatCh) : (s.setCh r c v).fuse = s.fuse := (rfl)
@[simp] theorem State.setCh_pwr (s : State) (r c : Nat) (v : HeatCh) : (s.setCh r c v).pwr = s.pwr := (rfl)
@[simp] theorem State.setCh_rst (s : State) (r c : Nat) (v : HeatCh) : (s.setCh r c v).rst = s.rst := (rfl)
@[simp] theorem State.setCh_arcs (s : State) (r c : Nat) (v : HeatCh) : (s.setCh r c v).arcs = s.arcs := (rfl)
@[simp] theorem State.setCh_net (s : State) (r c : Nat) (v : HeatCh) : (s.setCh r c v).net = s.net := (rfl)
@[simp] theorem State.setCh_railInj (s : State) (r c : Nat) (v : HeatCh) : (s.setCh r c v).railInj = s.railInj := (rfl)
@[simp] theorem State.setCh_refAbsent (s : State) (r c : Nat) (v : HeatCh) : (s.setCh r c v).refAbsent = s.refAbsent := (rfl)
@[simp] theorem State.setCh_zones (s : State) (r c : Nat) (v : HeatCh) : (s.setCh r c v).zones = s.zones := (rfl)
@[simp] theorem State.setCh_frz (s : State) (r c : Nat) (v : HeatCh) : (s.setCh r c v).frz = s.frz := (rfl)
@[simp] theorem State.setCh_host (s : State) (r c : Nat) (v : HeatCh) : (s.setCh r c v).host = s.host := (rfl)
@[simp] theorem State.setCh_module (s : State) (r c : Nat) (v : HeatCh) : (s.setCh r c v).module = s.module := (rfl)
@[simp] theorem State.setCh_jtag (s : State) (r c : Nat) (v : HeatCh) : (s.setCh r c v).jtag = s.jtag := (rfl)
@[simp] theorem State.setCh_fifos (s : State) (r c : Nat) (v : HeatCh) : (s.setCh r c v).fifos = s.fifos := (rfl)
@[simp] theorem State.setCh_lossy (s : State) (r c : Nat) (v : HeatCh) : (s.setCh r c v).lossy = s.lossy := (rfl)
@[simp] theorem State.setCh_detected (s : State) (r c : Nat) (v : HeatCh) : (s.setCh r c v).detected = s.detected := (rfl)
@[simp] theorem State.setCh_lastRead (s : State) (r c : Nat) (v : HeatCh) : (s.setCh r c v).lastRead = s.lastRead := (rfl)
@[simp] theorem State.setCh_free (s : State) (r c : Nat) (v : HeatCh) : (s.setCh r c v).free = s.free := (rfl)
@[simp] theorem State.setCh_pending (s : State) (r c : Nat) (v : HeatCh) : (s.setCh r c v).pending = s.pending := (rfl)

/-! ### State.setMemSt -/

@[simp] theorem State.setMemSt_regs (s : State) (r : Nat) (m : MemSt) : (s.setMemSt r m).regs = s.regs := (rfl)
@[simp] theorem State.setMemSt_rwq (s : State) (r : Nat) (m : MemSt) : (s.setMemSt r m).rwq = s.rwq := (rfl)
@[simp] theorem State.setMemSt_mem (s : State) (r : Nat) (m : MemSt) : (s.setMemSt r m).mem = s.mem := (rfl)
@[simp] theorem State.setMemSt_mode (s : State) (r : Nat) (m : MemSt) : (s.setMemSt r m).mode = s.mode := (rfl)
@[simp] theorem State.setMemSt_time (s : State) (r : Nat) (m : MemSt) : (s.setMemSt r m).time = s.time := (rfl)
@[simp] theorem State.setMemSt_guns (s : State) (r : Nat) (m : MemSt) : (s.setMemSt r m).guns = s.guns := (rfl)
@[simp] theorem State.setMemSt_fab (s : State) (r : Nat) (m : MemSt) : (s.setMemSt r m).fab = s.fab := (rfl)
@[simp] theorem State.setMemSt_memErr (s : State) (r : Nat) (m : MemSt) : (s.setMemSt r m).memErr = s.memErr := (rfl)
@[simp] theorem State.setMemSt_queues (s : State) (r : Nat) (m : MemSt) : (s.setMemSt r m).queues = s.queues := (rfl)
@[simp] theorem State.setMemSt_tiles (s : State) (r : Nat) (m : MemSt) : (s.setMemSt r m).tiles = s.tiles := (rfl)
@[simp] theorem State.setMemSt_resps (s : State) (r : Nat) (m : MemSt) : (s.setMemSt r m).resps = s.resps := (rfl)
@[simp] theorem State.setMemSt_procs (s : State) (r : Nat) (m : MemSt) : (s.setMemSt r m).procs = s.procs := (rfl)
@[simp] theorem State.setMemSt_imemPar (s : State) (r : Nat) (m : MemSt) : (s.setMemSt r m).imemPar = s.imemPar := (rfl)
@[simp] theorem State.setMemSt_trc (s : State) (r : Nat) (m : MemSt) : (s.setMemSt r m).trc = s.trc := (rfl)
@[simp] theorem State.setMemSt_lanes (s : State) (r : Nat) (m : MemSt) : (s.setMemSt r m).lanes = s.lanes := (rfl)
@[simp] theorem State.setMemSt_trigs (s : State) (r : Nat) (m : MemSt) : (s.setMemSt r m).trigs = s.trigs := (rfl)
@[simp] theorem State.setMemSt_heats (s : State) (r : Nat) (m : MemSt) : (s.setMemSt r m).heats = s.heats := (rfl)
@[simp] theorem State.setMemSt_ret (s : State) (r : Nat) (m : MemSt) : (s.setMemSt r m).ret = s.ret := (rfl)
@[simp] theorem State.setMemSt_load (s : State) (r : Nat) (m : MemSt) : (s.setMemSt r m).load = s.load := (rfl)
@[simp] theorem State.setMemSt_store (s : State) (r : Nat) (m : MemSt) : (s.setMemSt r m).store = s.store := (rfl)
@[simp] theorem State.setMemSt_fuse (s : State) (r : Nat) (m : MemSt) : (s.setMemSt r m).fuse = s.fuse := (rfl)
@[simp] theorem State.setMemSt_pwr (s : State) (r : Nat) (m : MemSt) : (s.setMemSt r m).pwr = s.pwr := (rfl)
@[simp] theorem State.setMemSt_rst (s : State) (r : Nat) (m : MemSt) : (s.setMemSt r m).rst = s.rst := (rfl)
@[simp] theorem State.setMemSt_arcs (s : State) (r : Nat) (m : MemSt) : (s.setMemSt r m).arcs = s.arcs := (rfl)
@[simp] theorem State.setMemSt_net (s : State) (r : Nat) (m : MemSt) : (s.setMemSt r m).net = s.net := (rfl)
@[simp] theorem State.setMemSt_railInj (s : State) (r : Nat) (m : MemSt) : (s.setMemSt r m).railInj = s.railInj := (rfl)
@[simp] theorem State.setMemSt_refAbsent (s : State) (r : Nat) (m : MemSt) : (s.setMemSt r m).refAbsent = s.refAbsent := (rfl)
@[simp] theorem State.setMemSt_zones (s : State) (r : Nat) (m : MemSt) : (s.setMemSt r m).zones = s.zones := (rfl)
@[simp] theorem State.setMemSt_frz (s : State) (r : Nat) (m : MemSt) : (s.setMemSt r m).frz = s.frz := (rfl)
@[simp] theorem State.setMemSt_host (s : State) (r : Nat) (m : MemSt) : (s.setMemSt r m).host = s.host := (rfl)
@[simp] theorem State.setMemSt_module (s : State) (r : Nat) (m : MemSt) : (s.setMemSt r m).module = s.module := (rfl)
@[simp] theorem State.setMemSt_jtag (s : State) (r : Nat) (m : MemSt) : (s.setMemSt r m).jtag = s.jtag := (rfl)
@[simp] theorem State.setMemSt_fifos (s : State) (r : Nat) (m : MemSt) : (s.setMemSt r m).fifos = s.fifos := (rfl)
@[simp] theorem State.setMemSt_lossy (s : State) (r : Nat) (m : MemSt) : (s.setMemSt r m).lossy = s.lossy := (rfl)
@[simp] theorem State.setMemSt_detected (s : State) (r : Nat) (m : MemSt) : (s.setMemSt r m).detected = s.detected := (rfl)
@[simp] theorem State.setMemSt_lastRead (s : State) (r : Nat) (m : MemSt) : (s.setMemSt r m).lastRead = s.lastRead := (rfl)
@[simp] theorem State.setMemSt_free (s : State) (r : Nat) (m : MemSt) : (s.setMemSt r m).free = s.free := (rfl)
@[simp] theorem State.setMemSt_pending (s : State) (r : Nat) (m : MemSt) : (s.setMemSt r m).pending = s.pending := (rfl)

/-! ### State.setTrcUnit -/

@[simp] theorem State.setTrcUnit_regs (s : State) (r : Nat) (u : TrcUnit) : (s.setTrcUnit r u).regs = s.regs := (rfl)
@[simp] theorem State.setTrcUnit_rwq (s : State) (r : Nat) (u : TrcUnit) : (s.setTrcUnit r u).rwq = s.rwq := (rfl)
@[simp] theorem State.setTrcUnit_mem (s : State) (r : Nat) (u : TrcUnit) : (s.setTrcUnit r u).mem = s.mem := (rfl)
@[simp] theorem State.setTrcUnit_mode (s : State) (r : Nat) (u : TrcUnit) : (s.setTrcUnit r u).mode = s.mode := (rfl)
@[simp] theorem State.setTrcUnit_time (s : State) (r : Nat) (u : TrcUnit) : (s.setTrcUnit r u).time = s.time := (rfl)
@[simp] theorem State.setTrcUnit_guns (s : State) (r : Nat) (u : TrcUnit) : (s.setTrcUnit r u).guns = s.guns := (rfl)
@[simp] theorem State.setTrcUnit_fab (s : State) (r : Nat) (u : TrcUnit) : (s.setTrcUnit r u).fab = s.fab := (rfl)
@[simp] theorem State.setTrcUnit_memErr (s : State) (r : Nat) (u : TrcUnit) : (s.setTrcUnit r u).memErr = s.memErr := (rfl)
@[simp] theorem State.setTrcUnit_queues (s : State) (r : Nat) (u : TrcUnit) : (s.setTrcUnit r u).queues = s.queues := (rfl)
@[simp] theorem State.setTrcUnit_tiles (s : State) (r : Nat) (u : TrcUnit) : (s.setTrcUnit r u).tiles = s.tiles := (rfl)
@[simp] theorem State.setTrcUnit_resps (s : State) (r : Nat) (u : TrcUnit) : (s.setTrcUnit r u).resps = s.resps := (rfl)
@[simp] theorem State.setTrcUnit_mems (s : State) (r : Nat) (u : TrcUnit) : (s.setTrcUnit r u).mems = s.mems := (rfl)
@[simp] theorem State.setTrcUnit_procs (s : State) (r : Nat) (u : TrcUnit) : (s.setTrcUnit r u).procs = s.procs := (rfl)
@[simp] theorem State.setTrcUnit_imemPar (s : State) (r : Nat) (u : TrcUnit) : (s.setTrcUnit r u).imemPar = s.imemPar := (rfl)
@[simp] theorem State.setTrcUnit_lanes (s : State) (r : Nat) (u : TrcUnit) : (s.setTrcUnit r u).lanes = s.lanes := (rfl)
@[simp] theorem State.setTrcUnit_trigs (s : State) (r : Nat) (u : TrcUnit) : (s.setTrcUnit r u).trigs = s.trigs := (rfl)
@[simp] theorem State.setTrcUnit_heats (s : State) (r : Nat) (u : TrcUnit) : (s.setTrcUnit r u).heats = s.heats := (rfl)
@[simp] theorem State.setTrcUnit_ret (s : State) (r : Nat) (u : TrcUnit) : (s.setTrcUnit r u).ret = s.ret := (rfl)
@[simp] theorem State.setTrcUnit_load (s : State) (r : Nat) (u : TrcUnit) : (s.setTrcUnit r u).load = s.load := (rfl)
@[simp] theorem State.setTrcUnit_store (s : State) (r : Nat) (u : TrcUnit) : (s.setTrcUnit r u).store = s.store := (rfl)
@[simp] theorem State.setTrcUnit_fuse (s : State) (r : Nat) (u : TrcUnit) : (s.setTrcUnit r u).fuse = s.fuse := (rfl)
@[simp] theorem State.setTrcUnit_pwr (s : State) (r : Nat) (u : TrcUnit) : (s.setTrcUnit r u).pwr = s.pwr := (rfl)
@[simp] theorem State.setTrcUnit_rst (s : State) (r : Nat) (u : TrcUnit) : (s.setTrcUnit r u).rst = s.rst := (rfl)
@[simp] theorem State.setTrcUnit_arcs (s : State) (r : Nat) (u : TrcUnit) : (s.setTrcUnit r u).arcs = s.arcs := (rfl)
@[simp] theorem State.setTrcUnit_net (s : State) (r : Nat) (u : TrcUnit) : (s.setTrcUnit r u).net = s.net := (rfl)
@[simp] theorem State.setTrcUnit_railInj (s : State) (r : Nat) (u : TrcUnit) : (s.setTrcUnit r u).railInj = s.railInj := (rfl)
@[simp] theorem State.setTrcUnit_refAbsent (s : State) (r : Nat) (u : TrcUnit) : (s.setTrcUnit r u).refAbsent = s.refAbsent := (rfl)
@[simp] theorem State.setTrcUnit_zones (s : State) (r : Nat) (u : TrcUnit) : (s.setTrcUnit r u).zones = s.zones := (rfl)
@[simp] theorem State.setTrcUnit_frz (s : State) (r : Nat) (u : TrcUnit) : (s.setTrcUnit r u).frz = s.frz := (rfl)
@[simp] theorem State.setTrcUnit_host (s : State) (r : Nat) (u : TrcUnit) : (s.setTrcUnit r u).host = s.host := (rfl)
@[simp] theorem State.setTrcUnit_module (s : State) (r : Nat) (u : TrcUnit) : (s.setTrcUnit r u).module = s.module := (rfl)
@[simp] theorem State.setTrcUnit_jtag (s : State) (r : Nat) (u : TrcUnit) : (s.setTrcUnit r u).jtag = s.jtag := (rfl)
@[simp] theorem State.setTrcUnit_fifos (s : State) (r : Nat) (u : TrcUnit) : (s.setTrcUnit r u).fifos = s.fifos := (rfl)
@[simp] theorem State.setTrcUnit_lossy (s : State) (r : Nat) (u : TrcUnit) : (s.setTrcUnit r u).lossy = s.lossy := (rfl)
@[simp] theorem State.setTrcUnit_detected (s : State) (r : Nat) (u : TrcUnit) : (s.setTrcUnit r u).detected = s.detected := (rfl)
@[simp] theorem State.setTrcUnit_lastRead (s : State) (r : Nat) (u : TrcUnit) : (s.setTrcUnit r u).lastRead = s.lastRead := (rfl)
@[simp] theorem State.setTrcUnit_free (s : State) (r : Nat) (u : TrcUnit) : (s.setTrcUnit r u).free = s.free := (rfl)
@[simp] theorem State.setTrcUnit_pending (s : State) (r : Nat) (u : TrcUnit) : (s.setTrcUnit r u).pending = s.pending := (rfl)

/-! ### State.setTrig -/

@[simp] theorem State.setTrig_regs (s : State) (r : Nat) (v : TrigSt) : (s.setTrig r v).regs = s.regs := (rfl)
@[simp] theorem State.setTrig_rwq (s : State) (r : Nat) (v : TrigSt) : (s.setTrig r v).rwq = s.rwq := (rfl)
@[simp] theorem State.setTrig_mem (s : State) (r : Nat) (v : TrigSt) : (s.setTrig r v).mem = s.mem := (rfl)
@[simp] theorem State.setTrig_mode (s : State) (r : Nat) (v : TrigSt) : (s.setTrig r v).mode = s.mode := (rfl)
@[simp] theorem State.setTrig_time (s : State) (r : Nat) (v : TrigSt) : (s.setTrig r v).time = s.time := (rfl)
@[simp] theorem State.setTrig_guns (s : State) (r : Nat) (v : TrigSt) : (s.setTrig r v).guns = s.guns := (rfl)
@[simp] theorem State.setTrig_fab (s : State) (r : Nat) (v : TrigSt) : (s.setTrig r v).fab = s.fab := (rfl)
@[simp] theorem State.setTrig_memErr (s : State) (r : Nat) (v : TrigSt) : (s.setTrig r v).memErr = s.memErr := (rfl)
@[simp] theorem State.setTrig_queues (s : State) (r : Nat) (v : TrigSt) : (s.setTrig r v).queues = s.queues := (rfl)
@[simp] theorem State.setTrig_tiles (s : State) (r : Nat) (v : TrigSt) : (s.setTrig r v).tiles = s.tiles := (rfl)
@[simp] theorem State.setTrig_resps (s : State) (r : Nat) (v : TrigSt) : (s.setTrig r v).resps = s.resps := (rfl)
@[simp] theorem State.setTrig_mems (s : State) (r : Nat) (v : TrigSt) : (s.setTrig r v).mems = s.mems := (rfl)
@[simp] theorem State.setTrig_procs (s : State) (r : Nat) (v : TrigSt) : (s.setTrig r v).procs = s.procs := (rfl)
@[simp] theorem State.setTrig_imemPar (s : State) (r : Nat) (v : TrigSt) : (s.setTrig r v).imemPar = s.imemPar := (rfl)
@[simp] theorem State.setTrig_trc (s : State) (r : Nat) (v : TrigSt) : (s.setTrig r v).trc = s.trc := (rfl)
@[simp] theorem State.setTrig_lanes (s : State) (r : Nat) (v : TrigSt) : (s.setTrig r v).lanes = s.lanes := (rfl)
@[simp] theorem State.setTrig_heats (s : State) (r : Nat) (v : TrigSt) : (s.setTrig r v).heats = s.heats := (rfl)
@[simp] theorem State.setTrig_ret (s : State) (r : Nat) (v : TrigSt) : (s.setTrig r v).ret = s.ret := (rfl)
@[simp] theorem State.setTrig_load (s : State) (r : Nat) (v : TrigSt) : (s.setTrig r v).load = s.load := (rfl)
@[simp] theorem State.setTrig_store (s : State) (r : Nat) (v : TrigSt) : (s.setTrig r v).store = s.store := (rfl)
@[simp] theorem State.setTrig_fuse (s : State) (r : Nat) (v : TrigSt) : (s.setTrig r v).fuse = s.fuse := (rfl)
@[simp] theorem State.setTrig_pwr (s : State) (r : Nat) (v : TrigSt) : (s.setTrig r v).pwr = s.pwr := (rfl)
@[simp] theorem State.setTrig_rst (s : State) (r : Nat) (v : TrigSt) : (s.setTrig r v).rst = s.rst := (rfl)
@[simp] theorem State.setTrig_arcs (s : State) (r : Nat) (v : TrigSt) : (s.setTrig r v).arcs = s.arcs := (rfl)
@[simp] theorem State.setTrig_net (s : State) (r : Nat) (v : TrigSt) : (s.setTrig r v).net = s.net := (rfl)
@[simp] theorem State.setTrig_railInj (s : State) (r : Nat) (v : TrigSt) : (s.setTrig r v).railInj = s.railInj := (rfl)
@[simp] theorem State.setTrig_refAbsent (s : State) (r : Nat) (v : TrigSt) : (s.setTrig r v).refAbsent = s.refAbsent := (rfl)
@[simp] theorem State.setTrig_zones (s : State) (r : Nat) (v : TrigSt) : (s.setTrig r v).zones = s.zones := (rfl)
@[simp] theorem State.setTrig_frz (s : State) (r : Nat) (v : TrigSt) : (s.setTrig r v).frz = s.frz := (rfl)
@[simp] theorem State.setTrig_host (s : State) (r : Nat) (v : TrigSt) : (s.setTrig r v).host = s.host := (rfl)
@[simp] theorem State.setTrig_module (s : State) (r : Nat) (v : TrigSt) : (s.setTrig r v).module = s.module := (rfl)
@[simp] theorem State.setTrig_jtag (s : State) (r : Nat) (v : TrigSt) : (s.setTrig r v).jtag = s.jtag := (rfl)
@[simp] theorem State.setTrig_fifos (s : State) (r : Nat) (v : TrigSt) : (s.setTrig r v).fifos = s.fifos := (rfl)
@[simp] theorem State.setTrig_lossy (s : State) (r : Nat) (v : TrigSt) : (s.setTrig r v).lossy = s.lossy := (rfl)
@[simp] theorem State.setTrig_detected (s : State) (r : Nat) (v : TrigSt) : (s.setTrig r v).detected = s.detected := (rfl)
@[simp] theorem State.setTrig_lastRead (s : State) (r : Nat) (v : TrigSt) : (s.setTrig r v).lastRead = s.lastRead := (rfl)
@[simp] theorem State.setTrig_free (s : State) (r : Nat) (v : TrigSt) : (s.setTrig r v).free = s.free := (rfl)
@[simp] theorem State.setTrig_pending (s : State) (r : Nat) (v : TrigSt) : (s.setTrig r v).pending = s.pending := (rfl)

/-! ### State.setArc -/

@[simp] theorem State.setArc_regs (s : State) (r : Nat) (v : ArcSt) : (s.setArc r v).regs = s.regs := (rfl)
@[simp] theorem State.setArc_rwq (s : State) (r : Nat) (v : ArcSt) : (s.setArc r v).rwq = s.rwq := (rfl)
@[simp] theorem State.setArc_mem (s : State) (r : Nat) (v : ArcSt) : (s.setArc r v).mem = s.mem := (rfl)
@[simp] theorem State.setArc_mode (s : State) (r : Nat) (v : ArcSt) : (s.setArc r v).mode = s.mode := (rfl)
@[simp] theorem State.setArc_time (s : State) (r : Nat) (v : ArcSt) : (s.setArc r v).time = s.time := (rfl)
@[simp] theorem State.setArc_guns (s : State) (r : Nat) (v : ArcSt) : (s.setArc r v).guns = s.guns := (rfl)
@[simp] theorem State.setArc_fab (s : State) (r : Nat) (v : ArcSt) : (s.setArc r v).fab = s.fab := (rfl)
@[simp] theorem State.setArc_memErr (s : State) (r : Nat) (v : ArcSt) : (s.setArc r v).memErr = s.memErr := (rfl)
@[simp] theorem State.setArc_queues (s : State) (r : Nat) (v : ArcSt) : (s.setArc r v).queues = s.queues := (rfl)
@[simp] theorem State.setArc_tiles (s : State) (r : Nat) (v : ArcSt) : (s.setArc r v).tiles = s.tiles := (rfl)
@[simp] theorem State.setArc_resps (s : State) (r : Nat) (v : ArcSt) : (s.setArc r v).resps = s.resps := (rfl)
@[simp] theorem State.setArc_mems (s : State) (r : Nat) (v : ArcSt) : (s.setArc r v).mems = s.mems := (rfl)
@[simp] theorem State.setArc_procs (s : State) (r : Nat) (v : ArcSt) : (s.setArc r v).procs = s.procs := (rfl)
@[simp] theorem State.setArc_imemPar (s : State) (r : Nat) (v : ArcSt) : (s.setArc r v).imemPar = s.imemPar := (rfl)
@[simp] theorem State.setArc_trc (s : State) (r : Nat) (v : ArcSt) : (s.setArc r v).trc = s.trc := (rfl)
@[simp] theorem State.setArc_lanes (s : State) (r : Nat) (v : ArcSt) : (s.setArc r v).lanes = s.lanes := (rfl)
@[simp] theorem State.setArc_trigs (s : State) (r : Nat) (v : ArcSt) : (s.setArc r v).trigs = s.trigs := (rfl)
@[simp] theorem State.setArc_heats (s : State) (r : Nat) (v : ArcSt) : (s.setArc r v).heats = s.heats := (rfl)
@[simp] theorem State.setArc_ret (s : State) (r : Nat) (v : ArcSt) : (s.setArc r v).ret = s.ret := (rfl)
@[simp] theorem State.setArc_load (s : State) (r : Nat) (v : ArcSt) : (s.setArc r v).load = s.load := (rfl)
@[simp] theorem State.setArc_store (s : State) (r : Nat) (v : ArcSt) : (s.setArc r v).store = s.store := (rfl)
@[simp] theorem State.setArc_fuse (s : State) (r : Nat) (v : ArcSt) : (s.setArc r v).fuse = s.fuse := (rfl)
@[simp] theorem State.setArc_pwr (s : State) (r : Nat) (v : ArcSt) : (s.setArc r v).pwr = s.pwr := (rfl)
@[simp] theorem State.setArc_rst (s : State) (r : Nat) (v : ArcSt) : (s.setArc r v).rst = s.rst := (rfl)
@[simp] theorem State.setArc_net (s : State) (r : Nat) (v : ArcSt) : (s.setArc r v).net = s.net := (rfl)
@[simp] theorem State.setArc_railInj (s : State) (r : Nat) (v : ArcSt) : (s.setArc r v).railInj = s.railInj := (rfl)
@[simp] theorem State.setArc_refAbsent (s : State) (r : Nat) (v : ArcSt) : (s.setArc r v).refAbsent = s.refAbsent := (rfl)
@[simp] theorem State.setArc_zones (s : State) (r : Nat) (v : ArcSt) : (s.setArc r v).zones = s.zones := (rfl)
@[simp] theorem State.setArc_frz (s : State) (r : Nat) (v : ArcSt) : (s.setArc r v).frz = s.frz := (rfl)
@[simp] theorem State.setArc_host (s : State) (r : Nat) (v : ArcSt) : (s.setArc r v).host = s.host := (rfl)
@[simp] theorem State.setArc_module (s : State) (r : Nat) (v : ArcSt) : (s.setArc r v).module = s.module := (rfl)
@[simp] theorem State.setArc_jtag (s : State) (r : Nat) (v : ArcSt) : (s.setArc r v).jtag = s.jtag := (rfl)
@[simp] theorem State.setArc_fifos (s : State) (r : Nat) (v : ArcSt) : (s.setArc r v).fifos = s.fifos := (rfl)
@[simp] theorem State.setArc_lossy (s : State) (r : Nat) (v : ArcSt) : (s.setArc r v).lossy = s.lossy := (rfl)
@[simp] theorem State.setArc_detected (s : State) (r : Nat) (v : ArcSt) : (s.setArc r v).detected = s.detected := (rfl)
@[simp] theorem State.setArc_lastRead (s : State) (r : Nat) (v : ArcSt) : (s.setArc r v).lastRead = s.lastRead := (rfl)
@[simp] theorem State.setArc_free (s : State) (r : Nat) (v : ArcSt) : (s.setArc r v).free = s.free := (rfl)
@[simp] theorem State.setArc_pending (s : State) (r : Nat) (v : ArcSt) : (s.setArc r v).pending = s.pending := (rfl)

/-! ### State.setPw -/

@[simp] theorem State.setPw_regs (s : State) (r : Nat) (v : PwrSt) : (s.setPw r v).regs = s.regs := (rfl)
@[simp] theorem State.setPw_rwq (s : State) (r : Nat) (v : PwrSt) : (s.setPw r v).rwq = s.rwq := (rfl)
@[simp] theorem State.setPw_mem (s : State) (r : Nat) (v : PwrSt) : (s.setPw r v).mem = s.mem := (rfl)
@[simp] theorem State.setPw_mode (s : State) (r : Nat) (v : PwrSt) : (s.setPw r v).mode = s.mode := (rfl)
@[simp] theorem State.setPw_time (s : State) (r : Nat) (v : PwrSt) : (s.setPw r v).time = s.time := (rfl)
@[simp] theorem State.setPw_guns (s : State) (r : Nat) (v : PwrSt) : (s.setPw r v).guns = s.guns := (rfl)
@[simp] theorem State.setPw_fab (s : State) (r : Nat) (v : PwrSt) : (s.setPw r v).fab = s.fab := (rfl)
@[simp] theorem State.setPw_memErr (s : State) (r : Nat) (v : PwrSt) : (s.setPw r v).memErr = s.memErr := (rfl)
@[simp] theorem State.setPw_queues (s : State) (r : Nat) (v : PwrSt) : (s.setPw r v).queues = s.queues := (rfl)
@[simp] theorem State.setPw_tiles (s : State) (r : Nat) (v : PwrSt) : (s.setPw r v).tiles = s.tiles := (rfl)
@[simp] theorem State.setPw_resps (s : State) (r : Nat) (v : PwrSt) : (s.setPw r v).resps = s.resps := (rfl)
@[simp] theorem State.setPw_mems (s : State) (r : Nat) (v : PwrSt) : (s.setPw r v).mems = s.mems := (rfl)
@[simp] theorem State.setPw_procs (s : State) (r : Nat) (v : PwrSt) : (s.setPw r v).procs = s.procs := (rfl)
@[simp] theorem State.setPw_imemPar (s : State) (r : Nat) (v : PwrSt) : (s.setPw r v).imemPar = s.imemPar := (rfl)
@[simp] theorem State.setPw_trc (s : State) (r : Nat) (v : PwrSt) : (s.setPw r v).trc = s.trc := (rfl)
@[simp] theorem State.setPw_lanes (s : State) (r : Nat) (v : PwrSt) : (s.setPw r v).lanes = s.lanes := (rfl)
@[simp] theorem State.setPw_trigs (s : State) (r : Nat) (v : PwrSt) : (s.setPw r v).trigs = s.trigs := (rfl)
@[simp] theorem State.setPw_heats (s : State) (r : Nat) (v : PwrSt) : (s.setPw r v).heats = s.heats := (rfl)
@[simp] theorem State.setPw_ret (s : State) (r : Nat) (v : PwrSt) : (s.setPw r v).ret = s.ret := (rfl)
@[simp] theorem State.setPw_load (s : State) (r : Nat) (v : PwrSt) : (s.setPw r v).load = s.load := (rfl)
@[simp] theorem State.setPw_store (s : State) (r : Nat) (v : PwrSt) : (s.setPw r v).store = s.store := (rfl)
@[simp] theorem State.setPw_fuse (s : State) (r : Nat) (v : PwrSt) : (s.setPw r v).fuse = s.fuse := (rfl)
@[simp] theorem State.setPw_rst (s : State) (r : Nat) (v : PwrSt) : (s.setPw r v).rst = s.rst := (rfl)
@[simp] theorem State.setPw_arcs (s : State) (r : Nat) (v : PwrSt) : (s.setPw r v).arcs = s.arcs := (rfl)
@[simp] theorem State.setPw_net (s : State) (r : Nat) (v : PwrSt) : (s.setPw r v).net = s.net := (rfl)
@[simp] theorem State.setPw_railInj (s : State) (r : Nat) (v : PwrSt) : (s.setPw r v).railInj = s.railInj := (rfl)
@[simp] theorem State.setPw_refAbsent (s : State) (r : Nat) (v : PwrSt) : (s.setPw r v).refAbsent = s.refAbsent := (rfl)
@[simp] theorem State.setPw_zones (s : State) (r : Nat) (v : PwrSt) : (s.setPw r v).zones = s.zones := (rfl)
@[simp] theorem State.setPw_frz (s : State) (r : Nat) (v : PwrSt) : (s.setPw r v).frz = s.frz := (rfl)
@[simp] theorem State.setPw_host (s : State) (r : Nat) (v : PwrSt) : (s.setPw r v).host = s.host := (rfl)
@[simp] theorem State.setPw_module (s : State) (r : Nat) (v : PwrSt) : (s.setPw r v).module = s.module := (rfl)
@[simp] theorem State.setPw_jtag (s : State) (r : Nat) (v : PwrSt) : (s.setPw r v).jtag = s.jtag := (rfl)
@[simp] theorem State.setPw_fifos (s : State) (r : Nat) (v : PwrSt) : (s.setPw r v).fifos = s.fifos := (rfl)
@[simp] theorem State.setPw_lossy (s : State) (r : Nat) (v : PwrSt) : (s.setPw r v).lossy = s.lossy := (rfl)
@[simp] theorem State.setPw_detected (s : State) (r : Nat) (v : PwrSt) : (s.setPw r v).detected = s.detected := (rfl)
@[simp] theorem State.setPw_lastRead (s : State) (r : Nat) (v : PwrSt) : (s.setPw r v).lastRead = s.lastRead := (rfl)
@[simp] theorem State.setPw_free (s : State) (r : Nat) (v : PwrSt) : (s.setPw r v).free = s.free := (rfl)
@[simp] theorem State.setPw_pending (s : State) (r : Nat) (v : PwrSt) : (s.setPw r v).pending = s.pending := (rfl)

/-! ### State.setHch -/

@[simp] theorem State.setHch_regs (s : State) (c : Nat) (v : HostCh) : (s.setHch c v).regs = s.regs := (rfl)
@[simp] theorem State.setHch_rwq (s : State) (c : Nat) (v : HostCh) : (s.setHch c v).rwq = s.rwq := (rfl)
@[simp] theorem State.setHch_mem (s : State) (c : Nat) (v : HostCh) : (s.setHch c v).mem = s.mem := (rfl)
@[simp] theorem State.setHch_mode (s : State) (c : Nat) (v : HostCh) : (s.setHch c v).mode = s.mode := (rfl)
@[simp] theorem State.setHch_time (s : State) (c : Nat) (v : HostCh) : (s.setHch c v).time = s.time := (rfl)
@[simp] theorem State.setHch_guns (s : State) (c : Nat) (v : HostCh) : (s.setHch c v).guns = s.guns := (rfl)
@[simp] theorem State.setHch_fab (s : State) (c : Nat) (v : HostCh) : (s.setHch c v).fab = s.fab := (rfl)
@[simp] theorem State.setHch_memErr (s : State) (c : Nat) (v : HostCh) : (s.setHch c v).memErr = s.memErr := (rfl)
@[simp] theorem State.setHch_queues (s : State) (c : Nat) (v : HostCh) : (s.setHch c v).queues = s.queues := (rfl)
@[simp] theorem State.setHch_tiles (s : State) (c : Nat) (v : HostCh) : (s.setHch c v).tiles = s.tiles := (rfl)
@[simp] theorem State.setHch_resps (s : State) (c : Nat) (v : HostCh) : (s.setHch c v).resps = s.resps := (rfl)
@[simp] theorem State.setHch_mems (s : State) (c : Nat) (v : HostCh) : (s.setHch c v).mems = s.mems := (rfl)
@[simp] theorem State.setHch_procs (s : State) (c : Nat) (v : HostCh) : (s.setHch c v).procs = s.procs := (rfl)
@[simp] theorem State.setHch_imemPar (s : State) (c : Nat) (v : HostCh) : (s.setHch c v).imemPar = s.imemPar := (rfl)
@[simp] theorem State.setHch_trc (s : State) (c : Nat) (v : HostCh) : (s.setHch c v).trc = s.trc := (rfl)
@[simp] theorem State.setHch_lanes (s : State) (c : Nat) (v : HostCh) : (s.setHch c v).lanes = s.lanes := (rfl)
@[simp] theorem State.setHch_trigs (s : State) (c : Nat) (v : HostCh) : (s.setHch c v).trigs = s.trigs := (rfl)
@[simp] theorem State.setHch_heats (s : State) (c : Nat) (v : HostCh) : (s.setHch c v).heats = s.heats := (rfl)
@[simp] theorem State.setHch_ret (s : State) (c : Nat) (v : HostCh) : (s.setHch c v).ret = s.ret := (rfl)
@[simp] theorem State.setHch_load (s : State) (c : Nat) (v : HostCh) : (s.setHch c v).load = s.load := (rfl)
@[simp] theorem State.setHch_store (s : State) (c : Nat) (v : HostCh) : (s.setHch c v).store = s.store := (rfl)
@[simp] theorem State.setHch_fuse (s : State) (c : Nat) (v : HostCh) : (s.setHch c v).fuse = s.fuse := (rfl)
@[simp] theorem State.setHch_pwr (s : State) (c : Nat) (v : HostCh) : (s.setHch c v).pwr = s.pwr := (rfl)
@[simp] theorem State.setHch_rst (s : State) (c : Nat) (v : HostCh) : (s.setHch c v).rst = s.rst := (rfl)
@[simp] theorem State.setHch_arcs (s : State) (c : Nat) (v : HostCh) : (s.setHch c v).arcs = s.arcs := (rfl)
@[simp] theorem State.setHch_net (s : State) (c : Nat) (v : HostCh) : (s.setHch c v).net = s.net := (rfl)
@[simp] theorem State.setHch_railInj (s : State) (c : Nat) (v : HostCh) : (s.setHch c v).railInj = s.railInj := (rfl)
@[simp] theorem State.setHch_refAbsent (s : State) (c : Nat) (v : HostCh) : (s.setHch c v).refAbsent = s.refAbsent := (rfl)
@[simp] theorem State.setHch_zones (s : State) (c : Nat) (v : HostCh) : (s.setHch c v).zones = s.zones := (rfl)
@[simp] theorem State.setHch_frz (s : State) (c : Nat) (v : HostCh) : (s.setHch c v).frz = s.frz := (rfl)
@[simp] theorem State.setHch_module (s : State) (c : Nat) (v : HostCh) : (s.setHch c v).module = s.module := (rfl)
@[simp] theorem State.setHch_jtag (s : State) (c : Nat) (v : HostCh) : (s.setHch c v).jtag = s.jtag := (rfl)
@[simp] theorem State.setHch_fifos (s : State) (c : Nat) (v : HostCh) : (s.setHch c v).fifos = s.fifos := (rfl)
@[simp] theorem State.setHch_lossy (s : State) (c : Nat) (v : HostCh) : (s.setHch c v).lossy = s.lossy := (rfl)
@[simp] theorem State.setHch_detected (s : State) (c : Nat) (v : HostCh) : (s.setHch c v).detected = s.detected := (rfl)
@[simp] theorem State.setHch_lastRead (s : State) (c : Nat) (v : HostCh) : (s.setHch c v).lastRead = s.lastRead := (rfl)
@[simp] theorem State.setHch_free (s : State) (c : Nat) (v : HostCh) : (s.setHch c v).free = s.free := (rfl)
@[simp] theorem State.setHch_pending (s : State) (c : Nat) (v : HostCh) : (s.setHch c v).pending = s.pending := (rfl)

/-! ### State.setFifo -/

@[simp] theorem State.setFifo_rwq (s : State) (r : Nat) (l : List ErrRec) : (s.setFifo r l).rwq = s.rwq := by rw [State.setFifo, State.setFld_rwq]
@[simp] theorem State.setFifo_mem (s : State) (r : Nat) (l : List ErrRec) : (s.setFifo r l).mem = s.mem := by rw [State.setFifo, State.setFld_mem]
@[simp] theorem State.setFifo_mode (s : State) (r : Nat) (l : List ErrRec) : (s.setFifo r l).mode = s.mode := by rw [State.setFifo, State.setFld_mode]
@[simp] theorem State.setFifo_time (s : State) (r : Nat) (l : List ErrRec) : (s.setFifo r l).time = s.time := by rw [State.setFifo, State.setFld_time]
@[simp] theorem State.setFifo_guns (s : State) (r : Nat) (l : List ErrRec) : (s.setFifo r l).guns = s.guns := by rw [State.setFifo, State.setFld_guns]
@[simp] theorem State.setFifo_fab (s : State) (r : Nat) (l : List ErrRec) : (s.setFifo r l).fab = s.fab := by rw [State.setFifo, State.setFld_fab]
@[simp] theorem State.setFifo_memErr (s : State) (r : Nat) (l : List ErrRec) : (s.setFifo r l).memErr = s.memErr := by rw [State.setFifo, State.setFld_memErr]
@[simp] theorem State.setFifo_queues (s : State) (r : Nat) (l : List ErrRec) : (s.setFifo r l).queues = s.queues := by rw [State.setFifo, State.setFld_queues]
@[simp] theorem State.setFifo_tiles (s : State) (r : Nat) (l : List ErrRec) : (s.setFifo r l).tiles = s.tiles := by rw [State.setFifo, State.setFld_tiles]
@[simp] theorem State.setFifo_resps (s : State) (r : Nat) (l : List ErrRec) : (s.setFifo r l).resps = s.resps := by rw [State.setFifo, State.setFld_resps]
@[simp] theorem State.setFifo_mems (s : State) (r : Nat) (l : List ErrRec) : (s.setFifo r l).mems = s.mems := by rw [State.setFifo, State.setFld_mems]
@[simp] theorem State.setFifo_procs (s : State) (r : Nat) (l : List ErrRec) : (s.setFifo r l).procs = s.procs := by rw [State.setFifo, State.setFld_procs]
@[simp] theorem State.setFifo_imemPar (s : State) (r : Nat) (l : List ErrRec) : (s.setFifo r l).imemPar = s.imemPar := by rw [State.setFifo, State.setFld_imemPar]
@[simp] theorem State.setFifo_trc (s : State) (r : Nat) (l : List ErrRec) : (s.setFifo r l).trc = s.trc := by rw [State.setFifo, State.setFld_trc]
@[simp] theorem State.setFifo_lanes (s : State) (r : Nat) (l : List ErrRec) : (s.setFifo r l).lanes = s.lanes := by rw [State.setFifo, State.setFld_lanes]
@[simp] theorem State.setFifo_trigs (s : State) (r : Nat) (l : List ErrRec) : (s.setFifo r l).trigs = s.trigs := by rw [State.setFifo, State.setFld_trigs]
@[simp] theorem State.setFifo_heats (s : State) (r : Nat) (l : List ErrRec) : (s.setFifo r l).heats = s.heats := by rw [State.setFifo, State.setFld_heats]
@[simp] theorem State.setFifo_ret (s : State) (r : Nat) (l : List ErrRec) : (s.setFifo r l).ret = s.ret := by rw [State.setFifo, State.setFld_ret]
@[simp] theorem State.setFifo_load (s : State) (r : Nat) (l : List ErrRec) : (s.setFifo r l).load = s.load := by rw [State.setFifo, State.setFld_load]
@[simp] theorem State.setFifo_store (s : State) (r : Nat) (l : List ErrRec) : (s.setFifo r l).store = s.store := by rw [State.setFifo, State.setFld_store]
@[simp] theorem State.setFifo_fuse (s : State) (r : Nat) (l : List ErrRec) : (s.setFifo r l).fuse = s.fuse := by rw [State.setFifo, State.setFld_fuse]
@[simp] theorem State.setFifo_pwr (s : State) (r : Nat) (l : List ErrRec) : (s.setFifo r l).pwr = s.pwr := by rw [State.setFifo, State.setFld_pwr]
@[simp] theorem State.setFifo_rst (s : State) (r : Nat) (l : List ErrRec) : (s.setFifo r l).rst = s.rst := by rw [State.setFifo, State.setFld_rst]
@[simp] theorem State.setFifo_arcs (s : State) (r : Nat) (l : List ErrRec) : (s.setFifo r l).arcs = s.arcs := by rw [State.setFifo, State.setFld_arcs]
@[simp] theorem State.setFifo_net (s : State) (r : Nat) (l : List ErrRec) : (s.setFifo r l).net = s.net := by rw [State.setFifo, State.setFld_net]
@[simp] theorem State.setFifo_railInj (s : State) (r : Nat) (l : List ErrRec) : (s.setFifo r l).railInj = s.railInj := by rw [State.setFifo, State.setFld_railInj]
@[simp] theorem State.setFifo_refAbsent (s : State) (r : Nat) (l : List ErrRec) : (s.setFifo r l).refAbsent = s.refAbsent := by rw [State.setFifo, State.setFld_refAbsent]
@[simp] theorem State.setFifo_zones (s : State) (r : Nat) (l : List ErrRec) : (s.setFifo r l).zones = s.zones := by rw [State.setFifo, State.setFld_zones]
@[simp] theorem State.setFifo_frz (s : State) (r : Nat) (l : List ErrRec) : (s.setFifo r l).frz = s.frz := by rw [State.setFifo, State.setFld_frz]
@[simp] theorem State.setFifo_host (s : State) (r : Nat) (l : List ErrRec) : (s.setFifo r l).host = s.host := by rw [State.setFifo, State.setFld_host]
@[simp] theorem State.setFifo_module (s : State) (r : Nat) (l : List ErrRec) : (s.setFifo r l).module = s.module := by rw [State.setFifo, State.setFld_module]
@[simp] theorem State.setFifo_jtag (s : State) (r : Nat) (l : List ErrRec) : (s.setFifo r l).jtag = s.jtag := by rw [State.setFifo, State.setFld_jtag]
@[simp] theorem State.setFifo_lossy (s : State) (r : Nat) (l : List ErrRec) : (s.setFifo r l).lossy = s.lossy := by rw [State.setFifo, State.setFld_lossy]
@[simp] theorem State.setFifo_detected (s : State) (r : Nat) (l : List ErrRec) : (s.setFifo r l).detected = s.detected := by rw [State.setFifo, State.setFld_detected]
@[simp] theorem State.setFifo_lastRead (s : State) (r : Nat) (l : List ErrRec) : (s.setFifo r l).lastRead = s.lastRead := by rw [State.setFifo, State.setFld_lastRead]
@[simp] theorem State.setFifo_free (s : State) (r : Nat) (l : List ErrRec) : (s.setFifo r l).free = s.free := by rw [State.setFifo, State.setFld_free]
@[simp] theorem State.setFifo_pending (s : State) (r : Nat) (l : List ErrRec) : (s.setFifo r l).pending = s.pending := by rw [State.setFifo, State.setFld_pending]

/-! ### State.setZone -/

@[simp] theorem State.setZone_regs (s : State) (zi : Nat) (z : Zone) : (s.setZone zi z).regs = s.regs := (rfl)
@[simp] theorem State.setZone_rwq (s : State) (zi : Nat) (z : Zone) : (s.setZone zi z).rwq = s.rwq := (rfl)
@[simp] theorem State.setZone_mem (s : State) (zi : Nat) (z : Zone) : (s.setZone zi z).mem = s.mem := (rfl)
@[simp] theorem State.setZone_mode (s : State) (zi : Nat) (z : Zone) : (s.setZone zi z).mode = s.mode := (rfl)
@[simp] theorem State.setZone_time (s : State) (zi : Nat) (z : Zone) : (s.setZone zi z).time = s.time := (rfl)
@[simp] theorem State.setZone_guns (s : State) (zi : Nat) (z : Zone) : (s.setZone zi z).guns = s.guns := (rfl)
@[simp] theorem State.setZone_fab (s : State) (zi : Nat) (z : Zone) : (s.setZone zi z).fab = s.fab := (rfl)
@[simp] theorem State.setZone_memErr (s : State) (zi : Nat) (z : Zone) : (s.setZone zi z).memErr = s.memErr := (rfl)
@[simp] theorem State.setZone_queues (s : State) (zi : Nat) (z : Zone) : (s.setZone zi z).queues = s.queues := (rfl)
@[simp] theorem State.setZone_tiles (s : State) (zi : Nat) (z : Zone) : (s.setZone zi z).tiles = s.tiles := (rfl)
@[simp] theorem State.setZone_resps (s : State) (zi : Nat) (z : Zone) : (s.setZone zi z).resps = s.resps := (rfl)
@[simp] theorem State.setZone_mems (s : State) (zi : Nat) (z : Zone) : (s.setZone zi z).mems = s.mems := (rfl)
@[simp] theorem State.setZone_procs (s : State) (zi : Nat) (z : Zone) : (s.setZone zi z).procs = s.procs := (rfl)
@[simp] theorem State.setZone_imemPar (s : State) (zi : Nat) (z : Zone) : (s.setZone zi z).imemPar = s.imemPar := (rfl)
@[simp] theorem State.setZone_trc (s : State) (zi : Nat) (z : Zone) : (s.setZone zi z).trc = s.trc := (rfl)
@[simp] theorem State.setZone_lanes (s : State) (zi : Nat) (z : Zone) : (s.setZone zi z).lanes = s.lanes := (rfl)
@[simp] theorem State.setZone_trigs (s : State) (zi : Nat) (z : Zone) : (s.setZone zi z).trigs = s.trigs := (rfl)
@[simp] theorem State.setZone_heats (s : State) (zi : Nat) (z : Zone) : (s.setZone zi z).heats = s.heats := (rfl)
@[simp] theorem State.setZone_ret (s : State) (zi : Nat) (z : Zone) : (s.setZone zi z).ret = s.ret := (rfl)
@[simp] theorem State.setZone_load (s : State) (zi : Nat) (z : Zone) : (s.setZone zi z).load = s.load := (rfl)
@[simp] theorem State.setZone_store (s : State) (zi : Nat) (z : Zone) : (s.setZone zi z).store = s.store := (rfl)
@[simp] theorem State.setZone_fuse (s : State) (zi : Nat) (z : Zone) : (s.setZone zi z).fuse = s.fuse := (rfl)
@[simp] theorem State.setZone_pwr (s : State) (zi : Nat) (z : Zone) : (s.setZone zi z).pwr = s.pwr := (rfl)
@[simp] theorem State.setZone_rst (s : State) (zi : Nat) (z : Zone) : (s.setZone zi z).rst = s.rst := (rfl)
@[simp] theorem State.setZone_arcs (s : State) (zi : Nat) (z : Zone) : (s.setZone zi z).arcs = s.arcs := (rfl)
@[simp] theorem State.setZone_net (s : State) (zi : Nat) (z : Zone) : (s.setZone zi z).net = s.net := (rfl)
@[simp] theorem State.setZone_railInj (s : State) (zi : Nat) (z : Zone) : (s.setZone zi z).railInj = s.railInj := (rfl)
@[simp] theorem State.setZone_refAbsent (s : State) (zi : Nat) (z : Zone) : (s.setZone zi z).refAbsent = s.refAbsent := (rfl)
@[simp] theorem State.setZone_frz (s : State) (zi : Nat) (z : Zone) : (s.setZone zi z).frz = s.frz := (rfl)
@[simp] theorem State.setZone_host (s : State) (zi : Nat) (z : Zone) : (s.setZone zi z).host = s.host := (rfl)
@[simp] theorem State.setZone_module (s : State) (zi : Nat) (z : Zone) : (s.setZone zi z).module = s.module := (rfl)
@[simp] theorem State.setZone_jtag (s : State) (zi : Nat) (z : Zone) : (s.setZone zi z).jtag = s.jtag := (rfl)
@[simp] theorem State.setZone_fifos (s : State) (zi : Nat) (z : Zone) : (s.setZone zi z).fifos = s.fifos := (rfl)
@[simp] theorem State.setZone_lossy (s : State) (zi : Nat) (z : Zone) : (s.setZone zi z).lossy = s.lossy := (rfl)
@[simp] theorem State.setZone_detected (s : State) (zi : Nat) (z : Zone) : (s.setZone zi z).detected = s.detected := (rfl)
@[simp] theorem State.setZone_lastRead (s : State) (zi : Nat) (z : Zone) : (s.setZone zi z).lastRead = s.lastRead := (rfl)
@[simp] theorem State.setZone_free (s : State) (zi : Nat) (z : Zone) : (s.setZone zi z).free = s.free := (rfl)
@[simp] theorem State.setZone_pending (s : State) (zi : Nat) (z : Zone) : (s.setZone zi z).pending = s.pending := (rfl)

/-! ### State.setG -/

@[simp] theorem State.setG_regs (s : State) (r v : Nat) : (s.setG r v).regs = s.regs := (rfl)
@[simp] theorem State.setG_rwq (s : State) (r v : Nat) : (s.setG r v).rwq = s.rwq := (rfl)
@[simp] theorem State.setG_mem (s : State) (r v : Nat) : (s.setG r v).mem = s.mem := (rfl)
@[simp] theorem State.setG_mode (s : State) (r v : Nat) : (s.setG r v).mode = s.mode := (rfl)
@[simp] theorem State.setG_time (s : State) (r v : Nat) : (s.setG r v).time = s.time := (rfl)
@[simp] theorem State.setG_guns (s : State) (r v : Nat) : (s.setG r v).guns = s.guns := (rfl)
@[simp] theorem State.setG_fab (s : State) (r v : Nat) : (s.setG r v).fab = s.fab := (rfl)
@[simp] theorem State.setG_memErr (s : State) (r v : Nat) : (s.setG r v).memErr = s.memErr := (rfl)
@[simp] theorem State.setG_queues (s : State) (r v : Nat) : (s.setG r v).queues = s.queues := (rfl)
@[simp] theorem State.setG_tiles (s : State) (r v : Nat) : (s.setG r v).tiles = s.tiles := (rfl)
@[simp] theorem State.setG_resps (s : State) (r v : Nat) : (s.setG r v).resps = s.resps := (rfl)
@[simp] theorem State.setG_mems (s : State) (r v : Nat) : (s.setG r v).mems = s.mems := (rfl)
@[simp] theorem State.setG_procs (s : State) (r v : Nat) : (s.setG r v).procs = s.procs := (rfl)
@[simp] theorem State.setG_imemPar (s : State) (r v : Nat) : (s.setG r v).imemPar = s.imemPar := (rfl)
@[simp] theorem State.setG_trc (s : State) (r v : Nat) : (s.setG r v).trc = s.trc := (rfl)
@[simp] theorem State.setG_lanes (s : State) (r v : Nat) : (s.setG r v).lanes = s.lanes := (rfl)
@[simp] theorem State.setG_trigs (s : State) (r v : Nat) : (s.setG r v).trigs = s.trigs := (rfl)
@[simp] theorem State.setG_heats (s : State) (r v : Nat) : (s.setG r v).heats = s.heats := (rfl)
@[simp] theorem State.setG_ret (s : State) (r v : Nat) : (s.setG r v).ret = s.ret := (rfl)
@[simp] theorem State.setG_load (s : State) (r v : Nat) : (s.setG r v).load = s.load := (rfl)
@[simp] theorem State.setG_store (s : State) (r v : Nat) : (s.setG r v).store = s.store := (rfl)
@[simp] theorem State.setG_fuse (s : State) (r v : Nat) : (s.setG r v).fuse = s.fuse := (rfl)
@[simp] theorem State.setG_pwr (s : State) (r v : Nat) : (s.setG r v).pwr = s.pwr := (rfl)
@[simp] theorem State.setG_arcs (s : State) (r v : Nat) : (s.setG r v).arcs = s.arcs := (rfl)
@[simp] theorem State.setG_net (s : State) (r v : Nat) : (s.setG r v).net = s.net := (rfl)
@[simp] theorem State.setG_railInj (s : State) (r v : Nat) : (s.setG r v).railInj = s.railInj := (rfl)
@[simp] theorem State.setG_refAbsent (s : State) (r v : Nat) : (s.setG r v).refAbsent = s.refAbsent := (rfl)
@[simp] theorem State.setG_zones (s : State) (r v : Nat) : (s.setG r v).zones = s.zones := (rfl)
@[simp] theorem State.setG_frz (s : State) (r v : Nat) : (s.setG r v).frz = s.frz := (rfl)
@[simp] theorem State.setG_host (s : State) (r v : Nat) : (s.setG r v).host = s.host := (rfl)
@[simp] theorem State.setG_module (s : State) (r v : Nat) : (s.setG r v).module = s.module := (rfl)
@[simp] theorem State.setG_jtag (s : State) (r v : Nat) : (s.setG r v).jtag = s.jtag := (rfl)
@[simp] theorem State.setG_fifos (s : State) (r v : Nat) : (s.setG r v).fifos = s.fifos := (rfl)
@[simp] theorem State.setG_lossy (s : State) (r v : Nat) : (s.setG r v).lossy = s.lossy := (rfl)
@[simp] theorem State.setG_detected (s : State) (r v : Nat) : (s.setG r v).detected = s.detected := (rfl)
@[simp] theorem State.setG_lastRead (s : State) (r v : Nat) : (s.setG r v).lastRead = s.lastRead := (rfl)
@[simp] theorem State.setG_free (s : State) (r v : Nat) : (s.setG r v).free = s.free := (rfl)
@[simp] theorem State.setG_pending (s : State) (r v : Nat) : (s.setG r v).pending = s.pending := (rfl)

end Sys2Proof.Machine
end

