-- ==== Sys2Proof/Laws/Regs.lean ====
section
/-! SUPPORT. Bit fields and the register store: a read after a write of a register or a field, and what a write leaves
alone. -/

namespace Sys2Proof.Machine

open Sys2Proof

/-! ### Bit fields of a number -/


theorem bitsOf_lt (n hi lo : Nat) : bitsOf n hi lo < 2 ^ (hi + 1 - lo) := Nat.mod_lt _ (Nat.two_pow_pos _)

theorem bitsOf_mul_le (n hi lo : Nat) : bitsOf n hi lo * 2 ^ lo ≤ n :=
  Nat.le_trans (Nat.mul_le_mul_right _ (Nat.mod_le _ _)) (Nat.div_mul_le_self _ _)

/-- A number as its bits below `lo`, those from `lo` on up to `w` of them, and those above. -/
theorem cut (n lo w : Nat) :
    n = n % 2 ^ lo + n / 2 ^ lo % 2 ^ w * 2 ^ lo + n / 2 ^ lo / 2 ^ w * 2 ^ w * 2 ^ lo := by
  have h1 := Nat.div_add_mod n (2 ^ lo)
  have h2 := Nat.div_add_mod (n / 2 ^ lo) (2 ^ w)
  generalize n / 2 ^ lo = q at *
  generalize n % 2 ^ lo = r at *
  generalize q / 2 ^ w = a at *
  generalize q % 2 ^ w = b at *
  generalize 2 ^ lo = L at *
  generalize 2 ^ w = W at *
  subst h2; rw [← h1]; ring

theorem putBits_cut (n lo w v : Nat) (hw : 0 < w) :
    putBits n (lo + w - 1) lo v = n % 2 ^ lo + v % 2 ^ w * 2 ^ lo + n / 2 ^ lo / 2 ^ w * 2 ^ w * 2 ^ lo := by
  unfold putBits bitsOf
  rw [show lo + w - 1 + 1 - lo = w by omega]
  have h := cut n lo w
  generalize n / 2 ^ lo % 2 ^ w * 2 ^ lo = b at *
  generalize n / 2 ^ lo / 2 ^ w * 2 ^ w * 2 ^ lo = c at *
  omega

theorem div_of_parts (r q lo : Nat) (hr : r < 2 ^ lo) : (r + q * 2 ^ lo) / 2 ^ lo = q := by
  rw [Nat.add_mul_div_right _ _ (Nat.two_pow_pos _), Nat.div_eq_of_lt hr, Nat.zero_add]

/-- The bits of a field after it was written. -/
theorem bitsOf_putBits_same (n hi lo v : Nat) (h : lo ≤ hi) : bitsOf (putBits n hi lo v) hi lo = v % 2 ^ (hi + 1 - lo) := by
  obtain ⟨w, hw, rfl⟩ : ∃ w, 0 < w ∧ hi = lo + w - 1 := ⟨hi + 1 - lo, by omega, by omega⟩
  rw [putBits_cut _ _ _ _ hw, bitsOf, show lo + w - 1 + 1 - lo = w by omega]
  have hr : n % 2 ^ lo < 2 ^ lo := Nat.mod_lt _ (Nat.two_pow_pos _)
  have hv : v % 2 ^ w < 2 ^ w := Nat.mod_lt _ (Nat.two_pow_pos _)
  rw [show n % 2 ^ lo + v % 2 ^ w * 2 ^ lo + n / 2 ^ lo / 2 ^ w * 2 ^ w * 2 ^ lo
      = n % 2 ^ lo + (v % 2 ^ w + n / 2 ^ lo / 2 ^ w * 2 ^ w) * 2 ^ lo by ring, div_of_parts _ _ _ hr,
    Nat.add_mul_mod_self_right, Nat.mod_eq_of_lt hv]

/-- The bits above a field that was written. -/
theorem bitsOf_putBits_above (n hi lo v hi' lo' : Nat) (h : lo ≤ hi) (h' : hi < lo') :
    bitsOf (putBits n hi lo v) hi' lo' = bitsOf n hi' lo' := by
  obtain ⟨w, hw, rfl⟩ : ∃ w, 0 < w ∧ hi = lo + w - 1 := ⟨hi + 1 - lo, by omega, by omega⟩
  obtain ⟨d, rfl⟩ : ∃ d, lo' = lo + w + d := ⟨lo' - (lo + w), by omega⟩
  unfold bitsOf
  congr 1
  have hr : n % 2 ^ lo < 2 ^ lo := Nat.mod_lt _ (Nat.two_pow_pos _)
  have hv : v % 2 ^ w < 2 ^ w := Nat.mod_lt _ (Nat.two_pow_pos _)
  rw [putBits_cut _ _ _ _ hw, Nat.pow_add, Nat.pow_add, ← Nat.div_div_eq_div_mul, ← Nat.div_div_eq_div_mul,
    ← Nat.div_div_eq_div_mul, ← Nat.div_div_eq_div_mul]
  rw [show n % 2 ^ lo + v % 2 ^ w * 2 ^ lo + n / 2 ^ lo / 2 ^ w * 2 ^ w * 2 ^ lo
      = n % 2 ^ lo + (v % 2 ^ w + n / 2 ^ lo / 2 ^ w * 2 ^ w) * 2 ^ lo by ring, div_of_parts _ _ _ hr,
    div_of_parts _ _ _ hv]

/-- The bits below a field that was written. -/
theorem bitsOf_putBits_below (n hi lo v hi' lo' : Nat) (h : lo ≤ hi) (h' : hi' < lo) (h'' : lo' ≤ hi') :
    bitsOf (putBits n hi lo v) hi' lo' = bitsOf n hi' lo' := by
  obtain ⟨w, hw, rfl⟩ : ∃ w, 0 < w ∧ hi = lo + w - 1 := ⟨hi + 1 - lo, by omega, by omega⟩
  have key : ∀ m : Nat, bitsOf m hi' lo' = m % 2 ^ (hi' + 1) / 2 ^ lo' := by
    intro m
    unfold bitsOf
    rw [show hi' + 1 = lo' + (hi' + 1 - lo') by omega, Nat.pow_add, Nat.mod_mul_right_div_self]
    congr 2; omega
  have hm : putBits n (lo + w - 1) lo v % 2 ^ (hi' + 1) = n % 2 ^ (hi' + 1) := by
    rw [putBits_cut _ _ _ _ hw]
    obtain ⟨d, hd⟩ : ∃ d, lo = hi' + 1 + d := ⟨lo - (hi' + 1), by omega⟩
    rw [show n % 2 ^ lo + v % 2 ^ w * 2 ^ lo + n / 2 ^ lo / 2 ^ w * 2 ^ w * 2 ^ lo
      = n % 2 ^ lo + 2 ^ (hi' + 1) * ((v % 2 ^ w + n / 2 ^ lo / 2 ^ w * 2 ^ w) * 2 ^ d) by
        conv => lhs; rw [show 2 ^ lo = 2 ^ (hi' + 1) * 2 ^ d by rw [hd, Nat.pow_add]]
        conv => rhs; rw [show 2 ^ lo = 2 ^ (hi' + 1) * 2 ^ d by rw [hd, Nat.pow_add]]
        ring, Nat.add_mul_mod_self_left, hd, Nat.pow_add, Nat.mod_mul_right_mod]
  rw [key, key, hm]

/-- A field that was written keeps a number within 40 bits. -/
theorem putBits_lt (n hi lo v : Nat) (h : lo ≤ hi) (h40 : hi < 40) (hn : n < 2 ^ 40) : putBits n hi lo v < 2 ^ 40 := by
  obtain ⟨w, hw, rfl⟩ : ∃ w, 0 < w ∧ hi = lo + w - 1 := ⟨hi + 1 - lo, by omega, by omega⟩
  rw [putBits_cut _ _ _ _ hw]
  have hr : n % 2 ^ lo < 2 ^ lo := Nat.mod_lt _ (Nat.two_pow_pos _)
  have hv : v % 2 ^ w < 2 ^ w := Nat.mod_lt _ (Nat.two_pow_pos _)
  obtain ⟨d, hd⟩ : ∃ d, 40 = lo + w + d := ⟨40 - (lo + w), by omega⟩
  have hq : n / 2 ^ lo / 2 ^ w < 2 ^ d := by
    rw [Nat.div_div_eq_div_mul, ← Nat.pow_add, Nat.div_lt_iff_lt_mul (Nat.two_pow_pos _), ← Nat.pow_add,
      Nat.add_comm d, ← hd]; exact hn
  rw [hd, Nat.pow_add, Nat.pow_add]
  generalize n / 2 ^ lo / 2 ^ w = q at *
  generalize n % 2 ^ lo = r at *
  generalize v % 2 ^ w = b at *
  generalize 2 ^ lo = L at *
  generalize 2 ^ w = W at *
  generalize 2 ^ d = D at *
  have h1 : r + b * L < W * L := by nlinarith
  have h2 : r + b * L + q * W * L < (q + 1) * (W * L) := by nlinarith
  have h3 : (q + 1) * (W * L) ≤ D * (W * L) := Nat.mul_le_mul_right _ hq
  calc r + b * L + q * W * L < D * (W * L) := Nat.lt_of_lt_of_le h2 h3
    _ = L * W * D := by ring

/-! ### Registers -/

/-- What a register reads depends on the register store alone. -/
theorem reg_of_regs {s t : State} (h : t.regs = s.regs) (r : Reg) (u i : Nat) : t.reg r u i = s.reg r u i := by
  unfold State.reg; rw [h]

theorem fld_of_regs {s t : State} (h : t.regs = s.regs) (f : Fld) (u i : Nat) : t.fld f u i = s.fld f u i := by
  unfold State.fld; rw [reg_of_regs h]

@[simp] theorem State.setReg_regs (s : State) (r : Reg) (u i : Nat) (w : Word) :
    (s.setReg r u i w).regs = mset (r.resetWord u i) s.regs (regAddr r u i) w := (rfl)

/-- A register reads the word written last. -/
@[simp] theorem State.reg_setReg_same (s : State) (r : Reg) (u i : Nat) (w : Word) : (s.setReg r u i w).reg r u i = w :=
  mget_mset_same ..

/-- A write leaves every register at another address alone. -/
theorem State.reg_setReg_other (s : State) (r r' : Reg) (u u' i i' : Nat) (w : Word)
    (h : regAddr r' u' i' ≠ regAddr r u i) : (s.setReg r u i w).reg r' u' i' = s.reg r' u' i' :=
  mget_mset_other _ _ _ _ _ _ h

theorem State.fld_setReg_other (s : State) (r : Reg) (f : Fld) (u u' i i' : Nat) (w : Word)
    (h : regAddr f.reg u' i' ≠ regAddr r u i) : (s.setReg r u i w).fld f u' i' = s.fld f u' i' := by
  unfold State.fld; rw [State.reg_setReg_other _ _ _ _ _ _ _ _ h]

theorem State.reg_setFld_other (s : State) (f : Fld) (r : Reg) (u u' i i' v : Nat)
    (h : regAddr r u' i' ≠ regAddr f.reg u i) : (s.setFld f u i v).reg r u' i' = s.reg r u' i' :=
  State.reg_setReg_other _ _ _ _ _ _ _ _ h

theorem State.fld_setFld_other (s : State) (f g : Fld) (u u' i i' v : Nat)
    (h : regAddr g.reg u' i' ≠ regAddr f.reg u i) : (s.setFld f u i v).fld g u' i' = s.fld g u' i' := by
  unfold State.fld; rw [State.reg_setFld_other _ _ _ _ _ _ _ _ h]

/-- The word of a register after one of its fields was written. -/
theorem State.reg_setFld_same (s : State) (f : Fld) (u i v : Nat) :
    (s.setFld f u i v).reg f.reg u i = BitVec.ofNat 40 (putBits (s.reg f.reg u i).toNat f.hi f.lo v) :=
  State.reg_setReg_same ..

theorem toNat_putBits (w : Word) (hi lo v : Nat) (h : lo ≤ hi) (h40 : hi < 40) :
    (BitVec.ofNat 40 (putBits w.toNat hi lo v)).toNat = putBits w.toNat hi lo v := by
  rw [BitVec.toNat_ofNat, Nat.mod_eq_of_lt (putBits_lt _ _ _ _ h h40 w.isLt)]

/-- A field reads the value written last, as wide as the field. -/
theorem State.fld_setFld_same (s : State) (f : Fld) (u i v : Nat) (h : f.lo ≤ f.hi) (h40 : f.hi < 40) :
    (s.setFld f u i v).fld f u i = v % 2 ^ (f.hi + 1 - f.lo) := by
  unfold State.fld
  rw [State.reg_setFld_same, toNat_putBits _ _ _ _ h h40, bitsOf_putBits_same _ _ _ _ h]

/-- A write of a field leaves the other fields of its register alone. -/
theorem State.fld_setFld_apart (s : State) (f g : Fld) (u i v : Nat) (hr : g.reg = f.reg) (h : f.lo ≤ f.hi) (h40 : f.hi < 40)
    (hg : g.lo ≤ g.hi) (hd : f.hi < g.lo ∨ g.hi < f.lo) : (s.setFld f u i v).fld g u i = s.fld g u i := by
  unfold State.fld
  rw [hr, State.reg_setFld_same, toNat_putBits _ _ _ _ h h40]
  rcases hd with hd | hd
  · exact bitsOf_putBits_above _ _ _ _ _ _ h hd
  · exact bitsOf_putBits_below _ _ _ _ _ _ h hd hg

/-! ### The register store alone

`State.reg` and `State.fld` read the register store only. Written over the store, a read passes through any update of the
other fields of the state. -/

/-- The contents of a register slot in a register store. -/
def regIn (m : List (Nat × Word)) (r : Reg) (u i : Nat) : Word := mget (r.resetWord u i) m (regAddr r u i)

/-- A field of a register in a register store. -/
def fldIn (m : List (Nat × Word)) (f : Fld) (u i : Nat) : Nat := bitsOf (regIn m f.reg u i).toNat f.hi f.lo

theorem State.reg_eq (s : State) (r : Reg) (u i : Nat) : s.reg r u i = regIn s.regs r u i := (rfl)

theorem State.fld_eq (s : State) (f : Fld) (u i : Nat) : s.fld f u i = fldIn s.regs f u i := (rfl)

theorem State.on_eq (s : State) (f : Fld) (u i : Nat) : s.on f u i = (fldIn s.regs f u i == 1) := (rfl)

theorem regIn_setReg_same (s : State) (r : Reg) (u i : Nat) (w : Word) : regIn (s.setReg r u i w).regs r u i = w :=
  State.reg_setReg_same ..

theorem regIn_setReg_other (s : State) (r r' : Reg) (u u' i i' : Nat) (w : Word)
    (h : regAddr r' u' i' ≠ regAddr r u i) : regIn (s.setReg r u i w).regs r' u' i' = regIn s.regs r' u' i' :=
  State.reg_setReg_other _ _ _ _ _ _ _ _ h

theorem regIn_setFld_other (s : State) (f : Fld) (r : Reg) (u u' i i' v : Nat)
    (h : regAddr r u' i' ≠ regAddr f.reg u i) : regIn (s.setFld f u i v).regs r u' i' = regIn s.regs r u' i' :=
  State.reg_setFld_other _ _ _ _ _ _ _ _ h

theorem fldIn_setReg_other (s : State) (r : Reg) (f : Fld) (u u' i i' : Nat) (w : Word)
    (h : regAddr f.reg u' i' ≠ regAddr r u i) : fldIn (s.setReg r u i w).regs f u' i' = fldIn s.regs f u' i' :=
  State.fld_setReg_other _ _ _ _ _ _ _ _ h

theorem fldIn_setReg_same (s : State) (f : Fld) (u i : Nat) (w : Word) :
    fldIn (s.setReg f.reg u i w).regs f u i = bitsOf w.toNat f.hi f.lo := by
  unfold fldIn; rw [regIn_setReg_same]

theorem fldIn_setFld_same (s : State) (f : Fld) (u i v : Nat) (h : f.lo ≤ f.hi) (h40 : f.hi < 40) :
    fldIn (s.setFld f u i v).regs f u i = v % 2 ^ (f.hi + 1 - f.lo) :=
  State.fld_setFld_same _ _ _ _ _ h h40

theorem fldIn_setFld_other (s : State) (f g : Fld) (u u' i i' v : Nat)
    (h : regAddr g.reg u' i' ≠ regAddr f.reg u i) : fldIn (s.setFld f u i v).regs g u' i' = fldIn s.regs g u' i' :=
  State.fld_setFld_other _ _ _ _ _ _ _ _ h

theorem fldIn_setFld_apart (s : State) (f g : Fld) (u i v : Nat) (hr : g.reg = f.reg) (h : f.lo ≤ f.hi) (h40 : f.hi < 40)
    (hg : g.lo ≤ g.hi) (hd : f.hi < g.lo ∨ g.hi < f.lo) : fldIn (s.setFld f u i v).regs g u i = fldIn s.regs g u i :=
  State.fld_setFld_apart _ _ _ _ _ _ hr h h40 hg hd

end Sys2Proof.Machine
end

