-- ==== Sys2Proof/Laws/Frames.lean ====
section
/-! SUPPORT. The frames of the statements: what a chain of register and field writes leaves alone. They are said over the
register store alone, so that they pass through any update of the other fields of the state. -/

namespace Sys2Proof.Safety

open Sys2Proof Sys2Proof.Machine

/-- `KeepsRegs` over the register stores. -/
def RegsKept (m m' : List (Nat × Word)) (as : List Nat) : Prop :=
  ∀ r u i, regAddr r u i ∉ as → regIn m' r u i = regIn m r u i

/-- `KeepsFlds` over the register stores. -/
def FldsKept (m m' : List (Nat × Word)) (fs : List (Fld × Nat × Nat)) : Prop :=
  ∀ (g : Fld) (u i : Nat), g.lo ≤ g.hi →
    (∀ f ∈ fs, regAddr g.reg u i = regAddr f.1.reg f.2.1 f.2.2 →
      g.reg = f.1.reg ∧ u = f.2.1 ∧ i = f.2.2 ∧ (f.1.hi < g.lo ∨ g.hi < f.1.lo)) →
    fldIn m' g u i = fldIn m g u i

theorem keepsRegs_iff (s t : State) (as : List Nat) : KeepsRegs s t as ↔ RegsKept s.regs t.regs as := Iff.rfl

theorem keepsFlds_iff (s t : State) (fs : List (Fld × Nat × Nat)) : KeepsFlds s t fs ↔ FldsKept s.regs t.regs fs := Iff.rfl

theorem RegsKept.refl (m : List (Nat × Word)) (as : List Nat) : RegsKept m m as := fun _ _ _ _ => rfl

theorem RegsKept.mono {m m' : List (Nat × Word)} {as bs : List Nat} (h : RegsKept m m' as) (hs : as ⊆ bs) :
    RegsKept m m' bs := fun r u i hn => h r u i (fun hm => hn (hs hm))

theorem RegsKept.trans {m m' m'' : List (Nat × Word)} {as : List Nat} (h1 : RegsKept m m' as) (h2 : RegsKept m' m'' as) :
    RegsKept m m'' as := fun r u i h => (h2 r u i h).trans (h1 r u i h)

theorem RegsKept.setReg {m : List (Nat × Word)} {t : State} {as : List Nat} (r : Reg) (u i : Nat) (w : Word)
    (hm : regAddr r u i ∈ as) (h : RegsKept m t.regs as) : RegsKept m (t.setReg r u i w).regs as :=
  fun r' u' i' hn => (regIn_setReg_other t r r' u u' i i' w (fun he => hn (he ▸ hm))).trans (h r' u' i' hn)

theorem RegsKept.setFld {m : List (Nat × Word)} {t : State} {as : List Nat} (f : Fld) (u i v : Nat)
    (hm : regAddr f.reg u i ∈ as) (h : RegsKept m t.regs as) : RegsKept m (t.setFld f u i v).regs as :=
  RegsKept.setReg _ _ _ _ hm h

theorem FldsKept.refl (m : List (Nat × Word)) (fs : List (Fld × Nat × Nat)) : FldsKept m m fs := fun _ _ _ _ _ => rfl

theorem FldsKept.trans {m m' m'' : List (Nat × Word)} {fs : List (Fld × Nat × Nat)} (h1 : FldsKept m m' fs)
    (h2 : FldsKept m' m'' fs) : FldsKept m m'' fs := fun g u i hg h => (h2 g u i hg h).trans (h1 g u i hg h)

theorem FldsKept.setFld {m : List (Nat × Word)} {t : State} {fs : List (Fld × Nat × Nat)} (f : Fld) (u i v : Nat)
    (hm : (f, u, i) ∈ fs) (h1 : f.lo ≤ f.hi) (h2 : f.hi < 40) (h : FldsKept m t.regs fs) :
    FldsKept m (t.setFld f u i v).regs fs := by
  intro g u' i' hg ha
  rw [← h g u' i' hg ha]
  by_cases he : regAddr g.reg u' i' = regAddr f.reg u i
  · obtain ⟨hr, hu, hi, hd⟩ := ha _ hm he
    simp only at hr hu hi hd
    subst hu hi
    exact fldIn_setFld_apart _ _ _ _ _ _ hr h1 h2 hg hd
  · exact fldIn_setFld_other _ _ _ _ _ _ _ _ he

end Sys2Proof.Safety
end

