-- ==== Sys2Proof/Laws/Routes.lean ====
section
/-! SUPPORT. The default routing tables (R292, R299): what a walk along them does, and that they pass the checker of a
table swap (R300). -/

namespace Sys2Proof.Laws

open Sys2Proof.Machine

/-- A default route is one of the five outputs. -/
theorem defaultRoute_lt (n d : Nat) : defaultRoute n d < 5 := by
  unfold defaultRoute
  dsimp only
  repeat' split
  all_goals omega

/-- The outputs of a default route over `dx` columns and `dy` rows, and whether it arrives. -/
def outsXY : Nat → Nat → Nat → List Nat × Bool
  | 0, dx, dy => ([], decide (dx = 0 ∧ dy = 0))
  | n + 1, dx, dy =>
    let go := fun (o : Nat) (w : List Nat × Bool) => (o :: w.1, w.2)
    if dx ≠ 0 then (if dx ≤ 4 then go 0 (outsXY n (dx - 1) dy) else go 1 (outsXY n ((dx + 1) % 8) dy))
    else if dy ≠ 0 then (if dy ≤ 4 then go 3 (outsXY n dx (dy - 1)) else go 2 (outsXY n dx ((dy + 1) % 8)))
    else ([], true)

/-- Columns from a router to a destination, eastward. -/
def offX (c d : Nat) : Nat := (routerX d + 8 - routerX c) % 8
/-- Rows from a router to a destination, southward. -/
def offY (c d : Nat) : Nat := (routerY d + 8 - routerY c) % 8

/-- The default route in terms of the offsets. -/
theorem default_of_off (c d : Nat) : defaultRoute c d % 8 = if offX c d ≠ 0 then (if offX c d ≤ 4 then 0 else 1)
    else if offY c d ≠ 0 then (if offY c d ≤ 4 then 3 else 2) else 4 := by
  unfold defaultRoute offX offY routerX routerY
  dsimp only
  repeat' split
  all_goals omega

/-- `routerAt` inverts the coordinates. -/
theorem at_pos (x y : Nat) (hx : x < 8) (hy : y < 8) : routerAt x y < 64 ∧ routerX (routerAt x y) = x ∧ routerY (routerAt x y) = y := by
  unfold routerAt routerX routerY
  omega

/-- Coordinates lie below 8, and a router at no offset is the destination. -/
theorem pos_lt (c : Nat) (hc : c < 64) : routerX c < 8 ∧ routerY c < 8 ∧ ∀ d, d < 64 → offX c d = 0 → offY c d = 0 → c = d := by
  refine ⟨by unfold routerX; omega, by unfold routerY; omega, ?_⟩
  intro d hd
  unfold offX offY routerX routerY
  omega

/-- A walk along the default routes. -/
theorem walk_default (d : Nat) (hd : d < 64) : ∀ n c, c < 64 →
    (walkRoute (fun c => defaultRoute c d % 8) n c).1.map (fun h => h.2) = (outsXY n (offX c d) (offY c d)).1 ∧
    (walkRoute (fun c => defaultRoute c d % 8) n c).2 = if (outsXY n (offX c d) (offY c d)).2 then some d else none := by
  intro n
  induction n with
  | zero =>
    intro c hc
    have hp := (pos_lt c hc).2.2 d hd
    rw [walkRoute, outsXY, default_of_off]
    by_cases hx : offX c d = 0 <;> by_cases hy : offY c d = 0
    · simp [hx, hy]; exact hp hx hy
    · simp [hx, hy]; split <;> simp
    · simp [hx]; split <;> simp
    · simp [hx]; split <;> simp
  | succ n ih =>
    intro c hc
    obtain ⟨hX, hY, hp⟩ := pos_lt c hc
    have hdX := (pos_lt d hd).1
    have hdY := (pos_lt d hd).2.1
    have step : ∀ o, hopTo c o < 64 := by
      intro o
      unfold hopTo
      split <;> refine (at_pos _ _ ?_ ?_).1 <;> omega
    have e : hopTo c 0 = routerAt ((routerX c + 1) % 8) (routerY c) ∧ hopTo c 1 = routerAt ((routerX c + 7) % 8) (routerY c) ∧
        hopTo c 2 = routerAt (routerX c) ((routerY c + 7) % 8) ∧ hopTo c 3 = routerAt (routerX c) ((routerY c + 1) % 8) := ⟨rfl, rfl, rfl, rfl⟩
    have p0 := at_pos ((routerX c + 1) % 8) (routerY c) (by omega) hY
    have p1 := at_pos ((routerX c + 7) % 8) (routerY c) (by omega) hY
    have p2 := at_pos (routerX c) ((routerY c + 7) % 8) hX (by omega)
    have p3 := at_pos (routerX c) ((routerY c + 1) % 8) hX (by omega)
    rw [← e.1] at p0; rw [← e.2.1] at p1; rw [← e.2.2.1] at p2; rw [← e.2.2.2] at p3
    have q0 : offX c d ≠ 0 → offX (hopTo c 0) d = offX c d - 1 ∧ offY (hopTo c 0) d = offY c d := by
      unfold offX offY; rw [p0.2.1, p0.2.2]; omega
    have q1 : offX (hopTo c 1) d = (offX c d + 1) % 8 ∧ offY (hopTo c 1) d = offY c d := by
      unfold offX offY; rw [p1.2.1, p1.2.2]; omega
    have q2 : offX (hopTo c 2) d = offX c d ∧ offY (hopTo c 2) d = (offY c d + 1) % 8 := by
      unfold offX offY; rw [p2.2.1, p2.2.2]; omega
    have q3 : offY c d ≠ 0 → offX (hopTo c 3) d = offX c d ∧ offY (hopTo c 3) d = offY c d - 1 := by
      unfold offX offY; rw [p3.2.1, p3.2.2]; omega
    rw [walkRoute, outsXY, default_of_off]
    by_cases hx : offX c d = 0
    · by_cases hy : offY c d = 0
      · simp [hx, hy]; exact hp d hd hx hy
      · by_cases h4 : offY c d ≤ 4
        · have i := ih (hopTo c 3) (step 3)
          rw [(q3 hy).1, (q3 hy).2, hx] at i
          simp [hx, hy, h4, i]
        · have i := ih (hopTo c 2) (step 2)
          rw [q2.1, q2.2, hx] at i
          simp [hx, hy, h4, i]
    · by_cases h4 : offX c d ≤ 4
      · have i := ih (hopTo c 0) (step 0)
        rw [(q0 hx).1, (q0 hx).2] at i
        simp [hx, h4, i]
      · have i := ih (hopTo c 1) (step 1)
        rw [q1.1, q1.2] at i
        simp [hx, h4, i]

/-- The default tables pass the checker of a swap (R299, R300). -/
theorem default_tables_pass (s : State) (h : ∀ n d, s.tblPend n d = defaultRoute n d % 8) (hd : s.net.down = []) :
    checkTables s false = none := by
  have good : ∀ x, x < 8 → ∀ y, y < 8 → (outsXY 14 x y).2 = true ∧ routeRule [] 0 ((outsXY 14 x y).1.map (fun o => (0, o)), some 0) = 0 := by
    decide +kernel
  unfold checkTables
  rw [Option.map_eq_none_iff, List.find?_eq_none]
  intro k hk
  have hk := List.mem_range.1 hk
  obtain ⟨w1, w2⟩ := walk_default (k % 64) (by omega) 14 (k / 64) (by omega)
  obtain ⟨g1, g2⟩ := good (offX (k / 64) (k % 64)) (Nat.mod_lt _ (by omega)) (offY (k / 64) (k % 64)) (Nat.mod_lt _ (by omega))
  rw [g1] at w2
  have hz : routeRule s.net.down (k % 64) (walkRoute (fun c => s.tblPend c (k % 64)) 14 (k / 64)) = 0 := by
    simp only [h]
    rw [← g2]
    unfold routeRule
    rw [w1, w2, List.map_map]
    simp [hd, mget, Function.comp_def]
  have : pairRule s false (k / 64) (k % 64) = 0 := by
    unfold pairRule
    rw [if_pos (.inr (.inl rfl)), hz]
  simp [this]

end Sys2Proof.Laws
end

