-- ==== Sys2Proof/Tests/Slice0.lean ====
section
/-! SUPPORT. Tests: ill-formed commands that WellFormed refuses, words of the engines' instruction set written out from the
spec's tables, numbers that the spec works out, and for every statement with hypotheses a theorem that a concrete state
and operands meet them, clause by clause. -/

section

set_option Elab.async false

open Sys2Proof Sys2Proof.Machine Sys2Proof.Safety

/-! ### Witnesses of the statements on the queue, the engine words and memory -/

namespace Sys2Proof.Tests.Whole

/-- A state with one waiting command. -/
def waiting : State := { State.reset with pending := [.nop 0] }

/-- StepRunsTheFrontCommand: a queue with a front command, and an empty one. -/
theorem witness_step : waiting.pending = .nop 0 :: [] ∧ State.reset.pending = [] := ⟨rfl, rfl⟩

/-- EngineInstructionsEncodeAndDecode: an instruction of one word that both processors have, one of two words, and one
that a supervisor does not have. -/
theorem witness_encode :
    ((Insn.alu .add true 3 1 (.reg 2)).fits = true ∧ (Insn.alu .add true 3 1 (.reg 2)).legal true = true) ∧
    ((Insn.mvi 15 (.imm40 0x123456789A)).fits = true ∧ (Insn.mvi 15 (.imm40 0x123456789A)).len = 2) ∧
    ((Insn.quad .cmac true 0 1 5 0).fits = true ∧ (Insn.quad .cmac true 0 1 5 0).legal true = false) := by decide +kernel

/-- StepKeepsMemoryCanonical: a listed byte in front of a command that runs. -/
theorem witness_canonical : Memory.wf { waiting with mem := [(5, 7)] }.mem = true ∧
    step { waiting with mem := [(5, 7)] } = .next { State.reset with mem := [(5, 7)] } := ⟨by decide +kernel, rfl⟩

end Sys2Proof.Tests.Whole

/-! ### Which commands are not well formed -/

namespace Sys2Proof.Tests.Form

theorem test_register_write_off_a_slot : WellFormed (.registerWrite 0x7FF0000004 0) = false := by decide +kernel
theorem test_register_write_beyond_bar4 : WellFormed (.registerWrite (2 ^ 40 + 2 ^ 20) 0) = false := by decide +kernel
theorem test_engine_program_too_far : WellFormed (.seImemWrite 3 16384 0) = false := by decide +kernel
theorem test_supervisor_program_fits : WellFormed (.seImemWrite 64 16384 0) = true := by decide +kernel
theorem test_supervisor_has_two_channels : WellFormed (.dmaGo 64 2 0) = false := by decide +kernel
theorem test_abort_of_no_channel : WellFormed (.dmaAbort 64 3 0) = false := by decide +kernel
theorem test_completion_of_no_channel : WellFormed (.dmaDescriptorComplete 64 2 []) = false := by decide +kernel
theorem test_levels_match_samples : WellFormed (.decodedWord 0 [1, 2] [0] false 0) = false := by decide +kernel
theorem test_write_without_its_word : WellFormed (.wr 0x43 0 0 3 0 [1]) = false := by decide +kernel
theorem test_read_of_eleven_lines : WellFormed (.rdl 0x43 0 0 10) = false := by decide +kernel
theorem test_line_of_eleven_words : WellFormed (.wrl 0x43 0 0 0 0 (List.replicate 11 0) []) = false := by decide +kernel
theorem test_line_with_one_check_byte : WellFormed (.wrl 0x43 0 0 0 0 (List.replicate 12 0) [0]) = false := by decide +kernel
theorem test_header_of_eleven_words : WellFormed (.header none (List.replicate 11 0)) = false := by decide +kernel
theorem test_empty_frame : WellFormed (.frame []) = false := by decide +kernel
theorem test_bar0_read_off_four : WellFormed (.bar0Read 2 4 false) = false := by decide +kernel
theorem test_bar2_read_too_long : WellFormed (.bar2Read 0 4097 false) = false := by decide +kernel
theorem test_bar0_write_past_its_end : WellFormed (.bar0Write 0xFFFFFFF [some 1, some 2]) = false := by decide +kernel
theorem test_bar2_write_of_nothing : WellFormed (.bar2Write 0 []) = false := by decide +kernel
theorem test_whole_line : WellFormed (.wrl 0x43 0 0 0 0 (List.replicate 12 0) [1, 2, 3, 4]) = true := by decide +kernel

end Sys2Proof.Tests.Form

/-! ### Words of each family of engine instructions, from Tables 7.1 to 7.14 -/

namespace Sys2Proof.Tests.Words

/-- ADDS X3, X1, X2 (Table 7.4): OP 1, S, FN 0, RD 3, RA 1, RB 2. -/
theorem test_alu : decodeInsn 0x0606240000 0 = some (.alu .add true 3 1 (.reg 2)) := by decide +kernel
/-- SUBI X0, X0, −1 (Table 7.4): the immediate in bits 20 to 0. -/
theorem test_alu_immediate : decodeInsn 0x08401FFFFF 0 = some (.alu .sub false 0 0 (.imm 0x1FFFFF)) := by decide +kernel
/-- MVI40 (Table 7.7): L set and the immediate in the second word. -/
theorem test_long_immediate : decodeInsn 0x903E000000 0x123456789A = some (.mvi 15 (.imm40 0x123456789A)) := by decide +kernel
/-- LD with post-modify by M (Table 7.8). -/
theorem test_load : decodeInsn 0x14A4C00000 0 = some (.ld 1 2 3 .postM) := by decide +kernel
/-- BCC EQ to 0x100 (Table 7.9). -/
theorem test_branch : decodeInsn 0x1C20004000 0 = some (.bcc .eq 0x100) := by decide +kernel
/-- EXT X4, A1 by 40 (Table 7.12). -/
theorem test_extract : decodeInsn 0x3008000828 0 = some (.acc .ext false 4 0 1 0 40) := by decide +kernel
/-- HURDLE X7 (Table 7.13). -/
theorem test_hurdle : decodeInsn 0x344E000000 0 = some (.hurdle 7) := by decide +kernel
/-- NLD X1, [X2] (Table 7.14). -/
theorem test_network_load : decodeInsn 0x3802400000 0 = some (.nld 1 (.reg 2)) := by decide +kernel

end Sys2Proof.Tests.Words

/-! ### Numbers that the spec works out -/

namespace Sys2Proof.Tests.Spec

/-- spec/01_architecture.md: lane LN29 attaches to tile 2:05, flat tile 37. -/
theorem test_lane_29 : laneTile 29 = 37 := by decide +kernel
/-- spec/01_architecture.md: word 0x17 of cell 2:09:05:63 is at 0x50_14AF_E0B8 of the readout window. -/
theorem test_cell_address : targetOf 0x5014AFE0B8 = .readout .committed 41 (5 * 0x80000 + 63 * 0x2000 + 0x17 * 8) := by decide +kernel
/-- spec/03_cells.md: the increment row of Table 3.7 on 0xFF gives 0x100. -/
theorem test_chain_increment : chain (2 * 2 ^ 8 + 0xA) 0xFF 0 1 = 0x100 := by decide +kernel
/-- spec/03_cells.md: with SEG = 0b010 four counters of 10 bits count, those whose bit of C is set. -/
theorem test_chain_four_counters : chain (2 * 2 ^ 12 + 2 * 2 ^ 8 + 0xA) 0xFF 0 0x401 = 0x500 := by decide +kernel
/-- spec/10_triggers.md: an ADC sample at byte 0x1_0B03 of the window of lane LN03 is at 0x40_00E1_0B03. -/
theorem test_window_address : targetOf 0x4000E10B03 = .window 3 ∧ qmBase 3 + 0x200000 + 0x10B03 = 0x4000E10B03 := by decide +kernel
/-- spec/10_triggers.md: the crossing between −20 and 40, with −80 and 90 around them, is at 83/256. -/
theorem test_crossing_fraction : photoFinish true 0 (-80) (-20) 40 90 = 83 := by decide +kernel
/-- R340: the CRC of the bytes of "123456789". -/
theorem test_crc32c : crc32c [0x31, 0x32, 0x33, 0x34, 0x35, 0x36, 0x37, 0x38, 0x39] = 0xE3069283 := by decide +kernel
/-- spec/14_bitstream.md: frame address 0x4_8064 is instruction row 100 of tile 0:09, 0x4_9032 its schedule row 50. -/
theorem test_frame_address : (frTile 0x48064, frType 0x48064, frRow 0x48064) = (9, 0, 100) ∧
    (frTile 0x49032, frType 0x49032, frRow 0x49032) = (9, 1, 50) := by decide +kernel
/-- R418: word 0 of the FREEZE record. -/
theorem test_freeze_record : freezeWord0 = 0x5402000000 := by decide +kernel
/-- spec/18_host_and_registers.md: READ_VIN at 24.000 V. -/
theorem test_linear11_volts : linear11 24000 1000 false = 0xDB00 := by decide +kernel
/-- spec/18_host_and_registers.md: READ_PIN at 218 W. -/
theorem test_linear11_watts : linear11 218000 1000 false = 0xF368 := by decide +kernel

end Sys2Proof.Tests.Spec

/-! ### Small states that several witnesses share -/

namespace Sys2Proof.Tests

def s0 := State.reset

def rnd (k : Nat) : Nat :=
  let x := (List.range 4).foldl (fun x _ => (x ^^^ (x / 2 ^ 29)) * 0xBF58476D1CE4E5B9 % 2 ^ 64)
    ((k * 6364136223846793005 + 1442695040888963407) % 2 ^ 64)
  (x / 2 ^ 8) * 2 ^ 56 + x

def wv (k : Nat) : Word := match rnd k % 7 with | 0 => 0 | 1 => 0x8000000000 | 2 => 0x7FFFFFFFFF | 3 => BitVec.ofNat 40 (rnd (k+5) % 64) | 4 => -1 | _ => BitVec.ofNat 40 (rnd (k+11))

def setst (v : Nat) (s : State) := (s.setFld F.SE_STATUS.STATE 3 0 v).setFld F.SUP_STATUS.STATE 0 0 v

def pr (f : ProcSt → ProcSt) (s : State) : State := { s with procs := s.procs.map fun e => (e.1, f e.2) }

def irq (s : State) := ((s.setFld F.SE_IRQ_EN.EN 3 0 0xF0000).setFld F.SUP_IRQ_EN.EN 0 0 0xF0000).setFld F.SE_IRQ_PEND.EDGE 3 0 5 |>.setFld F.SUP_IRQ_PEND.EDGE 0 0 5

def setL (f : Fld) (v : Nat) (s : State) : State := [5, 40].foldl (fun s l => s.setLf l f v) s

def setLs (v : LaneSt) (s : State) : State := { s with lanes := [(5, v), (40, v)] }

def rate (s : State) : State := setL F.LN_RATE.BAUD 20000000 s

def chs (v : HeatCh) (s : State) : State := { s with heats := [(3, v), (15, v), (51, v), (63, v)] }

def runS : State := { State.reset with mode := .run, time := { State.reset.time with now := 5*10^9 } }

def lns (v : LaneSt) (s : State) : State := { s with lanes := (List.range 48).map fun l => (l, v) }

def mkH (fab : Bool) : Heat := { seq := 7, base := 0x40000, evb := 0, capOut := 1000, fabric := fab, unit := 5, tap := 3, felt := false, decim := 4, whold := false, event := 127, stamp := 4*10^9, frac := 0, mapped := true, servo := 1, trigE := 99950, pre := 100, post := 20, firstE := 99850, firstT := 3, stride := 4, next := 99850 }

def ws (n : Nat) : List Word := (List.range n).map fun k => BitVec.ofNat 40 (rnd k)

def sw (n : Nat) (s : State) := s.setFld F.NOC_SWAP_STAT.STATE 0 0 n

def offl (s : State) : State := (List.range 128).foldl (fun s n => setNode s n 2) s

def ld (l : LoadSt) (s : State) : State := { s with load := l }

def f0 (f : Fld) (v : Nat) (s : State) : State := s.setFld f 0 0 v

def running (s : State) : State := { s with time := { s.time with running := true } }

def zf (f : Fld) (v : Nat) (s : State) : State := [0,3].foldl (fun s r => [0,9].foldl (fun s z => s.setFld f r z v) s) s

def zz (v : Zone) (s : State) : State := { s with zones := [(0, v), (9, v), (48, v), (57, v)] }

def R : ZoneRect := ⟨0,0,1,1⟩

def g (f : Fld) (v : Nat) (s : State) : State := [0,3].foldl (fun s c => s.setFld f c 0 v) s

def ps := g F.PWR_STAT.STATE

def di (d st : Nat) (s : State) := g F.PWR_STAT.STEP st (g F.PWR_STAT.DIR d s)

def pw (v : PwrSt) (s : State) : State := { s with pwr := [(0, v), (3, v)] }

def fz (f : Frz) (s : State) : State := { s with frz := f }

def wmem (a : Nat) (w : List Word) (s : State) : State := match execWr 0x43 1 (BitVec.ofNat 40 a) 0xFFF 0 w s with | .next t => {t with resps := []} | _ => s

def fillm (s : State) : State := wmem 0x1040 ((ws 30).drop 18) (wmem 0x1000 ((ws 20).drop 8) s)

def hst (h : HostSt) (s : State) : State := { s with host := h }

end Sys2Proof.Tests

/-! ### Witnesses: the hypotheses of each clause are met together -/

namespace Sys2Proof.Tests.SplitReadsAndTimestamps

def sa : State := { State.reset with time := { State.reset.time with now := 10^15+77*1024, strideNum := 2^41+9, ppsInSec := 44, tsFifo := [⟨1,true,2,77,10^13+3⟩,⟨0,false,2,77,10^12+3⟩] } }
def sb := sa.setLane 5 { sa.lane 5 with tsFifo := [7*10^12+5, 9], chkBits := 2^41+3, chkErrs := 5 }
def sc := (sb.setFld F.TIM_CTRL.TS_EN0 0 0 1).setFld F.TIM_CTRL.TS_EN1 0 0 1
def sd := { sc with time := { sc.time with tsFifo := List.replicate 64 ⟨1,true,2,77,10^13+3⟩ } }
def se := sb.setFld F.TIM_TL_CFG.ROLE 0 0 1
def sf := (sb.setFld F.TIM_TL_CFG.ROLE 0 0 2).setFld F.TIM_STATUS.TL_LOCK 0 0 1

/-- The hypotheses of Obligations.SplitReadsAndTimestamps. -/
theorem witness : (let s : State := sb
    let e := { port := 1, transmit := true, msg := 2, seq := 77, stamp := 10000000000003 }
    let es := [{ port := 0, transmit := false, msg := 2, seq := 77, stamp := 1000000000003 }]
    s.time.tsFifo = e :: es) ∧
    (let s : State := sb
    let l : Lane := 5
    let e := 7000000000005
    let es := [9]
    (s.lane l).tsFifo = e :: es) ∧
    (let s : State := sd
    let port : Fin 2 := 0
    let msg : BitVec 4 := 0
    msg.toNat < 4 ∧ tsEnabled s port = true ∧ s.time.tsFifo.length = 64) ∧
    (let s : State := sc
    let port : Fin 2 := 0
    let msg : BitVec 4 := 0
    msg.toNat < 4 ∧ tsEnabled s port = true ∧ s.time.tsFifo.length < 64) ∧
    (let s : State := se
    s.fld F.TIM_TL_CFG.ROLE = 1) ∧
    (let s : State := sf
    let sec := (0 : Word)
    let frac := (0 : Word)
    let hop := 0
    let ring := 0
    let arrival : Nat := 0
    let ofs : Int := 0
    s.fld F.TIM_TL_CFG.ROLE = 2 ∧ s.time.tlIgnore ≤ s.time.now ∧ hop < 15 ∧ ofs = arrival - (sec.toNat * unitsPerSec + frac.toNat : Nat) - pathDelay s ring hop ∧ -(2 ^ 39) ≤ ofs ∧ ofs < 2 ^ 39) ∧
    (let s : State := se
    (s.fld F.TIM_TL_CFG.ROLE = 1 ∨ s.fld F.TIM_TL_CFG.ROLE = 2) ∧ s.time.tlIgnore ≤ s.time.now) ∧
    (let s : State := sf
    s.fld F.TIM_TL_CFG.ROLE = 2 ∧ s.fld F.TIM_STATUS.TL_LOCK = 1) :=
  ⟨by decide +kernel, by decide +kernel, by decide +kernel, by decide +kernel, by decide +kernel, ⟨by decide +kernel, by decide +kernel, by decide +kernel, by simp [pathDelay, hopDelay, show sf.fld F.TIM_TL_CFG.HOPDLY = 0 by decide +kernel], by decide +kernel, by decide +kernel⟩, by decide +kernel, by decide +kernel⟩

end Sys2Proof.Tests.SplitReadsAndTimestamps

namespace Sys2Proof.Tests.DeviceTimeAndReferences

def tm (f : TimeBase → TimeBase) (s : State) : State := { s with time := f s.time }
def now := tm (fun t => { t with now := 5*10^12+3, sub := 2^39+1 }) s0
def armed := tm (fun t => { t with stepArmed := true }) now
def bad := armed.setFld F.TIM_ADJ_FRAC.FRAC 0 0 (2^40-1)
def run := { now with mode := .run }
def held := ((now.setFld F.TIM_STRIDE_CFG.S 0 0 100)).setReg .TIM_RATE 0 0 (-500)
def pps := tm (fun t => { t with ppsDue := true, ppsUntil := some 7 }) ((now.setFld F.TIM_CTRL.PPS_OUT_EN 0 0 1))
def refa := (now.setFld F.TIM_STATUS.REF_ACTIVE 0 0 1).setFld F.TIM_STATUS.REF_VALID 0 0 1
def refv := now.setFld F.TIM_STATUS.REF_VALID 0 0 1
def refarm := tm (fun t => { t with refArmed := true }) now

/-- The hypotheses of Obligations.DeviceTimeAndReferences. -/
theorem witness : (let s : State := bad
    s.time.stepArmed = true ∧ 999999999 < (s.reg .TIM_ADJ_FRAC).toNat / 1024) ∧
    (let s : State := armed
    s.time.stepArmed = true ∧ (s.reg .TIM_ADJ_FRAC).toNat / 1024 ≤ 999999999 ∧ s.time.running = false ∧ s.time.start = none ∧ s.guns = [] ∧ (∀ r, (s.pw r).resume = none)) ∧
    (let s : State := armed
    s.time.stepArmed = true ∧ (s.reg .TIM_ADJ_FRAC).toNat / 1024 ≤ 999999999) ∧
    (let s : State := tm (fun t => { t with now := 102400*7-5}) (s0.setFld F.TIM_CTRL.REF_OUT_EN 0 0 1)
    let v : Word := 0x2B575EA3E0
    bitsOf v.toNat 27 21 ≤ 100 ∧ (s.mode = .blank ∨ s.mode = .loading ∨ s.mode = .frozen) ∧ 640 ≤ bitsOf v.toNat 10 0 ∧ bitsOf v.toNat 10 0 ≤ 1024) ∧
    (let s : State := run
    let v : Word := 0
    bitsOf v.toNat 27 21 ≤ 100 ∧ (¬(s.mode = .blank ∨ s.mode = .loading ∨ s.mode = .frozen)) ∧ bitsOf v.toNat 10 0 ≠ s.fld F.TIM_STRIDE_CFG.P) ∧
    (let s : State := held
    s.time.running = false ∧ s.stepsS ≠ 0 ∧ 0 ≤ s.strideK ∧ (boundaryAt s.epochReg s.strideK s.strideT 0 ≤ s.time.now) ∧ s.time.now < timeSpan ∧ 0 < s.fld F.TIM_STRIDE_CFG.P) ∧
    (let s : State := pps
    s.time.ppsDue = true ∧ s.fld F.TIM_CTRL.PPS_OUT_EN = 1 ∧ s.fld F.TIM_PPS_CFG.WIDTH ≠ 0) ∧
    (let s : State := pps
    let at_ := 7
    s.time.ppsUntil = some at_ ∧ at_ ≤ s.time.now) ∧
    (let s : State := tm (fun t => { t with now := 102400*7-5}) (s0.setFld F.TIM_CTRL.REF_OUT_EN 0 0 1)
    let rising := true
    rising ≠ s.on F.TIM_PPS_CFG.PPS_IN_EDGE) ∧
    (let s : State := tm (fun t => { t with now := 102400*7-5}) (s0.setFld F.TIM_CTRL.REF_OUT_EN 0 0 1)
    s.fld F.TIM_STATUS.REF_ACTIVE = 0) ∧
    (let s : State := refa
    s.fld F.TIM_STATUS.REF_ACTIVE = 1) ∧
    (let s : State := refarm
    s.refAbsent ≤ s.time.now ∧ s.time.refArmed = true) ∧
    (let s : State := tm (fun t => { t with now := 102400*7-5}) (s0.setFld F.TIM_CTRL.REF_OUT_EN 0 0 1)
    s.refAbsent ≤ s.time.now ∧ s.time.refArmed = false) ∧
    (let s : State := tm (fun t => { t with now := 102400*7-5}) (s0.setFld F.TIM_CTRL.REF_OUT_EN 0 0 1)
    s.fld F.TIM_STATUS.REF_ACTIVE = 0 ∧ s.fld F.TIM_STATUS.REF_VALID = 0) ∧
    (let s : State := refv
    s.fld F.TIM_STATUS.REF_ACTIVE = 0 ∧ s.fld F.TIM_STATUS.REF_VALID = 1) ∧
    (let sel : BitVec 2 := 2
    2 ≤ sel.toNat) :=
  ⟨by decide +kernel, ⟨by decide +kernel, by decide +kernel, by decide +kernel, by decide +kernel, by decide +kernel, fun _ => rfl⟩, by decide +kernel, by decide +kernel, by decide +kernel, by decide +kernel, by decide +kernel, by decide +kernel, by decide +kernel, by decide +kernel, by decide +kernel, by decide +kernel, by decide +kernel, by decide +kernel, by decide +kernel, by decide +kernel⟩

end Sys2Proof.Tests.DeviceTimeAndReferences

namespace Sys2Proof.Tests.CellOperationsWriteTheirResults

/-- The hypotheses of Obligations.CellOperationsWriteTheirResults. -/
theorem witness : (let s : State := State.reset
    let ci : Cell := 0
    let n : BitVec 80 := 0xDB20254D71DDDB1F742C
    (∀ w, mget 0 s.fab.dmemErr (entryIx ci w (s.committed ci w)) = 0) ∧ n.getLsbD 76 = true) ∧
    (let s : State := State.reset
    let ci : Cell := 0
    let n : BitVec 80 := 0xB97EFAB1CA31B956297E
    (∀ w, mget 0 s.fab.dmemErr (entryIx ci w (s.committed ci w)) = 0) ∧ n.getLsbD 76 = true ∧ bitsOf n.toNat 45 40 < 40 ∧ bitsOf n.toNat 39 34 < 40 ∧ bitsOf n.toNat 33 28 < 40 ∧ bitsOf n.toNat 27 22 < 40 ∧ bitsOf n.toNat 21 16 < 40) ∧
    (let s : State := State.reset
    let ci : Cell := 0
    let n : BitVec 80 := 0xDB20254D71DDDB1F742C
    (∀ w, mget 0 s.fab.dmemErr (entryIx ci w (s.committed ci w)) = 0) ∧ n.getLsbD 76 = true ∧ bitsOf n.toNat 8 3 < 40 ∧ bitsOf n.toNat 1 0 ≠ 3) ∧
    (let s : State := State.reset
    let ci : Cell := 0
    let n : BitVec 80 := 0xB97EFAB1CA31B956297E
    (∀ w, mget 0 s.fab.dmemErr (entryIx ci w (s.committed ci w)) = 0) ∧ n.getLsbD 76 = true ∧ bitsOf n.toNat 14 12 < 5 ∧ bitsOf n.toNat 11 10 ≠ 3 ∧ bitsOf n.toNat 9 8 ≠ 3) ∧
    (let s : State := State.reset
    let ci : Cell := 0
    let n : BitVec 80 := 0x59C8FAFE153849C88086
    (∀ w, mget 0 s.fab.dmemErr (entryIx ci w (s.committed ci w)) = 0) ∧ n.getLsbD 76 = true ∧ bitsOf n.toNat 14 10 = 0 ∧ bitsOf n.toNat 9 0 = 0x086) ∧
    (let s : State := State.reset
    let ci : Cell := 0
    let n : BitVec 80 := 0x7E9B55E85D346E9A8129
    (∀ w, mget 0 s.fab.dmemErr (entryIx ci w (s.committed ci w)) = 0) ∧ n.getLsbD 76 = true ∧ bitsOf n.toNat 14 10 = 0 ∧ bitsOf n.toNat 9 0 = 0x129) :=
  ⟨⟨fun _ => rfl, by decide +kernel⟩, ⟨fun _ => rfl, by decide +kernel, by decide +kernel, by decide +kernel, by decide +kernel, by decide +kernel, by decide +kernel⟩, ⟨fun _ => rfl, by decide +kernel, by decide +kernel, by decide +kernel⟩, ⟨fun _ => rfl, by decide +kernel, by decide +kernel, by decide +kernel, by decide +kernel⟩, ⟨fun _ => rfl, by decide +kernel, by decide +kernel, by decide +kernel⟩, ⟨fun _ => rfl, by decide +kernel, by decide +kernel, by decide +kernel⟩⟩

end Sys2Proof.Tests.CellOperationsWriteTheirResults

namespace Sys2Proof.Tests.CellAndTileMemoryUpkeep

def fx : State := { s0 with fab := { s0.fab with fixes := [(5, 77), (6, 8), (2048*512+3, 9)], dmemErr := [(5,4),(6,2),(2048*512+3,1)] }, mode := .run }
def rk : State := { s0 with fab := { s0.fab with rck := [(0, {src := 2, sel := 3, count := 5, high := true, switching := true}), (9, {switching := true})] } }
def mar : State := { s0 with tiles := [(0, { march := true })], mem := [(0x40FFFFFFFF, 3),(0x4100000000, 7),(0x41000FFFFF, 9),(0x4100100000,4)] }
def sv := s0.setFld F.SPD_CTRL.STARVE_THR 0 0 5
def marK : State := { s0 with tiles := [(0, { march := true, marchKeep := true })], mem := mar.mem }
def r2 := (((s0.setFld F.QC_REPAIR.VALID 0 1 1).setFld F.QC_REPAIR.ROW 0 1 1).setFld F.QC_REPAIR.VALID 0 5 1).setFld F.QC_REPAIR.VALID 0 12 1
def rep2 : State := { s0 with tiles := [(0, { repairBusy := [0,100,101,5,7,112] })], memErr := [(5, 1), (0x4000000000, 1), (0x4100000000, 4)], mem := [(0x4000000000,9), (0x4100000000,9)] }
def emq (a v : Nat) : State := { (s0.setFld F.SPD_CTRL.QSCRUB_EN 0 0 1).setFld F.SPD_CTRL.SCRUB_EN 0 0 1 with memErr := [(a, v)], mode := .run }

/-- The hypotheses of Obligations.CellAndTileMemoryUpkeep. -/
theorem witness : (let s : State := fx
    let ci : Cell := 0
    let k := 5
    let v := 0x4D
    let rest := [(6, 8)]
    (s.time.running = false ∨ writePortIdle s ci s.time.step = true) ∧ s.cellFixes ci = (k, v) :: rest) ∧
    (let s : State := emq (qmAddr 0 0 2) 4
    let ci : Cell := 0
    s.fld F.CELL_CTRL.SCRUB_EN (ci.val / 1024) = 1 ∧ s.mode ≠ .blank ∧ s.mode ≠ .loading ∧ (s.time.running = false ∨ portCIdle s ci s.time.step = true) ∧ mget 0 s.fab.scrubPos ci < 2047 ∧ mget 0 s.fab.dmemErr (2048 * ci + mget 0 s.fab.scrubPos ci) = 0) ∧
    (let s : State := emq (qmAddr 0 0 2) 4
    let ci : Cell := 0
    s.fld F.CELL_CTRL.SCRUB_EN (ci.val / 1024) = 1 ∧ s.mode ≠ .blank ∧ s.mode ≠ .loading ∧ (s.time.running = false ∨ portCIdle s ci s.time.step = true)) ∧
    (let s : State := rk
    let r : Region := 1
    let n : Fin 8 := 1
    (mget {} s.fab.rck (8 * r.val + n.val)).switching = true ∧ (mget {} s.fab.rck (8 * r.val + n.val)).high = false) ∧
    (let s : State := s0
    (∀ a, mget 0 s.memErr a = 0)) ∧
    (let s : State := s0
    (∀ a, mget 0 s.memErr a = 0)) ∧
    (let s : State := emq (qmAddr 0 0 2) 4
    let t : Tile := 0
    let row : Fin 98304 := 0
    let k := 2
    let b := 2
    let a := fun j : Nat => qmAddr t ((4 * row.val + j) / 12) ((4 * row.val + j) % 12)
    s.fld F.SPD_CTRL.QSCRUB_EN t = 1 ∧ k < 4 ∧ b < 47 ∧ mget 0 s.memErr (a k) = 2 ^ b ∧ (∀ j, j < 4 → j ≠ k → mget 0 s.memErr (a j) = 0)) ∧
    (let s : State := emq (spdAddr 0 9) 4
    let t : Tile := 0
    let row : Fin 16384 := 1
    let k := 1
    let b := 2
    let a := fun j : Nat => spdAddr t (8 * row.val + j)
    s.fld F.SPD_CTRL.SCRUB_EN t = 1 ∧ k < 8 ∧ b < 47 ∧ mget 0 s.memErr (a k) = 2 ^ b ∧ (∀ j, j < 8 → j ≠ k → mget 0 s.memErr (a j) = 0)) ∧
    (let s : State := sv
    let t : Tile := 0
    let n := 5
    s.fld F.SPD_CTRL.STARVE_THR t ≠ 0 ∧ s.fld F.SPD_CTRL.STARVE_THR t ≤ n ∧ bitOf (s.fld F.SPD_STATUS.EVT t) 1 = false) ∧
    (let s : State := emq (qmAddr 0 0 2) 4
    let t : Tile := 0
    let n := 0
    (s.fld F.SPD_CTRL.STARVE_THR t = 0 ∨ n < s.fld F.SPD_CTRL.STARVE_THR t)) ∧
    (let v : Word := 0x8000000000
    v.getLsbD 39 = true) ∧
    (let s : State := marK
    let t : Tile := 0
    (mget {} s.tiles t).march = true ∧ (mget {} s.tiles t).marchFails = []) ∧
    (let s : State := emq (qmAddr 0 0 2) 4
    let t : Tile := 0
    let n : Fin 24 := 0
    let v : Word := 0x8000000000
    n.val < 8 ∧ v.getLsbD 39 = true ∧ s.fld F.SPD_REPAIR.VALID t n = 0) ∧
    (let s : State := emq (qmAddr 0 0 2) 4
    let t : Tile := 0
    let n : Fin 24 := 0
    let v : Word := 0x8000000000
    v.getLsbD 39 = true ∧ s.fld F.QC_REPAIR.VALID t n = 0) ∧
    (let s : State := r2
    let t : Tile := 0
    let n : Fin 24 := 1
    let v : Word := 0x8000000000
    v.getLsbD 39 = true ∧ s.fld F.QC_REPAIR.VALID t n = 1) ∧
    (let s : State := rep2
    let t : Tile := 0
    let n : Fin 24 := 0
    n.val < 8 ∧ n.val ∈ (mget {} s.tiles t).repairBusy) ∧
    (let s : State := rep2
    let t : Tile := 0
    let n : Fin 24 := 0
    100 + n.val ∈ (mget {} s.tiles t).repairBusy) :=
  ⟨by decide +kernel, by decide +kernel, by decide +kernel, by decide +kernel, fun _ => rfl, fun _ => rfl, by decide +kernel, by decide +kernel, by decide +kernel, by decide +kernel, by decide +kernel, by decide +kernel, by decide +kernel, by decide +kernel, by decide +kernel, by decide +kernel, by decide +kernel⟩

end Sys2Proof.Tests.CellAndTileMemoryUpkeep

namespace Sys2Proof.Tests.QueueRangesAndCommands

def w (k : Nat) : Word := BitVec.ofNat 40 k
def qcfg := (s0.setFld F.QC_SIZE.LEN 0 0 2).setFld F.QC_SIZE.BASE 0 0 10
def full := appendWords qcfg 0 0 0 ((List.range 20).map w)
def rd := (full.setFld F.QC_CFG.DIR 0 0 1)
def go (s : State) : State := { s with time := { s.time with running := true }, mode := .run }
def gq (s : State) (q d : Nat) : State := ((s.setFld F.QC_SIZE.LEN 0 q 2).setFld F.QC_CFG.PORT 0 q 1).setFld F.QC_CFG.DIR 0 q d
def gr := gq (gq (gq (gq s0 0 0) 1 1) 2 0) 3 0

/-- The hypotheses of Obligations.QueueRangesAndCommands. -/
theorem witness : (let s : State := gr
    let t : Tile := 0
    let q : QueueIx := 0
    let v : Word := 0
    let fits := fun base len : Nat => base + len ≤ 32768 ∧
      (∀ k : QueueIx, k ≠ q → s.fld F.QC_SIZE.LEN t k ≠ 0 → len ≠ 0 →
        base + len ≤ s.fld F.QC_SIZE.BASE t k ∨ s.fld F.QC_SIZE.BASE t k + s.fld F.QC_SIZE.LEN t k ≤ base) ∧
      (len = 0 ∨ s.fld F.QC_CFG.MODE t q ≠ 2 ∨ s.fld F.QC_CFG.DIR t q = 0)
    (s.q t q).count = 0 ∧ (s.q t q).marks = [] ∧ bitsOf v.toNat 15 0 ≤ 32768 ∧ fits (bitsOf v.toNat 30 16) (bitsOf v.toNat 15 0)) ∧
    (let s : State := full
    let t : Tile := 0
    let q : QueueIx := 0
    (s.q t q).count ≠ 0) ∧
    (let s : State := gr
    let t : Tile := 0
    let q : QueueIx := 0
    let v : Word := 0x7FFF0002
    (s.q t q).count = 0 ∧ (s.q t q).marks = [] ∧ bitsOf v.toNat 15 0 ≤ 32768 ∧ 32768 < bitsOf v.toNat 30 16 + bitsOf v.toNat 15 0) ∧
    (let s : State := gr
    let t : Tile := 0
    let q : QueueIx := 0
    let open_ := s.time.running = false ∨ s.regionRuns (t.val / 16) = false ∨ s.tileIsolated t = true ∨
      s.fld F.QC_SIZE.LEN t q = 0
    open_) ∧
    (let s : State := gr
    let t : Tile := 0
    let q : QueueIx := 0
    let len : BitVec 16 := 0
    let fits := fun base len : Nat => base + len ≤ 32768 ∧
      (∀ k : QueueIx, k ≠ q → s.fld F.QC_SIZE.LEN t k ≠ 0 → len ≠ 0 →
        base + len ≤ s.fld F.QC_SIZE.BASE t k ∨ s.fld F.QC_SIZE.BASE t k + s.fld F.QC_SIZE.LEN t k ≤ base) ∧
      (len = 0 ∨ s.fld F.QC_CFG.MODE t q ≠ 2 ∨ s.fld F.QC_CFG.DIR t q = 0)
    let open_ := s.time.running = false ∨ s.regionRuns (t.val / 16) = false ∨ s.tileIsolated t = true ∨
      s.fld F.QC_SIZE.LEN t q = 0
    open_ ∧ fits (s.fld F.QC_SIZE.BASE t q) len.toNat) ∧
    (let s : State := go full
    let t : Tile := 0
    let q : QueueIx := 0
    let open_ := s.time.running = false ∨ s.regionRuns (t.val / 16) = false ∨ s.tileIsolated t = true ∨
      s.fld F.QC_SIZE.LEN t q = 0
    ¬open_) ∧
    (let s : State := go full
    let t : Tile := 0
    let q : QueueIx := 0
    let open_ := s.time.running = false ∨ s.regionRuns (t.val / 16) = false ∨ s.tileIsolated t = true ∨
      s.fld F.QC_SIZE.LEN t q = 0
    ¬open_) ∧
    (let s : State := rd
    let t : Tile := 0
    let q : QueueIx := 0
    let v : Word := 5
    let n := 5
    s.qCap t q ≠ 0 ∧ s.fld F.QC_CFG.DIR t q = 1 ∧ s.fld F.QC_CFG.PORT t q = 0 ∧ n = (bitsOf v.toNat 18 0 + s.qCap t q - (s.q t q).rd % s.qCap t q) % s.qCap t q ∧ (s.q t q).released < n) ∧
    (let s : State := rd
    let t : Tile := 0
    let q : QueueIx := 0
    let v : Word := 0
    let n := 0
    s.qCap t q ≠ 0 ∧ s.fld F.QC_CFG.DIR t q = 1 ∧ s.fld F.QC_CFG.PORT t q = 0 ∧ n = (bitsOf v.toNat 18 0 + s.qCap t q - (s.q t q).rd % s.qCap t q) % s.qCap t q ∧ n ≤ (s.q t q).released) ∧
    (let t : Tile := 63
    12 ≤ t.val % 16) ∧
    (let t : Tile := 0
    let v : Word := 0x8088000000
    t.val % 16 < 12 ∧ bitsOf v.toNat 34 32 ≤ 4 ∧ bitsOf v.toNat 26 24 ≤ 4) :=
  ⟨by decide +kernel, by decide +kernel, by decide +kernel, by decide +kernel, by decide +kernel, by decide +kernel, by decide +kernel, by decide +kernel, by decide +kernel, by decide +kernel, by decide +kernel⟩

end Sys2Proof.Tests.QueueRangesAndCommands

namespace Sys2Proof.Tests.MainMemoryUpkeep

def ini := (s0.setFld F.MEM_INIT_BASE.ADDR 0 0 0x1000).setFld F.MEM_INIT_LEN.BLOCKS 0 0 3
def busy : State := { (s0.setMemSt 0 { s0.memSt 0 with initRun := some (0x40000, 3), copying := [0,1,5,31] }) with mem := [(0x3FFFF,1),(0x40000,2),(0x400BF,3),(0x400C0,4)] }
def ev := s0.setFld F.MEM_STATUS.EVT 0 0 4
def r1 := ((s0.setFld F.MEM_REPAIR.VALID 0 1 1).setFld F.MEM_REPAIR.ROW 0 1 5).setFld F.MEM_REPAIR.BANK 0 1 1
def sce := (s0.setMemSt 0 { s0.memSt 0 with scrubPos := 2^29-1 })
def scd := s0.setFld F.MEM_CTRL.SCRUB_EN 0 0 0

/-- The hypotheses of Obligations.MainMemoryUpkeep. -/
theorem witness : (let s : State := scd
    let r : Region := 0
    s.fld F.MEM_CTRL.SCRUB_EN r = 0) ∧
    (let s : State := r1
    let r : Region := 0
    let good := (rsDecode (bytesAt s.mem (r.val * 0x800000000 + 64 * (s.memSt r).scrubPos) 64)).2 = 0
    s.fld F.MEM_CTRL.SCRUB_EN r = 1 ∧ memOnline s (r * 0x800000000) = true ∧ (s.memSt r).scrubPos + 1 < 2 ^ 29 ∧ good) ∧
    (let s : State := sce
    let r : Region := 0
    let good := (rsDecode (bytesAt s.mem (r.val * 0x800000000 + 64 * (s.memSt r).scrubPos) 64)).2 = 0
    s.fld F.MEM_CTRL.SCRUB_EN r = 1 ∧ memOnline s (r * 0x800000000) = true ∧ (s.memSt r).scrubPos + 1 = 2 ^ 29 ∧ good) ∧
    (let s : State := ini
    let r : Region := 0
    let base := s.fld F.MEM_INIT_BASE.ADDR r * 64
    let n := s.fld F.MEM_INIT_LEN.BLOCKS r
    let fits := (s.memSt r).initRun = none ∧ memRegion base = r ∧ base + 64 * n ≤ (r.val + 1) * 0x800000000
    fits ∧ n ≠ 0) ∧
    (let s : State := r1
    let r : Region := 0
    let base := s.fld F.MEM_INIT_BASE.ADDR r * 64
    let n := s.fld F.MEM_INIT_LEN.BLOCKS r
    let fits := (s.memSt r).initRun = none ∧ memRegion base = r ∧ base + 64 * n ≤ (r.val + 1) * 0x800000000
    fits ∧ n = 0) ∧
    (let s : State := r1
    let r : Region := 1
    let base := s.fld F.MEM_INIT_BASE.ADDR r * 64
    let n := s.fld F.MEM_INIT_LEN.BLOCKS r
    let fits := (s.memSt r).initRun = none ∧ memRegion base = r ∧ base + 64 * n ≤ (r.val + 1) * 0x800000000
    ¬fits) ∧
    (let s : State := busy
    let r : Region := 0
    let base := 262144
    let n := 3
    (s.memSt r).initRun = some (base, n)) ∧
    (let s : State := r1
    let r : Region := 0
    let n : Fin 32 := 0
    let v : Word := 0x8000040005
    v.getLsbD 39 = true ∧ s.fld F.MEM_REPAIR.VALID r n = 0) ∧
    (let s : State := r1
    let r : Region := 0
    let n : Fin 32 := 1
    let v : Word := 0x8000000000
    v.getLsbD 39 = true ∧ s.fld F.MEM_REPAIR.VALID r n = 1) ∧
    (let s : State := busy
    let r : Region := 0
    let n : Fin 32 := 0
    n.val ∈ (s.memSt r).copying) ∧
    (let s : State := ev
    let r : Region := 0
    bitOf (s.fld F.MEM_STATUS.EVT r) 2 = true) ∧
    (let s : State := r1
    let r : Region := 0
    bitOf (s.fld F.MEM_STATUS.EVT r) 2 = false) :=
  ⟨by decide +kernel, by decide +kernel, by decide +kernel, by decide +kernel, by decide +kernel, by decide +kernel, by decide +kernel, by decide +kernel, by decide +kernel, by decide +kernel, by decide +kernel, by decide +kernel⟩

end Sys2Proof.Tests.MainMemoryUpkeep

namespace Sys2Proof.Tests.AluAndShiftResultsAndFlags

def bk (sup : Bool) (k : Nat) : Bank :=
  let aw := if sup then 40 else 48
  let pb := if sup then 16 else 17
  { x := (List.range 16).map (fun i => (i, wv (k*100+i))) |>.filter (fun e => e.2 ≠ 0)
    a := (List.range (if sup then 1 else 4)).map (fun i => (i, (match rnd (k*9+i) % 4 with | 0 => 2^(aw-1) | 1 => 2^(aw-1)-1 | _ => rnd (k*100+50+i) % 2^aw)))
    p := (List.range 8).map (fun i => (i, rnd (k*100+60+i) % 2^pb))
    m := (List.range 8).map (fun i => (i, rnd (k*100+70+i) % 2^(pb+1)))
    b := (List.range 8).map (fun i => (i, rnd (k*100+80+i) % 2^pb))
    l := (List.range 8).map (fun i => (i, if i % 2 = 0 then 0 else rnd (k*100+90+i) % 300 + 3))
    sr := BitVec.ofNat 40 (rnd (k+77) &&& 0xF08F000000) }
def near (b : Bank) : Bank := { b with p := b.p.map (fun e => (e.1, if e.1 % 2 = 1 then (((b.b.lookup e.1).getD 0) + e.1) % 2^16 else e.2)) }
def pst (sup fast : Bool) (k : Nat) : ProcSt :=
  { main := near (bk sup k), shadow := { near (bk sup (k+50)) with sr := (bk sup (k+50)).sr ||| 0x20000000 }
    cr := BitVec.ofNat 40 ((rnd k % 4) * 2^38 + (rnd (k+1) % 41) * 2^32), ira := rnd (k+2) % 16384, isr := wv (k+3), fra := rnd (k+4) % 16384 }
def mkp (k : Nat) (fast : Bool := false) : State :=
  let s := ((State.reset.setFld F.SE_STATUS.STATE 3 0 1).setFld F.SUP_STATUS.STATE 0 0 1)
  let s := if fast then (s.setFld F.SE_STATUS.FBANK 3 0 1).setFld F.SUP_STATUS.FBANK 0 0 1 else s
  let s := (s.setFld F.SE_PC.PC 3 0 (if k % 3 = 0 then 16382 else 77)).setFld F.SUP_PC.PC 0 0 (if k % 3 = 0 then 32767 else 77)
  { s with procs := [(3, pst false fast k), (64, pst true fast (k+7))], mode := .run }
def fly1 (s : State) : State := { s with procs := s.procs.map (fun e => (e.1, { e.2 with fly := [⟨1, 5, false, .sum 0 true 7 true false 0⟩, ⟨0, 6, false, .load 4 [9,10]⟩] })) }
def sts : List State := (List.range 6).map (fun k => mkp k) ++ (List.range 2).map (fun k => mkp (k+20) true)
def states : List State := sts ++ sts.map fly1

/-- The hypotheses of Obligations.AluAndShiftResultsAndFlags. -/
theorem witness : (let s : State := states.getD 0 {}
    let p : Proc := 3
    Issuing s p) ∧
    (let s : State := states.getD 0 {}
    let p : Proc := 3
    Issuing s p) :=
  ⟨by decide +kernel, by decide +kernel⟩

end Sys2Proof.Tests.AluAndShiftResultsAndFlags

namespace Sys2Proof.Tests.MovesConvertToTheRegisterWidth

def bk (sup : Bool) (k : Nat) : Bank :=
  let aw := if sup then 40 else 48
  let pb := if sup then 16 else 17
  { x := (List.range 16).map (fun i => (i, wv (k*100+i))) |>.filter (fun e => e.2 ≠ 0)
    a := (List.range (if sup then 1 else 4)).map (fun i => (i, (match rnd (k*9+i) % 4 with | 0 => 2^(aw-1) | 1 => 2^(aw-1)-1 | _ => rnd (k*100+50+i) % 2^aw)))
    p := (List.range 8).map (fun i => (i, rnd (k*100+60+i) % 2^pb))
    m := (List.range 8).map (fun i => (i, rnd (k*100+70+i) % 2^(pb+1)))
    b := (List.range 8).map (fun i => (i, rnd (k*100+80+i) % 2^pb))
    l := (List.range 8).map (fun i => (i, if i % 2 = 0 then 0 else rnd (k*100+90+i) % 300 + 3))
    sr := BitVec.ofNat 40 (rnd (k+77) &&& 0xF08F000000) }
def near (b : Bank) : Bank := { b with p := b.p.map (fun e => (e.1, if e.1 % 2 = 1 then (((b.b.lookup e.1).getD 0) + e.1) % 2^16 else e.2)) }
def pst (sup fast : Bool) (k : Nat) : ProcSt :=
  { main := near (bk sup k), shadow := { near (bk sup (k+50)) with sr := (bk sup (k+50)).sr ||| 0x20000000 }
    cr := BitVec.ofNat 40 ((rnd k % 4) * 2^38 + (rnd (k+1) % 41) * 2^32), ira := rnd (k+2) % 16384, isr := wv (k+3), fra := rnd (k+4) % 16384 }
def mkp (k : Nat) (fast : Bool := false) : State :=
  let s := ((State.reset.setFld F.SE_STATUS.STATE 3 0 1).setFld F.SUP_STATUS.STATE 0 0 1)
  let s := if fast then (s.setFld F.SE_STATUS.FBANK 3 0 1).setFld F.SUP_STATUS.FBANK 0 0 1 else s
  let s := (s.setFld F.SE_PC.PC 3 0 (if k % 3 = 0 then 16382 else 77)).setFld F.SUP_PC.PC 0 0 (if k % 3 = 0 then 32767 else 77)
  { s with procs := [(3, pst false fast k), (64, pst true fast (k+7))], mode := .run }
def sts : List State := (List.range 6).map (fun k => mkp k) ++ (List.range 2).map (fun k => mkp (k+20) true)
def states : List State := sts.take 4 ++ (sts.drop 6)

/-- The hypotheses of Obligations.MovesConvertToTheRegisterWidth. -/
theorem witness : (let s : State := states.getD 0 {}
    let p : Proc := 3
    Issuing s p) ∧
    (let s : State := states.getD 0 {}
    let p : Proc := 3
    Issuing s p) ∧
    (let s : State := states.getD 0 {}
    let p : Proc := 3
    Issuing s p) ∧
    (let s : State := states.getD 0 {}
    let p : Proc := 3
    let code : Fin 64 := 0
    Issuing s p ∧ codeOk (isSup p) code = true) ∧
    (let s : State := states.getD 0 {}
    let p : Proc := 3
    let code : Fin 64 := 59
    Issuing s p ∧ codeOk (isSup p) code = true) :=
  ⟨by decide +kernel, by decide +kernel, by decide +kernel, by decide +kernel, by decide +kernel⟩

end Sys2Proof.Tests.MovesConvertToTheRegisterWidth

namespace Sys2Proof.Tests.LoadsAndStoresPostModify

def bk (sup : Bool) (k : Nat) : Bank :=
  let aw := if sup then 40 else 48
  let pb := if sup then 16 else 17
  { x := (List.range 16).map (fun i => (i, wv (k*100+i))) |>.filter (fun e => e.2 ≠ 0)
    a := (List.range (if sup then 1 else 4)).map (fun i => (i, (match rnd (k*9+i) % 4 with | 0 => 2^(aw-1) | 1 => 2^(aw-1)-1 | _ => rnd (k*100+50+i) % 2^aw)))
    p := (List.range 8).map (fun i => (i, rnd (k*100+60+i) % 2^pb))
    m := (List.range 8).map (fun i => (i, rnd (k*100+70+i) % 2^(pb+1)))
    b := (List.range 8).map (fun i => (i, rnd (k*100+80+i) % 2^pb))
    l := (List.range 8).map (fun i => (i, if i % 2 = 0 then 0 else rnd (k*100+90+i) % 300 + 3))
    sr := BitVec.ofNat 40 (rnd (k+77) &&& 0xF08F000000) }
def near (b : Bank) : Bank := { b with p := b.p.map (fun e => (e.1, if e.1 % 2 = 1 then (((b.b.lookup e.1).getD 0) + e.1) % 2^16 else e.2)) }
def pst (sup fast : Bool) (k : Nat) : ProcSt :=
  { main := near (bk sup k), shadow := { near (bk sup (k+50)) with sr := (bk sup (k+50)).sr ||| 0x20000000 }
    cr := BitVec.ofNat 40 ((rnd k % 4) * 2^38 + (rnd (k+1) % 41) * 2^32), ira := rnd (k+2) % 16384, isr := wv (k+3), fra := rnd (k+4) % 16384 }
def mkp (k : Nat) (fast : Bool := false) : State :=
  let s := ((State.reset.setFld F.SE_STATUS.STATE 3 0 1).setFld F.SUP_STATUS.STATE 0 0 1)
  let s := if fast then (s.setFld F.SE_STATUS.FBANK 3 0 1).setFld F.SUP_STATUS.FBANK 0 0 1 else s
  let s := (s.setFld F.SE_PC.PC 3 0 (if k % 3 = 0 then 16382 else 77)).setFld F.SUP_PC.PC 0 0 (if k % 3 = 0 then 32767 else 77)
  { s with procs := [(3, pst false fast k), (64, pst true fast (k+7))], mode := .run }
def sts : List State := (List.range 6).map (fun k => mkp k) ++ (List.range 2).map (fun k => mkp (k+20) true)
def states : List State := sts

/-- The hypotheses of Obligations.LoadsAndStoresPostModify. -/
theorem witness : (let s : State := states.getD 0 {}
    let p : Proc := 3
    let w : Fin 4 := 0
    let xt : Fin 16 := 3
    let pn : Fin 8 := 0
    let am : AddrMode := AddrMode.plain
    Quiet s p ∧ (∀ a, mget 0 s.memErr a = 0) ∧ (Insn.ld w xt pn am).legal (isSup p) = true) := ⟨by decide +kernel, fun _ => rfl, by decide +kernel⟩

end Sys2Proof.Tests.LoadsAndStoresPostModify

namespace Sys2Proof.Tests.BranchesHaveTwoDelaySlots

def bk (sup : Bool) (k : Nat) : Bank :=
  let aw := if sup then 40 else 48
  let pb := if sup then 16 else 17
  { x := (List.range 16).map (fun i => (i, wv (k*100+i))) |>.filter (fun e => e.2 ≠ 0)
    a := (List.range (if sup then 1 else 4)).map (fun i => (i, (match rnd (k*9+i) % 4 with | 0 => 2^(aw-1) | 1 => 2^(aw-1)-1 | _ => rnd (k*100+50+i) % 2^aw)))
    p := (List.range 8).map (fun i => (i, rnd (k*100+60+i) % 2^pb))
    m := (List.range 8).map (fun i => (i, rnd (k*100+70+i) % 2^(pb+1)))
    b := (List.range 8).map (fun i => (i, rnd (k*100+80+i) % 2^pb))
    l := (List.range 8).map (fun i => (i, if i % 2 = 0 then 0 else rnd (k*100+90+i) % 300 + 3))
    sr := BitVec.ofNat 40 (rnd (k+77) &&& 0xF08F000000) }
def near (b : Bank) : Bank := { b with p := b.p.map (fun e => (e.1, if e.1 % 2 = 1 then (((b.b.lookup e.1).getD 0) + e.1) % 2^16 else e.2)) }
def pst (sup fast : Bool) (k : Nat) : ProcSt :=
  { main := near (bk sup k), shadow := { near (bk sup (k+50)) with sr := (bk sup (k+50)).sr ||| 0x20000000 }
    cr := BitVec.ofNat 40 ((rnd k % 4) * 2^38 + (rnd (k+1) % 41) * 2^32), ira := rnd (k+2) % 16384, isr := wv (k+3), fra := rnd (k+4) % 16384 }
def mkp (k : Nat) (fast : Bool := false) : State :=
  let s := ((State.reset.setFld F.SE_STATUS.STATE 3 0 1).setFld F.SUP_STATUS.STATE 0 0 1)
  let s := if fast then (s.setFld F.SE_STATUS.FBANK 3 0 1).setFld F.SUP_STATUS.FBANK 0 0 1 else s
  let s := (s.setFld F.SE_PC.PC 3 0 (if k % 3 = 0 then 16382 else 77)).setFld F.SUP_PC.PC 0 0 (if k % 3 = 0 then 32767 else 77)
  { s with procs := [(3, pst false fast k), (64, pst true fast (k+7))], mode := .run }
def sts : List State := (List.range 6).map (fun k => mkp k) ++ (List.range 2).map (fun k => mkp (k+20) true)
def states : List State := sts

theorem mget_outside {α : Type} (d : α) (m : List (Nat × α)) (lo hi k : Nat)
    (h : m.all (fun e => decide (e.1 < lo ∨ hi ≤ e.1)) = true) (h1 : lo ≤ k) (h2 : k < hi) : mget d m k = d := by
  induction m with
  | nil => rfl
  | cons e m ih =>
    simp only [List.all_cons, Bool.and_eq_true, decide_eq_true_eq] at h
    rw [mget, if_neg (by omega)]
    exact ih h.2
theorem imem_empty (s : State) (a : Nat)
    (h : s.regs.all (fun e => decide (e.1 < regAddr .SE_IMEM 3 0 ∨ regAddr .SE_IMEM 3 16384 ≤ e.1)) = true) :
    (s.imemWord 3 a).getLsbD 39 = false := by
  have hw : s.imemWord 3 a = s.reg .SE_IMEM 3 (a % 16384) := rfl
  have hk : s.reg .SE_IMEM 3 (a % 16384) = Reg.resetWord .SE_IMEM 3 (a % 16384) := by
    have : a % 16384 < 16384 := Nat.mod_lt _ (by decide)
    have e : ∀ i, regAddr .SE_IMEM 3 i = regAddr .SE_IMEM 3 0 + i * 8 := fun i => by simp [regAddr, Reg.place]
    refine mget_outside _ _ _ _ _ h ?_ ?_ <;> rw [e (a % 16384)]
    · omega
    · rw [e 16384]; omega
  rw [hw, hk]; simp only [Reg.resetWord]; decide +kernel

/-- The hypotheses of Obligations.BranchesHaveTwoDelaySlots. -/
theorem witness : (let s : State := states.getD 0 {}
    let p : Proc := 3
    let cond : Fin 16 := 3
    let c : Cond := Cond.lt
    Quiet s p ∧ (∀ a, s.imemBad p a = false) ∧ (∀ a, (s.imemWord p a).getLsbD 39 = false) ∧ condOf cond = some c) ∧
    (let s : State := states.getD 0 {}
    let p : Proc := 3
    Quiet s p ∧ (∀ a, s.imemBad p a = false) ∧ (∀ a, (s.imemWord p a).getLsbD 39 = false)) ∧
    (let s : State := states.getD 0 {}
    let p : Proc := 3
    Quiet s p ∧ (∀ a, s.imemBad p a = false) ∧ (∀ a, (s.imemWord p a).getLsbD 39 = false)) ∧
    (let s : State := states.getD 0 {}
    let p : Proc := 3
    Quiet s p ∧ (∀ a, s.imemBad p a = false) ∧ (∀ a, (s.imemWord p a).getLsbD 39 = false)) ∧
    (let s : State := states.getD 0 {}
    let p : Proc := 3
    Quiet s p ∧ (∀ a, s.imemBad p a = false) ∧ (∀ a, (s.imemWord p a).getLsbD 39 = false)) ∧
    (let s : State := states.getD 0 {}
    let p : Proc := 3
    Quiet s p ∧ (∀ a, s.imemBad p a = false) ∧ (∀ a, (s.imemWord p a).getLsbD 39 = false) ∧ s.inFast p = false ∧ (s.proc p).ira < imemWords p) ∧
    (let s : State := mkp 21 true
    let p : Proc := 3
    Quiet s p ∧ (∀ a, s.imemBad p a = false) ∧ (∀ a, (s.imemWord p a).getLsbD 39 = false) ∧ s.inFast p = true ∧ (s.proc p).fra < imemWords p) :=
  ⟨⟨by decide +kernel, fun _ => rfl, fun a => imem_empty _ a (by decide +kernel), by decide +kernel⟩, ⟨by decide +kernel, fun _ => rfl, fun a => imem_empty _ a (by decide +kernel)⟩, ⟨by decide +kernel, fun _ => rfl, fun a => imem_empty _ a (by decide +kernel)⟩, ⟨by decide +kernel, fun _ => rfl, fun a => imem_empty _ a (by decide +kernel)⟩, ⟨by decide +kernel, fun _ => rfl, fun a => imem_empty _ a (by decide +kernel)⟩, ⟨by decide +kernel, fun _ => rfl, fun a => imem_empty _ a (by decide +kernel), by decide +kernel, by decide +kernel⟩, ⟨by decide +kernel, fun _ => rfl, fun a => imem_empty _ a (by decide +kernel), by decide +kernel, by decide +kernel⟩⟩

end Sys2Proof.Tests.BranchesHaveTwoDelaySlots

namespace Sys2Proof.Tests.ProductsAccumulateAndFillPairs

def bk (sup : Bool) (k : Nat) : Bank :=
  let aw := if sup then 40 else 48
  let pb := if sup then 16 else 17
  { x := (List.range 16).map (fun i => (i, wv (k*100+i))) |>.filter (fun e => e.2 ≠ 0)
    a := (List.range (if sup then 1 else 4)).map (fun i => (i, (match rnd (k*9+i) % 4 with | 0 => 2^(aw-1) | 1 => 2^(aw-1)-1 | _ => rnd (k*100+50+i) % 2^aw)))
    p := (List.range 8).map (fun i => (i, rnd (k*100+60+i) % 2^pb))
    m := (List.range 8).map (fun i => (i, rnd (k*100+70+i) % 2^(pb+1)))
    b := (List.range 8).map (fun i => (i, rnd (k*100+80+i) % 2^pb))
    l := (List.range 8).map (fun i => (i, if i % 2 = 0 then 0 else rnd (k*100+90+i) % 300 + 3))
    sr := BitVec.ofNat 40 (rnd (k+77) &&& 0xF08F000000) }
def near (b : Bank) : Bank := { b with p := b.p.map (fun e => (e.1, if e.1 % 2 = 1 then (((b.b.lookup e.1).getD 0) + e.1) % 2^16 else e.2)) }
def pst (sup fast : Bool) (k : Nat) : ProcSt :=
  { main := near (bk sup k), shadow := { near (bk sup (k+50)) with sr := (bk sup (k+50)).sr ||| 0x20000000 }
    cr := BitVec.ofNat 40 ((rnd k % 4) * 2^38 + (rnd (k+1) % 41) * 2^32), ira := rnd (k+2) % 16384, isr := wv (k+3), fra := rnd (k+4) % 16384 }
def mkp (k : Nat) (fast : Bool := false) : State :=
  let s := ((State.reset.setFld F.SE_STATUS.STATE 3 0 1).setFld F.SUP_STATUS.STATE 0 0 1)
  let s := if fast then (s.setFld F.SE_STATUS.FBANK 3 0 1).setFld F.SUP_STATUS.FBANK 0 0 1 else s
  let s := (s.setFld F.SE_PC.PC 3 0 (if k % 3 = 0 then 16382 else 77)).setFld F.SUP_PC.PC 0 0 (if k % 3 = 0 then 32767 else 77)
  { s with procs := [(3, pst false fast k), (64, pst true fast (k+7))], mode := .run }
def sts : List State := (List.range 6).map (fun k => mkp k) ++ (List.range 2).map (fun k => mkp (k+20) true)
def states : List State := sts

/-- The hypotheses of Obligations.ProductsAccumulateAndFillPairs. -/
theorem witness : (let s : State := states.getD 0 {}
    let p : Proc := 3
    let n : Fin 4 := 0
    Quiet s p ∧ (isSup p = true → n = 0)) ∧
    (let s : State := states.getD 0 {}
    let p : Proc := 3
    Quiet s p ∧ isSup p = false) :=
  ⟨by decide +kernel, by decide +kernel⟩

end Sys2Proof.Tests.ProductsAccumulateAndFillPairs

namespace Sys2Proof.Tests.AccumulatorOperationsAndExtraction

def bk (sup : Bool) (k : Nat) : Bank :=
  let aw := if sup then 40 else 48
  let pb := if sup then 16 else 17
  { x := (List.range 16).map (fun i => (i, wv (k*100+i))) |>.filter (fun e => e.2 ≠ 0)
    a := (List.range (if sup then 1 else 4)).map (fun i => (i, (match rnd (k*9+i) % 4 with | 0 => 2^(aw-1) | 1 => 2^(aw-1)-1 | _ => rnd (k*100+50+i) % 2^aw)))
    p := (List.range 8).map (fun i => (i, rnd (k*100+60+i) % 2^pb))
    m := (List.range 8).map (fun i => (i, rnd (k*100+70+i) % 2^(pb+1)))
    b := (List.range 8).map (fun i => (i, rnd (k*100+80+i) % 2^pb))
    l := (List.range 8).map (fun i => (i, if i % 2 = 0 then 0 else rnd (k*100+90+i) % 300 + 3))
    sr := BitVec.ofNat 40 (rnd (k+77) &&& 0xF08F000000) }
def near (b : Bank) : Bank := { b with p := b.p.map (fun e => (e.1, if e.1 % 2 = 1 then (((b.b.lookup e.1).getD 0) + e.1) % 2^16 else e.2)) }
def pst (sup fast : Bool) (k : Nat) : ProcSt :=
  { main := near (bk sup k), shadow := { near (bk sup (k+50)) with sr := (bk sup (k+50)).sr ||| 0x20000000 }
    cr := BitVec.ofNat 40 ((rnd k % 4) * 2^38 + (rnd (k+1) % 41) * 2^32), ira := rnd (k+2) % 16384, isr := wv (k+3), fra := rnd (k+4) % 16384 }
def mkp (k : Nat) (fast : Bool := false) : State :=
  let s := ((State.reset.setFld F.SE_STATUS.STATE 3 0 1).setFld F.SUP_STATUS.STATE 0 0 1)
  let s := if fast then (s.setFld F.SE_STATUS.FBANK 3 0 1).setFld F.SUP_STATUS.FBANK 0 0 1 else s
  let s := (s.setFld F.SE_PC.PC 3 0 (if k % 3 = 0 then 16382 else 77)).setFld F.SUP_PC.PC 0 0 (if k % 3 = 0 then 32767 else 77)
  { s with procs := [(3, pst false fast k), (64, pst true fast (k+7))], mode := .run }
def sts : List State := (List.range 6).map (fun k => mkp k) ++ (List.range 2).map (fun k => mkp (k+20) true)
def states : List State := sts

/-- The hypotheses of Obligations.AccumulatorOperationsAndExtraction. -/
theorem witness : (let s : State := states.getD 0 {}
    let p : Proc := 3
    let n : Fin 4 := 0
    let m : Fin 4 := 0
    Quiet s p ∧ (isSup p = true → n = 0 ∧ m = 0)) ∧
    (let s : State := states.getD 0 {}
    let p : Proc := 3
    let n : Fin 4 := 0
    let m : Fin 4 := 0
    let k : Fin 64 := 0
    Quiet s p ∧ (isSup p = true → n = 0 ∧ m = 0) ∧ k.val < accBits p) ∧
    (let s : State := states.getD 0 {}
    let p : Proc := 3
    let n : Fin 4 := 0
    let m : Fin 4 := 0
    let k : Fin 64 := 0
    Quiet s p ∧ (isSup p = true → n = 0 ∧ m = 0) ∧ k.val ≤ 40) :=
  ⟨by decide +kernel, by decide +kernel, by decide +kernel⟩

end Sys2Proof.Tests.AccumulatorOperationsAndExtraction

namespace Sys2Proof.Tests.ProcessorsStartStopAndFault

def bk (sup : Bool) (k : Nat) : Bank :=
  let aw := if sup then 40 else 48
  let pb := if sup then 16 else 17
  { x := (List.range 16).map (fun i => (i, wv (k*100+i))) |>.filter (fun e => e.2 ≠ 0)
    a := (List.range (if sup then 1 else 4)).map (fun i => (i, (match rnd (k*9+i) % 4 with | 0 => 2^(aw-1) | 1 => 2^(aw-1)-1 | _ => rnd (k*100+50+i) % 2^aw)))
    p := (List.range 8).map (fun i => (i, rnd (k*100+60+i) % 2^pb))
    m := (List.range 8).map (fun i => (i, rnd (k*100+70+i) % 2^(pb+1)))
    b := (List.range 8).map (fun i => (i, rnd (k*100+80+i) % 2^pb))
    l := (List.range 8).map (fun i => (i, if i % 2 = 0 then 0 else rnd (k*100+90+i) % 300 + 3))
    sr := BitVec.ofNat 40 (rnd (k+77) &&& 0xF08F000000) }
def near (b : Bank) : Bank := { b with p := b.p.map (fun e => (e.1, if e.1 % 2 = 1 then (((b.b.lookup e.1).getD 0) + e.1) % 2^16 else e.2)) }
def pst (sup fast : Bool) (k : Nat) : ProcSt :=
  { main := near (bk sup k), shadow := { near (bk sup (k+50)) with sr := (bk sup (k+50)).sr ||| 0x20000000 }
    cr := BitVec.ofNat 40 ((rnd k % 4) * 2^38 + (rnd (k+1) % 41) * 2^32), ira := rnd (k+2) % 16384, isr := wv (k+3), fra := rnd (k+4) % 16384 }
def mkp (k : Nat) (fast : Bool := false) : State :=
  let s := ((State.reset.setFld F.SE_STATUS.STATE 3 0 1).setFld F.SUP_STATUS.STATE 0 0 1)
  let s := if fast then (s.setFld F.SE_STATUS.FBANK 3 0 1).setFld F.SUP_STATUS.FBANK 0 0 1 else s
  let s := (s.setFld F.SE_PC.PC 3 0 (if k % 3 = 0 then 16382 else 77)).setFld F.SUP_PC.PC 0 0 (if k % 3 = 0 then 32767 else 77)
  { s with procs := [(3, pst false fast k), (64, pst true fast (k+7))], mode := .run }
def boot (s : State) := ((s.setFld F.SE_BOOT.ENTRY 3 0 0x155).setFld F.SUP_BOOT.ENTRY 0 0 0x155).setFld F.SE_BOOT.BOOT_RUN 3 0 1 |>.setFld F.SUP_BOOT.BOOT_RUN 0 0 1
def base := [mkp 1, mkp 2, mkp 3 true]
def states : List State := base ++ base.map (setst 0) ++ base.map (setst 5) ++ base.map (setst 2) ++ base.map (setst 3) ++ base.map (setst 4) ++ base.map (fun s => irq (setst 3 s)) ++
  base.map (fun s => pr (fun p => { p with eRst := true }) (setst 0 s)) ++ base.map (fun s => boot (pr (fun p => { p with eRst := true }) (setst 0 s)))
  ++ base.map (fun s => boot (pr (fun p => { p with eRst := true, eHold := true }) (setst 0 s))) ++ base.map (fun s => (s.setFld F.SE_STATUS.EVT 3 0 1).setFld F.SUP_STATUS.EVT 0 0 1)

/-- The hypotheses of Obligations.ProcessorsStartStopAndFault. -/
theorem witness : (let s : State := states.getD 3 {}
    let p : Proc := 3
    let isolated := isSup p = false ∧ s.tileIsolated p = true
    s.traced p = false ∧ s.pstate p = 0 ∧ (s.proc p).eRst = false ∧ ¬isolated) ∧
    (let s : State := states.getD 21 {}
    let p : Proc := 3
    let isolated := isSup p = false ∧ s.tileIsolated p = true
    s.traced p = false ∧ s.pstate p = 0 ∧ ((s.proc p).eRst = true ∨ isolated)) ∧
    (let s : State := states.getD 0 {}
    let p : Proc := 3
    s.traced p = false ∧ s.pstate p ≠ 0) ∧
    (let s : State := states.getD 3 {}
    let p : Proc := 3
    s.traced p = false ∧ (s.pstate p = 0 ∨ s.pstate p = 5)) ∧
    (let s : State := states.getD 0 {}
    let p : Proc := 3
    s.traced p = false ∧ (s.proc p).fly = [] ∧ (Issuing s p ∨ s.pstate p = 2 ∨ s.pstate p = 3 ∨ s.pstate p = 4)) ∧
    (let s : State := states.getD 3 {}
    let p : Proc := 3
    s.traced p = false ∧ stepAllowed s p = true ∧ (s.proc p).fly = [] ∧ (s.proc p).net = .none ∧ (s.proc p).slots = 0 ∧ (s.proc p).rtf = false ∧ s.imemBad p (s.ppc p) = false ∧ s.imemWord p (s.ppc p) = 0) ∧
    (let s : State := states.getD 0 {}
    let p : Proc := 3
    s.traced p = false ∧ (s.proc p).fly = []) ∧
    (let s : State := states.getD 21 {}
    let p : Proc := 3
    s.traced p = false ∧ (s.proc p).eRst = true ∧ s.fld F.PWR_STAT.STATE (procRegion p) = 0) ∧
    (let s : State := states.getD 18 {}
    let p : Proc := 3
    s.traced p = false ∧ (s.proc p).fly = [] ∧ s.pstate p = 3 ∧ enabledBits s p ≠ 0 ∧ (s.proc p).haltReq = false ∧ (s.proc p).stepping = false) ∧
    (let s : State := states.getD 12 {}
    let p : Proc := 3
    s.traced p = false ∧ (s.proc p).fly = [] ∧ s.pstate p = 3 ∧ enabledBits s p = 0) ∧
    (let s : State := states.getD 15 {}
    let p : Proc := 3
    s.traced p = false ∧ (s.proc p).fly = [] ∧ s.pstate p = 4 ∧ (s.proc p).haltReq = false ∧ (s.proc p).stepping = false) ∧
    (let s : State := states.getD 0 {}
    let p : Proc := 3
    let w : Word := 0x3C00000000
    let v : Word := 0x3C00000000
    s.traced p = false ∧ (s.proc p).fly = [] ∧ fetchInsn (isSup p) w v = none ∧ Issuing s p) :=
  ⟨by decide +kernel, by decide +kernel, by decide +kernel, by decide +kernel, by decide +kernel, by decide +kernel, by decide +kernel, by decide +kernel, by decide +kernel, by decide +kernel, by decide +kernel, by decide +kernel⟩

end Sys2Proof.Tests.ProcessorsStartStopAndFault

namespace Sys2Proof.Tests.SystemInstructionsWaitAndPost

def bk (sup : Bool) (k : Nat) : Bank :=
  let aw := if sup then 40 else 48
  let pb := if sup then 16 else 17
  { x := (List.range 16).map (fun i => (i, wv (k*100+i))) |>.filter (fun e => e.2 ≠ 0)
    a := (List.range (if sup then 1 else 4)).map (fun i => (i, (match rnd (k*9+i) % 4 with | 0 => 2^(aw-1) | 1 => 2^(aw-1)-1 | _ => rnd (k*100+50+i) % 2^aw)))
    p := (List.range 8).map (fun i => (i, rnd (k*100+60+i) % 2^pb))
    m := (List.range 8).map (fun i => (i, rnd (k*100+70+i) % 2^(pb+1)))
    b := (List.range 8).map (fun i => (i, rnd (k*100+80+i) % 2^pb))
    l := (List.range 8).map (fun i => (i, if i % 2 = 0 then 0 else rnd (k*100+90+i) % 300 + 3))
    sr := BitVec.ofNat 40 (rnd (k+77) &&& 0xF08F000000) }
def near (b : Bank) : Bank := { b with p := b.p.map (fun e => (e.1, if e.1 % 2 = 1 then (((b.b.lookup e.1).getD 0) + e.1) % 2^16 else e.2)) }
def pst (sup fast : Bool) (k : Nat) : ProcSt :=
  { main := near (bk sup k), shadow := { near (bk sup (k+50)) with sr := (bk sup (k+50)).sr ||| 0x20000000 }
    cr := BitVec.ofNat 40 ((rnd k % 4) * 2^38 + (rnd (k+1) % 41) * 2^32), ira := rnd (k+2) % 16384, isr := wv (k+3), fra := rnd (k+4) % 16384 }
def mkp (k : Nat) (fast : Bool := false) : State :=
  let s := ((State.reset.setFld F.SE_STATUS.STATE 3 0 1).setFld F.SUP_STATUS.STATE 0 0 1)
  let s := if fast then (s.setFld F.SE_STATUS.FBANK 3 0 1).setFld F.SUP_STATUS.FBANK 0 0 1 else s
  let s := (s.setFld F.SE_PC.PC 3 0 (if k % 3 = 0 then 16382 else 77)).setFld F.SUP_PC.PC 0 0 (if k % 3 = 0 then 32767 else 77)
  { s with procs := [(3, pst false fast k), (64, pst true fast (k+7))], mode := .run }
def bp (s : State) := (s.setFld F.SE_STATUS.BP 3 0 1).setFld F.SUP_STATUS.BP 0 0 1
def base := [mkp 1, mkp 2, mkp 3 true]
def states : List State := base ++ base.map irq ++ base.map (fun s => pr (fun p => { p with bpStride := 77 }) (bp s)) ++ base.map (fun s => s.setFld F.SUP_NSTAT.OUTSTANDING 0 0 32) ++ base.map (fun s => s.setFld F.SUP_NSTAT.OUTSTANDING 0 0 31)

/-- The hypotheses of Obligations.SystemInstructionsWaitAndPost. -/
theorem witness : (let s : State := states.getD 0 {}
    let p : Proc := 64
    Quiet s p) ∧
    (let s : State := states.getD 0 {}
    let p : Proc := 64
    Quiet s p) ∧
    (let s : State := states.getD 0 {}
    let p : Proc := 64
    let slot : Fin 64 := 6
    let q := { reg := Reg.SUP_IRQ_EN, unit := 0, idx := 0 }
    Quiet s p ∧ slot ≠ 0 ∧ decodeReg (ownSlot p slot) = some q) ∧
    (let s : State := states.getD 0 {}
    let p : Proc := 64
    Quiet s p) ∧
    (let s : State := states.getD 0 {}
    let p : Proc := 64
    let slot : Fin 64 := 26
    Quiet s p ∧ decodeReg (ownSlot p slot) = none) ∧
    (let s : State := states.getD 0 {}
    let p : Proc := 64
    let slot : Fin 64 := 6
    let sup := isSup p
    Quiet s p ∧ ownSlot p slot = regAddr (if sup then .SUP_IRQ_EN else .SE_IRQ_EN) (procUnit p) 0 ∧ s.rwq = []) ∧
    (let s : State := states.getD 0 {}
    let p : Proc := 64
    let slot : Fin 64 := 26
    Quiet s p ∧ decodeReg (ownSlot p slot) = none) ∧
    (let s : State := states.getD 0 {}
    let p : Proc := 64
    let slot : Fin 64 := 6
    let sup := isSup p
    Quiet s p ∧ ownSlot p slot = regAddr (if sup then .SUP_IRQ_EN else .SE_IRQ_EN) (procUnit p) 0) ∧
    (let s : State := states.getD 6 {}
    let p : Proc := 64
    Quiet s p ∧ s.pf p F.SE_STATUS.BP F.SUP_STATUS.BP = 1) ∧
    (let s : State := states.getD 0 {}
    let p : Proc := 64
    Quiet s p ∧ s.pf p F.SE_STATUS.BP F.SUP_STATUS.BP = 0) ∧
    (let s : State := states.getD 0 {}
    let p : Proc := 64
    Quiet s p) ∧
    (let s : State := states.getD 0 {}
    let p : Proc := 64
    let a : NetAddr := NetAddr.imm40 0x4100000001
    let sup := isSup p
    Quiet s p ∧ sup = true ∧ oneWord (netOperand s p a) = none) ∧
    (let s : State := states.getD 0 {}
    let p : Proc := 64
    let a : NetAddr := NetAddr.imm40 0x4100000001
    let sup := isSup p
    Quiet s p ∧ sup = true ∧ s.fld F.SUP_NSTAT.OUTSTANDING (p - 64) < 32 ∧ oneWord (netOperand s p a) = none) ∧
    (let s : State := states.getD 9 {}
    let p : Proc := 64
    let sup := isSup p
    Quiet s p ∧ sup = true ∧ 32 ≤ s.fld F.SUP_NSTAT.OUTSTANDING (p - 64)) ∧
    (let s : State := states.getD 0 {}
    let p : Proc := 64
    let sup := isSup p
    Quiet s p ∧ sup = true) ∧
    (let s : State := states.getD 0 {}
    let p : Proc := 64
    let a : NetAddr := NetAddr.reg 2
    let sel : BitVec 12 := 1
    let sup := isSup p
    Quiet s p ∧ sup = true ∧ oneWord (netOperand s p a) = some sel.toNat ∧ s.net.waitReq = [] ∧ s.net.accepted = []) ∧
    (let s : State := states.getD 0 {}
    let p : Proc := 64
    let a : NetAddr := NetAddr.reg 2
    let sel : BitVec 12 := 1
    let sup := isSup p
    Quiet s p ∧ sup = true ∧ oneWord (netOperand s p a) = some sel.toNat ∧ s.net.waitReq = [] ∧ s.net.accepted = [] ∧ s.fld F.SUP_NSTAT.OUTSTANDING (p - 64) < 32) ∧
    (let s : State := states.getD 0 {}
    let p : Proc := 64
    let ra : Fin 16 := 3
    let e : Proc := 0
    let sup := isSup p
    Quiet s p ∧ sup = true ∧ e.val = 16 * (p - 64) + (s.getX p ra).toNat % 16) ∧
    (let s : State := states.getD 0 {}
    let p : Proc := 64
    let ra : Fin 16 := 3
    let sup := isSup p
    let e := 16 * (p - 64) + (s.getX p ra).toNat % 16
    Quiet s p ∧ sup = true ∧ s.pstate e = 0 ∧ (s.proc e).eRst = false ∧ s.traced e = false ∧ s.tileIsolated e = false) :=
  ⟨by decide +kernel, by decide +kernel, by decide +kernel, by decide +kernel, by decide +kernel, by decide +kernel, by decide +kernel, by decide +kernel, by decide +kernel, by decide +kernel, by decide +kernel, by decide +kernel, by decide +kernel, by decide +kernel, by decide +kernel, by decide +kernel, by decide +kernel, by decide +kernel, by decide +kernel⟩

end Sys2Proof.Tests.SystemInstructionsWaitAndPost

namespace Sys2Proof.Tests.InterruptsAndDebugAccess

def bk (sup : Bool) (k : Nat) : Bank :=
  let aw := if sup then 40 else 48
  let pb := if sup then 16 else 17
  { x := (List.range 16).map (fun i => (i, wv (k*100+i))) |>.filter (fun e => e.2 ≠ 0)
    a := (List.range (if sup then 1 else 4)).map (fun i => (i, (match rnd (k*9+i) % 4 with | 0 => 2^(aw-1) | 1 => 2^(aw-1)-1 | _ => rnd (k*100+50+i) % 2^aw)))
    p := (List.range 8).map (fun i => (i, rnd (k*100+60+i) % 2^pb))
    m := (List.range 8).map (fun i => (i, rnd (k*100+70+i) % 2^(pb+1)))
    b := (List.range 8).map (fun i => (i, rnd (k*100+80+i) % 2^pb))
    l := (List.range 8).map (fun i => (i, if i % 2 = 0 then 0 else rnd (k*100+90+i) % 300 + 3))
    sr := BitVec.ofNat 40 (rnd (k+77) &&& 0xF08F000000) }
def near (b : Bank) : Bank := { b with p := b.p.map (fun e => (e.1, if e.1 % 2 = 1 then (((b.b.lookup e.1).getD 0) + e.1) % 2^16 else e.2)) }
def pst (sup fast : Bool) (k : Nat) : ProcSt :=
  { main := near (bk sup k), shadow := { near (bk sup (k+50)) with sr := (bk sup (k+50)).sr ||| 0x20000000 }
    cr := BitVec.ofNat 40 ((rnd k % 4) * 2^38 + (rnd (k+1) % 41) * 2^32), ira := rnd (k+2) % 16384, isr := wv (k+3), fra := rnd (k+4) % 16384 }
def mkp (k : Nat) (fast : Bool := false) : State :=
  let s := ((State.reset.setFld F.SE_STATUS.STATE 3 0 1).setFld F.SUP_STATUS.STATE 0 0 1)
  let s := if fast then (s.setFld F.SE_STATUS.FBANK 3 0 1).setFld F.SUP_STATUS.FBANK 0 0 1 else s
  let s := (s.setFld F.SE_PC.PC 3 0 (if k % 3 = 0 then 16382 else 77)).setFld F.SUP_PC.PC 0 0 (if k % 3 = 0 then 32767 else 77)
  { s with procs := [(3, pst false fast k), (64, pst true fast (k+7))], mode := .run }
def ask (en pend cls : Nat) (s : State) := ((((s.setFld F.SE_IRQ_EN.EN 3 0 en).setFld F.SUP_IRQ_EN.EN 0 0 en).setFld F.SE_IRQ_PEND.EDGE 3 0 pend).setFld F.SUP_IRQ_PEND.EDGE 0 0 pend).setFld F.SE_IRQ_CLASS.FAST 3 0 cls |>.setFld F.SUP_IRQ_CLASS.FAST 0 0 cls
def ie (s : State) := pr (fun p => { p with main := { p.main with sr := p.main.sr ||| 0x40000000 } }) s
def fe (s : State) := pr (fun p => { p with main := { p.main with sr := p.main.sr ||| 0x10000000 } }) s
def nfe (s : State) := pr (fun p => { p with main := { p.main with sr := p.main.sr &&& 0xFFEFFFFFFF } }) s
def vb (s : State) := (s.setFld F.SE_BOOT.VBASE 3 0 0x123).setFld F.SUP_BOOT.VBASE 0 0 0x7F23
def base := [mkp 1, mkp 2]
def dsel (b r : Nat) (s : State) := (((s.setFld F.SE_DBG_SEL.BANK 3 0 b).setFld F.SUP_DBG_SEL.BANK 0 0 b).setFld F.SE_DBG_SEL.REG 3 0 r).setFld F.SUP_DBG_SEL.REG 0 0 r
def states : List State := base ++ base.map (fun s => vb (ie (nfe (ask 0xFFFF0000 0x21 0 s)))) ++ base.map (fun s => vb (ie (nfe (ask 0xFFFF0000 0x21 0x10000 s)))) ++ base.map (fun s => vb (ie (fe (ask 0xFFFF0000 0x30 0 s))))
  ++ base.map (fun s => vb (fe (ask 0xFFFF0000 0x32 0x200000 s))) ++ base.map (setst 0) ++ base.map (setst 5) ++ base.map (fun s => dsel 1 7 (setst 0 s)) ++ base.map (fun s => dsel 0 3 (setst 5 s)) ++ base.map (fun s => vb (ie (nfe (ask 0xFFFF0000 0x21 0 (setst 3 s)))))
  ++ base.map (fun s => (s.setFld F.SUP_WDOG.EN 0 0 1).setFld F.SUP_WDOG.TIMEOUT 0 0 5) ++ base.map (fun s => vb (fe (ask 0xFFFFFFFF 0x2 0x20000 s))) ++ base.map (fun s => vb (ie (nfe (ask 0xFFFFFFFF 0x1 0x20000 s))))

/-- The hypotheses of Obligations.InterruptsAndDebugAccess. -/
theorem witness : (let s : State := states.getD 2 {}
    let p : Proc := 3
    let b := 16
    let asks := fun k : Nat => bitOf (enabledBits s p) k
    let fast := fun k : Nat => fastClass s p k
    let sr := (s.proc p).main.sr
    s.traced p = false ∧ (s.proc p).fly = [] ∧ b < 32 ∧ acceptPoint s p = true ∧ s.inFast p = false ∧ sr.getLsbD 30 = true ∧ asks b = true ∧ fast b = false ∧ (∀ k, k < b → asks k = true → fast k = true) ∧ (sr.getLsbD 28 = true → ∀ k, k < 32 → asks k = true → fast k = false)) ∧
    (let s : State := states.getD 8 {}
    let p : Proc := 3
    let b := 21
    let asks := fun k : Nat => bitOf (enabledBits s p) k
    let fast := fun k : Nat => fastClass s p k
    let sr := (s.proc p).main.sr
    s.traced p = false ∧ (s.proc p).fly = [] ∧ b < 32 ∧ acceptPoint s p = true ∧ s.inFast p = false ∧ sr.getLsbD 28 = true ∧ asks b = true ∧ fast b = true ∧ (∀ k, k < b → asks k = true → fast k = false)) ∧
    (let s : State := states.getD 0 {}
    let p : Proc := 3
    s.traced p = false ∧ (s.proc p).fly = []) ∧
    (let s : State := states.getD 0 {}
    let p : Proc := 3
    s.traced p = false ∧ (s.proc p).fly = []) ∧
    (let s : State := states.getD 10 {}
    let p : Proc := 3
    let idle := s.pstate p = 0 ∨ s.pstate p = 5
    idle) ∧
    (let s : State := states.getD 0 {}
    let p : Proc := 3
    let idle := s.pstate p = 0 ∨ s.pstate p = 5
    ¬idle) ∧
    (let s : State := states.getD 0 {}
    let p : Proc := 3
    let idle := s.pstate p = 0 ∨ s.pstate p = 5
    ¬idle) ∧
    (let s : State := states.getD 10 {}
    let p : Proc := 3
    let idle := s.pstate p = 0 ∨ s.pstate p = 5
    idle ∧ dbgCode s p < 16) ∧
    (let s : State := states.getD 20 {}
    let r : Region := 0
    wdogCounts s r = true ∧ (s.proc (64 + r)).warned = false) :=
  ⟨by decide +kernel, by decide +kernel, by decide +kernel, by decide +kernel, by decide +kernel, by decide +kernel, by decide +kernel, by decide +kernel, by decide +kernel⟩

end Sys2Proof.Tests.InterruptsAndDebugAccess

namespace Sys2Proof.Tests.DmaChannelsRunDescriptorChains

def bk (sup : Bool) (k : Nat) : Bank :=
  let aw := if sup then 40 else 48
  let pb := if sup then 16 else 17
  { x := (List.range 16).map (fun i => (i, wv (k*100+i))) |>.filter (fun e => e.2 ≠ 0)
    a := (List.range (if sup then 1 else 4)).map (fun i => (i, (match rnd (k*9+i) % 4 with | 0 => 2^(aw-1) | 1 => 2^(aw-1)-1 | _ => rnd (k*100+50+i) % 2^aw)))
    p := (List.range 8).map (fun i => (i, rnd (k*100+60+i) % 2^pb))
    m := (List.range 8).map (fun i => (i, rnd (k*100+70+i) % 2^(pb+1)))
    b := (List.range 8).map (fun i => (i, rnd (k*100+80+i) % 2^pb))
    l := (List.range 8).map (fun i => (i, if i % 2 = 0 then 0 else rnd (k*100+90+i) % 300 + 3))
    sr := BitVec.ofNat 40 (rnd (k+77) &&& 0xF08F000000) }
def near (b : Bank) : Bank := { b with p := b.p.map (fun e => (e.1, if e.1 % 2 = 1 then (((b.b.lookup e.1).getD 0) + e.1) % 2^16 else e.2)) }
def pst (sup fast : Bool) (k : Nat) : ProcSt :=
  { main := near (bk sup k), shadow := { near (bk sup (k+50)) with sr := (bk sup (k+50)).sr ||| 0x20000000 }
    cr := BitVec.ofNat 40 ((rnd k % 4) * 2^38 + (rnd (k+1) % 41) * 2^32), ira := rnd (k+2) % 16384, isr := wv (k+3), fra := rnd (k+4) % 16384 }
def mkp (k : Nat) (fast : Bool := false) : State :=
  let s := ((State.reset.setFld F.SE_STATUS.STATE 3 0 1).setFld F.SUP_STATUS.STATE 0 0 1)
  let s := if fast then (s.setFld F.SE_STATUS.FBANK 3 0 1).setFld F.SUP_STATUS.FBANK 0 0 1 else s
  let s := (s.setFld F.SE_PC.PC 3 0 (if k % 3 = 0 then 16382 else 77)).setFld F.SUP_PC.PC 0 0 (if k % 3 = 0 then 32767 else 77)
  { s with procs := [(3, pst false fast k), (64, pst true fast (k+7))], mode := .run }
def desc (w0 w1 w2 w3 : Word) (a : Nat) (s : State) : State :=
  [3, 64].foldl (fun s p => (((s.dmemWrite p a w0).dmemWrite p (a+1) w1).dmemWrite p (a+2) w2).dmemWrite p (a+3) w3) s
def busy (a : Nat) (s : State) : State := [0,1].foldl (fun s c => (((s.setFld F.SE_DMA_STAT.BUSY 3 c 1).setFld F.SUP_DMA_STAT.BUSY 0 c 1).setFld F.SE_DMA_STAT.CUR 3 c a).setFld F.SUP_DMA_STAT.CUR 0 c a) s
def b := mkp 1

theorem mget_empty (m : List (Nat × Nat)) (h : m = []) (x : Nat) : mget 0 m x = 0 := by rw [h]; rfl

/-- The hypotheses of Obligations.DmaChannelsRunDescriptorChains. -/
theorem witness : (let s : State := { busy 100 (desc 1 0x5 0x10 0 100 b) with mem := [(5, 0x77), (6, 0x11)] ++ (busy 100 (desc 1 0x5 0x10 0 100 b)).mem }
    let p : Proc := 3
    let ch : Fin 4 := 2
    let addr : BitVec 17 := 0
    let busy := fun t : State => t.pf p F.SE_DMA_STAT.BUSY F.SUP_DMA_STAT.BUSY ch
    (isSup p = true → ch.val < 2) ∧ busy s = 0 ∧ (isSup p = true → addr.toNat < 2 ^ 16)) ∧
    (let s : State := { busy 100 (desc 1 0x5 0x10 0 100 b) with mem := [(5, 0x77), (6, 0x11)] ++ (busy 100 (desc 1 0x5 0x10 0 100 b)).mem }
    let p : Proc := 3
    let ch : Fin 4 := 0
    let busy := fun t : State => t.pf p F.SE_DMA_STAT.BUSY F.SUP_DMA_STAT.BUSY ch
    (isSup p = true → ch.val < 2) ∧ busy s = 1) ∧
    (let s : State := { busy 100 (desc 1 0x5 0x10 0 100 b) with mem := [(5, 0x77), (6, 0x11)] ++ (busy 100 (desc 1 0x5 0x10 0 100 b)).mem }
    let p : Proc := 3
    let ch : Fin 4 := 2
    let busy := fun t : State => t.pf p F.SE_DMA_STAT.BUSY F.SUP_DMA_STAT.BUSY ch
    (isSup p = true → ch.val < 2) ∧ Quiet s p ∧ busy s = 0) ∧
    (let s : State := busy 100 (desc 0x0800000000 0 0x8000 0x80 100 b)
    let p : Proc := 3
    let ch : Fin 4 := 0
    let busy := fun t : State => t.pf p F.SE_DMA_STAT.BUSY F.SUP_DMA_STAT.BUSY ch
    let cur := fun t : State => t.pf p F.SE_DMA_STAT.CUR F.SUP_DMA_STAT.CUR ch
    let a := cur s
    let d := (readDesc s p a).1
    (isSup p = true → ch.val < 2) ∧ (∀ x, mget 0 s.memErr x = 0) ∧ (isSup p = true ∨ spdMarching s p = false) ∧ busy s = 1 ∧ (s.proc p).dmaInj = [] ∧ (s.proc p).dmaRun = [] ∧ (s.proc p).aborts = [] ∧ d.bad = false ∧ d.len = 0) ∧
    (let s : State := busy 100 (desc 0x6000000000 0 0x3FFFFF 0x81 100 b)
    let p : Proc := 3
    let ch : Fin 4 := 0
    let busy := fun t : State => t.pf p F.SE_DMA_STAT.BUSY F.SUP_DMA_STAT.BUSY ch
    let cur := fun t : State => t.pf p F.SE_DMA_STAT.CUR F.SUP_DMA_STAT.CUR ch
    let a := cur s
    let d := (readDesc s p a).1
    (isSup p = true → ch.val < 2) ∧ (∀ x, mget 0 s.memErr x = 0) ∧ (isSup p = true ∨ spdMarching s p = false) ∧ busy s = 1 ∧ (s.proc p).dmaInj = [] ∧ (s.proc p).dmaRun = [] ∧ (s.proc p).aborts = [] ∧ d.bad = true) ∧
    (let s : State := { busy 100 (desc 1 0x5 0x10 0 100 b) with mem := [(5, 0x77), (6, 0x11)] ++ (busy 100 (desc 1 0x5 0x10 0 100 b)).mem }
    let p : Proc := 3
    let ch : Fin 4 := 0
    let stamps := []
    let word := 2
    let busy := fun t : State => t.pf p F.SE_DMA_STAT.BUSY F.SUP_DMA_STAT.BUSY ch
    let cur := fun t : State => t.pf p F.SE_DMA_STAT.CUR F.SUP_DMA_STAT.CUR ch
    let a := cur s
    let d := (readDesc s p a).1
    let go := access s { op := 0, src := procSrcId p, tag := 0x8000 + ch.val, addr := d.w1.toNat, sel := word,
                             stride := stamps.headD s.time.strideNum }
    (isSup p = true → ch.val < 2) ∧ (∀ x, mget 0 s.memErr x = 0) ∧ (isSup p = true ∨ spdMarching s p = false) ∧ busy s = 1 ∧ (s.proc p).dmaInj = [] ∧ (s.proc p).dmaRun = [] ∧ (s.proc p).aborts = [] ∧ d.bad = false ∧ d.dir = 0 ∧ d.len = 1 ∧ oneWord d.w1.toNat = some word ∧ d.saddr < dmemWords p ∧ (d.saddr < a ∨ a + 4 ≤ d.saddr) ∧ a % 4 = 0 ∧ a + 4 ≤ dmemWords p ∧ go.1 = some stOk ∧ (∀ x, mget 0 go.2.2.memErr x = 0) ∧ (isSup p = true ∨ spdMarching go.2.2 p = false) ∧ (go.2.2.proc p).dmaInj = []) ∧
    (let s : State := { busy 100 (desc 1 0x5 0x10 0 100 b) with mem := [(5, 0x77), (6, 0x11)] ++ (busy 100 (desc 1 0x5 0x10 0 100 b)).mem }
    let p : Proc := 3
    let ch : Fin 4 := 0
    let busy := fun t : State => t.pf p F.SE_DMA_STAT.BUSY F.SUP_DMA_STAT.BUSY ch
    (isSup p = true → ch.val < 2) ∧ (∀ x, mget 0 s.memErr x = 0) ∧ (isSup p = true ∨ spdMarching s p = false) ∧ busy s = 1 ∧ (s.proc p).dmaInj = [] ∧ (s.proc p).dmaRun = [] ∧ (s.proc p).aborts = []) :=
  ⟨by decide +kernel, by decide +kernel, by decide +kernel, ⟨by decide +kernel, fun _ => rfl, by decide +kernel, by decide +kernel, by decide +kernel, by decide +kernel, by decide +kernel, by decide +kernel, by decide +kernel⟩, ⟨by decide +kernel, fun _ => rfl, by decide +kernel, by decide +kernel, by decide +kernel, by decide +kernel, by decide +kernel, by decide +kernel⟩, ⟨by decide +kernel, fun x => mget_empty _ (by decide +kernel) x, by decide +kernel, by decide +kernel, by decide +kernel, by decide +kernel, by decide +kernel, by decide +kernel, by decide +kernel, by decide +kernel, by decide +kernel, by decide +kernel, by decide +kernel, by decide +kernel, by decide +kernel, by decide +kernel, fun x => mget_empty _ (by decide +kernel) x, by decide +kernel, by decide +kernel⟩, ⟨by decide +kernel, fun _ => rfl, by decide +kernel, by decide +kernel, by decide +kernel, by decide +kernel, by decide +kernel⟩⟩

end Sys2Proof.Tests.DmaChannelsRunDescriptorChains

namespace Sys2Proof.Tests.StepsAndBoundariesRunTheStrides

def fz (k : Nat) : Sys2Proof.Machine.Fabric :=
  { sel := (List.range 3).flatMap fun c => (List.range 4).flatMap fun st => (List.range 29).map fun o => (32*(2048*(c+k)+st)+o, (rnd (c*1000+st*100+o+k) &&& 0x0FFFFFFF) ||| (if o = 5 then 2^29 else 0))
    out := (List.range 5).flatMap fun c => (List.range 29).map fun o => (32*c+o, BitVec.ofNat 40 (rnd (c*31+o+k)))
    routeOut := (List.range 200).map fun c => (c, BitVec.ofNat 40 (rnd (c+k+999)))
    co := [(3, 5), (9, 0)]
    dirty := [(1024*0+5, true), (1024*3+7, true), (1024*1000, true)]
    dmem := [(10, 77#40), (11, 5#40)]
    role := [(5, true)] }
def cfgS (n : Nat) (s : State) : State := s.setFld F.TIM_STRIDE_CFG.S 0 0 n
def st (k step : Nat) : State :=
  { cfgS 4 State.reset with mode := .run, fab := fz k, time := { running := true, step := step, strideNum := 5, epoch := 0, lastExec := some 4, now := 5*10^6 }, rwq := [] }

/-- The hypotheses of Obligations.StepsAndBoundariesRunTheStrides. -/
theorem witness : (let s : State := st 0 0
    s.time.running = true ∧ s.frz.nowReq = false ∧ (s.frz.endReq = true → s.time.step ≠ 0) ∧ s.time.step < s.stepsS ∧ s.time.step < 2048) ∧
    (let s : State := st 0 4
    s.guns = [] ∧ s.zones = [] ∧ s.mode = .run ∧ s.time.running = true ∧ s.frz.nowReq = false ∧ s.time.step = s.stepsS ∧ s.stepsS ≠ 0 ∧ (s.fab.dirty.map Prod.fst).Nodup) ∧
    (let s : State := { st 0 0 with time := { (st 0 0).time with running := false, start := some ⟨100, 9⟩ } }
    let q := { command := 100, first := 9 }
    s.guns = [] ∧ s.zones = [] ∧ s.mode = .run ∧ s.time.start = some q ∧ s.time.running = false ∧ s.frz.nowReq = false ∧ s.frz.endReq = false) :=
  ⟨by decide +kernel, by decide +kernel, by decide +kernel⟩

end Sys2Proof.Tests.StepsAndBoundariesRunTheStrides

namespace Sys2Proof.Tests.GunEntriesQueueFireAndAreLogged

def ge (r i : Nat) (t : Nat) (past : Bool) (tag : Nat := 7) : GunEntry := { region := r, cls := 4, index := i, action := 0x30, tag := tag, time := t, arg := 1, past := past }
def run (s : State) : State := { s with mode := .run, time := { s.time with now := 5*10^6 } }
def st (gs : List GunEntry) : State := { run State.reset with guns := gs }
def sl (st : Nat) (s : State) : State := (List.range 4).foldl (fun s r => s.setFld F.PWR_STAT.STATE r 0 st) s

/-- The hypotheses of Obligations.GunEntriesQueueFireAndAreLogged. -/
theorem witness : (let s0 : Word := 0x40F0000007
    let s2 : Word := 0xFFFFFFFFFF
    let cls := bitsOf s0.toNat 39 36
    let index := bitsOf s0.toNat 35 30
    let action := bitsOf s0.toNat 29 24
    let valid := index < gunUnits cls ∧ gunAction cls action = true ∧ s2.toNat / 1024 ≤ 999999999
    ¬valid) ∧
    (let s : State := st []
    let r : Region := 0
    let s0 : Word := 0x40F0000007
    let s1 : Word := 0x40F0000007
    let s2 : Word := 0x40F0000007
    let s3 : Word := 0x40F0000007
    let dt : Nat := 0
    let cls := bitsOf s0.toNat 39 36
    let index := bitsOf s0.toNat 35 30
    let action := bitsOf s0.toNat 29 24
    let time := s1.toNat * unitsPerSec + s2.toNat
    let o := s.atPhase dt
    let e : GunEntry := { region := r, cls := cls, index := index, action := action, tag := bitsOf s0.toNat 23 0
                          time := time, arg := s3, past := decide (time ≤ s.nowAt dt) }
    let valid := index < gunUnits cls ∧ gunAction cls action = true ∧ s2.toNat / 1024 ≤ 999999999
    let mine := s.guns.filter (fun f => f.region == r.val && f.cls == cls && f.index == index)
    valid ∧ action ≠ 0x3F ∧ mine.length < 16 ∧ s.nowAt dt < time ∧ unitDepth o e = 0 ∧ s.guns.Pairwise (fun f g => f.time ≤ g.time)) ∧
    (let s : State := st []
    let r : Region := 0
    let s0 : Word := 0x40F0000007
    let s1 : Word := 0
    let s2 : Word := 0
    let s3 : Word := 0x40F0000007
    let dt : Nat := 0
    let cls := bitsOf s0.toNat 39 36
    let index := bitsOf s0.toNat 35 30
    let action := bitsOf s0.toNat 29 24
    let time := s1.toNat * unitsPerSec + s2.toNat
    let o := s.atPhase dt
    let e : GunEntry := { region := r, cls := cls, index := index, action := action, tag := bitsOf s0.toNat 23 0
                          time := time, arg := s3, past := decide (time ≤ s.nowAt dt) }
    let valid := index < gunUnits cls ∧ gunAction cls action = true ∧ s2.toNat / 1024 ≤ 999999999
    let mine := s.guns.filter (fun f => f.region == r.val && f.cls == cls && f.index == index)
    valid ∧ action ≠ 0x3F ∧ time ≤ s.nowAt dt ∧ e.atBoundary = false ∧ unitReady o e = true ∧ (∀ f ∈ mine, time < f.time)) ∧
    (let s : State := st ((List.range 16).map fun k => ge 0 3 (6*10^6 + k) false)
    let r : Region := 0
    let s0 : Word := 0x40F0000007
    let s1 : Word := 0x40F0000007
    let s2 : Word := 0x40F0000007
    let dt : Nat := 0
    let cls := bitsOf s0.toNat 39 36
    let index := bitsOf s0.toNat 35 30
    let action := bitsOf s0.toNat 29 24
    let time := s1.toNat * unitsPerSec + s2.toNat
    let valid := index < gunUnits cls ∧ gunAction cls action = true ∧ s2.toNat / 1024 ≤ 999999999
    let mine := s.guns.filter (fun f => f.region == r.val && f.cls == cls && f.index == index)
    valid ∧ action ≠ 0x3F ∧ 16 ≤ mine.length ∧ s.nowAt dt < time) ∧
    (let s2 : Word := 0x40F0000007
    let c : BitVec 4 := 4
    let ix : BitVec 6 := 3
    ix.toNat < gunUnits c.toNat ∧ s2.toNat / 1024 ≤ 999999999) ∧
    (let s : State := st [ge 0 3 (5*10^6) false]
    let r : Region := 0
    let ix : BitVec 6 := 3
    let e : GunEntry := ge 0 3 (5*10^6) false
    let dt := 0
    let at_ := 5000000
    ix.toNat < 16 ∧ s.guns.find? (fun f => f.region == r.val && f.cls == 4 && f.index == ix.toNat) = some e ∧ e.action = 0x30 ∧ e.tag < 2 ^ 24 ∧ at_ = (s.time.now + dt) % timeSpan ∧ e.time ≤ at_ ∧ unitReady s e = true ∧ e.past = false ∧ e.stepped = false ∧ e.woken = false ∧ e.waited = false ∧ 3 * (at_ - e.time) ≤ 2560) ∧
    (let s : State := st [ge 0 3 100 true]
    let r : Region := 0
    let ix : BitVec 6 := 3
    let e : GunEntry := ge 0 3 100 true
    let dt := 0
    let at_ := 5000000
    ix.toNat < 16 ∧ s.guns.find? (fun f => f.region == r.val && f.cls == 4 && f.index == ix.toNat) = some e ∧ e.action = 0x30 ∧ e.tag < 2 ^ 24 ∧ at_ = (s.time.now + dt) % timeSpan ∧ e.time ≤ at_ ∧ unitReady s e = true ∧ e.past = true ∧ e.stepped = false ∧ e.woken = false ∧ e.waited = false ∧ 2560 < 3 * (at_ - e.time) ∧ at_ - e.time < 2 ^ 40) ∧
    (let s : State := sl 2 (st [ge 0 3 (5*10^6+400) false])
    let r : Region := 0
    let ix : BitVec 6 := 3
    let e : GunEntry := ge 0 3 (5*10^6+400) false
    ix.toNat < 16 ∧ s.guns.find? (fun f => f.region == r.val && f.cls == 4 && f.index == ix.toNat) = some e ∧ e.action = 0x30 ∧ e.tag < 2 ^ 24 ∧ regionDepth s r ≠ 0 ∧ e.time ≤ s.instant + resumeLatency (regionDepth s r) + s.fld F.TIM_WAKE_GUARD.NS r * 1024) ∧
    (let s : State := st [ge 0 3 100 true]
    let r : Region := 0
    let ix : BitVec 6 := 3
    let e : GunEntry := { region := 0, cls := 4, index := 3, action := 48, tag := 7, time := 100, arg := 1, past := true, stepped := false, woken := false, waited := false }
    ix.toNat < 16 ∧ s.guns.find? (fun f => f.region == r.val && f.cls == 4 && f.index == ix.toNat) = some e ∧ e.action = 0x30 ∧ e.tag < 2 ^ 24) ∧
    (let s : State := st [ge 0 3 100 true]
    let r : Region := 0
    let ix : BitVec 6 := 3
    let e : GunEntry := { region := 0, cls := 4, index := 3, action := 48, tag := 7, time := 100, arg := 1, past := true, stepped := false, woken := false, waited := false }
    ix.toNat < 16 ∧ s.guns.find? (fun f => f.region == r.val && f.cls == 4 && f.index == ix.toNat) = some e ∧ e.action = 0x30 ∧ e.tag < 2 ^ 24) ∧
    (let s : State := st [ge 0 3 100 true]
    let r : Region := 0
    let ix : BitVec 6 := 3
    let e : GunEntry := { region := 0, cls := 4, index := 3, action := 48, tag := 7, time := 100, arg := 1, past := true, stepped := false, woken := false, waited := false }
    ix.toNat < 16 ∧ s.guns.find? (fun f => f.region == r.val && f.cls == 4 && f.index == ix.toNat) = some e ∧ e.action = 0x30 ∧ e.tag < 2 ^ 24) :=
  ⟨by decide +kernel, by decide +kernel, by decide +kernel, by decide +kernel, by decide +kernel, by decide +kernel, by decide +kernel, by decide +kernel, by decide +kernel, by decide +kernel, by decide +kernel⟩

end Sys2Proof.Tests.GunEntriesQueueFireAndAreLogged

namespace Sys2Proof.Tests.LanesEnableAndAcquireTheirLocks

def runS : State := { State.reset with mode := .run, time := { State.reset.time with now := 5*10^6 } }
def onS (v : LaneSt) : State := setL F.LN_CTRL.EN 1 (setL F.LN_STATUS.PSTATE 1 (rate (setLs v runS)))
def ph (n : Nat) : State := onS { phase := n }

/-- The hypotheses of Obligations.LanesEnableAndAcquireTheirLocks. -/
theorem witness : (let s : State := runS
    let l : Lane := 5
    let w : Word := 0x8000000000
    let f := fun (t : State) (g : Fld) => t.lf l g
    s.mode = .run ∧ f s F.LN_CTRL.EN = 0 ∧ rateOk s l = false ∧ w.getLsbD 28 = false) ∧
    (let s : State := rate runS
    let l : Lane := 5
    let w : Word := 0x8000000000
    let f := fun (t : State) (g : Fld) => t.lf l g
    s.mode = .run ∧ f s F.LN_CTRL.EN = 0 ∧ rateOk s l = true ∧ f s F.LN_STATUS.PSTATE = 0 ∧ w.getLsbD 28 = false ∧ (s.pw (l.val / 12)).lanes = 0 ∧ s.fld F.PWR_LANE.TARGET (l.val / 12) = 0) ∧
    (let s : State := { ((onS { phase := 8, txIdle := false, txOut := [1,0] }) |> setL F.LN_STATUS.CDR_LOCK 1 |> fun s => (s.setFld F.HEAT_SRC.UNIT 0 3 5).setFld F.HEAT_STAT.STATE 0 3 2) with heats := [(3, {})] }
    let l : Lane := 5
    let f := fun (t : State) (g : Fld) => t.lf l g
    s.mode = .run ∧ f s F.LN_CTRL.EN = 1 ∧ f s F.LN_STATUS.PSTATE ≠ 0) ∧
    (let s : State := runS
    let l : Lane := 5
    let f := fun (t : State) (g : Fld) => t.lf l g
    s.mode = .run ∧ f s F.LN_CTRL.EN = 0) ∧
    (let s : State := ph 1
    let l : Lane := 5
    s.laneOn l = true ∧ (s.lane l).pllInj = false ∧ (s.lane l).cdrInj = false ∧ (s.lane l).phase = 1) ∧
    (let s : State := ph 2
    let l : Lane := 5
    s.laneOn l = true ∧ (s.lane l).pllInj = false ∧ (s.lane l).cdrInj = false ∧ (s.lane l).phase = 2) ∧
    (let s : State := ph 3
    let l : Lane := 5
    s.laneOn l = true ∧ (s.lane l).pllInj = false ∧ (s.lane l).cdrInj = false ∧ (s.lane l).phase = 3) ∧
    (let s : State := ph 4
    let l : Lane := 5
    s.laneOn l = true ∧ (s.lane l).pllInj = false ∧ (s.lane l).cdrInj = false ∧ (s.lane l).phase = 4 ∧ (s.lane l).origin ≠ 2) ∧
    (let s : State := ph 5
    let l : Lane := 5
    let freq : BitVec 16 := 0x1234
    let f := fun (t : State) (g : Fld) => t.lf l g
    let locks := (if f s F.LN_RX_CFG.SSC = 1 then -21200 else -1200) ≤ freq.toInt ∧ freq.toInt ≤ 1200
    s.laneOn l = true ∧ (s.lane l).pllInj = false ∧ (s.lane l).cdrInj = false ∧ (s.lane l).phase = 5 ∧ ¬locks) ∧
    (let s : State := ph 5
    let l : Lane := 5
    let freq : BitVec 16 := 0
    let f := fun (t : State) (g : Fld) => t.lf l g
    let locks := (if f s F.LN_RX_CFG.SSC = 1 then -21200 else -1200) ≤ freq.toInt ∧ freq.toInt ≤ 1200
    s.laneOn l = true ∧ (s.lane l).pllInj = false ∧ (s.lane l).cdrInj = false ∧ (s.lane l).phase = 5 ∧ locks) ∧
    (let s : State := ph 6
    let l : Lane := 5
    s.laneOn l = true ∧ (s.lane l).pllInj = false ∧ (s.lane l).cdrInj = false ∧ (s.lane l).phase = 6) ∧
    (let s : State := setL F.LN_STATUS.ALIGN 1 (ph 7)
    let l : Lane := 5
    let f := fun (t : State) (g : Fld) => t.lf l g
    s.laneOn l = true ∧ (s.lane l).pllInj = false ∧ (s.lane l).cdrInj = false ∧ (s.lane l).phase = 7 ∧ f s F.LN_STATUS.ALIGN = 1) ∧
    (let s : State := onS { phase := 8, lockDue := true } |> setL F.LN_STATUS.CDR_LOCK 1
    let l : Lane := 5
    let f := fun (t : State) (g : Fld) => t.lf l g
    s.laneOn l = true ∧ (s.lane l).pllInj = false ∧ (s.lane l).cdrInj = false ∧ (s.lane l).lockDue = true ∧ f s F.LN_STATUS.ALIGN = 0 ∧ f s F.LN_STATUS.CDR_LOCK = 1) ∧
    (let s : State := onS { phase := 8, chkDue := true }
    let l : Lane := 5
    let f := fun (t : State) (g : Fld) => t.lf l g
    s.laneOn l = true ∧ (s.lane l).pllInj = false ∧ (s.lane l).cdrInj = false ∧ (s.lane l).chkDue = true ∧ f s F.LN_STATUS.CHK_LOCK = 0) :=
  ⟨by decide +kernel, by decide +kernel, by decide +kernel, by decide +kernel, by decide +kernel, by decide +kernel, by decide +kernel, by decide +kernel, by decide +kernel, by decide +kernel, by decide +kernel, by decide +kernel, by decide +kernel, by decide +kernel⟩

end Sys2Proof.Tests.LanesEnableAndAcquireTheirLocks

namespace Sys2Proof.Tests.LaneLossesReportOnce

def runS : State := { State.reset with mode := .run, time := { State.reset.time with now := 5*10^6 } }
def onS (v : LaneSt) : State := setL F.LN_CTRL.EN 1 (setL F.LN_STATUS.PSTATE 1 (rate (setLs v runS)))
def on8 : State := onS { phase := 8, lossDue := true, chkLoss := true, waking := true } |> setL F.LN_STATUS.ALIGN 1 |> setL F.LN_STATUS.SIG 1 |> setL F.LN_STATUS.CDR_LOCK 1 |> setL F.LN_STATUS.PLL_LOCK 1 |> setL F.LN_STATUS.CHK_LOCK 1

/-- The hypotheses of Obligations.LaneLossesReportOnce. -/
theorem witness : (let s : State := setLs {phase := 3, waking := true} on8
    let l : Lane := 5
    let f := fun (t : State) (g : Fld) => t.lf l g
    f s F.LN_RX_CFG.LOS_THR ≠ 0 ∧ f s F.LN_STATUS.SIG = 1) ∧
    (let s : State := runS
    let l : Lane := 5
    let f := fun (t : State) (g : Fld) => t.lf l g
    (f s F.LN_RX_CFG.LOS_THR = 0 ∨ f s F.LN_STATUS.SIG = 0)) ∧
    (let s : State := setLs {phase := 3, waking := true} on8
    let l : Lane := 5
    let f := fun (t : State) (g : Fld) => t.lf l g
    f s F.LN_STATUS.CDR_LOCK = 1) ∧
    (let s : State := runS
    let l : Lane := 5
    let f := fun (t : State) (g : Fld) => t.lf l g
    f s F.LN_STATUS.CDR_LOCK = 0) ∧
    (let s : State := setLs {phase := 3, waking := true} on8
    let l : Lane := 5
    let f := fun (t : State) (g : Fld) => t.lf l g
    s.laneOn l = true ∧ f s F.LN_STATUS.PLL_LOCK = 1) ∧
    (let s : State := on8
    let l : Lane := 5
    let f := fun (t : State) (g : Fld) => t.lf l g
    (s.lane l).lossDue = true ∧ f s F.LN_STATUS.ALIGN = 1) ∧
    (let s : State := on8
    let l : Lane := 5
    let f := fun (t : State) (g : Fld) => t.lf l g
    (s.lane l).chkLoss = true ∧ f s F.LN_STATUS.CHK_LOCK = 1) ∧
    (let s : State := setLs {phase := 3, waking := true} on8
    let l : Lane := 5
    let f := fun (t : State) (g : Fld) => t.lf l g
    (s.lane l).waking = true ∧ (s.lane l).wakeLate = false ∧ ((s.lane l).phase < 4 ∨ f s F.LN_STATUS.ALIGN = 0)) ∧
    (let s : State := on8
    let l : Lane := 5
    let f := fun (t : State) (g : Fld) => t.lf l g
    (s.lane l).waking = true ∧ 4 ≤ (s.lane l).phase ∧ f s F.LN_STATUS.ALIGN = 1) :=
  ⟨by decide +kernel, by decide +kernel, by decide +kernel, by decide +kernel, by decide +kernel, by decide +kernel, by decide +kernel, by decide +kernel, by decide +kernel⟩

end Sys2Proof.Tests.LaneLossesReportOnce

namespace Sys2Proof.Tests.LanesTransmitAndInject

def runS : State := { State.reset with mode := .run, time := { State.reset.time with now := 5*10^6 } }
def onS (v : LaneSt) : State := setL F.LN_CTRL.EN 1 (setL F.LN_STATUS.PSTATE 1 (rate (setLs v runS)))
def fill (s : State) : State := [5,40].foldl (fun s l => s.setReg .LN_TX_FILL0 (laneTile l) 0 0xA5F0123456) s
def on8 : State := fill (onS { phase := 8, injLeft := 3, injKind := 2, txPos := 7, txPlus := true })

/-- The hypotheses of Obligations.LanesTransmitAndInject. -/
theorem witness : (let s : State := onS {phase := 8, injLeft := 2, injRx := true, injNext := 50, injPer := 200, injLen := 3, rxInj := [(5,1)]}
    let l : Lane := 5
    let src : BitVec 2 := 1
    let f := fun (t : State) (g : Fld) => t.lf l g
    src.toNat ≠ f s F.LN_CTRL.TX_SRC) ∧
    (let s : State := onS {phase := 8, injLeft := 2, injRx := true, injNext := 50, injPer := 200, injLen := 3, rxInj := [(5,1)]}
    let l : Lane := 5
    let src : BitVec 2 := 0
    let f := fun (t : State) (g : Fld) => t.lf l g
    src.toNat = f s F.LN_CTRL.TX_SRC) ∧
    (let s : State := setL F.LN_CTRL.TX_SRC 1 on8
    let l : Lane := 5
    let f := fun (t : State) (g : Fld) => t.lf l g
    f s F.LN_CTRL.TX_SRC ≠ 0) ∧
    (let s : State := onS {phase := 8, injLeft := 2, injRx := true, injNext := 50, injPer := 200, injLen := 3, rxInj := [(5,1)]}
    let l : Lane := 5
    let k : BitVec 2 := 0
    let f := fun (t : State) (g : Fld) => t.lf l g
    (k.toNat = 3 ∨ k.toNat = f s F.LN_CTRL.LOOP)) ∧
    (let s : State := onS {phase := 8, injLeft := 2, injRx := true, injNext := 50, injPer := 200, injLen := 3, rxInj := [(5,1)]}
    let l : Lane := 5
    let k : BitVec 2 := 1
    let f := fun (t : State) (g : Fld) => t.lf l g
    k.toNat ≠ 3 ∧ k.toNat ≠ f s F.LN_CTRL.LOOP) ∧
    (let w : Word := 0x10200000
    let c := fun lo : Nat => signed 8 (bitsOf w.toNat (lo + 7) lo)
    let ok := 0 < c 16 ∧ (c 32).natAbs + (c 24).natAbs + (c 16).natAbs + (c 8).natAbs + (c 0).natAbs ≤ 64
    ok) ∧
    (let w : Word := 0
    let c := fun lo : Nat => signed 8 (bitsOf w.toNat (lo + 7) lo)
    let ok := 0 < c 16 ∧ (c 32).natAbs + (c 24).natAbs + (c 16).natAbs + (c 8).natAbs + (c 0).natAbs ≤ 64
    ¬ok) ∧
    (let s : State := onS {phase := 8, injLeft := 2, injRx := true, injNext := 50, injPer := 200, injLen := 3, rxInj := [(5,1)]}
    let l : Lane := 5
    let f := fun (t : State) (g : Fld) => t.lf l g
    txRuns s l = true ∧ f s F.LN_CTRL.LOOP ≠ 2 ∧ laneParked s l = false ∧ f s F.LN_CTRL.TX_SRC = 0 ∧ f s F.LN_PCS.MODE = 0 ∧ s.pam l = false ∧ f s F.LN_CTRL.TX_POL = 0 ∧ f s F.LN_CTRL.MUTE = 0 ∧ (s.lane l).txInj = []) ∧
    (let s : State := { on8 with mode := .frozen }
    let l : Lane := 5
    let f := fun (t : State) (g : Fld) => t.lf l g
    txRuns s l = true ∧ f s F.LN_CTRL.LOOP ≠ 2 ∧ laneParked s l = true ∧ f s F.LN_CTRL.PARK = 0) ∧
    (let s : State := { on8 with mode := .frozen }
    let l : Lane := 5
    let f := fun (t : State) (g : Fld) => t.lf l g
    txRuns s l = true ∧ f s F.LN_CTRL.LOOP ≠ 2) ∧
    (let w : Word := 0x8000000007
    w.getLsbD 39 = true) ∧
    (let s : State := runS
    let l : Lane := 5
    (s.lane l).injLeft = 0) ∧
    (let s : State := onS {phase := 8, injLeft := 1, injRx := true, injKind := 3, txInj := [(15,3,4)]}
    let l : Lane := 5
    let f := fun (t : State) (g : Fld) => t.lf l g
    0 < (s.lane l).injLeft ∧ (s.lane l).injLeft < 2 ^ 16 ∧ f s F.LN_INJ_CTRL.CONT = 0) :=
  ⟨by decide +kernel, by decide +kernel, by decide +kernel, by decide +kernel, by decide +kernel, by decide +kernel, by decide +kernel, by decide +kernel, by decide +kernel, by decide +kernel, by decide +kernel, by decide +kernel, by decide +kernel⟩

end Sys2Proof.Tests.LanesTransmitAndInject

namespace Sys2Proof.Tests.LanesReceiveAndMeasure

def runS : State := { State.reset with mode := .run, time := { State.reset.time with now := 5*10^6 } }
def onS (v : LaneSt) : State := setL F.LN_CTRL.EN 1 (setL F.LN_STATUS.PSTATE 1 (rate (setLs v runS)))
def on8 (v : LaneSt) : State := setL F.LN_PCS.GATE 0 <| onS { v with phase := 8, tap := 3 } |> setL F.LN_STATUS.CDR_LOCK 1 |> setL F.LN_RX_CFG.TAP 3 |> setL F.LN_CTRL.LOOP 0
def ts0 (s : State) : State := [5,40].foldl (fun s l => s.setReg .LN_TS_MASK (laneTile l) 0 0) s

/-- The hypotheses of Obligations.LanesReceiveAndMeasure. -/
theorem witness : (let s : State := on8 {histLeft := some 0}
    let l : Lane := 5
    let adc : List (BitVec 8) := [0x10, 0x52, 0x41, 0x5D, 0x9C, 0x63, 0x13, 0x9B, 0xD3, 0xB3, 0x8E, 0x88, 0x8D, 0xA9, 0x26, 0xD6, 0x38, 0x4B, 0x14, 0x65, 0xA, 0x4E, 0x76, 0x2C, 0x7C, 0x1A, 0x32, 0x72, 0xF8, 0xE, 0x21, 0xCE, 0xF3, 0x48, 0xD4, 0x14, 0xB5, 0xBF, 0xC8, 0x46]
    let levels : List (Fin 4) := [0, 0, 0, 1, 0, 0, 1, 0, 0, 1, 1, 0, 1, 1, 1, 1, 1, 0, 0, 1, 1, 0, 0, 0, 1, 0, 1, 0, 0, 0, 0, 0, 0, 0, 0, 0, 0, 1, 0, 1]
    let f := fun (t : State) (g : Fld) => t.lf l g
    let v := s.lane l
    adc.length = 40 ∧ levels.length = 40 ∧ (∀ k ∈ levels, k.val < 2) ∧ s.laneOn l = true ∧ 4 ≤ v.phase ∧ f s F.LN_CTRL.LOOP = 0 ∧ f s F.LN_STATUS.CDR_LOCK = 1 ∧ f s F.LN_PCS.MODE = 0 ∧ s.pam l = false ∧ f s F.LN_CTRL.RX_POL = 0 ∧ f s F.LN_PAT_CFG.CHK = 0 ∧ f s F.LN_PCS.GATE = 0 ∧ v.rxBits = [] ∧ v.rxSlips = 0 ∧ v.rxInj = [] ∧ v.feedOn = false ∧ v.tap = 3 ∧ v.cnt < 196608 ∧ s.reg .LN_TS_MASK (laneTile l) = 0 ∧ f s F.TRG_WIN_CTRL.MODE ≠ 1 ∧ (∀ d, d < 2 → s.fld F.TRG_DET_CFG.KIND (laneTile l) d = 0)) ∧
    (let s : State := setL F.LN_STATUS.ALIGN 1 (setL F.LN_PCS.MODE 3 (on8 {fecCw := 2^80-1}))
    let l : Lane := 5
    let f := fun (t : State) (g : Fld) => t.lf l g
    let v := s.lane l
    s.laneOn l = true ∧ f s F.LN_PCS.MODE = 3 ∧ f s F.LN_STATUS.CDR_LOCK = 1 ∧ f s F.LN_STATUS.ALIGN = 1 ∧ v.rxBits.length < 5440) ∧
    (let s : State := setL F.LN_STATUS.ALIGN 1 (setL F.LN_PCS.MODE 3 (on8 {fecCw := 2^80-1, rxBits := List.replicate 5445 false}))
    let l : Lane := 5
    let f := fun (t : State) (g : Fld) => t.lf l g
    let v := s.lane l
    s.laneOn l = true ∧ f s F.LN_PCS.MODE = 3 ∧ f s F.LN_STATUS.CDR_LOCK = 1 ∧ f s F.LN_STATUS.ALIGN = 1 ∧ 5440 ≤ v.rxBits.length) ∧
    (let s : State := setL F.LN_STATUS.CDR_LOCK 0 (ts0 (on8 {cnt := 77})) |> fun s => { s with lanes := s.lanes.map fun e => (e.1, { e.2 with tap := 0 }) }
    let l : Lane := 5
    let f := fun (t : State) (g : Fld) => t.lf l g
    f s F.LN_PCS.MODE = 0) ∧
    (let s : State := setL F.LN_STATUS.ALIGN 1 (setL F.LN_PCS.MODE 3 (on8 {fecCw := 2^80-1, rxBits := List.replicate 5445 false}))
    let l : Lane := 5
    let f := fun (t : State) (g : Fld) => t.lf l g
    f s F.LN_PCS.MODE ≠ 0) ∧
    (let w : Word := 0x8000000007
    w.getLsbD 39 = true) ∧
    (let s : State := setL F.LN_STATUS.CDR_LOCK 0 (on8 { histLeft := some 501 })
    let l : Lane := 5
    let n := 500
    let f := fun (t : State) (g : Fld) => t.lf l g
    let v := s.lane l
    v.histLeft = some (n + 1) ∧ v.histSkip = 0 ∧ v.tap = 3 ∧ s.laneOn l = true ∧ 4 ≤ v.phase ∧ f s F.LN_CTRL.LOOP = 0 ∧ f s F.LN_STATUS.CDR_LOCK = 0 ∧ f s F.LN_HIST_CFG.SRC = 0 ∧ f s F.LN_HIST_CFG.COND = 0) ∧
    (let s : State := setL F.LN_STATUS.CDR_LOCK 0 (ts0 (on8 {cnt := 77})) |> fun s => { s with lanes := s.lanes.map fun e => (e.1, { e.2 with tap := 0 }) }
    let l : Lane := 5
    let f := fun (t : State) (g : Fld) => t.lf l g
    let v := s.lane l
    v.histLeft = none ∧ v.tap = 0 ∧ v.cnt < 983040 ∧ s.laneOn l = true ∧ 4 ≤ v.phase ∧ f s F.LN_CTRL.LOOP = 0 ∧ f s F.LN_STATUS.CDR_LOCK = 0 ∧ f s F.TRG_WIN_CTRL.MODE ≠ 1 ∧ (∀ d, d < 2 → s.fld F.TRG_DET_CFG.KIND (laneTile l) d = 0)) ∧
    (let s : State := on8 {histLeft := some 0}
    let l : Lane := 5
    let v := s.lane l
    v.histLeft = some 0) ∧
    (let s : State := setL F.LN_STATUS.CDR_LOCK 0 (ts0 (on8 {cnt := 77})) |> fun s => { s with lanes := s.lanes.map fun e => (e.1, { e.2 with tap := 0 }) }
    let l : Lane := 5
    let v := s.lane l
    v.histLeft ≠ some 0) :=
  ⟨by decide +kernel, by decide +kernel, by decide +kernel, by decide +kernel, by decide +kernel, by decide +kernel, by decide +kernel, by decide +kernel, by decide +kernel, by decide +kernel⟩

end Sys2Proof.Tests.LanesReceiveAndMeasure

namespace Sys2Proof.Tests.EventSourcesAndSnapWindows

def runS : State := { State.reset with mode := .run, time := { State.reset.time with now := 5*10^6 } }
def onS (v : LaneSt) : State := setL F.LN_CTRL.EN 1 (setL F.LN_STATUS.PSTATE 1 (rate (setLs v runS)))
def ev1 (k : Nat) : DetEv := ⟨k % 2, 77, 83, 5*10^6 - 100*k⟩
def tap (n : Nat) := setL F.LN_RX_CFG.TAP n
def md := setL F.TRG_WIN_CTRL.MODE 1
def pp (a b : Nat) (s : State) := setL F.TRG_WIN_PRE.PRE a (setL F.TRG_WIN_PRE.POST b s)
def ws := setL F.TRG_WIN_STAT.STATE
def tin (s : State) : State := [0,1,3].foldl (fun s q => s.setFld F.TRG_TIN_CFG.EDGE q 0 (0x93 + q)) s

/-- The hypotheses of Obligations.EventSourcesAndSnapWindows. -/
theorem witness : (let s : State := onS {detQ := [ev1 0, ev1 1]}
    let l : Lane := 5
    let d := { det := 0, elem := 77, frac := 83, stamp := 5000000 }
    let ds := [{ det := 1, elem := 77, frac := 83, stamp := 4999900 }]
    (s.lane l).detQ = d :: ds) ∧
    (let s : State := { tin runS with trigs := [(0, {bus := [⟨3, 5, some (1,2,3), false⟩, ⟨3, 6, none, false⟩]}), (3, {bus := [⟨3, 6*10^6, none, false⟩], held := [⟨1,1,none,false⟩]})] }
    let r : Region := 0
    let e := { ev := 3, stamp := 5, pos := some (1, 2, 3), late := false }
    let es := [{ ev := 3, stamp := 6, pos := none, late := false }]
    (s.trig r).bus = e :: es) ∧
    (let s : State := runS
    let l : Lane := 5
    let f := fun (t : State) (g : Fld) => t.lf l g
    f s F.TRG_WIN_CTRL.MODE ≠ 1) ∧
    (let s : State := md (onS {cnt := 500, tap := 1})
    let l : Lane := 5
    let f := fun (t : State) (g : Fld) => t.lf l g
    f s F.TRG_WIN_CTRL.MODE = 1) ∧
    (let s : State := ws 2 (pp 100 50 (md (onS {cnt := 500, tap := 3, fill := 300})))
    let l : Lane := 5
    let f := fun (t : State) (g : Fld) => t.lf l g
    let st := f s F.TRG_WIN_STAT.STATE
    let v := s.lane l
    f s F.TRG_WIN_CTRL.MODE = 1 ∧ st = 2 ∧ v.fill + f s F.TRG_WIN_PRE.PRE ≤ v.cnt ∧ v.fillT ≤ s.instant ∧ f s F.TRG_WIN_PRE.PRE < winCap v.tap) ∧
    (let s : State := ws 1 (pp 100 50 (md (onS {cnt := 500, tap := 3, fill := 300})))
    let l : Lane := 5
    let f := fun (t : State) (g : Fld) => t.lf l g
    let st := f s F.TRG_WIN_STAT.STATE
    let v := s.lane l
    st = 1 ∧ v.fill + f s F.TRG_WIN_PRE.PRE ≤ v.cnt ∧ v.preFrom < v.cnt) ∧
    (let s : State := ws 3 (pp 100 50 (md (onS {cnt := 500, tap := 3, fill := 300, snapEnd := some 450})))
    let l : Lane := 5
    let e := 450
    let f := fun (t : State) (g : Fld) => t.lf l g
    let st := f s F.TRG_WIN_STAT.STATE
    let v := s.lane l
    v.snapEnd = some e ∧ st = 3 ∧ e < v.cnt ∧ f s F.TRG_WIN_PRE.PRE + f s F.TRG_WIN_PRE.POST + 1 ≤ winCap v.tap) ∧
    (let s : State := tap 2 (onS {cnt := 180, tap := 3})
    let l : Lane := 5
    let f := fun (t : State) (g : Fld) => t.lf l g
    let v := s.lane l
    f s F.LN_RX_CFG.TAP ≠ v.tap ∧ v.cnt % (if v.tap = 3 then 12 else 60) = 0) :=
  ⟨by decide +kernel, by decide +kernel, by decide +kernel, by decide +kernel, by decide +kernel, by decide +kernel, by decide +kernel, by decide +kernel⟩

end Sys2Proof.Tests.EventSourcesAndSnapWindows

namespace Sys2Proof.Tests.CombinersProcessInStampOrder

def runS : State := { State.reset with mode := .run, time := { State.reset.time with now := 5*10^6 } }
def tr (v : TrigSt) (s : State) : State := { s with trigs := [(0, v), (3, v)] }
def g2 (f : Fld) (v : Nat) (s : State) : State := [0,3].foldl (fun s r => s.setFld f r 0 v) s
def nos (s : State) : State := g2 F.TRG_TOUT_CFG.SEL 60 (g2 F.TRG_BUS_SEL.SEL 60 ([0,3].foldl (fun s r => (List.range 16).foldl (fun s c => s.setFld F.HEAT_TRIG.SEL r c 61) s) ((List.range 48).foldl (fun s l => s.setLf l F.TRG_WIN_CTRL.TRIG_SEL 61) s)))
def hv : TrigSt := { held := [⟨5, 4*10^6, some (12, 77, 83), false⟩, ⟨48, 3*10^6, none, false⟩, ⟨9, 3*10^6, none, false⟩] }
def hv2 : TrigSt := { held := [⟨5, 10^6, some (12, 77, 83), false⟩] }
def seqS (v : TrigSt) : State := g2 F.TRG_SEQ_CTRL.EN 1 (g2 F.TRG_SEQ_CTRL.STAGE 1 (g2 F.TRG_SEQ_CTRL.LAST 2 (tr v runS)))
def dl (s : State) : State := [0,3].foldl (fun s r => s.setFld F.TRG_S_TIMEOUT.NS r 1 100) s

/-- The hypotheses of Obligations.CombinersProcessInStampOrder. -/
theorem witness : (let s : State := g2 F.TRG_LOG_MASK0.EVENTS 0xFFFF (nos (tr hv2 runS))
    let r : Region := 0
    let e := { ev := 5, stamp := 1000000, pos := some (12, 77, 83), late := false }
    let v := s.trig r
    firstHeld v.held = some e ∧ e.stamp + s.fld F.TRG_SEQ_CTRL.SETTLE r * 640 ≤ s.instant ∧ e.late = false ∧ e.ev < 64 ∧ s.fld F.TRG_SEQ_CTRL.EN r = 0 ∧ s.fld F.TRG_TOUT_CFG.SEL r ≠ e.ev ∧ s.fld F.TRG_BUS_SEL.SEL r ≠ e.ev ∧ (∀ c : Fin 16, s.fld F.HEAT_TRIG.SEL r c ≠ e.ev) ∧ (∀ l : Lane, s.fld F.TRG_WIN_CTRL.TRIG_SEL (laneTile l) ≠ e.ev) ∧ (∀ p ∈ e.pos, p.1 < 64 ∧ p.2.2 < 256)) ∧
    (let s : State := nos (tr hv runS)
    let r : Region := 0
    let e := { ev := 9, stamp := 3000000, pos := none, late := false }
    let v := s.trig r
    firstHeld v.held = some e ∧ e.stamp + s.fld F.TRG_SEQ_CTRL.SETTLE r * 640 ≤ s.instant) ∧
    (let s : State := tr { held := [⟨5, 10^13, none, false⟩] } runS
    let r : Region := 0
    let e := { ev := 5, stamp := 10000000000000, pos := none, late := false }
    let v := s.trig r
    firstHeld v.held = some e ∧ s.instant < e.stamp + s.fld F.TRG_SEQ_CTRL.SETTLE r * 640) ∧
    (let s : State := dl (seqS { count := 3, entry := 5 })
    let r : Region := 0
    let d := 102405
    let v := s.trig r
    stageDeadline s r = some d ∧ d < s.instant ∧ (∀ e ∈ v.held, d < e.stamp)) ∧
    (let s : State := g2 F.TRG_S_COND0.EVENTS 4 (g2 F.TRG_S_COND1.COUNT 1 (tr { count := 4 } runS))
    let r : Region := 0
    let w : Word := 0x8000000000
    let able := s.fld F.TRG_S_COND1.COUNT r 0 ≠ 0 ∧ (s.fld F.TRG_S_COND0.EVENTS r 0 ≠ 0 ∨ s.fld F.TRG_S_COND1.EVENTS r 0 ≠ 0)
    w.getLsbD 39 = true ∧ s.fld F.TRG_SEQ_CTRL.EN r = 0 ∧ able) ∧
    (let s : State := runS
    let r : Region := 0
    let w : Word := 0x8000000000
    let able := s.fld F.TRG_S_COND1.COUNT r 0 ≠ 0 ∧ (s.fld F.TRG_S_COND0.EVENTS r 0 ≠ 0 ∨ s.fld F.TRG_S_COND1.EVENTS r 0 ≠ 0)
    w.getLsbD 39 = true ∧ s.fld F.TRG_SEQ_CTRL.EN r = 0 ∧ ¬able) ∧
    (let s : State := tr { edges := [(10^15, none)] } runS
    let r : Region := 0
    let at_ := 1000000000000000
    let stop := none
    let es := []
    let v := s.trig r
    v.edges = (at_, stop) :: es ∧ s.instant < at_) ∧
    (let s : State := tr { edges := [(7, none), (8, some 900)] } runS
    let r : Region := 0
    let at_ := 7
    let stop := none
    let es := [(8, some 900)]
    let v := s.trig r
    v.edges = (at_, stop) :: es ∧ at_ ≤ s.instant ∧ stop = none) ∧
    (let s : State := g2 F.TRG_TOUT_CFG.WIDTH 100 (tr { edges := [(7, some 5), (8, some 2)] } runS)
    let r : Region := 0
    let at_ := 7
    let stop := some 5
    let es := [(8, some 2)]
    let w := 5
    let v := s.trig r
    v.edges = (at_, stop) :: es ∧ at_ ≤ s.instant ∧ stop = some w) ∧
    (let s : State := tr { pulseEnd := some 4000 } runS
    let r : Region := 0
    let at_ := 4000
    let v := s.trig r
    v.pulseEnd = some at_ ∧ at_ ≤ s.instant) :=
  ⟨by decide +kernel, by decide +kernel, by decide +kernel, by decide +kernel, by decide +kernel, by decide +kernel, by decide +kernel, by decide +kernel, by decide +kernel, by decide +kernel⟩

end Sys2Proof.Tests.CombinersProcessInStampOrder

namespace Sys2Proof.Tests.HeatChannelsArmForceAndStop

def g2 (f : Fld) (v : Nat) (s : State) : State := [0,3].foldl (fun s r => [3,15].foldl (fun s c => s.setFld f r c v) s) s
def laneCh (s : State) : State := lns { cnt := 100000, tap := 3, lastT := 5*10^9-3 } (g2 F.HEAT_SRC.KIND 0 (g2 F.HEAT_SRC.UNIT 5 s))
def slots (s : State) : State := g2 F.HEAT_NSLOT.NUM 4 (g2 F.HEAT_SLOT.BLOCKS 100 (g2 F.HEAT_SLOT.EVB 0 (g2 F.HEAT_BASE.ADDR 0x1000 (g2 F.HEAT_PRE.NUM 100 (g2 F.HEAT_POST.NUM 200 (g2 F.HEAT_FELT.DECIM 4 s))))))
def okS := slots (laneCh runS)
def stc := g2 F.HEAT_STAT.STATE

/-- The hypotheses of Obligations.HeatChannelsArmForceAndStop. -/
theorem witness : (let s : State := [0,3].foldl (fun s r => s.setFld F.ACQ_STATUS.EVT r 0 4) (g2 F.HEAT_NSLOT.NUM 0 okS)
    let r : Region := 3
    let c : Fin 16 := 15
    let v := s.ch r c
    let st := s.chState r c
    let fab := s.fld F.HEAT_SRC.KIND r c = 1
    let unit := s.fld F.HEAT_SRC.UNIT r c
    let l := 12 * r.val + unit
    let tap := (s.lane l).tap
    let cap := if tap = 3 then 196608 else 983040
    let blocks := s.fld F.HEAT_SLOT.BLOCKS r c
    let evb := s.fld F.HEAT_SLOT.EVB r c
    let base := s.fld F.HEAT_BASE.ADDR r c * 64
    let notify := s.fld F.HEAT_NOTIFY.ADDR r c * 8
    let pre := s.fld F.HEAT_PRE.NUM r c
    let post := s.fld F.HEAT_POST.NUM r c
    let d := s.fld F.HEAT_FELT.DECIM r c
    let felt := s.fld F.HEAT_FELT.FELT r c = 1
    let nOut := if felt then 2 * ((pre + post + 1 + d - 1) / d) else pre + post + 1
    let capOut := (blocks - 2 - evb) * (if fab ∨ tap = 3 then 12 else 60)
    let res :=
      if s.mode = .blank ∨ s.mode = .loading then 1
      else if st ≠ 0 then 2
      else if (fab ∧ (s.fld F.HEAT_SRC.CMASK r c = 0 ∨ s.fld F.HEAT_SRC.BUF r c = 0)) ∨
          (¬fab ∧ (11 < unit ∨ s.fld F.TRG_WIN_CTRL.MODE (laneTile l) ≠ 0)) then 3
      else if s.fld F.HEAT_NSLOT.NUM r c = 0 then 4
      else if blocks ≤ 2 + evb then 5
      else if 0x2000000000 < base + s.fld F.HEAT_NSLOT.NUM r c * blocks * 64 ∨
          (notify ≠ 0 ∧ (notify < 0x7FF0000000 ∨ 0x7FF8000000 ≤ notify)) ∨
          16384 < bufQuota s r + (if fab then s.fld F.HEAT_SRC.BUF r c else 0) then 6
      else if felt ∧ (fab ∨ 1 < tap) then 7
      else if felt ∧ d < 2 then 8
      else if ¬fab ∧ cap ≤ pre then 9
      else if capOut < nOut ∧ s.fld F.HEAT_CTRL.OVERRUN_OK r c = 0 then 10
      else if ∃ m ∈ List.range 4, chBw s r c m ≠ 0 ∧ s.fld F.MEM_RES_LIMIT.LIMIT m < memBwUsed s m + chBw s r c m then 11
      else 0
    (st ≠ 0 ∨ v.closing = []) ∧ res ≠ 0) ∧
    (let s : State := chs { closing := [mkH false] } okS
    let r : Region := 3
    let c : Fin 16 := 15
    let v := s.ch r c
    let st := s.chState r c
    st = 0 ∧ v.closing ≠ []) ∧
    (let s : State := slots runS
    let r : Region := 3
    let c : Fin 16 := 15
    let v := s.ch r c
    let st := s.chState r c
    let fab := s.fld F.HEAT_SRC.KIND r c = 1
    let unit := s.fld F.HEAT_SRC.UNIT r c
    let l := 12 * r.val + unit
    let tap := (s.lane l).tap
    let cap := if tap = 3 then 196608 else 983040
    let blocks := s.fld F.HEAT_SLOT.BLOCKS r c
    let evb := s.fld F.HEAT_SLOT.EVB r c
    let base := s.fld F.HEAT_BASE.ADDR r c * 64
    let notify := s.fld F.HEAT_NOTIFY.ADDR r c * 8
    let pre := s.fld F.HEAT_PRE.NUM r c
    let post := s.fld F.HEAT_POST.NUM r c
    let d := s.fld F.HEAT_FELT.DECIM r c
    let felt := s.fld F.HEAT_FELT.FELT r c = 1
    let nOut := if felt then 2 * ((pre + post + 1 + d - 1) / d) else pre + post + 1
    let capOut := (blocks - 2 - evb) * (if fab ∨ tap = 3 then 12 else 60)
    let res :=
      if s.mode = .blank ∨ s.mode = .loading then 1
      else if st ≠ 0 then 2
      else if (fab ∧ (s.fld F.HEAT_SRC.CMASK r c = 0 ∨ s.fld F.HEAT_SRC.BUF r c = 0)) ∨
          (¬fab ∧ (11 < unit ∨ s.fld F.TRG_WIN_CTRL.MODE (laneTile l) ≠ 0)) then 3
      else if s.fld F.HEAT_NSLOT.NUM r c = 0 then 4
      else if blocks ≤ 2 + evb then 5
      else if 0x2000000000 < base + s.fld F.HEAT_NSLOT.NUM r c * blocks * 64 ∨
          (notify ≠ 0 ∧ (notify < 0x7FF0000000 ∨ 0x7FF8000000 ≤ notify)) ∨
          16384 < bufQuota s r + (if fab then s.fld F.HEAT_SRC.BUF r c else 0) then 6
      else if felt ∧ (fab ∨ 1 < tap) then 7
      else if felt ∧ d < 2 then 8
      else if ¬fab ∧ cap ≤ pre then 9
      else if capOut < nOut ∧ s.fld F.HEAT_CTRL.OVERRUN_OK r c = 0 then 10
      else if ∃ m ∈ List.range 4, chBw s r c m ≠ 0 ∧ s.fld F.MEM_RES_LIMIT.LIMIT m < memBwUsed s m + chBw s r c m then 11
      else 0
    st = 0 ∧ v.closing = [] ∧ res = 0 ∧ (fab ∨ tap ≤ 3)) ∧
    (let s : State := State.reset
    let r : Region := 3
    let c : Fin 16 := 15
    let st := s.chState r c
    st = 0) ∧
    (let s : State := chs { closing := [mkH false] } (stc 2 okS)
    let r : Region := 3
    let c : Fin 16 := 15
    let st := s.chState r c
    st ≠ 0 ∧ st ≠ 3) ∧
    (let s : State := stc 3 (chs { heat := some (mkH false) } okS)
    let r : Region := 3
    let c : Fin 16 := 15
    let h := { seq := 7, base := 262144, evb := 0, capOut := 1000, fabric := false, unit := 5, tap := 3, felt := false, decim := 4, whold := false, event := 127, stamp := 4000000000, frac := 0, mapped := true, servo := 1, trigE := 99950, pre := 100, post := 20, firstE := 99850, firstT := 3, stride := 4, origin := 0, lastE := none, trunc := false, later := 0, fsCount := 0, fsFirst := none, dead := 0, recs := [], next := 99850, gaps := [], gap := none, fmin := 127, fmax := -128, buf := { blk := none, ins := [], src := [] } }
    let v := s.ch r c
    let st := s.chState r c
    st = 3 ∧ v.heat = some h ∧ h.fabric = false) ∧
    (let s : State := stc 3 (chs { heat := some (mkH false) } okS)
    let r : Region := 3
    let c : Fin 16 := 15
    let st := s.chState r c
    st = 3) ∧
    (let s : State := State.reset
    let r : Region := 3
    let c : Fin 16 := 15
    let st := s.chState r c
    st ≠ 3) ∧
    (let s : State := stc 3 (chs { heat := some (mkH false) } okS)
    let r : Region := 3
    let c : Fin 16 := 15
    let h := { seq := 7, base := 262144, evb := 0, capOut := 1000, fabric := false, unit := 5, tap := 3, felt := false, decim := 4, whold := false, event := 127, stamp := 4000000000, frac := 0, mapped := true, servo := 1, trigE := 99950, pre := 100, post := 20, firstE := 99850, firstT := 3, stride := 4, origin := 0, lastE := none, trunc := false, later := 0, fsCount := 0, fsFirst := none, dead := 0, recs := [], next := 99850, gaps := [], gap := none, fmin := 127, fmax := -128, buf := { blk := none, ins := [], src := [] } }
    let v := s.ch r c
    let st := s.chState r c
    st = 3 ∧ v.armT ≤ s.instant ∧ v.heat = some h) ∧
    (let s : State := chs { closing := [mkH false] } (stc 2 okS)
    let r : Region := 3
    let c : Fin 16 := 15
    let v := s.ch r c
    let st := s.chState r c
    let fab := s.fld F.HEAT_SRC.KIND r c = 1
    let unit := s.fld F.HEAT_SRC.UNIT r c
    let l := 12 * r.val + unit
    let pre := s.fld F.HEAT_PRE.NUM r c
    st = 2 ∧ v.armT ≤ s.instant ∧ (fab ∨ winJudge s l (elemAt s l s.instant) pre s.instant = 0)) ∧
    (let s : State := stc 3 (chs { heat := some (mkH false) } okS)
    let r : Region := 3
    let c : Fin 16 := 15
    let h := { seq := 7, base := 262144, evb := 0, capOut := 1000, fabric := false, unit := 5, tap := 3, felt := false, decim := 4, whold := false, event := 127, stamp := 4000000000, frac := 0, mapped := true, servo := 1, trigE := 99950, pre := 100, post := 20, firstE := 99850, firstT := 3, stride := 4, origin := 0, lastE := none, trunc := false, later := 0, fsCount := 0, fsFirst := none, dead := 0, recs := [], next := 99850, gaps := [], gap := none, fmin := 127, fmax := -128, buf := { blk := none, ins := [], src := [] } }
    let v := s.ch r c
    let unit := s.fld F.HEAT_SRC.UNIT r c
    let post := s.fld F.HEAT_POST.NUM r c
    v.heat = some h ∧ h.fabric = false ∧ h.trigE + h.post < (s.lane (12 * r.val + h.unit)).cnt) ∧
    (let s : State := stc 3 (chs { heat := some { mkH false with post := 50 }, finish := true } okS)
    let r : Region := 3
    let c : Fin 16 := 15
    let h := { seq := 7, base := 262144, evb := 0, capOut := 1000, fabric := false, unit := 5, tap := 3, felt := false, decim := 4, whold := false, event := 127, stamp := 4000000000, frac := 0, mapped := true, servo := 1, trigE := 99950, pre := 100, post := 50, firstE := 99850, firstT := 3, stride := 4, origin := 0, lastE := none, trunc := false, later := 0, fsCount := 0, fsFirst := none, dead := 0, recs := [], next := 99850, gaps := [], gap := none, fmin := 127, fmax := -128, buf := { blk := none, ins := [], src := [] } }
    let v := s.ch r c
    let unit := s.fld F.HEAT_SRC.UNIT r c
    let post := s.fld F.HEAT_POST.NUM r c
    v.heat = some h ∧ h.fabric = false ∧ (s.lane (12 * r.val + h.unit)).cnt ≤ h.trigE + h.post) :=
  ⟨by decide +kernel, by decide +kernel, by decide +kernel, by decide +kernel, by decide +kernel, by decide +kernel, by decide +kernel, by decide +kernel, by decide +kernel, by decide +kernel, by decide +kernel, by decide +kernel⟩

end Sys2Proof.Tests.HeatChannelsArmForceAndStop

namespace Sys2Proof.Tests.HeatsCloseRearmAndJump

def g2 (f : Fld) (v : Nat) (s : State) : State := [0,3].foldl (fun s r => [3,15].foldl (fun s c => s.setFld f r c v) s) s
def laneCh (s : State) : State := lns { cnt := 100000, tap := 3, lastT := 5*10^9-3 } (g2 F.HEAT_SRC.KIND 0 (g2 F.HEAT_SRC.UNIT 5 s))
def fabCh (s : State) : State := g2 F.HEAT_SRC.KIND 1 (g2 F.HEAT_SRC.CMASK 5 (g2 F.HEAT_SRC.BUF 16 s))
def slots (s : State) : State := g2 F.HEAT_NSLOT.NUM 4 (g2 F.HEAT_SLOT.BLOCKS 100 (g2 F.HEAT_SLOT.EVB 0 (g2 F.HEAT_BASE.ADDR 0x1000 (g2 F.HEAT_PRE.NUM 100 (g2 F.HEAT_POST.NUM 200 (g2 F.HEAT_FELT.DECIM 4 s))))))
def okS := slots (laneCh runS)
def okF := slots (fabCh runS)
def stc := g2 F.HEAT_STAT.STATE
def cl : Heat := { mkH true with lastE := some 99970, gaps := [] }
def wr := g2 F.HEAT_CTRL.WRAP 1

/-- The hypotheses of Obligations.HeatsCloseRearmAndJump. -/
theorem witness : (let s : State := State.reset
    let r : Region := 0
    let c : Fin 16 := 3
    let v := s.ch r c
    v.closing = []) ∧
    (let s : State := chs { closing := [cl] } okF
    let r : Region := 0
    let c : Fin 16 := 3
    let h := cl
    let v := s.ch r c
    v.closing = [h] ∧ v.heat = none ∧ v.waitArm = none ∧ h.fabric = true ∧ h.felt = false ∧ h.recs = [] ∧ h.gaps = [] ∧ h.gap = none ∧ h.evb = 0 ∧ h.span ≤ h.capOut ∧ h.unit < 16 ∧ h.servo < 4 ∧ s.resps = [] ∧ h.base % 64 = 0 ∧ memAccess s h.base = 0 ∧ memAccess s (h.base + 64) = 0 ∧ s.fld F.HEAT_NOTIFY.ADDR r c = 0) ∧
    (let s : State := chs { closing := [cl, {cl with seq := 8}, {cl with seq := 9}] } okF
    let r : Region := 0
    let c : Fin 16 := 3
    let h := { seq := 7, base := 262144, evb := 0, capOut := 1000, fabric := true, unit := 5, tap := 3, felt := false, decim := 4, whold := false, event := 127, stamp := 4000000000, frac := 0, mapped := true, servo := 1, trigE := 99950, pre := 100, post := 20, firstE := 99850, firstT := 3, stride := 4, origin := 0, lastE := some 99970, trunc := false, later := 0, fsCount := 0, fsFirst := none, dead := 0, recs := [], next := 99850, gaps := [], gap := none, fmin := 127, fmax := -128, buf := { blk := none, ins := [], src := [] } }
    let rest := [{ seq := 8, base := 262144, evb := 0, capOut := 1000, fabric := true, unit := 5, tap := 3, felt := false, decim := 4, whold := false, event := 127, stamp := 4000000000, frac := 0, mapped := true, servo := 1, trigE := 99950, pre := 100, post := 20, firstE := 99850, firstT := 3, stride := 4, origin := 0, lastE := some 99970, trunc := false, later := 0, fsCount := 0, fsFirst := none, dead := 0, recs := [], next := 99850, gaps := [], gap := none, fmin := 127, fmax := -128, buf := { blk := none, ins := [], src := [] } }, { seq := 9, base := 262144, evb := 0, capOut := 1000, fabric := true, unit := 5, tap := 3, felt := false, decim := 4, whold := false, event := 127, stamp := 4000000000, frac := 0, mapped := true, servo := 1, trigE := 99950, pre := 100, post := 20, firstE := 99850, firstT := 3, stride := 4, origin := 0, lastE := some 99970, trunc := false, later := 0, fsCount := 0, fsFirst := none, dead := 0, recs := [], next := 99850, gaps := [], gap := none, fmin := 127, fmax := -128, buf := { blk := none, ins := [], src := [] } }]
    let v := s.ch r c
    v.closing = h :: rest ∧ v.waitArm = none ∧ s.fld F.HEAT_NOTIFY.ADDR r c = 0) ∧
    (let s : State := chs { closing := [cl, {cl with seq := 8}, {cl with seq := 9}] } okF
    let r : Region := 0
    let c : Fin 16 := 3
    s.chState r c ≠ 4) ∧
    (let s : State := g2 F.HEAT_CTRL.WHOLD 1 (chs { closing := [cl] } (stc 4 (wr okF)))
    let r : Region := 0
    let c : Fin 16 := 3
    let v := s.ch r c
    let ready := (s.fld F.HEAT_CTRL.WRAP r c = 1 ∨
          (s.fld F.HEAT_WP.SEQ r c + 2 ^ 40 - s.fld F.HEAT_RP.SEQ r c) % 2 ^ 40 < s.fld F.HEAT_NSLOT.NUM r c) ∧
        v.closing.length ≤ (if s.fld F.HEAT_CTRL.WHOLD r c = 1 then 0 else 1) ∧
        (if s.fld F.HEAT_HOLDOFF.KIND r c = 1 then v.holdLeft = 0
          else v.endT + s.fld F.HEAT_HOLDOFF.VALUE r c * 1024 ≤ s.instant) ∧ v.endT + 200 * 1024 ≤ s.instant
    s.chState r c = 4 ∧ ¬ready) ∧
    (let s : State := chs { closing := [cl] } (stc 4 okF)
    let r : Region := 0
    let c : Fin 16 := 3
    let v := s.ch r c
    let ready := (s.fld F.HEAT_CTRL.WRAP r c = 1 ∨
          (s.fld F.HEAT_WP.SEQ r c + 2 ^ 40 - s.fld F.HEAT_RP.SEQ r c) % 2 ^ 40 < s.fld F.HEAT_NSLOT.NUM r c) ∧
        v.closing.length ≤ (if s.fld F.HEAT_CTRL.WHOLD r c = 1 then 0 else 1) ∧
        (if s.fld F.HEAT_HOLDOFF.KIND r c = 1 then v.holdLeft = 0
          else v.endT + s.fld F.HEAT_HOLDOFF.VALUE r c * 1024 ≤ s.instant) ∧ v.endT + 200 * 1024 ≤ s.instant
    s.chState r c = 4 ∧ ready ∧ s.fld F.HEAT_NSLOT.NUM r c ≠ 0 ∧ (s.fld F.HEAT_SRC.KIND r c = 1 ∨ (s.lane (12 * r.val + s.fld F.HEAT_SRC.UNIT r c)).tap ≤ 3)) ∧
    (let s : State := chs { heat := some { mkH false with whold := true } } (stc 3 okS)
    let r : Region := 0
    let c : Fin 16 := 3
    let h := { seq := 7, base := 262144, evb := 0, capOut := 1000, fabric := false, unit := 5, tap := 3, felt := false, decim := 4, whold := true, event := 127, stamp := 4000000000, frac := 0, mapped := true, servo := 1, trigE := 99950, pre := 100, post := 20, firstE := 99850, firstT := 3, stride := 4, origin := 0, lastE := none, trunc := false, later := 0, fsCount := 0, fsFirst := none, dead := 0, recs := [], next := 99850, gaps := [], gap := none, fmin := 127, fmax := -128, buf := { blk := none, ins := [], src := [] } }
    let v := s.ch r c
    v.closing = [] ∧ v.heat = some h ∧ h.fabric = false ∧ h.felt = false ∧ h.gap = none ∧ h.lastE = none ∧ h.whold = true) ∧
    (let s : State := chs { heat := some (mkH false) } (lns { cnt := 196608 + 99850, tap := 3 } (stc 3 okS))
    let r : Region := 0
    let c : Fin 16 := 3
    let h := { seq := 7, base := 262144, evb := 0, capOut := 1000, fabric := false, unit := 5, tap := 3, felt := false, decim := 4, whold := false, event := 127, stamp := 4000000000, frac := 0, mapped := true, servo := 1, trigE := 99950, pre := 100, post := 20, firstE := 99850, firstT := 3, stride := 4, origin := 0, lastE := none, trunc := false, later := 0, fsCount := 0, fsFirst := none, dead := 0, recs := [], next := 99850, gaps := [], gap := none, fmin := 127, fmax := -128, buf := { blk := none, ins := [], src := [] } }
    let v := s.ch r c
    let w := (s.lane (12 * r.val + h.unit)).cnt
    let cap := if h.tap = 3 then 196608 else 983040
    v.closing = [] ∧ v.heat = some h ∧ h.fabric = false ∧ h.felt = false ∧ h.gap = none ∧ h.lastE = none ∧ h.whold = false ∧ cap ≤ w ∧ h.next = w - cap ∧ h.firstE ≤ h.next ∧ h.next ≤ h.trigE + h.post) :=
  ⟨by decide +kernel, by decide +kernel, by decide +kernel, by decide +kernel, by decide +kernel, by decide +kernel, by decide +kernel, by decide +kernel⟩

end Sys2Proof.Tests.HeatsCloseRearmAndJump

namespace Sys2Proof.Tests.TraceLinesReachTheSinkInOrder

def runS : State := { State.reset with mode := .run, time := { State.reset.time with now := 5*10^9, strideNum := 0x123456789 } }
def g2 (f : Fld) (v : Nat) (s : State) : State := [0,3].foldl (fun s c => s.setFld f c 0 v) s
def by_ (n : Nat) : List TrcByte := (List.range n).map fun k => ⟨rnd k % 256, k % 5 == 0⟩
def unit (u : TrcUnit) (s : State) : State := { s with trc := [(0, u), (3, u)] }
def sk (n : Nat) := g2 F.TRC_CTRL.SINK n
def en (n : Nat) := g2 F.TRC_SRC.EN n
def ring (s : State) := g2 F.TRC_MEM_LEN.BLOCKS 16 s
def ln (q n : Nat) (f : Bool) : TrcLine := ⟨q, f, by_ n⟩
def srcs : List (Nat × TrcSrc) := [(0, { cur := by_ 5, seq := 9 }), (3, { cur := by_ 3, staged := [ln 4 55 false, ln 5 7 true], seq := 6 }), (2, { cyc := 2^40-1 }), (16, { cyc := 2^40-1, cur := by_ 10, seq := 255 })]
def longs : List (Nat × TrcSrc) := [(3, { cyc := 2^40-1, cur := by_ 3, sinceSync := 100 }), (2, { cyc := 2^40-1 }), (16, { cyc := 2^40-1, cur := by_ 10, seq := 255 })]
def thr0 := g2 F.TRC_CTRL.THR 0
def wprp (a b : Nat) (s : State) : State := [0,3].foldl (fun s r => (s.setReg .TRC_WP r 0 (BitVec.ofNat 40 a)).setReg .TRC_RP r 0 (BitVec.ofNat 40 b)) s
def b1 := thr0 (sk 1 (en 0x1FFFF (unit { srcs := srcs, next := 5 } runS)))
def bufd (s : State) : State := [0,3].foldl (fun s r => (List.range 60).foldl (fun s k => s.setReg .TRC_BUF r k (BitVec.ofNat 40 (rnd k))) s) s
def m1 (n : Nat) := bufd (thr0 (sk 2 (en 0x1FFFF (ring (unit { fifo := n } runS)))))

/-- The hypotheses of Obligations.TraceLinesReachTheSinkInOrder. -/
theorem witness : (let s : State := runS
    let r : Region := 0
    let v : Word := 0x4000000000
    let sink := s.fld F.TRC_CTRL.SINK r
    let len := s.fld F.TRC_MEM_LEN.BLOCKS r
    let ringBad := len = 0 ∨ 0x2000000000 < s.fld F.TRC_MEM_BASE.ADDR r * 64 + 64 * len
    sink = 0 ∧ (bitsOf v.toNat 39 38 = 1 ∨ (bitsOf v.toNat 39 38 = 2 ∧ ¬ringBad))) ∧
    (let s : State := runS
    let r : Region := 0
    let v : Word := 0x8000000000
    let sink := s.fld F.TRC_CTRL.SINK r
    let len := s.fld F.TRC_MEM_LEN.BLOCKS r
    let ringBad := len = 0 ∨ 0x2000000000 < s.fld F.TRC_MEM_BASE.ADDR r * 64 + 64 * len
    sink = 0 ∧ bitsOf v.toNat 39 38 = 2 ∧ ringBad) ∧
    (let s : State := runS
    let r : Region := 0
    let u := s.trcUnit r
    let src := fun (t : State) (i : Nat) => t.trcSrc (srcProc r i)
    (∀ i, i < 17 → (src s i).staged = []) ∧ u.fifo = 0) ∧
    (let s : State := wprp 2050 2 (g2 F.TRC_CTRL.MODE 1 b1)
    let r : Region := 0
    let d := 15
    let i := 3
    let l := ln 4 55 false
    let ls := [ln 5 7 true]
    let u := s.trcUnit r
    let src := fun (t : State) (i : Nat) => t.trcSrc (srcProc r i)
    let sink := s.fld F.TRC_CTRL.SINK r
    let full := 2048 ≤ (s.reg .TRC_WP r - s.reg .TRC_RP r).toNat
    d < 17 ∧ i = (u.next + d) % 17 ∧ (∀ j, j < d → (src s ((u.next + j) % 17)).staged = []) ∧ (src s i).staged = l :: ls ∧ (src s i).lost = none ∧ (src s i).cur.length < 55 ∧ sink = 1 ∧ u.fifo = 0 ∧ s.fld F.TRC_CTRL.THR r = 0 ∧ l.seq < 256 ∧ l.bytes.length ≤ 55 ∧ (∀ b ∈ l.bytes, b.byte < 256) ∧ full ∧ s.fld F.TRC_CTRL.MODE r = 1) ∧
    (let s : State := b1
    let r : Region := 0
    let d := 15
    let i := 3
    let l := ln 4 55 false
    let ls := [ln 5 7 true]
    let u := s.trcUnit r
    let src := fun (t : State) (i : Nat) => t.trcSrc (srcProc r i)
    let sink := s.fld F.TRC_CTRL.SINK r
    let full := 2048 ≤ (s.reg .TRC_WP r - s.reg .TRC_RP r).toNat
    d < 17 ∧ i = (u.next + d) % 17 ∧ (∀ j, j < d → (src s ((u.next + j) % 17)).staged = []) ∧ (src s i).staged = l :: ls ∧ (src s i).lost = none ∧ (src s i).cur.length < 55 ∧ sink = 1 ∧ u.fifo = 0 ∧ s.fld F.TRC_CTRL.THR r = 0 ∧ l.seq < 256 ∧ l.bytes.length ≤ 55 ∧ (∀ b ∈ l.bytes, b.byte < 256) ∧ (¬full ∨ s.fld F.TRC_CTRL.MODE r = 0)) ∧
    (let s : State := wprp 17 1 (g2 F.TRC_CTRL.MODE 1 (m1 2))
    let r : Region := 0
    let u := s.trcUnit r
    let src := fun (t : State) (i : Nat) => t.trcSrc (srcProc r i)
    let sink := s.fld F.TRC_CTRL.SINK r
    let len := s.fld F.TRC_MEM_LEN.BLOCKS r
    let k := (s.reg .TRC_WP r).toNat
    let full := len ≤ (s.reg .TRC_WP r - s.reg .TRC_RP r).toNat
    (∀ i, i < 17 → (src s i).staged = []) ∧ sink = 2 ∧ u.fifo ≠ 0 ∧ (∀ k, mget 0 u.bufErr k = 0) ∧ s.fld F.TRC_CTRL.THR r = 0 ∧ full ∧ s.fld F.TRC_CTRL.MODE r = 1) ∧
    (let s : State := m1 1
    let r : Region := 0
    let u := s.trcUnit r
    let src := fun (t : State) (i : Nat) => t.trcSrc (srcProc r i)
    let sink := s.fld F.TRC_CTRL.SINK r
    let len := s.fld F.TRC_MEM_LEN.BLOCKS r
    let k := (s.reg .TRC_WP r).toNat
    let at_ := s.fld F.TRC_MEM_BASE.ADDR r * 64 + 64 * (k % len)
    let full := len ≤ (s.reg .TRC_WP r - s.reg .TRC_RP r).toNat
    (∀ i, i < 17 → (src s i).staged = []) ∧ sink = 2 ∧ u.fifo ≠ 0 ∧ (∀ k, mget 0 u.bufErr k = 0) ∧ s.fld F.TRC_CTRL.THR r = 0 ∧ (¬full ∨ s.fld F.TRC_CTRL.MODE r = 0) ∧ memAccess s at_ = 0) ∧
    (let s : State := runS
    let r : Region := 0
    let sink := s.fld F.TRC_CTRL.SINK r
    sink = 0) ∧
    (let s : State := b1
    let r : Region := 0
    let sink := s.fld F.TRC_CTRL.SINK r
    sink ≠ 0) ∧
    (let s : State := unit { stopping := 1 } runS
    let r : Region := 0
    let u := s.trcUnit r
    u.stopping ≠ 0 ∧ u.ringWait = 0 ∧ u.fifo = 0 ∧ (∀ e ∈ u.srcs, e.2.staged = [])) ∧
    (let s : State := runS
    let r : Region := 0
    let u := s.trcUnit r
    (u.stopping = 0 ∨ u.ringWait ≠ 0 ∨ u.fifo ≠ 0 ∨ ∃ e ∈ u.srcs, e.2.staged ≠ [])) ∧
    (let s : State := runS
    let p : Proc := 3
    (s.traced p = false ∨ (s.trcSrc p).cyc ≠ 2 ^ 40 - 1)) ∧
    (let s : State := b1
    let p : Proc := 50
    s.traced p = true ∧ (s.trcSrc p).cyc = 2 ^ 40 - 1 ∧ (s.trcSrc p).atom = [] ∧ (s.trcSrc p).lost = none ∧ (s.trcSrc p).staged = [] ∧ (s.trcSrc p).cur.length + 19 < 55) ∧
    (let s : State := runS
    let r : Region := 0
    let sink := s.fld F.TRC_CTRL.SINK r
    sink = 0) ∧
    (let s : State := sk 1 (en 0xFF (unit { srcs := longs } runS))
    let r : Region := 0
    let sink := s.fld F.TRC_CTRL.SINK r
    sink ≠ 0) :=
  ⟨by decide +kernel, by decide +kernel, by decide +kernel, by decide +kernel, by decide +kernel, ⟨by decide +kernel, by decide +kernel, by decide +kernel, fun _ => rfl, by decide +kernel, by decide +kernel, by decide +kernel⟩, ⟨by decide +kernel, by decide +kernel, by decide +kernel, fun _ => rfl, by decide +kernel, by decide +kernel, by decide +kernel⟩, by decide +kernel, by decide +kernel, by decide +kernel, by decide +kernel, by decide +kernel, by decide +kernel, by decide +kernel, by decide +kernel⟩

end Sys2Proof.Tests.TraceLinesReachTheSinkInOrder

namespace Sys2Proof.Tests.ReadsAndWritesMoveTheNamedWords

def runS : State := { State.reset with mode := .run }

/-- The hypotheses of Obligations.ReadsAndWritesMoveTheNamedWords. -/
theorem witness : (let s : State := runS
    let addr : Word := 0x3FFFFFFFFF
    let a := addr.toNat
    s.net.waitReq = [] ∧ s.net.accepted = [] ∧ probing s = false ∧ nodeOf a = none) ∧
    (let s : State := runS
    let addr : Word := 0x3FFFFFFFFF
    let lines : Fin 16 := 0
    let a := addr.toNat
    s.net.waitReq = [] ∧ s.net.accepted = [] ∧ probing s = false ∧ nodeOf a = none ∧ lines.val < 10) ∧
    (let s : State := sw 2 runS
    let addr : Word := 0x1000
    let wen : BitVec 12 := 0xFFF
    let node := 3
    let a := addr.toNat
    let blk := a / 64 * 64
    s.net.waitReq = [] ∧ s.net.accepted = [] ∧ probing s = false ∧ nodeOf a = some node ∧ nodeState s node = 0 ∧ asleep s blk wen.toNat = false ∧ s.swapState = 2) ∧
    (let s : State := { runS with rst := { warm := 2 } }
    let src : BitVec 8 := 0x43
    let tag : BitVec 16 := 0x8001
    let addr : Word := 0x4100000040
    let wen : BitVec 12 := 0xFFF
    let stride : Nat := 0
    let node := 0
    let a := addr.toNat
    let blk := a / 64 * 64
    s.net.waitReq = [] ∧ s.net.accepted = [] ∧ probing s = false ∧ nodeOf a = some node ∧ nodeState s node = 0 ∧ asleep s blk wen.toNat = false ∧ nodeReset s node = true ∧ heldBack s { op := 2, src := src.toNat, tag := tag.toNat, addr := a, sel := wen.toNat, stride := stride } = false) ∧
    (let s : State := offl runS
    let addr : Word := 0x1000
    let node := 3
    let a := addr.toNat
    s.net.waitReq = [] ∧ s.net.accepted = [] ∧ probing s = false ∧ nodeOf a = some node ∧ nodeState s node = 2) ∧
    (let s : State := offl runS
    let addr : Word := 0x1000
    let lines : Fin 16 := 0
    let node := 3
    let a := addr.toNat
    s.net.waitReq = [] ∧ s.net.accepted = [] ∧ probing s = false ∧ nodeOf a = some node ∧ nodeState s node = 2 ∧ lines.val < 10) ∧
    (let s : State := runS
    let addr : Word := 0x1000
    let node := 3
    let a := addr.toNat
    let blk := a / 64 * 64
    s.net.waitReq = [] ∧ s.net.accepted = [] ∧ probing s = false ∧ nodeOf a = some node ∧ netCalm s = true ∧ nodeState s node = 0 ∧ a < 0x2000000000 ∧ (∀ r : Region, s.fld F.MEM_CTRL.DIAG r = 0) ∧ (rsDecode (bytesAt s.mem blk 64)).2 = 0) ∧
    (let s : State := runS
    let addr : Word := 0x1000
    let wen : BitVec 12 := 0xFFF
    let words : List Word := ws 12
    let node := 3
    let a := addr.toNat
    let blk := a / 64 * 64
    s.net.waitReq = [] ∧ s.net.accepted = [] ∧ probing s = false ∧ nodeOf a = some node ∧ netCalm s = true ∧ nodeState s node = 0 ∧ a < 0x2000000000 ∧ (∀ r : Region, s.fld F.MEM_CTRL.DIAG r = 0) ∧ (rsDecode (bytesAt s.mem blk 64)).2 = 0 ∧ words.length = popBits 12 wen.toNat) ∧
    (let s : State := runS
    let addr : Word := 0x1000
    let lines : Fin 16 := 0
    let node := 3
    let a := addr.toNat
    let blk := a / 64 * 64
    let n := lines.val + 1
    s.net.waitReq = [] ∧ s.net.accepted = [] ∧ probing s = false ∧ nodeOf a = some node ∧ netCalm s = true ∧ nodeState s node = 0 ∧ lines.val < 10 ∧ blk + 64 * n ≤ 0x2000000000 ∧ (∀ r : Region, s.fld F.MEM_CTRL.DIAG r = 0) ∧ (∀ j, j < n → (rsDecode (bytesAt s.mem (blk + 64 * j) 64)).2 = 0)) ∧
    (let s : State := runS
    let addr : Word := 0x1000
    let lines : Fin 16 := 0
    let words : List Word := [0x234DC882E4, 0xDDDB1F742C, 0x2B575EA3E0, 0x53C1D7709D, 0x31B97E297E, 0x4A141C4516, 0x6C87C4A25D, 0x8E9550A710, 0x7080D6BA52, 0x738DEAE741, 0x984D0C7E5D, 0xB9E05B239C]
    let node := 3
    let a := addr.toNat
    let blk := a / 64 * 64
    let n := lines.val + 1
    s.net.waitReq = [] ∧ s.net.accepted = [] ∧ probing s = false ∧ nodeOf a = some node ∧ netCalm s = true ∧ nodeState s node = 0 ∧ lines.val < 10 ∧ blk + 64 * n ≤ 0x2000000000 ∧ (∀ r : Region, s.fld F.MEM_CTRL.DIAG r = 0) ∧ words.length = 12 * n) ∧
    (let s : State := runS
    let addr : Word := 0x4100000040
    let tl : Tile := 0
    let w : Nat := 8
    let a := addr.toNat
    s.net.waitReq = [] ∧ s.net.accepted = [] ∧ probing s = false ∧ w < 131072 ∧ w % 8 = 0 ∧ a = 0x4100000000 + tl.val * 0x100000 + 8 * w ∧ netCalm s = true ∧ nodeState s (2 * tl.val) = 0 ∧ spdMarching s tl = false ∧ (∀ k, k < 8 → mget 0 s.memErr (spdAddr tl (w + k)) = 0)) ∧
    (let s : State := runS
    let addr : Word := 0x4100000040
    let wen : BitVec 12 := 0xFFF
    let words : List Word := [0x234DC882E4, 0xDDDB1F742C, 0x2B575EA3E0, 0x53C1D7709D, 0x31B97E297E, 0x4A141C4516, 0x6C87C4A25D, 0x8E9550A710]
    let tl : Tile := 0
    let w : Nat := 8
    let a := addr.toNat
    s.net.waitReq = [] ∧ s.net.accepted = [] ∧ probing s = false ∧ w < 131072 ∧ w % 8 = 0 ∧ a = 0x4100000000 + tl.val * 0x100000 + 8 * w ∧ netCalm s = true ∧ nodeState s (2 * tl.val) = 0 ∧ spdMarching s tl = false ∧ (∀ k, k < 8 → mget 0 s.memErr (spdAddr tl (w + k)) = 0) ∧ words.length = popBits 8 wen.toNat) ∧
    (let s : State := runS
    let addr : Word := 0x4100000040
    let lines : Fin 16 := 0
    let tl : Tile := 0
    let w : Nat := 8
    let a := addr.toNat
    s.net.waitReq = [] ∧ s.net.accepted = [] ∧ probing s = false ∧ w < 131072 ∧ w % 8 = 0 ∧ a = 0x4100000000 + tl.val * 0x100000 + 8 * w ∧ netCalm s = true ∧ nodeState s (2 * tl.val) = 0 ∧ spdMarching s tl = false ∧ (∀ k, k < 8 → mget 0 s.memErr (spdAddr tl (w + k)) = 0) ∧ lines.val < 10) ∧
    (let s : State := runS
    let lines : Fin 16 := 10
    s.net.waitReq = [] ∧ s.net.accepted = [] ∧ probing s = false ∧ 10 ≤ lines.val) :=
  ⟨by decide +kernel, by decide +kernel, by decide +kernel, by decide +kernel, by decide +kernel, by decide +kernel, by decide +kernel, by decide +kernel, by decide +kernel, by decide +kernel, by decide +kernel, by decide +kernel, by decide +kernel, by decide +kernel⟩

end Sys2Proof.Tests.ReadsAndWritesMoveTheNamedWords

namespace Sys2Proof.Tests.LeasesAndResponsesReachTheirOwners

def runS : State := { State.reset with mode := .run }
def net (v : NetSt) (s : State) : State := { s with net := v }
def rs0 (st : Nat) : List (Bool × Nat × Nat × Nat × List Word) := ([0x5B, 3, 0x45, 0x40, 0x43, 0x48, 0x4B, 0x4C, 0x57, 0x58, 0x5C, 0x61].flatMap fun d => [(true, d, 7, st, [0xABCDEF0123, 5]), (false, d, 7, st, []), (true, d, 0x8001, 0, [])])
def rs (st : Nat) (late : Bool := false) (node : Nat := 0) : List Resp := (rs0 st).map fun e => { isRead := e.1, dst := e.2.1, tag := e.2.2.1, status := e.2.2.2.1, words := e.2.2.2.2, late := late, node := node }
def res (st : Nat) (s : State) : State := { s with resps := rs st }
def sup (n : NetWait) (s : State) : State := { s with procs := [(64, { net := n, main := { x := [(4, 77), (9, 5)], sr := 0x40000000} }), (67, { net := n, main := { x := [(4, 77), (9, 5)] } })] }
def g2 (f : Fld) (v : Nat) (s : State) : State := [0,3].foldl (fun s c => s.setFld f c 0 v) s
def closeN (n : Nat) (s : State) : State := setNode s n 1

/-- The hypotheses of Obligations.LeasesAndResponsesReachTheirOwners. -/
theorem witness : (let s : State := runS
    let port : Fin 128 := 0
    let node : Fin 128 := 0
    probing s = false ∧ s.net.waitReq = [] ∧ s.net.accepted = [] ∧ nodeState s node = 0 ∧ (∀ e ∈ s.net.asks, ¬(e.1 = node.val ∧ e.2.1 = port.val))) ∧
    (let s : State := net { held := [(128*5+127, 6), (0, 8), (128*127+5, 2)], granted := [(127, 10), (5, 2), (0, 32)], asks := [(5, 127, 8), (0, 5, 3), (127, 0, 1)] } runS
    let port : Fin 128 := 0
    let node : Fin 128 := 127
    probing s = false ∧ s.net.waitReq = [] ∧ s.net.accepted = [] ∧ (nodeState s node ≠ 0 ∨ (∃ e ∈ s.net.asks, e.1 = node.val ∧ e.2.1 = port.val))) ∧
    (let s : State := runS
    let node : Fin 128 := 0
    probing s = false ∧ s.net.waitReq = [] ∧ s.net.accepted = [] ∧ (∀ e ∈ s.net.asks, e.1 ≠ node.val)) ∧
    (let s : State := net { held := [(128*5+127, 6), (0, 8), (128*127+5, 2)], granted := [(127, 10), (5, 2), (0, 32)], asks := [(5, 127, 8), (0, 5, 3), (127, 0, 1)] } runS
    let port : Fin 128 := 127
    let node : Fin 128 := 5
    let asked := 8
    let rest := [(0, 5, 3), (127, 0, 1)]
    let k := 128 * port.val + node.val
    let held := fun t : State => mget 0 t.net.held k
    let used := fun t : State => mget 0 t.net.granted node.val
    let cap := if node.val % 2 = 0 then 32 else if node.val / 2 % 16 < 4 then 64 else 16
    probing s = false ∧ s.net.waitReq = [] ∧ s.net.accepted = [] ∧ s.net.asks = (node.val, port.val, asked) :: rest ∧ (∀ e ∈ rest, ¬(e.1 = node.val ∧ e.2.1 = port.val)) ∧ held s ≤ 8 ∧ used s + entriesWaiting s node ≤ cap) ∧
    (let s : State := runS
    probing s = false ∧ s.net.waitReq = [] ∧ s.net.accepted = []) ∧
    (let s : State := runS
    let port : Fin 128 := 0
    let node : Fin 128 := 0
    let k := 128 * port.val + node.val
    let held := fun t : State => mget 0 t.net.held k
    probing s = false ∧ s.net.waitReq = [] ∧ s.net.accepted = [] ∧ held s ≤ 8) ∧
    (let s : State := closeN 5 (closeN 127 (closeN 0 runS))
    let node : Fin 128 := 0
    let tile : Tile := 0
    let svc : Bool := false
    let used := fun t : State => mget 0 t.net.granted node.val
    probing s = false ∧ s.net.waitReq = [] ∧ s.net.accepted = [] ∧ node.val = 2 * tile.val + flag svc ∧ nodeState s node = 1 ∧ used s = 0 ∧ entriesWaiting s node = 0 ∧ (∀ x ∈ s.resps, srcPort x.dst ≠ node.val)) ∧
    (let s : State := runS
    let node : Fin 128 := 0
    let tile : Tile := 0
    let svc : Bool := false
    let used := fun t : State => mget 0 t.net.granted node.val
    probing s = false ∧ s.net.waitReq = [] ∧ s.net.accepted = [] ∧ node.val = 2 * tile.val + flag svc ∧ (nodeState s node ≠ 1 ∨ used s ≠ 0 ∨ entriesWaiting s node ≠ 0 ∨ (∃ x ∈ s.resps, srcPort x.dst = node.val))) ∧
    (let s : State := runS
    let dst : BitVec 8 := 0x5B
    let tag : BitVec 16 := 7
    let mine := fun (rd : Bool) (x : Resp) => x.isFor s rd dst.toNat tag.toNat
    s.net.waitReq = [] ∧ s.net.accepted = [] ∧ s.swapState ≠ 2 ∧ s.swapState ≠ 3 ∧ s.resps.find? (mine true) = none) ∧
    (let s : State := runS
    let dst : BitVec 8 := 0x5B
    let tag : BitVec 16 := 7
    let mine := fun (rd : Bool) (x : Resp) => x.isFor s rd dst.toNat tag.toNat
    s.net.waitReq = [] ∧ s.net.accepted = [] ∧ s.swapState ≠ 2 ∧ s.swapState ≠ 3 ∧ s.resps.find? (mine false) = none) ∧
    (let s : State := { runS with resps := rs 5 true }
    let dst : BitVec 8 := 0x5B
    let tag : BitVec 16 := 7
    let x := { isRead := true, dst := 91, tag := 7, status := 5, words := [0xABCDEF0123, 5], checks := [], node := 0, late := true, old := false }
    let mine := fun (rd : Bool) (x : Resp) => x.isFor s rd dst.toNat tag.toNat
    s.net.waitReq = [] ∧ s.net.accepted = [] ∧ s.swapState ≠ 2 ∧ s.swapState ≠ 3 ∧ s.resps.find? (mine true) = some x ∧ x.late = true) ∧
    (let s : State := res 0 runS
    let dst : BitVec 8 := 0x5B
    let tag : BitVec 16 := 7
    let x := { isRead := true, dst := 91, tag := 7, status := 0, words := [0xABCDEF0123, 5], checks := [], node := 0, late := false, old := false }
    let mine := fun (rd : Bool) (x : Resp) => x.isFor s rd dst.toNat tag.toNat
    s.net.waitReq = [] ∧ s.net.accepted = [] ∧ s.swapState ≠ 2 ∧ s.swapState ≠ 3 ∧ s.resps.find? (mine true) = some x ∧ x.late = false ∧ dst.toNat = 0x5B) ∧
    (let s : State := res 0 runS
    let dst : BitVec 8 := 3
    let tag : BitVec 16 := 7
    let x := { isRead := true, dst := 3, tag := 7, status := 0, words := [0xABCDEF0123, 5], checks := [], node := 0, late := false, old := false }
    let mine := fun (rd : Bool) (x : Resp) => x.isFor s rd dst.toNat tag.toNat
    s.net.waitReq = [] ∧ s.net.accepted = [] ∧ s.swapState ≠ 2 ∧ s.swapState ≠ 3 ∧ s.resps.find? (mine true) = some x ∧ (dst.toNat < 0x40 ∨ (0x44 ≤ dst.toNat ∧ dst.toNat < 0x4C) ∨ 0x5C ≤ dst.toNat)) ∧
    (let s : State := res 5 (sup (.load 4 0x4100000000) runS)
    let dst : BitVec 8 := 0x40
    let tag : BitVec 16 := 7
    let x := { isRead := true, dst := 64, tag := 7, status := 5, words := [0xABCDEF0123, 5], checks := [], node := 0, late := false, old := false }
    let r : Region := 0
    let rd := 4
    let at_ := 279172874240
    let mine := fun (rd : Bool) (x : Resp) => x.isFor s rd dst.toNat tag.toNat
    s.net.waitReq = [] ∧ s.net.accepted = [] ∧ s.swapState ≠ 2 ∧ s.swapState ≠ 3 ∧ s.resps.find? (mine true) = some x ∧ x.late = false ∧ dst.toNat = 0x40 + r.val ∧ (s.proc (64 + r)).net = .load rd at_ ∧ s.traced (64 + r) = false ∧ (s.proc (64 + r)).rtf = false ∧ (s.proc (64 + r)).haltReq = false ∧ (s.proc (64 + r)).stepping = false) ∧
    (let s : State := { runS with resps := rs 5 true }
    let dst : BitVec 8 := 0x5B
    let tag : BitVec 16 := 7
    let x := { isRead := false, dst := 91, tag := 7, status := 5, words := [], checks := [], node := 0, late := true, old := false }
    let mine := fun (rd : Bool) (x : Resp) => x.isFor s rd dst.toNat tag.toNat
    s.net.waitReq = [] ∧ s.net.accepted = [] ∧ s.swapState ≠ 2 ∧ s.swapState ≠ 3 ∧ s.resps.find? (mine false) = some x ∧ x.late = true) ∧
    (let s : State := res 0 runS
    let dst : BitVec 8 := 0x5B
    let tag : BitVec 16 := 7
    let x := { isRead := false, dst := 91, tag := 7, status := 0, words := [], checks := [], node := 0, late := false, old := false }
    let mine := fun (rd : Bool) (x : Resp) => x.isFor s rd dst.toNat tag.toNat
    s.net.waitReq = [] ∧ s.net.accepted = [] ∧ s.swapState ≠ 2 ∧ s.swapState ≠ 3 ∧ s.resps.find? (mine false) = some x ∧ x.late = false ∧ dst.toNat = 0x5B) ∧
    (let s : State := res 0 runS
    let dst : BitVec 8 := 0x4C
    let tag : BitVec 16 := 7
    let x := { isRead := false, dst := 76, tag := 7, status := 0, words := [], checks := [], node := 0, late := false, old := false }
    let mine := fun (rd : Bool) (x : Resp) => x.isFor s rd dst.toNat tag.toNat
    s.net.waitReq = [] ∧ s.net.accepted = [] ∧ s.swapState ≠ 2 ∧ s.swapState ≠ 3 ∧ s.resps.find? (mine false) = some x ∧ ((0x4C ≤ dst.toNat ∧ dst.toNat < 0x58) ∨ 0x5C ≤ dst.toNat)) ∧
    (let s : State := { runS with resps := rs 0, host := { writes := [(5, 64), (7, 0x1000), (9, 3)] } }
    let dst : BitVec 8 := 0x58
    let tag : BitVec 16 := 7
    let x := { isRead := false, dst := 88, tag := 7, status := 0, words := [], checks := [], node := 0, late := false, old := false }
    let e := (7, 4096)
    let mine := fun (rd : Bool) (x : Resp) => x.isFor s rd dst.toNat tag.toNat
    s.net.waitReq = [] ∧ s.net.accepted = [] ∧ s.swapState ≠ 2 ∧ s.swapState ≠ 3 ∧ s.resps.find? (mine false) = some x ∧ x.late = false ∧ dst.toNat = 0x58 ∧ tag.toNat < 0xC000 ∧ x.status = 0 ∧ s.host.writes.find? (fun e => e.1 == tag.toNat) = some e) ∧
    (let s : State := res 0 (g2 F.SUP_NSTAT.OUTSTANDING 2 runS)
    let dst : BitVec 8 := 0x40
    let tag : BitVec 16 := 7
    let x := { isRead := false, dst := 64, tag := 7, status := 0, words := [], checks := [], node := 0, late := false, old := false }
    let r : Region := 0
    let mine := fun (rd : Bool) (x : Resp) => x.isFor s rd dst.toNat tag.toNat
    s.net.waitReq = [] ∧ s.net.accepted = [] ∧ s.swapState ≠ 2 ∧ s.swapState ≠ 3 ∧ s.resps.find? (mine false) = some x ∧ x.late = false ∧ dst.toNat = 0x40 + r.val ∧ tag.toNat < 0x8000 ∧ (s.proc (64 + r)).net = .none ∧ 0 < s.fld F.SUP_NSTAT.OUTSTANDING r) ∧
    (let s : State := res 0 runS
    let dst : BitVec 8 := 0x48
    let tag : BitVec 16 := 7
    let x := { isRead := false, dst := 72, tag := 7, status := 0, words := [], checks := [], node := 0, late := false, old := false }
    let r : Region := 0
    let mine := fun (rd : Bool) (x : Resp) => x.isFor s rd dst.toNat tag.toNat
    s.net.waitReq = [] ∧ s.net.accepted = [] ∧ s.swapState ≠ 2 ∧ s.swapState ≠ 3 ∧ s.resps.find? (mine false) = some x ∧ x.late = false ∧ dst.toNat = 0x48 + r.val ∧ x.status = 0) :=
  ⟨by decide +kernel, by decide +kernel, by decide +kernel, by decide +kernel, by decide +kernel, by decide +kernel, by decide +kernel, by decide +kernel, by decide +kernel, by decide +kernel, by decide +kernel, by decide +kernel, by decide +kernel, by decide +kernel, by decide +kernel, by decide +kernel, by decide +kernel, by decide +kernel, by decide +kernel, by decide +kernel⟩

end Sys2Proof.Tests.LeasesAndResponsesReachTheirOwners

namespace Sys2Proof.Tests.LinksSwapsAndProbesReport

def runS : State := { State.reset with mode := .run }
def g2 (f : Fld) (v : Nat) (s : State) : State := [0,3].foldl (fun s c => s.setFld f c 0 v) s
def ring (s : State) := g2 F.NOC_PC_LEN.BLOCKS 4 (g2 F.NOC_PC_BASE.ADDR 0x1000 s)
def stg (s : State) : State := { s with net := { s.net with staged := [(0, [1, 2, 3, 0xFFFFFFFFFF]), (3, [7,8,9,10]), (0, [5,6,7,8])] } }
def run (s : State) : State := { s with time := { s.time with running := true } }

theorem only_swap (n d : Nat) : (sw 1 runS).tblPend n d = defaultRoute n d % 8 := by
  have h : (sw 1 runS).regs = [(regAddr .NOC_SWAP_STAT 0 0, (sw 1 runS).reg .NOC_SWAP_STAT)] := by decide +kernel
  have hlt : regAddr .NOC_SWAP_STAT 0 0 < 0x7FF4000000 := by decide +kernel
  have ha : regAddr .NOC_TBL_PEND n d = 0x7FF4000000 + n / 16 * 0x1000000 + 0x800000 + n % 16 * 0x80000 + 0x4300 + d * 8 := rfl
  have hd := Sys2Proof.Laws.defaultRoute_lt n d
  show bitsOf (mget (BitVec.ofNat 40 (defaultRoute n d)) (sw 1 runS).regs (regAddr .NOC_TBL_PEND n d)).toNat 2 0 = _
  rw [h, mget, if_neg (by omega), mget, BitVec.toNat_ofNat, Nat.mod_eq_of_lt (by omega), bitsOf]
  simp
theorem passes : checkTables (sw 1 runS) ((sw 1 runS).on F.NOC_SWAP.MODE) = none := by
  rw [show (sw 1 runS).on F.NOC_SWAP.MODE = false by decide +kernel]
  exact Sys2Proof.Laws.default_tables_pass _ only_swap rfl

/-- The hypotheses of Obligations.LinksSwapsAndProbesReport. -/
theorem witness : (let s : State := runS
    s.net.waitReq = [] ∧ s.net.accepted = [] ∧ s.net.fmtInj = none) ∧
    (let s : State := runS
    let t : Tile := 0
    let out : Fin 4 := 0
    let fails : Fin 16 := 9
    s.net.waitReq = [] ∧ s.net.accepted = [] ∧ mget 0 s.net.crcInj (4 * t.val + out.val) = 0 ∧ mget false s.net.down (4 * t.val + out.val) = false ∧ fails.val ≠ 0) ∧
    (let s : State := runS
    s.net.waitReq = [] ∧ s.net.accepted = []) ∧
    (let s : State := sw 1 runS
    s.net.waitReq = [] ∧ s.net.accepted = [] ∧ s.swapState ≠ 0) ∧
    (let s : State := runS
    s.net.waitReq = [] ∧ s.net.accepted = [] ∧ s.swapState = 0) ∧
    (let s : State := sw 1 runS
    s.net.waitReq = [] ∧ s.net.accepted = [] ∧ s.swapState ≠ 0) ∧
    (let s : State := sw 2 runS
    s.net.waitReq = [] ∧ s.net.accepted = [] ∧ s.swapState = 2) ∧
    (let s : State := runS
    s.net.waitReq = [] ∧ s.net.accepted = [] ∧ s.swapState ≠ 2) ∧
    (let s : State := runS
    s.net.waitReq = [] ∧ s.net.accepted = [] ∧ s.swapState ≠ 1) ∧
    (let s : State := sw 1 (runS.setReg .NOC_TBL_PEND 5 3 0xFFFFFFFFFF)
    let x := (4, 3, 2)
    s.net.waitReq = [] ∧ s.net.accepted = [] ∧ s.swapState = 1 ∧ checkTables s (s.on F.NOC_SWAP.MODE) = some x) ∧
    (let s : State := sw 1 (run runS)
    s.net.waitReq = [] ∧ s.net.accepted = [] ∧ s.swapState = 1 ∧ checkTables s (s.on F.NOC_SWAP.MODE) = none ∧ s.time.running = true) ∧
    (let s : State := sw 1 runS
    s.net.waitReq = [] ∧ s.net.accepted = [] ∧ s.swapState = 1 ∧ checkTables s (s.on F.NOC_SWAP.MODE) = none ∧ s.time.running = false ∧ s.resps = []) ∧
    (let s : State := runS
    let r : Region := 0
    let len := s.fld F.NOC_PC_LEN.BLOCKS r
    s.net.waitReq = [] ∧ s.net.accepted = [] ∧ s.fld F.NOC_PC_CTRL.EN r = 0 ∧ (len = 0 ∨ 0x2000000000 < 64 * s.fld F.NOC_PC_BASE.ADDR r + 64 * len)) ∧
    (let s : State := ring (stg runS)
    let r : Region := 0
    let len := s.fld F.NOC_PC_LEN.BLOCKS r
    s.net.waitReq = [] ∧ s.net.accepted = [] ∧ s.fld F.NOC_PC_CTRL.EN r = 0 ∧ len ≠ 0 ∧ 64 * s.fld F.NOC_PC_BASE.ADDR r + 64 * len ≤ 0x2000000000) ∧
    (let s : State := runS
    let r : Region := 0
    s.net.waitReq = [] ∧ s.net.accepted = [] ∧ (∀ e ∈ s.net.staged, e.1 ≠ r.val)) ∧
    (let s : State := ring (stg runS)
    let r : Region := 0
    let ws := [1, 2, 3, 0xFFFFFFFFFF]
    let rest := [(3, [7, 8, 9, 0xA]), (0, [5, 6, 7, 8])]
    let k := s.fld F.NOC_PC_WP.COUNT r
    let len := s.fld F.NOC_PC_LEN.BLOCKS r
    let at_ := 64 * s.fld F.NOC_PC_BASE.ADDR r + k / 3 % len * 64
    s.net.waitReq = [] ∧ s.net.accepted = [] ∧ s.net.staged = (r.val, ws) :: rest ∧ len ≠ 0 ∧ ws.length = 4 ∧ memAccess s at_ = 0 ∧ s.fld F.MEM_CTRL.DIAG (memRegion at_) = 0 ∧ (rsDecode (bytesAt s.mem at_ 64)).2 = 0) :=
  ⟨by decide +kernel, by decide +kernel, by decide +kernel, by decide +kernel, by decide +kernel, by decide +kernel, by decide +kernel, by decide +kernel, by decide +kernel, by decide +kernel, ⟨by decide +kernel, by decide +kernel, by decide +kernel, passes, by decide +kernel⟩, ⟨by decide +kernel, by decide +kernel, by decide +kernel, passes, by decide +kernel, by decide +kernel⟩, by decide +kernel, by decide +kernel, by decide +kernel, by decide +kernel⟩

end Sys2Proof.Tests.LinksSwapsAndProbesReport

namespace Sys2Proof.Tests.ArchiveCommandsAnswerAndComplete

def g2 (f : Fld) (v : Nat) (s : State) : State := [0,3].foldl (fun s c => s.setFld f c 0 v) s
def fillm (s : State) : State := [0x1000, 0x1040, 0x1FFFFFFFC0].foldl (fun s a => match exec (.wr 0x43 1 (BitVec.ofNat 40 a) 0xFFF 0 ((ws 20).drop 8)) s with | .next t => {t with resps := []} | _ => s) s
def ob (n : Nat) (h : Bool) : ArcObj := { num := n, heat := h, isOpen := false, badBlk := false, region := 2, chan := 9, seq := 77, time := 4*10^9, tag := 0xABC, blocks := [ws 12, (ws 30).drop 18, (ws 50).drop 38] }
def rdy (s : State) := g2 F.ARC_STATUS.READY 1 (g2 F.ARC_NEXT_OBJ.OBJ 9 (g2 F.ARC_CTRL.EN 1 s))
def c (op len addr obj off : Nat) (d : Option (Nat × Nat × Nat × Nat) := none) : ArcCmd := { op := op, len := len, tag := 0x123, addr := addr, obj := obj, off := off, done := d }
def cs1 : List ArcCmd := [c 1 0 0x1000 0 0, c 2 0 0x1000 5 0, c 1 2 0x1008 0 0, c 1 2 0x1FFFFFFFC0 0 0, c 1 2 0x1000 0 0, c 2 1 0x2000 99 0, c 3 0 0 99 0, c 4 0 0x2000 99 0, c 2 2 0x2000 5 2, c 2 2 0x2000 5 1, c 3 0 0 5 0, c 4 0 0x2001 5 0, c 4 0 0x2000 5 0, c 4 0 0x2000 6 0, c 5 0 0 0 0, c 2 1 0x2001 5 0]
def cs2 : List ArcCmd := [c 5 0 0 0 0]
def cs3 : List ArcCmd := [c 1 2 0x1000 0 0 (some (0, 9, 2, 0)), c 3 2 0x1000 0 0 (some (2, 99, 0, 0)), c 5 0 0 0 0 (some (15, 2^40-1, 5, 1))]
def ar (cs : List ArcCmd) (s : State) : State := { s with arcs := [(0, { cmds := cs, objs := [ob 5 false, ob 6 true] }), (3, { cmds := cs, objs := [ob 5 false, ob 6 true] })] }
def diag (v : Nat) (s : State) : State := [0,1,2,3].foldl (fun s b => s.setFld F.MEM_CTRL.DIAG b 0 v) s
def cpl (s : State) : State := g2 F.ARC_CPL_LEN.BLOCKS 4 (g2 F.ARC_CPL_BASE.ADDR 0x100 s)
def fullS (s : State) : State := { s with arcs := s.arcs.map fun e => (e.1, { e.2 with retired := 10^12 }) }

theorem free_ge (s : State) (r : Nat) (h : (s.arc r).retired = 0) (h1 : arcStored (s.arc r) ≤ 100) : 100 ≤ arcFree s r := by
  unfold arcFree arcUsable; rw [h]; split <;> omega
theorem free_lt (s : State) (r : Nat) (h : (s.arc r).retired = 10 ^ 12) : arcFree s r < 1 := by
  unfold arcFree arcUsable; rw [h]; split <;> omega

/-- The hypotheses of Obligations.ArchiveCommandsAnswerAndComplete. -/
theorem witness : (let s : State := ar cs1 runS
    let r : Region := 0
    let i : Fin 16 := 0
    let c : ArcCmd := { op := 1, len := 0, tag := 291, addr := 4096, obj := 0, off := 0, done := none }
    let a := s.arc r
    a.cmds[i.val]? = some c ∧ s.fld F.ARC_STATUS.READY r = 0) ∧
    (let s : State := rdy (ar cs2 runS)
    let r : Region := 0
    let i : Fin 16 := 1
    let a := s.arc r
    a.cmds[i.val]? = none) ∧
    (let s : State := ar cs1 runS
    let r : Region := 0
    let i : Fin 16 := 0
    let c : ArcCmd := { op := 1, len := 0, tag := 291, addr := 4096, obj := 0, off := 0, done := none }
    let a := s.arc r
    a.cmds[i.val]? = some c ∧ c.done = none) ∧
    (let s : State := rdy (ar cs1 (fillm runS))
    let r : Region := 0
    let i : Fin 16 := 0
    let c : ArcCmd := { op := 1, len := 0, tag := 291, addr := 4096, obj := 0, off := 0, done := none }
    let a := s.arc r
    a.cmds[i.val]? = some c ∧ c.done = none ∧ s.fld F.ARC_STATUS.READY r = 1 ∧ (c.op = 1 ∨ c.op = 2) ∧ c.len = 0) ∧
    (let s : State := rdy (ar cs1 (fillm runS))
    let r : Region := 0
    let i : Fin 16 := 2
    let c : ArcCmd := { op := 1, len := 2, tag := 291, addr := 4104, obj := 0, off := 0, done := none }
    let a := s.arc r
    let rangeOk := c.addr % 64 = 0 ∧ c.addr + 64 * (if c.op = 4 then 1 else c.len) ≤ 0x2000000000
    a.cmds[i.val]? = some c ∧ c.done = none ∧ s.fld F.ARC_STATUS.READY r = 1 ∧ c.op = 1 ∧ c.len ≠ 0 ∧ ¬rangeOk) ∧
    (let s : State := fullS (rdy (ar cs1 (fillm runS)))
    let r : Region := 0
    let i : Fin 16 := 4
    let c : ArcCmd := { op := 1, len := 2, tag := 291, addr := 4096, obj := 0, off := 0, done := none }
    let a := s.arc r
    let rangeOk := c.addr % 64 = 0 ∧ c.addr + 64 * (if c.op = 4 then 1 else c.len) ≤ 0x2000000000
    a.cmds[i.val]? = some c ∧ c.done = none ∧ s.fld F.ARC_STATUS.READY r = 1 ∧ c.op = 1 ∧ c.len ≠ 0 ∧ rangeOk ∧ arcFree s r < c.len) ∧
    (let s : State := diag 1 (offl (rdy (ar cs1 runS)))
    let r : Region := 0
    let i : Fin 16 := 4
    let c : ArcCmd := { op := 1, len := 2, tag := 291, addr := 4096, obj := 0, off := 0, done := none }
    let a := s.arc r
    let rangeOk := c.addr % 64 = 0 ∧ c.addr + 64 * (if c.op = 4 then 1 else c.len) ≤ 0x2000000000
    let online := ∀ j, j < (if c.op = 4 then 1 else c.len) → memAccess s (c.addr + 64 * j) = 0
    a.cmds[i.val]? = some c ∧ c.done = none ∧ s.fld F.ARC_STATUS.READY r = 1 ∧ c.op = 1 ∧ c.len ≠ 0 ∧ rangeOk ∧ c.len ≤ arcFree s r ∧ ¬online ∧ (∀ b : Region, s.fld F.MEM_CTRL.DIAG b = 1)) ∧
    (let s : State := rdy (ar cs1 (fillm runS))
    let r : Region := 0
    let i : Fin 16 := 4
    let c : ArcCmd := { op := 1, len := 2, tag := 291, addr := 4096, obj := 0, off := 0, done := none }
    let a := s.arc r
    let rangeOk := c.addr % 64 = 0 ∧ c.addr + 64 * (if c.op = 4 then 1 else c.len) ≤ 0x2000000000
    let online := ∀ j, j < (if c.op = 4 then 1 else c.len) → memAccess s (c.addr + 64 * j) = 0
    a.cmds[i.val]? = some c ∧ c.done = none ∧ s.fld F.ARC_STATUS.READY r = 1 ∧ c.op = 1 ∧ c.len ≠ 0 ∧ rangeOk ∧ c.len ≤ arcFree s r ∧ online ∧ (∀ b : Region, s.fld F.MEM_CTRL.DIAG b = 0) ∧ (∀ j, j < c.len → (rsDecode (bytesAt s.mem (c.addr + 64 * j) 64)).2 = 0)) ∧
    (let s : State := rdy (ar cs1 (fillm runS))
    let r : Region := 0
    let i : Fin 16 := 5
    let c : ArcCmd := { op := 2, len := 1, tag := 291, addr := 8192, obj := 99, off := 0, done := none }
    let a := s.arc r
    let obj := a.objs.find? (fun o => o.num == c.obj)
    a.cmds[i.val]? = some c ∧ c.done = none ∧ s.fld F.ARC_STATUS.READY r = 1 ∧ (c.op = 3 ∨ c.op = 4 ∨ (c.op = 2 ∧ c.len ≠ 0)) ∧ obj = none) ∧
    (let s : State := rdy (ar cs1 (fillm runS))
    let r : Region := 0
    let i : Fin 16 := 8
    let c : ArcCmd := { op := 2, len := 2, tag := 291, addr := 8192, obj := 5, off := 2, done := none }
    let o := ob 5 false
    let a := s.arc r
    let rangeOk := c.addr % 64 = 0 ∧ c.addr + 64 * (if c.op = 4 then 1 else c.len) ≤ 0x2000000000
    let obj := a.objs.find? (fun o => o.num == c.obj)
    a.cmds[i.val]? = some c ∧ c.done = none ∧ s.fld F.ARC_STATUS.READY r = 1 ∧ c.op = 2 ∧ c.len ≠ 0 ∧ obj = some o ∧ (o.blocks.length < c.off + c.len ∨ ¬rangeOk)) ∧
    (let s : State := rdy (ar cs1 (fillm runS))
    let r : Region := 0
    let i : Fin 16 := 9
    let m : Media := { retries := 0, uncorr := [], fails := 0, soft := 0, lost := 0, spare := none, low := false, wear := none }
    let c : ArcCmd := { op := 2, len := 2, tag := 291, addr := 8192, obj := 5, off := 1, done := none }
    let o := ob 5 false
    let a := s.arc r
    let rangeOk := c.addr % 64 = 0 ∧ c.addr + 64 * (if c.op = 4 then 1 else c.len) ≤ 0x2000000000
    let online := ∀ j, j < (if c.op = 4 then 1 else c.len) → memAccess s (c.addr + 64 * j) = 0
    let obj := a.objs.find? (fun o => o.num == c.obj)
    a.cmds[i.val]? = some c ∧ c.done = none ∧ s.fld F.ARC_STATUS.READY r = 1 ∧ c.op = 2 ∧ c.len ≠ 0 ∧ obj = some o ∧ c.off + c.len ≤ o.blocks.length ∧ rangeOk ∧ online ∧ m.uncorr = [] ∧ a.uncorr = false ∧ (∀ b ∈ o.blocks, b.length = 12)) ∧
    (let s : State := rdy (ar cs1 (fillm runS))
    let r : Region := 0
    let i : Fin 16 := 10
    let c : ArcCmd := { op := 3, len := 0, tag := 291, addr := 0, obj := 5, off := 0, done := none }
    let a := s.arc r
    let obj := a.objs.find? (fun o => o.num == c.obj)
    a.cmds[i.val]? = some c ∧ c.done = none ∧ s.fld F.ARC_STATUS.READY r = 1 ∧ c.op = 3 ∧ obj ≠ none) ∧
    (let s : State := rdy (ar cs1 (fillm runS))
    let r : Region := 0
    let i : Fin 16 := 11
    let c : ArcCmd := { op := 4, len := 0, tag := 291, addr := 8193, obj := 5, off := 0, done := none }
    let o := ob 5 false
    let a := s.arc r
    let rangeOk := c.addr % 64 = 0 ∧ c.addr + 64 * (if c.op = 4 then 1 else c.len) ≤ 0x2000000000
    let obj := a.objs.find? (fun o => o.num == c.obj)
    a.cmds[i.val]? = some c ∧ c.done = none ∧ s.fld F.ARC_STATUS.READY r = 1 ∧ c.op = 4 ∧ obj = some o ∧ ¬rangeOk) ∧
    (let s : State := diag 1 (offl (rdy (ar cs1 runS)))
    let r : Region := 0
    let i : Fin 16 := 12
    let c : ArcCmd := { op := 4, len := 0, tag := 291, addr := 8192, obj := 5, off := 0, done := none }
    let o := ob 5 false
    let a := s.arc r
    let rangeOk := c.addr % 64 = 0 ∧ c.addr + 64 * (if c.op = 4 then 1 else c.len) ≤ 0x2000000000
    let online := ∀ j, j < (if c.op = 4 then 1 else c.len) → memAccess s (c.addr + 64 * j) = 0
    let obj := a.objs.find? (fun o => o.num == c.obj)
    a.cmds[i.val]? = some c ∧ c.done = none ∧ s.fld F.ARC_STATUS.READY r = 1 ∧ c.op = 4 ∧ obj = some o ∧ rangeOk ∧ ¬online) ∧
    (let s : State := rdy (ar cs1 (fillm runS))
    let r : Region := 0
    let i : Fin 16 := 12
    let c : ArcCmd := { op := 4, len := 0, tag := 291, addr := 8192, obj := 5, off := 0, done := none }
    let o := ob 5 false
    let a := s.arc r
    let rangeOk := c.addr % 64 = 0 ∧ c.addr + 64 * (if c.op = 4 then 1 else c.len) ≤ 0x2000000000
    let online := ∀ j, j < (if c.op = 4 then 1 else c.len) → memAccess s (c.addr + 64 * j) = 0
    let obj := a.objs.find? (fun o => o.num == c.obj)
    a.cmds[i.val]? = some c ∧ c.done = none ∧ s.fld F.ARC_STATUS.READY r = 1 ∧ c.op = 4 ∧ obj = some o ∧ rangeOk ∧ online ∧ o.region < 4 ∧ o.chan < 16) ∧
    (let s : State := g2 F.ARC_CTRL.FMT_EN 1 (rdy (ar cs2 runS))
    let r : Region := 0
    let i : Fin 16 := 0
    let c : ArcCmd := { op := 5, len := 0, tag := 291, addr := 0, obj := 0, off := 0, done := none }
    let a := s.arc r
    a.cmds[i.val]? = some c ∧ c.done = none ∧ s.fld F.ARC_STATUS.READY r = 1 ∧ c.op = 5 ∧ s.fld F.ARC_CTRL.FMT_EN r = 1 ∧ a.cmds.length = 1) ∧
    (let s : State := rdy (ar cs1 (fillm runS))
    let r : Region := 0
    let i : Fin 16 := 14
    let c : ArcCmd := { op := 5, len := 0, tag := 291, addr := 0, obj := 0, off := 0, done := none }
    let a := s.arc r
    a.cmds[i.val]? = some c ∧ c.done = none ∧ s.fld F.ARC_STATUS.READY r = 1 ∧ c.op = 5 ∧ (s.fld F.ARC_CTRL.FMT_EN r = 0 ∨ a.cmds.length ≠ 1)) ∧
    (let s : State := cpl (rdy (ar cs3 runS))
    let r : Region := 0
    let i : Fin 16 := 1
    let c : ArcCmd := { op := 3, len := 2, tag := 291, addr := 4096, obj := 0, off := 0, done := some (2, 99, 0, 0) }
    let st := 2
    let ob := 99
    let moved := 0
    let fails := 0
    let a := s.arc r
    let k := s.fld F.ARC_CPL_WP.COUNT r
    let len := s.fld F.ARC_CPL_LEN.BLOCKS r
    let at_ := 64 * s.fld F.ARC_CPL_BASE.ADDR r + k / 3 % len * 64
    a.cmds[i.val]? = some c ∧ c.done = some (st, ob, moved, fails) ∧ c.op < 16 ∧ st < 16 ∧ len ≠ 0 ∧ memAccess s at_ = 0 ∧ s.fld F.MEM_CTRL.DIAG (memRegion at_) = 0 ∧ (rsDecode (bytesAt s.mem at_ 64)).2 = 0) :=
  ⟨by decide +kernel, by decide +kernel, by decide +kernel, by decide +kernel, by decide +kernel, ⟨by decide +kernel, by decide +kernel, by decide +kernel, by decide +kernel, by decide +kernel, by decide +kernel, Nat.lt_of_lt_of_le (free_lt _ _ (by decide +kernel)) (by decide +kernel)⟩, ⟨by decide +kernel, by decide +kernel, by decide +kernel, by decide +kernel, by decide +kernel, by decide +kernel, Nat.le_trans (by decide +kernel) (free_ge _ _ (by decide +kernel) (by decide +kernel)), by decide +kernel, by decide +kernel⟩, ⟨by decide +kernel, by decide +kernel, by decide +kernel, by decide +kernel, by decide +kernel, by decide +kernel, Nat.le_trans (by decide +kernel) (free_ge _ _ (by decide +kernel) (by decide +kernel)), by decide +kernel, by decide +kernel, by decide +kernel⟩, by decide +kernel, by decide +kernel, by decide +kernel, by decide +kernel, by decide +kernel, by decide +kernel, by decide +kernel, by decide +kernel, by decide +kernel, by decide +kernel⟩

end Sys2Proof.Tests.ArchiveCommandsAnswerAndComplete

namespace Sys2Proof.Tests.BoundHeatsAndFlashUpkeep

def g2 (f : Fld) (v : Nat) (s : State) : State := [0,3].foldl (fun s c => s.setFld f c 0 v) s
def ob (n : Nat) (h : Bool) : ArcObj := { num := n, heat := h, isOpen := false, badBlk := false, region := 2, chan := 9, seq := 77, time := 4*10^9, tag := 0xABC, blocks := [ws 12, (ws 30).drop 18, (ws 50).drop 38] }
def rdy (s : State) := g2 F.ARC_STATUS.READY 1 (g2 F.ARC_NEXT_OBJ.OBJ 9 (g2 F.ARC_CTRL.EN 1 s))
def bind (v : Nat) (s : State) : State := [0,3].foldl (fun s r => [0,4].foldl (fun s n => s.setReg .ARC_BIND r n (BitVec.ofNat 40 v)) s) s
def wmem (a : Nat) (w : List Word) (s : State) : State := match exec (.wr 0x43 1 (BitVec.ofNat 40 a) 0xFFF 0 w) s with | .next t => {t with resps := []} | _ => s
def slot : Nat := 0x40000 + 3*5*64
def heat (q : Nat) (s : State) : State :=
  let s := [(F.HEAT_DONE.SEQ, 8), (F.HEAT_NSLOT.NUM, 4), (F.HEAT_SLOT.BLOCKS, 5), (F.HEAT_SLOT.EVB, 0), (F.HEAT_BASE.ADDR, 0x1000), (F.HEAT_RP.SEQ, 7)].foldl (fun (s : State) x => s.setFld x.1 1 2 x.2) s
  wmem (slot+64) [0,1,2,3,20,5,6,7,8,9,10,11] (wmem slot ([BitVec.ofNat 40 (2*2^38 + 2^27), BitVec.ofNat 40 q] ++ (ws 12).drop 2) s)
def bv : Nat := 2^39 + 2^38 + 1*2^36 + 2*2^32 + 7
def en (s : State) : State := g2 F.ARC_CPL_LEN.BLOCKS 4 (g2 F.ARC_CPL_BASE.ADDR 0x100 (g2 F.ARC_CTRL.EN 1 (rdy s)))
def retry (s : State) : State := { s with arcs := [(0, { objs := [ob 5 false], retry := [0, 4] }), (3, { objs := [ob 5 false], retry := [0,4] })] }
def fullS (s : State) : State := { s with arcs := [(0, { objs := [ob 5 false], retired := 10^12 }), (3, { objs := [ob 5 false], retired := 10^12 })] }

theorem free_ge (s : State) (r : Nat) (h : (s.arc r).retired = 0) (h1 : arcStored (s.arc r) ≤ 100) : 100 ≤ arcFree s r := by
  unfold arcFree arcUsable; rw [h]; split <;> omega
theorem free_lt (s : State) (r : Nat) (h : (s.arc r).retired = 10 ^ 12) : arcFree s r < 1 := by
  unfold arcFree arcUsable; rw [h]; split <;> omega

/-- The hypotheses of Obligations.BoundHeatsAndFlashUpkeep. -/
theorem witness : (let s : State := en (bind bv (heat 7 runS))
    let r : Region := 0
    let n : Fin 16 := 0
    let v : Word := 0x8000000000
    v.getLsbD 39 = true ∧ s.fld F.ARC_BIND.VALID r n = 1) ∧
    (let s : State := runS
    let r : Region := 0
    let n : Fin 16 := 0
    let v : Word := 0x8000000000
    ¬(v.getLsbD 39 = true ∧ s.fld F.ARC_BIND.VALID r n = 1)) ∧
    (let s : State := runS
    let r : Region := 0
    let n : Fin 16 := 0
    let a := s.arc r
    let runs := s.fld F.ARC_CTRL.EN r = 1 ∧ s.fld F.ARC_STATUS.READY r = 1
    (¬runs ∨ n.val ∈ a.retry ∨ s.fld F.ARC_BIND.VALID r n = 0)) ∧
    (let s : State := runS
    let r : Region := 0
    let n : Fin 16 := 0
    let a := s.arc r
    let runs := s.fld F.ARC_CTRL.EN r = 1 ∧ s.fld F.ARC_STATUS.READY r = 1
    (¬runs ∨ n.val ∉ a.retry)) ∧
    (let s : State := fullS (en (bind bv (heat 7 runS)))
    let r : Region := 0
    let n : Fin 16 := 0
    let a := s.arc r
    let hr := s.fld F.ARC_BIND.REGION r n
    let hc := s.fld F.ARC_BIND.CHANNEL r n
    let q := s.fld F.HEAT_DONE.SEQ hr hc - 1
    let runs := s.fld F.ARC_CTRL.EN r = 1 ∧ s.fld F.ARC_STATUS.READY r = 1
    let slot := s.fld F.HEAT_BASE.ADDR hr hc * 64 +
        q % Nat.max (s.fld F.HEAT_NSLOT.NUM hr hc) 1 * s.fld F.HEAT_SLOT.BLOCKS hr hc * 64
    let h0 := (s.readBlk slot).toNat
    let u := if h0.testBit 27 ∨ bitsOf h0 22 20 = 3 then 12 else 60
    let nOut := (s.readBlk (slot + 64 + 20)).toNat
    let len := 2 + s.fld F.HEAT_SLOT.EVB hr hc +
        (Nat.min nOut ((s.fld F.HEAT_SLOT.BLOCKS hr hc - 2 - s.fld F.HEAT_SLOT.EVB hr hc) * u) + u - 1) / u
    s.fld F.ARC_BIND.VALID r n = 1 ∧ s.fld F.HEAT_DONE.SEQ hr hc ≠ 0 ∧ s.fld F.ARC_BIND.NEXT r n = q % 2 ^ 32 ∧ runs ∧ bitsOf h0 39 38 = 2 ∧ slot + 64 * len ≤ 0x2000000000 ∧ (∀ b : Region, s.fld F.MEM_CTRL.DIAG b = 0) ∧ (∀ j, j < len → memAccess s (slot + 64 * j) = 0 ∧ (rsDecode (bytesAt s.mem (slot + 64 * j) 64)).2 = 0) ∧ arcFree s r < len ∧ n.val ∉ a.retry) ∧
    (let s : State := en (bind bv (heat 11 runS))
    let r : Region := 0
    let n : Fin 16 := 0
    let m : Media := { retries := 0, uncorr := [], fails := 0, soft := 0, lost := 0, spare := none, low := false, wear := none }
    let go := if n.val ∈ (s.arc r).retry then exec (.offlineRetry r n m) s else exec (.heatArchive r n m) s
    let a := s.arc r
    let hr := s.fld F.ARC_BIND.REGION r n
    let hc := s.fld F.ARC_BIND.CHANNEL r n
    let q := s.fld F.HEAT_DONE.SEQ hr hc - 1
    let runs := s.fld F.ARC_CTRL.EN r = 1 ∧ s.fld F.ARC_STATUS.READY r = 1
    let slot := s.fld F.HEAT_BASE.ADDR hr hc * 64 +
        q % Nat.max (s.fld F.HEAT_NSLOT.NUM hr hc) 1 * s.fld F.HEAT_SLOT.BLOCKS hr hc * 64
    let h0 := (s.readBlk slot).toNat
    let u := if h0.testBit 27 ∨ bitsOf h0 22 20 = 3 then 12 else 60
    let nOut := (s.readBlk (slot + 64 + 20)).toNat
    let len := 2 + s.fld F.HEAT_SLOT.EVB hr hc +
        (Nat.min nOut ((s.fld F.HEAT_SLOT.BLOCKS hr hc - 2 - s.fld F.HEAT_SLOT.EVB hr hc) * u) + u - 1) / u
    s.fld F.ARC_BIND.VALID r n = 1 ∧ s.fld F.HEAT_DONE.SEQ hr hc ≠ 0 ∧ s.fld F.ARC_BIND.NEXT r n = q % 2 ^ 32 ∧ runs ∧ bitsOf h0 39 38 = 2 ∧ slot + 64 * len ≤ 0x2000000000 ∧ (∀ b : Region, s.fld F.MEM_CTRL.DIAG b = 0) ∧ (∀ j, j < len → memAccess s (slot + 64 * j) = 0 ∧ (rsDecode (bytesAt s.mem (slot + 64 * j) 64)).2 = 0) ∧ len ≤ arcFree s r ∧ go = (if n.val ∈ a.retry then exec (.offlineRetry r n m) s else exec (.heatArchive r n m) s)) ∧
    (let s : State := en (bind bv (heat 7 runS))
    let r : Region := 0
    let a := s.arc r
    s.fld F.ARC_CTRL.PATROL_EN r = 1 ∧ s.fld F.ARC_STATUS.READY r = 1 ∧ a.uncorr = false) ∧
    (let s : State := runS
    let r : Region := 0
    (s.fld F.ARC_CTRL.PATROL_EN r = 0 ∨ s.fld F.ARC_STATUS.READY r = 0)) ∧
    (let s : State := en (bind bv (heat 7 runS))
    let r : Region := 0
    s.fld F.ARC_STATUS.READY r = 1) :=
  ⟨by decide +kernel, by decide +kernel, by decide +kernel, by decide +kernel, ⟨by decide +kernel, by decide +kernel, by decide +kernel, by decide +kernel, by decide +kernel, by decide +kernel, by decide +kernel, by decide +kernel, Nat.lt_of_lt_of_le (free_lt _ _ (by decide +kernel)) (by decide +kernel), by decide +kernel⟩, ⟨by decide +kernel, by decide +kernel, by decide +kernel, by decide +kernel, by decide +kernel, by decide +kernel, by decide +kernel, by decide +kernel, Nat.le_trans (by decide +kernel) (free_ge _ _ (by decide +kernel) (by decide +kernel)), rfl⟩, by decide +kernel, by decide +kernel, by decide +kernel⟩

end Sys2Proof.Tests.BoundHeatsAndFlashUpkeep

namespace Sys2Proof.Tests.LoadsBeginClearAndEnd

def wordsT : List Word := [0x1000000000, 1, 2, 3]
def spd (s : State) : State := { s with mem := [⟨0x1000, 5⟩, ⟨0x4101000005, 9⟩], fab := { s.fab with dmem := [(3, 5)], imem := [(1,1)], sel := [(5,5)], route := [(7,7)] }, ret := { valid := true }, zones := [(3, {})] }
def slotv (s : State) : State := (s.setFld F.CFG_SLOT.VALID 0 0 1).setFld F.CFG_SLOT.VALID 0 1 1
def far (s : State) := f0 F.CFG_SRC_ADDR.ADDR 0x7FFFFFFF (f0 F.CFG_SRC_LEN.BYTES 1000 s)
def zn (z st : Nat) (s : State) := s.setFld F.CFG_ZONE.STATE (z/16) (z%16) st

/-- The hypotheses of Obligations.LoadsBeginClearAndEnd. -/
theorem witness : (let s : State := ld { kind := 1, phase := 1, src := 1 } { runS with mode := .loading }
    let l := s.load
    l.kind = 1) ∧
    (let s : State := far runS
    let l := s.load
    let far := 0x2000000000 < 64 * s.fld F.CFG_SRC_ADDR.ADDR + (s.fld F.CFG_SRC_LEN.BYTES + 59) / 60 * 64
    l.kind ≠ 1 ∧ far) ∧
    (let s : State := State.reset
    let l := s.load
    let far := 0x2000000000 < 64 * s.fld F.CFG_SRC_ADDR.ADDR + (s.fld F.CFG_SRC_LEN.BYTES + 59) / 60 * 64
    let idleHere := l.kind = 0 ∧ l.fwd = false ∧ allRun s = true
    idleHere ∧ ¬far) ∧
    (let s : State := State.reset
    let slot : Fin 2 := 0
    let l := s.load
    l.kind ≠ 1 ∧ s.fld F.CFG_SLOT.VALID 0 slot = 0) ∧
    (let s : State := slotv runS
    let slot : Fin 2 := 0
    let l := s.load
    let idleHere := l.kind = 0 ∧ l.fwd = false ∧ allRun s = true
    idleHere ∧ s.fld F.CFG_SLOT.VALID 0 slot = 1) ∧
    (let s : State := State.reset
    let l := s.load
    let idleHere := l.kind = 0 ∧ l.fwd = false ∧ allRun s = true
    idleHere) ∧
    (let s : State := State.reset
    s.mode ≠ .run ∧ s.mode ≠ .frozen) ∧
    (let s : State := ld { kind := 2, phase := 3, hdr := [] } runS
    let l := s.load
    (s.mode = .run ∨ s.mode = .frozen) ∧ l.kind ≠ 0) ∧
    (let s : State := far runS
    let l := s.load
    let far := 0x2000000000 < 64 * s.fld F.CFG_SRC_ADDR.ADDR + (s.fld F.CFG_SRC_LEN.BYTES + 59) / 60 * 64
    (s.mode = .run ∨ s.mode = .frozen) ∧ l.kind = 0 ∧ far) ∧
    (let s : State := runS
    let l := s.load
    let far := 0x2000000000 < 64 * s.fld F.CFG_SRC_ADDR.ADDR + (s.fld F.CFG_SRC_LEN.BYTES + 59) / 60 * 64
    (s.mode = .run ∨ s.mode = .frozen) ∧ l.kind = 0 ∧ ¬far) ∧
    (let s : State := ld { kind := 1, phase := 1, src := 1 } { runS with mode := .loading }
    let slot : Fin 2 := 0
    let l := s.load
    (slotBusy s slot = true ∨ l.storing ≠ none)) ∧
    (let s : State := far runS
    let slot : Fin 2 := 0
    let l := s.load
    let far := 0x2000000000 < 64 * s.fld F.CFG_SRC_ADDR.ADDR + (s.fld F.CFG_SRC_LEN.BYTES + 59) / 60 * 64
    slotBusy s slot = false ∧ l.storing = none ∧ (far ∨ 2 ^ 32 < s.fld F.CFG_SRC_LEN.BYTES)) ∧
    (let s : State := State.reset
    let slot : Fin 2 := 0
    let l := s.load
    let far := 0x2000000000 < 64 * s.fld F.CFG_SRC_ADDR.ADDR + (s.fld F.CFG_SRC_LEN.BYTES + 59) / 60 * 64
    slotBusy s slot = false ∧ l.storing = none ∧ ¬far ∧ s.fld F.CFG_SRC_LEN.BYTES ≤ 2 ^ 32) ∧
    (let s : State := State.reset
    let l := s.load
    l.storing = none) ∧
    (let s : State := f0 F.CFG_SRC_LIMIT.BYTES 99 (ld { storing := some (0, 0x40, 100) } (spd runS))
    let slot : Fin 2 := 0
    let blk := 64
    let len := 100
    let l := s.load
    l.storing = some (slot.val, blk, len) ∧ len < 2 ^ 32 ∧ s.fld F.CFG_SLOT.VALID 0 slot = 0 ∧ s.fld F.CFG_SRC_LIMIT.BYTES < len) ∧
    (let s : State := f0 F.CFG_SRC_LIMIT.BYTES 200 (ld { storing := some (1, 0, 190) } runS)
    let slot : Fin 2 := 1
    let blk := 0
    let len := 190
    let l := s.load
    l.storing = some (slot.val, blk, len) ∧ len < 2 ^ 32 ∧ s.fld F.CFG_SLOT.VALID 0 slot = 0 ∧ len ≤ s.fld F.CFG_SRC_LIMIT.BYTES ∧ probing s = false ∧ (∀ b, b < (len + 59) / 60 → memAccess s (64 * blk + 64 * b) = 0 ∧
          (rsDecode (bytesAt s.mem (64 * blk + 64 * b) 64)).2 = 0)) ∧
    (let s : State := ld { kind := 1, phase := 1, src := 1 } { runS with mode := .loading }
    let slot : Fin 2 := 0
    slotBusy s slot = true) ∧
    (let s : State := State.reset
    let slot : Fin 2 := 0
    slotBusy s slot = false) ∧
    (let s : State := State.reset
    let l := s.load
    l.kind = 0) ∧
    (let s : State := State.reset
    let l := s.load
    let status := fun (t : State) (f : Fld) => t.fld f
    ((l.phase ≠ 2 ∧ l.phase ≠ 3) ∨ l.waitStart = true ∨ status s F.CFG_CTRL.TIMEOUT = 0)) ∧
    (let s : State := ld { kind := 2, phase := 3, hdr := [] } runS
    let o : Host.Outcome State Fault Refusal := exec .abort s
    let cause : Nat := 5
    let l := s.load
    let status := fun (t : State) (f : Fld) => t.fld f
    ((o = exec .abort s ∧ cause = 5) ∨ (o = exec .loadTimeout s ∧ cause = 1 ∧ (l.phase = 2 ∨ l.phase = 3) ∧ l.waitStart = false ∧
        status s F.CFG_CTRL.TIMEOUT ≠ 0)) ∧ l.kind = 2 ∧ l.hdr = []) ∧
    (let s : State := f0 F.CFG_CTRL.CROWN_EN 0 (f0 F.CFG_CTRL.TIMEOUT 5 (ld { kind := 2, phase := 3, hdr := wordsT, zone := 19 } (zn 19 3 (spd runS))))
    let o : Host.Outcome State Fault Refusal := exec .abort s
    let cause : Nat := 5
    let l := s.load
    let status := fun (t : State) (f : Fld) => t.fld f
    ((o = exec .abort s ∧ cause = 5) ∨ (o = exec .loadTimeout s ∧ cause = 1 ∧ (l.phase = 2 ∨ l.phase = 3) ∧ l.waitStart = false ∧
        status s F.CFG_CTRL.TIMEOUT ≠ 0)) ∧ l.kind = 2 ∧ l.hdr ≠ [] ∧ l.zone < 64) ∧
    (let s : State := f0 F.CFG_CTRL.CROWN_EN 0 (f0 F.CFG_CTRL.TIMEOUT 5 (ld { kind := 1, phase := 2, src := 2 } (slotv (spd { runS with mode := .loading }))))
    let o : Host.Outcome State Fault Refusal := exec .loadTimeout s
    let cause : Nat := 1
    let l := s.load
    let status := fun (t : State) (f : Fld) => t.fld f
    ((o = exec .abort s ∧ cause = 5) ∨ (o = exec .loadTimeout s ∧ cause = 1 ∧ (l.phase = 2 ∨ l.phase = 3) ∧ l.waitStart = false ∧
        status s F.CFG_CTRL.TIMEOUT ≠ 0)) ∧ l.kind = 1 ∧ l.waking = false ∧ status s F.CFG_CTRL.CROWN_EN = 0) ∧
    (let s : State := State.reset
    let l := s.load
    (l.kind ≠ 1 ∨ l.phase ≠ 1 ∨ l.waking = true ∨ s.time.running = true)) ∧
    (let s : State := ld { kind := 1, phase := 1, src := 1 } { runS with mode := .loading }
    let l := s.load
    l.kind = 1 ∧ l.phase = 1 ∧ l.waking = false ∧ s.time.running = false) ∧
    (let s : State := State.reset
    let l := s.load
    l.progSrc = false) ∧
    (let s : State := f0 F.CFG_STATUS.BOOT_SRC 1 (ld { kind := 1, phase := 6, progSrc := true, progLow := true } runS)
    let l := s.load
    let status := fun (t : State) (f : Fld) => t.fld f
    let boot := status s F.CFG_STATUS.BOOT_SRC
    l.progSrc = true ∧ l.phase = 6 ∧ (boot = 1 ∨ boot = 2 ∨ boot = 3)) ∧
    (let s : State := ld { kind := 1, phase := 6, progSrc := true, progLow := true } runS
    let l := s.load
    let status := fun (t : State) (f : Fld) => t.fld f
    let boot := status s F.CFG_STATUS.BOOT_SRC
    l.progSrc = true ∧ l.phase = 6 ∧ boot ≠ 1 ∧ boot ≠ 2 ∧ boot ≠ 3 ∧ l.kind = 1 ∧ l.waking = false) :=
  ⟨by decide +kernel, by decide +kernel, by decide +kernel, by decide +kernel, by decide +kernel, by decide +kernel, by decide +kernel, by decide +kernel, by decide +kernel, by decide +kernel, by decide +kernel, by decide +kernel, by decide +kernel, by decide +kernel, by decide +kernel, by decide +kernel, by decide +kernel, by decide +kernel, by decide +kernel, by decide +kernel, ⟨Or.inl ⟨rfl, rfl⟩, by decide +kernel⟩, ⟨Or.inl ⟨rfl, rfl⟩, by decide +kernel⟩, ⟨Or.inr ⟨rfl, by decide +kernel⟩, by decide +kernel⟩, by decide +kernel, by decide +kernel, by decide +kernel, by decide +kernel, by decide +kernel⟩

end Sys2Proof.Tests.LoadsBeginClearAndEnd

namespace Sys2Proof.Tests.StreamCommandsTakeEffectInOrder

def mkHd (w0 w1 w2 w3 w4 w5 : Nat) : List Word :=
  let h := [w0,w1,w2,w3,w4,w5,0,0,0,0,0].map (BitVec.ofNat 40)
  h ++ [BitVec.ofNat 40 (crc32c ([0xA5, 0x5A, 0xC3, 0x3C] ++ wordsBytes h))]
def w0 (k enc sig s x : Nat) : Nat := 2^32 + k*2^28 + enc*2^27 + sig*2^26 + x*2^24 + s*2^8
def dev : Nat := 0x9640*2^24 + 0x10*2^16
def hF := mkHd (w0 1 0 0 16 0) dev 5 20500 1 0
def win (z x0 x1 y0 y1 ty : Nat) : Nat := z%16*2^36 + z/16*2^34 + x0*2^30 + x1*2^28+ y0*2^26+y1*2^24 + ty*2^16
def hP := mkHd (w0 2 0 0 16 0) dev 5 20500 1 (win 19 0 1 0 1 0x3F)
def z19 (st : Nat) (s : State) : State := { (s.setFld F.CFG_ZONE.STATE 1 3 st) with zones := [(19, { rect := some ⟨0,0,1,1⟩ })] }
def zs (s : State) : State := s.setFld F.TIM_STRIDE_CFG.S 0 0 16
def pl : List Word := (List.range 2048).map fun k => BitVec.ofNat 40 (rnd (k % 7))
def lf (s : State) := f0 F.CFG_CTRL.CROWN_EN 0 { s with mode := .loading }
def rl (l : LoadSt) : LoadSt := { l with src := 3, stream := true }
def b3 (h : List Word) (k : Nat) : LoadSt := rl { kind := k, phase := 3, hdr := h, zone := if k = 2 then 19 else 0, skip := 7, frames := 1, off := 10 }
def P (s : State) := zs (z19 3 (f0 F.CFG_CTRL.CROWN_EN 0 s))
def hE (k : Nat) : List Word := mkHd (w0 k 0 0 16 0) dev 5 15 1 (if k = 2 then win 19 0 1 0 1 0x3F else 0)
def hEnc (k e g : Nat) : List Word := mkHd (w0 k e g 16 0) dev 5 15 1 (if k = 2 then win 19 0 1 0 1 0x3F else 0)

theorem crcBits_lt : ∀ n c, c < 2 ^ 32 → crcBits n c < 2 ^ 32
  | 0, _, h => h
  | n + 1, c, h => by
    refine crcBits_lt n _ ?_
    split
    · exact Nat.xor_lt_two_pow (by omega) (by decide)
    · omega
theorem crc32c_lt (bs : List Nat) (h : ∀ b ∈ bs, b < 2 ^ 32) : crc32c bs < 2 ^ 32 := by
  have go : ∀ (bs : List Nat) c, (∀ b ∈ bs, b < 2 ^ 32) → c < 2 ^ 32 →
      bs.foldl (fun c b => crcBits 8 (c ^^^ b)) c < 2 ^ 32 := by
    intro bs
    induction bs with
    | nil => intro c _ hc; exact hc
    | cons b bs ih =>
      intro c hb hc
      exact ih _ (fun x hx => hb x (.tail _ hx)) (crcBits_lt 8 _ (Nat.xor_lt_two_pow hc (hb b (.head _))))
  exact Nat.xor_lt_two_pow (go bs _ h (by decide)) (by decide)
theorem bytes_lt (ws : List Word) : ∀ b ∈ wordsBytes ws, b < 2 ^ 32 := by
  intro b hb
  simp only [wordsBytes, wordBytes, List.mem_flatMap, List.mem_map] at hb
  obtain ⟨w, _, i, _, rfl⟩ := hb
  exact Nat.lt_of_lt_of_le (Nat.mod_lt _ (Nat.two_pow_pos _)) (Nat.pow_le_pow_right (by omega) (by omega))
/-- The host's stream gives the words it is given. -/
theorem stream_words (s : State) (h : s.load.src = 3) (ws : List Word) : bodyWords s ws.length ws = ((ws, 0), s) := by
  have hs : srcHas s (bodyPos s) (5 * ws.length) = 0 := by simp [srcHas, srcLen, h]
  have hp : (List.range ws.length).map (payWord ws) = ws := by
    apply List.ext_getElem
    · simp
    · intro i h1 h2; simp [payWord, h2]
  unfold bodyWords
  rw [hs, hp]
  simp [h]
theorem frame_comes (s : State) (h : s.load.src = 3) (ws : List Word) (hn : ws.length = 2050) (hl : s.load.off + 10250 ≤ bodyLen s) :
    bodyWords s 1 (ws.take 1) = (([ws.headD 0], 0), s) ∧ bodyWords s ws.length ws = ((ws, 0), s) ∧
      s.load.off + 5 * ws.length ≤ bodyLen s := by
  refine ⟨?_, stream_words s h ws, by omega⟩
  obtain ⟨w, ws, rfl⟩ := List.exists_cons_of_length_pos (l := ws) (by omega)
  exact stream_words s h [w]

/-- The hypotheses of Obligations.StreamCommandsTakeEffectInOrder. -/
theorem witness : (let s : State := ld (rl { kind := 1, phase := 4 }) (lf runS)
    let l := s.load
    let full := l.kind = 1
    let part := l.kind = 2
    (full ∨ part) ∧ l.waking = false ∧ s.fld F.CFG_CTRL.CROWN_EN = 0 ∧ l.zone < 64 ∧ (l.phase ≠ 2 ∨ l.waitStart = true)) ∧
    (let s : State := ld (rl { kind := 1, phase := 2 }) (lf runS)
    let words : List Word := hF.set 11 0
    let l := s.load
    let full := l.kind = 1
    let part := l.kind = 2
    (full ∨ part) ∧ l.waking = false ∧ s.fld F.CFG_CTRL.CROWN_EN = 0 ∧ l.zone < 64 ∧ l.phase = 2 ∧ l.waitStart = false ∧ l.src = 3 ∧ l.stream = true ∧ words.length = 12 ∧ hbits words 11 31 0 ≠ crc32c ([0xA5, 0x5A, 0xC3, 0x3C] ++ wordsBytes (words.take 11))) ∧
    (let s : State := ld (rl { kind := 1, phase := 2 }) (lf runS)
    let words : List Word := hP
    let l := s.load
    let full := l.kind = 1
    let part := l.kind = 2
    (full ∨ part) ∧ l.waking = false ∧ s.fld F.CFG_CTRL.CROWN_EN = 0 ∧ l.zone < 64 ∧ l.phase = 2 ∧ l.waitStart = false ∧ l.src = 3 ∧ l.stream = true ∧ words.length = 12 ∧ headerCheck s words ≠ 0) ∧
    (let s : State := ld (rl { kind := 1, phase := 2 }) (lf runS)
    let words : List Word := hF
    let l := s.load
    let full := l.kind = 1
    let part := l.kind = 2
    (full ∨ part) ∧ l.waking = false ∧ s.fld F.CFG_CTRL.CROWN_EN = 0 ∧ l.zone < 64 ∧ l.phase = 2 ∧ l.waitStart = false ∧ l.src = 3 ∧ l.stream = true ∧ words.length = 12 ∧ headerCheck s words = 0 ∧ hbits words 3 39 0 ≠ 0 ∧ full) ∧
    (let s : State := ld (rl { kind := 2, phase := 2, zone := 19 }) (zs (z19 1 (f0 F.CFG_CTRL.CROWN_EN 0 runS)))
    let words : List Word := hP
    let l := s.load
    let full := l.kind = 1
    let part := l.kind = 2
    (full ∨ part) ∧ l.waking = false ∧ s.fld F.CFG_CTRL.CROWN_EN = 0 ∧ l.zone < 64 ∧ l.phase = 2 ∧ l.waitStart = false ∧ l.src = 3 ∧ l.stream = true ∧ words.length = 12 ∧ headerCheck s words = 0 ∧ hbits words 3 39 0 ≠ 0 ∧ part ∧ s.zstate (hdrZone words) ≠ 2) ∧
    (let s : State := ld (rl { kind := 2, phase := 2, zone := 19 }) (zs (z19 2 (f0 F.CFG_CTRL.CROWN_EN 0 runS)))
    let words : List Word := hP
    let l := s.load
    let full := l.kind = 1
    let part := l.kind = 2
    (full ∨ part) ∧ l.waking = false ∧ s.fld F.CFG_CTRL.CROWN_EN = 0 ∧ l.zone < 64 ∧ l.phase = 2 ∧ l.waitStart = false ∧ l.src = 3 ∧ l.stream = true ∧ words.length = 12 ∧ headerCheck s words = 0 ∧ hbits words 3 39 0 ≠ 0 ∧ part ∧ s.zstate (hdrZone words) = 2 ∧ hbits words 0 25 25 = 0) ∧
    (let s : State := ld (b3 hF 1) (lf runS)
    let l := s.load
    let full := l.kind = 1
    let part := l.kind = 2
    let comes := fun (ws : List Word) => bodyWords s 1 (ws.take 1) = (([ws.headD 0], 0), s) ∧
        bodyWords s ws.length ws = ((ws, 0), s) ∧ l.off + 5 * ws.length ≤ bodyLen s
    let word := fun (op arg : Nat) => BitVec.ofNat 40 (op * 2 ^ 32 + arg)
    (full ∨ part) ∧ l.waking = false ∧ s.fld F.CFG_CTRL.CROWN_EN = 0 ∧ l.zone < 64 ∧ l.phase = 3 ∧ (l.src = 3 → l.stream = true) ∧ l.hdr ≠ [] ∧ l.fwd = false ∧ comes [word 0 0]) ∧
    (let s : State := ld (b3 hF 1) (lf runS)
    let op := 0
    let arg := 1
    let l := s.load
    let full := l.kind = 1
    let part := l.kind = 2
    let comes := fun (ws : List Word) => bodyWords s 1 (ws.take 1) = (([ws.headD 0], 0), s) ∧
        bodyWords s ws.length ws = ((ws, 0), s) ∧ l.off + 5 * ws.length ≤ bodyLen s
    let word := fun (op arg : Nat) => BitVec.ofNat 40 (op * 2 ^ 32 + arg)
    (full ∨ part) ∧ l.waking = false ∧ s.fld F.CFG_CTRL.CROWN_EN = 0 ∧ l.zone < 64 ∧ l.phase = 3 ∧ (l.src = 3 → l.stream = true) ∧ l.hdr ≠ [] ∧ l.fwd = false ∧ op < 256 ∧ arg < 2 ^ 32 ∧ ((op = 0 ∧ arg ≠ 0) ∨ (5 < op ∧ op ≠ 15)) ∧ comes [word op arg]) ∧
    (let s : State := ld (b3 hF 1) (lf runS)
    let tile : Tile := 0
    let n : Fin 8 := 0
    let pay : List Word := List.replicate 2048 0
    let crc : Word := 0xFFFFFFFFFF
    let l := s.load
    let full := l.kind = 1
    let part := l.kind = 2
    let comes := fun (ws : List Word) => bodyWords s 1 (ws.take 1) = (([ws.headD 0], 0), s) ∧
        bodyWords s ws.length ws = ((ws, 0), s) ∧ l.off + 5 * ws.length ≤ bodyLen s
    let word := fun (op arg : Nat) => BitVec.ofNat 40 (op * 2 ^ 32 + arg)
    let a := 2 ^ 15 * tile.val + 2 ^ 12 * 5 + n.val
    (full ∨ part) ∧ l.waking = false ∧ s.fld F.CFG_CTRL.CROWN_EN = 0 ∧ l.zone < 64 ∧ l.phase = 3 ∧ (l.src = 3 → l.stream = true) ∧ l.hdr ≠ [] ∧ l.fwd = false ∧ full ∧ pay.length = 2048 ∧ comes (word 1 a :: pay ++ [crc]) ∧ crc.toNat ≠ crc32c (wordsBytes (word 1 a :: pay))) ∧
    (let s : State := ld (b3 hF 1) (lf runS)
    let tile : Tile := 0
    let n : Fin 8 := 0
    let pay : List Word := List.replicate 2048 0
    let crc : Word := BitVec.ofNat 40 (crc32c (wordsBytes (BitVec.ofNat 40 (2 ^ 32 + 20480) :: List.replicate 2048 0)))
    let l := s.load
    let full := l.kind = 1
    let part := l.kind = 2
    let comes := fun (ws : List Word) => bodyWords s 1 (ws.take 1) = (([ws.headD 0], 0), s) ∧
        bodyWords s ws.length ws = ((ws, 0), s) ∧ l.off + 5 * ws.length ≤ bodyLen s
    let word := fun (op arg : Nat) => BitVec.ofNat 40 (op * 2 ^ 32 + arg)
    let a := 2 ^ 15 * tile.val + 2 ^ 12 * 5 + n.val
    (full ∨ part) ∧ l.waking = false ∧ s.fld F.CFG_CTRL.CROWN_EN = 0 ∧ l.zone < 64 ∧ l.phase = 3 ∧ (l.src = 3 → l.stream = true) ∧ l.hdr ≠ [] ∧ l.fwd = false ∧ full ∧ pay.length = 2048 ∧ comes (word 1 a :: pay ++ [crc]) ∧ crc.toNat = crc32c (wordsBytes (word 1 a :: pay))) ∧
    (let s : State := ld (b3 hF 1) (lf runS)
    let tile : Tile := 0
    let n : Fin 8 := 0
    let l := s.load
    let full := l.kind = 1
    let part := l.kind = 2
    let comes := fun (ws : List Word) => bodyWords s 1 (ws.take 1) = (([ws.headD 0], 0), s) ∧
        bodyWords s ws.length ws = ((ws, 0), s) ∧ l.off + 5 * ws.length ≤ bodyLen s
    let word := fun (op arg : Nat) => BitVec.ofNat 40 (op * 2 ^ 32 + arg)
    (full ∨ part) ∧ l.waking = false ∧ s.fld F.CFG_CTRL.CROWN_EN = 0 ∧ l.zone < 64 ∧ l.phase = 3 ∧ (l.src = 3 → l.stream = true) ∧ l.hdr ≠ [] ∧ l.fwd = false ∧ comes [word 3 (2 ^ 15 * tile.val + 2 ^ 12 * 5 + n.val)] ∧ (∀ x, l.last = some x → frType x.1 ≠ 5)) ∧
    (let s : State := ld { b3 hF 1 with last := some (2^15*3+2^12*5+1, pl) } (lf runS)
    let tile : Tile := 0
    let n : Fin 8 := 0
    let x := (2^15*3+2^12*5+1, pl)
    let l := s.load
    let full := l.kind = 1
    let part := l.kind = 2
    let comes := fun (ws : List Word) => bodyWords s 1 (ws.take 1) = (([ws.headD 0], 0), s) ∧
        bodyWords s ws.length ws = ((ws, 0), s) ∧ l.off + 5 * ws.length ≤ bodyLen s
    let word := fun (op arg : Nat) => BitVec.ofNat 40 (op * 2 ^ 32 + arg)
    (full ∨ part) ∧ l.waking = false ∧ s.fld F.CFG_CTRL.CROWN_EN = 0 ∧ l.zone < 64 ∧ l.phase = 3 ∧ (l.src = 3 → l.stream = true) ∧ l.hdr ≠ [] ∧ l.fwd = false ∧ comes [word 3 (2 ^ 15 * tile.val + 2 ^ 12 * 5 + n.val)] ∧ full ∧ l.last = some x ∧ frType x.1 = 5 ∧ x.2.length = 2048) ∧
    (let s : State := ld (b3 hF 1) (lf runS)
    let r : Nat := 0
    let v : Word := 0
    let l := s.load
    let full := l.kind = 1
    let part := l.kind = 2
    let comes := fun (ws : List Word) => bodyWords s 1 (ws.take 1) = (([ws.headD 0], 0), s) ∧
        bodyWords s ws.length ws = ((ws, 0), s) ∧ l.off + 5 * ws.length ≤ bodyLen s
    let word := fun (op arg : Nat) => BitVec.ofNat 40 (op * 2 ^ 32 + arg)
    let bad := ¬(0x10 ≤ r ∧ r ≤ 0x13) ∧ ¬(full ∧ (r = 1 ∨ r = 0x20))
    (full ∨ part) ∧ l.waking = false ∧ s.fld F.CFG_CTRL.CROWN_EN = 0 ∧ l.zone < 64 ∧ l.phase = 3 ∧ (l.src = 3 → l.stream = true) ∧ l.hdr ≠ [] ∧ l.fwd = false ∧ r < 256 ∧ comes [word 2 r, v] ∧ bad) ∧
    (let s : State := ld (b3 hF 1) (lf runS)
    let r : Nat := 1
    let v : Word := 1
    let l := s.load
    let full := l.kind = 1
    let part := l.kind = 2
    let comes := fun (ws : List Word) => bodyWords s 1 (ws.take 1) = (([ws.headD 0], 0), s) ∧
        bodyWords s ws.length ws = ((ws, 0), s) ∧ l.off + 5 * ws.length ≤ bodyLen s
    let word := fun (op arg : Nat) => BitVec.ofNat 40 (op * 2 ^ 32 + arg)
    let bad := ¬(0x10 ≤ r ∧ r ≤ 0x13) ∧ ¬(full ∧ (r = 1 ∨ r = 0x20))
    let range := (r = 1 ∧ v ≠ 0 ∧ (v.toNat < 640 ∨ 1024 < v.toNat)) ∨ (r = 0x20 ∧ 1 < v.toNat)
    (full ∨ part) ∧ l.waking = false ∧ s.fld F.CFG_CTRL.CROWN_EN = 0 ∧ l.zone < 64 ∧ l.phase = 3 ∧ (l.src = 3 → l.stream = true) ∧ l.hdr ≠ [] ∧ l.fwd = false ∧ r < 256 ∧ comes [word 2 r, v] ∧ ¬bad ∧ range) ∧
    (let s : State := ld (b3 hF 1) (lf runS)
    let r : Nat := 1
    let v : Word := 0
    let l := s.load
    let full := l.kind = 1
    let part := l.kind = 2
    let comes := fun (ws : List Word) => bodyWords s 1 (ws.take 1) = (([ws.headD 0], 0), s) ∧
        bodyWords s ws.length ws = ((ws, 0), s) ∧ l.off + 5 * ws.length ≤ bodyLen s
    let word := fun (op arg : Nat) => BitVec.ofNat 40 (op * 2 ^ 32 + arg)
    let bad := ¬(0x10 ≤ r ∧ r ≤ 0x13) ∧ ¬(full ∧ (r = 1 ∨ r = 0x20))
    let range := (r = 1 ∧ v ≠ 0 ∧ (v.toNat < 640 ∨ 1024 < v.toNat)) ∨ (r = 0x20 ∧ 1 < v.toNat)
    (full ∨ part) ∧ l.waking = false ∧ s.fld F.CFG_CTRL.CROWN_EN = 0 ∧ l.zone < 64 ∧ l.phase = 3 ∧ (l.src = 3 → l.stream = true) ∧ l.hdr ≠ [] ∧ l.fwd = false ∧ r < 256 ∧ comes [word 2 r, v] ∧ ¬bad ∧ ¬range) ∧
    (let s : State := ld (b3 hF 1) (lf runS)
    let d : Fin 16 := 0
    let v : Word := 0
    let l := s.load
    let full := l.kind = 1
    let part := l.kind = 2
    let comes := fun (ws : List Word) => bodyWords s 1 (ws.take 1) = (([ws.headD 0], 0), s) ∧
        bodyWords s ws.length ws = ((ws, 0), s) ∧ l.off + 5 * ws.length ≤ bodyLen s
    let word := fun (op arg : Nat) => BitVec.ofNat 40 (op * 2 ^ 32 + arg)
    (full ∨ part) ∧ l.waking = false ∧ s.fld F.CFG_CTRL.CROWN_EN = 0 ∧ l.zone < 64 ∧ l.phase = 3 ∧ (l.src = 3 → l.stream = true) ∧ l.hdr ≠ [] ∧ l.fwd = false ∧ comes [word 4 d.val, v] ∧ full) ∧
    (let s : State := ld (b3 hP 2) (P runS)
    let d : Fin 16 := 0
    let v : Word := 0xFFFFFFFFFF
    let l := s.load
    let full := l.kind = 1
    let part := l.kind = 2
    let comes := fun (ws : List Word) => bodyWords s 1 (ws.take 1) = (([ws.headD 0], 0), s) ∧
        bodyWords s ws.length ws = ((ws, 0), s) ∧ l.off + 5 * ws.length ≤ bodyLen s
    let word := fun (op arg : Nat) => BitVec.ofNat 40 (op * 2 ^ 32 + arg)
    let div := bitsOf v.toNat F.RTE_DOM.DIV.hi F.RTE_DOM.DIV.lo
    (full ∨ part) ∧ l.waking = false ∧ s.fld F.CFG_CTRL.CROWN_EN = 0 ∧ l.zone < 64 ∧ l.phase = 3 ∧ (l.src = 3 → l.stream = true) ∧ l.hdr ≠ [] ∧ l.fwd = false ∧ comes [word 4 d.val, v] ∧ part ∧ 65536 < div) ∧
    (let s : State := ld (b3 hP 2) (P runS)
    let d : Fin 16 := 0
    let v : Word := 0
    let l := s.load
    let full := l.kind = 1
    let part := l.kind = 2
    let comes := fun (ws : List Word) => bodyWords s 1 (ws.take 1) = (([ws.headD 0], 0), s) ∧
        bodyWords s ws.length ws = ((ws, 0), s) ∧ l.off + 5 * ws.length ≤ bodyLen s
    let word := fun (op arg : Nat) => BitVec.ofNat 40 (op * 2 ^ 32 + arg)
    let div := bitsOf v.toNat F.RTE_DOM.DIV.hi F.RTE_DOM.DIV.lo
    (full ∨ part) ∧ l.waking = false ∧ s.fld F.CFG_CTRL.CROWN_EN = 0 ∧ l.zone < 64 ∧ l.phase = 3 ∧ (l.src = 3 → l.stream = true) ∧ l.hdr ≠ [] ∧ l.fwd = false ∧ comes [word 4 d.val, v] ∧ part ∧ div ≤ 65536) ∧
    (let s : State := ld (b3 hP 2) (P runS)
    let pay : List Word := hF
    let l := s.load
    let full := l.kind = 1
    let part := l.kind = 2
    let comes := fun (ws : List Word) => bodyWords s 1 (ws.take 1) = (([ws.headD 0], 0), s) ∧
        bodyWords s ws.length ws = ((ws, 0), s) ∧ l.off + 5 * ws.length ≤ bodyLen s
    let word := fun (op arg : Nat) => BitVec.ofNat 40 (op * 2 ^ 32 + arg)
    (full ∨ part) ∧ l.waking = false ∧ s.fld F.CFG_CTRL.CROWN_EN = 0 ∧ l.zone < 64 ∧ l.phase = 3 ∧ (l.src = 3 → l.stream = true) ∧ l.hdr ≠ [] ∧ l.fwd = false ∧ pay ≠ [] ∧ pay.length < 2 ^ 32 ∧ comes (word 5 pay.length :: pay) ∧ part) ∧
    (let s : State := ld (b3 hF 1) (lf runS)
    let pay : List Word := hF
    let l := s.load
    let full := l.kind = 1
    let part := l.kind = 2
    let comes := fun (ws : List Word) => bodyWords s 1 (ws.take 1) = (([ws.headD 0], 0), s) ∧
        bodyWords s ws.length ws = ((ws, 0), s) ∧ l.off + 5 * ws.length ≤ bodyLen s
    let word := fun (op arg : Nat) => BitVec.ofNat 40 (op * 2 ^ 32 + arg)
    (full ∨ part) ∧ l.waking = false ∧ s.fld F.CFG_CTRL.CROWN_EN = 0 ∧ l.zone < 64 ∧ l.phase = 3 ∧ (l.src = 3 → l.stream = true) ∧ l.hdr ≠ [] ∧ l.fwd = false ∧ pay ≠ [] ∧ pay.length < 2 ^ 32 ∧ comes (word 5 pay.length :: pay) ∧ full) ∧
    (let s : State := ld (b3 hF 1) (lf runS)
    let auto : Bool := true
    let l := s.load
    let full := l.kind = 1
    let part := l.kind = 2
    let comes := fun (ws : List Word) => bodyWords s 1 (ws.take 1) = (([ws.headD 0], 0), s) ∧
        bodyWords s ws.length ws = ((ws, 0), s) ∧ l.off + 5 * ws.length ≤ bodyLen s
    let word := fun (op arg : Nat) => BitVec.ofNat 40 (op * 2 ^ 32 + arg)
    (full ∨ part) ∧ l.waking = false ∧ s.fld F.CFG_CTRL.CROWN_EN = 0 ∧ l.zone < 64 ∧ l.phase = 3 ∧ (l.src = 3 → l.stream = true) ∧ l.hdr ≠ [] ∧ l.fwd = false ∧ comes [word 15 (flag auto)] ∧ full ∧ auto = true) ∧
    (let s : State := ld (b3 hF 1) (lf runS)
    let auto : Bool := false
    let l := s.load
    let full := l.kind = 1
    let part := l.kind = 2
    let comes := fun (ws : List Word) => bodyWords s 1 (ws.take 1) = (([ws.headD 0], 0), s) ∧
        bodyWords s ws.length ws = ((ws, 0), s) ∧ l.off + 5 * ws.length ≤ bodyLen s
    let word := fun (op arg : Nat) => BitVec.ofNat 40 (op * 2 ^ 32 + arg)
    let short := l.off + 5 ≠ bodyLen s ∨ l.frames ≠ hbits l.hdr 4 31 0
    (full ∨ part) ∧ l.waking = false ∧ s.fld F.CFG_CTRL.CROWN_EN = 0 ∧ l.zone < 64 ∧ l.phase = 3 ∧ (l.src = 3 → l.stream = true) ∧ l.hdr ≠ [] ∧ l.fwd = false ∧ comes [word 15 (flag auto)] ∧ (part ∨ auto = false) ∧ short) ∧
    (let s : State := ld (b3 (hEnc 1 1 1) 1) (lf runS)
    let auto : Bool := false
    let tagOk : Bool := false
    let l := s.load
    let full := l.kind = 1
    let part := l.kind = 2
    let comes := fun (ws : List Word) => bodyWords s 1 (ws.take 1) = (([ws.headD 0], 0), s) ∧
        bodyWords s ws.length ws = ((ws, 0), s) ∧ l.off + 5 * ws.length ≤ bodyLen s
    let word := fun (op arg : Nat) => BitVec.ofNat 40 (op * 2 ^ 32 + arg)
    let short := l.off + 5 ≠ bodyLen s ∨ l.frames ≠ hbits l.hdr 4 31 0
    let tagBad := hdrEnc l.hdr = true ∧ tagOk = false
    (full ∨ part) ∧ l.waking = false ∧ s.fld F.CFG_CTRL.CROWN_EN = 0 ∧ l.zone < 64 ∧ l.phase = 3 ∧ (l.src = 3 → l.stream = true) ∧ l.hdr ≠ [] ∧ l.fwd = false ∧ comes [word 15 (flag auto)] ∧ (part ∨ auto = false) ∧ ¬short ∧ tagBad) ∧
    (let s : State := ld (b3 (hEnc 1 1 1) 1) (lf runS)
    let auto : Bool := false
    let tagOk : Bool := true
    let sigOk : Bool := false
    let l := s.load
    let full := l.kind = 1
    let part := l.kind = 2
    let comes := fun (ws : List Word) => bodyWords s 1 (ws.take 1) = (([ws.headD 0], 0), s) ∧
        bodyWords s ws.length ws = ((ws, 0), s) ∧ l.off + 5 * ws.length ≤ bodyLen s
    let word := fun (op arg : Nat) => BitVec.ofNat 40 (op * 2 ^ 32 + arg)
    let short := l.off + 5 ≠ bodyLen s ∨ l.frames ≠ hbits l.hdr 4 31 0
    let tagBad := hdrEnc l.hdr = true ∧ tagOk = false
    let sigBad := hdrSig l.hdr = true ∧ sigOk = false
    (full ∨ part) ∧ l.waking = false ∧ s.fld F.CFG_CTRL.CROWN_EN = 0 ∧ l.zone < 64 ∧ l.phase = 3 ∧ (l.src = 3 → l.stream = true) ∧ l.hdr ≠ [] ∧ l.fwd = false ∧ comes [word 15 (flag auto)] ∧ (part ∨ auto = false) ∧ ¬short ∧ ¬tagBad ∧ sigBad) ∧
    (let s : State := ld (b3 (hE 1) 1) (lf runS)
    let auto : Bool := false
    let tagOk : Bool := false
    let sigOk : Bool := false
    let l := s.load
    let full := l.kind = 1
    let part := l.kind = 2
    let comes := fun (ws : List Word) => bodyWords s 1 (ws.take 1) = (([ws.headD 0], 0), s) ∧
        bodyWords s ws.length ws = ((ws, 0), s) ∧ l.off + 5 * ws.length ≤ bodyLen s
    let word := fun (op arg : Nat) => BitVec.ofNat 40 (op * 2 ^ 32 + arg)
    let short := l.off + 5 ≠ bodyLen s ∨ l.frames ≠ hbits l.hdr 4 31 0
    let tagBad := hdrEnc l.hdr = true ∧ tagOk = false
    let sigBad := hdrSig l.hdr = true ∧ sigOk = false
    (full ∨ part) ∧ l.waking = false ∧ s.fld F.CFG_CTRL.CROWN_EN = 0 ∧ l.zone < 64 ∧ l.phase = 3 ∧ (l.src = 3 → l.stream = true) ∧ l.hdr ≠ [] ∧ l.fwd = false ∧ comes [word 15 (flag auto)] ∧ full ∧ auto = false ∧ ¬short ∧ ¬tagBad ∧ ¬sigBad) ∧
    (let s : State := ld { b3 (hE 2) 2 with wregs := [(0x11, 77)] } (P runS)
    let auto : Bool := false
    let tagOk : Bool := false
    let sigOk : Bool := false
    let l := s.load
    let full := l.kind = 1
    let part := l.kind = 2
    let comes := fun (ws : List Word) => bodyWords s 1 (ws.take 1) = (([ws.headD 0], 0), s) ∧
        bodyWords s ws.length ws = ((ws, 0), s) ∧ l.off + 5 * ws.length ≤ bodyLen s
    let word := fun (op arg : Nat) => BitVec.ofNat 40 (op * 2 ^ 32 + arg)
    let short := l.off + 5 ≠ bodyLen s ∨ l.frames ≠ hbits l.hdr 4 31 0
    let tagBad := hdrEnc l.hdr = true ∧ tagOk = false
    let sigBad := hdrSig l.hdr = true ∧ sigOk = false
    (full ∨ part) ∧ l.waking = false ∧ s.fld F.CFG_CTRL.CROWN_EN = 0 ∧ l.zone < 64 ∧ l.phase = 3 ∧ (l.src = 3 → l.stream = true) ∧ l.hdr ≠ [] ∧ l.fwd = false ∧ comes [word 15 (flag auto)] ∧ part ∧ ¬short ∧ ¬tagBad ∧ ¬sigBad) :=
  ⟨by decide +kernel, by decide +kernel, by decide +kernel, by decide +kernel, by decide +kernel, by decide +kernel, by decide +kernel, by decide +kernel, ⟨by decide +kernel, by decide +kernel, by decide +kernel, by decide +kernel, by decide +kernel, by decide +kernel, by decide +kernel, by decide +kernel, by decide +kernel, List.length_replicate, frame_comes _ rfl _ (by rw [List.length_append, List.length_cons, List.length_replicate]; rfl) (by decide +kernel), fun h => absurd (crc32c_lt _ (bytes_lt _)) (by rw [← h]; decide)⟩, ⟨by decide +kernel, by decide +kernel, by decide +kernel, by decide +kernel, by decide +kernel, by decide +kernel, by decide +kernel, by decide +kernel, by decide +kernel, List.length_replicate, frame_comes _ rfl _ (by rw [List.length_append, List.length_cons, List.length_replicate]; rfl) (by decide +kernel), by rw [BitVec.toNat_ofNat]; exact Nat.mod_eq_of_lt (Nat.lt_trans (crc32c_lt _ (bytes_lt _)) (by decide))⟩, by decide +kernel, by decide +kernel, by decide +kernel, by decide +kernel, by decide +kernel, by decide +kernel, by decide +kernel, by decide +kernel, by decide +kernel, by decide +kernel, by decide +kernel, by decide +kernel, by decide +kernel, by decide +kernel, by decide +kernel, by decide +kernel⟩

end Sys2Proof.Tests.StreamCommandsTakeEffectInOrder

namespace Sys2Proof.Tests.LoadsFinishAndFusesProgram

def k1 (p : Nat) (s : State) : State := ld { kind := 1, phase := p, src := 2, hdr := [0x0110001000, 0, 0, 0, 0, 0, 0, 0, 0, 0, 0, 0] } (f0 F.CFG_CTRL.CROWN_EN 0 { s with mode := .loading })
def bs (n : Nat) := f0 F.CFG_STATUS.BOOT_SRC n
def done (s : State) := f0 F.CFG_STATUS.DONE_OUT 1 (f0 F.CFG_STATUS.DONE_IN 1 s)
def dA (n : Nat) (s : State) : State := { s with load := { s.load with doneAt := n } }
def sm := f0 F.CFG_CTRL.START_MODE
def at_ (sec fr : Nat) (s : State) : State := (s.setReg .CFG_START_SEC 0 0 (BitVec.ofNat 40 sec)).setReg .CFG_START_FRAC 0 0 (BitVec.ofNat 40 fr)
def strm (s : State) : State := { s with load := { s.load with stream := true, src := 3 } }
def wait (s : State) : State := { s with load := { s.load with waitStart := true, src := 3 } }
def blank : State := { runS with mode := .blank }
def fz (fu : FuseSt) (s : State) : State := [0,1,2,9].foldl (fun s i => s.setReg .CFG_FUSE_DATA 0 i (BitVec.ofNat 40 (77+i))) { s with fuse := fu }

/-- The hypotheses of Obligations.LoadsFinishAndFusesProgram. -/
theorem witness : (let s : State := runS
    let l := s.load
    ¬(l.kind = 1 ∧ l.phase = 4)) ∧
    (let s : State := k1 4 runS
    let l := s.load
    l.kind = 1 ∧ l.phase = 4) ∧
    (let s : State := k1 4 { runS with ret := { valid := true } }
    s.ret.valid = true) ∧
    (let s : State := runS
    s.ret.valid = false) ∧
    (let s : State := f0 F.CFG_STATUS.DONE_OUT 1 runS
    s.fld F.CFG_STATUS.DONE_OUT = 1 ∧ s.fld F.CFG_STATUS.DONE_IN = 0) ∧
    (let s : State := runS
    (s.fld F.CFG_STATUS.DONE_OUT = 0 ∨ s.fld F.CFG_STATUS.DONE_IN = 1)) ∧
    (let s : State := runS
    let l := s.load
    (l.kind ≠ 1 ∨ l.phase ≠ 5 ∨ s.fld F.CFG_STATUS.DONE_IN = 0 ∨ s.time.start ≠ none)) ∧
    (let s : State := dA (4*10^9) (done (k1 5 runS))
    let l := s.load
    l.kind = 1 ∧ l.phase = 5 ∧ s.fld F.CFG_STATUS.DONE_IN = 1 ∧ s.time.start = none ∧ s.fld F.CFG_CTRL.START_MODE = 0) ∧
    (let s : State := sm 1 (dA (4*10^9) (done (k1 5 runS)))
    let l := s.load
    let at_ := (s.reg .CFG_START_SEC).toNat * 1024000000000 + (s.reg .CFG_START_FRAC).toNat
    l.kind = 1 ∧ l.phase = 5 ∧ s.fld F.CFG_STATUS.DONE_IN = 1 ∧ s.time.start = none ∧ s.fld F.CFG_CTRL.START_MODE = 1 ∧ at_ < l.doneAt + 2000 * 1024) ∧
    (let s : State := sm 1 (at_ 0 (4*10^9+2000*1024) (dA (4*10^9) (done (k1 5 runS))))
    let l := s.load
    let at_ := (s.reg .CFG_START_SEC).toNat * 1024000000000 + (s.reg .CFG_START_FRAC).toNat
    l.kind = 1 ∧ l.phase = 5 ∧ s.fld F.CFG_STATUS.DONE_IN = 1 ∧ s.time.start = none ∧ s.fld F.CFG_CTRL.START_MODE = 1 ∧ l.doneAt + 2000 * 1024 ≤ at_ ∧ at_ ≤ s.instant) ∧
    (let s : State := sm 1 (at_ 1 0 (dA (4*10^9) (done (k1 5 runS))))
    let l := s.load
    let at_ := (s.reg .CFG_START_SEC).toNat * 1024000000000 + (s.reg .CFG_START_FRAC).toNat
    l.kind = 1 ∧ l.phase = 5 ∧ s.fld F.CFG_STATUS.DONE_IN = 1 ∧ s.time.start = none ∧ s.fld F.CFG_CTRL.START_MODE = 1 ∧ l.doneAt + 2000 * 1024 ≤ at_ ∧ s.instant < at_) ∧
    (let s : State := runS
    let boot := s.fld F.CFG_STATUS.BOOT_SRC
    boot ≠ 2 ∧ boot ≠ 3) ∧
    (let s : State := bs 3 (wait (k1 2 runS))
    let l := s.load
    let boot := s.fld F.CFG_STATUS.BOOT_SRC
    (boot = 2 ∨ boot = 3) ∧ l.kind = 1 ∧ l.waitStart = true ∧ l.phase = 2) ∧
    (let s : State := bs 2 (k1 2 runS)
    let l := s.load
    let boot := s.fld F.CFG_STATUS.BOOT_SRC
    (boot = 2 ∨ boot = 3) ∧ l.kind = 1 ∧ (l.waitStart = false ∨ l.phase ≠ 2)) ∧
    (let s : State := bs 2 (running blank)
    let l := s.load
    let boot := s.fld F.CFG_STATUS.BOOT_SRC
    (boot = 2 ∨ boot = 3) ∧ l.kind = 0 ∧ s.mode = .blank ∧ l.fwd = false ∧ allRun s = true ∧ s.time.running = true) ∧
    (let s : State := runS
    let l := s.load
    l.stream = false) ∧
    (let s : State := runS
    let l := s.load
    l.stream = false) ∧
    (let s : State := strm (k1 3 runS)
    let l := s.load
    l.stream = true ∧ l.kind = 1 ∧ l.waking = false ∧ s.fld F.CFG_CTRL.CROWN_EN = 0) ∧
    (let s : State := strm (k1 3 runS)
    let l := s.load
    l.stream = true ∧ l.kind = 1 ∧ l.waking = false ∧ s.fld F.CFG_CTRL.CROWN_EN = 0 ∧ l.phase = 3) ∧
    (let s : State := strm (k1 2 runS)
    let l := s.load
    l.stream = true ∧ l.kind = 1 ∧ l.waking = false ∧ s.fld F.CFG_CTRL.CROWN_EN = 0 ∧ l.phase = 2) ∧
    (let s : State := strm (k1 4 runS)
    let l := s.load
    l.stream = true ∧ l.kind = 1 ∧ l.waking = false ∧ s.fld F.CFG_CTRL.CROWN_EN = 0 ∧ (l.phase = 4 ∨ l.phase = 5)) ∧
    (let s : State := runS
    let boot := s.fld F.CFG_STATUS.BOOT_SRC
    boot ≠ 3) ∧
    (let s : State := bs 3 (wait (k1 2 runS))
    let l := s.load
    let boot := s.fld F.CFG_STATUS.BOOT_SRC
    boot = 3 ∧ l.kind = 1 ∧ l.waitStart = true) ∧
    (let s : State := runS
    s.fuse.pending = none) ∧
    (let s : State := fz { pending := some (0x13, 7) } blank
    let k := 19
    let v := 7
    s.fuse.pending = some (k, v) ∧ k ≤ 0x13) :=
  ⟨by decide +kernel, by decide +kernel, by decide +kernel, by decide +kernel, by decide +kernel, by decide +kernel, by decide +kernel, by decide +kernel, by decide +kernel, by decide +kernel, by decide +kernel, by decide +kernel, by decide +kernel, by decide +kernel, by decide +kernel, by decide +kernel, by decide +kernel, by decide +kernel, by decide +kernel, by decide +kernel, by decide +kernel, by decide +kernel, by decide +kernel, by decide +kernel, by decide +kernel⟩

end Sys2Proof.Tests.LoadsFinishAndFusesProgram

namespace Sys2Proof.Tests.ZoneCommandsStartIsolateAndRestore

def st := zf F.CFG_ZONE.STATE
def ab := zf F.CFG_ZONE.PARTIAL_ABORT 1

/-- The hypotheses of Obligations.ZoneCommandsStartIsolateAndRestore. -/
theorem witness : (let s : State := runS
    let r : Region := 0
    let z : Fin 16 := 0
    let st := s.fld F.CFG_ZONE.STATE r z
    st = 0) ∧
    (let s : State := ab (st 2 (zz {rect := R} runS))
    let r : Region := 0
    let z : Fin 16 := 0
    let zi := 16 * r.val + z.val
    let st := s.fld F.CFG_ZONE.STATE r z
    let v := s.zone zi
    let refused := st = 3 ∨ s.fld F.CFG_ZONE.PARTIAL_ABORT r z = 1 ∨ v.zreset = true
    st ≠ 0 ∧ refused) ∧
    (let s : State := st 1 (zz {rect := R} runS)
    let r : Region := 0
    let z : Fin 16 := 0
    let zi := 16 * r.val + z.val
    let st := s.fld F.CFG_ZONE.STATE r z
    let v := s.zone zi
    let refused := st = 3 ∨ s.fld F.CFG_ZONE.PARTIAL_ABORT r z = 1 ∨ v.zreset = true
    st = 1 ∧ ¬refused) ∧
    (let s : State := st 2 (zz {rect := R} runS)
    let r : Region := 0
    let z : Fin 16 := 0
    let zi := 16 * r.val + z.val
    let st := s.fld F.CFG_ZONE.STATE r z
    let v := s.zone zi
    let refused := st = 3 ∨ s.fld F.CFG_ZONE.PARTIAL_ABORT r z = 1 ∨ v.zreset = true
    st = 2 ∧ ¬refused) ∧
    (let s : State := st 1 (zz {rect := R} runS)
    let r : Region := 0
    let z : Fin 16 := 0
    let st := s.fld F.CFG_ZONE.STATE r z
    st = 1 ∧ s.mode ≠ .frozen) ∧
    (let s : State := st 1 (zz {rect := R} { runS with mode := .frozen })
    let r : Region := 0
    let z : Fin 16 := 0
    let st := s.fld F.CFG_ZONE.STATE r z
    st = 1 ∧ s.mode = .frozen) ∧
    (let s : State := st 2 (zz {rect := R} runS)
    let r : Region := 0
    let z : Fin 16 := 0
    let st := s.fld F.CFG_ZONE.STATE r z
    2 ≤ st) ∧
    (let s : State := st 1 (zz {rect := R} runS)
    let r : Region := 0
    let z : Fin 16 := 0
    let st := s.fld F.CFG_ZONE.STATE r z
    st ≠ 0 ∧ st ≠ 2) ∧
    (let s : State := st 2 (zz {rect := R, restoring := 1} runS)
    let r : Region := 0
    let z : Fin 16 := 0
    let zi := 16 * r.val + z.val
    let st := s.fld F.CFG_ZONE.STATE r z
    let v := s.zone zi
    st = 2 ∧ (v.restoring ≠ 0 ∨ v.zreset = true)) ∧
    (let s : State := st 2 (zz {rect := R} runS)
    let r : Region := 0
    let z : Fin 16 := 0
    let zi := 16 * r.val + z.val
    let st := s.fld F.CFG_ZONE.STATE r z
    let v := s.zone zi
    st = 2 ∧ v.restoring = 0 ∧ v.zreset = false) ∧
    (let s : State := st 2 (zz {rect := R} runS)
    let r : Region := 0
    let z : Fin 16 := 0
    let zi := 16 * r.val + z.val
    let st := s.fld F.CFG_ZONE.STATE r z
    let v := s.zone zi
    st = 2 ∧ v.restoring = 0 ∧ v.zreset = false ∧ s.fld F.CFG_STATUS.RET_DONE = 0) ∧
    (let s : State := (st 2 (zz {rect := R} runS)).setFld F.CFG_STATUS.RET_DONE 0 0 1
    let r : Region := 0
    let z : Fin 16 := 0
    let zi := 16 * r.val + z.val
    let st := s.fld F.CFG_ZONE.STATE r z
    let v := s.zone zi
    st = 2 ∧ v.restoring = 0 ∧ v.zreset = false ∧ s.fld F.CFG_STATUS.RET_DONE = 1) ∧
    (let s : State := runS
    let r : Region := 0
    let z : Fin 16 := 0
    let zi := 16 * r.val + z.val
    let v := s.zone zi
    (v.restoring = 0 ∨ v.zreset = true)) ∧
    (let s : State := st 2 (zz {rect := R, restoring := 1} runS)
    let r : Region := 0
    let z : Fin 16 := 0
    let zi := 16 * r.val + z.val
    let st := s.fld F.CFG_ZONE.STATE r z
    let v := s.zone zi
    st = 2 ∧ v.restoring = 1 ∧ v.zreset = false) ∧
    (let s : State := st 3 (zz {rect := R, restoring := 1, thenStart := true} { runS with load := { kind := 2, phase := 4, zone := 9, hdr := [1] } })
    let r : Region := 0
    let z : Fin 16 := 0
    let zi := 16 * r.val + z.val
    let st := s.fld F.CFG_ZONE.STATE r z
    let v := s.zone zi
    st = 3 ∧ v.restoring = 1 ∧ v.zreset = false ∧ s.load.kind = 2 ∧ s.load.phase = 4) :=
  ⟨by decide +kernel, by decide +kernel, by decide +kernel, by decide +kernel, by decide +kernel, by decide +kernel, by decide +kernel, by decide +kernel, by decide +kernel, by decide +kernel, by decide +kernel, by decide +kernel, by decide +kernel, by decide +kernel, by decide +kernel⟩

end Sys2Proof.Tests.ZoneCommandsStartIsolateAndRestore

namespace Sys2Proof.Tests.PowerRequestsAreJudged

def wk (s : State) : State := g F.PWR_WAKE_PEND.PEND 0x90 (g F.PWR_WAKE_EN.EN 0x7F s)

/-- The hypotheses of Obligations.PowerRequestsAreJudged. -/
theorem witness : (let s : State := State.reset
    let st : Nat := 0
    let allowed := s.mode ≠ .blank ∧ s.mode ≠ .loading ∧ s.mode ≠ .frozen ∧ s.mode ≠ .test
    st < 4 ∧ ¬allowed) ∧
    (let s : State := di 1 3 (g F.PWR_STAT.DELAY 6 (pw {goal := 2} runS))
    let r : Region := 0
    let st : Nat := 1
    let allowed := s.mode ≠ .blank ∧ s.mode ≠ .loading ∧ s.mode ≠ .frozen ∧ s.mode ≠ .test
    st < 4 ∧ allowed ∧ (s.pdir r ≠ 0 ∨ busyDevice s = true) ∧ (st ≠ 0 ∨ s.pdir r = 0)) ∧
    (let s : State := di 1 3 (g F.PWR_STAT.DELAY 6 (pw {goal := 2} runS))
    let r : Region := 0
    let st : Nat := 0
    let allowed := s.mode ≠ .blank ∧ s.mode ≠ .loading ∧ s.mode ≠ .frozen ∧ s.mode ≠ .test
    st < 4 ∧ allowed ∧ st = 0 ∧ s.pdir r = 1) ∧
    (let s : State := di 2 10 runS
    let r : Region := 0
    let st : Nat := 0
    let allowed := s.mode ≠ .blank ∧ s.mode ≠ .loading ∧ s.mode ≠ .frozen ∧ s.mode ≠ .test
    st < 4 ∧ allowed ∧ st = 0 ∧ 1 < s.pdir r) ∧
    (let s : State := runS
    let r : Region := 0
    let st : Nat := 0
    let allowed := s.mode ≠ .blank ∧ s.mode ≠ .loading ∧ s.mode ≠ .frozen ∧ s.mode ≠ .test
    st < 4 ∧ allowed ∧ s.pdir r = 0 ∧ busyDevice s = false ∧ s.pstateR r = st) ∧
    (let s : State := ps 1 { runS with mode := .idle}
    let r : Region := 0
    let st : Nat := 2
    let allowed := s.mode ≠ .blank ∧ s.mode ≠ .loading ∧ s.mode ≠ .frozen ∧ s.mode ≠ .test
    st < 4 ∧ allowed ∧ s.pdir r = 0 ∧ busyDevice s = false ∧ s.pstateR r ≠ st ∧ s.pstateR r ≠ 0 ∧ st ≠ 0) ∧
    (let s : State := ps 1 { runS with mode := .idle}
    let r : Region := 0
    let st : Nat := 0
    let allowed := s.mode ≠ .blank ∧ s.mode ≠ .loading ∧ s.mode ≠ .frozen ∧ s.mode ≠ .test
    st < 4 ∧ allowed ∧ s.pdir r = 0 ∧ busyDevice s = false ∧ s.pstateR r ≠ 0 ∧ st = 0) ∧
    (let s : State := wk runS
    let r : Region := 0
    let st : Nat := 1
    let k := 4
    let allowed := s.mode ≠ .blank ∧ s.mode ≠ .loading ∧ s.mode ≠ .frozen ∧ s.mode ≠ .test
    st < 4 ∧ allowed ∧ s.pdir r = 0 ∧ busyDevice s = false ∧ s.pstateR r = 0 ∧ st ≠ 0 ∧ pendingWake s r = some k) ∧
    (let s : State := running runS
    let r : Region := 0
    let st : Nat := 1
    let allowed := s.mode ≠ .blank ∧ s.mode ≠ .loading ∧ s.mode ≠ .frozen ∧ s.mode ≠ .test
    st < 4 ∧ allowed ∧ s.pdir r = 0 ∧ busyDevice s = false ∧ s.pstateR r = 0 ∧ st ≠ 0 ∧ pendingWake s r = none ∧ s.time.running = true) ∧
    (let s : State := runS
    let r : Region := 0
    let st : Nat := 1
    let allowed := s.mode ≠ .blank ∧ s.mode ≠ .loading ∧ s.mode ≠ .frozen ∧ s.mode ≠ .test
    st < 4 ∧ allowed ∧ s.pdir r = 0 ∧ busyDevice s = false ∧ s.pstateR r = 0 ∧ st ≠ 0 ∧ pendingWake s r = none ∧ s.time.running = false) ∧
    (let s : State := running runS
    let st : Nat := 1
    let allowed := s.mode ≠ .blank ∧ s.mode ≠ .loading ∧ s.mode ≠ .frozen ∧ s.mode ≠ .test
    st < 4 ∧ allowed ∧ busyDevice s = false ∧ s.time.running = true ∧ st ≠ 0 ∧ (∀ k : Fin 4, s.pdir k = 0 ∧ s.pstateR k = 0 ∧ pendingWake s k = none)) :=
  ⟨by decide +kernel, by decide +kernel, by decide +kernel, by decide +kernel, by decide +kernel, by decide +kernel, by decide +kernel, by decide +kernel, by decide +kernel, by decide +kernel, by decide +kernel⟩

end Sys2Proof.Tests.PowerRequestsAreJudged

namespace Sys2Proof.Tests.EntriesStepAndRailsSettle

def en (n : Nat) (gl : Nat) (s : State) : State := di 1 n (pw { goal := gl } s)
def enF (n : Nat) (gl : Nat) (s : State) : State := di 1 n (pw { goal := gl, fabOff := true, procOff := true } s)
def lateS (s : State) := s.setFld F.PWR_CTRL.ENTRY_TIMEOUT 0 0 1 |>.setFld F.PWR_CTRL.ENTRY_TIMEOUT 3 0 1
def prst (v : ProcSt) (s : State) : State := { s with procs := [(0, v), (48, v), (67, v)] }

/-- The hypotheses of Obligations.EntriesStepAndRailsSettle. -/
theorem witness : (let s : State := runS
    let r : Region := 0
    s.net.waitReq = [] ∧ s.net.accepted = [] ∧ s.pdir r ≠ 1 ∧ s.pdir r ≠ 3) ∧
    (let s : State := g F.SUP_STATUS.STATE 1 { en 3 2 runS with procs := [(64, { net := .fence }), (67, { net := .fence })] }
    let r : Region := 0
    let v := s.pw r
    let step := s.fld F.PWR_STAT.STEP r
    s.net.waitReq = [] ∧ s.net.accepted = [] ∧ s.pdir r = 1 ∧ v.goal < 4 ∧ step = 3 ∧ v.procOff = false ∧ procsStop s r = false) ∧
    (let s : State := g F.SE_STATUS.STATE 1 (prst { slots := 2 } ((en 3 2 runS)))
    let r : Region := 3
    let v := s.pw r
    let step := s.fld F.PWR_STAT.STEP r
    s.net.waitReq = [] ∧ s.net.accepted = [] ∧ s.pdir r = 1 ∧ v.goal < 4 ∧ step = 3 ∧ v.procOff = false ∧ procsStop s r = true) ∧
    (let s : State := en 2 1 runS
    let r : Region := 0
    let v := s.pw r
    let step := s.fld F.PWR_STAT.STEP r
    let d := entryDelay s r v.goal
    let polled := step ≠ 3 ∨ v.procOff = true
    s.net.waitReq = [] ∧ s.net.accepted = [] ∧ s.pdir r = 1 ∧ v.goal < 4 ∧ polled ∧ d ≠ 0) ∧
    (let s : State := en 2 1 runS
    let r : Region := 0
    let v := s.pw r
    let step := s.fld F.PWR_STAT.STEP r
    let polled := step ≠ 3 ∨ v.procOff = true
    s.net.waitReq = [] ∧ s.net.accepted = [] ∧ s.pdir r = 1 ∧ v.goal < 4 ∧ polled ∧ step = 2 ∧ v.fabOff = false) ∧
    (let s : State := g F.SE_DMA_STAT.BUSY 1 (enF 3 2 runS) |>.setFld F.SE_DMA_STAT.BUSY 50 1 1
    let r : Region := 0
    let v := s.pw r
    let step := s.fld F.PWR_STAT.STEP r
    let polled := step ≠ 3 ∨ v.procOff = true
    s.net.waitReq = [] ∧ s.net.accepted = [] ∧ s.pdir r = 1 ∧ v.goal < 4 ∧ polled ∧ step = 3 ∧ dmaBusy s r = true) ∧
    (let s : State := { enF 3 3 runS with trc := [(0, {ringWait := 1}), (3, {ringWait := 1})] }
    let r : Region := 0
    let v := s.pw r
    let step := s.fld F.PWR_STAT.STEP r
    let polled := step ≠ 3 ∨ v.procOff = true
    s.net.waitReq = [] ∧ s.net.accepted = [] ∧ s.pdir r = 1 ∧ v.goal < 4 ∧ polled ∧ step = 3 ∧ traceBusy s r = true) ∧
    (let s : State := { enF 4 3 runS with heats := [(3, { closing := [] , heat := some { seq := 7, base := 0x40000, evb := 0, capOut := 1000, fabric := false, unit := 5, tap := 3, felt := false, decim := 4, whold := false, event := 127, stamp := 4, frac := 0, mapped := true, servo := 1, trigE := 99950, pre := 100, post := 20, firstE := 99850, firstT := 3, stride := 4, next := 99850 }})] }
    let r : Region := 0
    let v := s.pw r
    let step := s.fld F.PWR_STAT.STEP r
    s.net.waitReq = [] ∧ s.net.accepted = [] ∧ s.pdir r = 1 ∧ v.goal < 4 ∧ step = 4 ∧ (heatBusy s r = true ∨ arcBusy s r = true ∨ initBusy s r = true)) ∧
    (let s : State := enF 5 2 runS
    let r : Region := 0
    let v := s.pw r
    let step := s.fld F.PWR_STAT.STEP r
    s.net.waitReq = [] ∧ s.net.accepted = [] ∧ s.pdir r = 1 ∧ v.goal < 4 ∧ step = 5 ∧ (∃ n ∈ stateNodes r v.goal, nodeState s n ≠ 2)) ∧
    (let s : State := di 1 7 (pw { goal := 3, procOff := true, fabOff := true, rails := [3, 17] } runS)
    let r : Region := 0
    let v := s.pw r
    let step := s.fld F.PWR_STAT.STEP r
    s.net.waitReq = [] ∧ s.net.accepted = [] ∧ s.pdir r = 1 ∧ v.goal < 4 ∧ step = 7 ∧ v.rails ≠ []) ∧
    (let s : State := enF 4 2 runS
    let r : Region := 0
    let v := s.pw r
    let step := s.fld F.PWR_STAT.STEP r
    let d := entryDelay s r v.goal
    let polled := step ≠ 3 ∨ v.procOff = true
    s.net.waitReq = [] ∧ s.net.accepted = [] ∧ s.pdir r = 1 ∧ v.goal < 4 ∧ polled ∧ d = 0 ∧ (step = 2 ∨ (step = 3 ∧ v.goal ≠ 1) ∨ step = 4)) ∧
    (let s : State := enF 3 1 runS
    let r : Region := 0
    let v := s.pw r
    let step := s.fld F.PWR_STAT.STEP r
    let d := entryDelay s r v.goal
    let polled := step ≠ 3 ∨ v.procOff = true
    s.net.waitReq = [] ∧ s.net.accepted = [] ∧ s.pdir r = 1 ∧ v.goal < 4 ∧ polled ∧ d = 0 ∧ (step = 5 ∨ (step = 3 ∧ v.goal = 1))) ∧
    (let s : State := enF 6 3 runS
    let r : Region := 0
    let v := s.pw r
    let step := s.fld F.PWR_STAT.STEP r
    let d := entryDelay s r v.goal
    s.net.waitReq = [] ∧ s.net.accepted = [] ∧ s.pdir r = 1 ∧ v.goal < 4 ∧ d = 0 ∧ step = 6 ∧ v.goal = 3) ∧
    (let s : State := enF 6 1 runS
    let r : Region := 0
    let v := s.pw r
    let step := s.fld F.PWR_STAT.STEP r
    let d := entryDelay s r v.goal
    s.net.waitReq = [] ∧ s.net.accepted = [] ∧ s.pdir r = 1 ∧ v.goal < 4 ∧ d = 0 ∧ (step = 7 ∨ (step = 6 ∧ v.goal ≠ 3))) ∧
    (let s : State := di 3 2 (pw { goal := 3, procOff := true, result := 5 } runS)
    let r : Region := 0
    let v := s.pw r
    let step := s.fld F.PWR_STAT.STEP r
    s.net.waitReq = [] ∧ s.net.accepted = [] ∧ s.pdir r = 3 ∧ step ≤ 2 ∧ v.result < 16 ∧ s.load.waking = false ∧ s.rst.warm ≠ 1) ∧
    (let s : State := g F.SE_STATUS.STATE 1 (prst { slots := 2 } ((en 3 2 runS)))
    let r : Region := 0
    let v := s.pw r
    let lim := s.fld F.PWR_CTRL.ENTRY_TIMEOUT
    let due := s.pdir r = 1 ∧ lim ≠ 0 ∧ v.began + lim * 1024000 ≤ s.instant
    s.net.waitReq = [] ∧ s.net.accepted = [] ∧ ¬due) ∧
    (let s : State := lateS (enF 5 2 runS)
    let r : Region := 0
    let v := s.pw r
    let lim := s.fld F.PWR_CTRL.ENTRY_TIMEOUT
    let due := s.pdir r = 1 ∧ lim ≠ 0 ∧ v.began + lim * 1024000 ≤ s.instant
    s.net.waitReq = [] ∧ s.net.accepted = [] ∧ due) ∧
    (let s : State := g F.SE_STATUS.STATE 1 (prst { slots := 2 } ((en 3 2 runS)))
    let rail : Fin 64 := 20
    s.net.waitReq = [] ∧ s.net.accepted = [] ∧ 20 ≤ rail.val) ∧
    (let s : State := pw { rails := [0, 3, 8, 17, 19], good := [3, 0, 19] } runS
    let r : Region := 0
    let rail : Fin 64 := 0
    s.net.waitReq = [] ∧ s.net.accepted = [] ∧ railRegion rail = some r.val) ∧
    (let s : State := g F.SE_STATUS.STATE 1 (prst { slots := 2 } ((en 3 2 runS)))
    let rail : Fin 64 := 20
    s.net.waitReq = [] ∧ s.net.accepted = [] ∧ 20 ≤ rail.val) ∧
    (let s : State := g F.SE_STATUS.STATE 1 (prst { slots := 2 } ((en 3 2 runS)))
    let r : Region := 0
    let rail : Fin 64 := 0
    let v := s.pw r
    s.net.waitReq = [] ∧ s.net.accepted = [] ∧ railRegion rail = some r.val ∧ rail.val ∉ v.rails) ∧
    (let s : State := g F.PWR_STAT.EVT 7 (di 2 9 (ps 3 (pw { rails := [0, 3, 8, 17, 19], retried := [3, 0, 19] } runS)))
    let r : Region := 0
    let rail : Fin 64 := 0
    let v := s.pw r
    s.net.waitReq = [] ∧ s.net.accepted = [] ∧ railRegion rail = some r.val ∧ rail.val ∈ v.rails) :=
  ⟨by decide +kernel, by decide +kernel, by decide +kernel, by decide +kernel, by decide +kernel, by decide +kernel, by decide +kernel, by decide +kernel, by decide +kernel, by decide +kernel, by decide +kernel, by decide +kernel, by decide +kernel, by decide +kernel, by decide +kernel, by decide +kernel, by decide +kernel, by decide +kernel, by decide +kernel, by decide +kernel, by decide +kernel, by decide +kernel⟩

end Sys2Proof.Tests.EntriesStepAndRailsSettle

namespace Sys2Proof.Tests.WakesExitAndLanesFollow

def wke (m : Nat) (s : State) : State := g F.PWR_WAKE_EN.EN m s
def lnw (s : State) : State := { s with lanes := [(5, { waking := true }), (41, { waking := true })] }

/-- The hypotheses of Obligations.WakesExitAndLanesFollow. -/
theorem witness : (let s : State := runS
    let r : Region := 0
    s.pdir r ≠ 2) ∧
    (let s : State := di 2 9 (ps 3 (pw { rails := [0, 3]} runS))
    let r : Region := 0
    let v := s.pw r
    let step := s.fld F.PWR_STAT.STEP r
    s.pdir r = 2 ∧ step = 9 ∧ v.rails ≠ []) ∧
    (let s : State := di 2 9 (ps 3 runS)
    let r : Region := 0
    let v := s.pw r
    let step := s.fld F.PWR_STAT.STEP r
    s.pdir r = 2 ∧ step = 9 ∧ v.rails = []) ∧
    (let s : State := di 2 10 (ps 1 runS)
    let r : Region := 0
    let step := s.fld F.PWR_STAT.STEP r
    s.pdir r = 2 ∧ step = 10 ∧ s.pstateR r = 1) ∧
    (let s : State := wke 0x7F (di 2 10 (ps 2 runS))
    let r : Region := 0
    let step := s.fld F.PWR_STAT.STEP r
    s.pdir r = 2 ∧ step = 10 ∧ s.pstateR r ≠ 1) ∧
    (let s : State := di 2 11 (ps 2 (lnw runS))
    let r : Region := 0
    let step := s.fld F.PWR_STAT.STEP r
    s.pdir r = 2 ∧ step = 11 ∧ lanesWake s r = true) ∧
    (let s : State := di 2 11 (ps 3 runS)
    let r : Region := 0
    let step := s.fld F.PWR_STAT.STEP r
    s.pdir r = 2 ∧ ((step = 11 ∧ lanesWake s r = false) ∨ step = 12)) ∧
    (let s : State := di 2 13 (ps 3 (pw { began := 10^9, runReq := true, procOff := true, fabOff := true } runS))
    let r : Region := 0
    let step := s.fld F.PWR_STAT.STEP r
    s.pdir r = 2 ∧ step = 13 ∧ s.load.waking = false ∧ s.rst.warm ≠ 1) :=
  ⟨by decide +kernel, by decide +kernel, by decide +kernel, by decide +kernel, by decide +kernel, by decide +kernel, by decide +kernel, by decide +kernel⟩

end Sys2Proof.Tests.WakesExitAndLanesFollow

namespace Sys2Proof.Tests.ResetsOfUnitsRunTheirSequence

def runS : State := { State.reset with mode := .run, time := { State.reset.time with now := 5*10^9, running := true, step := 3, strideNum := 9, tsFifo := [⟨1,true,2,3,4⟩] }, guns := [{ region := 0, cls := 4, index := 3, action := 0x30, tag := 7, time := 6*10^9, arg := 1 }, { region := 3, cls := 4, index := 3, action := 0x30, tag := 7, time := 6*10^9, arg := 1 }] }
def g (f : Fld) (v : Nat) (s : State) : State := [0,1,2,3].foldl (fun s c => s.setFld f c 0 v) s
def rs (v : RstSt) (s : State) : State := { s with rst := v }
def er (s : State) : State := { s with procs := (List.range 68).map fun p => (p, { eRst := true }) }
def wd (s : State) := g F.SUP_WDOG.EN 1 (g F.SUP_WDOG.TIMEOUT 5 s)

/-- The hypotheses of Obligations.ResetsOfUnitsRunTheirSequence. -/
theorem witness : (let s : State := rs { cold := true } runS
    let guard := s.rst.warm ≠ 0 ∨ s.rst.cold = true
    s.net.waitReq = [] ∧ s.net.accepted = [] ∧ guard) ∧
    (let s : State := { runS with guns := [{ region := 5, cls := 4, index := 3, action := 0x30, tag := 7, time := 6*10^9, arg := 1 }] }
    let guard := s.rst.warm ≠ 0 ∨ s.rst.cold = true
    s.net.waitReq = [] ∧ s.net.accepted = [] ∧ ¬guard ∧ s.load.kind = 0 ∧ allRun s = true) ∧
    (let s : State := (runS.setFld F.PWR_STAT.STATE 2 0 3).setFld F.PWR_STAT.DIR 1 0 1
    let r : Region := 2
    let guard := s.rst.warm ≠ 0 ∨ s.rst.cold = true
    s.net.waitReq = [] ∧ s.net.accepted = [] ∧ ¬guard ∧ s.load.kind = 0 ∧ s.pdir r = 0 ∧ s.pstateR r ≠ 0) ∧
    (let s : State := { runS with guns := [{ region := 5, cls := 4, index := 3, action := 0x30, tag := 7, time := 6*10^9, arg := 1 }] }
    s.net.waitReq = [] ∧ s.net.accepted = [] ∧ s.rst.warm ≠ 2) ∧
    (let s : State := er (rs { warm := 2, src := 5 } runS)
    s.net.waitReq = [] ∧ s.net.accepted = [] ∧ s.rst.warm = 2 ∧ s.rst.src < 16) ∧
    (let s : State := rs { cold := true } runS
    let r : Region := 0
    let guard := s.rst.warm ≠ 0 ∨ s.rst.cold = true
    s.net.waitReq = [] ∧ s.net.accepted = [] ∧ (guard ∨ s.gStage r ≠ 0)) ∧
    (let s : State := { runS with guns := [{ region := 5, cls := 4, index := 3, action := 0x30, tag := 7, time := 6*10^9, arg := 1 }] }
    let r : Region := 0
    let guard := s.rst.warm ≠ 0 ∨ s.rst.cold = true
    s.net.waitReq = [] ∧ s.net.accepted = [] ∧ ¬guard ∧ s.gStage r = 0 ∧ s.pdir r ≠ 1 ∧ s.pdir r ≠ 3 ∧ freezeActs s = true ∧ s.frz.nowReq = false) ∧
    (let s : State := { runS with mode := .frozen }
    let r : Region := 0
    let guard := s.rst.warm ≠ 0 ∨ s.rst.cold = true
    s.net.waitReq = [] ∧ s.net.accepted = [] ∧ ¬guard ∧ s.gStage r = 0 ∧ s.pdir r ≠ 1 ∧ s.pdir r ≠ 3 ∧ freezeActs s = false) ∧
    (let s : State := { runS with guns := [{ region := 5, cls := 4, index := 3, action := 0x30, tag := 7, time := 6*10^9, arg := 1 }] }
    let r : Region := 0
    s.net.waitReq = [] ∧ s.net.accepted = [] ∧ s.gStage r ≠ 2) ∧
    (let s : State := er (rs { region := [(0, 2), (2, 1), (3, 2)], rsrc := 9 } runS)
    let r : Region := 0
    s.net.waitReq = [] ∧ s.net.accepted = [] ∧ s.gStage r = 2 ∧ s.rst.rsrc < 16) ∧
    (let s : State := { runS with guns := [{ region := 5, cls := 4, index := 3, action := 0x30, tag := 7, time := 6*10^9, arg := 1 }] }
    let r : Region := 0
    let z : Fin 16 := 0
    let guard := s.rst.warm ≠ 0 ∨ s.rst.cold = true
    let zi := 16 * r.val + z.val
    let v := s.zone zi
    s.net.waitReq = [] ∧ s.net.accepted = [] ∧ (guard ∨ s.zstate zi = 0 ∨ v.zreset = true)) ∧
    (let s : State := zf F.CFG_ZONE.STATE 1 (zz { rect := R } { runS with load := { kind := 2, phase := 3, hdr := [1,2], zone := 0 } })
    let r : Region := 0
    let z : Fin 16 := 0
    let guard := s.rst.warm ≠ 0 ∨ s.rst.cold = true
    let zi := 16 * r.val + z.val
    let v := s.zone zi
    s.net.waitReq = [] ∧ s.net.accepted = [] ∧ ¬guard ∧ s.zstate zi ≠ 0 ∧ v.zreset = false ∧ s.pdir r ≠ 1 ∧ s.pdir r ≠ 3) ∧
    (let s : State := { runS with guns := [{ region := 5, cls := 4, index := 3, action := 0x30, tag := 7, time := 6*10^9, arg := 1 }] }
    let r : Region := 0
    let z : Fin 16 := 0
    let zi := 16 * r.val + z.val
    let v := s.zone zi
    s.net.waitReq = [] ∧ s.net.accepted = [] ∧ ¬(v.zreset = true ∧ 2 ≤ s.zstate zi)) ∧
    (let s : State := er (rs { rsrc := 4 } (zf F.CFG_ZONE.STATE 2 (zz { rect := R, zreset := true } runS)))
    let r : Region := 0
    let z : Fin 16 := 0
    let zi := 16 * r.val + z.val
    let v := s.zone zi
    s.net.waitReq = [] ∧ s.net.accepted = [] ∧ v.zreset = true ∧ 2 ≤ s.zstate zi ∧ s.rst.rsrc < 16) ∧
    (let s : State := { runS with guns := [{ region := 5, cls := 4, index := 3, action := 0x30, tag := 7, time := 6*10^9, arg := 1 }] }
    let r : Region := 0
    let runs := s.fld F.SUP_WDOG.EN r = 1 ∧ s.fld F.SUP_WDOG.TIMEOUT r ≠ 0 ∧ procClocked s (64 + r) = true
    s.net.waitReq = [] ∧ s.net.accepted = [] ∧ ¬runs) ∧
    (let s : State := wd runS
    let r : Region := 0
    let runs := s.fld F.SUP_WDOG.EN r = 1 ∧ s.fld F.SUP_WDOG.TIMEOUT r ≠ 0 ∧ procClocked s (64 + r) = true
    s.net.waitReq = [] ∧ s.net.accepted = [] ∧ runs) :=
  ⟨by decide +kernel, by decide +kernel, by decide +kernel, by decide +kernel, by decide +kernel, by decide +kernel, by decide +kernel, by decide +kernel, by decide +kernel, by decide +kernel, by decide +kernel, by decide +kernel, by decide +kernel, by decide +kernel, by decide +kernel, by decide +kernel⟩

end Sys2Proof.Tests.ResetsOfUnitsRunTheirSequence

namespace Sys2Proof.Tests.PowerOnAndColdResetsClear

def runS : State := { State.reset with mode := .run, time := { State.reset.time with now := 5*10^9, running := true, step := 3, strideNum := 9 }, guns := [{ region := 0, cls := 4, index := 3, action := 0x30, tag := 7, time := 6*10^9, arg := 1 }] }
def dirty : State := { (((runS.setReg .SE_IMEM 63 77 5).setFld F.RST_CAUSE.WARM_COUNT 0 0 5).setReg .ARC_NEXT_OBJ 2 0 9).setFld F.PWR_STAT.STATE 1 0 3 with mem := [⟨5, 7⟩, ⟨0x4100000001, 3⟩], memErr := [(0x4100000000, 5)], store := [⟨5, 7⟩], fuse := { keys := [(1, 5)], hashes := [(2,2)], revoked := [3], pending := some (1,2) }, procs := [(3, {})], fab := { dmem := [(3, 5)] }, pending := [.scheduledStep 0], arcs := [(2, { cmds := [{ op := 1, len := 1, tag := 1, addr := 1, obj := 1, off := 0}], objs := [{ num := 5, heat := false, isOpen := false, badBlk := false, region := 2, chan := 9, seq := 77, time := 4*10^9, tag := 0xABC, blocks := [] }] })], lanes := [(5, { phase := 8 })] }
def ct (n : Nat) (s : State) := s.setFld F.RST_STATUS.P_DONE 0 0 n

/-- The hypotheses of Obligations.PowerOnAndColdResetsClear. -/
theorem witness : (let s : State := ct 1 dirty
    (s.fld F.RST_STATUS.P_DONE = 1 ∨ s.module.tripped = true)) ∧
    (let s : State := State.reset
    s.fld F.RST_STATUS.P_DONE = 0 ∧ s.module.tripped = false) ∧
    (let s : State := State.reset
    s.rst.cold = false) ∧
    (let s : State := { ct 1 dirty with rst := { cold := true } }
    s.rst.cold = true) :=
  ⟨by decide +kernel, by decide +kernel, by decide +kernel, by decide +kernel⟩

end Sys2Proof.Tests.PowerOnAndColdResetsClear

namespace Sys2Proof.Tests.FreezeAndResumeCommandsAnswer

def runS : State := { State.reset with mode := .run, time := { State.reset.time with now := 5*10^12+5, running := true, step := 3, strideNum := 9 } }
def t4 (a b : Reg) (sec fr : Nat) (s : State) : State := (s.setReg a 0 0 (BitVec.ofNat 40 sec)).setReg b 0 0 (BitVec.ofNat 40 fr)
def fa := t4 .ERR_FRZ_TIME_SEC .ERR_FRZ_TIME_FRAC
def ra := t4 .ERR_RESUME_SEC .ERR_RESUME_FRAC
def frS : State := { runS with mode := .frozen, time := { runS.time with running := false } }
def pm (n : Nat) (s : State) := s.setFld F.ERR_FRZ_CFG.PIN_MODE 0 0 n

/-- The hypotheses of Obligations.FreezeAndResumeCommandsAnswer. -/
theorem witness : (let s : State := State.reset
    let acts := freezeActs s = true
    ¬acts ∧ s.mode ≠ .frozen) ∧
    (let s : State := frS
    s.mode = .frozen) ∧
    (let s : State := runS
    let idle := s.frz.endReq = false ∧ s.frz.nowReq = false
    let acts := freezeActs s = true
    acts ∧ s.rst.warm ≠ 2 ∧ idle) ∧
    (let s : State := fz { endReq := true, cause := 1 } runS
    let acts := freezeActs s = true
    acts ∧ s.rst.warm ≠ 2 ∧ s.frz.endReq = true ∧ s.frz.nowReq = false) ∧
    (let s : State := State.reset
    let low : Bool := false
    let acts := freezeActs s = true
    let mode := s.fld F.ERR_FRZ_CFG.PIN_MODE
    (low = false ∨ mode = 0 ∨ mode = 3 ∨ ¬acts)) ∧
    (let s : State := runS
    let low : Bool := true
    let idle := s.frz.endReq = false ∧ s.frz.nowReq = false
    let acts := freezeActs s = true
    let mode := s.fld F.ERR_FRZ_CFG.PIN_MODE
    low = true ∧ (mode = 1 ∨ mode = 2) ∧ acts ∧ s.rst.warm ≠ 2 ∧ idle) ∧
    (let s : State := State.reset
    let acts := freezeActs s = true
    ¬acts ∧ s.mode ≠ .frozen) ∧
    (let s : State := fa 6 5 (fz { atTime := some 7 } runS)
    let acts := freezeActs s = true
    (acts ∨ s.mode = .frozen) ∧ s.frz.atTime ≠ none) ∧
    (let s : State := fa 5 0 runS
    let acts := freezeActs s = true
    let atT := timeOf (s.reg .ERR_FRZ_TIME_SEC).toNat (s.reg .ERR_FRZ_TIME_FRAC).toNat
    (acts ∨ s.mode = .frozen) ∧ s.frz.atTime = none ∧ s.instant + 1024000 ≤ atT) ∧
    (let s : State := frS
    let acts := freezeActs s = true
    let atT := timeOf (s.reg .ERR_FRZ_TIME_SEC).toNat (s.reg .ERR_FRZ_TIME_FRAC).toNat
    (acts ∨ s.mode = .frozen) ∧ s.frz.atTime = none ∧ atT < s.instant + 1024000) ∧
    (let s : State := State.reset
    s.frz.atTime = none) ∧
    (let s : State := fz { atTime := some (6*10^12) } runS
    let w := 6000000000000
    s.frz.atTime = some w ∧ s.instant < w) ∧
    (let s : State := fz { atTime := some (4*10^12) } frS
    let w := 4000000000000
    s.frz.atTime = some w ∧ w ≤ s.instant) ∧
    (let s : State := State.reset
    s.mode ≠ .frozen) ∧
    (let s : State := pm 1 (fz { pinLow := true } frS)
    let held := s.frz.pinLow = true ∧ s.fld F.ERR_FRZ_CFG.PIN_MODE ≠ 0
    s.mode = .frozen ∧ held) ∧
    (let s : State := { frS with rst := { warm := 1 } }
    let idle := s.frz.endReq = false ∧ s.frz.nowReq = false
    let held := s.frz.pinLow = true ∧ s.fld F.ERR_FRZ_CFG.PIN_MODE ≠ 0
    let busy := s.rst.warm ≠ 0 ∨ s.rst.region ≠ [] ∨ ¬idle
    s.mode = .frozen ∧ ¬held ∧ busy) ∧
    (let s : State := frS
    let idle := s.frz.endReq = false ∧ s.frz.nowReq = false
    let held := s.frz.pinLow = true ∧ s.fld F.ERR_FRZ_CFG.PIN_MODE ≠ 0
    let busy := s.rst.warm ≠ 0 ∨ s.rst.region ≠ [] ∨ ¬idle
    s.mode = .frozen ∧ ¬held ∧ ¬busy) ∧
    (let s : State := ra 6 0 (fz { resumeAt := some 3, atTime := some 5 } frS)
    let idle := s.frz.endReq = false ∧ s.frz.nowReq = false
    let held := s.frz.pinLow = true ∧ s.fld F.ERR_FRZ_CFG.PIN_MODE ≠ 0
    let busy := s.rst.warm ≠ 0 ∨ s.rst.region ≠ [] ∨ ¬idle
    s.mode = .frozen ∧ ¬held ∧ ¬busy ∧ s.frz.resumeAt ≠ none) ∧
    (let s : State := frS
    let idle := s.frz.endReq = false ∧ s.frz.nowReq = false
    let resT := timeOf (s.reg .ERR_RESUME_SEC).toNat (s.reg .ERR_RESUME_FRAC).toNat
    let held := s.frz.pinLow = true ∧ s.fld F.ERR_FRZ_CFG.PIN_MODE ≠ 0
    let busy := s.rst.warm ≠ 0 ∨ s.rst.region ≠ [] ∨ ¬idle
    s.mode = .frozen ∧ ¬held ∧ ¬busy ∧ s.frz.resumeAt = none ∧ resT < s.instant) ∧
    (let s : State := ra 6 0 frS
    let idle := s.frz.endReq = false ∧ s.frz.nowReq = false
    let resT := timeOf (s.reg .ERR_RESUME_SEC).toNat (s.reg .ERR_RESUME_FRAC).toNat
    let held := s.frz.pinLow = true ∧ s.fld F.ERR_FRZ_CFG.PIN_MODE ≠ 0
    let busy := s.rst.warm ≠ 0 ∨ s.rst.region ≠ [] ∨ ¬idle
    s.mode = .frozen ∧ ¬held ∧ ¬busy ∧ s.frz.resumeAt = none ∧ s.instant ≤ resT) ∧
    (let s : State := State.reset
    s.frz.resumeAt = none) ∧
    (let s : State := fz { resumeAt := some (6*10^12) } frS
    let w := 6000000000000
    s.frz.resumeAt = some w ∧ s.instant < w) ∧
    (let s : State := fz { resumeAt := some (4*10^12) } runS
    let w := 4000000000000
    s.frz.resumeAt = some w ∧ w ≤ s.instant) :=
  ⟨by decide +kernel, by decide +kernel, by decide +kernel, by decide +kernel, by decide +kernel, by decide +kernel, by decide +kernel, by decide +kernel, by decide +kernel, by decide +kernel, by decide +kernel, by decide +kernel, by decide +kernel, by decide +kernel, by decide +kernel, by decide +kernel, by decide +kernel, by decide +kernel, by decide +kernel, by decide +kernel, by decide +kernel, by decide +kernel, by decide +kernel⟩

end Sys2Proof.Tests.FreezeAndResumeCommandsAnswer

namespace Sys2Proof.Tests.FreezesStopAndHalt

def runS : State := { State.reset with mode := .run, time := { State.reset.time with now := 5*10^12+5, running := true, step := 3, strideNum := 9, lastExec := some 8 } }
def pst (s : State) : State := ([(0,1),(3,2),(17,4),(63,5),(50,0),(48,3)].foldl (fun s x => s.setFld F.SE_STATUS.STATE x.1 0 x.2) ([(0,1),(3,1)].foldl (fun s x => s.setFld F.SUP_STATUS.STATE x.1 0 x.2) s))
def FZ : Frz := { nowReq := true, cause := 3, code := 0x1234, region := 2, rec0 := 0x5402000000 }

/-- The hypotheses of Obligations.FreezesStopAndHalt. -/
theorem witness : (let s : State := State.reset
    freezeReady s = false) ∧
    (let s : State := State.reset
    (freezeActs s = false ∨ (s.frz.endReq = false ∧ s.frz.nowReq = false) ∨ s.rst.warm = 2 ∨
      (s.frz.nowReq = false ∧ s.time.running = true) ∨ ∃ r : Region, s.pstateR r ≠ 0 ∨ s.pdir r ≠ 0)) ∧
    (let s : State := pst (fz FZ runS)
    freezeReady s = true ∧ (∀ r : Region, s.gStage r ≠ 1) ∧ s.frz.cause < 8 ∧ s.frz.code < 2 ^ 16 ∧ s.frz.region < 4 ∧ s.time.step ≤ 2048) ∧
    (let s : State := State.reset
    let r : Region := 0
    r.val ∉ s.frz.packets) ∧
    (let s : State := pst (fz { packets := [0, 1, 2, 3], haltMode := 1 } runS)
    let r : Region := 0
    r.val ∈ s.frz.packets) :=
  ⟨by decide +kernel, by decide +kernel, by decide +kernel, by decide +kernel, by decide +kernel⟩

end Sys2Proof.Tests.FreezesStopAndHalt

namespace Sys2Proof.Tests.RecordsAreStoredAndEscalated

def runS : State := { State.reset with mode := .run, time := { State.reset.time with now := 5*10^12+5, running := true, step := 3, strideNum := 9, lastExec := some 8 } }
def rc (code r : Nat) : ErrRec := ⟨BitVec.ofNat 40 (code*2^24 + r*2^22 + 5), 0x123456789A, 7⟩
def det (l : List ErrRec) (s : State) : State := { s with detected := l }
def pol (code a q : Nat) (s : State) : State := (s.setFld F.ERR_POL.ACTION 0 (policyIndex code) a).setFld F.ERR_POL.QUIET 0 (policyIndex code) q
def ff (n : Nat) (s : State) : State := { s with fifos := [(2, (List.range n).map fun k => rc (0x4101 + k) 2), (0, [rc 0x3401 0])], lossy := [2, 4] }
def m (c : Nat) (a q : Nat) (f : State → State := id) : State := f (det [rc c 2, rc 0x5001 1] (pol c a q runS))

/-- The hypotheses of Obligations.RecordsAreStoredAndEscalated. -/
theorem witness : (let s : State := State.reset
    s.detected = []) ∧
    (let s : State := m 0x5301 0 0
    let e := { w0 := 0x5301800005, w1 := 0x123456789A, w2 := 7 }
    let es := [{ w0 := 0x5001400005, w1 := 0x123456789A, w2 := 7 }]
    let code := bitsOf e.w0.toNat 39 24
    let action := s.fld F.ERR_POL.ACTION 0 (policyIndex code)
    s.detected = e :: es ∧ action = 0 ∧ (code ≠ 0x2001 ∧ code ≠ 0x2002)) ∧
    (let s : State := m 0x3401 1 0
    let e := { w0 := 0x3401800005, w1 := 0x123456789A, w2 := 7 }
    let es := [{ w0 := 0x5001400005, w1 := 0x123456789A, w2 := 7 }]
    let code := bitsOf e.w0.toNat 39 24
    let action := s.fld F.ERR_POL.ACTION 0 (policyIndex code)
    let acts := freezeActs s = true
    let still := s.rst.warm = 0 ∧ s.rst.cold = false
    s.detected = e :: es ∧ (action = 1 ∨ action = 2) ∧ code ≠ 0x2001 ∧ code ≠ 0x2002 ∧ acts ∧ still ∧ s.frz.endReq = false ∧ s.frz.nowReq = false) ∧
    (let s : State := m 0x3401 3 0
    let e := { w0 := 0x3401800005, w1 := 0x123456789A, w2 := 7 }
    let es := [{ w0 := 0x5001400005, w1 := 0x123456789A, w2 := 7 }]
    let code := bitsOf e.w0.toNat 39 24
    let action := s.fld F.ERR_POL.ACTION 0 (policyIndex code)
    let acts := freezeActs s = true
    let still := s.rst.warm = 0 ∧ s.rst.cold = false
    s.detected = e :: es ∧ action = 3 ∧ code ≠ 0x2001 ∧ code ≠ 0x2002 ∧ (acts ∨ s.mode = .frozen) ∧ still ∧ code < 0x5000) ∧
    (let s : State := m 0x5301 4 0
    let e := { w0 := 0x5301800005, w1 := 0x123456789A, w2 := 7 }
    let es := [{ w0 := 0x5001400005, w1 := 0x123456789A, w2 := 7 }]
    let code := bitsOf e.w0.toNat 39 24
    let action := s.fld F.ERR_POL.ACTION 0 (policyIndex code)
    let acts := freezeActs s = true
    let still := s.rst.warm = 0 ∧ s.rst.cold = false
    s.detected = e :: es ∧ (action = 4 ∨ (action = 3 ∧ 0x5000 ≤ code)) ∧ code ≠ 0x2001 ∧ code ≠ 0x2002 ∧ (acts ∨ s.mode = .frozen) ∧ still) ∧
    (let s : State := m 0x3401 3 0 (fun s => { s with mode := .blank })
    let e := { w0 := 0x3401800005, w1 := 0x123456789A, w2 := 7 }
    let es := [{ w0 := 0x5001400005, w1 := 0x123456789A, w2 := 7 }]
    let acts := freezeActs s = true
    s.detected = e :: es ∧ ¬acts ∧ s.mode ≠ .frozen) ∧
    (let s : State := State.reset
    let r : Region := 0
    s.fifo r = []) ∧
    (let s : State := m 0x3401 0 0 (ff 32)
    let r : Region := 0
    let e := { w0 := 0x3401000005, w1 := 0x123456789A, w2 := 7 }
    let es := []
    s.fifo r = e :: es ∧ es.length < 64) :=
  ⟨by decide +kernel, by decide +kernel, by decide +kernel, by decide +kernel, by decide +kernel, by decide +kernel, by decide +kernel, by decide +kernel⟩

end Sys2Proof.Tests.RecordsAreStoredAndEscalated

namespace Sys2Proof.Tests.InjectionsInvertBitsOrArm

def runS : State := { State.reset with mode := .run, time := { State.reset.time with now := 5*10^12+5, running := true, step := 3, strideNum := 9, lastExec := some 8 } }
def tgt (r t cl ce : Nat) (s : State) : State := (((s.setFld F.ERR_INJ_TGT.REGION 0 0 r).setFld F.ERR_INJ_TGT.TILE 0 0 t).setFld F.ERR_INJ_TGT.CLUSTER 0 0 cl).setFld F.ERR_INJ_TGT.CELL 0 0 ce
def ar (a : Nat) (s : State) : State := s.setReg .ERR_INJ_ARG 0 0 (BitVec.ofNat 40 a)
def args : List Nat := [0, 5, 0x8000000005, 46, 0x800000002E, 47, 0x1FFFF, 2^9 + 9, 0x0351, 0x0C54, 0xFFFFFFFFFF, 0x1C9, 50 + 2^14, 100 + 3*2^7, 0x0034]
def on (s : State) : State := (List.range 48).foldl (fun s l => ((s.setLf l F.LN_STATUS.PLL_LOCK 1).setLf l F.LN_STATUS.CDR_LOCK 1).setLf l F.LN_STATUS.PSTATE 1) s
def stp (s : State) : State := { s with time := { s.time with running := false, step := 0 } }
def states : List State := (args.flatMap fun a => [ar a (tgt 2 5 7 0 runS), ar a (tgt 2 5 7 1 (stp runS)), ar a (tgt 3 13 0 63 runS)]) ++ [ar 5 { tgt 2 5 7 0 runS with mode := .blank }, ar 5 ((tgt 2 5 7 0 runS).setFld F.CFG_STATUS.LOCKED 0 0 1), ar 5 (on (tgt 2 5 7 0 runS)), ar 5 (tgt 2 5 7 0 { runS with railInj := some 3 }), ar 5 (tgt 2 5 7 0 { runS with fab := { dmemErr := [(entryIx (64*(16*37+7)) 0 0, 0x21)] } })]

/-- The hypotheses of Obligations.InjectionsInvertBitsOrArm. -/
theorem witness : (let s : State := states.getD 46 {}
    let k : Nat := 1
    let locked := s.fld F.CFG_STATUS.LOCKED = 1
    1 ≤ k ∧ k ≤ 20 ∧ locked) ∧
    (let s : State := states.getD 0 {}
    let k : Nat := 4
    let arg := (s.reg .ERR_INJ_ARG).toNat
    let tileN := s.fld F.ERR_INJ_TGT.TILE
    let cellN := s.fld F.ERR_INJ_TGT.CELL
    let b := arg % 64
    let pair := bitOf arg 39 = true
    let out := bitsOf arg 9 5
    let bitBad := 46 < b ∨ (pair ∧ 45 < b)
    let bad := (k = 1 ∧ bitBad) ∨ (k = 4 ∧ out ≠ 16 ∧ out ≠ 17 ∧ out ≠ 26 ∧ out ≠ 27 ∧ out ≠ 28) ∨
      (k = 5 ∧ 40 ≤ arg % 128 ∧ arg % 128 < 64) ∨ (k = 6 ∧ (bitBad ∨ 12 ≤ bitsOf arg 9 6)) ∨ (k = 7 ∧ bitBad) ∨
      (k = 8 ∧ 6 ≤ bitsOf arg 16 14) ∨ (k = 9 ∧ (2 ≤ cellN ∨ (cellN = 0 ∧ 16384 ≤ arg % 32768))) ∨
      (k = 10 ∧ (2 ≤ cellN ∨ (cellN = 1 ∧ 2 ≤ arg % 4) ∨ bitsOf arg 7 4 = 0 ∨ 12 < bitsOf arg 7 4)) ∨
      ((k = 11 ∨ k = 12) ∧ 12 ≤ tileN) ∨ (k = 13 ∧ bitsOf arg 5 2 = 0) ∨ (k = 18 ∧ ((4 ≤ b ∧ b < 8) ∨ 20 ≤ b))
    let locked := s.fld F.CFG_STATUS.LOCKED = 1
    1 ≤ k ∧ k ≤ 20 ∧ ¬locked ∧ bad) ∧
    (let s : State := states.getD 45 {}
    let k : Nat := 1
    let arg := (s.reg .ERR_INJ_ARG).toNat
    let tileN := s.fld F.ERR_INJ_TGT.TILE
    let cellN := s.fld F.ERR_INJ_TGT.CELL
    let b := arg % 64
    let pair := bitOf arg 39 = true
    let out := bitsOf arg 9 5
    let bitBad := 46 < b ∨ (pair ∧ 45 < b)
    let bad := (k = 1 ∧ bitBad) ∨ (k = 4 ∧ out ≠ 16 ∧ out ≠ 17 ∧ out ≠ 26 ∧ out ≠ 27 ∧ out ≠ 28) ∨
      (k = 5 ∧ 40 ≤ arg % 128 ∧ arg % 128 < 64) ∨ (k = 6 ∧ (bitBad ∨ 12 ≤ bitsOf arg 9 6)) ∨ (k = 7 ∧ bitBad) ∨
      (k = 8 ∧ 6 ≤ bitsOf arg 16 14) ∨ (k = 9 ∧ (2 ≤ cellN ∨ (cellN = 0 ∧ 16384 ≤ arg % 32768))) ∨
      (k = 10 ∧ (2 ≤ cellN ∨ (cellN = 1 ∧ 2 ≤ arg % 4) ∨ bitsOf arg 7 4 = 0 ∨ 12 < bitsOf arg 7 4)) ∨
      ((k = 11 ∨ k = 12) ∧ 12 ≤ tileN) ∨ (k = 13 ∧ bitsOf arg 5 2 = 0) ∨ (k = 18 ∧ ((4 ≤ b ∧ b < 8) ∨ 20 ≤ b))
    let locked := s.fld F.CFG_STATUS.LOCKED = 1
    let early := k ≤ 5 ∧ (s.mode = .blank ∨ s.mode = .loading)
    1 ≤ k ∧ k ≤ 20 ∧ ¬locked ∧ ¬bad ∧ early) ∧
    (let s : State := states.getD 48 {}
    let k : Nat := 1
    let arg := (s.reg .ERR_INJ_ARG).toNat
    let tileN := s.fld F.ERR_INJ_TGT.TILE
    let cellN := s.fld F.ERR_INJ_TGT.CELL
    let b := arg % 64
    let pair := bitOf arg 39 = true
    let out := bitsOf arg 9 5
    let bitBad := 46 < b ∨ (pair ∧ 45 < b)
    let bad := (k = 1 ∧ bitBad) ∨ (k = 4 ∧ out ≠ 16 ∧ out ≠ 17 ∧ out ≠ 26 ∧ out ≠ 27 ∧ out ≠ 28) ∨
      (k = 5 ∧ 40 ≤ arg % 128 ∧ arg % 128 < 64) ∨ (k = 6 ∧ (bitBad ∨ 12 ≤ bitsOf arg 9 6)) ∨ (k = 7 ∧ bitBad) ∨
      (k = 8 ∧ 6 ≤ bitsOf arg 16 14) ∨ (k = 9 ∧ (2 ≤ cellN ∨ (cellN = 0 ∧ 16384 ≤ arg % 32768))) ∨
      (k = 10 ∧ (2 ≤ cellN ∨ (cellN = 1 ∧ 2 ≤ arg % 4) ∨ bitsOf arg 7 4 = 0 ∨ 12 < bitsOf arg 7 4)) ∨
      ((k = 11 ∨ k = 12) ∧ 12 ≤ tileN) ∨ (k = 13 ∧ bitsOf arg 5 2 = 0) ∨ (k = 18 ∧ ((4 ≤ b ∧ b < 8) ∨ 20 ≤ b))
    let locked := s.fld F.CFG_STATUS.LOCKED = 1
    let early := k ≤ 5 ∧ (s.mode = .blank ∨ s.mode = .loading)
    1 ≤ k ∧ k ≤ 20 ∧ ¬locked ∧ ¬bad ∧ ¬early ∧ injArmed s = true) ∧
    (let s : State := states.getD 47 {}
    let k : Nat := 11
    let arg := (s.reg .ERR_INJ_ARG).toNat
    let tileN := s.fld F.ERR_INJ_TGT.TILE
    let cellN := s.fld F.ERR_INJ_TGT.CELL
    let b := arg % 64
    let pair := bitOf arg 39 = true
    let out := bitsOf arg 9 5
    let bitBad := 46 < b ∨ (pair ∧ 45 < b)
    let bad := (k = 1 ∧ bitBad) ∨ (k = 4 ∧ out ≠ 16 ∧ out ≠ 17 ∧ out ≠ 26 ∧ out ≠ 27 ∧ out ≠ 28) ∨
      (k = 5 ∧ 40 ≤ arg % 128 ∧ arg % 128 < 64) ∨ (k = 6 ∧ (bitBad ∨ 12 ≤ bitsOf arg 9 6)) ∨ (k = 7 ∧ bitBad) ∨
      (k = 8 ∧ 6 ≤ bitsOf arg 16 14) ∨ (k = 9 ∧ (2 ≤ cellN ∨ (cellN = 0 ∧ 16384 ≤ arg % 32768))) ∨
      (k = 10 ∧ (2 ≤ cellN ∨ (cellN = 1 ∧ 2 ≤ arg % 4) ∨ bitsOf arg 7 4 = 0 ∨ 12 < bitsOf arg 7 4)) ∨
      ((k = 11 ∨ k = 12) ∧ 12 ≤ tileN) ∨ (k = 13 ∧ bitsOf arg 5 2 = 0) ∨ (k = 18 ∧ ((4 ≤ b ∧ b < 8) ∨ 20 ≤ b))
    let locked := s.fld F.CFG_STATUS.LOCKED = 1
    let early := k ≤ 5 ∧ (s.mode = .blank ∨ s.mode = .loading)
    1 ≤ k ∧ k ≤ 20 ∧ ¬locked ∧ ¬bad ∧ ¬early ∧ injArmed s = false) :=
  ⟨by decide +kernel, by decide +kernel, by decide +kernel, by decide +kernel, by decide +kernel⟩

end Sys2Proof.Tests.InjectionsInvertBitsOrArm

namespace Sys2Proof.Tests.JtagInstructionsScanAndTest

def runS : State := { State.reset with mode := .run, time := { State.reset.time with now := 5*10^12+5, running := true, step := 3, strideNum := 9, lastExec := some 8 } }
def lk (s : State) := s.setFld F.CFG_STATUS.LOCKED 0 0 1
def ldg (s : State) : State := { s with mode := .loading, load := { kind := 1, phase := 3, src := 2, hdr := [1] } }

/-- The hypotheses of Obligations.JtagInstructionsScanAndTest. -/
theorem witness : (let s : State := State.reset
    s.mode ≠ .loading) ∧
    (let s : State := ldg runS
    s.mode = .loading ∧ s.load.kind = 1 ∧ s.load.waking = false) ∧
    (let s : State := lk runS
    let locked := s.fld F.CFG_STATUS.LOCKED = 1
    locked) ∧
    (let s : State := State.reset
    let op : BitVec 2 := 0
    let addr : Word := 0x1000
    let locked := s.fld F.CFG_STATUS.LOCKED = 1
    ¬locked ∧ (op = 0 ∨ op = 3 ∨ oneWord addr.toNat = none)) ∧
    (let s : State := State.reset
    let op : BitVec 2 := 1
    let addr : Word := 0x1000
    let sel : BitVec 12 := 1
    let locked := s.fld F.CFG_STATUS.LOCKED = 1
    ¬locked ∧ oneWord addr.toNat = some sel.toNat ∧ s.net.waitReq = [] ∧ s.net.accepted = [] ∧ op = 1) ∧
    (let s : State := State.reset
    let op : BitVec 2 := 2
    let addr : Word := 0x1000
    let sel : BitVec 12 := 1
    let locked := s.fld F.CFG_STATUS.LOCKED = 1
    ¬locked ∧ oneWord addr.toNat = some sel.toNat ∧ s.net.waitReq = [] ∧ s.net.accepted = [] ∧ op = 2) ∧
    (let s : State := State.reset
    let locked := s.fld F.CFG_STATUS.LOCKED = 1
    (s.mode = .blank ∨ s.mode = .frozen) ∧ ¬locked) ∧
    (let s : State := runS
    let locked := s.fld F.CFG_STATUS.LOCKED = 1
    ((s.mode ≠ .blank ∧ s.mode ≠ .frozen) ∨ locked)) :=
  ⟨by decide +kernel, by decide +kernel, by decide +kernel, by decide +kernel, by decide +kernel, by decide +kernel, by decide +kernel, by decide +kernel⟩

end Sys2Proof.Tests.JtagInstructionsScanAndTest

namespace Sys2Proof.Tests.HostAccessesReachTheDevice

def runS : State := { State.reset with mode := .run, time := { State.reset.time with now := 5*10^12+5, running := true, step := 3, strideNum := 9 } }

/-- The hypotheses of Obligations.HostAccessesReachTheDevice. -/
theorem witness : (let s : State := hst { inReset := true } runS
    s.host.inReset = true) ∧
    (let s : State := fillm runS
    let len : Nat := 1
    let y : BitVec 36 := 0x1000
    let a := s.fld F.HST_BAR2_BASE.GIB * 2 ^ 30 + y.toNat
    let blk := a / 64 * 64
    let first := a % 64
    s.host.inReset = false ∧ s.fld F.HST_BAR2_BASE.GIB ≤ 64 ∧ (∀ node, nodeOf a = some node → nodeState s node = 0) ∧ netCalm s = true ∧ probing s = false ∧ (∀ r : Region, s.fld F.MEM_CTRL.DIAG r = 0) ∧ (rsDecode (bytesAt s.mem blk 64)).2 = 0 ∧ first + len ≤ 64 ∧ 0 < len) ∧
    (let s : State := fillm runS
    let data : List (Option (BitVec 8)) := []
    let y : BitVec 36 := 0x1000
    let a := s.fld F.HST_BAR2_BASE.GIB * 2 ^ 30 + y.toNat
    let blk := a / 64 * 64
    let first := a % 64
    s.host.inReset = false ∧ s.fld F.HST_BAR2_BASE.GIB ≤ 64 ∧ (∀ node, nodeOf a = some node → nodeState s node = 0) ∧ netCalm s = true ∧ probing s = false ∧ (∀ r : Region, s.fld F.MEM_CTRL.DIAG r = 0) ∧ (rsDecode (bytesAt s.mem blk 64)).2 = 0 ∧ first + data.length ≤ 64) ∧
    (let s : State := fillm runS
    let len : Nat := 1
    let o : BitVec 28 := 0x3FFFFF8
    let a := 0x7FF0000000 + o.toNat
    s.host.inReset = false ∧ nodeOf (0x7FF0000000 + o.toNat) = none ∧ a % 64 + len ≤ 64 ∧ 0 < len) ∧
    (let s : State := fillm runS
    let data : List (Option (BitVec 8)) := [some 3, some 0x14, some 0x25, some 0x36, some 0x47, some 0x58, some 0x69, some 0x7A]
    let o : BitVec 28 := 0x3FFFFF8
    let a := 0x7FF0000000 + o.toNat
    s.host.inReset = false ∧ nodeOf (0x7FF0000000 + o.toNat) = none ∧ a % 8 = 0 ∧ data.length = 8 ∧ (∀ x ∈ data, x ≠ none)) ∧
    (let s : State := fillm runS
    let data : List (Option (BitVec 8)) := [some 1, none, some 3, some 4, none, some 6, some 7, some 8]
    let o : BitVec 28 := 0
    s.host.inReset = false ∧ o.toNat % 8 = 0 ∧ data.length = 8 ∧ none ∈ data) ∧
    (let s : State := fillm runS
    let o : BitVec 28 := 0x100
    let n : Fin 64 := 0
    s.host.inReset = false ∧ 0x7FF0000000 + o.toNat = regAddr .HST_HDB 0 n ∧ nodeState s 29 = 0 ∧ netCalm s = true ∧ probing s = false) ∧
    (let s : State := fillm runS
    let data : List (Option (BitVec 8)) := [some 3, some 0x14, some 0x25, some 0x36, some 0x47, some 0x58, some 0x69, some 0x7A]
    let o : BitVec 28 := 0x100
    let n : Fin 64 := 0
    s.host.inReset = false ∧ 0x7FF0000000 + o.toNat = regAddr .HST_HDB 0 n ∧ nodeState s 29 = 0 ∧ netCalm s = true ∧ probing s = false ∧ data.length = 8 ∧ (∀ x ∈ data, x ≠ none)) ∧
    (let s : State := fillm runS
    let tag : BitVec 16 := 0
    (∀ r ∈ s.host.reads, r.tag ≠ tag.toNat)) ∧
    (let s : State := (hst { reads := [{ tag := 7, addr := 0x1000, first := 3, len := 8, bar2 := false}] } runS).setFld F.HST_CTRL.RD_LIMIT 0 0 0
    s.fld F.HST_CTRL.RD_LIMIT = 0) ∧
    (let s : State := (hst { reads := [{ tag := 3, addr := 5, first := 1, len := 4, bar2 := true }, { tag := 7, addr := 0x1000, first := 3, len := 8, bar2 := false}] } runS)
    let tag : BitVec 16 := 7
    let r := { tag := 7, addr := 4096, first := 3, len := 8, bar2 := false }
    s.host.reads.find? (fun r => r.tag == tag.toNat) = some r ∧ s.fld F.HST_CTRL.RD_LIMIT ≠ 0 ∧ r.addr < 2 ^ 40) :=
  ⟨by decide +kernel, by decide +kernel, by decide +kernel, by decide +kernel, by decide +kernel, by decide +kernel, by decide +kernel, by decide +kernel, by decide +kernel, by decide +kernel, by decide +kernel⟩

end Sys2Proof.Tests.HostAccessesReachTheDevice

namespace Sys2Proof.Tests.HostDmaCompletesInRingOrder

def runS : State := { State.reset with mode := .run, time := { State.reset.time with now := 5*10^12+5, running := true, step := 3, strideNum := 9 } }
def ch (v : HostCh) (ring : Nat → List (Nat × Nat)) (s : State) : State := hst { chans := [(0, v), (5, v)], ring := (ring 0) ++ (ring 5), fnMask := false, table := (List.range 256).map (fun k => (2*k+1, 0)) } (fillm s)
def d2 (tag irq dir hfmt len : Nat) : Nat := tag*2^48 + irq*2^36 + dir*2^34 + hfmt*2^32 + len
def rg (ci w0 w1 w2 w3 : Nat) (c : Nat) : List (Nat × Nat) := let a := 1024*c + 4*(ci%256); [(a, w0), (a+1, w1), (a+2, w2), (a+3, w3)].filter (fun e => e.2 ≠ 0)
def v0 : HostCh := { en := true, pi := 4, ci := 3, base := 0x8000, n := 4, recs := 6 }
def v1 : HostCh := { en := true, pi := 0, ci := 65535, base := 0x8000, n := 3, recs := 5 }

/-- The hypotheses of Obligations.HostDmaCompletesInRingOrder. -/
theorem witness : (let s : State := hst { inReset := true } runS
    s.host.inReset = true) ∧
    (let s : State := runS
    let c : Fin 8 := 0
    let v := s.hch c
    s.host.inReset = false ∧ v.ci < 65536) ∧
    (let s : State := runS
    let c : Fin 8 := 0
    let v := s.hch c
    let n := Nat.max v.n 1
    s.host.inReset = false ∧ v.n = 0) ∧
    (let s : State := ch { v0 with en := false } (rg 3 0 0 0 0) runS
    let c : Fin 8 := 0
    let v := s.hch c
    let n := Nat.max v.n 1
    s.host.inReset = false ∧ v.n ≠ 0 ∧ v.en = false) ∧
    (let s : State := ch v0 (rg 3 0x100 0x1005 (d2 0xABCD 1 1 0 1) 0) runS
    let c : Fin 8 := 0
    let v := s.hch c
    let n := Nat.max v.n 1
    s.host.inReset = false ∧ v.n ≠ 0 ∧ v.en = true) ∧
    (let s : State := runS
    s.host.inReset = false) ∧
    (let s : State := runS
    let c : Fin 8 := 0
    let v := s.hch c
    s.host.inReset = false ∧ v.en = false) ∧
    (let s : State := ch { v0 with run := some (0, 12, 2) } (rg 3 0 0 0 0) runS
    let c : Fin 8 := 0
    let e := (0, 12, 2)
    let v := s.hch c
    s.host.inReset = false ∧ v.en = true ∧ v.run = some e ∧ e.2.2 ≠ 0) ∧
    (let s : State := ch { v0 with pi := 3 } (rg 3 0 0 0 0) runS
    let c : Fin 8 := 0
    let v := s.hch c
    s.host.inReset = false ∧ v.en = true ∧ v.run = none ∧ v.pi = v.ci) ∧
    (let s : State := ch v0 (rg 3 0x100 0x1005 (d2 0xABCD 1 1 0 1) 0) runS
    let c : Fin 8 := 0
    let v := s.hch c
    s.host.inReset = false ∧ v.en = true ∧ v.run = none ∧ v.ci < 65536 ∧ v.pi < 65536) ∧
    (let s : State := ch { v0 with stopped := true } (rg 3 0 0 0 0) runS
    let c : Fin 8 := 0
    let v := s.hch c
    s.host.inReset = false ∧ v.en = true ∧ v.run = none ∧ v.stopped = true ∧ v.ci < 65535 ∧ v.pi = v.ci + 1) ∧
    (let s : State := runS
    let c : Fin 8 := 0
    let v := s.hch c
    (v.en = false ∨ v.stopped = true ∨ (v.pi = v.ci ∧ v.ci < 65536))) ∧
    (let s : State := ch v1 (rg 65535 0x100 0x103C (d2 0xABCD 0 1 0 1) 0) runS
    let c : Fin 8 := 0
    let st := 10
    let v := s.hch c
    let d := hostDesc s c
    let runs := s.host.inReset = false ∧ v.en = true ∧ v.stopped = false ∧ v.pi ≠ v.ci ∧ v.pi < 65536 ∧ v.ci < 65536
    runs ∧ v.run = none ∧ ((d.bad = true ∧ st = 9) ∨ (d.bad = false ∧ d.len = 0 ∧ st = 0) ∨
          (d.bad = false ∧ d.len ≠ 0 ∧ d.aligned = false ∧ st = 10))) ∧
    (let s : State := ch v0 (rg 3 0x100 0x1005 (d2 0xABCD 1 1 0 1) 0) runS
    let c : Fin 8 := 0
    let v := s.hch c
    let d := hostDesc s c
    let runs := s.host.inReset = false ∧ v.en = true ∧ v.stopped = false ∧ v.pi ≠ v.ci ∧ v.pi < 65536 ∧ v.ci < 65536
    let n := Nat.max v.n 1
    let at_ := v.base + 16 * (v.recs % n)
    let word := d.daddr % 64 / 5
    let ready := d.bad = false ∧ d.len = 1 ∧ d.hfmt = 0 ∧ d.daddr < 0x2000000000 ∧ d.daddr % 64 % 5 = 0 ∧ word < 12 ∧
         (∀ node, nodeOf d.daddr = some node → nodeState s node = 0) ∧ netCalm s = true ∧ probing s = false ∧
         (∀ r : Region, s.fld F.MEM_CTRL.DIAG r = 0) ∧ (rsDecode (bytesAt s.mem (d.daddr / 64 * 64) 64)).2 = 0
    runs ∧ v.run = none ∧ ready ∧ d.dir = 1 ∧ (d.w0 + 5 ≤ at_ ∨ at_ + 16 ≤ d.w0)) ∧
    (let s : State := ch v1 (rg 65535 0x100 0x100A (d2 0xABCD 0 0 0 1) 0) runS
    let c : Fin 8 := 0
    let bytes : List (BitVec 8) := [1, 2, 3, 0xFF, 5]
    let v := s.hch c
    let d := hostDesc s c
    let runs := s.host.inReset = false ∧ v.en = true ∧ v.stopped = false ∧ v.pi ≠ v.ci ∧ v.pi < 65536 ∧ v.ci < 65536
    let word := d.daddr % 64 / 5
    let ready := d.bad = false ∧ d.len = 1 ∧ d.hfmt = 0 ∧ d.daddr < 0x2000000000 ∧ d.daddr % 64 % 5 = 0 ∧ word < 12 ∧
         (∀ node, nodeOf d.daddr = some node → nodeState s node = 0) ∧ netCalm s = true ∧ probing s = false ∧
         (∀ r : Region, s.fld F.MEM_CTRL.DIAG r = 0) ∧ (rsDecode (bytesAt s.mem (d.daddr / 64 * 64) 64)).2 = 0
    runs ∧ v.run = none ∧ ready ∧ d.dir = 0 ∧ bytes.length = 5) ∧
    (let s : State := ch v0 (rg 3 0x100 0x1005 (d2 0xABCD 1 1 0 1) 0) runS
    let c : Fin 8 := 0
    let v := s.hch c
    let d := hostDesc s c
    let runs := s.host.inReset = false ∧ v.en = true ∧ v.stopped = false ∧ v.pi ≠ v.ci ∧ v.pi < 65536 ∧ v.ci < 65536
    let word := d.daddr % 64 / 5
    let ready := d.bad = false ∧ d.len = 1 ∧ d.hfmt = 0 ∧ d.daddr < 0x2000000000 ∧ d.daddr % 64 % 5 = 0 ∧ word < 12 ∧
         (∀ node, nodeOf d.daddr = some node → nodeState s node = 0) ∧ netCalm s = true ∧ probing s = false ∧
         (∀ r : Region, s.fld F.MEM_CTRL.DIAG r = 0) ∧ (rsDecode (bytesAt s.mem (d.daddr / 64 * 64) 64)).2 = 0
    runs ∧ v.run = none ∧ ready ∧ d.dir < 2) :=
  ⟨by decide +kernel, by decide +kernel, by decide +kernel, by decide +kernel, by decide +kernel, by decide +kernel, by decide +kernel, by decide +kernel, by decide +kernel, by decide +kernel, by decide +kernel, by decide +kernel, by decide +kernel, by decide +kernel, by decide +kernel, by decide +kernel⟩

end Sys2Proof.Tests.HostDmaCompletesInRingOrder

namespace Sys2Proof.Tests.VectorsAndPowerStatesOfTheHost

def runS : State := { State.reset with mode := .run, time := { State.reset.time with now := 5*10^12+5, running := true, step := 3, strideNum := 9 } }
def ev (s : State) : State := { (((s.setFld F.ERR_DEV_HEAD.COUNT 0 0 5).setFld F.HST_ERR.RD_TIMEOUT 0 0 1).setFld F.TIM_STATUS.PPS_IN_NEW 0 0 1) with time := { s.time with tsFifo := [⟨1,true,2,3,4⟩] } }

/-- The hypotheses of Obligations.VectorsAndPowerStatesOfTheHost. -/
theorem witness : (let s : State := { runS with resps := [{ isRead := true, dst := 0x58, tag := 3, status := 0 }, { isRead := false, dst := 0x5B, tag := 3, status := 0 }], queues := [(0, { waiting := [{ src := 0x58, tag := 3, stride := 0, words := [] }] })], net := { waitReq := [{ op := 2, src := 0x58, tag := 1, addr := 0x1000, sel := 1, stride := 0 }, { op := 0, src := 0x58, tag := 1, addr := 0x1000, sel := 1, stride := 0 }, { op := 2, src := 0x5B, tag := 1, addr := 0x1000, sel := 1, stride := 0 }] } }
    let v : BitVec 8 := 0
    let holds := (v = 0 ∧ s.fld F.ERR_DEV_HEAD.COUNT ≠ s.fld F.ERR_DEV_TAIL.COUNT) ∨
        (v = 1 ∧ bitsOf (s.reg .HST_ERR).toNat 39 34 ≠ 0) ∨ (v = 16 ∧ s.time.tsFifo ≠ []) ∨
        (v = 17 ∧ s.fld F.TIM_STATUS.PPS_IN_NEW = 1)
    ¬holds) ∧
    (let s : State := ev runS
    let v : BitVec 8 := 0
    let holds := (v = 0 ∧ s.fld F.ERR_DEV_HEAD.COUNT ≠ s.fld F.ERR_DEV_TAIL.COUNT) ∨
        (v = 1 ∧ bitsOf (s.reg .HST_ERR).toNat 39 34 ≠ 0) ∨ (v = 16 ∧ s.time.tsFifo ≠ []) ∨
        (v = 17 ∧ s.fld F.TIM_STATUS.PPS_IN_NEW = 1)
    holds) ∧
    (let s : State := hst { inReset := true, pba := 5, table := [(3, 7)], ring := [(5, 6)], msgs := [3] } (runS.setFld F.HST_BAR2_BASE.GIB 0 0 5)
    let h := s.host
    h.inReset = true) ∧
    (let s : State := { runS with resps := [{ isRead := true, dst := 0x58, tag := 3, status := 0 }, { isRead := false, dst := 0x5B, tag := 3, status := 0 }], queues := [(0, { waiting := [{ src := 0x58, tag := 3, stride := 0, words := [] }] })], net := { waitReq := [{ op := 2, src := 0x58, tag := 1, addr := 0x1000, sel := 1, stride := 0 }, { op := 0, src := 0x58, tag := 1, addr := 0x1000, sel := 1, stride := 0 }, { op := 2, src := 0x5B, tag := 1, addr := 0x1000, sel := 1, stride := 0 }] } }
    let h := s.host
    h.inReset = false ∧ (∀ v, bitOf h.pba v = false)) ∧
    (let s : State := hst { fnMask := false, pba := 1 } runS
    let v : Fin 256 := 0
    let h := s.host
    h.inReset = false ∧ h.fnMask = false ∧ h.pba = 2 ^ v.val ∧ h.d3 = false ∧ h.l2 = false) ∧
    (let s : State := { runS with resps := [{ isRead := true, dst := 0x58, tag := 3, status := 0 }, { isRead := false, dst := 0x5B, tag := 3, status := 0 }], queues := [(0, { waiting := [{ src := 0x58, tag := 3, stride := 0, words := [] }] })], net := { waitReq := [{ op := 2, src := 0x58, tag := 1, addr := 0x1000, sel := 1, stride := 0 }, { op := 0, src := 0x58, tag := 1, addr := 0x1000, sel := 1, stride := 0 }, { op := 2, src := 0x5B, tag := 1, addr := 0x1000, sel := 1, stride := 0 }] } }
    let h := s.host
    h.inReset = false ∧ h.d3 = false ∧ h.l2 = false) ∧
    (let s : State := { runS with resps := [{ isRead := true, dst := 0x58, tag := 3, status := 0 }, { isRead := false, dst := 0x5B, tag := 3, status := 0 }], queues := [(0, { waiting := [{ src := 0x58, tag := 3, stride := 0, words := [] }] })], net := { waitReq := [{ op := 2, src := 0x58, tag := 1, addr := 0x1000, sel := 1, stride := 0 }, { op := 0, src := 0x58, tag := 1, addr := 0x1000, sel := 1, stride := 0 }, { op := 2, src := 0x5B, tag := 1, addr := 0x1000, sel := 1, stride := 0 }] } }
    let h := s.host
    h.inReset = false ∧ h.fnMask = true) ∧
    (let s : State := { runS with resps := [{ isRead := true, dst := 0x58, tag := 3, status := 0 }, { isRead := false, dst := 0x5B, tag := 3, status := 0 }], queues := [(0, { waiting := [{ src := 0x58, tag := 3, stride := 0, words := [] }] })], net := { waitReq := [{ op := 2, src := 0x58, tag := 1, addr := 0x1000, sel := 1, stride := 0 }, { op := 0, src := 0x58, tag := 1, addr := 0x1000, sel := 1, stride := 0 }, { op := 2, src := 0x5B, tag := 1, addr := 0x1000, sel := 1, stride := 0 }] } }
    let h := s.host
    h.inReset = false) ∧
    (let s : State := hst { inReset := true, pba := 5, table := [(3, 7)], ring := [(5, 6)], msgs := [3] } (runS.setFld F.HST_BAR2_BASE.GIB 0 0 5)
    let h := s.host
    h.inReset = true) ∧
    (let s : State := hst { inReset := true, pba := 5, table := [(3, 7)], ring := [(5, 6)], msgs := [3] } (runS.setFld F.HST_BAR2_BASE.GIB 0 0 5)
    let h := s.host
    h.inReset = true) ∧
    (let s : State := { runS with resps := [{ isRead := true, dst := 0x58, tag := 3, status := 0 }, { isRead := false, dst := 0x5B, tag := 3, status := 0 }], queues := [(0, { waiting := [{ src := 0x58, tag := 3, stride := 0, words := [] }] })], net := { waitReq := [{ op := 2, src := 0x58, tag := 1, addr := 0x1000, sel := 1, stride := 0 }, { op := 0, src := 0x58, tag := 1, addr := 0x1000, sel := 1, stride := 0 }, { op := 2, src := 0x5B, tag := 1, addr := 0x1000, sel := 1, stride := 0 }] } }
    let d3 : Bool := false
    let l2 : Bool := true
    let h := s.host
    h.inReset = false ∧ (d3 = true ∨ l2 = true)) :=
  ⟨by decide +kernel, by decide +kernel, by decide +kernel, ⟨by decide +kernel, fun v => by simp [runS, bitOf, State.reset]⟩, by decide +kernel, by decide +kernel, by decide +kernel, by decide +kernel, by decide +kernel, by decide +kernel, by decide +kernel⟩

end Sys2Proof.Tests.VectorsAndPowerStatesOfTheHost

namespace Sys2Proof.Tests.ManagementPortsMoveFrames

def runS : State := { State.reset with mode := .run, time := { State.reset.time with now := 5*10^12+5, running := true, step := 3, strideNum := 9 } }
def fr (d n : Nat) : List (BitVec 8) := (List.range n).map fun i => if i < 6 then BitVec.ofNat 8 (d / 256^(5-i)) else BitVec.ofNat 8 (rnd i)
def g (f : Fld) (v : Nat) (s : State) : State := [0,1].foldl (fun s c => s.setFld f 0 c v) s
def en (s : State) := g F.HST_MGT_CFG.EN 1 (g F.HST_MGT_MAC_HI.MAC 0x123456 (g F.HST_MGT_MAC_LO.MAC 0x789ABC s))
def rx (b n wp rp : Nat) (s : State) := g F.HST_MGT_RX_BASE.ADDR b (g F.HST_MGT_RX_N.N n (g F.HST_MGT_RX_WP.COUNT wp (g F.HST_MGT_RX_RP.COUNT rp s)))
def tx (b n wp rp : Nat) (s : State) := g F.HST_MGT_TX_BASE.ADDR b (g F.HST_MGT_TX_N.N n (g F.HST_MGT_TX_WP.COUNT wp (g F.HST_MGT_TX_RP.COUNT rp s)))

/-- The hypotheses of Obligations.ManagementPortsMoveFrames. -/
theorem witness : (let s : State := runS
    let p : Fin 2 := 0
    let f := fun (t : State) (g : Fld) => t.fld g 0 p
    f s F.HST_MGT_CFG.EN = 0) ∧
    (let s : State := en runS
    let p : Fin 2 := 0
    let frame : List (BitVec 8) := fr 0xFFFFFFFFFFFF 64
    let bad : Bool := true
    let f := fun (t : State) (g : Fld) => t.fld g 0 p
    f s F.HST_MGT_CFG.EN = 1 ∧ (bad = true ∨ 1522 < frame.length)) ∧
    (let s : State := en runS
    let p : Fin 2 := 0
    let frame : List (BitVec 8) := fr 0x223456789ABC 60
    let bad : Bool := false
    let f := fun (t : State) (g : Fld) => t.fld g 0 p
    let bs := frame.map (fun b => b.toNat)
    let mac := f s F.HST_MGT_MAC_HI.MAC * 2 ^ 24 + f s F.HST_MGT_MAC_LO.MAC
    let mine := f s F.HST_MGT_CFG.PROMISC = 1 ∨ beNum bs 0 6 = mac ∨ beNum bs 0 6 = 0xFFFFFFFFFFFF ∨
        beNum bs 0 6 = 0x011B19000000 ∨ beNum bs 0 6 = 0x0180C200000E
    f s F.HST_MGT_CFG.EN = 1 ∧ bad = false ∧ frame.length ≤ 1522 ∧ ¬mine) ∧
    (let s : State := en runS
    let p : Fin 2 := 0
    let frame : List (BitVec 8) := fr 0xFFFFFFFFFFFF 64
    let bad : Bool := false
    let f := fun (t : State) (g : Fld) => t.fld g 0 p
    let bs := frame.map (fun b => b.toNat)
    let mac := f s F.HST_MGT_MAC_HI.MAC * 2 ^ 24 + f s F.HST_MGT_MAC_LO.MAC
    let mine := f s F.HST_MGT_CFG.PROMISC = 1 ∨ beNum bs 0 6 = mac ∨ beNum bs 0 6 = 0xFFFFFFFFFFFF ∨
        beNum bs 0 6 = 0x011B19000000 ∨ beNum bs 0 6 = 0x0180C200000E
    let n := f s F.HST_MGT_RX_N.N
    let wp := f s F.HST_MGT_RX_WP.COUNT
    let full := n = 0 ∨ (wp + 2 ^ 40 - f s F.HST_MGT_RX_RP.COUNT) % 2 ^ 40 = n
    f s F.HST_MGT_CFG.EN = 1 ∧ bad = false ∧ frame.length ≤ 1522 ∧ mine ∧ full) ∧
    (let s : State := rx 0x1000 4 5 2 (g F.HST_MGT_CFG.HIRQ 1 (en runS))
    let p : Fin 2 := 0
    let frame : List (BitVec 8) := fr 0xFFFFFFFFFFFF 64
    let bad : Bool := false
    let f := fun (t : State) (g : Fld) => t.fld g 0 p
    let inMain := fun (base n : Nat) => n = 0 ∨ 64 * base + 2048 * n ≤ 0x2000000000
    let bs := frame.map (fun b => b.toNat)
    let mac := f s F.HST_MGT_MAC_HI.MAC * 2 ^ 24 + f s F.HST_MGT_MAC_LO.MAC
    let mine := f s F.HST_MGT_CFG.PROMISC = 1 ∨ beNum bs 0 6 = mac ∨ beNum bs 0 6 = 0xFFFFFFFFFFFF ∨
        beNum bs 0 6 = 0x011B19000000 ∨ beNum bs 0 6 = 0x0180C200000E
    let n := f s F.HST_MGT_RX_N.N
    let wp := f s F.HST_MGT_RX_WP.COUNT
    let full := n = 0 ∨ (wp + 2 ^ 40 - f s F.HST_MGT_RX_RP.COUNT) % 2 ^ 40 = n
    let a := 64 * f s F.HST_MGT_RX_BASE.ADDR + 2048 * (wp % n)
    f s F.HST_MGT_CFG.EN = 1 ∧ bad = false ∧ frame.length ≤ 1522 ∧ mine ∧ ¬full ∧ f s F.HST_MGT_NOTIFY.ADDR = 0 ∧ inMain (f s F.HST_MGT_RX_BASE.ADDR) n ∧ (∀ b, b < 32 → memAccess s (a + 64 * b) ≠ 2)) ∧
    (let s : State := runS
    let p : Fin 2 := 0
    let f := fun (t : State) (g : Fld) => t.fld g 0 p
    let n := f s F.HST_MGT_TX_N.N
    let rp := f s F.HST_MGT_TX_RP.COUNT
    (f s F.HST_MGT_CFG.EN = 0 ∨ n = 0 ∨ f s F.HST_MGT_TX_WP.COUNT = rp)) ∧
    (let s : State := tx 0x1000 4 2 1 (en runS)
    let p : Fin 2 := 0
    let f := fun (t : State) (g : Fld) => t.fld g 0 p
    let n := f s F.HST_MGT_TX_N.N
    let rp := f s F.HST_MGT_TX_RP.COUNT
    let a := 64 * f s F.HST_MGT_TX_BASE.ADDR + 2048 * (rp % n)
    let ready := f s F.HST_MGT_CFG.EN = 1 ∧ n ≠ 0 ∧ f s F.HST_MGT_TX_WP.COUNT ≠ rp ∧ memAccess s a = 0 ∧ memAccess s (a + 1984) = 0
    let clean := ∀ b, b < 32 → (rsDecode (bytesAt s.mem ((a + 64 * b) / 64 * 64) 64)).2 = 0
    ready ∧ clean ∧ (∀ r : Region, s.fld F.MEM_CTRL.DIAG r = 0)) :=
  ⟨by decide +kernel, by decide +kernel, by decide +kernel, by decide +kernel, by decide +kernel, by decide +kernel, by decide +kernel⟩

end Sys2Proof.Tests.ManagementPortsMoveFrames

namespace Sys2Proof.Tests.MeasuredValuesAreLinearElevens

/-- The hypotheses of Obligations.MeasuredValuesAreLinearElevens. -/
theorem witness : (let milliwatts : Nat := 0
    milliwatts ≤ 1000 * 1000 * 32768) := by decide +kernel

end Sys2Proof.Tests.MeasuredValuesAreLinearElevens

namespace Sys2Proof.Tests.SidebandAnswersAndJudges

def runS : State := { State.reset with mode := .run, time := { State.reset.time with now := 5*10^12+5, running := true, step := 3, strideNum := 9 } }
def md (m : ModSt) (s : State) : State := { s with module := m }

/-- The hypotheses of Obligations.SidebandAnswersAndJudges. -/
theorem witness : (let s : State := runS
    let m := s.module
    m.alert = false) ∧
    (let s : State := md { warn := true, fault := true, under := true, temp := 0x80, input := 0x10, cml := 0x40, mfr := true, alert := true, badRails := [3], tripped := true } { runS with mode := .test }
    let m := s.module
    m.alert = true) :=
  ⟨by decide +kernel, by decide +kernel⟩

end Sys2Proof.Tests.SidebandAnswersAndJudges

namespace Sys2Proof.Tests.RegisterWritesFollowTheAccessTypes

def runS : State := { State.reset with mode := .run, time := { State.reset.time with now := 5*10^12+5, running := true, step := 3, strideNum := 9 } }

/-- The hypotheses of Obligations.RegisterWritesFollowTheAccessTypes. -/
theorem witness : (let addr : Nat := 0
    addr < 2 ^ 40 ∧ decodeReg addr = none) ∧
    (let addr : Nat := 549487444080
    let q := { reg := Reg.TIM_PPS_CFG, unit := 0, idx := 0 }
    let plain := [Reg.TIM_PPS_CFG, .TIM_NOW_FRAC, .PWR_CTRL, .PWR_WAKE_EN, .PWR_WAKE_PEND, .PWR_TEMP, .ERR_FRZ_CFG,
      .ERR_REG_STAT, .ERR_POL, .ERR_INJ_TGT, .HST_BAR2_BASE, .HST_MGT_MAC_LO, .SUP_WDOG, .SE_IRQ_EN, .RTE_DOM, .NOC_RSTAT, .LN_STATUS]
    addr < 2 ^ 40 ∧ decodeReg addr = some q ∧ q.reg ∈ plain) ∧
    (let addr : Nat := 549556322304
    let value : BitVec 64 := 0x2000000000
    let r : Region := 0
    addr = regAddr .PWR_REQ r 0 ∧ bitsOf value.toNat 39 37 = 1) ∧
    (let addr : Nat := 549556322304
    let value : BitVec 64 := 0x8000000000
    let r : Region := 0
    addr = regAddr .PWR_REQ r 0 ∧ bitsOf value.toNat 39 37 = 4) ∧
    (let addr : Nat := 549556322304
    let value : BitVec 64 := 0xFFFFFFFFFFFFFFFF
    let r : Region := 0
    addr = regAddr .PWR_REQ r 0 ∧ 4 < bitsOf value.toNat 39 37) ∧
    (let addr : Nat := 549487902728
    let value : BitVec 64 := 0x4000000000
    addr = regAddr .ERR_FRZ_CMD 0 0 ∧ bitsOf value.toNat 39 37 = 2) ∧
    (let addr : Nat := 549487902728
    let value : BitVec 64 := 0x8000000000
    addr = regAddr .ERR_FRZ_CMD 0 0 ∧ bitsOf value.toNat 39 37 = 4) ∧
    (let addr : Nat := 549487575040
    let value : BitVec 64 := 0
    addr = regAddr .RST_CMD 0 0 ∧ bitsOf value.toNat 30 15 ≠ 0x9640) ∧
    (let s : State := runS
    let addr : Nat := 1099511693312
    let c : Fin 8 := 0
    s.host.inReset = false ∧ addr = 2 ^ 40 + 0x10000 + 0x40 * c.val) ∧
    (let s : State := runS
    let addr : Nat := 1099511627776
    let c : Fin 8 := 0
    let i : Fin 1024 := 0
    s.host.inReset = false ∧ addr = 2 ^ 40 + 0x2000 * c.val + 8 * i.val) :=
  ⟨by decide +kernel, by decide +kernel, by decide +kernel, by decide +kernel, by decide +kernel, by decide +kernel, by decide +kernel, by decide +kernel, by decide +kernel, by decide +kernel⟩

end Sys2Proof.Tests.RegisterWritesFollowTheAccessTypes

end
end

section
/-! SUPPORT. Writes of register slots under the access types of R7: what a write does to one field, to the fields of one
register, and to the rest of the state. -/

namespace Sys2Proof.Laws

open Sys2Proof Sys2Proof.Machine Sys2Proof.Safety

/-! ### Bits -/

theorem bitOf_eq_testBit (n b : Nat) : bitOf n b = n.testBit b := by
  rw [bitOf, Nat.testBit_eq_decide_div_mod_eq]; rfl

theorem bitOf_or (m n b : Nat) : bitOf (m ||| n) b = (bitOf m b || bitOf n b) := by
  simp only [bitOf_eq_testBit, Nat.testBit_or]

/-- Taking from a number its bits in common with another clears them: bit 0 of the difference borrows nothing, and its upper
bits are the difference of the upper bits. -/
theorem testBit_sub_and (m n b : Nat) : (m - (m &&& n)).testBit b = (m.testBit b && !n.testBit b) := by
  induction b generalizing m n with
  | zero =>
    have hlow : (m &&& n) % 2 = m % 2 &&& n % 2 := Nat.and_mod_two_pow (n := 1)
    have hle : m &&& n ≤ m := Nat.and_le_left
    simp only [Nat.testBit_zero]
    generalize m &&& n = c at hlow hle ⊢
    rcases Nat.mod_two_eq_zero_or_one m with hm | hm <;> rcases Nat.mod_two_eq_zero_or_one n with hn | hn <;>
      simp [hm, hn] at hlow ⊢ <;> omega
  | succ b ih =>
    have hand : (m &&& n) / 2 = m / 2 &&& n / 2 := Nat.and_div_two
    have hlow : (m &&& n) % 2 = m % 2 &&& n % 2 := Nat.and_mod_two_pow (n := 1)
    have hle : m % 2 &&& n % 2 ≤ m % 2 := Nat.and_le_left
    have hhalf : (m - (m &&& n)) / 2 = m / 2 - (m / 2 &&& n / 2) := by
      rw [← hand]
      rw [← hlow] at hle
      generalize m &&& n = c at hle ⊢
      omega
    rw [Nat.testBit_succ, hhalf, ih, Nat.testBit_succ, Nat.testBit_succ]

theorem bitOf_sub_and (m n b : Nat) : bitOf (m - (m &&& n)) b = (bitOf m b && !bitOf n b) := by
  simp only [bitOf_eq_testBit, testBit_sub_and]

/-- A field of a number depends on the bits up to its highest one. -/
theorem bitsOf_mod_two_pow (n hi lo w : Nat) (h : lo ≤ hi) (hw : hi < w) : bitsOf (n % 2 ^ w) hi lo = bitsOf n hi lo := by
  obtain ⟨d, rfl⟩ : ∃ d, w = lo + (hi + 1 - lo + d) := ⟨w - (hi + 1), by omega⟩
  unfold bitsOf
  rw [Nat.pow_add, Nat.mod_mul_right_div_self, Nat.pow_add, Nat.mod_mul_right_mod]

theorem bitsOf_lowWord (n hi lo : Nat) (h : lo ≤ hi) (h40 : hi < 40) :
    bitsOf (BitVec.ofNat 40 n).toNat hi lo = bitsOf n hi lo := by
  rw [BitVec.toNat_ofNat, bitsOf_mod_two_pow n hi lo 40 h h40]

/-! ### The registers and their fields -/

/-- Two fields of one register share no bit. -/
abbrev FldsApart (f g : Fld) : Prop := f.hi < g.lo ∨ g.hi < f.lo

/-- A list of fields of one register, each within the word, no two of them sharing a bit. -/
abbrev FieldsOf (r : Reg) (fs : List Fld) : Prop :=
  (∀ f ∈ fs, f.reg = r ∧ f.lo ≤ f.hi ∧ f.hi < 40) ∧ fs.Pairwise FldsApart

/-- The field tables of all registers. -/
theorem fieldsOf_fields : ∀ r ∈ Reg.all, FieldsOf r r.fields := by decide +kernel

/-- A register found at an address is one of the list, and it covers the offset in its block. -/
theorem decodeReg_some {a : Nat} {q : RegRef} (h : decodeReg a = some q) :
    q.reg ∈ Reg.all ∧ ∃ b o, blockOf a = some (b, q.unit, o) ∧ q.reg.covers b q.unit o = some q.idx := by
  unfold decodeReg at h
  cases hb : blockOf a with
  | none => simp [hb] at h
  | some p =>
    obtain ⟨b, u, o⟩ := p
    simp only [hb] at h
    obtain ⟨r, hr, hq⟩ := List.exists_of_findSome?_eq_some h
    split at hq
    · cases hq
    · obtain ⟨i, hi, rfl⟩ := Option.map_eq_some_iff.1 hq
      exact ⟨hr, b, o, rfl, hi⟩

theorem blockOf_unit_lt {a u o : Nat} {b : Blk} (h : blockOf a = some (b, u, o)) : u < b.units := by
  unfold blockOf at h
  dsimp only at h
  split_ifs at h <;> cases h <;> dsimp only [Blk.units] <;> omega

theorem blockOf_lt {a : Nat} {p : Blk × Nat × Nat} (h : blockOf a = some p) : a < 2 ^ 40 := by
  unfold blockOf at h
  dsimp only at h
  split_ifs at h <;> omega

theorem decodeReg_lt {a : Nat} {q : RegRef} (h : decodeReg a = some q) : a < 2 ^ 40 := by
  obtain ⟨-, b, o, hb, -⟩ := decodeReg_some h
  exact blockOf_lt hb

/-- A register covers offsets of its own kind of block only. -/
theorem units_of_covers {r : Reg} {b : Blk} {u o i : Nat} (h : r.covers b u o = some i) : r.place.blk.units = b.units := by
  unfold Reg.covers at h
  cases hp : r.place.blk <;> cases b <;> simp [hp, Blk.units] at h ⊢

/-- The unit of a register found at an address exists. -/
theorem decodeReg_unit_lt {a : Nat} {q : RegRef} (h : decodeReg a = some q) : q.unit < q.reg.place.blk.units := by
  obtain ⟨-, b, o, hb, hc⟩ := decodeReg_some h
  exact units_of_covers hc ▸ blockOf_unit_lt hb

/-! ### The write of one field -/

/-- What the write of `v` makes of a field of the slot at `a` under its access type (R7): `old` and `new` are its values
before and after, `locked` says whether its LOCK bit stood, and `q` holds the values then pending in RWQ fields. -/
def FieldEffect (f : Fld) (a v : Nat) (locked : Prop) [Decidable locked] (old new : Nat) (q : List RwqEntry) : Prop :=
  match f.acc with
  | .RW => new = if f.isReserved v then old else v
  | .RWL => new = if f.isReserved v ∨ locked then old else v
  | .RWQ => new = old ∧ (f.isReserved v = false → ∃ e ∈ q, e.addr = a ∧ e.hi = f.hi ∧ e.lo = f.lo ∧ e.value = v)
  | .W1C => ∀ b, bitOf new b = (bitOf old b && !bitOf v b)
  | .W1S => ∀ b, bitOf new b = (bitOf old b || bitOf v b)
  | .RO | .WO | .RC => new = old

/-- More pending values do not undo the effect. -/
theorem FieldEffect.mono {f : Fld} {a v : Nat} {locked : Prop} [Decidable locked] {old new : Nat} {q q' : List RwqEntry}
    (h : FieldEffect f a v locked old new q) (hq : q ⊆ q') : FieldEffect f a v locked old new q' := by
  unfold FieldEffect at h ⊢
  cases hacc : f.acc <;> simp only [hacc] at h ⊢
  case RWQ =>
    obtain ⟨hnew, hpend⟩ := h
    refine ⟨hnew, fun hr => ?_⟩
    obtain ⟨e, he, hval⟩ := hpend hr
    exact ⟨e, hq he, hval⟩
  all_goals exact h

/-- The write of a field does nothing, sets that field, or enters one pending value. -/
theorem writeField_cases (u i w : Nat) (lock : Bool) (s : State) (f : Fld) :
    writeField u i w lock s f = s ∨ (∃ v, writeField u i w lock s f = s.setFld f u i v) ∨
    (∃ e, writeField u i w lock s f = { s with rwq := s.rwq ++ [e] }) := by
  unfold writeField
  cases f.acc
  case RW => dsimp only; split <;> simp
  case RWL => dsimp only; split <;> simp
  case RWQ => dsimp only; split <;> simp
  case W1C => exact .inr (.inl ⟨_, rfl⟩)
  case W1S => exact .inr (.inl ⟨_, rfl⟩)
  all_goals exact .inl rfl

theorem setFld_only (s : State) (f : Fld) (u i v : Nat) : s.setFld f u i v = { s with regs := (s.setFld f u i v).regs } := rfl

theorem writeField_only (u i w : Nat) (lock : Bool) (s : State) (f : Fld) :
    writeField u i w lock s f =
      { s with regs := (writeField u i w lock s f).regs, rwq := (writeField u i w lock s f).rwq } := by
  rcases writeField_cases u i w lock s f with h | ⟨v, h⟩ | ⟨e, h⟩ <;> rw [h]
  exact setFld_only s f u i v

theorem writeField_rwq_subset (u i w : Nat) (lock : Bool) (s : State) (f : Fld) :
    s.rwq ⊆ (writeField u i w lock s f).rwq := by
  rcases writeField_cases u i w lock s f with h | ⟨v, h⟩ | ⟨e, h⟩ <;> rw [h]
  · exact List.Subset.refl _
  · exact List.Subset.refl _
  · exact List.subset_append_left _ _

theorem writeField_regsKept (u i w : Nat) (lock : Bool) (s : State) (f : Fld) :
    RegsKept s.regs (writeField u i w lock s f).regs [regAddr f.reg u i] := by
  rcases writeField_cases u i w lock s f with h | ⟨v, h⟩ | ⟨e, h⟩ <;> rw [h]
  · exact RegsKept.refl _ _
  · exact RegsKept.setFld _ _ _ _ (List.mem_singleton_self _) (RegsKept.refl _ _)
  · exact RegsKept.refl _ _

theorem fld_writeField_apart (u i w : Nat) (lock : Bool) (s : State) (f g : Fld) (hr : g.reg = f.reg)
    (hf : f.lo ≤ f.hi) (hf40 : f.hi < 40) (hg : g.lo ≤ g.hi) (hfg : FldsApart f g) :
    (writeField u i w lock s f).fld g u i = s.fld g u i := by
  rcases writeField_cases u i w lock s f with h | ⟨v, h⟩ | ⟨e, h⟩ <;> rw [h]
  · exact State.fld_setFld_apart s f g u i v hr hf hf40 hg hfg
  · rfl

/-- The write of a field has the effect of its access type on it. -/
theorem writeField_effect (u i w : Nat) (lock : Bool) (s : State) (f : Fld) (hf : f.lo ≤ f.hi) (hf40 : f.hi < 40) :
    FieldEffect f (regAddr f.reg u i) (bitsOf w f.hi f.lo) (lock = true) (s.fld f u i)
      ((writeField u i w lock s f).fld f u i) (writeField u i w lock s f).rwq := by
  have hset : ∀ x, x < 2 ^ (f.hi + 1 - f.lo) → (s.setFld f u i x).fld f u i = x := fun x hx => by
    rw [State.fld_setFld_same s f u i x hf hf40, Nat.mod_eq_of_lt hx]
  have hv : bitsOf w f.hi f.lo < 2 ^ (f.hi + 1 - f.lo) := bitsOf_lt _ _ _
  have hold : s.fld f u i < 2 ^ (f.hi + 1 - f.lo) := bitsOf_lt _ _ _
  unfold FieldEffect writeField
  cases f.acc <;> dsimp only
  case RW => cases f.isReserved (bitsOf w f.hi f.lo) <;> simp [hset _ hv]
  case RWL => cases lock <;> cases f.isReserved (bitsOf w f.hi f.lo) <;> simp [hset _ hv]
  case RWQ =>
    cases f.isReserved (bitsOf w f.hi f.lo)
    · exact ⟨rfl, fun _ => ⟨_, List.mem_append_right _ (List.mem_singleton_self _), rfl, rfl, rfl, rfl⟩⟩
    · exact ⟨rfl, fun h => by cases h⟩
  case W1C =>
    intro b
    rw [hset _ (Nat.lt_of_le_of_lt (Nat.sub_le _ _) hold), bitOf_sub_and]
  case W1S =>
    intro b
    rw [hset _ (Nat.or_lt_two_pow hold hv), bitOf_or]

/-! ### The write of the fields of a register -/

theorem writeFields_only (u i w : Nat) (lock : Bool) (fs : List Fld) (s : State) :
    writeFields u i w lock fs s =
      { s with regs := (writeFields u i w lock fs s).regs, rwq := (writeFields u i w lock fs s).rwq } := by
  induction fs generalizing s with
  | nil => rfl
  | cons f fs ih =>
    rw [writeFields, ih, writeField_only]

theorem writeFields_rwq_subset (u i w : Nat) (lock : Bool) (fs : List Fld) (s : State) :
    s.rwq ⊆ (writeFields u i w lock fs s).rwq := by
  induction fs generalizing s with
  | nil => exact List.Subset.refl _
  | cons f fs ih => exact List.Subset.trans (writeField_rwq_subset u i w lock s f) (ih _)

theorem writeFields_regsKept (r : Reg) (u i w : Nat) (lock : Bool) (fs : List Fld) (s : State) (hr : ∀ f ∈ fs, f.reg = r) :
    RegsKept s.regs (writeFields u i w lock fs s).regs [regAddr r u i] := by
  induction fs generalizing s with
  | nil => exact RegsKept.refl _ _
  | cons f fs ih =>
    obtain ⟨hf, hfs⟩ := List.forall_mem_cons.1 hr
    exact (hf ▸ writeField_regsKept u i w lock s f).trans (ih _ hfs)

theorem fld_writeFields_apart (u i w : Nat) (lock : Bool) (fs : List Fld) (s : State) (g : Fld) (hg : g.lo ≤ g.hi)
    (hfs : ∀ f ∈ fs, f.reg = g.reg ∧ f.lo ≤ f.hi ∧ f.hi < 40) (hgf : ∀ f ∈ fs, FldsApart g f) :
    (writeFields u i w lock fs s).fld g u i = s.fld g u i := by
  induction fs generalizing s with
  | nil => rfl
  | cons f fs ih =>
    obtain ⟨⟨hreg, hlo, h40⟩, hfs⟩ := List.forall_mem_cons.1 hfs
    obtain ⟨hd, hgf⟩ := List.forall_mem_cons.1 hgf
    rw [writeFields, ih _ hfs hgf, fld_writeField_apart u i w lock s f g hreg.symm hlo h40 hg hd.symm]

/-- The write of the fields of a register has on each the effect of its access type: the fields written before and after it
share no bit with it. -/
theorem writeFields_effect (r : Reg) (u i w : Nat) (lock : Bool) (fs : List Fld) (s : State) (hfs : FieldsOf r fs) :
    ∀ f ∈ fs, FieldEffect f (regAddr r u i) (bitsOf w f.hi f.lo) (lock = true) (s.fld f u i)
      ((writeFields u i w lock fs s).fld f u i) (writeFields u i w lock fs s).rwq := by
  induction fs generalizing s with
  | nil => intro f hf; cases hf
  | cons g fs ih =>
    obtain ⟨hwf, hpair⟩ := hfs
    obtain ⟨⟨rfl, hlo, h40⟩, htail⟩ := List.forall_mem_cons.1 hwf
    obtain ⟨hapart, hpair⟩ := List.pairwise_cons.1 hpair
    intro f hf
    rcases List.mem_cons.1 hf with rfl | hf
    · rw [writeFields, fld_writeFields_apart u i w lock fs _ f hlo htail hapart]
      exact (writeField_effect u i w lock s f hlo h40).mono (writeFields_rwq_subset ..)
    · obtain ⟨hreg, hflo, -⟩ := htail f hf
      rw [← fld_writeField_apart u i w lock s g f hreg hlo h40 hflo (hapart f hf)]
      exact ih _ ⟨htail, hpair⟩ f hf

/-- A write of a register slot gives each field the effect of its access type. -/
theorem writeDefault_effect (s : State) (r : Reg) (hr : r ∈ Reg.all) (u i n : Nat) :
    ∀ f ∈ r.fields, FieldEffect f (regAddr r u i) (bitsOf n f.hi f.lo) (s.fld F.SUP_WDOG.LOCK u = 1) (s.fld f u i)
      ((s.writeDefault r u i (BitVec.ofNat 40 n)).fld f u i) (s.writeDefault r u i (BitVec.ofNat 40 n)).rwq := by
  intro f hf
  have hfs := fieldsOf_fields r hr
  obtain ⟨-, hlo, h40⟩ := hfs.1 f hf
  have h := writeFields_effect r u i (BitVec.ofNat 40 n).toNat (s.on F.SUP_WDOG.LOCK u) r.fields s hfs f hf
  rw [bitsOf_lowWord n f.hi f.lo hlo h40] at h
  simpa only [State.writeDefault, State.on, beq_iff_eq] using h

theorem writeDefault_keepsRegs (s : State) (r : Reg) (hr : r ∈ Reg.all) (u i : Nat) (w : Word) :
    KeepsRegs s (s.writeDefault r u i w) [regAddr r u i] :=
  writeFields_regsKept r u i w.toNat _ r.fields s fun f hf => ((fieldsOf_fields r hr).1 f hf).1

theorem writeDefault_only (s : State) (r : Reg) (u i : Nat) (w : Word) :
    s.writeDefault r u i w =
      { s with regs := (s.writeDefault r u i w).regs, rwq := (s.writeDefault r u i w).rwq } :=
  writeFields_only u i w.toNat _ r.fields s

end Sys2Proof.Laws
end
section
/-! SUPPORT. The statements of the scope: a register write (R7, R432) and the state after a power-on reset (R400). -/

namespace Sys2Proof.Laws

open Sys2Proof Sys2Proof.Machine Sys2Proof.Safety

/-! ### The command REGISTER_WRITE -/

theorem exec_registerWrite (a : Nat) (v : BitVec 64) (s : State) :
    exec (.registerWrite a v) s = execRegisterWrite a v s := rfl

theorem exec_registerWrite_none {s : State} {a : Nat} {v : BitVec 64} (ha : a < 2 ^ 40) (h : decodeReg a = none) :
    exec (.registerWrite a v) s = .next s := by
  rw [exec_registerWrite, execRegisterWrite, if_neg (Nat.not_le.2 ha), h]

theorem exec_registerWrite_slot {s : State} {a : Nat} {v : BitVec 64} {q : RegRef} (h : decodeReg a = some q) :
    exec (.registerWrite a v) s = .next (writeReg s q (BitVec.ofNat 40 v.toNat)) := by
  rw [exec_registerWrite, execRegisterWrite, if_neg (Nat.not_le.2 (decodeReg_lt h)), h]

theorem exec_registerWrite_bar4 (s : State) (x : Nat) (v : BitVec 64) :
    exec (.registerWrite (2 ^ 40 + x) v) s = .next (writeBar4 s x v.toNat) := by
  rw [exec_registerWrite, execRegisterWrite, if_pos (Nat.le_add_right _ _), Nat.add_sub_cancel_left]

/-! ### Which write a register takes -/

theorem writeReg_dev (s : State) {q : RegRef} (w : Word) (hb : q.reg.place.blk = .dev) :
    writeReg s q w = writeDevReg s q.reg q.idx w := by
  rw [writeReg, hb]

theorem writeReg_region (s : State) {q : RegRef} (w : Word) (hb : q.reg.place.blk = .region) (hp : q.reg.ofProc = false)
    (hc : q.reg.ofCfg = false) : writeReg s q w = writeRegionReg s q.reg q.unit q.idx w := by
  rw [writeReg, hb]; simp only [hp, hc, Bool.false_eq_true, if_false]

theorem writeReg_supervisor (s : State) {q : RegRef} (w : Word) (hb : q.reg.place.blk = .region) (hp : q.reg.ofProc = true) :
    writeReg s q w = writeProcReg s q.reg (64 + q.unit) q.idx w := by
  rw [writeReg, hb]; simp only [hp, if_true]

theorem writeReg_engine (s : State) {q : RegRef} (w : Word) (hb : q.reg.place.blk = .tile) (hp : q.reg.ofProc = true) :
    writeReg s q w = writeProcReg s q.reg q.unit q.idx w := by
  rw [writeReg, hb]; simp only [hp, if_true]

theorem writeReg_tile (s : State) {q : RegRef} (w : Word) (hb : q.reg.place.blk = .tile) (hp : q.reg.ofProc = false) :
    writeReg s q w = writeTileReg s q.reg q.unit q.idx w := by
  rw [writeReg, hb]; simp only [hp, Bool.false_eq_true, if_false]

theorem writeReg_lane (s : State) {q : RegRef} (w : Word) (hb : q.reg.place.blk = .laneTile) (hl : q.reg.ofLane = true) :
    writeReg s q w = writeLaneReg s q.reg q.unit q.idx w := by
  rw [writeReg, hb]; simp only [hl, if_true]

theorem ofLane_lnStatus : Reg.ofLane .LN_STATUS = true := by decide +kernel

theorem ofCfg_pwrReq : Reg.ofCfg .PWR_REQ = false := by decide +kernel

theorem procUnit_engine {t : Nat} (h : t < 64) : procUnit t = t := by
  simp [procUnit, isSup, h]

theorem procUnit_supervisor (r : Nat) : procUnit (64 + r) = r := by
  simp [procUnit, isSup]

/-! ### Registers without a write rule of their own -/

/-- The registers of the device block in the statement. -/
def plainDev : List Reg :=
  [.TIM_PPS_CFG, .TIM_NOW_FRAC, .PWR_CTRL, .PWR_TEMP, .ERR_FRZ_CFG, .ERR_POL, .ERR_INJ_TGT, .HST_BAR2_BASE, .HST_MGT_MAC_LO]

/-- The registers of a region's block in the statement, outside the supervisor's. -/
def plainRegion : List Reg := [.PWR_WAKE_EN, .PWR_WAKE_PEND, .ERR_REG_STAT, .RTE_DOM]

/-- The registers of the statement, which have no write rule of their own. -/
def plainRegs : List Reg :=
  [.TIM_PPS_CFG, .TIM_NOW_FRAC, .PWR_CTRL, .PWR_WAKE_EN, .PWR_WAKE_PEND, .PWR_TEMP, .ERR_FRZ_CFG, .ERR_REG_STAT, .ERR_POL,
    .ERR_INJ_TGT, .HST_BAR2_BASE, .HST_MGT_MAC_LO, .SUP_WDOG, .SE_IRQ_EN, .RTE_DOM, .NOC_RSTAT, .LN_STATUS]

theorem plainRegs_by_block : ∀ r ∈ plainRegs, r ∈ plainDev ∨ r ∈ plainRegion ∨ r = .SUP_WDOG ∨ r = .SE_IRQ_EN ∨
    r = .NOC_RSTAT ∨ r = .LN_STATUS := by decide +kernel

theorem plainDev_blk : ∀ r ∈ plainDev, r.place.blk = .dev := by decide +kernel

theorem plainRegion_blk : ∀ r ∈ plainRegion, r.place.blk = .region ∧ r.ofProc = false ∧ r.ofCfg = false := by decide +kernel

theorem writeDevReg_plain (s : State) (r : Reg) (i : Nat) (w : Word) (h : r ∈ plainDev) :
    writeDevReg s r i w = s.writeDefault r 0 i w := by
  simp only [plainDev, List.mem_cons, List.not_mem_nil, or_false] at h
  rcases h with rfl | rfl | rfl | rfl | rfl | rfl | rfl | rfl | rfl <;> rfl

theorem writeRegionReg_plain (s : State) (r : Reg) (u i : Nat) (w : Word) (h : r ∈ plainRegion) :
    writeRegionReg s r u i w = s.writeDefault r u i w := by
  simp only [plainRegion, List.mem_cons, List.not_mem_nil, or_false] at h
  rcases h with rfl | rfl | rfl | rfl <;> rfl

/-- A register without a write rule of its own takes a write under the access types of its fields alone. -/
theorem writeReg_plain (s : State) (q : RegRef) (w : Word) (hq : q.reg ∈ plainRegs)
    (hu : q.unit < q.reg.place.blk.units) : writeReg s q w = s.writeDefault q.reg q.unit q.idx w := by
  obtain ⟨r, u, i⟩ := q
  rcases plainRegs_by_block r hq with hdev | hregion | rfl | rfl | rfl | rfl
  · have hb := plainDev_blk r hdev
    obtain rfl : u = 0 := Nat.lt_one_iff.1 (by rw [hb] at hu; exact hu)
    rw [writeReg_dev s w hb, writeDevReg_plain s r i w hdev]
  · obtain ⟨hb, hp, hc⟩ := plainRegion_blk r hregion
    rw [writeReg_region s w hb hp hc, writeRegionReg_plain s r u i w hregion]
  · rw [writeReg_supervisor s w rfl rfl]
    change s.writeDefault .SUP_WDOG (procUnit (64 + u)) i w = _
    rw [procUnit_supervisor]
  · rw [writeReg_engine s w rfl rfl]
    change s.writeDefault .SE_IRQ_EN (procUnit u) i w = _
    rw [procUnit_engine hu]
  · exact writeReg_tile s w rfl rfl
  · exact writeReg_lane s w rfl ofLane_lnStatus

/-! ### Command fields -/

theorem decodeReg_pwrReq : ∀ r : Region, decodeReg (regAddr .PWR_REQ r 0) = some ⟨.PWR_REQ, r, 0⟩ := by decide +kernel

theorem decodeReg_frzCmd : decodeReg (regAddr .ERR_FRZ_CMD 0 0) = some ⟨.ERR_FRZ_CMD, 0, 0⟩ := by decide +kernel

theorem decodeReg_rstCmd : decodeReg (regAddr .RST_CMD 0 0) = some ⟨.RST_CMD, 0, 0⟩ := by decide +kernel

theorem exec_write_pwrReq (s : State) (r : Region) (v : BitVec 64) :
    exec (.registerWrite (regAddr .PWR_REQ r 0) v) s = .next (writePwrReq s (some r) (BitVec.ofNat 40 v.toNat)) := by
  rw [exec_registerWrite_slot (decodeReg_pwrReq r), writeReg_region _ _ rfl rfl ofCfg_pwrReq]
  change Host.Outcome.next (writePwrReq s (some (Fin.ofNat 4 r)) _) = _
  rw [Fin.ofNat_val_eq_self]

theorem exec_write_frzCmd (s : State) (v : BitVec 64) :
    exec (.registerWrite (regAddr .ERR_FRZ_CMD 0 0) v) s = .next (writeFrzCmd s (BitVec.ofNat 40 v.toNat)) := by
  rw [exec_registerWrite_slot decodeReg_frzCmd, writeReg_dev _ _ rfl]; rfl

theorem exec_write_rstCmd (s : State) (v : BitVec 64) :
    exec (.registerWrite (regAddr .RST_CMD 0 0) v) s = .next (writeRstCmd s (BitVec.ofNat 40 v.toNat)) := by
  rw [exec_registerWrite_slot decodeReg_rstCmd, writeReg_dev _ _ rfl]; rfl

theorem writePwrReq_reserved (s : State) (r : Option Region) (w : Word) (h : 4 < bitsOf w.toNat 39 37) :
    writePwrReq s r w = s := by
  unfold writePwrReq
  split
  case h_5 => rfl
  all_goals omega

/-- A write of RST_CMD without its key sets KEY_ERR and does nothing else. -/
theorem writeRstCmd_wrong_key (s : State) (w : Word) (h : bitsOf w.toNat 30 15 ≠ 0x9640) :
    writeRstCmd s w = s.setFld F.RST_STATUS.KEY_ERR 0 0 1 := if_pos h

theorem fld_setFld_keyErr (s : State) : (s.setFld F.RST_STATUS.KEY_ERR 0 0 1).fld F.RST_STATUS.KEY_ERR = 1 :=
  State.fld_setFld_same s F.RST_STATUS.KEY_ERR 0 0 1 (by decide) (by decide)

/-! ### BAR4 -/

theorem writeBar4_ring (s : State) (c : Fin 8) (i : Fin 1024) (v : Nat) (h : s.host.inReset = false) :
    writeBar4 s (0x2000 * c.val + 8 * i.val) v =
      { s with host := { s.host with ring := mset 0 s.host.ring (1024 * c.val + i.val) (v % 2 ^ 64) } } := by
  obtain ⟨c, hc⟩ := c
  obtain ⟨i, hi⟩ := i
  have hslot : (0x2000 * c + 8 * i) / 0x2000 = c ∧ (0x2000 * c + 8 * i) % 0x2000 / 8 = i := by omega
  have hword : ¬(s.host.inReset = true ∨ (0x2000 * c + 8 * i) % 8 ≠ 0) := by rw [h]; simp; omega
  simp only [writeBar4]
  rw [if_neg hword, if_pos (by omega), hslot.1, hslot.2]

theorem writeBar4_doorbell (s : State) (c : Fin 8) (v : Nat) (h : s.host.inReset = false) :
    writeBar4 s (0x10000 + 0x40 * c.val) v = hostDoor s c (v % 2 ^ 64 % 65536) := by
  obtain ⟨c, hc⟩ := c
  have hslot : 0x40 * c / 0x40 = c ∧ (0x10000 + 0x40 * c) % 0x40 = 0 := by omega
  have hword : ¬(s.host.inReset = true ∨ (0x10000 + 0x40 * c) % 8 ≠ 0) := by rw [h]; simp; omega
  simp only [writeBar4]
  rw [if_neg hword, if_neg (by omega), if_pos (by omega), Nat.add_sub_cancel_left, hslot.1, hslot.2]
  rfl

theorem exec_dmaDoorbell (s : State) (c : Fin 8) (pi : BitVec 16) (h : s.host.inReset = false) :
    exec (.dmaDoorbell c pi) s = .next (hostDoor s c pi.toNat) := by
  change execDmaDoorbell c pi s = _
  rw [execDmaDoorbell, h]; rfl

end Sys2Proof.Laws

open Sys2Proof Sys2Proof.Machine Sys2Proof.Safety Sys2Proof.Laws

/-- Settles O60: the fields of a register are written one after the other and share no bit, so each sees its own access type
alone. -/
theorem registerWritesFollowTheAccessTypes : Obligations.RegisterWritesFollowTheAccessTypes := by
  unfold Obligations.RegisterWritesFollowTheAccessTypes
  intro s addr value
  refine ⟨fun ha hd => exec_registerWrite_none ha hd, ?plain, ?pwrReq, ?frzCmd, ?rstCmd, ?doorbell, ?ring⟩
  case plain =>
    intro q _ hd hq
    obtain ⟨hall, -⟩ := decodeReg_some hd
    refine ⟨s.writeDefault q.reg q.unit q.idx (BitVec.ofNat 40 value.toNat), ?_, ?_, ?_, ?_⟩
    · rw [exec_registerWrite_slot hd, writeReg_plain s q _ hq (decodeReg_unit_lt hd)]
    · exact writeDefault_effect s q.reg hall q.unit q.idx value.toNat
    · exact writeDefault_keepsRegs s q.reg hall q.unit q.idx _
    · exact writeDefault_only s q.reg q.unit q.idx _
  case pwrReq =>
    rintro r rfl
    rw [exec_write_pwrReq, ← bitsOf_lowWord value.toNat 39 37 (by decide) (by decide)]
    refine ⟨fun h => ?_, fun h => ?_, fun h => ?_⟩
    · rw [writePwrReq, h]; rfl
    · rw [writePwrReq, h]; rfl
    · rw [writePwrReq_reserved s (some r) _ h]
  case frzCmd =>
    rintro rfl
    rw [exec_write_frzCmd, ← bitsOf_lowWord value.toNat 39 37 (by decide) (by decide)]
    refine ⟨fun h => ?_, fun h => ?_⟩
    · rw [writeFrzCmd, h]; rfl
    · rw [writeFrzCmd, h]; rfl
  case rstCmd =>
    rintro rfl hkey
    rw [← bitsOf_lowWord value.toNat 30 15 (by decide) (by decide)] at hkey
    rw [exec_write_rstCmd, writeRstCmd_wrong_key s _ hkey]
    exact ⟨_, rfl, fld_setFld_keyErr s, setFld_only ..⟩
  case doorbell =>
    rintro c hr rfl
    rw [Nat.add_assoc, exec_registerWrite_bar4, writeBar4_doorbell s c _ hr, exec_dmaDoorbell s c _ hr, BitVec.toNat_ofNat,
      Nat.mod_eq_of_lt value.isLt]
  case ring =>
    rintro c i hr rfl
    rw [Nat.add_assoc, exec_registerWrite_bar4, writeBar4_ring s c i _ hr, Nat.mod_eq_of_lt value.isLt]
    exact ⟨_, rfl, mget_mset_same .., fun k hk => mget_mset_other _ _ _ _ _ _ hk, rfl⟩

/-- Settles O3: every register slot holds its reset value, and everything else is as an empty state has it. -/
theorem resetLeavesTheSpecValues : Obligations.ResetLeavesTheSpecValues := by
  unfold Obligations.ResetLeavesTheSpecValues
  refine ⟨rfl, rfl, rfl, rfl, rfl, ?region, rfl, rfl, rfl, rfl, rfl, rfl, rfl, rfl, rfl, rfl, ?policy, rfl, ?proc, ?zone⟩
  case region => decide +kernel
  case policy => decide
  case proc => decide
  case zone => decide +kernel

end
section
/-! SUPPORT. The read of the timestamp FIFO (R35, R42), and why the statement on it fails: an entry whose port is no management
port. -/

namespace Sys2Proof.Laws

open Sys2Proof Sys2Proof.Machine Sys2Proof.Safety

/-- A timestamp FIFO whose one entry names port 2. A management port is 0 or 1, but `TsEntry.port` is any number, and the word
of the entry adds it at bit 38 without cutting it to one bit. -/
def portTwoEntry : State :=
  { State.reset with time := { State.reset.time with tsFifo := [⟨2, false, 0, 0, 0⟩] } }

theorem exec_timTsInfoRead_cons {s : State} {e : TsEntry} {es : List TsEntry} (h : s.time.tsFifo = e :: es) {t : State}
    (ht : exec .timTsInfoRead s = .next t) : t.lastRead = tsInfoWord e := by
  have hexec : exec .timTsInfoRead s = execTimTsInfoRead s := rfl
  rw [hexec, execTimTsInfoRead, h] at ht
  cases ht
  rfl

end Sys2Proof.Laws

open Sys2Proof Sys2Proof.Machine Sys2Proof.Safety Sys2Proof.Laws

/-- Refutes O8: TIM_TS_INFO.VALID does not read 1 with an entry of port 2, whose port bits carry into bit 39 and out of the
word. -/
theorem not_splitReadsAndTimestamps : ¬ Obligations.SplitReadsAndTimestamps := by
  unfold Obligations.SplitReadsAndTimestamps
  rintro ⟨hreads, -⟩
  obtain ⟨-, -, -, htsInfo, -⟩ := hreads portTwoEntry
  obtain ⟨t, ht, -, hvalid, -⟩ := htsInfo ⟨2, false, 0, 0, 0⟩ [] rfl
  rw [exec_timTsInfoRead_cons rfl ht] at hvalid
  exact absurd hvalid (by decide)
end
section
/-! SUPPORT. Signed numbers as words, and the tick of the time base (R33, R37, R118). -/

namespace Sys2Proof.Laws

open Sys2Proof Sys2Proof.Machine Sys2Proof.Safety

/-! ### Signed numbers of 40 bits -/

/-- The signed value of a word is the word as a two's-complement number. -/
theorem signed_toNat (w : Word) : signed 40 w.toNat = w.toInt := by
  have hw := w.isLt
  rw [signed, Nat.mod_eq_of_lt hw, BitVec.toInt_eq_toNat_cond]
  split <;> split <;> omega

/-- A number within 40 signed bits is kept by its word. -/
theorem toInt_unsigned {i : Int} (hlo : -(2 ^ 39) ≤ i) (hhi : i < 2 ^ 39) : (BitVec.ofNat 40 (unsigned 40 i)).toInt = i := by
  rw [BitVec.toInt_eq_toNat_cond, BitVec.toNat_ofNat, unsigned]
  split <;> omega

theorem clampInt_eq_max_min {lo hi : Int} (h : lo ≤ hi) (i : Int) : clampInt lo hi i = max lo (min hi i) := by
  unfold clampInt
  split_ifs <;> omega

/-! ### The clock trees -/

/-- Of the whole state, only the clock trees changed. -/
def RckOnly (s t : State) : Prop := ∃ k, t = { s with fab := { s.fab with rck := k } }

theorem RckOnly.refl (s : State) : RckOnly s s := ⟨s.fab.rck, rfl⟩

theorem RckOnly.trans {s t u : State} (hst : RckOnly s t) (htu : RckOnly t u) : RckOnly s u := by
  obtain ⟨k, rfl⟩ := hst
  obtain ⟨k', rfl⟩ := htu
  exact ⟨k', rfl⟩

theorem rckEdge_only (s : State) (r src : Nat) (rising : Bool) (sel : Nat → Nat → Bool) :
    RckOnly s (rckEdge s r src rising sel) := by
  refine List.foldlRecOn _ _ (RckOnly.refl s) fun t ht n _ => ht.trans ?_
  dsimp only
  split
  · exact ⟨_, rfl⟩
  · exact RckOnly.refl t

theorem rckEdges_only (s : State) (src : Nat) (rising : Bool) : RckOnly s (rckEdges s src rising) :=
  List.foldlRecOn _ _ (RckOnly.refl s) fun t ht r _ => ht.trans (rckEdge_only t r src rising _)

theorem stepClock_only (n : Nat) (s : State) : RckOnly s (stepClock n s) := by
  induction n generalizing s with
  | zero => exact RckOnly.refl s
  | succ n ih => exact ((rckEdges_only s 1 true).trans (rckEdges_only _ 1 false)).trans (ih _)

theorem tickClocks_only (s : State) (old now : Nat) : RckOnly s (tickClocks s old now) := by
  have hsource : RckOnly s (if old / 102400 < now / 102400 then rckEdges s 5 true
      else if (old + 51200) / 102400 < (now + 51200) / 102400 then rckEdges s 5 false else s) := by
    split_ifs
    · exact rckEdges_only s 5 true
    · exact rckEdges_only s 5 false
    · exact RckOnly.refl s
  unfold tickClocks
  dsimp only
  split
  · exact hsource
  · exact hsource.trans (stepClock_only _ _)

/-! ### The tick -/

theorem timeSpan_pos : 0 < timeSpan := by decide

/-- The state of the time base after a tick. -/
def tickTime (s : State) : TimeBase :=
  let total := tickTotal s.time.now s.time.sub (signed 40 (s.reg .TIM_RATE).toNat)
  let next := (total / 2 ^ 40).toNat
  { s.time with
    now := next % timeSpan
    phase := 0
    sub := (total % 2 ^ 40).toNat
    refOut := if s.on F.TIM_CTRL.REF_OUT_EN then
        (if s.time.now / 102400 < next / 102400 then some (next % timeSpan / 102400 * 102400) else s.time.refOut)
      else none
    ppsDue := s.time.ppsDue || decide (secOf (next % timeSpan) ≠ secOf s.time.now) }

theorem exec_timeBaseTick (s : State) :
    ∃ k, exec .timeBaseTick s = .next { s with time := tickTime s, fab := { s.fab with rck := k } } := by
  obtain ⟨k, hk⟩ := tickClocks_only { s with time := tickTime s } s.time.now
    (tickTotal s.time.now s.time.sub (signed 40 (s.reg .TIM_RATE).toNat) / 2 ^ 40).toNat
  refine ⟨k, ?_⟩
  rw [← hk]
  rfl

/-- No fraction of a unit is lost in a tick. -/
theorem tickTime_total (s : State) (h0 : 0 ≤ tickTotal s.time.now s.time.sub (s.reg .TIM_RATE).toInt)
    (hspan : tickTotal s.time.now s.time.sub (s.reg .TIM_RATE).toInt < 2 ^ 40 * timeSpan) :
    ((tickTime s).now : Int) * 2 ^ 40 + (tickTime s).sub = tickTotal s.time.now s.time.sub (s.reg .TIM_RATE).toInt ∧
      (tickTime s).sub < 2 ^ 40 := by
  simp only [tickTime, signed_toNat]
  generalize tickTotal s.time.now s.time.sub (s.reg .TIM_RATE).toInt = total at h0 hspan ⊢
  have hnext : (total / 2 ^ 40).toNat < timeSpan := by omega
  rw [Nat.mod_eq_of_lt hnext]
  omega

/-- REF_OUT rises at the multiple of 100 ns that the tick has reached. -/
theorem tickTime_refOut (s : State) (hon : s.fld F.TIM_CTRL.REF_OUT_EN = 1)
    (h : s.time.now / 102400 < (tickTime s).now / 102400) :
    (tickTime s).refOut = some ((tickTime s).now / 102400 * 102400) := by
  have hreach : ∀ n : Nat, s.time.now / 102400 < n % timeSpan / 102400 → s.time.now / 102400 < n / 102400 := fun n hn =>
    Nat.lt_of_lt_of_le hn (Nat.div_le_div_right (Nat.mod_le _ _))
  simp only [tickTime, State.on, hon, beq_self_eq_true, if_true] at h ⊢
  rw [if_pos (hreach _ h)]

theorem tickTime_refOut_off (s : State) (hoff : s.fld F.TIM_CTRL.REF_OUT_EN = 0) : (tickTime s).refOut = none := by
  simp [tickTime, State.on, hoff]

end Sys2Proof.Laws
end
section
/-! SUPPORT. The registers of the time base: its rate, the stride, PPS and the reference (R34, R36-R40, R50, R54). -/

namespace Sys2Proof.Laws

open Sys2Proof Sys2Proof.Machine Sys2Proof.Safety

/-! ### TIM_RATE (R34, R55) -/

theorem rate_written_toInt (v : Word) :
    (BitVec.ofNat 40 (unsigned 40 (clampInt (-rateClamp) rateClamp (signed 40 v.toNat)))).toInt =
      max (-109951163) (min 109951163 v.toInt) := by
  rw [signed_toNat, clampInt_eq_max_min (by decide), show rateClamp = 109951163 from rfl]
  exact toInt_unsigned (by omega) (by omega)

theorem flag_decide (p : Prop) [Decidable p] : flag (decide p) = if p then 1 else 0 := by
  simp [flag]

/-- STEER_CLAMP is written while strides run. -/
theorem steerClamp_setRate (s : State) (w : Word) :
    steerClamp (s.setReg .TIM_RATE 0 0 w) =
      if s.time.running then (s.setReg .TIM_RATE 0 0 w).setFld F.TIM_STATUS.STEER_CLAMP 0 0
        (if w.toInt + s.time.steer < -109951163 ∨ 109951163 < w.toInt + s.time.steer then 1 else 0)
      else s.setReg .TIM_RATE 0 0 w := by
  have hsum : steerSum (s.setReg .TIM_RATE 0 0 w) = w.toInt + s.time.steer := by
    rw [steerSum, State.reg_setReg_same, signed_toNat]; rfl
  rw [steerClamp, hsum, flag_decide]
  rfl

theorem reg_rate_steerClamp (s : State) (w : Word) : (steerClamp (s.setReg .TIM_RATE 0 0 w)).reg .TIM_RATE = w := by
  rw [steerClamp_setRate]
  split
  · rw [State.reg_setFld_other _ _ _ _ _ _ _ _ (by decide), State.reg_setReg_same]
  · rw [State.reg_setReg_same]

/-! ### TIM_STRIDE_CFG and the held stride number (R50, R54) -/

theorem isReserved_slew (v : Nat) (h : v ≤ 100) : F.TIM_STRIDE_CFG.SLEW.isReserved v = false := by
  simp [Fld.isReserved, F.TIM_STRIDE_CFG.SLEW]; omega

theorem isReserved_p (v : Nat) (h : 640 ≤ v) (h' : v ≤ 1024) : F.TIM_STRIDE_CFG.P.isReserved v = false := by
  simp [Fld.isReserved, F.TIM_STRIDE_CFG.P]; omega

/-- The write of an RW field whose value is not reserved. -/
theorem writeField_rw (u i w : Nat) (lock : Bool) (s : State) (f : Fld) (hacc : f.acc = .RW)
    (hres : f.isReserved (bitsOf w f.hi f.lo) = false) :
    writeField u i w lock s f = s.setFld f u i (bitsOf w f.hi f.lo) := by
  rw [writeField, hacc]; simp only [hres, Bool.false_eq_true, if_false]

theorem writeStrideCfg_slew (s : State) (v : Word) (h : bitsOf v.toNat 27 21 ≤ 100) :
    writeField 0 0 v.toNat false s F.TIM_STRIDE_CFG.SLEW = s.setFld F.TIM_STRIDE_CFG.SLEW 0 0 (bitsOf v.toNat 27 21) :=
  writeField_rw 0 0 v.toNat false s F.TIM_STRIDE_CFG.SLEW rfl (isReserved_slew _ h)

theorem writeStrideCfg_taken {s : State} {v : Word} (hslew : bitsOf v.toNat 27 21 ≤ 100)
    (hmode : s.mode = .blank ∨ s.mode = .loading ∨ s.mode = .frozen) (hlo : 640 ≤ bitsOf v.toNat 10 0)
    (hhi : bitsOf v.toNat 10 0 ≤ 1024) :
    writeStrideCfg s v =
      (s.setFld F.TIM_STRIDE_CFG.SLEW 0 0 (bitsOf v.toNat 27 21)).setFld F.TIM_STRIDE_CFG.P 0 0 (bitsOf v.toNat 10 0) := by
  rw [writeStrideCfg, if_pos hmode, writeStrideCfg_slew s v hslew]
  exact writeField_rw 0 0 v.toNat false _ F.TIM_STRIDE_CFG.P rfl (isReserved_p _ hlo hhi)

theorem writeStrideCfg_refused {s : State} {v : Word} (hslew : bitsOf v.toNat 27 21 ≤ 100)
    (hmode : ¬(s.mode = .blank ∨ s.mode = .loading ∨ s.mode = .frozen))
    (hp : bitsOf v.toNat 10 0 ≠ s.fld F.TIM_STRIDE_CFG.P) :
    writeStrideCfg s v =
      (s.setFld F.TIM_STRIDE_CFG.SLEW 0 0 (bitsOf v.toNat 27 21)).setFld F.TIM_STATUS.P_REFUSED 0 0 1 := by
  rw [writeStrideCfg, if_neg hmode, writeStrideCfg_slew s v hslew]
  exact if_neg hp

/-- The number of the last ideal boundary that device time has reached. -/
def heldStride (s : State) : Int := ((s.time.now : Int) - s.epochReg) / s.strideT + s.strideK

theorem boundaryAt_le_iff {s : State} (hT : 0 < s.strideT) (n : Nat) :
    boundaryAt s.epochReg s.strideK s.strideT n ≤ s.time.now ↔ (n : Int) ≤ heldStride s := by
  have hT' : (0 : Int) < s.strideT := by exact_mod_cast hT
  rw [heldStride, ← sub_le_iff_le_add, Int.le_ediv_iff_mul_le hT', boundaryAt]
  constructor <;> intro h <;> linarith

theorem heldStride_lt {s : State} (hT : 0 < s.strideT) (hnow : s.time.now < timeSpan) : heldStride s < 2 ^ 80 := by
  have hT' : (0 : Int) < s.strideT := by exact_mod_cast hT
  have hK : s.strideK < 2 ^ 39 := by
    rw [State.strideK, signed_toNat]; exact BitVec.toInt_lt
  have hspan : (s.time.now : Int) < timeSpan := by exact_mod_cast hnow
  have hdiv : ((s.time.now : Int) - s.epochReg) / s.strideT ≤ s.time.now :=
    calc ((s.time.now : Int) - s.epochReg) / s.strideT ≤ (s.time.now : Int) / s.strideT :=
          Int.ediv_le_ediv hT' (by omega)
      _ ≤ s.time.now := Int.ediv_le_self _ (by omega)
  have hval : (timeSpan : Int) = 2 ^ 40 * 1024000000000 := rfl
  rw [heldStride]
  omega

/-- The stride number that the held number advances to. -/
def heldAdvanced (s : State) : Nat :=
  if (s.time.strideNum : Int) < heldStride s then (heldStride s).toNat else s.time.strideNum

theorem exec_heldStrideAdvance {s : State} (hrun : s.time.running = false) (hS : s.stepsS ≠ 0) (hT : 0 < s.strideT)
    (h0 : boundaryAt s.epochReg s.strideK s.strideT 0 ≤ s.time.now) (hnow : s.time.now < timeSpan) :
    exec .heldStrideAdvance s = .next { s with time := { s.time with strideNum := heldAdvanced s } } := by
  have hidle : ¬(s.time.running = true ∨ s.stepsS = 0) := by simp [hrun, hS]
  have hwidth : (heldStride s).toNat % 2 ^ 80 = (heldStride s).toNat :=
    Nat.mod_eq_of_lt (by have := heldStride_lt hT hnow; omega)
  change execHeldStrideAdvance s = _
  rw [execHeldStrideAdvance, if_neg hidle]
  dsimp only
  rw [if_neg (Int.not_lt.2 h0)]
  change (if (s.time.strideNum : Int) < heldStride s then
      Host.Outcome.next { s with time := { s.time with strideNum := (heldStride s).toNat % 2 ^ 80 } }
    else Host.Outcome.next s) = _
  rw [hwidth, heldAdvanced]
  split <;> rfl

theorem le_heldAdvanced_iff {s : State} (hT : 0 < s.strideT) (n : Nat) :
    n ≤ heldAdvanced s ↔ n ≤ s.time.strideNum ∨ boundaryAt s.epochReg s.strideK s.strideT n ≤ s.time.now := by
  rw [boundaryAt_le_iff hT, heldAdvanced]
  split <;> omega

end Sys2Proof.Laws
end
section
/-! SUPPORT. Error records (R405), what a wake event writes (R396, R397), and PPS_OUT, PPS_IN and the reference (R37-R40). -/

namespace Sys2Proof.Laws

open Sys2Proof Sys2Proof.Machine Sys2Proof.Safety

/-! ### Error records -/

/-- The bits of a number above `2 ^ lo`, where what lies above fits its field. -/
theorem bitsOf_mul_add {code low hi lo : Nat} (hlow : low < 2 ^ lo) (hcode : code < 2 ^ (hi + 1 - lo)) :
    bitsOf (code * 2 ^ lo + low) hi lo = code := by
  rw [bitsOf, Nat.add_comm, Nat.add_mul_div_right _ _ (Nat.two_pow_pos _), Nat.div_eq_of_lt hlow, Nat.zero_add,
    Nat.mod_eq_of_lt hcode]

theorem bitsOf_recWord0 {code region tile cluster cell : Nat} (sc : Scope) (inj : Bool) (hcode : code < 2 ^ 16)
    (hregion : region < 4) (htile : tile < 16) (hcluster : cluster < 16) (hcell : cell < 64) :
    bitsOf (recWord0 code sc region tile cluster cell inj).toNat 39 24 = code := by
  have hflag : flag inj < 2 := by cases inj <;> decide
  unfold recWord0
  dsimp only
  rw [bitsOf_lowWord _ _ _ (by decide) (by decide)]
  simp only [Nat.add_assoc]
  refine bitsOf_mul_add ?_ hcode
  cases sc <;> simp only [Scope.code, reduceCtorEq, if_true, if_false] <;> omega

/-- A state with one record more than `s` reports its code. -/
theorem reports_of_emit {s t u : State} {code region tile : Nat} {sc : Scope} {inj : Bool}
    (ht : t.detected = (u.emit code sc region tile 0 0 inj).detected) (hu : u.detected = s.detected) (hcode : code < 2 ^ 16)
    (hregion : region < 4) (htile : tile < 16) : Reports s t code :=
  ⟨_, ht.trans (congrArg (· ++ _) hu), bitsOf_recWord0 sc inj hcode hregion htile (by decide) (by decide)⟩

/-! ### Frames -/

/-- What keeps every field but the listed ones keeps the registers at every other address. -/
theorem regsKept_of_fldsKept {m m' : List (Nat × Word)} {fs : List (Fld × Nat × Nat)} (h : FldsKept m m' fs) :
    RegsKept m m' (fs.map fun f => regAddr f.1.reg f.2.1 f.2.2) := by
  intro r u i hn
  have hword : ∀ w : Word, bitsOf w.toNat 39 0 = w.toNat := fun w => by
    rw [bitsOf, Nat.pow_zero, Nat.div_one]; exact Nat.mod_eq_of_lt w.isLt
  have hall := h { reg := r, hi := 39, lo := 0, acc := .RO, reset := 0, by_ := [] } u i (Nat.zero_le _)
    fun f hf he => absurd (List.mem_map.2 ⟨f, hf, he.symm⟩) hn
  simp only [fldIn, hword] at hall
  exact BitVec.eq_of_toNat_eq hall

theorem fld_of_regsKept {s t : State} {as : List Nat} (h : RegsKept s.regs t.regs as) (f : Fld) (u i : Nat)
    (hn : regAddr f.reg u i ∉ as) : t.fld f u i = s.fld f u i := by
  have hreg : t.reg f.reg u i = s.reg f.reg u i := h f.reg u i hn
  rw [State.fld, State.fld, hreg]

/-! ### Wake events -/

/-- The fields that the beginning of an exit or of an unwinding writes. -/
def wakeFlds (r : Nat) : List (Fld × Nat × Nat) :=
  [(F.PWR_STAT.DIR, r, 0), (F.PWR_STAT.STEP, r, 0), (F.PWR_STAT.BUSY, r, 0), (F.PWR_WAKE_PEND.LAST, r, 0),
    (F.PWR_STAT.DELAY_LAST, r, 0), (F.PWR_STAT.DELAY, r, 0)]

/-- Of the whole state, only the listed fields and the regions' power state machines changed. -/
def PowerOnly (s t : State) (fs : List (Fld × Nat × Nat)) : Prop :=
  (∃ m p, t = { s with regs := m, pwr := p }) ∧ FldsKept s.regs t.regs fs

theorem PowerOnly.refl (s : State) (fs : List (Fld × Nat × Nat)) : PowerOnly s s fs :=
  ⟨⟨s.regs, s.pwr, rfl⟩, FldsKept.refl _ _⟩

theorem PowerOnly.setFld {s t : State} {fs : List (Fld × Nat × Nat)} (h : PowerOnly s t fs) (f : Fld) (u i v : Nat)
    (hm : (f, u, i) ∈ fs) (hlo : f.lo ≤ f.hi) (h40 : f.hi < 40) : PowerOnly s (t.setFld f u i v) fs := by
  obtain ⟨⟨m, p, rfl⟩, hregs⟩ := h
  exact ⟨⟨_, _, rfl⟩, hregs.setFld f u i v hm hlo h40⟩

theorem PowerOnly.setPw {s t : State} {fs : List (Fld × Nat × Nat)} (h : PowerOnly s t fs) (r : Nat) (v : PwrSt) :
    PowerOnly s (t.setPw r v) fs := by
  obtain ⟨⟨m, p, rfl⟩, hregs⟩ := h
  exact ⟨⟨_, _, rfl⟩, hregs⟩

theorem setPhase_powerOnly {s t : State} {r : Nat} (h : PowerOnly s t (wakeFlds r)) (dir step : Nat) :
    PowerOnly s (setPhase t r dir step) (wakeFlds r) :=
  ((h.setFld F.PWR_STAT.DIR r 0 _ (by simp [wakeFlds]) (by decide) (by decide)).setFld F.PWR_STAT.STEP r 0 _
    (by simp [wakeFlds]) (by decide) (by decide)).setFld F.PWR_STAT.BUSY r 0 _ (by simp [wakeFlds]) (by decide) (by decide)

theorem beginExit_powerOnly (s : State) (r src : Nat) : PowerOnly s (beginExit s r src) (wakeFlds r) :=
  ((setPhase_powerOnly (PowerOnly.refl s _) 2 _).setFld F.PWR_WAKE_PEND.LAST r 0 src (by simp [wakeFlds]) (by decide)
    (by decide)).setPw r _

theorem beginUnwind_powerOnly {s t : State} {r : Nat} (h : PowerOnly s t (wakeFlds r)) (result : Nat) :
    PowerOnly s (beginUnwind t r result) (wakeFlds r) :=
  (((setPhase_powerOnly h 3 _).setFld F.PWR_STAT.DELAY_LAST r 0 _ (by simp [wakeFlds]) (by decide) (by decide)).setFld
    F.PWR_STAT.DELAY r 0 0 (by simp [wakeFlds]) (by decide) (by decide)).setPw r _

theorem wakeRegion_powerOnly (s : State) (r src result : Nat) : PowerOnly s (wakeRegion s r src result) (wakeFlds r) := by
  unfold wakeRegion
  split
  · split
    · exact PowerOnly.refl s _
    · exact beginExit_powerOnly s r src
  · exact beginUnwind_powerOnly ((PowerOnly.refl s _).setFld F.PWR_WAKE_PEND.LAST r 0 src (by simp [wakeFlds]) (by decide)
      (by decide)) result
  · exact PowerOnly.refl s _

/-- A wake event writes its bit of PWR_WAKE_PEND and what the wake of its region writes. -/
theorem wakeEvent_powerOnly (s : State) (r src : Nat) :
    PowerOnly s (wakeEvent s r src) ((F.PWR_WAKE_PEND.PEND, r, 0) :: wakeFlds r) := by
  have hpend : PowerOnly s (s.orFld F.PWR_WAKE_PEND.PEND r 0 src) ((F.PWR_WAKE_PEND.PEND, r, 0) :: wakeFlds r) :=
    (PowerOnly.refl s _).setFld F.PWR_WAKE_PEND.PEND r 0 _ (List.mem_cons_self ..) (by decide) (by decide)
  unfold wakeEvent
  dsimp only
  split
  · obtain ⟨⟨m, p, hwake⟩, hregs⟩ := wakeRegion_powerOnly (s.orFld F.PWR_WAKE_PEND.PEND r 0 src) r src 4
    refine ⟨⟨m, p, hwake.trans rfl⟩, hpend.2.trans fun g u i hg ha => hregs g u i hg fun f hf => ha f (List.mem_cons_of_mem _ hf)⟩
  · exact hpend

/-- The registers that a wake event of region `r` can write. -/
theorem wakeEvent_regsKept (s : State) (r src : Nat) :
    RegsKept s.regs (wakeEvent s r src).regs [regAddr .PWR_STAT r 0, regAddr .PWR_WAKE_PEND r 0] :=
  (regsKept_of_fldsKept (wakeEvent_powerOnly s r src).2).mono (by simp [wakeFlds, F.PWR_STAT.DIR, F.PWR_STAT.STEP, F.PWR_STAT.BUSY,
    F.PWR_STAT.DELAY, F.PWR_STAT.DELAY_LAST, F.PWR_WAKE_PEND.LAST, F.PWR_WAKE_PEND.PEND])

theorem wakeEvent_only (s : State) (r src : Nat) : ∃ m p, wakeEvent s r src = { s with regs := m, pwr := p } :=
  (wakeEvent_powerOnly s r src).1

/-- A wake event raises only an interrupt vector beside. -/
theorem levelIrq_only (old s : State) (v : Nat) : ∃ h, levelIrq old s v = { s with host := h } := by
  unfold levelIrq signal
  dsimp only
  split_ifs
  all_goals exact ⟨_, rfl⟩

/-! ### PPS_OUT and PPS_IN (R37, R38) -/

theorem exec_ppsOut {s : State} (hdue : s.time.ppsDue = true) (hen : s.fld F.TIM_CTRL.PPS_OUT_EN = 1)
    (hwidth : s.fld F.TIM_PPS_CFG.WIDTH ≠ 0) :
    exec .ppsOut s = .next { s with time := { s.time with
      ppsDue := false, ppsOut := true, ppsUntil := some (s.time.now + s.fld F.TIM_PPS_CFG.WIDTH * 1024) } } := by
  change execPpsOut s = _
  rw [execPpsOut, if_pos hdue]
  exact if_pos ⟨by rw [State.on, hen]; rfl, hwidth⟩

theorem exec_ppsOutFall {s : State} {at_ : Nat} (huntil : s.time.ppsUntil = some at_) (hat : at_ ≤ s.time.now) :
    exec .ppsOutFall s = .next { s with time := { s.time with ppsOut := false, ppsUntil := none } } := by
  change execPpsOutFall s = _
  rw [execPpsOutFall, huntil]
  exact if_pos hat

theorem secOf_nowAt (s : State) (dt : Nat) : secOf (s.nowAt dt) = (s.time.now + dt) % timeSpan / unitsPerSec := by
  have hlt : (s.time.now + dt) % timeSpan < 2 ^ 40 * unitsPerSec := Nat.mod_lt _ timeSpan_pos
  rw [secOf, State.nowAt]
  exact Nat.mod_eq_of_lt ((Nat.div_lt_iff_lt_mul (by decide)).2 hlt)

/-- The capture of an active edge at PPS_IN, with its flag. -/
def ppsCaptured (s : State) (dt : Nat) : State :=
  let u := (s.setReg .TIM_PPS_IN_FRAC 0 0 (BitVec.ofNat 40 (fracOf (s.nowAt dt)))).setFld F.TIM_STATUS.PPS_IN_NEW 0 0 1
  { u with time := { u.time with ppsInSec := secOf (s.nowAt dt) } }

theorem ppsCaptured_regs (s : State) (dt : Nat) : (ppsCaptured s dt).regs =
    ((s.setReg .TIM_PPS_IN_FRAC 0 0 (BitVec.ofNat 40 (fracOf (s.nowAt dt)))).setFld F.TIM_STATUS.PPS_IN_NEW 0 0 1).regs := by
  simp only [ppsCaptured]

theorem exec_ppsInEdge {s : State} {rising : Bool} {dt : Nat} (hedge : rising ≠ s.on F.TIM_PPS_CFG.PPS_IN_EDGE) :
    exec (.ppsInEdge rising dt) s = .next (levelIrq s (wakeEvent (ppsCaptured s dt) 0 4) 17) := if_neg hedge

/-- The wake event of the PPS source and the vector of the flag leave the capture alone. -/
theorem ppsCaptured_after {s t : State} {dt : Nat} (ht : t = levelIrq s (wakeEvent (ppsCaptured s dt) 0 4) 17) :
    t.reg .TIM_PPS_IN_FRAC = BitVec.ofNat 40 ((s.time.now + dt) % timeSpan % unitsPerSec) ∧
      t.time.ppsInSec = (s.time.now + dt) % timeSpan / unitsPerSec ∧ t.fld F.TIM_STATUS.PPS_IN_NEW = 1 := by
  obtain ⟨h, hirq⟩ := levelIrq_only s (wakeEvent (ppsCaptured s dt) 0 4) 17
  obtain ⟨m, p, hwake⟩ := wakeEvent_only (ppsCaptured s dt) 0 4
  have hkept := wakeEvent_regsKept (ppsCaptured s dt) 0 4
  have hregs : t.regs = (wakeEvent (ppsCaptured s dt) 0 4).regs := by rw [ht, hirq]
  have htime : t.time = (ppsCaptured s dt).time := by rw [ht, hirq, hwake]
  refine ⟨?_, ?_, ?_⟩
  · rw [State.reg_eq, hregs, hkept .TIM_PPS_IN_FRAC 0 0 (by decide), ppsCaptured_regs,
      regIn_setFld_other _ _ _ _ _ _ _ _ (by decide), regIn_setReg_same]
    rfl
  · rw [htime]; exact secOf_nowAt s dt
  · rw [State.fld_eq, hregs, ← State.fld_eq, fld_of_regsKept hkept _ _ _ (by decide), State.fld_eq, ppsCaptured_regs]
    exact fldIn_setFld_same _ _ _ _ _ (by decide) (by decide)

/-! ### The reference (R39, R40) -/

theorem exec_refLost_idle {s : State} (hactive : s.fld F.TIM_STATUS.REF_ACTIVE = 0) :
    exec .refLost s = .next (s.setFld F.TIM_STATUS.REF_VALID 0 0 0) := by
  change Host.Outcome.next (refLost s) = _
  simp [refLost, State.on, hactive]

/-- REF_VALID and REF_ACTIVE written, with no switch to REF_IN armed. -/
def refSet (s : State) (valid active : Nat) : State :=
  { s.setFld F.TIM_STATUS.REF_VALID 0 0 valid with time := { s.time with refArmed := false } }.setFld
    F.TIM_STATUS.REF_ACTIVE 0 0 active

theorem refSet_only (s : State) (valid active : Nat) :
    ∃ m, refSet s valid active = { s with regs := m, time := { s.time with refArmed := false } } := by
  unfold refSet
  rw [setFld_only s]
  exact ⟨_, setFld_only _ _ _ _ _⟩

/-- Both fields are read back, and every other field is kept. -/
theorem refSet_flds (s : State) {valid active : Nat} (hvalid : valid < 2) (hactive : active < 2) :
    (refSet s valid active).fld F.TIM_STATUS.REF_VALID = valid ∧ (refSet s valid active).fld F.TIM_STATUS.REF_ACTIVE = active ∧
      KeepsFlds s (refSet s valid active) [(F.TIM_STATUS.REF_VALID, 0, 0), (F.TIM_STATUS.REF_ACTIVE, 0, 0)] := by
  unfold refSet
  refine ⟨?_, ?_, ?_⟩
  · rw [State.fld_setFld_apart _ _ _ _ _ _ (by decide) (by decide) (by decide) (by decide) (by decide), State.fld_eq]
    dsimp only
    rw [fldIn_setFld_same _ _ _ _ _ (by decide) (by decide)]
    exact Nat.mod_eq_of_lt hvalid
  · rw [State.fld_setFld_same _ _ _ _ _ (by decide) (by decide)]
    exact Nat.mod_eq_of_lt hactive
  · rw [keepsFlds_iff]
    refine FldsKept.setFld _ _ _ _ (by simp) (by decide) (by decide) ?_
    exact FldsKept.setFld _ _ _ _ (by simp) (by decide) (by decide) (FldsKept.refl s.regs _)

/-- The synthesis leaves a reference that is lost. -/
theorem exec_refLost_active {s : State} (hactive : s.fld F.TIM_STATUS.REF_ACTIVE = 1) :
    exec .refLost s = .next ((refSet s 0 0).emit 0x5103 .device 0 0 0 0 (decide (s.time.now < s.refAbsent))) := by
  have hon : s.on F.TIM_STATUS.REF_ACTIVE = true := by simp only [State.on, hactive, beq_self_eq_true]
  change Host.Outcome.next (refLost s) = _
  simp only [refLost, refSet, hon, if_true, State.setFld_time]

theorem exec_refQualified_armed {s : State} (hthere : s.refAbsent ≤ s.time.now) (harmed : s.time.refArmed = true) :
    exec .refQualified s = .next (refSet s 1 1) := by
  change execRefQualified s = _
  simp only [execRefQualified, refSet, if_neg (Nat.not_lt.2 hthere), harmed, if_true, State.setFld_time]

theorem exec_refQualified_idle {s : State} (hthere : s.refAbsent ≤ s.time.now) (harmed : s.time.refArmed = false) :
    exec .refQualified s = .next (s.setFld F.TIM_STATUS.REF_VALID 0 0 1) := by
  change execRefQualified s = _
  simp only [execRefQualified, if_neg (Nat.not_lt.2 hthere), harmed, Bool.false_eq_true, if_false]

theorem exec_refSelWrite (s : State) (sel : BitVec 2) : exec (.refSelWrite sel) s = .next (writeRefSel s sel.toNat) := rfl

theorem writeRefSel_arms {s : State} (hactive : s.fld F.TIM_STATUS.REF_ACTIVE = 0)
    (hvalid : s.fld F.TIM_STATUS.REF_VALID = 0) :
    writeRefSel s 1 = { s.setFld F.TIM_CTRL.REF_SEL 0 0 1 with time := { s.time with refArmed := true } } := by
  simp [writeRefSel, State.on, hactive, hvalid]

/-- REF_SEL and REF_ACTIVE written, with no switch to REF_IN armed. -/
def refSwitched (s : State) (sel active : Nat) : State :=
  { s.setFld F.TIM_CTRL.REF_SEL 0 0 sel with time := { s.time with refArmed := false } }.setFld F.TIM_STATUS.REF_ACTIVE 0 0 active

theorem refSwitched_refArmed (s : State) (sel active : Nat) : (refSwitched s sel active).time.refArmed = false := by
  simp [refSwitched]

theorem refSwitched_flds (s : State) {sel active : Nat} (hsel : sel < 4) (hactive : active < 2) :
    (refSwitched s sel active).fld F.TIM_STATUS.REF_ACTIVE = active ∧ (refSwitched s sel active).fld F.TIM_CTRL.REF_SEL = sel := by
  unfold refSwitched
  refine ⟨?_, ?_⟩
  · rw [State.fld_setFld_same _ _ _ _ _ (by decide) (by decide)]
    exact Nat.mod_eq_of_lt hactive
  · rw [State.fld_setFld_other _ _ _ _ _ _ _ _ (by decide), State.fld_eq]
    dsimp only
    rw [fldIn_setFld_same _ _ _ _ _ (by decide) (by decide)]
    exact Nat.mod_eq_of_lt hsel

theorem writeRefSel_switches {s : State} (hactive : s.fld F.TIM_STATUS.REF_ACTIVE = 0)
    (hvalid : s.fld F.TIM_STATUS.REF_VALID = 1) : writeRefSel s 1 = refSwitched s 1 1 := by
  simp [writeRefSel, refSwitched, State.on, hactive, hvalid]

theorem writeRefSel_oscillator (s : State) : writeRefSel s 0 = refSwitched s 0 0 := by
  simp [writeRefSel, refSwitched]

theorem writeRefSel_reserved (s : State) {sel : Nat} (h : 2 ≤ sel) : writeRefSel s sel = s := by
  rw [writeRefSel, if_neg (by omega), if_neg (by omega)]

end Sys2Proof.Laws
end
section
/-! SUPPORT. The effect of a gun's action on its unit (Table 2.3): it leaves device time, the queues and the registers of the
time base and of the launch log alone. -/

namespace Sys2Proof.Laws

open Sys2Proof Sys2Proof.Machine Sys2Proof.Safety

/-! ### Slots apart from the time base and the log head -/

/-- The address of a slot of the device block, and, where `log` holds, of the head of a region's launch log. -/
def TimeSlot (log : Prop) (a : Nat) : Prop :=
  a < 0x7FF4000000 ∨ (log ∧ (a - 0x7FF4000000) % 0x1000000 = 0x160030)

/-- Whether slot `i` of a register is in a tile's block, or in a region's block apart from the head of its launch log. -/
def offLog (r : Reg) (i : Nat) : Bool :=
  match r.place.blk with
  | .dev => false
  | .region => decide (r.place.offset + i * r.place.stride < 0x800000) && r.place.offset + i * r.place.stride != 0x160030
  | .tile | .laneTile => decide (r.place.offset + i * r.place.stride < 0x80000)

/-- A slot of a region or tile is no slot of the device block, and one that lies within its block is no log head either. -/
theorem not_timeSlot {log : Prop} {r : Reg} {i : Nat} (hblk : r.place.blk ≠ .dev) (hi : log → offLog r i = true) (u : Nat) :
    ¬ TimeSlot log (regAddr r u i) := by
  unfold TimeSlot regAddr
  unfold offLog at hi
  generalize r.place.offset = o at *
  generalize i * r.place.stride = k at *
  cases hb : r.place.blk <;> simp only [hb, Blk.base, ne_eq, not_true_eq_false, Bool.and_eq_true, decide_eq_true_eq, bne_iff_ne] at hblk hi ⊢
  all_goals
    rintro (hdev | ⟨hlog, hhead⟩)
    · omega
    · have := hi hlog
      omega

/-! ### What an effect keeps -/

/-- Device time, the gun queues and every slot of `TimeSlot log` are as in `s`. -/
structure TimeKept (log : Prop) (s t : State) : Prop where
  guns : t.guns = s.guns
  time : t.time = s.time
  regs : ∀ a, TimeSlot log a → ∀ d, mget d t.regs a = mget d s.regs a

variable {log : Prop} {s t u : State}

theorem TimeKept.refl (log : Prop) (s : State) : TimeKept log s s := ⟨rfl, rfl, fun _ _ _ => rfl⟩

theorem TimeKept.of_eq (h : TimeKept log s t) (hguns : u.guns = t.guns) (htime : u.time = t.time) (hregs : u.regs = t.regs) :
    TimeKept log s u :=
  ⟨hguns.trans h.guns, htime.trans h.time, fun a ha d => by rw [hregs, h.regs a ha d]⟩

theorem TimeKept.setReg (h : TimeKept log s t) (r : Reg) (k i : Nat) (w : Word) (hblk : r.place.blk ≠ .dev := by decide)
    (hi : log → offLog r i = true := by intro _; decide) : TimeKept log s (t.setReg r k i w) :=
  ⟨h.guns, h.time, fun a ha d => by
    have hne : a ≠ regAddr r k i := fun he => not_timeSlot hblk hi k (by rwa [he] at ha)
    rw [State.setReg_regs, mget_mset_other _ _ _ _ _ _ hne, h.regs a ha d]⟩

theorem TimeKept.setFld (h : TimeKept log s t) (f : Fld) (k i v : Nat) (hblk : f.reg.place.blk ≠ .dev := by decide)
    (hi : log → offLog f.reg i = true := by intro _; decide) : TimeKept log s (t.setFld f k i v) :=
  h.setReg f.reg k i _ hblk hi

theorem TimeKept.fld (h : TimeKept log s t) (f : Fld) (k i : Nat) (ha : TimeSlot log (regAddr f.reg k i)) :
    t.fld f k i = s.fld f k i := by
  have hreg : t.reg f.reg k i = s.reg f.reg k i := h.regs _ ha _
  rw [State.fld, State.fld, hreg]

/-! ### Lanes -/

theorem setLf_kept (h : TimeKept log s t) (l : Nat) (f : Fld) (v : Nat) (hblk : f.reg.place.blk ≠ .dev := by decide)
    (hi : log → offLog f.reg 0 = true := by intro _; decide) : TimeKept log s (t.setLf l f v) :=
  h.setFld f (laneTile l) 0 v hblk hi

theorem setLane_kept (h : TimeKept log s t) (l : Nat) (v : LaneSt) : TimeKept log s (t.setLane l v) := h.of_eq rfl rfl rfl

theorem setTxSrc_kept (h : TimeKept log s t) (l src : Nat) : TimeKept log s (setTxSrc t l src) := by
  unfold setTxSrc
  split
  · exact h
  · exact setLane_kept (setLf_kept h l F.LN_CTRL.TX_SRC src) l _

theorem patStart_kept (h : TimeKept log s t) (l arg : Nat) : TimeKept log s (patStart t l arg) := by
  have hsrc := setLane_kept (setLf_kept h l F.LN_CTRL.TX_SRC (arg % 4)) l
  unfold patStart
  dsimp only
  split
  · exact TimeKept.of_eq (t := restartSource (t.setLf l F.LN_CTRL.TX_SRC (arg % 4)) l) (hsrc _) rfl rfl rfl
  · exact hsrc _

theorem startInj_kept (h : TimeKept log s t) (l n : Nat) : TimeKept log s (startInj t l n) :=
  setLf_kept (setLf_kept (setLane_kept h l _) l F.LN_INJ_CTRL.REMAIN _) l F.LN_INJ_CTRL.BUSY _

theorem laneAction_kept (h : TimeKept log s t) (l action : Nat) (arg : Word) : TimeKept log s (laneAction t l action arg) := by
  unfold laneAction
  split
  · exact patStart_kept h l _
  · exact setTxSrc_kept h l 0
  · exact setLf_kept h l F.LN_CTRL.MUTE 1
  · exact setLf_kept h l F.LN_CTRL.MUTE 0
  · exact startInj_kept h l _
  · exact setLane_kept (setLf_kept h l F.LN_CTRL.FEED 1) l _
  · exact setLf_kept h l F.LN_CTRL.FEED 0

/-! ### Packets and blocks on the network -/

theorem probeCount_kept (h : TimeKept log s t) (n mode flits : Nat) {i : Nat} (hi : i < 2) :
    TimeKept log s (probeCount t n i mode flits) := by
  have hslot : log → offLog .NOC_PRB_CNT i = true := fun _ => by interval_cases i <;> decide
  unfold probeCount
  split
  · exact h.setFld F.NOC_PRB_CNT.NUM n i _ (by decide) hslot
  · exact h.setFld F.NOC_PRB_CNT.NUM n i _ (by decide) hslot
  · exact h

theorem stageRecord_kept (h : TimeKept log s t) (n point : Nat) (p : Pkt) (la vc : Nat) :
    TimeKept log s (stageRecord t n point p la vc) := by
  unfold stageRecord
  dsimp only
  split
  · exact h
  · split
    · exact h.setFld F.NOC_PC_DROP.NUM (n / 16) 0 _
    · exact h.of_eq rfl rfl rfl

theorem observe_kept (h : TimeKept log s t) (p : Pkt) (x : Nat × Nat × Nat × Nat) : TimeKept log s (observe p t x) := by
  unfold observe
  dsimp only
  split
  · have hcount := probeCount_kept (probeCount_kept h x.1 (t.fld F.NOC_PRB_CFG.MODE0 x.1) p.flits (i := 0) (by decide)) x.1
      (t.fld F.NOC_PRB_CFG.MODE1 x.1) p.flits (i := 1) (by decide)
    split
    · exact stageRecord_kept hcount _ _ _ _ _
    · exact hcount
  · exact h

theorem travel_kept (h : TimeKept log s t) (p : Pkt) : TimeKept log s (travel t p) := by
  unfold travel
  split
  · exact List.foldlRecOn _ _ h fun u hu x _ => observe_kept hu p x
  · exact h

theorem useEntry_kept (h : TimeKept log s t) (src node : Nat) : TimeKept log s (useEntry t src node) := by
  unfold useEntry
  dsimp only
  split
  · exact h
  · exact h.of_eq rfl rfl rfl

theorem netWriteBlock_kept (h : TimeKept log s t) (a src : Nat) (data : List Nat) : TimeKept log s (netWriteBlock t a src data) := by
  have hwrite : ∀ u, TimeKept log s u → TimeKept log s (memWriteBlock u a src data) := fun u hu => hu.of_eq rfl rfl rfl
  exact travel_kept (hwrite _ (travel_kept (useEntry_kept h _ _) _)) _

theorem freeBlock_kept (h : TimeKept log s t) : TimeKept log s (freeBlock t).2 := h.of_eq rfl rfl rfl

/-! ### Heats -/

theorem emit_kept (h : TimeKept log s t) (code : Nat) (sc : Scope) (region tile cluster cell : Nat) (inj : Bool) :
    TimeKept log s (t.emit code sc region tile cluster cell inj) := h.of_eq rfl rfl rfl

theorem acqEvent_kept (h : TimeKept log s t) (r bit c : Nat) (inj : Bool) : TimeKept log s (acqEvent t r bit c inj) := by
  unfold acqEvent
  split
  · exact h
  · exact emit_kept (((h.setReg .ACQ_FIRST r 0 _).setReg .ACQ_FIRST_STRIDE r 0 _).setFld F.ACQ_STATUS.EVT r 0 _) _ _ _ _ _ _ _

theorem headWrite_kept (h : TimeKept log s t) (r c a : Nat) (ws : List Word) : TimeKept log s (headWrite t r c a ws) := by
  unfold headWrite
  split
  · exact netWriteBlock_kept h _ _ _
  · exact acqEvent_kept (netWriteBlock_kept (freeBlock_kept h) _ _ _) r 3 c false

theorem setCh_kept (h : TimeKept log s t) (r c : Nat) (v : HeatCh) : TimeKept log s (t.setCh r c v) := h.of_eq rfl rfl rfl

/-- The slots of a heat channel, one per channel, lie apart from the head of the launch log. -/
theorem offLog_heat : ∀ c < 16, offLog .HEAT_STAT c = true ∧ offLog .HEAT_CTRL c = true ∧ offLog .HEAT_WP c = true := by
  decide

section channel
variable {c : Nat} (hc : log → c < 16)
include hc

theorem heatStat_kept (h : TimeKept log s t) (f : Fld) (hf : f.reg = .HEAT_STAT) (r v : Nat) :
    TimeKept log s (t.setFld f r c v) :=
  h.setFld f r c v (hf ▸ by decide) fun hl => hf ▸ (offLog_heat c (hc hl)).1

theorem syncAcq_kept (h : TimeKept log s t) (r : Nat) : TimeKept log s (syncAcq t r c) := by
  unfold syncAcq
  dsimp only
  refine List.foldlRecOn _ _ ?_ fun u hu m _ => hu.setFld F.MEM_RES_LIMIT.USED m 0 _
  exact heatStat_kept hc (heatStat_kept hc ((h.setFld F.ACQ_BUF.QUOTA r 0 _).setFld F.ACQ_BUF.USED r 0 _)
    F.HEAT_STAT.CLOSING rfl r _) F.HEAT_STAT.FS rfl r _

theorem becomeReady_kept (h : TimeKept log s t) (r : Nat) : TimeKept log s (becomeReady t r c) := by
  unfold becomeReady
  dsimp only
  refine syncAcq_kept hc (heatStat_kept hc (setCh_kept ?_ r c _) F.HEAT_STAT.STATE rfl r _) r
  exact headWrite_kept (freeBlock_kept h) r c _ _

theorem armNow_kept (h : TimeKept log s t) (r time : Nat) (auto : Option Bool) : TimeKept log s (armNow t r c time auto) := by
  have hres := heatStat_kept hc h F.HEAT_STAT.RES rfl r (armCheck t r c)
  unfold armNow
  dsimp only
  split
  · exact acqEvent_kept hres r 2 c false
  · refine becomeReady_kept hc (setCh_kept ?_ r c _) r
    split
    · exact hres.setFld F.HEAT_CTRL.AUTO r c _ (by decide) fun hl => (offLog_heat c (hc hl)).2.1
    · exact hres

theorem heatArm_kept (h : TimeKept log s t) (r time : Nat) (auto : Option Bool) : TimeKept log s (heatArm t r c time auto) := by
  unfold heatArm
  split
  · exact setCh_kept h r c _
  · exact armNow_kept hc h r time auto

omit hc in
theorem resps_kept (h : TimeKept log s t) (x : List Resp) : TimeKept log s { t with resps := x } := h.of_eq rfl rfl rfl

omit hc in
theorem heatWrite_kept (h : TimeKept log s t) (r a : Nat) (data : List Nat) : TimeKept log s (heatWrite t r c a data) := by
  unfold heatWrite
  dsimp only
  refine resps_kept ?_ _
  generalize (if (t.ch r c).writeErr = true then stDataErr else memAccess t a) = st
  split
  · exact netWriteBlock_kept (setCh_kept h r c _) _ _ _
  · exact netWriteBlock_kept (freeBlock_kept (setCh_kept h r c _)) _ _ _

omit hc in
theorem flushBuf_kept (h : TimeKept log s t) (r seq base evb : Nat) (words : Bool) (b : BlkBuf) :
    TimeKept log s (flushBuf t r c seq base evb words b) := by
  unfold flushBuf
  split
  · exact h
  · exact heatWrite_kept (setCh_kept h r c _) r _ _

theorem endHeat_kept (h : TimeKept log s t) (r lastE : Nat) (trunc stop : Bool) : TimeKept log s (endHeat t r c lastE trunc stop) := by
  unfold endHeat
  dsimp only
  split
  · exact h
  · refine syncAcq_kept hc (heatStat_kept hc (setCh_kept ?_ r c _) F.HEAT_STAT.STATE rfl r _) r
    split
    · exact flushBuf_kept h r _ _ _ _ _
    · exact h

theorem heatDisarm_kept (h : TimeKept log s t) (r : Nat) : TimeKept log s (heatDisarm t r c) := by
  have hwait := setCh_kept h r c { t.ch r c with waitArm := none }
  unfold heatDisarm
  dsimp only
  split
  · exact endHeat_kept hc hwait r _ _ _
  · exact hwait
  · exact syncAcq_kept hc (heatStat_kept hc (setCh_kept hwait r c _) F.HEAT_STAT.STATE rfl r 0) r

theorem heatFinish_kept (h : TimeKept log s t) (r : Nat) : TimeKept log s (heatFinish t r c) := by
  unfold heatFinish
  split
  · exact setCh_kept h r c _
  · exact heatDisarm_kept hc h r

theorem falseStart_kept (h : TimeKept log s t) (r reason ev e frac stamp : Nat) :
    TimeKept log s (falseStart t r c reason ev e frac stamp) := by
  unfold falseStart
  exact syncAcq_kept hc (setCh_kept h r c _) r

omit hc in
theorem winRecord_kept (h : TimeKept log s t) (l e ev frac stamp : Nat) : TimeKept log s (winRecord t l e ev frac stamp) :=
  setLane_kept (((h.setReg .TRG_WIN_TRIG_E (laneTile l) 0 _).setReg .TRG_WIN_TRIG_INFO (laneTile l) 0 _).setReg
    .TRG_WIN_TRIG_FRAC (laneTile l) 0 _) l _

omit hc in
theorem winStale_kept (h : TimeKept log s t) (l : Nat) : TimeKept log s (winStale t l) := by
  have hstale := h.setFld F.TRG_WIN_STAT.STALE (laneTile l) 0
    (satAdd (F.TRG_WIN_STAT.STALE.hi + 1 - F.TRG_WIN_STAT.STALE.lo) (t.fld F.TRG_WIN_STAT.STALE (laneTile l)) 1)
  unfold winStale
  dsimp only
  split
  · exact hstale
  · exact emit_kept (hstale.setFld F.TRG_WIN_STAT.EVT (laneTile l) 0 _) _ _ _ _ _ _ _

theorem startHeat_kept (h : TimeKept log s t) (r ev e frac stamp : Nat) (mapped : Bool) :
    TimeKept log s (startHeat t r c ev e frac stamp mapped) := by
  unfold startHeat
  dsimp only
  refine syncAcq_kept hc (setCh_kept (heatStat_kept hc (TimeKept.setFld ?_ F.HEAT_WP.SEQ r c _ (by decide)
    fun hl => (offLog_heat c (hc hl)).2.2) F.HEAT_STAT.STATE rfl r 3) r c _) r
  split
  · exact h
  · exact winRecord_kept h _ _ _ _ _

theorem heatTrigger_kept (h : TimeKept log s t) (r ev stamp : Nat) (pos : Option (Nat × Nat × Nat)) :
    TimeKept log s (heatTrigger t r c ev stamp pos) := by
  unfold heatTrigger
  dsimp only
  split
  · exact h
  · split
    · split
      · exact startHeat_kept hc h r _ _ _ _ _
      · split
        · exact startHeat_kept hc h r _ _ _ _ _
        · exact falseStart_kept hc h r _ _ _ _ _
        · exact winStale_kept h _
        · exact h
    · split
      · exact h
      · exact setCh_kept h r c _
    · exact setCh_kept (falseStart_kept hc h r _ _ _ _ _) r c _
    · exact falseStart_kept hc h r _ _ _ _ _

theorem heatAction_kept (h : TimeKept log s t) (r action at_ : Nat) (arg : Word) :
    TimeKept log s (heatAction t r c action at_ arg).2 := by
  unfold heatAction
  split
  · exact heatArm_kept hc h r at_ _
  · dsimp only
    split
    · exact heatFinish_kept hc h r
    · exact heatDisarm_kept hc h r
  · exact heatTrigger_kept hc h r 127 at_ none

end channel

end Sys2Proof.Laws
end
section
/-! SUPPORT. The effect of a gun's action on a processor and on a combiner (Table 2.3), and on every unit but a zone. -/

namespace Sys2Proof.Laws

open Sys2Proof Sys2Proof.Machine Sys2Proof.Safety

variable {log : Prop} {s t u : State}

theorem setPf_kept (h : TimeKept log s t) (p : Nat) (se sup : Fld) (v : Nat) (hse : se.reg.place.blk ≠ .dev := by decide)
    (hsup : sup.reg.place.blk ≠ .dev := by decide) (hse' : offLog se.reg 0 = true := by decide)
    (hsup' : offLog sup.reg 0 = true := by decide) : TimeKept log s (t.setPf p se sup v) := by
  unfold State.setPf
  cases isSup p
  · exact h.setFld se _ 0 v hse fun _ => hse'
  · exact h.setFld sup _ 0 v hsup fun _ => hsup'

theorem setProc_kept (h : TimeKept log s t) (p : Nat) (v : ProcSt) : TimeKept log s (t.setProc p v) := h.of_eq rfl rfl rfl

theorem raiseEdge_kept (h : TimeKept log s t) (p bit : Nat) : TimeKept log s (raiseEdge t p bit) :=
  setPf_kept h p F.SE_IRQ_PEND.EDGE F.SUP_IRQ_PEND.EDGE _

theorem gunIrq_kept (h : TimeKept log s t) (p : Nat) (fast : Bool) : TimeKept log s (gunIrq t p fast) :=
  raiseEdge_kept (setProc_kept h p _) p 18

/-! ### The trace of a processor -/

theorem setTrcSrc_kept (h : TimeKept log s t) (p : Nat) (v : TrcSrc) : TimeKept log s (t.setTrcSrc p v) := h.of_eq rfl rfl rfl

theorem used_kept (h : TimeKept log s t) : TimeKept log s t.used := h.of_eq rfl rfl rfl

theorem putPacket_kept (h : TimeKept log s t) (p : Nat) (bytes : List Nat) : TimeKept log s (putPacket t p bytes) := by
  unfold putPacket
  dsimp only
  split
  · exact setTrcSrc_kept h p _
  · have hdrop := (setTrcSrc_kept h p { t.trcSrc p with
      lost := some (Nat.min ((t.trcSrc p).lost.getD 0 + bytes.length) (2 ^ 40 - 1)) }).setFld F.TRC_DROP.BYTES (procRegion p) 0
    split
    · exact hdrop _
    · exact emit_kept ((hdrop _).setFld F.TRC_STATUS.OVF (procRegion p) 0 _) _ _ _ _ _ _ _

theorem putCyc_kept (h : TimeKept log s t) (p n : Nat) : TimeKept log s (putCyc t p n) := by
  unfold putCyc
  split
  · exact putPacket_kept h p _
  · exact h

theorem closeAtom_kept (h : TimeKept log s t) (p : Nat) : TimeKept log s (closeAtom t p) := by
  unfold closeAtom
  dsimp only
  split
  · exact h
  · exact putPacket_kept (putCyc_kept (setTrcSrc_kept h p _) p _) p _

theorem putAnchored_kept (h : TimeKept log s t) (p back : Nat) (bytes : List Nat) :
    TimeKept log s (putAnchored t p back bytes) := by
  unfold putAnchored
  exact putPacket_kept (setTrcSrc_kept (putCyc_kept (closeAtom_kept h p) p _) p _) p bytes

theorem trcStop_kept (h : TimeKept log s t) (p reason cause pc : Nat) : TimeKept log s (trcStop t p reason cause pc) := by
  unfold trcStop
  split
  · exact setTrcSrc_kept (putAnchored_kept h p 0 _) p _
  · exact h

theorem trcDue_kept (h : TimeKept log s t) (p reason : Nat) : TimeKept log s (trcDue t p reason) := by
  unfold trcDue
  split
  · exact setTrcSrc_kept h p _
  · exact h

theorem trcCycles_kept (h : TimeKept log s t) (p n : Nat) : TimeKept log s (trcCycles t p n) := by
  unfold trcCycles
  split
  · exact setTrcSrc_kept h p _
  · exact h

theorem trcNoIssue_kept (h : TimeKept log s t) (p n : Nat) : TimeKept log s (trcNoIssue t p n) := by
  unfold trcNoIssue
  split
  · refine trcCycles_kept ?_ p n
    split
    · exact closeAtom_kept h p
    · exact h
  · exact h

theorem trcCaught_kept (h : TimeKept log s t) (p : Nat) : TimeKept log s (trcCaught t p) := by
  unfold trcCaught trcWait
  split
  · exact h
  · split
    · exact used_kept (trcNoIssue_kept h p _)
    · exact h

/-! ### Results in flight -/

theorem spdEvent_kept (h : TimeKept log s t) (k kind word : Nat) (inj : Bool) : TimeKept log s (spdEvent t k kind word inj) := by
  unfold spdEvent
  dsimp only
  split
  · exact h
  · refine emit_kept (TimeKept.setFld ?_ F.SPD_STATUS.EVT k 0 _) _ _ _ _ _ _ _
    split
    · exact (h.setReg .SPD_FIRST k 0 _).setReg .SPD_FIRST_STRIDE k 0 _
    · exact h

theorem readSpd_kept (h : TimeKept log s t) (k w : Nat) : TimeKept log s (readSpd t k w).2 := by
  unfold readSpd
  dsimp only
  split
  · exact h
  · exact (h.setFld F.SPD_SBE_CNT.COUNT k 0 _).of_eq rfl rfl rfl
  · exact spdEvent_kept h k 1 w true

theorem dmemRead_kept (h : TimeKept log s t) (p a : Nat) : TimeKept log s (t.dmemRead p a).2 := by
  unfold State.dmemRead
  split
  · exact h
  · exact readSpd_kept h p _

/-- The words of a supervisor's data memory lie within the region's block, and not at the head of its launch log. -/
theorem offLog_supDmem {i : Nat} (hi : i < 65536) : offLog .SUP_DMEM i = true := by
  change (decide (0x80000 + i * 8 < 0x800000) && (0x80000 + i * 8 != 0x160030)) = true
  simp only [Bool.and_eq_true, decide_eq_true_eq, bne_iff_ne]
  omega

theorem dmemWrite_kept (h : TimeKept log s t) (p a : Nat) (w : Word) : TimeKept log s (t.dmemWrite p a w) := by
  unfold State.dmemWrite
  split
  · exact h.setReg .SUP_DMEM (p - 64) _ w (by decide) fun _ => offLog_supDmem (Nat.mod_lt _ (by decide))
  · exact h.of_eq rfl rfl rfl

theorem loadRegs_kept (p : Nat) (shadow : Bool) (as : List Nat) (x : Nat) (h : TimeKept log s t) :
    TimeKept log s (loadRegs p shadow x as t) := by
  induction as generalizing x t with
  | nil => exact h
  | cons a as ih => exact ih _ (setProc_kept (dmemRead_kept h p a) p _)

/-- What an overflow of an accumulator writes beside the processor's state. -/
theorem overflow_kept (h : TimeKept log s t) (p pc : Nat) (shadow : Bool) :
    TimeKept log s (((raiseEdge t p 20).setPf p F.SE_OVF_PC.PC F.SUP_OVF_PC.PC pc).setPf p F.SE_OVF_PC.BANK F.SUP_OVF_PC.BANK
      (flag shadow)) :=
  setPf_kept (setPf_kept (raiseEdge_kept h p 20) p F.SE_OVF_PC.PC F.SUP_OVF_PC.PC pc) p F.SE_OVF_PC.BANK F.SUP_OVF_PC.BANK _

theorem landAcc_kept (h : TimeKept log s t) (p : Nat) (f : Fly) (n : Nat) (judged sat : Bool) (i : Int) :
    TimeKept log s (landAcc t p f n judged sat i) := by
  unfold landAcc
  dsimp only
  split
  · split
    · exact overflow_kept (setProc_kept h p _) p _ _
    · exact setProc_kept h p _
  · exact setProc_kept h p _

theorem landOne_kept (h : TimeKept log s t) (p : Nat) (f : Fly) : TimeKept log s (landOne p t f) := by
  unfold landOne
  dsimp only
  split
  case h_1 => exact loadRegs_kept p _ _ _ h
  case h_2 => exact List.foldlRecOn _ _ h fun u hu e _ => dmemWrite_kept hu p _ _
  case h_3 => exact landAcc_kept h p f _ _ _ _
  case h_4 => exact landAcc_kept (landAcc_kept h p f _ _ _ _) p f _ _ _ _
  case h_5 => exact setProc_kept h p _
  case h_6 => exact landAcc_kept h p f _ _ _ _
  case h_7 => exact landAcc_kept h p f _ _ _ _
  case h_8 => exact landAcc_kept h p f _ _ _ _
  case h_9 => exact landAcc_kept h p f _ _ _ _
  case h_10 =>
    split
    · split
      · exact overflow_kept (setProc_kept h p _) p _ _
      · exact setProc_kept h p _
    · exact setProc_kept h p _
  case h_11 => exact setProc_kept h p _

theorem advance_kept (p n : Nat) (h : TimeKept log s t) : TimeKept log s (advance p n t) := by
  induction n generalizing t with
  | zero => exact h
  | succ n ih => exact ih (List.foldlRecOn _ _ (setProc_kept h p _) fun u hu f _ => landOne_kept hu p f)

/-! ### Processors -/

theorem doHalt_kept (h : TimeKept log s t) (p : Nat) : TimeKept log s (doHalt t p) := by
  unfold doHalt
  exact setPf_kept (setProc_kept (advance_kept p 4 (trcStop_kept (trcCaught_kept h p) p 0 0 _)) p _) p F.SE_STATUS.STATE
    F.SUP_STATUS.STATE 0

theorem haltCmd_kept (h : TimeKept log s t) (p : Nat) : TimeKept log s (haltCmd t p) := by
  unfold haltCmd
  split
  · split
    · exact doHalt_kept h p
    · exact setProc_kept h p _
  · exact doHalt_kept h p
  · exact doHalt_kept h p
  · exact doHalt_kept h p
  · exact h

theorem runCmd_kept (h : TimeKept log s t) (p : Nat) : TimeKept log s (runCmd t p) := by
  unfold runCmd
  split
  · exact trcDue_kept (setPf_kept h p F.SE_STATUS.STATE F.SUP_STATUS.STATE 1) p 0
  · exact h

theorem procAction_kept (h : TimeKept log s t) (p action : Nat) (arg : Word) : TimeKept log s (procAction t p action arg).2 := by
  unfold procAction
  split
  · exact gunIrq_kept h p _
  · exact runCmd_kept h p
  · exact haltCmd_kept h p

/-! ### Every unit -/

theorem raiseEvent_kept (h : TimeKept log s t) (r ev stamp : Nat) (pos : Option (Nat × Nat × Nat)) (never : Bool) :
    TimeKept log s (raiseEvent t r ev stamp pos never) := h.of_eq rfl rfl rfl

/-- The effect of an action that waits for no stride boundary: only a heat channel's number can reach beyond the slots of its
registers. -/
theorem gunEffect_kept {e : GunEntry} (h : TimeKept log s t) (hzone : e.cls ≠ 3) (hidx : log → e.cls = 2 → e.index < 16) (at_ : Nat) :
    TimeKept log s (gunEffect t e at_).2 := by
  unfold gunEffect
  split
  next => exact laneAction_kept h _ _ _
  next hcls => exact heatAction_kept (fun hl => hidx hl hcls) h _ _ _ _
  next hcls => exact absurd hcls hzone
  next => exact procAction_kept h _ _ _
  next => exact procAction_kept h _ _ _
  next => exact raiseEvent_kept h _ _ _ _ _

end Sys2Proof.Laws
end
section
/-! SUPPORT. The launch log, the firing of an entry, and the step of device time (R36, R57, R58, R66). -/

namespace Sys2Proof.Laws

open Sys2Proof Sys2Proof.Machine Sys2Proof.Safety

variable {s t u : State}

/-! ### The launch log -/

theorem putSlots_kept {r : Reg} (hblk : r.place.blk ≠ .dev) (k : Nat) (ws : List Word) (i : Nat) (h : TimeKept False s t) :
    TimeKept False s (putSlots r k i ws t) := by
  induction ws generalizing i t with
  | nil => exact h
  | cons w ws ih => exact ih (i + 1) (h.setReg r k i w hblk False.elim)

theorem gunLog_kept (h : TimeKept False s t) (e : GunEntry) (reason at_ late : Nat) :
    TimeKept False s (gunLog t e reason at_ late) :=
  (putSlots_kept (by decide) _ _ _ h).setFld F.TIM_LOG_HEAD.IDX _ 0 _ (by decide) False.elim

theorem gunReport_kept (h : TimeKept False s t) (code : Nat) (e : GunEntry) : TimeKept False s (gunReport t code e) := by
  unfold gunReport
  split
  · exact emit_kept h _ _ _ _ _ _ _
  · exact emit_kept h _ _ _ _ _ _ _

theorem gunLate_kept (h : TimeKept False s t) (e : GunEntry) : TimeKept False s (gunLate t e) :=
  (gunReport_kept h _ e).setFld F.TIM_GUN_STAT.LATE _ 0 _ (by decide) False.elim

theorem gunFired_kept (h : TimeKept False s t) (e : GunEntry) (at_ : Nat) (ok : Bool) : TimeKept False s (gunFired t e at_ ok) := by
  unfold gunFired
  dsimp only
  split
  · exact gunLate_kept (gunLog_kept h e _ _ _) e
  · exact gunLog_kept h e _ _ _

/-! ### What the consequences of a step keep -/

/-- Device time, the armed step and STEP_DONE are as in `s`. -/
structure StepKept (s t : State) : Prop where
  now : t.time.now = s.time.now
  armed : t.time.stepArmed = s.time.stepArmed
  done : t.fld F.TIM_STATUS.STEP_DONE = s.fld F.TIM_STATUS.STEP_DONE

theorem StepKept.refl (s : State) : StepKept s s := ⟨rfl, rfl, rfl⟩

theorem StepKept.trans (hst : StepKept s t) (htu : StepKept t u) : StepKept s u :=
  ⟨htu.now.trans hst.now, htu.armed.trans hst.armed, htu.done.trans hst.done⟩

theorem TimeKept.stepKept {log : Prop} (h : TimeKept log s t) : StepKept s t :=
  ⟨congrArg TimeBase.now h.time, congrArg TimeBase.stepArmed h.time, h.fld _ 0 0 (.inl (by decide))⟩

theorem guns_stepKept (s : State) (gs : List GunEntry) : StepKept s { s with guns := gs } := ⟨rfl, rfl, rfl⟩

/-- The firing of an entry that waits for no stride boundary. -/
theorem fireEntry_stepKept (s : State) (e : GunEntry) (at_ : Nat) (hzone : e.cls ≠ 3) : StepKept s (fireEntry s e at_) :=
  (guns_stepKept s (s.guns.erase e)).trans
    ((gunEffect_kept (TimeKept.refl False _) hzone False.elim _).stepKept.trans
      (gunFired_kept (TimeKept.refl False _) e _ _).stepKept)

theorem cls_ne_zone_of_not_atBoundary {e : GunEntry} (h : e.atBoundary = false) : e.cls ≠ 3 := by
  intro hcls
  simp [GunEntry.atBoundary, hcls] at h

theorem gunsStepped_stepKept (s : State) (old : Nat) : StepKept s (gunsStepped s old) := by
  unfold gunsStepped
  dsimp only
  split
  · refine List.foldlRecOn _ _ (StepKept.refl s) fun t ht e _ => ht.trans ?_
    exact (guns_stepKept t (t.guns.erase e)).trans (gunLate_kept (gunLog_kept (TimeKept.refl False _) e _ _ _) e).stepKept
  · refine List.foldlRecOn _ _ (StepKept.refl s) fun t ht e _ => ht.trans ?_
    split
    next hready =>
      obtain ⟨hbound, -⟩ := Bool.and_eq_true_iff.1 hready
      have hzone : e.cls ≠ 3 := cls_ne_zone_of_not_atBoundary (by simpa using hbound)
      exact (guns_stepKept t (t.guns.erase e)).trans (fireEntry_stepKept _ { e with stepped := true } _ hzone)
    next => exact guns_stepKept t _

theorem alignError_stepKept (s : State) (ps : Int) : StepKept s (alignError s ps) := by
  have herr : StepKept s (s.setFld F.TIM_ALIGN.ERR_PS 0 0 (unsigned 24 (clampInt (-8388607) 8388607 ps))) :=
    ⟨rfl, rfl, State.fld_setFld_other _ _ _ _ _ _ _ _ (by decide)⟩
  have hstatus : ∀ (u : State) (f : Fld) (v : Nat), f.reg = .TIM_STATUS → f.lo ≤ f.hi → f.hi < 40 →
      FldsApart f F.TIM_STATUS.STEP_DONE → StepKept u (u.setFld f 0 0 v) := fun u f v hr hlo h40 hd =>
    ⟨rfl, rfl, State.fld_setFld_apart _ _ _ _ _ _ hr.symm hlo h40 (by decide) hd⟩
  unfold alignError
  dsimp only
  have haligned := fun v => herr.trans (hstatus _ F.TIM_STATUS.ALIGNED v rfl (by decide) (by decide) (by decide))
  split
  · exact ((haligned _).trans (hstatus _ F.TIM_STATUS.ALIGN_LOST 1 rfl (by decide) (by decide) (by decide))).trans
      (emit_kept (TimeKept.refl False _) _ _ _ _ _ _ _).stepKept
  · exact haligned _

/-- The choice of the first strides writes no more than the start that waits and the regions that wait. -/
theorem restart_only (s : State) : ∃ q p, restart s = { s with time := { s.time with start := q }, pwr := p } := by
  unfold restart
  dsimp only
  refine List.foldlRecOn (motive := fun t => ∃ q p, t = { s with time := { s.time with start := q }, pwr := p }) _ _ ?_ ?_
  · split
    · exact ⟨_, _, rfl⟩
    · exact ⟨s.time.start, s.pwr, rfl⟩
  · rintro t ⟨q, p, rfl⟩ r -
    split
    · exact ⟨q, _, rfl⟩
    · exact ⟨q, p, rfl⟩

/-- With no start and no region that waits, there is nothing to choose. -/
theorem restart_idle (hstart : s.time.start = none) (hresume : ∀ r, (s.pw r).resume = none) : restart s = s := by
  unfold restart
  rw [hstart]
  dsimp only
  refine List.foldlRecOn (motive := fun t => t = s) _ _ rfl ?_
  rintro t rfl r -
  rw [hresume r]

theorem restart_stepKept (s : State) : StepKept s (restart s) := by
  obtain ⟨q, p, h⟩ := restart_only s
  rw [h]
  exact ⟨rfl, rfl, rfl⟩

theorem stepStrides_stepKept (s : State) (delta : Int) : StepKept s (stepStrides s delta) := by
  unfold stepStrides
  dsimp only
  split
  · have hofs : ∀ w, StepKept s (s.setReg .TIM_STRIDE_OFS 0 0 w) := fun w =>
      ⟨rfl, rfl, State.fld_setReg_other _ _ _ _ _ _ _ _ (by decide)⟩
    exact ((hofs _).trans (alignError_stepKept _ _)).trans (restart_stepKept _)
  · exact restart_stepKept s

/-! ### TIME_STEP -/

/-- The step that TIM_ADJ_SEC and TIM_ADJ_FRAC hold. -/
def stepDelta (s : State) : Int := signed 40 (s.reg .TIM_ADJ_SEC).toNat * unitsPerSec + (s.reg .TIM_ADJ_FRAC).toNat

/-- Device time after the step. -/
def stepNow (s : State) : Nat := (((s.time.now : Int) + stepDelta s) % timeSpan).toNat

/-- When PPS_OUT falls after the step, which moves its fall too. -/
def stepFall (s : State) : Option Nat :=
  let fall := s.time.ppsUntil.map (fun t => (((t : Int) + stepDelta s) % timeSpan).toNat)
  fall

/-- The time base when the step has been made. -/
def stepTime (s : State) : TimeBase :=
  { s.time with now := stepNow s, phase := 0, stepArmed := false, ppsUntil := stepFall s }

/-- The state when the step has been made and logged, before its consequences for strides and guns. -/
def stepMade (s : State) : State := ({ s with time := stepTime s }.setFld F.TIM_STATUS.STEP_DONE 0 0 1).emitDev 0x5101

theorem execTimeStep_eq (s : State) : execTimeStep s =
    if !s.time.stepArmed then .next s
    else if fracBad (s.reg .TIM_ADJ_FRAC).toNat then
      .next ({ s with time := { s.time with stepArmed := false } }.setFld F.TIM_STATUS.ADJ_BAD 0 0 1)
    else if stepDelta s = 0 then .next (stepMade s)
    else .next (if 0 < stepDelta s then gunsStepped (stepStrides (stepMade s) (stepDelta s)) s.time.now
      else stepStrides (stepMade s) (stepDelta s)) := rfl

theorem exec_timeStep_bad (harmed : s.time.stepArmed = true) (hfrac : 999999999 < (s.reg .TIM_ADJ_FRAC).toNat / 1024) :
    exec .timeStep s = .next ({ s with time := { s.time with stepArmed := false } }.setFld F.TIM_STATUS.ADJ_BAD 0 0 1) := by
  have hbad : fracBad (s.reg .TIM_ADJ_FRAC).toNat = true := decide_eq_true hfrac
  change execTimeStep s = _
  rw [execTimeStep_eq, harmed, hbad, if_neg (by decide), if_pos rfl]

theorem exec_timeStep (harmed : s.time.stepArmed = true) (hfrac : (s.reg .TIM_ADJ_FRAC).toNat / 1024 ≤ 999999999) :
    exec .timeStep s = .next (if stepDelta s = 0 then stepMade s
      else if 0 < stepDelta s then gunsStepped (stepStrides (stepMade s) (stepDelta s)) s.time.now
      else stepStrides (stepMade s) (stepDelta s)) := by
  have hgood : fracBad (s.reg .TIM_ADJ_FRAC).toNat = false := decide_eq_false (Nat.not_lt.2 hfrac)
  change execTimeStep s = _
  rw [execTimeStep_eq, harmed, hgood, if_neg (by decide), if_neg (by decide)]
  split_ifs <;> rfl

theorem stepMade_only (s : State) : ∃ m d, stepMade s = { s with regs := m, detected := d, time := stepTime s } :=
  ⟨(stepMade s).regs, (stepMade s).detected, by simp [stepMade, State.emitDev, State.emit]⟩

/-- With no strides, no start, no waiting region and no gun entry, a step has no further consequence. -/
theorem exec_timeStep_idle (harmed : s.time.stepArmed = true) (hfrac : (s.reg .TIM_ADJ_FRAC).toNat / 1024 ≤ 999999999)
    (hrun : s.time.running = false) (hstart : s.time.start = none) (hguns : s.guns = [])
    (hresume : ∀ r, (s.pw r).resume = none) : exec .timeStep s = .next (stepMade s) := by
  rw [exec_timeStep harmed hfrac]
  obtain ⟨m, d, hmade⟩ := stepMade_only s
  generalize stepMade s = t at hmade ⊢
  have hstrides : stepStrides t (stepDelta s) = t := by
    have hidle : t.time.running = false := by rw [hmade]; exact hrun
    have hchosen : restart t = t := restart_idle (by rw [hmade]; exact hstart) (by rw [hmade]; exact hresume)
    simp only [stepStrides, hidle, Bool.false_eq_true, if_false, hchosen]
  have hstepped : gunsStepped t s.time.now = t := by
    have hnone : t.guns = [] := by rw [hmade]; exact hguns
    simp [gunsStepped, hnone]
  rw [hstrides, hstepped, ite_self, ite_self]

theorem stepNow_cast (s : State) :
    (stepNow s : Int) = (s.time.now + (s.reg .TIM_ADJ_SEC).toInt * unitsPerSec + (s.reg .TIM_ADJ_FRAC).toNat) % timeSpan := by
  have hnonneg : 0 ≤ ((s.time.now : Int) + stepDelta s) % timeSpan := Int.emod_nonneg _ (by decide)
  rw [stepNow, Int.toNat_of_nonneg hnonneg, stepDelta, signed_toNat, Int.add_assoc]

theorem stepMade_regs (s : State) :
    (stepMade s).regs = ({ s with time := stepTime s }.setFld F.TIM_STATUS.STEP_DONE 0 0 1).regs := by
  simp only [stepMade, State.emitDev, State.emit_regs]

theorem stepMade_done (s : State) : (stepMade s).fld F.TIM_STATUS.STEP_DONE = 1 := by
  rw [fld_of_regs (stepMade_regs s), State.fld_setFld_same _ _ _ _ _ (by decide) (by decide)]
  rfl

theorem stepMade_keeps (s : State) : KeepsFlds s (stepMade s) [(F.TIM_STATUS.STEP_DONE, 0, 0)] := by
  rw [keepsFlds_iff, stepMade_regs]
  exact FldsKept.setFld _ _ _ _ (List.mem_singleton_self _) (by decide) (by decide) (FldsKept.refl _ _)

theorem stepMade_reports (s : State) : Reports s (stepMade s) 0x5101 := by
  refine reports_of_emit (u := { s with time := stepTime s }.setFld F.TIM_STATUS.STEP_DONE 0 0 1) (region := 0) (tile := 0)
    (sc := .device) (inj := false) ?_ ?_ (by decide) (by decide) (by decide)
  · rw [stepMade, State.emitDev]
  · rw [State.setFld_detected]

/-- Whatever a step brings on, it leaves device time, the armed step and STEP_DONE as the step has made them. -/
theorem exec_timeStep_kept (harmed : s.time.stepArmed = true) (hfrac : (s.reg .TIM_ADJ_FRAC).toNat / 1024 ≤ 999999999) :
    ∃ t, exec .timeStep s = .next t ∧ StepKept (stepMade s) t := by
  refine ⟨_, exec_timeStep harmed hfrac, ?_⟩
  split
  · exact StepKept.refl _
  · have hstrides := stepStrides_stepKept (stepMade s) (stepDelta s)
    split
    · exact hstrides.trans (gunsStepped_stepKept _ _)
    · exact hstrides

end Sys2Proof.Laws
end
section
/-! SUPPORT. The statement on device time and its references. -/

open Sys2Proof Sys2Proof.Machine Sys2Proof.Safety Sys2Proof.Laws

/-- Settles O9. The consequences of a step, of which the gun actions it passes are the largest, write no register of the
device block but TIM_STRIDE_OFS, TIM_ALIGN and other bits of TIM_STATUS. -/
theorem deviceTimeAndReferences : Obligations.DeviceTimeAndReferences := by
  unfold Obligations.DeviceTimeAndReferences
  refine ⟨fun s => ⟨?tick, ?rate, fun _ => rfl, exec_timeStep_bad, ?stepIdle, ?step, ?strideCfg, ?held⟩,
    fun s => ⟨exec_ppsOut, fun _ => exec_ppsOutFall, ?ppsIn, exec_refLost_idle, ?refLost, ?refQualified, exec_refQualified_idle,
      ?refArms, ?refSwitches, ?oscillator, ?reserved⟩⟩
  case tick =>
    obtain ⟨k, hexec⟩ := exec_timeBaseTick s
    refine ⟨_, hexec, ?_, tickTime_refOut s, tickTime_refOut_off s, rfl⟩
    rintro total rfl h0 hspan
    exact tickTime_total s h0 hspan
  case rate =>
    intro v
    refine ⟨writeTimRate s v, rfl, ?_, ?_⟩ <;> rw [writeTimRate, reg_rate_steerClamp]
    · exact rate_written_toInt v
    · exact steerClamp_setRate s _
  case stepIdle =>
    intro harmed hfrac hrun hstart hguns hresume
    obtain ⟨m, d, hmade⟩ := stepMade_only s
    refine ⟨stepMade s, exec_timeStep_idle harmed hfrac hrun hstart hguns hresume, ?_, ?_, stepMade_done s, stepMade_reports s,
      stepMade_keeps s, ?_, ?_⟩
    · rw [hmade]; exact stepNow_cast s
    · rw [hmade]; rfl
    · intro hfall
      rw [hmade]
      simp only [stepTime, stepFall, hfall]
      rfl
    · rw [hmade]; rfl
  case step =>
    intro harmed hfrac
    obtain ⟨m, d, hmade⟩ := stepMade_only s
    obtain ⟨t, hexec, hkept⟩ := exec_timeStep_kept harmed hfrac
    refine ⟨t, hexec, ?_, ?_, ?_⟩
    · rw [hkept.now, hmade]; exact stepNow_cast s
    · rw [hkept.armed, hmade]; rfl
    · rw [hkept.done, stepMade_done]
  case strideCfg =>
    intro v hslew
    exact ⟨fun hmode hlo hhi => congrArg Host.Outcome.next (writeStrideCfg_taken hslew hmode hlo hhi),
      fun hmode hp => congrArg Host.Outcome.next (writeStrideCfg_refused hslew hmode hp)⟩
  case held =>
    intro hrun hS _ h0 hnow hP
    have hT : 0 < s.strideT := Nat.mul_pos (Nat.succ_pos _) hP
    exact ⟨_, exec_heldStrideAdvance hrun hS hT h0 hnow, fun n _ => le_heldAdvanced_iff hT n, rfl⟩
  case ppsIn =>
    intro rising dt hedge
    exact ⟨_, exec_ppsInEdge hedge, ppsCaptured_after rfl⟩
  case refLost =>
    intro hactive
    obtain ⟨m, hset⟩ := refSet_only s 0 0
    obtain ⟨hvalid, hactive', hkeeps⟩ := refSet_flds s (valid := 0) (active := 0) (by decide) (by decide)
    generalize ht : refSet s 0 0 = t at hset hvalid hactive' hkeeps
    refine ⟨_, exec_refLost_active hactive, ?_⟩
    rw [ht]
    exact ⟨hvalid, hactive', reports_of_emit rfl (by rw [hset]) (by decide) (by decide) (by decide), hkeeps, by rw [hset]; rfl⟩
  case refQualified =>
    intro hthere harmed
    obtain ⟨m, hset⟩ := refSet_only s 1 1
    obtain ⟨hvalid, hactive, hkeeps⟩ := refSet_flds s (valid := 1) (active := 1) (by decide) (by decide)
    exact ⟨_, exec_refQualified_armed hthere harmed, hvalid, hactive, hkeeps, by rw [hset]⟩
  case refArms =>
    intro hactive hvalid
    exact congrArg Host.Outcome.next (writeRefSel_arms hactive hvalid)
  case refSwitches =>
    intro hactive hvalid
    obtain ⟨hactive', hsel⟩ := refSwitched_flds s (sel := 1) (active := 1) (by decide) (by decide)
    exact ⟨_, congrArg Host.Outcome.next (writeRefSel_switches hactive hvalid), hactive', hsel, refSwitched_refArmed s 1 1⟩
  case oscillator =>
    obtain ⟨hactive, hsel⟩ := refSwitched_flds s (sel := 0) (active := 0) (by decide) (by decide)
    exact ⟨_, congrArg Host.Outcome.next (writeRefSel_oscillator s), hactive, hsel, refSwitched_refArmed s 0 0⟩
  case reserved =>
    intro sel hsel
    rw [exec_refSelWrite, writeRefSel_reserved s hsel]
end

section
/-! SUPPORT. The launch log and the log of late launches, slot by slot (R66, Table 2.4). -/

namespace Sys2Proof.Laws

open Sys2Proof Sys2Proof.Machine Sys2Proof.Safety

/-! ### Slots -/

theorem regAddr_ne_of_idx {r : Reg} (hstride : 0 < r.place.stride) (u : Nat) {i j : Nat} (h : i ≠ j) :
    regAddr r u i ≠ regAddr r u j := fun he =>
  h (Nat.eq_of_mul_eq_mul_right hstride (Nat.add_left_cancel he))

/-- Slots of regions at different offsets of their blocks are different slots. -/
theorem regAddr_ne_of_offset {r r' : Reg} {i i' : Nat} (hr : r.place.blk = .region) (hr' : r'.place.blk = .region)
    (hi : r.place.offset + i * r.place.stride < 0x800000) (hi' : r'.place.offset + i' * r'.place.stride < 0x800000)
    (hne : r.place.offset + i * r.place.stride ≠ r'.place.offset + i' * r'.place.stride) (u u' : Nat) :
    regAddr r u i ≠ regAddr r' u' i' := by
  unfold regAddr
  rw [hr, hr']
  simp only [Blk.base]
  omega

/-- A slot of a tile is no slot of a region. -/
theorem regAddr_tile_ne_region {r r' : Reg} {i i' : Nat} (hr : r.place.blk = .tile) (hr' : r'.place.blk = .region)
    (hi : r.place.offset + i * r.place.stride < 0x80000) (hi' : r'.place.offset + i' * r'.place.stride < 0x800000) (u u' : Nat) :
    regAddr r u i ≠ regAddr r' u' i' := by
  unfold regAddr
  rw [hr, hr']
  simp only [Blk.base]
  omega

/-! ### A row of slots -/

theorem putSlots_only (r : Reg) (u i : Nat) (ws : List Word) (s : State) : ∃ m, putSlots r u i ws s = { s with regs := m } := by
  induction ws generalizing i s with
  | nil => exact ⟨s.regs, rfl⟩
  | cons w ws ih =>
    obtain ⟨m, h⟩ := ih (i + 1) (s.setReg r u i w)
    exact ⟨m, h⟩

theorem reg_putSlots_other (r r' : Reg) (u u' i i' : Nat) (ws : List Word) (s : State)
    (h : ∀ j, i ≤ j → j < i + ws.length → regAddr r' u' i' ≠ regAddr r u j) :
    (putSlots r u i ws s).reg r' u' i' = s.reg r' u' i' := by
  induction ws generalizing i s with
  | nil => rfl
  | cons w ws ih =>
    rw [List.length_cons] at h
    rw [putSlots, ih (i + 1) _ fun j hj hj' => h j (by omega) (by omega),
      State.reg_setReg_other _ _ _ _ _ _ _ _ (h i (Nat.le_refl _) (by omega))]

/-- Each slot of the row reads its word. -/
theorem reg_putSlots_at {r : Reg} (hstride : 0 < r.place.stride) (u i : Nat) (ws : List Word) (s : State) (k : Nat)
    (hk : k < ws.length) : (putSlots r u i ws s).reg r u (i + k) = ws[k] := by
  induction ws generalizing i k s with
  | nil => cases hk
  | cons w ws ih =>
    rw [putSlots]
    cases k with
    | zero =>
      have hkept := reg_putSlots_other r r u u (i + 1) i ws (s.setReg r u i w) fun j hj _ => regAddr_ne_of_idx hstride u (by omega)
      exact hkept.trans (State.reg_setReg_same _ _ _ _ _)
    | succ k =>
      have hshift : i + (k + 1) = i + 1 + k := by omega
      rw [hshift, ih (i + 1) _ k (Nat.lt_of_succ_lt_succ hk)]
      rfl

/-! ### An entry of the launch log -/

/-- The four words of an entry (Table 2.4). -/
def logWords (s : State) (e : GunEntry) (reason at_ late : Nat) : List Word :=
  [BitVec.ofNat 40 (e.cls * 2 ^ 36 + e.index * 2 ^ 30 + e.action * 2 ^ 24 + e.tag),
    BitVec.ofNat 40 (reason * 2 ^ 36 + s.fld F.TIM_CTRL.SERVO_STATE * 2 ^ 34 + s.time.strideNum % 2 ^ 34),
    BitVec.ofNat 40 (fracOf at_), BitVec.ofNat 40 (Nat.min late (2 ^ 40 - 1))]

theorem logWords_length (s : State) (e : GunEntry) (reason at_ late : Nat) : (logWords s e reason at_ late).length = 4 := rfl

theorem gunLog_eq (s : State) (e : GunEntry) (reason at_ late : Nat) : gunLog s e reason at_ late =
    (putSlots .TIM_LOG e.region (4 * s.fld F.TIM_LOG_HEAD.IDX e.region) (logWords s e reason at_ late) s).setFld
      F.TIM_LOG_HEAD.IDX e.region 0 ((s.fld F.TIM_LOG_HEAD.IDX e.region + 1) % 64) := rfl

theorem gunLog_only (s : State) (e : GunEntry) (reason at_ late : Nat) :
    ∃ m, gunLog s e reason at_ late = { s with regs := m } := by
  obtain ⟨m, h⟩ := putSlots_only .TIM_LOG e.region (4 * s.fld F.TIM_LOG_HEAD.IDX e.region) (logWords s e reason at_ late) s
  rw [gunLog_eq, h]
  exact ⟨_, setFld_only _ _ _ _ _⟩

theorem logHead_lt (s : State) (r : Nat) : s.fld F.TIM_LOG_HEAD.IDX r < 64 := bitsOf_lt _ 5 0

theorem fld_logHead_gunLog (s : State) (e : GunEntry) (reason at_ late : Nat) :
    (gunLog s e reason at_ late).fld F.TIM_LOG_HEAD.IDX e.region = (s.fld F.TIM_LOG_HEAD.IDX e.region + 1) % 64 := by
  rw [gunLog_eq, State.fld_setFld_same _ _ _ _ _ (by decide) (by decide)]
  exact Nat.mod_eq_of_lt (Nat.mod_lt _ (by decide))

theorem reg_log_gunLog (s : State) (e : GunEntry) (reason at_ late k : Nat) (hk : k < 4) :
    (gunLog s e reason at_ late).reg .TIM_LOG e.region (4 * s.fld F.TIM_LOG_HEAD.IDX e.region + k) =
      (logWords s e reason at_ late).getD k 0 := by
  have hhead := logHead_lt s e.region
  have hslot : 0x160800 + (4 * s.fld F.TIM_LOG_HEAD.IDX e.region + k) * 8 < 0x800000 := by omega
  have hapart : 0x160800 + (4 * s.fld F.TIM_LOG_HEAD.IDX e.region + k) * 8 ≠ 0x160030 := by omega
  have hlen : k < (logWords s e reason at_ late).length := by rw [logWords_length]; exact hk
  rw [gunLog_eq, State.reg_setFld_other _ _ _ _ _ _ _ _ (regAddr_ne_of_offset rfl rfl hslot (by decide) hapart _ _),
    reg_putSlots_at (by decide) _ _ _ _ k hlen]
  exact List.getElem_eq_getD 0

/-- Every register whose slot is neither in the log nor its head is kept. -/
theorem reg_gunLog_other (s : State) (e : GunEntry) (reason at_ late : Nat) (r : Reg) (u i : Nat)
    (hlog : ∀ j < 256, regAddr r u i ≠ regAddr .TIM_LOG e.region j) (hhead : regAddr r u i ≠ regAddr .TIM_LOG_HEAD e.region 0) :
    (gunLog s e reason at_ late).reg r u i = s.reg r u i := by
  have hlt := logHead_lt s e.region
  rw [gunLog_eq, State.reg_setFld_other _ _ _ _ _ _ _ _ hhead, reg_putSlots_other]
  intro j _ hj
  rw [logWords_length] at hj
  exact hlog j (by omega)

theorem logWord0_toNat (s : State) (e : GunEntry) (reason at_ late : Nat) (hcls : e.cls < 16) (hindex : e.index < 64)
    (haction : e.action < 64) (htag : e.tag < 2 ^ 24) :
    ((logWords s e reason at_ late).getD 0 0).toNat = e.cls * 2 ^ 36 + e.index * 2 ^ 30 + e.action * 2 ^ 24 + e.tag := by
  change (BitVec.ofNat 40 _).toNat = _
  rw [BitVec.toNat_ofNat, Nat.mod_eq_of_lt (by omega)]

theorem logWord1_reason (s : State) (e : GunEntry) (reason at_ late : Nat) (hreason : reason < 16) :
    bitsOf ((logWords s e reason at_ late).getD 1 0).toNat 39 36 = reason := by
  have hservo : s.fld F.TIM_CTRL.SERVO_STATE < 4 := bitsOf_lt _ 3 2
  change bitsOf (BitVec.ofNat 40 _).toNat 39 36 = reason
  rw [bitsOf_lowWord _ _ _ (by decide) (by decide), Nat.add_assoc]
  exact bitsOf_mul_add (by omega) hreason

theorem logWord3_toNat (s : State) (e : GunEntry) (reason at_ late : Nat) (hlate : late < 2 ^ 40) :
    ((logWords s e reason at_ late).getD 3 0).toNat = late := by
  change (BitVec.ofNat 40 (min late (2 ^ 40 - 1))).toNat = late
  rw [Nat.min_eq_left (by omega), BitVec.toNat_ofNat, Nat.mod_eq_of_lt hlate]

/-! ### Reports and late launches -/

/-- A record for an entry of a unit that its class has. -/
theorem gunReport_reports (s : State) {code : Nat} {e : GunEntry} (hcode : code < 2 ^ 16) (hregion : e.region < 4)
    (hindex : e.index < 16) :
    Reports s (gunReport s code e) code ∧ gunReport s code e = { s with detected := (gunReport s code e).detected } := by
  unfold gunReport
  split
  · exact ⟨reports_of_emit rfl rfl hcode (by omega) (by omega), rfl⟩
  · exact ⟨reports_of_emit rfl rfl hcode hregion (by decide), rfl⟩

theorem gunLate_only (s : State) (e : GunEntry) : ∃ m d, gunLate s e = { s with regs := m, detected := d } := by
  obtain ⟨d, hd⟩ : ∃ d, gunReport s 0x4101 e = { s with detected := d } := by
    unfold gunReport; split <;> exact ⟨_, rfl⟩
  rw [gunLate, hd]
  exact ⟨_, d, setFld_only _ _ _ _ _⟩

theorem gunReport_regs (s : State) (code : Nat) (e : GunEntry) : (gunReport s code e).regs = s.regs := by
  unfold gunReport
  split <;> rfl

theorem gunLate_reports {s : State} {e : GunEntry} (hregion : e.region < 4) (hindex : e.index < 16) :
    Reports s (gunLate s e) 0x4101 := (gunReport_reports s (by decide) hregion hindex).1

/-- The counter of late launches rises until it is full. -/
theorem fld_late_gunLate (s : State) (e : GunEntry) (h : s.fld F.TIM_GUN_STAT.LATE e.region < 2 ^ 24 - 1) :
    (gunLate s e).fld F.TIM_GUN_STAT.LATE e.region = s.fld F.TIM_GUN_STAT.LATE e.region + 1 := by
  rw [gunLate, State.addSat, State.fld_setFld_same _ _ _ _ _ (by decide) (by decide), fld_of_regs (gunReport_regs s _ e)]
  change min (s.fld F.TIM_GUN_STAT.LATE e.region + 1) (2 ^ 24 - 1) % 2 ^ 24 = _
  rw [Nat.min_eq_left (by omega), Nat.mod_eq_of_lt (by omega)]

theorem reg_gunLate_other (s : State) (e : GunEntry) (r : Reg) (u i : Nat) (h : regAddr r u i ≠ regAddr .TIM_GUN_STAT e.region 0) :
    (gunLate s e).reg r u i = s.reg r u i := by
  rw [gunLate, State.addSat, State.reg_setFld_other _ _ _ _ _ _ _ _ h, reg_of_regs (gunReport_regs s _ e)]

/-! ### An entry of the log in a later state -/

/-- In `t`, the log of the region of `e` holds one more entry than in `s`: that of `e`. -/
def Logged (s t : State) (e : GunEntry) (reason at_ late : Nat) : Prop :=
  t.fld F.TIM_LOG_HEAD.IDX e.region = (s.fld F.TIM_LOG_HEAD.IDX e.region + 1) % 64 ∧
    ∀ k < 4, t.reg .TIM_LOG e.region (4 * s.fld F.TIM_LOG_HEAD.IDX e.region + k) = (logWords s e reason at_ late).getD k 0

theorem gunLog_logged (s : State) (e : GunEntry) (reason at_ late : Nat) :
    Logged s (gunLog s e reason at_ late) e reason at_ late :=
  ⟨fld_logHead_gunLog s e reason at_ late, fun k hk => reg_log_gunLog s e reason at_ late k hk⟩

/-- The counter of late launches is no slot of the log. -/
theorem Logged.gunLate {s t : State} {e : GunEntry} {reason at_ late : Nat} (h : Logged s t e reason at_ late) :
    Logged s (gunLate t e) e reason at_ late := by
  obtain ⟨hhead, hwords⟩ := h
  have hlt := logHead_lt s e.region
  refine ⟨?_, fun k hk => ?_⟩
  · have hkept : (Machine.gunLate t e).reg .TIM_LOG_HEAD e.region 0 = t.reg .TIM_LOG_HEAD e.region 0 :=
      reg_gunLate_other t e _ _ _ (regAddr_ne_of_offset rfl rfl (by decide) (by decide) (by decide) _ _)
    rw [← hhead, State.fld, State.fld]
    exact congrArg (fun w : Word => bitsOf w.toNat 5 0) hkept
  · have hslot : 0x160800 + (4 * s.fld F.TIM_LOG_HEAD.IDX e.region + k) * 8 < 0x800000 := by omega
    have hapart : 0x160800 + (4 * s.fld F.TIM_LOG_HEAD.IDX e.region + k) * 8 ≠ 0x160020 := by omega
    rw [reg_gunLate_other t e _ _ _ (regAddr_ne_of_offset rfl rfl hslot (by decide) hapart _ _), hwords k hk]

theorem Logged.reason {s t : State} {e : GunEntry} {reason at_ late : Nat} (h : Logged s t e reason at_ late) (hreason : reason < 16) :
    bitsOf (t.reg .TIM_LOG e.region (4 * s.fld F.TIM_LOG_HEAD.IDX e.region + 1)).toNat 39 36 = reason := by
  rw [h.2 1 (by decide), logWord1_reason s e reason at_ late hreason]

/-! ### What is logged of an action that has fired -/

/-- An action on time, at a unit that accepts it: REASON OK. -/
theorem gunFired_onTime {s : State} {e : GunEntry} {at_ : Nat} (hpast : e.past = false) (hstepped : e.stepped = false)
    (hwoken : e.woken = false) (hwaited : e.waited = false) (hedge : e.atBoundary = false)
    (htime : overQuantum s e (at_ - e.time) = false) : gunFired s e at_ true = gunLog s e 0 at_ 0 := by
  simp [gunFired, hpast, hstepped, hwoken, hwaited, hedge, htime]

/-- An action that arrived past its time: REASON PAST, or REFUSED by its unit. -/
theorem gunFired_past {s : State} {e : GunEntry} {at_ : Nat} {ok : Bool} (hpast : e.past = true) (hstepped : e.stepped = false)
    (hwoken : e.woken = false) (hwaited : e.waited = false) (hedge : e.atBoundary = false) :
    gunFired s e at_ ok = if overQuantum s e (at_ - e.time) then
      gunLate (gunLog s e (if ok then 1 else 8) at_ (at_ - e.time)) e else gunLog s e (if ok then 1 else 8) at_ 0 := by
  cases ok <;> cases hq : overQuantum s e (at_ - e.time) <;> simp [gunFired, hpast, hstepped, hwoken, hwaited, hedge, hq]

theorem gunFired_past_logged {s : State} {e : GunEntry} {at_ : Nat} {ok : Bool} (hpast : e.past = true)
    (hstepped : e.stepped = false) (hwoken : e.woken = false) (hwaited : e.waited = false) (hedge : e.atBoundary = false) :
    ∃ late, Logged s (gunFired s e at_ ok) e (if ok then 1 else 8) at_ late := by
  rw [gunFired_past hpast hstepped hwoken hwaited hedge]
  split
  · exact ⟨_, (gunLog_logged s e _ at_ _).gunLate⟩
  · exact ⟨_, gunLog_logged s e _ at_ _⟩

theorem gunFired_guns (s : State) (e : GunEntry) (at_ : Nat) (ok : Bool) : (gunFired s e at_ ok).guns = s.guns :=
  (gunFired_kept (TimeKept.refl False s) e at_ ok).guns

end Sys2Proof.Laws
end

section
/-! SUPPORT. Pushes to the gun and cancellations (R59-R61). -/

namespace Sys2Proof.Laws

open Sys2Proof Sys2Proof.Machine Sys2Proof.Safety

theorem instant_atPhase (s : State) (dt : Nat) : (s.atPhase dt).instant = s.nowAt dt := by
  change (((s.time.now : Int) + (dt : Int)) % (timeSpan : Int)).toNat = (s.time.now + dt) % timeSpan
  rw [← Int.natCast_add, ← Int.natCast_mod, Int.toNat_natCast]

theorem timeSlot_logHead (r : Nat) : TimeSlot True (regAddr .TIM_LOG_HEAD r 0) := by
  have hplace : Reg.place .TIM_LOG_HEAD = ⟨.region, 0x160030, 1, 0x8⟩ := by decide
  refine .inr ⟨trivial, ?_⟩
  rw [regAddr, hplace]
  simp only [Blk.base]
  omega

/-! ### Entries -/

theorem gunOk_iff {e : GunEntry} {frac : Word} : gunOk e frac = true ↔
    e.index < gunUnits e.cls ∧ gunAction e.cls e.action = true ∧ frac.toNat / 1024 ≤ 999999999 := by
  simp [gunOk, fracBad, and_assoc]

theorem gunUnits_le (cls : Nat) : gunUnits cls ≤ 16 := by
  unfold gunUnits
  split <;> decide

theorem sameUnit_eq (e : GunEntry) :
    e.sameUnit = fun f => f.region == e.region && f.cls == e.cls && f.index == e.index := by
  funext f
  rw [GunEntry.sameUnit, BEq.comm (a := e.region), BEq.comm (a := e.cls), BEq.comm (a := e.index)]

/-- In a queue in gun-time order, an entry goes behind those of earlier or equal time. -/
theorem insertGun_ordered (e : GunEntry) {gs : List GunEntry} (h : gs.Pairwise fun f g => f.time ≤ g.time) :
    ∃ l m, gs = l ++ m ∧ (∀ f ∈ l, f.time ≤ e.time) ∧ (∀ f ∈ m, e.time < f.time) ∧ insertGun e gs = l ++ e :: m := by
  induction gs with
  | nil => exact ⟨[], [], rfl, by simp, by simp, rfl⟩
  | cons f fs ih =>
    obtain ⟨hf, hfs⟩ := List.pairwise_cons.1 h
    rw [insertGun]
    split
    · next hlt =>
      refine ⟨[], f :: fs, rfl, by simp, fun g hg => ?_, rfl⟩
      rcases List.mem_cons.1 hg with rfl | hg
      · exact hlt
      · exact Nat.lt_of_lt_of_le hlt (hf g hg)
    · next hle =>
      obtain ⟨l, m, rfl, hl, hm, hins⟩ := ih hfs
      refine ⟨f :: l, m, rfl, fun g hg => ?_, hm, by rw [hins]; rfl⟩
      rcases List.mem_cons.1 hg with rfl | hg
      · exact Nat.le_of_not_lt hle
      · exact hl g hg

/-! ### The cases of a push -/

section Push

variable {s : State} {r : Nat} {s0 s1 s2 s3 : Word} {e : GunEntry} (he : gunEntry r s0 s1 s2 s3 s.instant = e)

include he

theorem gunPush_bad (hbad : gunOk e s2 = false) : gunPush s r s0 s1 s2 s3 = badPush s r := by
  simp [gunPush, he, hbad]

theorem gunPush_cancel (hok : gunOk e s2 = true) (haction : e.action = 0x3F) : gunPush s r s0 s1 s2 s3 = gunCancel s e := by
  simp [gunPush, he, hok, haction]

theorem gunPush_fires (hok : gunOk e s2 = true) (haction : e.action ≠ 0x3F) (hfires : firesNow s e = true) :
    gunPush s r s0 s1 s2 s3 = fireEntry s e s.instant := by
  simp [gunPush, he, hok, haction, hfires]

theorem gunPush_full (hok : gunOk e s2 = true) (haction : e.action ≠ 0x3F) (hfires : firesNow s e = false)
    (hfull : 16 ≤ (s.guns.filter e.sameUnit).length) :
    gunPush s r s0 s1 s2 s3 = gunReport (s.addSat F.TIM_GUN_STAT.FULL r 0) 0x4102 e := by
  simp [gunPush, he, hok, haction, hfires, hfull]

theorem gunPush_queued (hok : gunOk e s2 = true) (haction : e.action ≠ 0x3F) (hfires : firesNow s e = false)
    (hroom : (s.guns.filter e.sameUnit).length < 16) :
    gunPush s r s0 s1 s2 s3 = gunWake { s with guns := insertGun e s.guns } e := by
  simp [gunPush, he, hok, haction, hfires, hroom]

end Push

theorem firesNow_of_not_past {s : State} {e : GunEntry} (h : e.past = false) : firesNow s e = false := by
  simp [firesNow, h]

/-- An entry that fires on arrival precedes every entry of its unit, so it is none of those in the queue. -/
theorem erase_of_earliest {gs : List GunEntry} {e : GunEntry} (h : ∀ f ∈ gs.filter e.sameUnit, e.time < f.time) :
    gs.erase e = gs :=
  List.erase_of_not_mem fun hmem =>
    Nat.lt_irrefl _ (h e (List.mem_filter.2 ⟨hmem, by simp [GunEntry.sameUnit]⟩))

theorem firesNow_of_earliest {s : State} {e : GunEntry} (hpast : e.past = true) (hedge : e.atBoundary = false)
    (hready : unitReady s e = true) (h : ∀ f ∈ s.guns.filter e.sameUnit, e.time < f.time) : firesNow s e = true := by
  have hall : (s.guns.all fun f => !(e.sameUnit f) || decide (e.time < f.time)) = true := by
    rw [List.all_eq_true]
    intro f hf
    cases hunit : e.sameUnit f with
    | false => rfl
    | true => exact decide_eq_true (h f (List.mem_filter.2 ⟨hf, hunit⟩))
  simp [firesNow, hpast, hedge, hready, hall]

/-- An entry that fires on arrival leaves the queue as it is and is logged as PAST or REFUSED. -/
theorem fireEntry_past {s : State} {e : GunEntry} {at_ : Nat} (hpast : e.past = true) (hstepped : e.stepped = false)
    (hwoken : e.woken = false) (hwaited : e.waited = false) (hedge : e.atBoundary = false) (hindex : e.index < 16) :
    (fireEntry s e at_).guns = s.guns.erase e ∧
      (fireEntry s e at_).fld F.TIM_LOG_HEAD.IDX e.region = (s.fld F.TIM_LOG_HEAD.IDX e.region + 1) % 64 ∧
      (bitsOf ((fireEntry s e at_).reg .TIM_LOG e.region (4 * s.fld F.TIM_LOG_HEAD.IDX e.region + 1)).toNat 39 36 = 1 ∨
        bitsOf ((fireEntry s e at_).reg .TIM_LOG e.region (4 * s.fld F.TIM_LOG_HEAD.IDX e.region + 1)).toNat 39 36 = 8) := by
  have heffect := gunEffect_kept (TimeKept.refl True { s with guns := s.guns.erase e })
    (cls_ne_zone_of_not_atBoundary hedge) (fun _ _ => hindex) (unitEdge s e at_)
  unfold fireEntry
  dsimp only
  generalize gunEffect { s with guns := s.guns.erase e } e (unitEdge s e at_) = x at heffect ⊢
  obtain ⟨late, hlog⟩ := gunFired_past_logged (s := x.2) (at_ := unitEdge s e at_) (ok := x.1) hpast hstepped hwoken hwaited hedge
  have hhead : x.2.fld F.TIM_LOG_HEAD.IDX e.region = s.fld F.TIM_LOG_HEAD.IDX e.region :=
    heffect.fld F.TIM_LOG_HEAD.IDX e.region 0 (timeSlot_logHead e.region)
  have hreason := hlog.reason (by split <;> decide)
  rw [← hhead]
  refine ⟨(gunFired_guns _ _ _ _).trans heffect.guns, hlog.1, ?_⟩
  cases hok : x.1 with
  | true => exact .inl (by simpa [hok] using hreason)
  | false => exact .inr (by simpa [hok] using hreason)

/-! ### CANCEL -/

/-- The entries of one region are logged one after another. -/
theorem cancelLogs (r : Nat) (gs : List GunEntry) (s : State) (hregion : ∀ f ∈ gs, f.region = r) :
    (gs.foldl (fun s f => gunLog s f 7 s.instant 0) s).fld F.TIM_LOG_HEAD.IDX r =
        (s.fld F.TIM_LOG_HEAD.IDX r + gs.length) % 64 ∧
      ∃ m, gs.foldl (fun s f => gunLog s f 7 s.instant 0) s = { s with regs := m } := by
  induction gs generalizing s with
  | nil => exact ⟨(Nat.mod_eq_of_lt (logHead_lt s r)).symm, s.regs, rfl⟩
  | cons f fs ih =>
    obtain ⟨hhead, m, hm⟩ := ih (gunLog s f 7 s.instant 0) fun g hg => hregion g (List.mem_cons_of_mem _ hg)
    obtain ⟨m', hm'⟩ := gunLog_only s f 7 s.instant 0
    have hfirst : (gunLog s f 7 s.instant 0).fld F.TIM_LOG_HEAD.IDX r = (s.fld F.TIM_LOG_HEAD.IDX r + 1) % 64 := by
      rw [← hregion f (List.mem_cons_self ..)]
      exact fld_logHead_gunLog s f 7 s.instant 0
    rw [List.foldl_cons, List.length_cons, hhead, hfirst]
    refine ⟨by omega, m, hm.trans ?_⟩
    rw [hm']

/-- The words of a CANCEL hold its class, index, action and tag. -/
theorem cancelEntry_eq (c : BitVec 4) (ix : BitVec 6) (tag : BitVec 24) (r now : Nat) (frac : Word) :
    gunEntry r (BitVec.ofNat 40 (c.toNat * 2 ^ 36 + ix.toNat * 2 ^ 30 + 0x3F * 2 ^ 24 + tag.toNat)) 0 frac 0 now =
      { region := r, cls := c.toNat, index := ix.toNat, action := 0x3F, tag := tag.toNat, time := timeOf 0 frac.toNat
        arg := 0, past := decide (timeOf 0 frac.toNat ≤ now) } := by
  have hc := c.isLt
  have hix := ix.isLt
  have htag := tag.isLt
  have hword : (BitVec.ofNat 40 (c.toNat * 2 ^ 36 + ix.toNat * 2 ^ 30 + 0x3F * 2 ^ 24 + tag.toNat)).toNat =
      c.toNat * 2 ^ 36 + ix.toNat * 2 ^ 30 + 0x3F * 2 ^ 24 + tag.toNat := by
    rw [BitVec.toNat_ofNat, Nat.mod_eq_of_lt (by omega)]
  simp only [gunEntry, hword, bitsOf, BitVec.toNat_zero, BitVec.ofNat_eq_ofNat]
  congr 1 <;> omega

theorem gunAction_cancel {c n : Nat} (h : n < gunUnits c) : gunAction c 0x3F = true := by
  unfold gunUnits at h
  unfold gunAction
  split at h <;> simp_all

/-- The state in which a CANCEL has removed and logged the entries it names. -/
def gunCancelled (s : State) (e : GunEntry) : State :=
  (s.guns.filter fun f => e.sameUnit f && f.tag == e.tag).foldl (fun s f => gunLog s f 7 s.instant 0)
    { s with guns := s.guns.filter fun f => !(e.sameUnit f && f.tag == e.tag) }

theorem gunCancel_eq (s : State) (e : GunEntry) : gunCancel s e = gunLog (gunCancelled s e) e 7 s.instant 0 := rfl

/-- A CANCEL removes the entries of its unit with its tag, and logs them and itself. -/
theorem gunCancel_spec (s : State) (e : GunEntry) :
    (gunCancel s e).guns = s.guns.filter (fun f => !(e.sameUnit f && f.tag == e.tag)) ∧
      (gunCancel s e).fld F.TIM_LOG_HEAD.IDX e.region =
        (s.fld F.TIM_LOG_HEAD.IDX e.region + (s.guns.filter fun f => e.sameUnit f && f.tag == e.tag).length + 1) % 64 ∧
      gunCancel s e = { s with regs := (gunCancel s e).regs, guns := (gunCancel s e).guns } := by
  have hregion : ∀ f ∈ s.guns.filter (fun f => e.sameUnit f && f.tag == e.tag), f.region = e.region := fun f hf => by
    obtain ⟨-, hunit⟩ := List.mem_filter.1 hf
    simp only [GunEntry.sameUnit, Bool.and_eq_true, beq_iff_eq] at hunit
    exact hunit.1.1.1.symm
  obtain ⟨hhead, m, hm⟩ := cancelLogs e.region _ { s with guns := s.guns.filter fun f => !(e.sameUnit f && f.tag == e.tag) } hregion
  obtain ⟨m', hm'⟩ := gunLog_only (gunCancelled s e) e 7 s.instant 0
  rw [gunCancel_eq]
  refine ⟨?_, ?_, ?_⟩
  · rw [hm', gunCancelled, hm]
  · rw [fld_logHead_gunLog, gunCancelled, hhead, Nat.mod_add_mod]
    rfl
  · rw [hm', gunCancelled, hm]

end Sys2Proof.Laws
end

section
/-! SUPPORT. The rows GUN_PUSH and CANCEL (R59-R61, R66). -/

namespace Sys2Proof.Laws

open Sys2Proof Sys2Proof.Machine Sys2Proof.Safety

theorem exec_gunPush_whole (s : State) (r : Region) (s0 s1 s2 s3 : Word) (dt : Nat) :
    exec (.gunPush r s0 s1 s2 s3 true dt) s = .next (gunPush (s.atPhase dt) r s0 s1 s2 s3) := by
  change execGunPush r s0 s1 s2 s3 true dt s = _
  rw [execGunPush, if_pos rfl]

theorem gunEntry_unheld (r : Nat) (s0 s1 s2 s3 : Word) (now : Nat) : (gunEntry r s0 s1 s2 s3 now).region = r ∧
    (gunEntry r s0 s1 s2 s3 now).stepped = false ∧ (gunEntry r s0 s1 s2 s3 now).woken = false ∧
    (gunEntry r s0 s1 s2 s3 now).waited = false := by
  simp only [gunEntry, and_self]

theorem atPhase_guns (s : State) (dt : Nat) : (s.atPhase dt).guns = s.guns := rfl

theorem fld_atPhase (s : State) (dt : Nat) (f : Fld) (u i : Nat) : (s.atPhase dt).fld f u i = s.fld f u i := rfl

/-- What a counter writes depends on the registers alone. -/
theorem addSat_regs_congr {s t : State} (h : t.regs = s.regs) (f : Fld) (u i k : Nat) :
    (t.addSat f u i k).regs = (s.addSat f u i k).regs := by
  rw [State.addSat, State.addSat, fld_of_regs h]
  simp only [State.setFld, State.setReg_regs, reg_of_regs h, h]

/-- A full queue is counted and reported, and nothing else changes. -/
theorem gunFull_spec (o : State) {r : Nat} {e : GunEntry} (hregion : e.region < 4) (hindex : e.index < 16) :
    (gunReport (o.addSat F.TIM_GUN_STAT.FULL r 0) 0x4102 e).guns = o.guns ∧
      Reports o (gunReport (o.addSat F.TIM_GUN_STAT.FULL r 0) 0x4102 e) 0x4102 ∧
      gunReport (o.addSat F.TIM_GUN_STAT.FULL r 0) 0x4102 e =
        { o with regs := (gunReport (o.addSat F.TIM_GUN_STAT.FULL r 0) 0x4102 e).regs
                 detected := (gunReport (o.addSat F.TIM_GUN_STAT.FULL r 0) 0x4102 e).detected } ∧
      (gunReport (o.addSat F.TIM_GUN_STAT.FULL r 0) 0x4102 e).regs = (o.addSat F.TIM_GUN_STAT.FULL r 0).regs := by
  obtain ⟨m, hm⟩ : ∃ m, o.addSat F.TIM_GUN_STAT.FULL r 0 = { o with regs := m } := ⟨_, setFld_only _ _ _ _ _⟩
  rw [hm]
  obtain ⟨hreports, honly⟩ := gunReport_reports { o with regs := m } (code := 0x4102) (by decide) hregion hindex
  have hregs := gunReport_regs { o with regs := m } 0x4102 e
  refine ⟨by rw [honly], hreports, ?_, hregs⟩
  rw [hregs]
  exact honly

section Rows

variable {s : State} {r : Region} {s0 s1 s2 s3 : Word} {dt : Nat} {e : GunEntry}

theorem gunEntry_atPhase (he : gunEntry r s0 s1 s2 s3 (s.nowAt dt) = e) : gunEntry r s0 s1 s2 s3 (s.atPhase dt).instant = e := by
  rw [instant_atPhase, he]

variable (he : gunEntry r s0 s1 s2 s3 (s.nowAt dt) = e)

include he

theorem exec_gunPush_bad (hbad : ¬ (e.index < gunUnits e.cls ∧ gunAction e.cls e.action = true ∧ s2.toNat / 1024 ≤ 999999999)) :
    exec (.gunPush r s0 s1 s2 s3 true dt) s = .next ((s.atPhase dt).addSat F.TIM_GUN_STAT.BAD_PUSH r 0) :=
  (exec_gunPush_whole s r s0 s1 s2 s3 dt).trans (congrArg Host.Outcome.next
    (gunPush_bad (gunEntry_atPhase he) (Bool.eq_false_iff.2 fun h => hbad (gunOk_iff.1 h))))

theorem exec_gunPush_queued (hok : gunOk e s2 = true) (haction : e.action ≠ 0x3F) (hpast : e.past = false)
    (hroom : (s.guns.filter e.sameUnit).length < 16) (hruns : unitDepth (s.atPhase dt) e = 0)
    (hsorted : s.guns.Pairwise fun f g => f.time ≤ g.time) :
    ∃ l m, s.guns = l ++ m ∧ (∀ f ∈ l, f.time ≤ e.time) ∧ (∀ f ∈ m, e.time < f.time) ∧
      exec (.gunPush r s0 s1 s2 s3 true dt) s = .next { s.atPhase dt with guns := l ++ e :: m } := by
  obtain ⟨l, m, hguns, hl, hm, hins⟩ := insertGun_ordered e hsorted
  have hruns' : unitDepth { s.atPhase dt with guns := l ++ e :: m } e = 0 := hruns
  refine ⟨l, m, hguns, hl, hm, ?_⟩
  rw [exec_gunPush_whole, gunPush_queued (gunEntry_atPhase he) hok haction (firesNow_of_not_past hpast) hroom, atPhase_guns,
    hins, gunWake, if_pos hruns']

theorem exec_gunPush_fires (hok : gunOk e s2 = true) (haction : e.action ≠ 0x3F) (hpast : e.past = true)
    (hedge : e.atBoundary = false) (hready : unitReady (s.atPhase dt) e = true)
    (hfirst : ∀ f ∈ s.guns.filter e.sameUnit, e.time < f.time) :
    ∃ t, exec (.gunPush r s0 s1 s2 s3 true dt) s = .next t ∧ t.guns = s.guns ∧
      t.fld F.TIM_LOG_HEAD.IDX r = (s.fld F.TIM_LOG_HEAD.IDX r + 1) % 64 ∧
      (bitsOf (t.reg .TIM_LOG r (4 * s.fld F.TIM_LOG_HEAD.IDX r + 1)).toNat 39 36 = 1 ∨
        bitsOf (t.reg .TIM_LOG r (4 * s.fld F.TIM_LOG_HEAD.IDX r + 1)).toNat 39 36 = 8) := by
  have hindex : e.index < 16 := Nat.lt_of_lt_of_le (gunOk_iff.1 hok).1 (gunUnits_le e.cls)
  have hfires : firesNow (s.atPhase dt) e = true := firesNow_of_earliest hpast hedge hready hfirst
  obtain ⟨hregion, hstepped, hwoken, hwaited⟩ := gunEntry_unheld r s0 s1 s2 s3 (s.nowAt dt)
  rw [he] at hregion hstepped hwoken hwaited
  have hkept : s.guns.erase e = s.guns := erase_of_earliest hfirst
  obtain ⟨hguns, hhead, hreason⟩ := fireEntry_past (s := s.atPhase dt) (at_ := (s.atPhase dt).instant) hpast
    hstepped hwoken hwaited hedge hindex
  rw [hregion, fld_atPhase] at hhead hreason
  refine ⟨_, ?_, hguns.trans hkept, hhead, hreason⟩
  rw [exec_gunPush_whole, gunPush_fires (gunEntry_atPhase he) hok haction hfires]

theorem exec_gunPush_full (hok : gunOk e s2 = true) (haction : e.action ≠ 0x3F) (hpast : e.past = false)
    (hfull : 16 ≤ (s.guns.filter e.sameUnit).length) :
    ∃ t, exec (.gunPush r s0 s1 s2 s3 true dt) s = .next t ∧ t.guns = s.guns ∧ Reports s t 0x4102 ∧
      t = { s.atPhase dt with regs := t.regs, detected := t.detected } ∧
      t.regs = (s.addSat F.TIM_GUN_STAT.FULL r 0).regs := by
  have hindex : e.index < 16 := Nat.lt_of_lt_of_le (gunOk_iff.1 hok).1 (gunUnits_le e.cls)
  obtain ⟨hregion, -, -, -⟩ := gunEntry_unheld r s0 s1 s2 s3 (s.nowAt dt)
  rw [he] at hregion
  obtain ⟨hguns, hreports, honly, hregs⟩ := gunFull_spec (s.atPhase dt) (r := r) (hregion ▸ r.isLt) hindex
  refine ⟨_, ?_, hguns, hreports, honly, hregs.trans (addSat_regs_congr rfl _ _ _ _)⟩
  rw [exec_gunPush_whole, gunPush_full (gunEntry_atPhase he) hok haction (firesNow_of_not_past hpast) hfull]

end Rows

/-- A write of the ports that is no whole entry is counted. -/
theorem exec_gunPush_part (s : State) (r : Region) (s0 s1 s2 s3 : Word) (dt : Nat) :
    exec (.gunPush r s0 s1 s2 s3 false dt) s = .next ((s.atPhase dt).addSat F.TIM_GUN_STAT.BAD_PUSH r 0) := by
  change execGunPush r s0 s1 s2 s3 false dt s = _
  rw [execGunPush, if_neg Bool.false_ne_true, badPush]

theorem exec_cancel (s : State) (r : Region) (c : BitVec 4) (ix : BitVec 6) (tag : BitVec 24) (frac : Word) (dt : Nat)
    (hunit : ix.toNat < gunUnits c.toNat) (hfrac : frac.toNat / 1024 ≤ 999999999) :
    ∃ e : GunEntry, e.region = r ∧ e.cls = c.toNat ∧ e.index = ix.toNat ∧ e.tag = tag.toNat ∧
      exec (.cancel r c ix tag frac dt) s = .next (gunCancel (s.atPhase dt) e) :=
  ⟨_, rfl, rfl, rfl, rfl, congrArg Host.Outcome.next
    (gunPush_cancel (cancelEntry_eq c ix tag r (s.atPhase dt).instant frac) (gunOk_iff.2 ⟨hunit, gunAction_cancel hunit, hfrac⟩) rfl)⟩

theorem exec_cancel_spec (s : State) (r : Region) (c : BitVec 4) (ix : BitVec 6) (tag : BitVec 24) (frac : Word) (dt : Nat)
    (hunit : ix.toNat < gunUnits c.toNat) (hfrac : frac.toNat / 1024 ≤ 999999999) {hit : GunEntry → Bool}
    (hhit : hit = fun f => f.region == r.val && f.cls == c.toNat && f.index == ix.toNat && f.tag == tag.toNat) :
    ∃ t, exec (.cancel r c ix tag frac dt) s = .next t ∧ t.guns = s.guns.filter (fun f => !hit f) ∧
      t.fld F.TIM_LOG_HEAD.IDX r = (s.fld F.TIM_LOG_HEAD.IDX r + (s.guns.filter hit).length + 1) % 64 ∧
      t = { s.atPhase dt with regs := t.regs, guns := t.guns } := by
  obtain ⟨e, hregion, hcls, hindex, htag, hexec⟩ := exec_cancel s r c ix tag frac dt hunit hfrac
  have hsame : hit = fun f => e.sameUnit f && f.tag == e.tag := by
    rw [hhit, sameUnit_eq, hregion, hcls, hindex, htag]
  obtain ⟨hguns, hhead, honly⟩ := gunCancel_spec (s.atPhase dt) e
  rw [← hregion, hsame]
  exact ⟨_, hexec, hguns, hhead, honly⟩

end Sys2Proof.Laws
end

section
/-! SUPPORT. The row GUN_FIRE for an engine's interrupt action (R62, R63, R66, R67, R158). -/

namespace Sys2Proof.Laws

open Sys2Proof Sys2Proof.Machine Sys2Proof.Safety

/-! ### The interrupt of an engine -/

theorem pf_engine (s : State) {p : Nat} (hp : p < 64) (se sup : Fld) : s.pf p se sup = s.fld se p := by
  have hengine : isSup p = false := decide_eq_false (Nat.not_le.2 hp)
  rw [State.pf, procUnit, hengine]
  simp only [Bool.false_eq_true, if_false]

theorem gunIrq_only (s : State) (p : Nat) (fast : Bool) : ∃ m q, gunIrq s p fast = { s with regs := m, procs := q } :=
  ⟨_, _, setFld_only (s.setProc p { s.proc p with gunFast := fast }) _ _ _ _⟩

theorem gunIrq_fast (s : State) (p : Nat) (fast : Bool) : ((gunIrq s p fast).proc p).gunFast = fast := by
  rw [State.proc, gunIrq, raiseEdge, State.setPf_procs, State.setProc, mget_mset_same]

/-- Bit 18 of the pending register is bit 2 of its edge field. -/
theorem gunIrq_edge (s : State) {p : Nat} (hp : p < 64) (fast : Bool) :
    (gunIrq s p fast).fld F.SE_IRQ_PEND.EDGE p = s.fld F.SE_IRQ_PEND.EDGE p ||| 4 := by
  have hengine : isSup p = false := decide_eq_false (Nat.not_le.2 hp)
  have hlt : s.fld F.SE_IRQ_PEND.EDGE p < 2 ^ 16 := bitsOf_lt _ 31 16
  rw [gunIrq, raiseEdge, State.setPf, State.pf, procUnit, hengine]
  simp only [Bool.false_eq_true, if_false]
  rw [State.fld_setFld_same _ _ _ _ _ (by decide) (by decide), fld_of_regs (State.setProc_regs ..)]
  exact Nat.mod_eq_of_lt (Nat.or_lt_two_pow hlt (by decide))

/-- The state in which the interrupt action of `e` has taken effect. -/
def irqTaken (s : State) (e : GunEntry) : State :=
  gunIrq { s with guns := s.guns.erase e } (16 * e.region + e.index) (bitOf e.arg.toNat 0)

theorem fireEntry_irq {s : State} {e : GunEntry} (hcls : e.cls = 4) (haction : e.action = 0x30) (at_ : Nat) :
    fireEntry s e at_ = gunFired (irqTaken s e) e at_ true := by
  simp [fireEntry, irqTaken, unitEdge, gunEffect, procAction, hcls, haction]

/-- The quantum of an engine's action (Table 2.3). -/
theorem overQuantum_engine {s : State} {e : GunEntry} (hcls : e.cls = 4) (d : Nat) : overQuantum s e d = decide (2560 < 3 * d) := by
  simp [overQuantum, GunEntry.atBoundary, hcls]

/-! ### The state after the firing -/

/-- The interrupt action of `e` has fired once in `s`, has left the queue and is logged. -/
def IrqFired (s t : State) (e : GunEntry) (reason late : Nat) : Prop :=
  t.guns = s.guns.erase e ∧
    t.pf (16 * e.region + e.index) F.SE_IRQ_PEND.EDGE F.SUP_IRQ_PEND.EDGE =
      s.pf (16 * e.region + e.index) F.SE_IRQ_PEND.EDGE F.SUP_IRQ_PEND.EDGE ||| 4 ∧
    (t.proc (16 * e.region + e.index)).gunFast = bitOf e.arg.toNat 0 ∧
    t.fld F.TIM_LOG_HEAD.IDX e.region = (s.fld F.TIM_LOG_HEAD.IDX e.region + 1) % 64 ∧
    (t.reg .TIM_LOG e.region (4 * s.fld F.TIM_LOG_HEAD.IDX e.region)).toNat =
      e.cls * 2 ^ 36 + e.index * 2 ^ 30 + e.action * 2 ^ 24 + e.tag ∧
    bitsOf (t.reg .TIM_LOG e.region (4 * s.fld F.TIM_LOG_HEAD.IDX e.region + 1)).toNat 39 36 = reason ∧
    (t.reg .TIM_LOG e.region (4 * s.fld F.TIM_LOG_HEAD.IDX e.region + 3)).toNat = late ∧ t.mem = s.mem

theorem irqTaken_only (s : State) (e : GunEntry) :
    ∃ m q, irqTaken s e = { s with regs := m, procs := q, guns := s.guns.erase e } := by
  obtain ⟨m, q, h⟩ := gunIrq_only { s with guns := s.guns.erase e } (16 * e.region + e.index) (bitOf e.arg.toNat 0)
  exact ⟨m, q, h⟩

/-- The interrupt leaves the log and the counters of the gun alone. -/
theorem irqTaken_reg (s : State) {e : GunEntry} (hregion : e.region < 4) (hindex : e.index < 16) {r : Reg} (hr : r.place.blk = .region)
    {u i : Nat} (hi : r.place.offset + i * r.place.stride < 0x800000) : (irqTaken s e).reg r u i = s.reg r u i := by
  have hp : isSup (16 * e.region + e.index) = false := decide_eq_false (by omega)
  rw [irqTaken, gunIrq, raiseEdge, State.setPf, hp]
  simp only [Bool.false_eq_true, if_false]
  rw [State.reg_setFld_other _ _ _ _ _ _ _ _ (regAddr_tile_ne_region rfl hr (by decide) hi _ _).symm]
  rfl

/-- What is logged of the interrupt, and nothing else that `IrqFired` speaks of, follows its effect. -/
theorem irqFired_of_logged {s t : State} {e : GunEntry} {reason at_ late : Nat} (hregion : e.region < 4) (hindex : e.index < 16)
    (hcls : e.cls = 4) (haction : e.action = 0x30) (htag : e.tag < 2 ^ 24) (hreason : reason < 16) (hlate : late < 2 ^ 40)
    (hlog : Logged (irqTaken s e) t e reason at_ late) (honly : ∃ m d, t = { irqTaken s e with regs := m, detected := d })
    (hpend : t.reg .SE_IRQ_PEND (16 * e.region + e.index) = (irqTaken s e).reg .SE_IRQ_PEND (16 * e.region + e.index)) :
    IrqFired s t e reason late := by
  have hhead : (irqTaken s e).fld F.TIM_LOG_HEAD.IDX e.region = s.fld F.TIM_LOG_HEAD.IDX e.region := by
    rw [State.fld, State.fld, irqTaken_reg s hregion hindex (r := F.TIM_LOG_HEAD.IDX.reg) rfl (by decide)]
  have hword1 := hlog.reason hreason
  obtain ⟨hidx, hwords⟩ := hlog
  have hword0 := congrArg BitVec.toNat (hwords 0 (by decide))
  have hword3 := congrArg BitVec.toNat (hwords 3 (by decide))
  rw [logWord0_toNat _ _ _ _ _ (by omega) (by omega) (by omega) htag] at hword0
  rw [logWord3_toNat _ _ _ _ _ hlate] at hword3
  rw [hhead] at hidx hword0 hword1 hword3
  obtain ⟨m, d, hkept⟩ := honly
  have hguns : (irqTaken s e).guns = s.guns.erase e := by
    obtain ⟨m', q, h⟩ := irqTaken_only s e
    rw [h]
  have hmem : (irqTaken s e).mem = s.mem := by
    obtain ⟨m', q, h⟩ := irqTaken_only s e
    rw [h]
  refine ⟨?_, ?_, ?_, hidx, hword0, hword1, hword3, ?_⟩
  · rw [hkept]
    exact hguns
  · rw [pf_engine _ (by omega), pf_engine _ (by omega), State.fld, show F.SE_IRQ_PEND.EDGE.reg = .SE_IRQ_PEND from rfl, hpend]
    exact gunIrq_edge { s with guns := s.guns.erase e } (by omega) _
  · rw [hkept]
    exact gunIrq_fast { s with guns := s.guns.erase e } _ _
  · rw [hkept]
    exact hmem

/-- An engine's pending register is no slot of a region. -/
theorem reg_irqPend_gunLog (s : State) (e : GunEntry) (reason at_ late p : Nat) :
    (gunLog s e reason at_ late).reg .SE_IRQ_PEND p = s.reg .SE_IRQ_PEND p :=
  reg_gunLog_other s e reason at_ late _ _ _
    (fun j hj => regAddr_tile_ne_region rfl rfl (by decide)
      (show 0x160800 + j * 8 < 0x800000 by omega) _ _)
    (regAddr_tile_ne_region rfl rfl (by decide) (by decide) _ _)

theorem reg_irqPend_gunLate (s : State) (e : GunEntry) (p : Nat) :
    (gunLate s e).reg .SE_IRQ_PEND p = s.reg .SE_IRQ_PEND p :=
  reg_gunLate_other s e _ _ _ (regAddr_tile_ne_region rfl rfl (by decide) (by decide) _ _)

theorem fld_late_gunLog (s : State) (e : GunEntry) (reason at_ late : Nat) :
    (gunLog s e reason at_ late).fld F.TIM_GUN_STAT.LATE e.region = s.fld F.TIM_GUN_STAT.LATE e.region := by
  have hkept : (gunLog s e reason at_ late).reg .TIM_GUN_STAT e.region = s.reg .TIM_GUN_STAT e.region :=
    reg_gunLog_other s e reason at_ late _ _ _
      (fun j hj => regAddr_ne_of_offset rfl rfl (by decide) (show 0x160800 + j * 8 < 0x800000 by omega)
        (show 0x160020 + 0 * 8 ≠ 0x160800 + j * 8 by omega) _ _)
      (regAddr_ne_of_offset rfl rfl (by decide) (by decide) (by decide) _ _)
  rw [State.fld, State.fld, show F.TIM_GUN_STAT.LATE.reg = .TIM_GUN_STAT from rfl, hkept]

/-! ### The two outcomes -/

section Fire

variable {s : State} {e : GunEntry} {at_ : Nat} (hregion : e.region < 4) (hindex : e.index < 16) (hcls : e.cls = 4)
  (haction : e.action = 0x30) (htag : e.tag < 2 ^ 24)

include hregion hindex in
theorem fld_late_irqTaken : (irqTaken s e).fld F.TIM_GUN_STAT.LATE e.region = s.fld F.TIM_GUN_STAT.LATE e.region := by
  rw [State.fld, State.fld, irqTaken_reg s hregion hindex (r := F.TIM_GUN_STAT.LATE.reg) rfl (by decide)]

include hregion hindex hcls haction htag

/-- On time: REASON OK, no lateness, no report. -/
theorem fireEntry_irq_onTime (hpast : e.past = false) (hstepped : e.stepped = false) (hwoken : e.woken = false)
    (hwaited : e.waited = false) (hquantum : 3 * (at_ - e.time) ≤ 2560) :
    IrqFired s (fireEntry s e at_) e 0 0 ∧ (fireEntry s e at_).detected = s.detected ∧
      (fireEntry s e at_).fld F.TIM_GUN_STAT.LATE e.region = s.fld F.TIM_GUN_STAT.LATE e.region := by
  have hedge : e.atBoundary = false := by simp [GunEntry.atBoundary, hcls]
  have htime : overQuantum (irqTaken s e) e (at_ - e.time) = false := by
    rw [overQuantum_engine hcls]
    exact decide_eq_false (by omega)
  rw [fireEntry_irq hcls haction, gunFired_onTime hpast hstepped hwoken hwaited hedge htime]
  obtain ⟨m, hm⟩ := gunLog_only (irqTaken s e) e 0 at_ 0
  refine ⟨irqFired_of_logged hregion hindex hcls haction htag (by decide) (by decide) (gunLog_logged ..) ⟨m, _, hm⟩
    (reg_irqPend_gunLog ..), ?_, ?_⟩
  · obtain ⟨m', q, h⟩ := irqTaken_only s e
    rw [hm, h]
  · rw [fld_late_gunLog, fld_late_irqTaken hregion hindex]

/-- Past its time on arrival: REASON PAST, its lateness, a record and the counter of late launches. -/
theorem fireEntry_irq_past (hpast : e.past = true) (hstepped : e.stepped = false) (hwoken : e.woken = false)
    (hwaited : e.waited = false) (hquantum : 2560 < 3 * (at_ - e.time)) (hlate : at_ - e.time < 2 ^ 40) :
    IrqFired s (fireEntry s e at_) e 1 (at_ - e.time) ∧ Reports s (fireEntry s e at_) 0x4101 ∧
      (s.fld F.TIM_GUN_STAT.LATE e.region < 2 ^ 24 - 1 →
        (fireEntry s e at_).fld F.TIM_GUN_STAT.LATE e.region = s.fld F.TIM_GUN_STAT.LATE e.region + 1) := by
  have hedge : e.atBoundary = false := by simp [GunEntry.atBoundary, hcls]
  have htime : overQuantum (irqTaken s e) e (at_ - e.time) = true := by
    rw [overQuantum_engine hcls]
    exact decide_eq_true hquantum
  have hfired : fireEntry s e at_ = gunLate (gunLog (irqTaken s e) e 1 at_ (at_ - e.time)) e := by
    rw [fireEntry_irq hcls haction, gunFired_past hpast hstepped hwoken hwaited hedge, if_pos htime, if_pos rfl]
  obtain ⟨m, hm⟩ := gunLog_only (irqTaken s e) e 1 at_ (at_ - e.time)
  obtain ⟨m', q, htaken⟩ := irqTaken_only s e
  rw [hfired]
  refine ⟨irqFired_of_logged hregion hindex hcls haction htag (by decide) hlate (gunLog_logged ..).gunLate ?_ ?_, ?_, fun hroom => ?_⟩
  · obtain ⟨m₂, d, h⟩ := gunLate_only (gunLog (irqTaken s e) e 1 at_ (at_ - e.time)) e
    refine ⟨m₂, d, h.trans ?_⟩
    rw [hm]
  · rw [reg_irqPend_gunLate, reg_irqPend_gunLog]
  · obtain ⟨x, hx, hcode⟩ := gunLate_reports (s := gunLog (irqTaken s e) e 1 at_ (at_ - e.time)) hregion hindex
    refine ⟨x, hx.trans ?_, hcode⟩
    rw [hm, htaken]
  · rw [fld_late_gunLate, fld_late_gunLog, fld_late_irqTaken hregion hindex]
    rw [fld_late_gunLog, fld_late_irqTaken hregion hindex]
    exact hroom

end Fire

/-! ### The row -/

theorem find?_of_stronger {α : Type} {p q : α → Bool} {l : List α} {a : α} (h : l.find? p = some a) (hq : q a = true)
    (himp : ∀ x, q x = true → p x = true) : l.find? q = some a := by
  obtain ⟨-, as, bs, rfl, has⟩ := List.find?_eq_some_iff_append.1 h
  refine List.find?_eq_some_iff_append.2 ⟨hq, as, bs, rfl, fun x hx => ?_⟩
  have hnot := has x hx
  cases hqx : q x with
  | false => rfl
  | true => rw [himp x hqx] at hnot; exact hnot

theorem unitReady_atPhase (s : State) (dt : Nat) (e : GunEntry) : unitReady (s.atPhase dt) e = unitReady s e := rfl

/-- The first entry of a unit is one of that unit. -/
theorem unit_of_find {gs : List GunEntry} {r c i : Nat} {e : GunEntry}
    (h : gs.find? (fun f => f.region == r && f.cls == c && f.index == i) = some e) : e.region = r ∧ e.cls = c ∧ e.index = i := by
  have hunit := List.find?_some (p := fun f : GunEntry => f.region == r && f.cls == c && f.index == i) h
  simpa only [Bool.and_eq_true, beq_iff_eq, and_assoc] using hunit

/-- The first action of an engine that runs fires at the first edge at or after its gun time. -/
theorem exec_gunFire_engine {s : State} {r : Region} {ix : BitVec 6} {e : GunEntry}
    (hfind : s.guns.find? (fun f => f.region == r.val && f.cls == 4 && f.index == ix.toNat) = some e) {dt : Nat}
    (hdue : e.time ≤ s.nowAt dt) (hready : unitReady s e = true) :
    exec (.gunFire r 4 ix dt) s = .next (fireEntry (s.atPhase dt) e (s.nowAt dt)) := by
  obtain ⟨hregion, hcls, hindex⟩ := unit_of_find hfind
  have hfirst : s.guns.find? (fun f => f.region == r.val && f.cls == 4 && f.index == ix.toNat && !f.atBoundary &&
      decide (f.time ≤ s.nowAt dt)) = some e := by
    refine find?_of_stronger hfind ?_ fun f hf => ?_
    · simp [GunEntry.atBoundary, hregion, hcls, hindex, hdue]
    · simp only [Bool.and_eq_true] at hf ⊢
      exact hf.1.1
  change Host.Outcome.next (gunFire (s.atPhase dt) r.val 4 ix.toNat (s.nowAt dt)) = _
  rw [gunFire, atPhase_guns, hfirst]
  dsimp only
  rw [unitReady_atPhase, if_pos hready]

end Sys2Proof.Laws
end

section
/-! SUPPORT. The wake request ahead of an action (R64), and the LAUNCH packet (R297, Table 2.3). -/

namespace Sys2Proof.Laws

open Sys2Proof Sys2Proof.Machine Sys2Proof.Safety

/-! ### The wake request -/

theorem wakePend_ne_stat (r : Nat) : regAddr .PWR_WAKE_PEND r 0 ≠ regAddr .PWR_STAT r 0 :=
  regAddr_ne_of_offset rfl rfl (by decide) (by decide) (by decide) _ _

/-- Of the fields that a wake writes, LAST alone is in the register of the pending sources. -/
theorem wakeFlds_cases {f : Fld × Nat × Nat} {r : Nat} (h : f ∈ wakeFlds r) :
    regAddr f.1.reg f.2.1 f.2.2 = regAddr .PWR_STAT r 0 ∨ f = (F.PWR_WAKE_PEND.LAST, r, 0) := by
  simp only [wakeFlds, List.mem_cons, List.not_mem_nil, or_false] at h
  rcases h with rfl | rfl | rfl | rfl | rfl | rfl
  case inr.inr.inr.inl => exact .inr rfl
  all_goals exact .inl rfl

theorem wakeEvent_gun_eq (s : State) (r : Nat) : wakeEvent s r 0 = wakeRegion (s.orFld F.PWR_WAKE_PEND.PEND r 0 0) r 0 4 := by
  simp [wakeEvent, wakeEnabled]

/-- A wake event of the gun, source 0, is pending at once. -/
theorem wakeEvent_gun_pend (s : State) (r : Nat) : bitOf ((wakeEvent s r 0).fld F.PWR_WAKE_PEND.PEND r) 0 = true := by
  have hkept : (wakeEvent s r 0).fld F.PWR_WAKE_PEND.PEND r = (s.orFld F.PWR_WAKE_PEND.PEND r 0 0).fld F.PWR_WAKE_PEND.PEND r := by
    rw [wakeEvent_gun_eq]
    refine (wakeRegion_powerOnly (s.orFld F.PWR_WAKE_PEND.PEND r 0 0) r 0 4).2 F.PWR_WAKE_PEND.PEND r 0 (by decide) fun f hf he => ?_
    rcases wakeFlds_cases hf with hstat | rfl
    · exact absurd (he.trans hstat) (wakePend_ne_stat r)
    · exact ⟨rfl, rfl, rfl, .inr (show 7 < 8 by decide)⟩
  rw [hkept, State.orFld, State.fld_setFld_same _ _ _ _ _ (by decide) (by decide), bitOf_eq_testBit, Nat.testBit_mod_two_pow,
    Nat.testBit_or]
  simp [F.PWR_WAKE_PEND.PEND]

theorem setPhase_pdir (s : State) (r step : Nat) : (setPhase s r 2 step).pdir r = 2 := by
  rw [State.pdir, setPhase, State.fld_setFld_apart _ _ _ _ _ _ (by decide) (by decide) (by decide) (by decide) (by decide),
    State.fld_setFld_apart _ _ _ _ _ _ (by decide) (by decide) (by decide) (by decide) (by decide),
    State.fld_setFld_same _ _ _ _ _ (by decide) (by decide)]
  rfl

theorem beginExit_pdir (s : State) (r src : Nat) : (beginExit s r src).pdir r = 2 := by
  unfold beginExit
  dsimp only
  rw [State.pdir, fld_of_regs (State.setPw_regs ..), State.fld_setFld_other _ _ _ _ _ _ _ _ (wakePend_ne_stat r).symm]
  exact setPhase_pdir s r _

theorem beginExit_last (s : State) (r : Nat) {src : Nat} (hsrc : src < 16) :
    (beginExit s r src).fld F.PWR_WAKE_PEND.LAST r = src := by
  unfold beginExit
  dsimp only
  rw [fld_of_regs (State.setPw_regs ..), State.fld_setFld_same _ _ _ _ _ (by decide) (by decide)]
  exact Nat.mod_eq_of_lt hsrc

/-- In a region that is in a low-power state, it begins the exit. -/
theorem wakeEvent_gun_exit {s : State} {r : Nat} (hdir : s.pdir r = 0) (hlow : s.pstateR r ≠ 0) :
    (wakeEvent s r 0).pdir r = 2 ∧ (wakeEvent s r 0).fld F.PWR_WAKE_PEND.LAST r = 0 := by
  have hstat : ∀ f : Fld, f.reg = .PWR_STAT → (s.orFld F.PWR_WAKE_PEND.PEND r 0 0).fld f r = s.fld f r := fun f hf =>
    State.fld_setFld_other _ _ _ _ _ _ _ _ (by rw [hf]; exact (wakePend_ne_stat r).symm)
  have hexit : wakeEvent s r 0 = beginExit (s.orFld F.PWR_WAKE_PEND.PEND r 0 0) r 0 := by
    rw [wakeEvent_gun_eq, wakeRegion, State.pdir, State.pstateR, hstat _ rfl, hstat _ rfl]
    rw [State.pdir] at hdir
    rw [hdir]
    exact if_neg hlow
  rw [hexit]
  exact ⟨beginExit_pdir _ r 0, beginExit_last _ r (by decide)⟩

theorem gunWake_engine {s : State} {e : GunEntry} (hcls : e.cls = 4) (hlow : regionDepth s e.region ≠ 0)
    (hdue : e.time ≤ s.instant + resumeLatency (regionDepth s e.region) + s.fld F.TIM_WAKE_GUARD.NS e.region * 1024) :
    gunWake s e = wakeEvent s e.region 0 := by
  have hdepth : unitDepth s e = regionDepth s e.region := by simp [unitDepth, hcls]
  rw [gunWake, hdepth, if_neg hlow, if_pos hdue]
  simp [wakeUnit, hcls, hlow]

theorem exec_gunWake_engine {s : State} {r : Region} {ix : BitVec 6} {e : GunEntry}
    (hfind : s.guns.find? (fun f => f.region == r.val && f.cls == 4 && f.index == ix.toNat) = some e)
    (hlow : regionDepth s r ≠ 0)
    (hdue : e.time ≤ s.instant + resumeLatency (regionDepth s r) + s.fld F.TIM_WAKE_GUARD.NS r * 1024) :
    exec (.gunWake r 4 ix) s = .next (wakeEvent s r 0) := by
  obtain ⟨hregion, hcls, -⟩ := unit_of_find hfind
  change execGunWake r 4 ix s = _
  rw [execGunWake, show (4 : BitVec 4).toNat = 4 from rfl, hfind]
  dsimp only
  rw [← hregion] at hlow hdue ⊢
  rw [gunWake_engine hcls hlow hdue]

/-! ### The packet -/

theorem travelCtl_kept (s : State) (op from_ dest : Nat) : TimeKept False s (travelCtl s op from_ dest) := by
  unfold travelCtl
  split
  · exact travel_kept (used_kept (TimeKept.refl False s)) _
  · exact TimeKept.refl False s

theorem travelCtl_instant (s : State) (op from_ dest : Nat) : (travelCtl s op from_ dest).instant = s.instant := by
  rw [State.instant, State.instant, (travelCtl_kept s op from_ dest).time]

/-- The entry of the action that a LAUNCH names. -/
def launched (r : Region) (c : BitVec 4) (i a : BitVec 6) (arg : Word) (stamp : Nat) : GunEntry :=
  { region := r, cls := c.toNat, index := i.toNat, action := a.toNat, tag := 0, time := stamp, arg := arg }

theorem exec_launch {s : State} {r : Region} {c : BitVec 4} {i a : BitVec 6} {arg : Word} {stamp : Nat}
    (hindex : i.toNat < gunUnits c.toNat) (haction : gunAction c.toNat a.toNat = true) (hcancel : a.toNat ≠ 0x3F) :
    exec (.launch r c i a arg stamp) s = .next (gunEffect
      (travelCtl s 0x14 (2 * (16 * r.val + 13) + 1) (launched r c i a arg stamp).node) (launched r c i a arg stamp) stamp).2 :=
  if_pos ⟨hindex, haction, hcancel⟩

/-- Only the source of a pattern and the length of an injection are taken from the argument. -/
theorem laneAction_arg (s : State) (l : Nat) {action : Nat} (h1 : action ≠ 1) (h5 : action ≠ 5) (arg : Word) :
    laneAction s l action arg = laneAction s l action 0 := by
  unfold laneAction
  split
  case h_1 => exact absurd rfl h1
  case h_5 => exact absurd rfl h5
  all_goals rfl

/-- A LAUNCH packet to a lane has the effect of the lane action it names. -/
theorem exec_launch_lane (s : State) (l : Lane) (arg : Word) (stamp : Nat) (a : BitVec 6) (ha : 1 ≤ a.toNat) (ha' : a.toNat ≤ 7) :
    exec (.launch ⟨l.val / 12, by omega⟩ 1 (BitVec.ofNat 6 (l.val % 12)) a arg stamp) s =
      .next (laneAction (travelCtl s 0x14 (2 * (16 * (l.val / 12) + 13) + 1) (2 * laneTile l)) l a.toNat arg) := by
  have hindex : (BitVec.ofNat 6 (l.val % 12)).toNat = l.val % 12 := by
    rw [BitVec.toNat_ofNat]
    omega
  have hlane : 12 * (l.val / 12) + l.val % 12 = l.val := Nat.div_add_mod l.val 12
  have haction : gunAction (1 : BitVec 4).toNat a.toNat = true := by
    simp [gunAction, ha, ha']
  rw [exec_launch (c := 1) (by rw [hindex]; exact Nat.mod_lt _ (by decide)) haction (by omega)]
  have hnode : (launched ⟨l.val / 12, by omega⟩ 1 (BitVec.ofNat 6 (l.val % 12)) a arg stamp).node = 2 * laneTile l := by
    change 2 * (16 * (l.val / 12) + (BitVec.ofNat 6 (l.val % 12)).toNat) = _
    rw [hindex, laneTile]
  rw [hnode]
  change Host.Outcome.next (laneAction _ (12 * (l.val / 12) + (BitVec.ofNat 6 (l.val % 12)).toNat) a.toNat arg) = _
  rw [hindex, hlane]

theorem exec_launch_lane_noarg (s : State) (l : Lane) (arg : Word) (stamp : Nat) (a : BitVec 6) (ha : 1 ≤ a.toNat)
    (ha' : a.toNat ≤ 7) (h1 : a.toNat ≠ 1) (h5 : a.toNat ≠ 5) :
    exec (.launch ⟨l.val / 12, by omega⟩ 1 (BitVec.ofNat 6 (l.val % 12)) a arg stamp) s =
      .next (laneAction (travelCtl s 0x14 (2 * (16 * (l.val / 12) + 13) + 1) (2 * laneTile l)) l a.toNat 0) := by
  rw [exec_launch_lane s l arg stamp a ha ha', laneAction_arg _ _ h1 h5]

/-- A LAUNCH packet to a heat channel. -/
theorem exec_launch_heat (s : State) (r : Region) (c : Fin 16) (arg : Word) (stamp : Nat) (a : BitVec 6)
    (ha : 0x10 ≤ a.toNat) (ha' : a.toNat ≤ 0x12) :
    exec (.launch r 2 (BitVec.ofNat 6 c.val) a arg stamp) s =
      .next (heatAction (travelCtl s 0x14 (2 * (16 * r.val + 13) + 1) (2 * (16 * r.val + 12) + 1)) r c a.toNat stamp arg).2 := by
  have hindex : (BitVec.ofNat 6 c.val).toNat = c.val := by
    rw [BitVec.toNat_ofNat]
    omega
  have haction : gunAction (2 : BitVec 4).toNat a.toNat = true := by
    simp [gunAction, ha, ha']
  rw [exec_launch (c := 2) (by rw [hindex]; exact c.isLt) haction (by omega)]
  change Host.Outcome.next (heatAction _ r.val (BitVec.ofNat 6 c.val).toNat a.toNat stamp arg).2 = _
  rw [hindex]
  rfl

/-- The packet takes no device time, so a command that follows it is at the same instant. -/
theorem exec_launch_heat_now (s : State) (r : Region) (c : Fin 16) (a : BitVec 6) (arg : Word) (ha : 0x10 ≤ a.toNat)
    (ha' : a.toNat ≤ 0x12) : exec (.launch r 2 (BitVec.ofNat 6 c.val) a arg s.instant) s =
      .next (heatAction (travelCtl s 0x14 (2 * (16 * r.val + 13) + 1) (2 * (16 * r.val + 12) + 1)) r c a.toNat
        (travelCtl s 0x14 (2 * (16 * r.val + 13) + 1) (2 * (16 * r.val + 12) + 1)).instant arg).2 := by
  rw [travelCtl_instant]
  exact exec_launch_heat s r c arg s.instant a ha ha'

/-- A LAUNCH packet to an engine. -/
theorem exec_launch_engine (s : State) (r : Region) {i : BitVec 6} (hindex : i.toNat < 16) (arg : Word) (stamp : Nat) (a : BitVec 6)
    (ha : 0x30 ≤ a.toNat) (ha' : a.toNat ≤ 0x32) :
    exec (.launch r 4 i a arg stamp) s =
      .next (procAction (travelCtl s 0x14 (2 * (16 * r.val + 13) + 1) (2 * (16 * r.val + i.toNat))) (16 * r.val + i.toNat)
        a.toNat arg).2 := by
  have haction : gunAction (4 : BitVec 4).toNat a.toNat = true := by
    simp [gunAction, ha, ha']
  rw [exec_launch (c := 4) hindex haction (by omega)]
  rfl

/-- A LAUNCH packet to the event combiner. -/
theorem exec_launch_event (s : State) (r : Region) (arg : Word) (stamp : Nat) :
    exec (.launch r 6 0 0x38 arg stamp) s =
      .next (raiseEvent (travelCtl s 0x14 (2 * (16 * r.val + 13) + 1) (2 * (16 * r.val + 12) + 1)) r
        (44 + bitsOf arg.toNat 1 0) stamp none) := by
  rw [exec_launch (by decide) (by decide) (by decide)]
  rfl

/-- Bit 0 of the argument chooses between the two ends of a heat. -/
theorem bitOf_and_notOne (arg : Word) : bitOf (arg &&& ~~~1#40).toNat 0 = false := by
  rw [bitOf_eq_testBit, BitVec.testBit_toNat]
  simp

theorem bitOf_or_one (arg : Word) : bitOf (arg ||| 1#40).toNat 0 = true := by
  rw [bitOf_eq_testBit, BitVec.testBit_toNat]
  simp

theorem heatAction_disarm (s : State) (r c at_ : Nat) {arg : Word} (h : bitOf arg.toNat 0 = false) :
    (heatAction s r c 0x11 at_ arg).2 = heatDisarm s r c := by
  simp [heatAction, h]

theorem heatAction_finish (s : State) (r c at_ : Nat) {arg : Word} (h : bitOf arg.toNat 0 = true) :
    (heatAction s r c 0x11 at_ arg).2 = heatFinish s r c := by
  simp [heatAction, h]

/-- The event that a fired GUN_EVENT raises is named by the two low bits of its argument. -/
theorem extract_event (arg : Word) : ((BitVec.extractLsb' 0 2 arg).toFin : Nat) = bitsOf arg.toNat 1 0 := by
  change (BitVec.extractLsb' 0 2 arg).toNat = _
  rw [BitVec.extractLsb'_toNat, bitsOf, Nat.shiftRight_zero, Nat.pow_zero, Nat.div_one]

end Sys2Proof.Laws
end

section

open Sys2Proof Sys2Proof.Machine Sys2Proof.Safety Sys2Proof.Laws

/-- Settles O25: a push by the case of its entry, a firing by the state in which its interrupt is taken and the log written
after it, a LAUNCH by the unit of the action it names. -/
theorem gunEntriesQueueFireAndAreLogged : Obligations.GunEntriesQueueFireAndAreLogged := by
  unfold Obligations.GunEntriesQueueFireAndAreLogged
  refine ⟨fun s r s0 s1 s2 s3 dt => ?_, fun s r ix e hix hfind haction htag => ?_⟩
  · intro cls index action time o e valid mine go
    have he : gunEntry r s0 s1 s2 s3 (s.nowAt dt) = e := rfl
    have hmine : mine = s.guns.filter e.sameUnit := by rw [sameUnit_eq]
    have hok : valid → gunOk e s2 = true := gunOk_iff (e := e).2
    have hlater : s.nowAt dt < time → e.past = false := fun h => decide_eq_false (Nat.not_le.2 h)
    refine ⟨exec_gunPush_part s r s0 s1 s2 s3 dt, exec_gunPush_bad he, ?_, ?_, ?_, ?_⟩
    · intro hvalid haction hroom htime hruns hsorted
      exact exec_gunPush_queued he (hok hvalid) haction (hlater htime) (hmine ▸ hroom) hruns hsorted
    · intro hvalid haction htime hedge hready hfirst
      exact exec_gunPush_fires he (hok hvalid) haction (decide_eq_true htime) hedge hready (hmine ▸ hfirst)
    · intro hvalid haction hfull htime
      exact exec_gunPush_full he (hok hvalid) haction (hlater htime) (hmine ▸ hfull)
    · intro c ix tag hunit hfrac hit
      exact exec_cancel_spec s r c ix tag s2 dt hunit hfrac rfl
  · obtain ⟨hregion, hcls, hindex⟩ := unit_of_find hfind
    intro p head fires
    have hr : e.region < 4 := hregion ▸ r.isLt
    have hi : e.index < 16 := hindex ▸ hix
    have hfires : ∀ (dt : Nat) {t : State} {reason late : Nat}, IrqFired (s.atPhase dt) t e reason late → fires t reason late := by
      intro dt t reason late hfired
      simp only [IrqFired, hregion, hindex, hcls, haction, fld_atPhase] at hfired
      exact hfired
    refine ⟨fun dt at_ hat hdue hready => ?_, ?_, ?_, ?_, ?_⟩
    · have hnow : at_ = s.nowAt dt := hat
      subst hnow
      have hfire := exec_gunFire_engine hfind hdue hready
      refine ⟨fun hpast hstepped hwoken hwaited hquantum => ?_, fun hpast hstepped hwoken hwaited hquantum hlate => ?_⟩
      · obtain ⟨hfired, hquiet, hcount⟩ :=
          fireEntry_irq_onTime (s := s.atPhase dt) hr hi hcls haction htag hpast hstepped hwoken hwaited hquantum
        exact ⟨_, hfire, hfires dt hfired, hquiet, hregion ▸ hcount⟩
      · obtain ⟨hfired, hreport, hcount⟩ :=
          fireEntry_irq_past (s := s.atPhase dt) hr hi hcls haction htag hpast hstepped hwoken hwaited hquantum hlate
        exact ⟨_, hfire, hfires dt hfired, hreport, hregion ▸ hcount⟩
    · intro hlow hdue
      exact ⟨_, exec_gunWake_engine hfind hlow hdue, wakeEvent_gun_pend s r,
        fun hdir => wakeEvent_gun_exit hdir (by simpa [regionDepth, hdir] using hlow)⟩
    · intro l arg stamp q k u
      have hlaunch : ∀ a : BitVec 6, 1 ≤ a.toNat → a.toNat ≤ 7 →
          exec (.launch q 1 k a arg stamp) s = .next (laneAction u l a.toNat arg) := exec_launch_lane s l arg stamp
      have hnoarg : ∀ a : BitVec 6, 1 ≤ a.toNat → a.toNat ≤ 7 → a.toNat ≠ 1 → a.toNat ≠ 5 →
          exec (.launch q 1 k a arg stamp) s = .next (laneAction u l a.toNat 0) := exec_launch_lane_noarg s l arg stamp
      exact ⟨_, _, _, _, _, _, _, hlaunch 1 (by decide) (by decide), rfl,
        hnoarg 2 (by decide) (by decide) (by decide) (by decide), rfl,
        hnoarg 3 (by decide) (by decide) (by decide) (by decide), rfl,
        hnoarg 4 (by decide) (by decide) (by decide) (by decide), rfl,
        hlaunch 5 (by decide) (by decide), rfl,
        hnoarg 6 (by decide) (by decide) (by decide) (by decide), rfl,
        hnoarg 7 (by decide) (by decide) (by decide) (by decide), rfl⟩
    · intro c arg k u
      have hlaunch : ∀ (a : BitVec 6) (w : Word), 0x10 ≤ a.toNat → a.toNat ≤ 0x12 →
          exec (.launch r 2 k a w s.instant) s = .next (heatAction u r c a.toNat u.instant w).2 := exec_launch_heat_now s r c
      refine ⟨_, _, _, _, _, hlaunch 0x10 arg (by decide) (by decide), rfl, hlaunch 0x11 _ (by decide) (by decide), ?_,
        hlaunch 0x11 _ (by decide) (by decide), ?_, hlaunch 0x12 arg (by decide) (by decide), rfl, exec_launch_event s r arg s.instant, ?_⟩
      · exact congrArg Host.Outcome.next (heatAction_disarm u r c _ (bitOf_and_notOne arg)).symm
      · exact congrArg Host.Outcome.next (heatAction_finish u r c _ (bitOf_or_one arg)).symm
      · exact congrArg (fun n => Host.Outcome.next (raiseEvent u r (44 + n) s.instant none)) (extract_event arg)
    · intro arg stamp h u
      have hlaunch : ∀ a : BitVec 6, 0x30 ≤ a.toNat → a.toNat ≤ 0x32 →
          exec (.launch r 4 ix a arg stamp) s = .next (procAction u (16 * r.val + ix.toNat) a.toNat arg).2 :=
        exec_launch_engine s r hix arg stamp
      exact ⟨_, _, _, hlaunch 0x30 (by decide) (by decide), hlaunch 0x31 (by decide) (by decide),
        hlaunch 0x32 (by decide) (by decide), rfl, rfl, rfl⟩

end

section
/-! SUPPORT. Words built bit by bit, and the fields of an instruction word. -/

namespace Sys2Proof.Laws

open Sys2Proof Sys2Proof.Machine Sys2Proof.Safety

/-! ### Words from their bits -/

theorem flag_eq_toNat (b : Bool) : flag b = b.toNat := by cases b <;> rfl

theorem ofBits_lt (f : Nat → Bool) (n : Nat) : ofBits f n < 2 ^ n := by
  induction n with
  | zero => exact Nat.one_pos
  | succ n ih =>
    have hbit : flag (f n) * 2 ^ n ≤ 1 * 2 ^ n := Nat.mul_le_mul_right _ (by cases f n <;> decide)
    rw [ofBits, Nat.pow_succ]
    omega

theorem testBit_ofBits (f : Nat → Bool) (n i : Nat) : (ofBits f n).testBit i = (decide (i < n) && f i) := by
  induction n with
  | zero => simp [ofBits]
  | succ n ih =>
    rw [ofBits, Nat.add_comm, Nat.mul_comm, Nat.testBit_two_pow_mul_add _ (ofBits_lt f n)]
    by_cases hlow : i < n
    · rw [if_pos hlow, ih, decide_eq_true hlow, decide_eq_true (Nat.lt_succ_of_lt hlow)]
    · rw [if_neg hlow]
      by_cases htop : i = n
      · subst htop
        cases f i <;> simp [flag]
      · have hpast : ¬ i < n + 1 := by omega
        rw [decide_eq_false hpast, Bool.false_and]
        obtain ⟨k, hk⟩ : ∃ k, i - n = k + 1 := ⟨i - n - 1, by omega⟩
        rw [hk, Nat.testBit_succ]
        cases f n <;> simp [flag]

theorem getLsbD_ofNat_ofBits (f : Nat → Bool) {n i : Nat} (hi : i < 40) (hn : i < n ∨ f i = false) :
    (BitVec.ofNat 40 (ofBits f n)).getLsbD i = f i := by
  rw [BitVec.getLsbD_ofNat, testBit_ofBits, decide_eq_true hi, Bool.true_and]
  rcases hn with hn | hn
  · rw [decide_eq_true hn, Bool.true_and]
  · rw [hn, Bool.and_false]

theorem getLsbD_wordOf (f : Nat → Bool) {i : Nat} (hi : i < 40) : (wordOf f).getLsbD i = f i :=
  getLsbD_ofNat_ofBits f hi (.inl hi)

theorem getLsbD_setBit (a : Word) (q : Nat) (v : Bool) {i : Nat} (hi : i < 40) :
    (setBit a q v).getLsbD i = if i = q then v else a.getLsbD i :=
  getLsbD_wordOf _ hi

theorem popBits_eq_countP (w n : Nat) : popBits w n = (List.range w).countP n.testBit := by
  induction w generalizing n with
  | zero => rfl
  | succ w ih =>
    have hlow : n % 2 = if n.testBit 0 = true then 1 else 0 := by
      rw [Nat.testBit_zero]; rcases Nat.mod_two_eq_zero_or_one n with h | h <;> simp [h]
    have hrest : n.testBit ∘ Nat.succ = (n / 2).testBit := funext fun i => Nat.testBit_succ n i
    rw [popBits, ih, List.range_succ_eq_map, List.countP_cons, List.countP_map, hrest, hlow, Nat.add_comm]

/-! ### Fields of a number -/

theorem bitsOf_zero_eq_mod (n hi : Nat) : bitsOf n hi 0 = n % 2 ^ (hi + 1) := by
  rw [bitsOf, Nat.pow_zero, Nat.div_one, Nat.sub_zero]

/-- A field of the low bits of a number is that field of the number. -/
theorem bitsOf_bitsOf_zero (n top hi lo : Nat) (h : lo ≤ hi) (ht : hi ≤ top) : bitsOf (bitsOf n top 0) hi lo = bitsOf n hi lo := by
  rw [bitsOf_zero_eq_mod, bitsOf_mod_two_pow n hi lo _ h (Nat.lt_succ_of_le ht)]

theorem bitOf_bitsOf (n hi lo : Nat) {i : Nat} (h : lo + i ≤ hi) : bitOf (bitsOf n hi lo) i = bitOf n (lo + i) := by
  have hi' : i < hi + 1 - lo := by omega
  rw [bitOf_eq_testBit, bitOf_eq_testBit, bitsOf, Nat.testBit_mod_two_pow, decide_eq_true hi', Bool.true_and,
    Nat.testBit_div_two_pow, Nat.add_comm]

theorem bitsOf_single (n i : Nat) : bitsOf n i i = flag (bitOf n i) := by
  have hw : i + 1 - i = 1 := by omega
  rw [bitsOf, hw, Nat.pow_one, bitOf]
  rcases Nat.mod_two_eq_zero_or_one (n / 2 ^ i) with h | h <;> rw [h] <;> rfl

theorem bitsOf_single_eq_one (n i : Nat) : bitsOf n i i = 1 ↔ bitOf n i = true := by
  rw [bitsOf_single]; cases bitOf n i <;> decide

end Sys2Proof.Laws
end

section
/-! SUPPORT. The results of the cell operations, bit by bit (R73-R77). -/

namespace Sys2Proof.Laws

open Sys2Proof Sys2Proof.Machine Sys2Proof.Safety

/-! ### SLICE3, LUT4 and ROT (R73, R74, R76) -/

theorem getLsbD_slice3 (n : Nat) (a b c : Word) {i : Nat} (hi : i < 40) :
    (slice3 (bitsOf n 7 0) a b c).getLsbD i =
      bitOf n ((a.getLsbD i).toNat + 2 * (b.getLsbD i).toNat + 4 * (c.getLsbD i).toNat) := by
  have ha := Bool.toNat_lt (a.getLsbD i)
  have hb := Bool.toNat_lt (b.getLsbD i)
  have hc := Bool.toNat_lt (c.getLsbD i)
  simp only [slice3, getLsbD_wordOf _ hi, flag_eq_toNat]
  rw [bitOf_bitsOf n 7 0 (by omega), Nat.zero_add]

theorem getLsbD_lut4 (n : Nat) (a b : Word) {i : Nat} (hi : i < 40) :
    (lut4 (bitsOf n 45 0) a b).getLsbD i = if i = bitsOf n 45 40 then
        bitOf n ((a.getLsbD (bitsOf n 21 16)).toNat + 2 * (a.getLsbD (bitsOf n 27 22)).toNat
          + 4 * (b.getLsbD (bitsOf n 33 28)).toNat + 8 * (b.getLsbD (bitsOf n 39 34)).toNat)
      else a.getLsbD i := by
  have hfield : ∀ hi lo, lo ≤ hi → hi ≤ 45 → bitsOf (bitsOf n 45 0) hi lo = bitsOf n hi lo := bitsOf_bitsOf_zero n 45
  have h0 := Bool.toNat_lt (a.getLsbD (bitsOf n 21 16))
  have h1 := Bool.toNat_lt (a.getLsbD (bitsOf n 27 22))
  have h2 := Bool.toNat_lt (b.getLsbD (bitsOf n 33 28))
  have h3 := Bool.toNat_lt (b.getLsbD (bitsOf n 39 34))
  simp only [lut4, getLsbD_setBit _ _ _ hi, flag_eq_toNat, hfield 45 40 (by decide) (by decide),
    hfield 21 16 (by decide) (by decide), hfield 27 22 (by decide) (by decide), hfield 33 28 (by decide) (by decide),
    hfield 39 34 (by decide) (by decide), hfield 15 0 (by decide) (by decide)]
  rw [bitOf_bitsOf n 15 0 (by omega), Nat.zero_add]

/-- ROT reads nothing of an instruction word above bit 35. -/
theorem rot_low (n : Nat) (a b c : Word) : rot (bitsOf n 35 0) a b c = rot n a b c := by
  have hfield : ∀ hi lo, lo ≤ hi → hi ≤ 35 → bitsOf (bitsOf n 35 0) hi lo = bitsOf n hi lo := bitsOf_bitsOf_zero n 35
  simp only [rot, rotMove, hfield 8 8 (by decide) (by decide), hfield 7 6 (by decide) (by decide),
    hfield 5 0 (by decide) (by decide)]

theorem getLsbD_rot (n : Nat) (a b c : Word) {i : Nat} (hi : i < 40) :
    (rot n a b c).getLsbD i = if bitOf n 8 then (rotMove n a).getLsbD i
      else (((rotMove n a).getLsbD i && c.getLsbD i) || (b.getLsbD i && !c.getLsbD i)) := by
  simp only [rot, bitsOf_single_eq_one]
  cases bitOf n 8 <;> simp [hi]

/-- With BYPASS set, ROT does not depend on B and C. -/
theorem rot_bypass {n : Nat} (h : bitOf n 8 = true) (a b c b' c' : Word) : rot n a b c = rot n a b' c' := by
  simp only [rot, bitsOf_single_eq_one, h, if_true]

theorem getLsbD_rotMove_rotate {n : Nat} (h : bitsOf n 7 6 = 0) (a : Word) {i : Nat} (hi : i < 40) :
    (rotMove n a).getLsbD ((i + bitsOf n 5 0) % 40) = a.getLsbD i := by
  have hback : ((i + bitsOf n 5 0) % 40 + 40 - bitsOf n 5 0 % 40) % 40 = i := by omega
  simp only [rotMove, h]
  rw [getLsbD_wordOf _ (Nat.mod_lt _ (by decide)), hback]

theorem getLsbD_rotMove_left {n : Nat} (h : bitsOf n 7 6 = 1) (a : Word) {i : Nat} (hi : i < 40) :
    (rotMove n a).getLsbD i = (decide (bitsOf n 5 0 ≤ i) && a.getLsbD (i - bitsOf n 5 0)) := by
  simp only [rotMove, h, getLsbD_wordOf _ hi]

theorem getLsbD_rotMove_right {n : Nat} (h : bitsOf n 7 6 = 2) (a : Word) {i : Nat} (hi : i < 40) :
    (rotMove n a).getLsbD i = (decide (i + bitsOf n 5 0 ≤ 39) && a.getLsbD (i + bitsOf n 5 0)) := by
  simp only [rotMove, h, getLsbD_wordOf _ hi]

theorem getLsbD_rotMove_signed {n : Nat} (h : bitsOf n 7 6 = 3) (a : Word) {i : Nat} (hi : i < 40) :
    (rotMove n a).getLsbD i = a.getLsbD (if i + bitsOf n 5 0 ≤ 39 then i + bitsOf n 5 0 else 39) := by
  simp only [rotMove, h, getLsbD_wordOf _ hi]
  split <;> rfl

/-! ### REDUCE (R77) -/

/-- The bit that REDUCE makes of A under C, before INV. -/
def folded (n : Nat) (a c : Word) : Bool :=
  match bitsOf n 1 0 with
  | 0 => (List.range 40).all (fun j => !c.getLsbD j || a.getLsbD j)
  | 1 => (List.range 40).any (fun j => c.getLsbD j && a.getLsbD j)
  | _ => ((List.range 40).filter (fun j => c.getLsbD j && a.getLsbD j)).length % 2 == 1

theorem and_eq_right_iff_all (a c : Word) : ((a &&& c) == c) = (List.range 40).all (fun j => !c.getLsbD j || a.getLsbD j) := by
  rw [Bool.eq_iff_iff]
  simp only [beq_iff_eq, List.all_eq_true, List.mem_range, BitVec.eq_of_getLsbD_eq_iff, BitVec.getLsbD_and]
  refine forall₂_congr fun j _ => ?_
  cases a.getLsbD j <;> cases c.getLsbD j <;> decide

theorem and_ne_zero_iff_any (a c : Word) : ((a &&& c) != 0) = (List.range 40).any (fun j => c.getLsbD j && a.getLsbD j) := by
  have hzero : ((a &&& c) == 0) = (List.range 40).all (fun j => !(c.getLsbD j && a.getLsbD j)) := by
    rw [Bool.eq_iff_iff]
    simp only [beq_iff_eq, List.all_eq_true, List.mem_range, BitVec.eq_of_getLsbD_eq_iff, BitVec.getLsbD_and]
    refine forall₂_congr fun j _ => ?_
    cases a.getLsbD j <;> cases c.getLsbD j <;> simp
  rw [bne, hzero, List.not_all_eq_any_not]
  simp only [Bool.not_not]

theorem popBits_and (a c : Word) :
    popBits 40 (a &&& c).toNat = ((List.range 40).filter (fun j => c.getLsbD j && a.getLsbD j)).length := by
  have hbit : (a &&& c).toNat.testBit = fun j => c.getLsbD j && a.getLsbD j := by
    funext j
    rw [BitVec.testBit_toNat, BitVec.getLsbD_and, Bool.and_comm]
  rw [popBits_eq_countP, hbit, List.countP_eq_length_filter]

theorem getLsbD_reduce (n : Nat) (a b c : Word) {i : Nat} (hi : i < 40) :
    (reduce (bitsOf n 35 0) a b c).getLsbD i =
      if i ≠ bitsOf n 8 3 then b.getLsbD i else bitOf n 2 != folded n a c := by
  have hfield : ∀ hi lo, lo ≤ hi → hi ≤ 35 → bitsOf (bitsOf n 35 0) hi lo = bitsOf n hi lo := bitsOf_bitsOf_zero n 35
  have hinv : (bitsOf n 2 2 == 1) = bitOf n 2 := by rw [bitsOf_single]; cases bitOf n 2 <;> rfl
  simp only [reduce, getLsbD_setBit _ _ _ hi, hfield 8 3 (by decide) (by decide), hfield 2 2 (by decide) (by decide),
    hfield 1 0 (by decide) (by decide), hinv, and_eq_right_iff_all, and_ne_zero_iff_any, popBits_and, ite_not]
  rw [bne_comm (a := bitOf n 2)]
  rfl

end Sys2Proof.Laws
end

section
/-! SUPPORT. CHAIN, the carries of its segments and its results (R75). -/

namespace Sys2Proof.Laws

open Sys2Proof Sys2Proof.Machine Sys2Proof.Safety

/-! ### The carries -/

/-- The number that bits `i` of A and B spell: the index into PT and GT. -/
def chainIx (a b : Word) (i : Nat) : Nat := (a.getLsbD i).toNat + 2 * (b.getLsbD i).toNat

/-- Whether position `i` propagates its carry: its bit of PT. -/
def chainProp (n : Nat) (a b : Word) (i : Nat) : Bool := bitOf n (chainIx a b i)

/-- The carry into the first position of the segment that begins at `i`. -/
def chainIn (n : Nat) (c : Word) (i : Nat) : Bool :=
  match bitsOf n 9 8 with | 0 => false | 1 => true | _ => c.getLsbD i

/-- The carry out of position `i`, given the carries into all positions: the carry in, or the bit of GT. -/
def chainPast (n : Nat) (a b : Word) (carry : Nat → Bool) (i : Nat) : Bool :=
  if chainProp n a b i then carry i else bitOf n (4 + chainIx a b i)

/-- The carry into each position, for segments of width `w`. -/
def chainCarry (n w : Nat) (a b c : Word) : Nat → Bool
  | 0 => chainIn n c 0
  | i + 1 =>
    if (i + 1) % w = 0 then chainIn n c (i + 1)
    else if chainProp n a b i then chainCarry n w a b c i else bitOf n (4 + chainIx a b i)

theorem chainCarry_eq (n w : Nat) (a b c : Word) (i : Nat) :
    chainCarry n w a b c i = if i % w ≠ 0 then chainPast n a b (chainCarry n w a b c) (i - 1) else chainIn n c i := by
  cases i with
  | zero => rw [if_neg (by simp)]; rfl
  | succ i => rw [chainCarry, ite_not]; rfl

theorem chainIx_lt (a b : Word) (i : Nat) : chainIx a b i < 4 := by
  have ha := Bool.toNat_lt (a.getLsbD i)
  have hb := Bool.toNat_lt (b.getLsbD i)
  unfold chainIx
  omega

/-! ### The positions one after the other -/

theorem last_mod_iff {w : Nat} (hw : 0 < w) (j : Nat) : (j + (w - 1)) % w = w - 1 ↔ j % w = 0 := by
  have hr := Nat.mod_lt j hw
  rw [Nat.add_mod, Nat.mod_eq_of_lt (by omega : w - 1 < w)]
  by_cases h : j % w = 0
  · rw [h, Nat.zero_add, Nat.mod_eq_of_lt (by omega)]; simp
  · rw [show j % w + (w - 1) = j % w - 1 + w by omega, Nat.add_mod_right, Nat.mod_eq_of_lt (by omega)]
    omega

/-- What CHAIN has collected of the bits `f` of its segments' last positions, after `k` positions: bit `j` tells of the
segment that begins at `j`. -/
def segBits (w : Nat) (f : Nat → Bool) (k : Nat) : Nat := ofBits (fun j => decide (j % w = 0) && f (j + w - 1)) (k + 1 - w)

/-- The next position adds to what is collected where it is the last of its segment. -/
theorem segBits_succ {w : Nat} (hw : 0 < w) (f : Nat → Bool) (k : Nat) :
    segBits w f (k + 1) = segBits w f k + if k % w = w - 1 then flag (f k) * 2 ^ (k + 1 - w) else 0 := by
  by_cases hfirst : k + 1 < w
  · have hmod : k % w = k := Nat.mod_eq_of_lt (by omega)
    rw [if_neg (by omega), segBits, segBits, Nat.sub_eq_zero_of_le hfirst, Nat.sub_eq_zero_of_le (by omega),
      Nat.add_zero]
  · obtain ⟨j, rfl⟩ : ∃ j, k = j + (w - 1) := ⟨k + 1 - w, by omega⟩
    have hnext : j + (w - 1) + 1 + 1 - w = j + 1 := by omega
    have hthis : j + (w - 1) + 1 - w = j := by omega
    have hlast : j + w - 1 = j + (w - 1) := by omega
    have htop : (j + (w - 1)) % w = w - 1 ↔ j % w = 0 := last_mod_iff hw j
    rw [segBits, segBits, hnext, hthis, ofBits, hlast]
    by_cases hj : j % w = 0
    · rw [if_pos (htop.2 hj), decide_eq_true hj, Bool.true_and]
    · rw [if_neg (mt htop.1 hj), decide_eq_false hj, Bool.false_and]
      simp [flag]

/-- What CHAIN holds after `k` positions. -/
def chainAfter (n w : Nat) (a b c : Word) (k : Nat) : ChainAcc :=
  let carry := chainCarry n w a b c
  let past := chainPast n a b carry
  { carry := decide (k ≠ 0) && past (k - 1)
    sum := ofBits (fun i => chainProp n a b i != carry i) k
    cout := segBits w past k
    ovf := segBits w (fun i => past i != carry i) k }

/-- One position of CHAIN, by the carry into it and the carry out of it. -/
theorem chainBit_eq (n w : Nat) (a b c : Word) (acc : ChainAcc) (i : Nat) :
    chainBit (bitsOf n 35 0) w a b c acc i =
      let carry := if i % w = 0 then chainIn n c i else acc.carry
      let past := if chainProp n a b i then carry else bitOf n (4 + chainIx a b i)
      { carry := past
        sum := acc.sum + flag (chainProp n a b i != carry) * 2 ^ i
        cout := acc.cout + if i % w = w - 1 then flag past * 2 ^ (i + 1 - w) else 0
        ovf := acc.ovf + if i % w = w - 1 then flag (past != carry) * 2 ^ (i + 1 - w) else 0 } := by
  have hfield : ∀ hi lo, lo ≤ hi → hi ≤ 35 → bitsOf (bitsOf n 35 0) hi lo = bitsOf n hi lo := bitsOf_bitsOf_zero n 35
  have hix : flag (a.getLsbD i) + 2 * flag (b.getLsbD i) = chainIx a b i := by simp only [flag_eq_toNat, chainIx]
  have hlt := chainIx_lt a b i
  have hprop : bitOf (bitsOf n 3 0) (chainIx a b i) = chainProp n a b i := by
    rw [bitOf_bitsOf n 3 0 (by omega), Nat.zero_add]; rfl
  have hgen : bitOf (bitsOf n 7 4) (chainIx a b i) = bitOf n (4 + chainIx a b i) := bitOf_bitsOf n 7 4 (by omega)
  simp only [chainBit, hfield 9 8 (by decide) (by decide), hfield 3 0 (by decide) (by decide),
    hfield 7 4 (by decide) (by decide), hix, hprop, hgen]
  rfl

theorem chainBit_after (n : Nat) {w : Nat} (hw : 0 < w) (a b c : Word) (k : Nat) :
    chainBit (bitsOf n 35 0) w a b c (chainAfter n w a b c k) k = chainAfter n w a b c (k + 1) := by
  have hcarry : (if k % w = 0 then chainIn n c k else (chainAfter n w a b c k).carry) = chainCarry n w a b c k := by
    rw [chainCarry_eq, ite_not]
    by_cases h : k % w = 0
    · rw [if_pos h, if_pos h]
    · have hk : k ≠ 0 := fun h0 => h (h0 ▸ Nat.zero_mod w)
      rw [if_neg h, if_neg h, chainAfter, decide_eq_true hk, Bool.true_and]
  rw [chainBit_eq, hcarry]
  simp only [chainAfter, segBits_succ hw, ofBits, chainPast, ne_eq, Nat.add_eq_zero_iff, one_ne_zero, and_false,
    not_false_eq_true, decide_true, Bool.true_and, Nat.add_sub_cancel]

theorem chain_fold (n : Nat) {w : Nat} (hw : 0 < w) (a b c : Word) (k : Nat) :
    (List.range k).foldl (chainBit (bitsOf n 35 0) w a b c) { carry := false, sum := 0, cout := 0, ovf := 0 } =
      chainAfter n w a b c k := by
  induction k with
  | zero => 
    simp [chainAfter, segBits, Nat.sub_eq_zero_of_le hw, ofBits]
  | succ k ih => rw [List.range_succ, List.foldl_append, ih, List.foldl_cons, List.foldl_nil, chainBit_after n hw]

/-! ### The results -/

/-- The widths of the segments (Table 3.6). -/
theorem chainWidth_eq {seg : Nat} (h : seg < 5) : chainWidth seg = [40, 20, 10, 8, 5].getD seg 1 := by
  interval_cases seg <;> rfl

theorem chainWidth_pos_dvd (seg : Nat) : 0 < chainWidth seg ∧ chainWidth seg ∣ 40 := by
  unfold chainWidth
  split <;> decide

/-- Bit `i` of what is collected of all 40 positions: a segment that begins at `i` ends within the word. -/
theorem getLsbD_segBits {w : Nat} (hdvd : w ∣ 40) (f : Nat → Bool) {i : Nat} (hi : i < 40) :
    (BitVec.ofNat 40 (segBits w f 40)).getLsbD i = (decide (i % w = 0) && f (i + w - 1)) := by
  refine getLsbD_ofNat_ofBits _ hi ?_
  by_cases hstart : i % w = 0
  · left
    have hends : i + w ≤ 40 := by
      obtain ⟨k, rfl⟩ := Nat.dvd_of_mod_eq_zero hstart
      obtain ⟨m, hm⟩ := hdvd
      rw [hm] at hi ⊢
      exact Nat.mul_succ w k ▸ Nat.mul_le_mul_left w (Nat.lt_of_mul_lt_mul_left hi)
    omega
  · right
    rw [decide_eq_false hstart, Bool.false_and]

theorem getLsbD_chain (n : Nat) (a b c : Word) {i : Nat} (hi : i < 40) :
    let w := chainWidth (bitsOf n 14 12)
    let carry := chainCarry n w a b c
    let past := chainPast n a b carry
    (chain (bitsOf n 35 0) a b c).getLsbD i = match bitsOf n 11 10 with
      | 0 => chainProp n a b i != carry i
      | 1 => decide (i % w = 0) && past (i + w - 1)
      | _ => decide (i % w = 0) && (past (i + w - 1) != carry (i + w - 1)) := by
  obtain ⟨hw, hdvd⟩ := chainWidth_pos_dvd (bitsOf n 14 12)
  have hfield : ∀ hi lo, lo ≤ hi → hi ≤ 35 → bitsOf (bitsOf n 35 0) hi lo = bitsOf n hi lo := bitsOf_bitsOf_zero n 35
  simp only [chain, hfield 14 12 (by decide) (by decide), hfield 11 10 (by decide) (by decide), chain_fold n hw]
  generalize chainWidth (bitsOf n 14 12) = w at hdvd ⊢
  rcases bitsOf n 11 10 with _ | _ | out
  · exact getLsbD_ofNat_ofBits (fun i => chainProp n a b i != chainCarry n w a b c i) hi (.inl hi)
  · exact getLsbD_segBits hdvd (chainPast n a b (chainCarry n w a b c)) hi
  · exact getLsbD_segBits hdvd (fun j => chainPast n a b (chainCarry n w a b c) j != chainCarry n w a b c j) hi

/-- CHAIN depends on C through the carries into its segments alone. -/
theorem chain_congr {n : Nat} {c c' : Word} (h : chainIn n c = chainIn n c') (a b : Word) :
    chain (bitsOf n 35 0) a b c = chain (bitsOf n 35 0) a b c' := by
  have hbit : ∀ w, chainBit (bitsOf n 35 0) w a b c = chainBit (bitsOf n 35 0) w a b c' := fun w => by
    funext acc i
    rw [chainBit_eq, chainBit_eq, h]
  simp only [chain, hbit]

/-! ### One segment as an adder -/

section
variable {n : Nat} {a b y c : Word} {carryIn : Bool}

/-- The carries of one segment are those of a binary adder, where a position propagates if its two summand bits differ and
otherwise gives their common value. -/
theorem chainCarry_adder (hin : chainIn n c 0 = carryIn) (hprop : ∀ i < 40, chainProp n a b i = (a.getLsbD i ^^ y.getLsbD i))
    (hgen : ∀ i < 40, a.getLsbD i = y.getLsbD i → bitOf n (4 + chainIx a b i) = a.getLsbD i) {i : Nat} (hi : i < 40) :
    chainCarry n 40 a b c i = BitVec.carry i a y carryIn := by
  induction i with
  | zero => rw [chainCarry, hin, BitVec.carry_zero]
  | succ i ih =>
    have hlt : i < 40 := Nat.lt_of_succ_lt hi
    have hinside : ¬ (i + 1) % 40 = 0 := by omega
    rw [chainCarry, if_neg hinside, hprop i hlt, BitVec.carry_succ, ih hlt]
    by_cases heq : a.getLsbD i = y.getLsbD i
    · rw [hgen i hlt heq, heq]
      cases y.getLsbD i <;> simp [Bool.atLeastTwo]
    · cases ha : a.getLsbD i <;> cases hy : y.getLsbD i <;> simp_all [Bool.atLeastTwo]

theorem chain_adder (hform : bitsOf n 14 10 = 0) (hin : chainIn n c 0 = carryIn)
    (hprop : ∀ i < 40, chainProp n a b i = (a.getLsbD i ^^ y.getLsbD i))
    (hgen : ∀ i < 40, a.getLsbD i = y.getLsbD i → bitOf n (4 + chainIx a b i) = a.getLsbD i) :
    chain (bitsOf n 35 0) a b c = a + y + BitVec.setWidth 40 (BitVec.ofBool carryIn) := by
  have hseg : bitsOf n 14 12 = 0 := by unfold bitsOf at hform ⊢; omega
  have hout : bitsOf n 11 10 = 0 := by unfold bitsOf at hform ⊢; omega
  refine BitVec.eq_of_getLsbD_eq fun i hi => ?_
  have hchain := getLsbD_chain n a b c hi
  have hwidth : chainWidth 0 = 40 := rfl
  simp only [hseg, hout, hwidth] at hchain
  rw [hchain, hprop i hi, chainCarry_adder hin hprop hgen hi, BitVec.getLsbD_add_add_bool hi, ← Bool.xor_assoc]

end

/-- The low bits of an instruction word that a field is known to hold. -/
theorem bitOf_of_bitsOf {n hi v : Nat} (h : bitsOf n hi 0 = v) {i : Nat} (hi' : i ≤ hi) : bitOf n i = bitOf v i := by
  rw [← h, bitOf_bitsOf n hi 0 (by omega), Nat.zero_add]

/-- PT 6 propagates A ⊕ B, and GT 8 carries A ∧ B. -/
theorem chain_add {n : Nat} (hform : bitsOf n 14 10 = 0) (htables : bitsOf n 9 0 = 0x086) (a b c : Word) :
    chain (bitsOf n 35 0) a b c = a + b := by
  have hbit : ∀ i < 8, bitOf n i = bitOf 0x086 i := fun i hi => bitOf_of_bitsOf htables (by omega)
  have hin : bitsOf n 9 8 = 0 := by unfold bitsOf at htables ⊢; omega
  have hadd := chain_adder (n := n) (a := a) (b := b) (y := b) (c := c) (carryIn := false) hform (by simp only [chainIn, hin])
    (fun i _ => by
      rw [chainProp, hbit _ (by have := chainIx_lt a b i; omega), chainIx]
      cases a.getLsbD i <;> cases b.getLsbD i <;> decide)
    (fun i _ h => by
      rw [hbit _ (by have := chainIx_lt a b i; omega), chainIx, h]
      cases b.getLsbD i <;> decide)
  simpa using hadd

/-- PT 9 propagates A ⊕ ¬B, and GT 2 carries A ∧ ¬B: with a carry in, A + ¬B + 1. -/
theorem chain_sub {n : Nat} (hform : bitsOf n 14 10 = 0) (htables : bitsOf n 9 0 = 0x129) (a b c : Word) :
    chain (bitsOf n 35 0) a b c = a - b := by
  have hbit : ∀ i < 8, bitOf n i = bitOf 0x129 i := fun i hi => bitOf_of_bitsOf htables (by omega)
  have hin : bitsOf n 9 8 = 1 := by unfold bitsOf at htables ⊢; omega
  have hadd := chain_adder (n := n) (a := a) (b := b) (y := ~~~b) (c := c) (carryIn := true) hform (by simp only [chainIn, hin])
    (fun i hi => by
      rw [chainProp, hbit _ (by have := chainIx_lt a b i; omega), chainIx, BitVec.getLsbD_not, decide_eq_true hi]
      cases a.getLsbD i <;> cases b.getLsbD i <;> decide)
    (fun i hi h => by
      rw [hbit _ (by have := chainIx_lt a b i; omega), chainIx, h, BitVec.getLsbD_not, decide_eq_true hi]
      cases b.getLsbD i <;> decide)
  rw [hadd, BitVec.sub_eq_add_neg, BitVec.neg_eq_not_add, BitVec.add_assoc]
  rfl

end Sys2Proof.Laws
end

section
/-! SUPPORT. A cell operation as a command (R72, R79, R80): what it reads, and the word it writes. -/

namespace Sys2Proof.Laws

open Sys2Proof Sys2Proof.Machine Sys2Proof.Safety

/-! ### Reads without inverted bits -/

/-- The word that a committed entry of a cell's data memory holds. -/
def committedWord (s : State) (ci w : Nat) : Word := mget 0 s.fab.dmem (entryIx ci w (s.committed ci w))

/-- No committed entry of a cell has an inverted bit. -/
abbrev CommittedClean (s : State) (ci : Nat) : Prop := ∀ w, mget 0 s.fab.dmemErr (entryIx ci w (s.committed ci w)) = 0

theorem eccRead_clean (w : Word) : eccRead 0 w = (w, 0) := rfl

theorem readEntry_clean {s : State} {ci w e : Nat} (h : mget 0 s.fab.dmemErr (entryIx ci w e) = 0) (maint : Bool) (step : Nat) :
    readEntry s ci w e maint step = (mget 0 s.fab.dmem (entryIx ci w e), s) := by
  simp only [readEntry, h, eccRead_clean]

/-- Reads without inverted bits give the operands and leave the state. -/
theorem cellOperands_clean {s : State} {ci : Nat} (h : CommittedClean s ci) (n step : Nat) :
    cellOperands s ci n step =
      ((committedWord s ci (bitsOf n 65 56), (if cellReadsB n then committedWord s ci (bitsOf n 55 46) else 0),
        if cellReadsC n then committedWord s ci (bitsOf n 45 36) else 0), s) := by
  simp only [cellOperands, readEntry_clean (h _), committedWord]
  cases cellReadsB n <;> cases cellReadsC n <;>
    simp only [readEntry_clean (h _), if_true, if_false, Bool.false_eq_true]

/-! ### The command -/

theorem bitsOf_withOp (n : Nat) {op : Nat} (h : op < 8) : bitsOf (putBits n 79 77 op) 79 77 = op := by
  rw [bitsOf_putBits_same n 79 77 op (by decide)]; exact Nat.mod_eq_of_lt h

theorem bitsOf_under_op (n op : Nat) {hi lo : Nat} (h : hi < 77) (h' : lo ≤ hi) :
    bitsOf (putBits n 79 77 op) hi lo = bitsOf n hi lo :=
  bitsOf_putBits_below n 79 77 op hi lo (by decide) h h'

section
variable {s : State} {ci n : Nat} (hclean : CommittedClean s ci) (hwe : bitOf n 76 = true)
include hclean hwe

/-- A command whose operation has no reserved value writes its result to word D and does nothing else. -/
theorem cellCommand_writes {op : Nat} (hres : cellReserved (putBits n 79 77 op) = false) :
    cellCommand s ci n op = writeWord s ci (bitsOf n 75 66) (cellResult (putBits n 79 77 op)
      (committedWord s ci (bitsOf n 65 56))
      (if cellReadsB (putBits n 79 77 op) then committedWord s ci (bitsOf n 55 46) else 0)
      (if cellReadsC (putBits n 79 77 op) then committedWord s ci (bitsOf n 45 36) else 0)) := by
  have hw : bitsOf (putBits n 79 77 op) 76 76 = 1 := by
    rw [bitsOf_under_op n op (by decide) (by decide), bitsOf_single_eq_one]; exact hwe
  simp only [cellCommand, hres, cellStep, cellOperands_clean hclean, hw, cellRouteIn, if_true, if_false, Bool.false_eq_true,
    bitsOf_under_op n op (show 75 < 77 by decide) (show 66 ≤ 75 by decide),
    bitsOf_under_op n op (show 65 < 77 by decide) (show 56 ≤ 65 by decide),
    bitsOf_under_op n op (show 55 < 77 by decide) (show 46 ≤ 55 by decide),
    bitsOf_under_op n op (show 45 < 77 by decide) (show 36 ≤ 45 by decide)]

theorem cellCommand_slice3 : cellCommand s ci n 1 = writeWord s ci (bitsOf n 75 66)
    (slice3 (bitsOf n 7 0) (committedWord s ci (bitsOf n 65 56)) (committedWord s ci (bitsOf n 55 46))
      (committedWord s ci (bitsOf n 45 36))) := by
  have hop := bitsOf_withOp n (show 1 < 8 by decide)
  rw [cellCommand_writes hclean hwe (by simp only [cellReserved, hop])]
  simp only [cellResult, cellReadsB, cellReadsC, hop, bitsOf_under_op n 1 (show 7 < 77 by decide) (Nat.zero_le 7)]
  rfl

theorem cellCommand_lut4 (ho : bitsOf n 45 40 < 40) (hb1 : bitsOf n 39 34 < 40) (hb0 : bitsOf n 33 28 < 40)
    (ha1 : bitsOf n 27 22 < 40) (ha0 : bitsOf n 21 16 < 40) : cellCommand s ci n 2 = writeWord s ci (bitsOf n 75 66)
      (lut4 (bitsOf n 45 0) (committedWord s ci (bitsOf n 65 56)) (committedWord s ci (bitsOf n 55 46))) := by
  have hop := bitsOf_withOp n (show 2 < 8 by decide)
  have hfield : ∀ hi lo, hi < 77 → lo ≤ hi → bitsOf (putBits n 79 77 2) hi lo = bitsOf n hi lo := fun _ _ => bitsOf_under_op n 2
  rw [cellCommand_writes hclean hwe (by
    simp only [cellReserved, hop, hfield 45 40 (by decide) (by decide), hfield 39 34 (by decide) (by decide),
      hfield 33 28 (by decide) (by decide), hfield 27 22 (by decide) (by decide), hfield 21 16 (by decide) (by decide),
      decide_eq_false (Nat.not_le.2 ho), decide_eq_false (Nat.not_le.2 hb1), decide_eq_false (Nat.not_le.2 hb0),
      decide_eq_false (Nat.not_le.2 ha1), decide_eq_false (Nat.not_le.2 ha0), Bool.or_self])]
  simp only [cellResult, cellReadsB, hop, hfield 45 0 (by decide) (by decide)]
  rfl

theorem cellCommand_chain (hseg : bitsOf n 14 12 < 5) (hout : bitsOf n 11 10 ≠ 3) (hin : bitsOf n 9 8 ≠ 3) :
    cellCommand s ci n 3 = writeWord s ci (bitsOf n 75 66)
      (chain (bitsOf n 35 0) (committedWord s ci (bitsOf n 65 56)) (committedWord s ci (bitsOf n 55 46))
        (committedWord s ci (bitsOf n 45 36))) := by
  have hop := bitsOf_withOp n (show 3 < 8 by decide)
  have hfield : ∀ hi lo, hi < 77 → lo ≤ hi → bitsOf (putBits n 79 77 3) hi lo = bitsOf n hi lo := fun _ _ => bitsOf_under_op n 3
  have hlt : bitsOf n 9 8 < 4 := bitsOf_lt n 9 8
  rw [cellCommand_writes hclean hwe (by
    simp only [cellReserved, hop, hfield 14 12 (by decide) (by decide), hfield 11 10 (by decide) (by decide),
      hfield 9 8 (by decide) (by decide), decide_eq_false (Nat.not_le.2 hseg), beq_false_of_ne hout, beq_false_of_ne hin,
      Bool.or_self])]
  simp only [cellResult, cellReadsB, cellReadsC, hop, hfield 35 0 (by decide) (by decide), hfield 9 8 (by decide) (by decide)]
  refine congrArg _ (chain_congr (funext fun i => ?_) _ _)
  unfold chainIn
  generalize bitsOf n 9 8 = k at hin hlt ⊢
  interval_cases k
  · rfl
  · rfl
  · rfl
  · exact absurd rfl hin

theorem cellCommand_rot : cellCommand s ci n 4 = writeWord s ci (bitsOf n 75 66)
    (rot n (committedWord s ci (bitsOf n 65 56)) (committedWord s ci (bitsOf n 55 46))
      (committedWord s ci (bitsOf n 45 36))) := by
  have hop := bitsOf_withOp n (show 4 < 8 by decide)
  have hfield : ∀ hi lo, hi < 77 → lo ≤ hi → bitsOf (putBits n 79 77 4) hi lo = bitsOf n hi lo := fun _ _ => bitsOf_under_op n 4
  rw [cellCommand_writes hclean hwe (by simp only [cellReserved, hop])]
  simp only [cellResult, cellReadsB, cellReadsC, hop, hfield 35 0 (by decide) (by decide), hfield 8 8 (by decide) (by decide),
    rot_low, bitsOf_single]
  cases hbypass : bitOf n 8
  · rfl
  · exact congrArg _ (rot_bypass hbypass _ _ _ _ _)

theorem cellCommand_reduce (hq : bitsOf n 8 3 < 40) (hf : bitsOf n 1 0 ≠ 3) : cellCommand s ci n 5 =
    writeWord s ci (bitsOf n 75 66) (reduce (bitsOf n 35 0) (committedWord s ci (bitsOf n 65 56))
      (committedWord s ci (bitsOf n 55 46)) (committedWord s ci (bitsOf n 45 36))) := by
  have hop := bitsOf_withOp n (show 5 < 8 by decide)
  have hfield : ∀ hi lo, hi < 77 → lo ≤ hi → bitsOf (putBits n 79 77 5) hi lo = bitsOf n hi lo := fun _ _ => bitsOf_under_op n 5
  rw [cellCommand_writes hclean hwe (by
    simp only [cellReserved, hop, hfield 8 3 (by decide) (by decide), hfield 1 0 (by decide) (by decide),
      decide_eq_false (Nat.not_le.2 hq), beq_false_of_ne hf, Bool.or_self])]
  simp only [cellResult, cellReadsB, cellReadsC, hop, hfield 35 0 (by decide) (by decide)]
  rfl

end

end Sys2Proof.Laws
end

section

open Sys2Proof Sys2Proof.Machine Sys2Proof.Safety Sys2Proof.Laws

/-- Settles O10: without inverted bits a command writes the result of its operation on the committed words, and each result is
read off bit by bit; one segment of CHAIN with the two pairs of tables is a binary adder. -/
theorem cellOperationsWriteTheirResults : Obligations.CellOperationsWriteTheirResults := by
  unfold Obligations.CellOperationsWriteTheirResults
  refine ⟨fun s ci n hclean h76 => ?results, fun s ci n hclean h76 hform => ?adder⟩
  all_goals
    have hwe : bitOf n.toNat 76 = true := by rw [bitOf_eq_testBit, BitVec.testBit_toNat]; exact h76
  case results =>
    intro rd a b c d
    refine ⟨?slice3, fun ho hb1 hb0 ha1 ha0 => ?lut4, ?rot, fun hq hf => ?reduce, fun hseg hout hin => ?chain⟩
    case slice3 =>
      exact ⟨_, congrArg _ (cellCommand_slice3 hclean hwe), fun i hi => getLsbD_slice3 _ _ _ _ hi⟩
    case lut4 =>
      exact ⟨_, congrArg _ (cellCommand_lut4 hclean hwe ho hb1 hb0 ha1 ha0), fun i hi => getLsbD_lut4 _ _ _ hi⟩
    case rot =>
      exact ⟨_, rotMove n.toNat _, congrArg _ (cellCommand_rot hclean hwe), fun i hi => getLsbD_rot _ _ _ _ hi,
        fun h i hi => getLsbD_rotMove_rotate h _ hi, fun h i hi => getLsbD_rotMove_left h _ hi,
        fun h i hi => getLsbD_rotMove_right h _ hi, fun h i hi => getLsbD_rotMove_signed h _ hi⟩
    case reduce =>
      exact ⟨_, congrArg _ (cellCommand_reduce hclean hwe hq hf), fun i hi => getLsbD_reduce _ _ _ _ hi⟩
    case chain =>
      refine ⟨_, chainCarry n.toNat (chainWidth (bitsOf n.toNat 14 12)) a b c,
        congrArg _ (cellCommand_chain hclean hwe hseg hout hin), ?_⟩
      rw [← chainWidth_eq hseg]
      exact ⟨fun i _ => chainCarry_eq .., fun i hi => getLsbD_chain n.toNat a b c hi⟩
  case adder =>
    have hseg : bitsOf n.toNat 14 12 = 0 := by unfold bitsOf at hform ⊢; omega
    have hout : bitsOf n.toNat 11 10 = 0 := by unfold bitsOf at hform ⊢; omega
    have hchain := fun hin => cellCommand_chain hclean hwe (by rw [hseg]; decide) (by rw [hout]; decide) hin
    refine ⟨fun h => ?_, fun h => ?_⟩
    · refine congrArg _ ((hchain ?_).trans (congrArg _ (chain_add hform h _ _ _)))
      unfold bitsOf at h ⊢; omega
    · refine congrArg _ ((hchain ?_).trans (congrArg _ (chain_sub hform h _ _ _)))
      unfold bitsOf at h ⊢; omega

end

section
/-! SUPPORT. The scrub read of a cell (R82, R93), and why the statement on it fails: a position past the cell's 2,048 entries. -/

namespace Sys2Proof.Laws

open Sys2Proof Sys2Proof.Machine Sys2Proof.Safety

/-- A configured device whose first cell is to scrub entry 2,048 next. A cell has the entries 0 to 2,047, but `scrubPos` holds any
number, and a scrub read starts again from entry 0 after entry 2,047 alone. -/
def scrubPastEnd : State :=
  { State.reset with mode := .run, fab := { State.reset.fab with scrubPos := [(0, 2048)] } }

/-- A scrub read is made while it is enabled, the device is configured and no strides run. -/
theorem exec_cellScrub {s : State} {ci : Cell} (hen : s.fld F.CELL_CTRL.SCRUB_EN (ci.val / 1024) = 1) (hblank : s.mode ≠ .blank)
    (hloading : s.mode ≠ .loading) (hidle : s.time.running = false) : exec (.cellScrub ci) s = .next (scrubCell s ci) := by
  have hon : s.on F.CELL_CTRL.SCRUB_EN (tileOfCell ci) = true := beq_iff_eq.2 hen
  have hstep : inStep s ci = false := by rw [inStep, hidle, Bool.false_and, Bool.false_and]
  change execCellScrub ci s = _
  rw [execCellScrub, if_pos ⟨hon, hblank, hloading, .inl hstep⟩]

/-- The scrubber moves on by one entry wherever it is, but for the last entry. -/
theorem scrubPos_scrubCell {s : State} {ci : Nat} (h : mget 0 s.fab.scrubPos ci ≠ 2047) :
    mget 0 (scrubCell s ci).fab.scrubPos ci = mget 0 s.fab.scrubPos ci + 1 := by
  simp only [scrubCell, if_neg h, mget_mset_same]

end Sys2Proof.Laws
end

section

open Sys2Proof Sys2Proof.Machine Sys2Proof.Safety Sys2Proof.Laws

/-- Refutes O11: a scrub read at position 2,048, which no cell has, moves on to 2,049, where the statement, which bounds the
position in its clause on a clean entry only, gives 2,049 modulo 2,048. -/
theorem not_cellAndTileMemoryUpkeep : ¬ Obligations.CellAndTileMemoryUpkeep := by
  unfold Obligations.CellAndTileMemoryUpkeep
  rintro ⟨hcells, -⟩
  obtain ⟨-, -, -, hscrub, -⟩ := hcells scrubPastEnd 0
  have hen : scrubPastEnd.fld F.CELL_CTRL.SCRUB_EN ((0 : Cell).val / 1024) = 1 := by decide
  have hexec := exec_cellScrub (ci := 0) hen (by decide) (by decide) rfl
  obtain ⟨t, ht, hpos, -⟩ := hscrub hen (by decide) (by decide) (.inl rfl)
  obtain rfl : scrubCell scrubPastEnd (0 : Cell) = t := Host.Outcome.next.inj (hexec.symm.trans ht)
  rw [scrubPos_scrubCell (by decide)] at hpos
  exact absurd hpos (by decide)

end

section
/-! SUPPORT. The registers that the halt of an engine and the drop of waiting pushes write (R168, R135): no zone register is
among them. -/

namespace Sys2Proof.Laws

open Sys2Proof Sys2Proof.Machine Sys2Proof.Safety

/-! ### The halt of an engine -/

/-- The registers of the trace unit of its region that a halt of an engine can write. -/
def haltTraceRegs : List Reg := [.TRC_DROP, .TRC_STATUS]

/-- The registers of its tile that a halt of an engine can write, as the results in flight land. -/
def haltTileRegs : List Reg :=
  [.SE_STATUS, .SE_IRQ_PEND, .SE_OVF_PC, .SPD_STATUS, .SPD_FIRST, .SPD_FIRST_STRIDE, .SPD_SBE_CNT]

/-- Their slots. -/
def haltSlots (p : Nat) : List Nat :=
  haltTraceRegs.map (regAddr · (procRegion p) 0) ++ haltTileRegs.map (regAddr · p 0)

/-- A state whose registers differ from a register store in the slots that a halt of engine `p` can write alone. -/
def HaltKept (m : List (Nat × Word)) (p : Nat) (t : State) : Prop := RegsKept m t.regs (haltSlots p)

section Halt

variable {m : List (Nat × Word)} {p : Nat} {t : State}

theorem HaltKept.of_regs (h : HaltKept m p t) {u : State} (hregs : u.regs = t.regs := by rfl) : HaltKept m p u := by
  rw [HaltKept, hregs]; exact h

theorem HaltKept.setTrcSrc (h : HaltKept m p t) (v : TrcSrc) : HaltKept m p (t.setTrcSrc p v) := h.of_regs

theorem HaltKept.setProc (h : HaltKept m p t) (v : ProcSt) : HaltKept m p (t.setProc p v) := h.of_regs

theorem HaltKept.setReg (h : HaltKept m p t) (r : Reg) (w : Word) (hr : r ∈ haltTileRegs := by decide) :
    HaltKept m p (t.setReg r p 0 w) :=
  RegsKept.setReg r p 0 w (List.mem_append_right _ (List.mem_map.2 ⟨r, hr, rfl⟩)) h

theorem HaltKept.setFld (h : HaltKept m p t) (f : Fld) (v : Nat) (hf : f.reg ∈ haltTileRegs := by decide) :
    HaltKept m p (t.setFld f p 0 v) :=
  h.setReg f.reg _ hf

theorem HaltKept.setTraceFld (h : HaltKept m p t) (f : Fld) (v : Nat) (hf : f.reg ∈ haltTraceRegs := by decide) :
    HaltKept m p (t.setFld f (procRegion p) 0 v) :=
  RegsKept.setFld f _ 0 v (List.mem_append_left _ (List.mem_map.2 ⟨f.reg, hf, rfl⟩)) h

theorem putPacket_haltKept (h : HaltKept m p t) (bytes : List Nat) : HaltKept m p (putPacket t p bytes) := by
  unfold putPacket
  dsimp only
  split
  · exact h.of_regs
  · split
    · exact HaltKept.setTraceFld h.of_regs F.TRC_DROP.BYTES _
    · exact ((HaltKept.setTraceFld h.of_regs F.TRC_DROP.BYTES _).setTraceFld F.TRC_STATUS.OVF _).of_regs

theorem putCyc_haltKept (h : HaltKept m p t) (n : Nat) : HaltKept m p (putCyc t p n) := by
  unfold putCyc
  split
  · exact putPacket_haltKept h _
  · exact h

theorem closeAtom_haltKept (h : HaltKept m p t) : HaltKept m p (closeAtom t p) := by
  unfold closeAtom
  dsimp only
  split
  · exact h
  · exact putPacket_haltKept (putCyc_haltKept h.of_regs _) _

theorem trcStop_haltKept (h : HaltKept m p t) (reason cause pc : Nat) : HaltKept m p (trcStop t p reason cause pc) := by
  unfold trcStop putAnchored
  split
  · have hcyc := putCyc_haltKept (closeAtom_haltKept h) (((closeAtom t p).trcSrc p).cyc - 0)
    exact (putPacket_haltKept (hcyc.setTrcSrc _) _).setTrcSrc _
  · exact h

theorem trcCycles_regs (s : State) (p n : Nat) : (trcCycles s p n).regs = s.regs := by
  unfold trcCycles
  split <;> rfl

theorem trcNoIssue_haltKept (h : HaltKept m p t) (n : Nat) : HaltKept m p (trcNoIssue t p n) := by
  unfold trcNoIssue
  split
  · refine HaltKept.of_regs ?_ (trcCycles_regs _ p n)
    split
    · exact closeAtom_haltKept h
    · exact h
  · exact h

theorem trcCaught_haltKept (h : HaltKept m p t) : HaltKept m p (trcCaught t p) := by
  unfold trcCaught trcWait
  split
  · exact h
  · split
    · exact (trcNoIssue_haltKept h _).of_regs
    · exact h

theorem spdEvent_haltKept (h : HaltKept m p t) (kind word : Nat) (inj : Bool) : HaltKept m p (spdEvent t p kind word inj) := by
  unfold spdEvent
  dsimp only
  split
  · exact h
  · split
    · exact (((h.setReg .SPD_FIRST _).setReg .SPD_FIRST_STRIDE _).setFld F.SPD_STATUS.EVT _).of_regs
    · exact (h.setFld F.SPD_STATUS.EVT _).of_regs

theorem readSpd_haltKept (h : HaltKept m p t) (w : Nat) : HaltKept m p (readSpd t p w).2 := by
  unfold readSpd
  dsimp only
  split
  · exact h
  · exact (h.setFld F.SPD_SBE_CNT.COUNT _).of_regs
  · exact spdEvent_haltKept h 1 w true

section Engine

variable (hp : p < 64)
include hp

theorem isSup_engine : isSup p = false := decide_eq_false (Nat.not_le.2 hp)

theorem setPf_haltKept (h : HaltKept m p t) (se sup : Fld) (v : Nat) (hf : se.reg ∈ haltTileRegs := by decide) :
    HaltKept m p (t.setPf p se sup v) := by
  rw [State.setPf, procUnit, isSup_engine hp]
  exact h.setFld se v hf

theorem dmemRead_haltKept (h : HaltKept m p t) (a : Nat) : HaltKept m p (t.dmemRead p a).2 := by
  rw [State.dmemRead, isSup_engine hp, if_neg Bool.false_ne_true]
  exact readSpd_haltKept h _

/-- An engine's data memory is its scratchpad, which is no register. -/
theorem dmemWrite_haltKept (h : HaltKept m p t) (a : Nat) (w : Word) : HaltKept m p (t.dmemWrite p a w) := by
  rw [State.dmemWrite, isSup_engine hp]
  exact h.of_regs

theorem loadRegs_haltKept (shadow : Bool) (as : List Nat) (x : Nat) (h : HaltKept m p t) :
    HaltKept m p (loadRegs p shadow x as t) := by
  induction as generalizing x t with
  | nil => exact h
  | cons a as ih => exact ih _ ((dmemRead_haltKept hp h a).setProc _)

theorem overflow_haltKept (h : HaltKept m p t) (pc : Nat) (shadow : Bool) :
    HaltKept m p (((raiseEdge t p 20).setPf p F.SE_OVF_PC.PC F.SUP_OVF_PC.PC pc).setPf p F.SE_OVF_PC.BANK F.SUP_OVF_PC.BANK
      (flag shadow)) := by
  have hedge := setPf_haltKept hp h F.SE_IRQ_PEND.EDGE F.SUP_IRQ_PEND.EDGE
    (t.pf p F.SE_IRQ_PEND.EDGE F.SUP_IRQ_PEND.EDGE ||| 2 ^ (20 - 16))
  have hpc := setPf_haltKept hp hedge F.SE_OVF_PC.PC F.SUP_OVF_PC.PC pc
  exact setPf_haltKept hp hpc F.SE_OVF_PC.BANK F.SUP_OVF_PC.BANK (flag shadow)

theorem landAcc_haltKept (h : HaltKept m p t) (f : Fly) (n : Nat) (judged sat : Bool) (i : Int) :
    HaltKept m p (landAcc t p f n judged sat i) := by
  unfold landAcc
  dsimp only
  split
  · split
    · exact overflow_haltKept hp h.of_regs _ _
    · exact h.of_regs
  · exact h.of_regs

theorem landOne_haltKept (h : HaltKept m p t) (f : Fly) : HaltKept m p (landOne p t f) := by
  unfold landOne
  dsimp only
  split
  case h_1 => exact loadRegs_haltKept hp _ _ _ h
  case h_2 => exact List.foldlRecOn _ _ h fun u hu e _ => dmemWrite_haltKept hp hu _ _
  case h_4 => exact landAcc_haltKept hp (landAcc_haltKept hp h f _ _ _ _) f _ _ _ _
  case h_5 | h_11 => exact h.of_regs
  case h_10 =>
    split
    · split
      · exact overflow_haltKept hp h.of_regs _ _
      · exact h.of_regs
    · exact h.of_regs
  all_goals exact landAcc_haltKept hp h f _ _ _ _

theorem advance_haltKept (n : Nat) (h : HaltKept m p t) : HaltKept m p (advance p n t) := by
  induction n generalizing t with
  | zero => exact h
  | succ n ih => exact ih (List.foldlRecOn _ _ h.of_regs fun u hu f _ => landOne_haltKept hp hu f)

theorem doHalt_haltKept (h : HaltKept m p t) : HaltKept m p (doHalt t p) := by
  have hdrained : HaltKept m p (drain (trcStop (trcCaught t p) p 0 0 (t.ppc p)) p) :=
    advance_haltKept hp 4 (trcStop_haltKept (trcCaught_haltKept h) 0 0 _)
  exact setPf_haltKept hp (hdrained.setProc _) F.SE_STATUS.STATE F.SUP_STATUS.STATE 0

theorem haltCmd_haltKept (h : HaltKept m p t) : HaltKept m p (haltCmd t p) := by
  unfold haltCmd
  split
  · split
    · exact doHalt_haltKept hp h
    · exact h.of_regs
  case h_5 => exact h
  all_goals exact doHalt_haltKept hp h

/-- HALT of an engine writes no register but those of `haltSlots` (R168). -/
theorem haltCmd_regsKept (s : State) : RegsKept s.regs (haltCmd s p).regs (haltSlots p) :=
  haltCmd_haltKept hp (RegsKept.refl _ _)

end Engine

end Halt

/-! ### Pushes that wait -/

/-- The slots that the drop of pushes that wait at a queue can write: its counters and the events of its tile. -/
def dropSlots (k q : Nat) : List Nat :=
  [regAddr .QC_CNT k q, regAddr .QC_STATUS k 0, regAddr .QC_FIRST k 0, regAddr .QC_FIRST_STRIDE k 0]

theorem ackPush_regs (s : State) (k : Nat) (p : Push) (st : Nat) : (ackPush s k p st).regs = s.regs := by
  unfold ackPush
  split <;> rfl

theorem qEvent_regsKept {m : List (Nat × Word)} {t : State} {as : List Nat} {k : Nat} (h : RegsKept m t.regs as)
    (hstatus : regAddr .QC_STATUS k 0 ∈ as) (hfirst : regAddr .QC_FIRST k 0 ∈ as) (hstride : regAddr .QC_FIRST_STRIDE k 0 ∈ as)
    (q kind ptr : Nat) (inj : Bool) : RegsKept m (qEvent t k q kind ptr inj).regs as := by
  unfold qEvent
  dsimp only
  split
  · exact h
  · exact ((h.setReg .QC_FIRST k 0 _ hfirst).setReg .QC_FIRST_STRIDE k 0 _ hstride).setFld F.QC_STATUS.EVT k 0 _ hstatus

theorem dropPushes_regsKept (s : State) (k q : Nat) : RegsKept s.regs (dropPushes s k q).regs (dropSlots k q) := by
  unfold dropPushes
  refine List.foldlRecOn (motive := fun t : State => RegsKept s.regs t.regs (dropSlots k q)) _ _ (RegsKept.refl _ _)
    fun t ht p _ => ?_
  have hcount : RegsKept s.regs (t.addSat F.QC_CNT.DROP k q).regs (dropSlots k q) :=
    ht.setFld F.QC_CNT.DROP k q _ (List.mem_cons_self ..)
  rw [ackPush_regs]
  exact qEvent_regsKept hcount (by simp [dropSlots]) (by simp [dropSlots]) (by simp [dropSlots]) _ _ _ _

/-! ### The zone registers -/

/-- They lie within the region's block. -/
theorem cfgZone_offset_lt (z : Fin 16) : (Reg.place .CFG_ZONE).offset + z.val * (Reg.place .CFG_ZONE).stride < 0x800000 :=
  show 0x1B0100 + z.val * 8 < 0x800000 by omega

/-- A register of a region that stands below them has another slot. -/
theorem cfgZone_ne_below {r' : Reg} (r u : Nat) (z : Fin 16) (hblk : r'.place.blk = .region := by rfl)
    (hlow : r'.place.offset + 0 * r'.place.stride < 0x1B0100 := by decide) :
    regAddr .CFG_ZONE r z ≠ regAddr r' u 0 := by
  have hne : (Reg.place .CFG_ZONE).offset + z.val * (Reg.place .CFG_ZONE).stride ≠ r'.place.offset + 0 * r'.place.stride :=
    show 0x1B0100 + z.val * 8 ≠ _ by omega
  exact regAddr_ne_of_offset rfl hblk (cfgZone_offset_lt z) (by omega) hne _ _

theorem cfgZone_notMem_haltSlots (r : Nat) (z : Fin 16) (p : Nat) : regAddr .CFG_ZONE r z ∉ haltSlots p := by
  have htrace : ∀ r ∈ haltTraceRegs, r.place.blk = .region ∧ r.place.offset + 0 * r.place.stride < 0x1B0100 := by decide
  have htile : ∀ r ∈ haltTileRegs, r.place.blk = .tile ∧ r.place.offset + 0 * r.place.stride < 0x80000 := by decide
  simp only [haltSlots, List.mem_append, List.mem_map, not_or, not_exists, not_and]
  refine ⟨fun r' hr' => ?_, fun r' hr' => ?_⟩
  · obtain ⟨hblk, hlow⟩ := htrace r' hr'
    exact (cfgZone_ne_below r _ z hblk hlow).symm
  · obtain ⟨hblk, hlow⟩ := htile r' hr'
    exact regAddr_tile_ne_region hblk rfl hlow (cfgZone_offset_lt z) _ _

theorem cfgZone_notMem_dropSlots (r : Nat) (z : Fin 16) (k : Nat) {q : Nat} (hq : q < 16) :
    regAddr .CFG_ZONE r z ∉ dropSlots k q := by
  have hin := cfgZone_offset_lt z
  have hcount : 0x2030 + q * 0x40 < 0x80000 := by omega
  simp only [dropSlots, List.mem_cons, List.not_mem_nil, or_false, not_or]
  exact ⟨(regAddr_tile_ne_region rfl rfl hcount hin _ _).symm, (regAddr_tile_ne_region rfl rfl (by decide) hin _ _).symm,
    (regAddr_tile_ne_region rfl rfl (by decide) hin _ _).symm, (regAddr_tile_ne_region rfl rfl (by decide) hin _ _).symm⟩

end Sys2Proof.Laws
end

section
/-! SUPPORT. Zone commands and the end of a restore (R379-R381): an equation per case, and what each leaves alone. -/

namespace Sys2Proof.Laws

open Sys2Proof Sys2Proof.Machine Sys2Proof.Safety

/-! ### A zone of a region and its registers -/

@[simp] theorem zoneNum_div (r : Region) (z : Fin 16) : (16 * r.val + z.val) / 16 = r := by omega

@[simp] theorem zoneNum_mod (r : Region) (z : Fin 16) : (16 * r.val + z.val) % 16 = z := by omega

theorem zstate_zoneNum (s : State) (r : Region) (z : Fin 16) :
    s.zstate (16 * r.val + z.val) = s.fld F.CFG_ZONE.STATE r z := by
  rw [State.zstate, zoneNum_div, zoneNum_mod]

@[simp] theorem zone_setZone_same (s : State) (zi : Nat) (w : Zone) : (s.setZone zi w).zone zi = w := mget_mset_same ..

theorem zone_setZone_other (s : State) {zi k : Nat} (w : Zone) (h : k ≠ zi) : (s.setZone zi w).zone k = s.zone k :=
  mget_mset_other _ _ _ _ _ _ h

@[simp] theorem zone_setFld (s : State) (f : Fld) (u i v k : Nat) : (s.setFld f u i v).zone k = s.zone k := (rfl)

@[simp] theorem fld_setZone (s : State) (zi : Nat) (w : Zone) (f : Fld) (u i : Nat) :
    (s.setZone zi w).fld f u i = s.fld f u i := (rfl)

theorem setFld_setZone (s : State) (zi : Nat) (w : Zone) (f : Fld) (u i v : Nat) :
    (s.setZone zi w).setFld f u i v = (s.setFld f u i v).setZone zi w := (rfl)

theorem zoneRes_setZone (s : State) (zi k n : Nat) (w : Zone) : zoneRes (s.setZone k w) zi n = (zoneRes s zi n).setZone k w :=
  setFld_setZone ..

theorem zoneRes_zoneNum (s : State) (r : Region) (z : Fin 16) (n : Nat) :
    zoneRes s (16 * r.val + z.val) n = s.setFld F.CFG_ZCMD.RES r 0 n := by
  rw [zoneRes, zoneNum_div]

theorem fld_zoneRes_res (s : State) (r : Region) (z : Fin 16) {n : Nat} (hn : n < 8) :
    (zoneRes s (16 * r.val + z.val) n).fld F.CFG_ZCMD.RES r = n := by
  rw [zoneRes_zoneNum, State.fld_setFld_same _ _ _ _ _ (by decide) (by decide)]
  exact Nat.mod_eq_of_lt hn

theorem zstate_zoneRes (s : State) (r : Region) (z : Fin 16) (n : Nat) :
    (zoneRes s (16 * r.val + z.val) n).zstate (16 * r.val + z.val) = s.zstate (16 * r.val + z.val) := by
  rw [zoneRes_zoneNum, zstate_zoneNum, zstate_zoneNum, State.fld_setFld_other _ _ _ _ _ _ _ _ (cfgZone_ne_below r r z)]

/-! ### A command that is taken -/

/-- A command of zone `z` of region `r` answers OK and replaces what the zone waits for by `w`; its state stays. -/
def ZoneTakes (s : State) (r : Region) (z : Fin 16) (w : Zone) (t : State) : Prop :=
  t.fld F.CFG_ZCMD.RES r = 0 ∧ t.zone (16 * r.val + z.val) = w ∧ t.zstate (16 * r.val + z.val) = s.zstate (16 * r.val + z.val) ∧
    (∀ k, k ≠ 16 * r.val + z.val → t.zone k = s.zone k) ∧ KeepsRegs s t [regAddr .CFG_ZCMD r 0] ∧
    t = { s with regs := t.regs, zones := t.zones }

theorem zoneRes_setZone_takes (s : State) (r : Region) (z : Fin 16) (w : Zone) :
    ZoneTakes s r z w (zoneRes (s.setZone (16 * r.val + z.val) w) (16 * r.val + z.val) 0) := by
  refine ⟨fld_zoneRes_res _ r z (by decide), ?_, zstate_zoneRes _ r z 0, fun k hk => ?_, ?_, ?_⟩
  · rw [zoneRes, zone_setFld, zone_setZone_same]
  · rw [zoneRes, zone_setFld, zone_setZone_other s w hk]
  · rw [zoneRes_zoneNum]
    exact RegsKept.setFld F.CFG_ZCMD.RES r 0 0 (List.mem_singleton.2 rfl) (RegsKept.refl s.regs _)
  · rw [zoneRes, setFld_only, State.setZone]

/-! ### START, ISOLATE, RESTORE and RELOAD (R379) -/

variable {s : State} {r : Region} {z : Fin 16}

theorem exec_zoneStart (s : State) (r : Region) (z : Fin 16) :
    exec (.zoneStart r z) s = .next (zoneStartCmd s (16 * r.val + z.val)) := rfl

theorem exec_zoneIsolate (s : State) (r : Region) (z : Fin 16) :
    exec (.zoneIsolate r z) s = .next (zoneIsolateCmd s (16 * r.val + z.val)) := rfl

theorem exec_restore (s : State) (r : Region) (z : Fin 16) :
    exec (.restore r z) s = .next (askRestore s (16 * r.val + z.val) 1) := rfl

theorem exec_reload (s : State) (r : Region) (z : Fin 16) :
    exec (.reload r z) s = .next (askRestore s (16 * r.val + z.val) 2) := rfl

theorem startRefused_iff : startRefused s (16 * r.val + z.val) = true ↔
    s.zstate (16 * r.val + z.val) = 3 ∨ s.fld F.CFG_ZONE.PARTIAL_ABORT r z = 1 ∨ (s.zone (16 * r.val + z.val)).zreset = true := by
  rw [startRefused, zoneNum_div, zoneNum_mod, Bool.or_eq_true, Bool.or_eq_true, beq_iff_eq, beq_iff_eq, or_assoc]

theorem zoneStartCmd_undeclared {zi : Nat} (h : s.zstate zi = 0) : zoneStartCmd s zi = zoneRes s zi 4 := by
  rw [zoneStartCmd, h]; rfl

theorem zoneStartCmd_refused {zi : Nat} (h : s.zstate zi ≠ 0) (href : startRefused s zi = true) :
    zoneStartCmd s zi = zoneRes s zi 2 := by
  unfold zoneStartCmd
  split
  next h0 => exact absurd h0 h
  all_goals exact if_pos href

theorem zoneStartCmd_run {zi : Nat} (h : s.zstate zi = 1) (href : startRefused s zi = false) :
    zoneStartCmd s zi = zoneRes s zi 0 := by
  rw [zoneStartCmd, h]
  exact if_neg (Bool.eq_false_iff.1 href)

theorem zoneStartCmd_isolated {zi : Nat} (h : s.zstate zi = 2) (href : startRefused s zi = false) :
    zoneStartCmd s zi = zoneRes (askStart s zi) zi 0 := by
  rw [zoneStartCmd, h]
  exact if_neg (Bool.eq_false_iff.1 href)

theorem zoneIsolateCmd_undeclared {zi : Nat} (h : s.zstate zi = 0) : zoneIsolateCmd s zi = zoneRes s zi 4 := by
  rw [zoneIsolateCmd, h]; rfl

theorem zoneIsolateCmd_run {zi : Nat} (h : s.zstate zi = 1) : zoneIsolateCmd s zi = zoneRes (askIsolate s zi) zi 0 := by
  rw [zoneIsolateCmd, h]; rfl

theorem zoneIsolateCmd_stopped {zi : Nat} (h : 2 ≤ s.zstate zi) : zoneIsolateCmd s zi = zoneRes s zi 0 := by
  unfold zoneIsolateCmd
  split
  · omega
  · omega
  · rfl

theorem askRestore_undeclared {zi : Nat} (kind : Nat) (h : s.zstate zi = 0) : askRestore s zi kind = zoneRes s zi 4 := if_pos h

theorem askRestore_refused {zi : Nat} (kind : Nat) (h0 : s.zstate zi ≠ 0) (h2 : s.zstate zi ≠ 2) :
    askRestore s zi kind = zoneRes s zi 2 := by
  rw [askRestore, if_neg h0, if_pos h2]

theorem askRestore_busy {zi : Nat} (kind : Nat) (h : s.zstate zi = 2)
    (hbusy : (s.zone zi).restoring ≠ 0 ∨ (s.zone zi).zreset = true) : askRestore s zi kind = zoneRes s zi 1 := by
  rw [askRestore, if_neg (by omega), if_neg (not_not.2 h), if_pos hbusy]

section Free

variable {zi : Nat} (h : s.zstate zi = 2) (hrestoring : (s.zone zi).restoring = 0) (hreset : (s.zone zi).zreset = false)
include h hrestoring hreset

theorem askRestore_free (kind : Nat) : askRestore s zi kind =
    if kind = 2 ∧ s.fld F.CFG_STATUS.RET_DONE = 0 then zoneRes s zi 3
    else zoneRes (s.setZone zi { s.zone zi with restoring := kind }) zi 0 := by
  have hfree : ¬((s.zone zi).restoring ≠ 0 ∨ (s.zone zi).zreset = true) := by simp [hrestoring, hreset]
  rw [askRestore, if_neg (by omega), if_neg (not_not.2 h), if_neg hfree, zoneRes_setZone]

/-- A RELOAD needs rows that are retained. -/
theorem askRestore_notRetained (hret : s.fld F.CFG_STATUS.RET_DONE = 0) : askRestore s zi 2 = zoneRes s zi 3 := by
  rw [askRestore_free h hrestoring hreset, if_pos ⟨rfl, hret⟩]

theorem askRestore_taken {kind : Nat} (hkind : kind = 2 → s.fld F.CFG_STATUS.RET_DONE ≠ 0) :
    askRestore s zi kind = zoneRes (s.setZone zi { s.zone zi with restoring := kind }) zi 0 := by
  rw [askRestore_free h hrestoring hreset, if_neg fun hret => hkind hret.1 hret.2]

end Free

theorem askStart_eq (s : State) (r : Region) (z : Fin 16) : askStart s (16 * r.val + z.val) =
    s.setZone (16 * r.val + z.val) (if s.fld F.CFG_ZONE.PRIMED r z = 1
      then { s.zone (16 * r.val + z.val) with startPend := true }
      else { s.zone (16 * r.val + z.val) with
        restoring := if (s.zone (16 * r.val + z.val)).restoring = 0 then 1 else (s.zone (16 * r.val + z.val)).restoring
        thenStart := true }) := by
  rw [askStart, zoneNum_div, zoneNum_mod]
  split <;> rfl

/-! ### A zone isolated at once (R379, R380) -/

theorem mem_zoneTiles_lt {zi k : Nat} (hzi : zi < 64) (h : k ∈ s.zoneTiles zi) : k < 64 := by
  obtain ⟨j, hj, rfl⟩ := List.mem_map.1 (List.mem_filter.1 h).1
  rw [List.mem_range] at hj
  omega

/-- The park of the ports and pins comes before the zone's state is written, and neither the drop of the waiting pushes nor
the halt of the engines writes that register. -/
theorem zstate_isolateZone (s : State) (r : Region) (z : Fin 16) :
    (isolateZone s (16 * r.val + z.val)).zstate (16 * r.val + z.val) = 2 := by
  unfold isolateZone
  dsimp only
  rw [zstate_zoneNum, fld_setZone]
  refine List.foldlRecOn (motive := fun t : State => t.fld F.CFG_ZONE.STATE r z = 2) _ _ ?_ fun t ht k hk => ?_
  · refine List.foldlRecOn (motive := fun t : State => t.fld F.CFG_ZONE.STATE r z = 2) _ _ ?_ fun t ht k _ => ?_
    · rw [State.setZstate, zoneNum_div, zoneNum_mod, State.fld_setFld_same _ _ _ _ _ (by decide) (by decide)]
      rfl
    · refine List.foldlRecOn (motive := fun t : State => t.fld F.CFG_ZONE.STATE r z = 2) _ _ ht fun u hu q hq => ?_
      exact (fld_of_regsKept (dropPushes_regsKept u k q) _ _ _ (cfgZone_notMem_dropSlots r z k (List.mem_range.1 hq))).trans hu
  · have hengine : k < 64 := mem_zoneTiles_lt (by omega) hk
    exact (fld_of_regsKept (haltCmd_regsKept hengine t) _ _ _ (cfgZone_notMem_haltSlots r z k)).trans ht

theorem isoPend_isolateZone (s : State) (zi : Nat) : ((isolateZone s zi).zone zi).isoPend = false := by
  rw [isolateZone, zone_setZone_same]

/-! ### The end of a restore (R379) -/

theorem restoreCells_foldl_only (ts : List Nat) (s : State) : ∃ f, ts.foldl restoreCells s = { s with fab := f } := by
  induction ts generalizing s with
  | nil => exact ⟨s.fab, rfl⟩
  | cons k ts ih =>
    obtain ⟨f, h⟩ := ih (restoreCells s k)
    exact ⟨f, h⟩

/-- What a zone waits for once its restore has completed. -/
def restored (v : Zone) : Zone := { v with restoring := 0, startPend := v.thenStart, thenStart := false }

/-- The end of a RESTORE rewrites data memories (`u`), sets PRIMED and lets a START that waited wait for the boundary. -/
theorem restoreDone_restore {zi : Nat} (h : (s.zone zi).restoring = 1) : ∃ u : State,
    u.regs = s.regs ∧ u.mem = s.mem ∧ u.load = s.load ∧
      restoreDone s zi = (setPrimed u zi 1).setZone zi (restored (s.zone zi)) := by
  obtain ⟨f, hcells⟩ := restoreCells_foldl_only (s.zoneTiles zi) s
  have hnone : ¬(s.zone zi).restoring = 2 := by omega
  refine ⟨(s.zoneTiles zi).foldl restoreCells s, by rw [hcells], by rw [hcells], by rw [hcells], ?_⟩
  have hzone : ((s.zoneTiles zi).foldl restoreCells s).zone zi = s.zone zi := by rw [hcells]; rfl
  simp only [restoreDone, if_neg hnone, setPrimed, zone_setFld, hzone, restored]

theorem exec_restoreDone (s : State) (r : Region) (z : Fin 16) :
    exec (.restoreDone r z) s = execRestoreDone r z s := rfl

theorem execRestoreDone_idle
    (h : (s.zone (16 * r.val + z.val)).restoring = 0 ∨ (s.zone (16 * r.val + z.val)).zreset = true) :
    execRestoreDone r z s = .next s := if_pos h

section Restored

variable (hrestoring : (s.zone (16 * r.val + z.val)).restoring = 1) (hreset : (s.zone (16 * r.val + z.val)).zreset = false)
include hrestoring

theorem fld_restoreDone_primed : (restoreDone s (16 * r.val + z.val)).fld F.CFG_ZONE.PRIMED r z = 1 := by
  obtain ⟨u, -, -, -, h⟩ := restoreDone_restore hrestoring
  rw [h, fld_setZone, setPrimed, zoneNum_div, zoneNum_mod, State.fld_setFld_same _ _ _ _ _ (by decide) (by decide)]
  rfl

theorem zstate_restoreDone :
    (restoreDone s (16 * r.val + z.val)).zstate (16 * r.val + z.val) = s.zstate (16 * r.val + z.val) := by
  obtain ⟨u, hregs, -, -, h⟩ := restoreDone_restore hrestoring
  rw [h, zstate_zoneNum, zstate_zoneNum, fld_setZone, setPrimed, zoneNum_div, zoneNum_mod, ← fld_of_regs hregs]
  exact State.fld_setFld_apart _ _ _ _ _ _ rfl (by decide) (by decide) (by decide) (by decide)

theorem zone_restoreDone :
    (restoreDone s (16 * r.val + z.val)).zone (16 * r.val + z.val) = restored (s.zone (16 * r.val + z.val)) := by
  obtain ⟨u, -, -, -, h⟩ := restoreDone_restore hrestoring
  rw [h, zone_setZone_same]

theorem restoreDone_mem : (restoreDone s (16 * r.val + z.val)).mem = s.mem := by
  obtain ⟨u, -, hmem, -, h⟩ := restoreDone_restore hrestoring
  rw [h, setPrimed, State.setZone_mem, State.setFld_mem, hmem]

theorem restoreDone_load : (restoreDone s (16 * r.val + z.val)).load = s.load := by
  obtain ⟨u, -, -, hload, h⟩ := restoreDone_restore hrestoring
  rw [h, setPrimed, State.setZone_load, State.setFld_load, hload]

include hreset

theorem restore_runs :
    ¬((s.zone (16 * r.val + z.val)).restoring = 0 ∨ (s.zone (16 * r.val + z.val)).zreset = true) := by
  simp [hrestoring, hreset]

theorem execRestoreDone_isolated (h : s.zstate (16 * r.val + z.val) = 2) :
    execRestoreDone r z s = .next (restoreDone s (16 * r.val + z.val)) := by
  unfold execRestoreDone
  dsimp only
  rw [if_neg (restore_runs hrestoring hreset), if_pos h]

theorem execRestoreDone_loading (h : s.zstate (16 * r.val + z.val) = 3) (hkind : s.load.kind = 2) (hphase : s.load.phase = 4) :
    execRestoreDone r z s = .next (partialDone (restoreDone s (16 * r.val + z.val)) (16 * r.val + z.val)) := by
  unfold execRestoreDone
  dsimp only
  rw [if_neg (restore_runs hrestoring hreset), if_neg (by omega), if_pos ⟨h, hkind, hphase⟩]

end Restored

/-! ### The end of a partial load (R381) -/

/-- The slots of the controller's status that the end of a load writes. -/
def loadSlots : List Nat := [regAddr .CFG_STATUS 0 0, regAddr .CFG_RELAY 0 0]

theorem cfgZone_notMem_loadSlots (r : Nat) (z : Fin 16) : regAddr .CFG_ZONE r z ∉ loadSlots := by
  simp only [loadSlots, List.mem_cons, List.not_mem_nil, or_false, not_or]
  exact ⟨cfgZone_ne_below r 0 z, cfgZone_ne_below r 0 z⟩

theorem signal_only (s : State) (v : Nat) : ∃ h, signal s v = { s with host := h } := by
  unfold signal
  dsimp only
  split_ifs
  all_goals exact ⟨_, rfl⟩

theorem signal_regs (s : State) (v : Nat) : (signal s v).regs = s.regs := by
  obtain ⟨h, hsignal⟩ := signal_only s v
  rw [hsignal]

theorem loadResult_regsKept (s : State) (res cause : Nat) : RegsKept s.regs (loadResult s res cause).regs loadSlots := by
  rw [loadResult, signal_regs]
  exact ((RegsKept.refl _ _).setFld F.CFG_STATUS.RESULT 0 0 res (List.mem_cons_self ..)).setFld F.CFG_STATUS.CAUSE 0 0 cause
    (List.mem_cons_self ..)

theorem fld_loadResult_result (s : State) {res : Nat} (cause : Nat) (hres : res < 2 ^ 8) :
    (loadResult s res cause).fld F.CFG_STATUS.RESULT = res := by
  rw [loadResult, fld_of_regs (signal_regs ..), State.fld_setFld_apart _ F.CFG_STATUS.CAUSE F.CFG_STATUS.RESULT _ _ _ rfl (by decide)
    (by decide) (by decide) (by decide), State.fld_setFld_same _ _ _ _ _ (by decide) (by decide)]
  exact Nat.mod_eq_of_lt hres

theorem loadResult_zone (s : State) (res cause k : Nat) : (loadResult s res cause).zone k = s.zone k := by
  obtain ⟨h, hsignal⟩ := signal_only ((s.setFld F.CFG_STATUS.RESULT 0 0 res).setFld F.CFG_STATUS.CAUSE 0 0 cause) 14
  have hzones : (loadResult s res cause).zones = s.zones := by rw [loadResult, hsignal, State.setFld_zones, State.setFld_zones]
  rw [State.zone, hzones, State.zone]

theorem idleLoad_regsKept (s : State) : RegsKept s.regs (idleLoad s).regs loadSlots :=
  ((RegsKept.refl _ _).setFld F.CFG_STATUS.STEP 0 0 0 (List.mem_cons_self ..)).setFld F.CFG_RELAY.TX_ACTIVE 0 0 0
    (List.mem_cons_of_mem _ (List.mem_cons_self ..))

theorem fld_idleLoad_result (s : State) : (idleLoad s).fld F.CFG_STATUS.RESULT = s.fld F.CFG_STATUS.RESULT := by
  rw [idleLoad, State.fld_setFld_other _ _ _ _ _ _ _ _ (by decide),
    State.fld_setFld_apart _ F.CFG_STATUS.STEP F.CFG_STATUS.RESULT _ _ _ rfl (by decide) (by decide) (by decide) (by decide)]

/-- The register of a zone as the end of a partial load writes it. -/
def partialZone (s : State) (r z : Nat) : State :=
  (((s.setFld F.CFG_ZONE.STATE r z 2).setFld F.CFG_ZONE.PARTIAL_ABORT r z 0).setFld F.CFG_ZONE.RESULT r z 0).setFld
    F.CFG_ZONE.ADDR r z 0

/-- The state of the controller is no part of what registers and zones read. -/
theorem withLoad_kept (s : State) (l : LoadSt) : ({ s with load := l } : State).regs = s.regs ∧
    ({ s with load := l } : State).zones = s.zones ∧ ({ s with load := l } : State).load = l := ⟨rfl, rfl, rfl⟩

/-- After the zone's register step 6 writes what the zone waits for and the controller's status. -/
theorem partialDone_eq_idleLoad (s : State) (r : Region) (z : Fin 16) : ∃ u : State,
    RegsKept (partialZone s r z).regs u.regs loadSlots ∧ u.fld F.CFG_STATUS.RESULT = 0 ∧ u.load = s.load.idle ∧
      (u.zone (16 * r.val + z.val)).startPend = (s.load.auto || (s.zone (16 * r.val + z.val)).startPend) ∧
      partialDone s (16 * r.val + z.val) = idleLoad u := by
  obtain ⟨w, hw⟩ : ∃ w, w = { s.zone (16 * r.val + z.val) with
    startPend := s.load.auto || (s.zone (16 * r.val + z.val)).startPend } := ⟨_, rfl⟩
  obtain ⟨v, hv⟩ : ∃ v, v = (partialZone s r z).setZone (16 * r.val + z.val) w := ⟨_, rfl⟩
  obtain ⟨hregs, hzones, hload⟩ := withLoad_kept (loadResult v 0 0) s.load.idle
  refine ⟨{ loadResult v 0 0 with load := s.load.idle }, ?_, ?_, hload, ?_, ?_⟩
  · have hkept := loadResult_regsKept v 0 0
    rwa [hv, State.setZone_regs, ← hv, ← hregs] at hkept
  · rw [fld_of_regs hregs, fld_loadResult_result v 0 (by decide)]
  · rw [State.zone, hzones, ← State.zone, loadResult_zone, hv, zone_setZone_same, hw]
  · simp only [hv, hw, partialDone, State.setZstate, zoneNum_div, zoneNum_mod, partialZone, zone_setFld, State.setFld_load,
      State.setZone_load]

/-- What follows the zone's register leaves it alone. -/
theorem fld_partialDone_zone (s : State) (r : Region) (z : Fin 16) {f : Fld} (hf : f.reg = .CFG_ZONE) :
    (partialDone s (16 * r.val + z.val)).fld f r z = (partialZone s r z).fld f r z := by
  obtain ⟨u, hkept, -, -, -, h⟩ := partialDone_eq_idleLoad s r z
  rw [h]
  exact fld_of_regsKept (hkept.trans (idleLoad_regsKept u)) f _ _ (hf ▸ cfgZone_notMem_loadSlots r z)

theorem fld_partialDone_result (s : State) (r : Region) (z : Fin 16) :
    (partialDone s (16 * r.val + z.val)).fld F.CFG_STATUS.RESULT = 0 := by
  obtain ⟨u, -, hresult, -, -, h⟩ := partialDone_eq_idleLoad s r z
  rw [h, fld_idleLoad_result, hresult]

theorem partialDone_idle (s : State) (r : Region) (z : Fin 16) : (partialDone s (16 * r.val + z.val)).load.kind = 0 := by
  obtain ⟨u, -, -, hload, -, h⟩ := partialDone_eq_idleLoad s r z
  rw [h, idleLoad, State.setFld_load, State.setFld_load, hload, LoadSt.idle]

theorem startPend_partialDone (s : State) (r : Region) (z : Fin 16) :
    ((partialDone s (16 * r.val + z.val)).zone (16 * r.val + z.val)).startPend =
      (s.load.auto || (s.zone (16 * r.val + z.val)).startPend) := by
  obtain ⟨u, -, -, -, hzone, h⟩ := partialDone_eq_idleLoad s r z
  rw [h, idleLoad, zone_setFld, zone_setFld, hzone]

/-- The zone is ISOLATED with status OK, and PRIMED as the restore left it. -/
theorem partialZone_flds (s : State) (r z : Nat) : (partialZone s r z).fld F.CFG_ZONE.STATE r z = 2 ∧
    (partialZone s r z).fld F.CFG_ZONE.PARTIAL_ABORT r z = 0 ∧ (partialZone s r z).fld F.CFG_ZONE.RESULT r z = 0 ∧
    (partialZone s r z).fld F.CFG_ZONE.PRIMED r z = s.fld F.CFG_ZONE.PRIMED r z := by
  have apart (t : State) (f g : Fld) (v : Nat) (hr : g.reg = f.reg) (hf : f.lo ≤ f.hi ∧ f.hi < 40) (hg : g.lo ≤ g.hi)
      (hd : f.hi < g.lo ∨ g.hi < f.lo) : (t.setFld f r z v).fld g r z = t.fld g r z :=
    State.fld_setFld_apart t f g r z v hr hf.1 hf.2 hg hd
  unfold partialZone
  refine ⟨?_, ?_, ?_, ?_⟩
  · rw [apart _ F.CFG_ZONE.ADDR F.CFG_ZONE.STATE _ rfl (by decide) (by decide) (by decide),
      apart _ F.CFG_ZONE.RESULT F.CFG_ZONE.STATE _ rfl (by decide) (by decide) (by decide),
      apart _ F.CFG_ZONE.PARTIAL_ABORT F.CFG_ZONE.STATE _ rfl (by decide) (by decide) (by decide),
      State.fld_setFld_same _ _ _ _ _ (by decide) (by decide)]
    rfl
  · rw [apart _ F.CFG_ZONE.ADDR F.CFG_ZONE.PARTIAL_ABORT _ rfl (by decide) (by decide) (by decide),
      apart _ F.CFG_ZONE.RESULT F.CFG_ZONE.PARTIAL_ABORT _ rfl (by decide) (by decide) (by decide),
      State.fld_setFld_same _ _ _ _ _ (by decide) (by decide)]
    rfl
  · rw [apart _ F.CFG_ZONE.ADDR F.CFG_ZONE.RESULT _ rfl (by decide) (by decide) (by decide),
      State.fld_setFld_same _ _ _ _ _ (by decide) (by decide)]
    rfl
  · rw [apart _ F.CFG_ZONE.ADDR F.CFG_ZONE.PRIMED _ rfl (by decide) (by decide) (by decide),
      apart _ F.CFG_ZONE.RESULT F.CFG_ZONE.PRIMED _ rfl (by decide) (by decide) (by decide),
      apart _ F.CFG_ZONE.PARTIAL_ABORT F.CFG_ZONE.PRIMED _ rfl (by decide) (by decide) (by decide),
      apart _ F.CFG_ZONE.STATE F.CFG_ZONE.PRIMED _ rfl (by decide) (by decide) (by decide)]

end Sys2Proof.Laws
end

section

open Sys2Proof Sys2Proof.Machine Sys2Proof.Safety Sys2Proof.Laws

/-- Settles O43: each command by the state of its zone; the end of a restore and of a partial load by what they write in turn. -/
theorem zoneCommandsStartIsolateAndRestore : Obligations.ZoneCommandsStartIsolateAndRestore := by
  unfold Obligations.ZoneCommandsStartIsolateAndRestore
  intro s r z
  have hanswer : ∀ n, s.setFld F.CFG_ZCMD.RES r 0 n = zoneRes s (16 * r.val + z.val) n := fun n => (zoneRes_zoneNum s r z n).symm
  simp only [exec_zoneStart, exec_zoneIsolate, exec_restore, exec_reload, exec_restoreDone, hanswer, ← zstate_zoneNum,
    ← startRefused_iff, Bool.not_eq_true]
  refine ⟨fun h => ?undeclared, fun h href => ?startRefused, fun h href => ?startRun, fun h href => ?startIsolated,
    fun h hmode => ?isolateLater, fun h hmode => ?isolateNow, fun h => ?isolateAgain, fun h0 h2 => ?restoreRefused,
    fun h hbusy => ?restoreBusy, fun h hfree hreset => ⟨?restore, fun hret => ?reloadNotRetained, fun hret => ?reload⟩,
    fun h => ?doneIdle, fun h hrestoring hreset => ?doneIsolated, fun h hrestoring hreset hkind hphase => ?donePartial⟩
  case undeclared =>
    rw [zoneStartCmd_undeclared h, zoneIsolateCmd_undeclared h, askRestore_undeclared 1 h, askRestore_undeclared 2 h]
    exact ⟨rfl, rfl, rfl, rfl⟩
  case startRefused => rw [zoneStartCmd_refused h href]
  case startRun => rw [zoneStartCmd_run h href]
  case startIsolated =>
    rw [zoneStartCmd_isolated h href, askStart_eq]
    exact ⟨_, rfl, zoneRes_setZone_takes s r z _⟩
  case isolateLater =>
    rw [zoneIsolateCmd_run h, askIsolate, if_neg hmode]
    exact ⟨_, rfl, zoneRes_setZone_takes s r z _⟩
  case isolateNow =>
    rw [zoneIsolateCmd_run h, askIsolate, if_pos hmode]
    refine ⟨_, rfl, ?_, fld_zoneRes_res _ r z (by decide), ?_⟩
    · rw [zstate_zoneRes, zstate_isolateZone]
    · rw [zoneRes, zone_setFld, isoPend_isolateZone]
  case isolateAgain => rw [zoneIsolateCmd_stopped h]
  case restoreRefused =>
    rw [askRestore_refused 1 h0 h2, askRestore_refused 2 h0 h2]
    exact ⟨rfl, rfl⟩
  case restoreBusy =>
    rw [askRestore_busy 1 h hbusy, askRestore_busy 2 h hbusy]
    exact ⟨rfl, rfl⟩
  case restore =>
    rw [askRestore_taken h hfree hreset fun hkind => absurd hkind (by decide)]
    exact ⟨_, rfl, zoneRes_setZone_takes s r z _⟩
  case reloadNotRetained => rw [askRestore_notRetained h hfree hreset hret]
  case reload =>
    rw [askRestore_taken h hfree hreset fun _ => by omega]
    exact ⟨_, rfl, zoneRes_setZone_takes s r z _⟩
  case doneIdle => exact execRestoreDone_idle h
  case doneIsolated =>
    exact ⟨_, execRestoreDone_isolated hrestoring hreset h, fld_restoreDone_primed hrestoring,
      (zstate_restoreDone hrestoring).trans h, zone_restoreDone hrestoring, restoreDone_mem hrestoring⟩
  case donePartial =>
    obtain ⟨hstate, habort, hresult, hprimed⟩ := partialZone_flds (restoreDone s (16 * r.val + z.val)) r z
    refine ⟨_, execRestoreDone_loading hrestoring hreset h hkind hphase, ?_, ?_, ?_, ?_, partialDone_idle _ r z,
      fld_partialDone_result _ r z, ?_⟩
    · rw [fld_partialDone_zone _ r z rfl, hprimed, fld_restoreDone_primed hrestoring]
    · rw [zstate_zoneNum, fld_partialDone_zone _ r z rfl, hstate]
    · rw [fld_partialDone_zone _ r z rfl, habort]
    · rw [fld_partialDone_zone _ r z rfl, hresult]
    · rw [startPend_partialDone, restoreDone_load hrestoring, zone_restoreDone hrestoring, restored]

end
section
/-! SUPPORT. A queue and its registers (R123, Table 5.7): the register slots of a tile, and what keeps a queue's range, its answer
and the command that runs on it. -/

namespace Sys2Proof.Laws

open Sys2Proof Sys2Proof.Machine Sys2Proof.Safety

/-! ### Slots -/

/-- Slots of one tile at different offsets are different slots. -/
theorem regAddr_tile_ne_of_offset {r r' : Reg} {i i' : Nat} (hr : r.place.blk = .tile) (hr' : r'.place.blk = .tile)
    (hne : r.place.offset + i * r.place.stride ≠ r'.place.offset + i' * r'.place.stride) (t : Nat) :
    regAddr r t i ≠ regAddr r' t i' := by
  unfold regAddr
  rw [hr, hr']
  omega

/-- The registers that each queue of a tile has. -/
def queueRegs : List Reg := [.QC_CFG, .QC_SIZE, .QC_WR, .QC_RD, .QC_WM, .QC_STAT, .QC_CNT, .QC_CMD]

theorem place_queueRegs : ∀ r ∈ queueRegs, r.place.blk = .tile ∧ r.place.stride = 0x40 ∧ 0x2000 ≤ r.place.offset ∧
    r.place.offset < 0x2040 := by decide

theorem offset_queueRegs_ne : ∀ r ∈ queueRegs, ∀ r' ∈ queueRegs, r ≠ r' → r.place.offset ≠ r'.place.offset := by decide

/-- Two registers of one queue have different slots. -/
theorem queueReg_ne {r r' : Reg} (hne : r ≠ r') (t q : Nat) (hr : r ∈ queueRegs := by decide) (hr' : r' ∈ queueRegs := by decide) :
    regAddr r t q ≠ regAddr r' t q := by
  obtain ⟨hblk, hstride, -, -⟩ := place_queueRegs r hr
  obtain ⟨hblk', hstride', -, -⟩ := place_queueRegs r' hr'
  have hoffset := offset_queueRegs_ne r hr r' hr' hne
  exact regAddr_tile_ne_of_offset hblk hblk' (by rw [hstride, hstride']; omega) t

/-- A register of a queue has another slot than a tile register past the queues. -/
theorem queueReg_ne_past {r r' : Reg} {q : Nat} (hq : q < 16) (t : Nat) (hr : r ∈ queueRegs := by decide)
    (hblk' : r'.place.blk = .tile := by rfl) (hpast : 0x2400 ≤ r'.place.offset := by decide) :
    regAddr r t q ≠ regAddr r' t 0 := by
  obtain ⟨hblk, hstride, -, hlt⟩ := place_queueRegs r hr
  exact regAddr_tile_ne_of_offset hblk hblk' (by rw [hstride]; omega) t

/-- The events of a queue are written beside its range and its answer. -/
theorem queueReg_notMem_dropSlots {r : Reg} {q : Nat} (hq : q < 16) (t : Nat) (hr : r ∈ queueRegs := by decide)
    (hne : r ≠ .QC_CNT := by decide) : regAddr r t q ∉ dropSlots t q := by
  simp only [dropSlots, List.mem_cons, List.not_mem_nil, or_false, not_or]
  exact ⟨queueReg_ne hne t q hr, queueReg_ne_past hq t hr, queueReg_ne_past hq t hr, queueReg_ne_past hq t hr⟩

/-! ### The queue beside its registers -/

@[simp] theorem q_setFld (s : State) (f : Fld) (u i v t q : Nat) : (s.setFld f u i v).q t q = s.q t q := (rfl)

@[simp] theorem q_setQ_same (s : State) (t q : Nat) (v : QueueSt) : (s.setQ t q v).q t q = v := mget_mset_same ..

/-- The fields of its registers that follow a queue. -/
def syncFlds (t q : Nat) : List (Fld × Nat × Nat) :=
  [(F.QC_WR.PTR, t, q), (F.QC_RD.PTR, t, q), (F.QC_STAT.COUNT, t, q), (F.QC_STAT.HI, t, q), (F.QC_STAT.LO, t, q)]

theorem syncQueue_fldsKept (s : State) (t q : Nat) : FldsKept s.regs (syncQueue s t q).regs (syncFlds t q) := by
  unfold syncQueue
  dsimp only
  refine .setFld F.QC_STAT.LO t q _ ?_ (by decide) (by decide) <| .setFld F.QC_STAT.HI t q _ ?_ (by decide) (by decide) <|
    .setFld F.QC_STAT.COUNT t q _ ?_ (by decide) (by decide) <| .setFld F.QC_RD.PTR t q _ ?_ (by decide) (by decide) <|
    .setFld F.QC_WR.PTR t q _ ?_ (by decide) (by decide) <| FldsKept.refl _ _
  all_goals simp [syncFlds]

@[simp] theorem q_syncQueue (s : State) (t q k j : Nat) : (syncQueue s t q).q k j = s.q k j := by
  simp only [syncQueue, q_setFld]

@[simp] theorem q_putQ_same (s : State) (t q : Nat) (v : QueueSt) : (s.putQ t q v).q t q = v := by
  rw [State.putQ, q_syncQueue, q_setQ_same]

/-- `u` differs from `s` in registers and queues only. -/
def QueuesOnly (s u : State) : Prop := ∃ m k, u = { s with regs := m, queues := k }

theorem QueuesOnly.refl (s : State) : QueuesOnly s s := ⟨s.regs, s.queues, rfl⟩

theorem QueuesOnly.setFld {s u : State} (h : QueuesOnly s u) (f : Fld) (k i v : Nat) : QueuesOnly s (u.setFld f k i v) := by
  obtain ⟨m, k, rfl⟩ := h
  exact ⟨_, k, rfl⟩

theorem QueuesOnly.putQ {s u : State} (h : QueuesOnly s u) (t q : Nat) (v : QueueSt) : QueuesOnly s (u.putQ t q v) := by
  have hset : QueuesOnly s (u.setQ t q v) := by
    obtain ⟨m, k, rfl⟩ := h
    exact ⟨m, _, rfl⟩
  exact ((((hset.setFld ..).setFld ..).setFld ..).setFld ..).setFld ..

theorem QueuesOnly.eq {s u : State} (h : QueuesOnly s u) : u = { s with regs := u.regs, queues := u.queues } := by
  obtain ⟨m, k, rfl⟩ := h
  rfl

/-- A queue's registers other than those that follow it. -/
theorem fld_putQ (s : State) (t q : Nat) (v : QueueSt) {f : Fld} (hlohi : f.lo ≤ f.hi := by decide)
    (hr : f.reg ∈ queueRegs := by decide) (hne : f.reg ∉ [Reg.QC_WR, .QC_RD, .QC_STAT] := by decide) :
    (s.putQ t q v).fld f t q = s.fld f t q := by
  simp only [List.mem_cons, List.not_mem_nil, or_false, not_or] at hne
  obtain ⟨hwr, hrd, hstat⟩ := hne
  refine syncQueue_fldsKept (s.setQ t q v) t q f t q hlohi fun g hg he => ?_
  simp only [syncFlds, List.mem_cons, List.not_mem_nil, or_false] at hg
  rcases hg with rfl | rfl | rfl | rfl | rfl
  · exact absurd he (queueReg_ne hwr t q hr)
  · exact absurd he (queueReg_ne hrd t q hr)
  all_goals exact absurd he (queueReg_ne hstat t q hr)

/-- The answer of the last command stands beside the count. -/
theorem res_putQ (s : State) (t q : Nat) (v : QueueSt) : (s.putQ t q v).fld F.QC_STAT.RES t q = s.fld F.QC_STAT.RES t q := by
  refine syncQueue_fldsKept (s.setQ t q v) t q F.QC_STAT.RES t q (by decide) fun g hg he => ?_
  simp only [syncFlds, List.mem_cons, List.not_mem_nil, or_false] at hg
  rcases hg with rfl | rfl | rfl | rfl | rfl
  · exact absurd he (queueReg_ne (r := .QC_STAT) (r' := .QC_WR) (by decide) t q)
  · exact absurd he (queueReg_ne (r := .QC_STAT) (r' := .QC_RD) (by decide) t q)
  all_goals exact ⟨rfl, rfl, rfl, .inl (by dsimp only; decide)⟩

theorem count_putQ (s : State) (t q : Nat) (v : QueueSt) : (s.putQ t q v).fld F.QC_STAT.COUNT t q = v.count % 2 ^ 19 := by
  rw [State.putQ, syncQueue, State.fld_setFld_apart _ F.QC_STAT.LO F.QC_STAT.COUNT _ _ _ rfl (by decide) (by decide) (by decide) (by decide),
    State.fld_setFld_apart _ F.QC_STAT.HI F.QC_STAT.COUNT _ _ _ rfl (by decide) (by decide) (by decide) (by decide),
    State.fld_setFld_same _ F.QC_STAT.COUNT _ _ _ (by decide) (by decide), q_setQ_same]
  rfl

/-! ### What keeps the range of a queue -/

/-- `u` has the range of a queue, the answer of its last command and whether a command runs on it as `s` has them. -/
structure RangeKept (s u : State) (t q : Nat) : Prop where
  base : u.fld F.QC_SIZE.BASE t q = s.fld F.QC_SIZE.BASE t q
  len : u.fld F.QC_SIZE.LEN t q = s.fld F.QC_SIZE.LEN t q
  res : u.fld F.QC_STAT.RES t q = s.fld F.QC_STAT.RES t q
  busy : (u.q t q).cmdBusy = (s.q t q).cmdBusy

section
variable {s u w : State} {t q : Nat}

theorem RangeKept.refl (s : State) (t q : Nat) : RangeKept s s t q := ⟨rfl, rfl, rfl, rfl⟩

theorem RangeKept.trans (h : RangeKept s u t q) (h' : RangeKept u w t q) : RangeKept s w t q :=
  ⟨h'.base.trans h.base, h'.len.trans h.len, h'.res.trans h.res, h'.busy.trans h.busy⟩

/-- What leaves the registers and the queues alone. -/
theorem rangeKept_of_eq (hregs : u.regs = s.regs) (hqueues : u.queues = s.queues) : RangeKept s u t q :=
  ⟨fld_of_regs hregs .., fld_of_regs hregs .., fld_of_regs hregs .., by rw [State.q, hqueues]; rfl⟩

/-- What writes the counters and events of a queue only. -/
theorem rangeKept_of_events (hq : q < 16) (hregs : RegsKept s.regs u.regs (dropSlots t q)) (hqueues : u.queues = s.queues) :
    RangeKept s u t q :=
  ⟨fld_of_regsKept hregs _ _ _ (queueReg_notMem_dropSlots hq t), fld_of_regsKept hregs _ _ _ (queueReg_notMem_dropSlots hq t),
    fld_of_regsKept hregs _ _ _ (queueReg_notMem_dropSlots hq t), by rw [State.q, hqueues]; rfl⟩

theorem rangeKept_setQ {v : QueueSt} (h : v.cmdBusy = (s.q t q).cmdBusy) : RangeKept s (s.setQ t q v) t q :=
  ⟨rfl, rfl, rfl, by rw [q_setQ_same, h]⟩

theorem rangeKept_putQ {v : QueueSt} (h : v.cmdBusy = (s.q t q).cmdBusy) : RangeKept s (s.putQ t q v) t q :=
  ⟨fld_putQ .., fld_putQ .., res_putQ .., by rw [q_putQ_same, h]⟩

theorem qEvent_queues (s : State) (t q kind ptr : Nat) (inj : Bool) : (qEvent s t q kind ptr inj).queues = s.queues := by
  unfold qEvent
  dsimp only
  split
  · rfl
  · simp only [State.orFld, State.emitTile, State.emit, State.setFld_queues, State.setReg_queues]

/-- A counted event of a queue. -/
theorem rangeKept_counted (hq : q < 16) (s : State) {f : Fld} (hf : f.reg = .QC_CNT) (n kind ptr : Nat) :
    RangeKept s (qEvent (s.addSat f t q n) t q kind ptr) t q := by
  have hcount : RegsKept s.regs (s.addSat f t q n).regs (dropSlots t q) :=
    (RegsKept.refl s.regs _).setFld f t q _ (by rw [hf]; exact List.mem_cons_self ..)
  exact rangeKept_of_events hq (qEvent_regsKept hcount (by simp [dropSlots]) (by simp [dropSlots]) (by simp [dropSlots])
    q kind ptr false) (qEvent_queues ..)

/-! ### Deliveries -/

theorem storeWords_regs_queues (t q cap : Nat) (ws : List Word) (p : Nat) (s : State) :
    (storeWords t q cap p ws s).regs = s.regs ∧ (storeWords t q cap p ws s).queues = s.queues := by
  induction ws generalizing p s with
  | nil => exact ⟨rfl, rfl⟩
  | cons w ws ih => exact ih _ _

theorem appendWords_rangeKept (s : State) (t q stride : Nat) (ws : List Word) : RangeKept s (appendWords s t q stride ws) t q := by
  obtain ⟨hregs, hqueues⟩ := storeWords_regs_queues t q (s.qCap t q) ws (s.q t q).wr s
  have hstored : RangeKept s (storeWords t q (s.qCap t q) (s.q t q).wr ws s) t q := rangeKept_of_eq hregs hqueues
  exact hstored.trans (rangeKept_putQ hstored.busy.symm)

theorem dropOldest_cmdBusy (v : QueueSt) (cap : Nat) : (v.dropOldest cap).cmdBusy = v.cmdBusy := by
  unfold QueueSt.dropOldest
  split <;> rfl

theorem dropN_cmdBusy (v : QueueSt) (cap n : Nat) : (v.dropN cap n).cmdBusy = v.cmdBusy := by
  induction n generalizing v with
  | zero => rfl
  | succ n ih => rw [QueueSt.dropN, ih, dropOldest_cmdBusy]

theorem deliver_rangeKept (hq : q < 16) (s : State) (from_ : Nat) (ws : List Word) :
    RangeKept s (deliver s t q from_ ws) t q := by
  unfold deliver
  dsimp only
  split
  case isTrue =>
    split
    · split
      · exact rangeKept_counted hq s rfl ..
      · exact (rangeKept_counted hq s rfl ..).trans (appendWords_rangeKept ..)
    · exact appendWords_rangeKept ..
  case isFalse =>
    split
    · refine RangeKept.trans ?_ (appendWords_rangeKept ..)
      split
      · exact RangeKept.refl ..
      · have hevent := rangeKept_counted (t := t) hq s (f := F.QC_CNT.OVF) rfl
          ((s.q t q).count + ws.length - s.qCap t q) 3 (s.q t q).wr
        exact hevent.trans (rangeKept_setQ (by rw [dropN_cmdBusy, hevent.busy]))
    · exact appendWords_rangeKept ..

theorem ackPush_queues (s : State) (t : Nat) (p : Push) (st : Nat) : (ackPush s t p st).queues = s.queues := by
  unfold ackPush
  split <;> rfl

theorem ackPush_rangeKept (s : State) (t q k : Nat) (p : Push) (st : Nat) : RangeKept s (ackPush s k p st) t q :=
  rangeKept_of_eq (ackPush_regs ..) (ackPush_queues ..)

theorem drainPushes_rangeKept (hq : q < 16) (n : Nat) (s : State) : RangeKept s (drainPushes t q n s) t q := by
  induction n generalizing s with
  | zero => exact RangeKept.refl ..
  | succ n ih =>
    have hpop : ∀ ps, RangeKept s (s.setQ t q { s.q t q with waiting := ps }) t q := fun ps => rangeKept_setQ rfl
    unfold drainPushes
    dsimp only
    split
    · exact RangeKept.refl ..
    · split
      · exact (hpop _).trans ((ackPush_rangeKept ..).trans (ih _))
      · split
        · exact RangeKept.refl ..
        · exact (hpop _).trans ((deliver_rangeKept hq ..).trans ((ackPush_rangeKept ..).trans (ih _)))

theorem drain_rangeKept (hq : q < 16) (s : State) : RangeKept s (s.drain t q) t q := drainPushes_rangeKept hq _ s

end

theorem drain_nil {s : State} {t q : Nat} (h : (s.q t q).waiting = []) : s.drain t q = s := by
  rw [State.drain, h]; rfl

end Sys2Proof.Laws
end
section
/-! SUPPORT. The range of a queue, its commands, and the release by a polling reader (R123, R132, R134). -/

namespace Sys2Proof.Laws

open Sys2Proof Sys2Proof.Machine Sys2Proof.Safety

/-! ### The range of a queue (R123) -/

/-- A queue may take a range: it lies in the memory, overlaps no other enabled queue, and is none of an outbound calendar
queue. -/
def RangeFits (s : State) (t : Nat) (q : QueueIx) (base len : Nat) : Prop :=
  base + len ≤ 32768 ∧
  (∀ k : QueueIx, k ≠ q → s.fld F.QC_SIZE.LEN t k ≠ 0 → len ≠ 0 →
    base + len ≤ s.fld F.QC_SIZE.BASE t k ∨ s.fld F.QC_SIZE.BASE t k + s.fld F.QC_SIZE.LEN t k ≤ base) ∧
  (len = 0 ∨ s.fld F.QC_CFG.MODE t q ≠ 2 ∨ s.fld F.QC_CFG.DIR t q = 0)

theorem rangeCheck_past {s : State} {base len : Nat} (h : 32768 < base + len) (t q : Nat) : rangeCheck s t q base len = 2 :=
  if_pos h

theorem rangeCheck_fits {s : State} {t : Nat} {q : QueueIx} {base len : Nat} (h : RangeFits s t q base len) :
    rangeCheck s t q base len = 0 := by
  obtain ⟨hlies, hapart, hinbound⟩ := h
  have hnone : ¬((List.range 16).any fun k => k != q && s.fld F.QC_SIZE.LEN t k != 0 && len != 0 &&
      decide (base < s.fld F.QC_SIZE.BASE t k + s.fld F.QC_SIZE.LEN t k) && decide (s.fld F.QC_SIZE.BASE t k < base + len)) = true := by
    simp only [List.any_eq_true, List.mem_range, Bool.and_eq_true, bne_iff_ne, decide_eq_true_eq, not_exists, not_and]
    intro k hk hkq
    obtain ⟨⟨⟨hother, hon⟩, hlen⟩, habove⟩ := hkq
    have hclear := hapart ⟨k, hk⟩ (fun he => hother (congrArg Fin.val he)) hon hlen
    dsimp only at hclear
    omega
  have hcalendar : ¬(len ≠ 0 ∧ s.fld F.QC_CFG.MODE t q = 2 ∧ s.on F.QC_CFG.DIR t q = true) := by
    rintro ⟨hlen, hmode, hout⟩
    rcases hinbound with h | h | h
    · exact hlen h
    · exact h hmode
    · simp [State.on, h] at hout
  rw [rangeCheck, if_neg (Nat.not_lt.2 hlies), if_neg hnone, if_neg hcalendar]

theorem isReserved_queueLen {n : Nat} (h : n ≤ 32768) : F.QC_SIZE.LEN.isReserved n = false := by
  simp [Fld.isReserved, F.QC_SIZE.LEN]; omega

/-- A field reads a value that fits it as it was written. -/
theorem fld_setFld_of_lt (s : State) (f : Fld) (u i : Nat) {v : Nat} (hv : v < 2 ^ (f.hi + 1 - f.lo))
    (h : f.lo ≤ f.hi := by decide) (h40 : f.hi < 40 := by decide) : (s.setFld f u i v).fld f u i = v := by
  rw [State.fld_setFld_same s f u i v h h40, Nat.mod_eq_of_lt hv]

theorem fld_queueDiscard_set (s : State) (t q n : Nat) :
    (s.setFld F.QC_CMD.DISCARD t q n).fld F.QC_CMD.DISCARD t q = n % 2 ^ 19 :=
  State.fld_setFld_same _ _ _ _ _ (by decide) (by decide)

/-- The queue's other registers beside one that is written. -/
theorem fld_setFld_queueReg (s : State) (f g : Fld) (t q v : Nat) (hne : g.reg ≠ f.reg := by decide)
    (hf : f.reg ∈ queueRegs := by decide) (hg : g.reg ∈ queueRegs := by decide) :
    (s.setFld f t q v).fld g t q = s.fld g t q :=
  State.fld_setFld_other _ _ _ _ _ _ _ _ (queueReg_ne hne t q hg hf)

section
variable {s : State} {t : Tile} {q : QueueIx} {v : Word}

theorem exec_qcSizeWrite : exec (.qcSizeWrite t q v) s = .next (writeQcSize s t q v) := rfl

theorem writeQcSize_notEmpty (h : (s.q t q).count ≠ 0) : writeQcSize s t q v = s.setFld F.QC_STAT.RES t q 1 := by
  simp only [writeQcSize, h, ne_eq, not_false_eq_true, true_or, if_true, Nat.one_ne_zero]

/-- The state in which a queue has taken a range, before the pushes that wait go in. -/
def rangeTaken (s : State) (t q base len : Nat) : State :=
  (((s.setFld F.QC_STAT.RES t q 0).setFld F.QC_SIZE.BASE t q base).setFld F.QC_SIZE.LEN t q len).putQ t q
    { waiting := (s.q t q).waiting, cmdBusy := (s.q t q).cmdBusy }

section
variable (hcount : (s.q t q).count = 0) (hmarks : (s.q t q).marks = []) (hlen : bitsOf v.toNat 15 0 ≤ 32768)
include hcount hmarks hlen

/-- An empty queue's range is judged by the checks alone. -/
theorem writeQcSize_empty {res : Nat} (hres : rangeCheck s t q (bitsOf v.toNat 30 16) (bitsOf v.toNat 15 0) = res) :
    writeQcSize s t q v = if res ≠ 0 then s.setFld F.QC_STAT.RES t q res
      else ((((s.setFld F.QC_STAT.RES t q res).setFld F.QC_SIZE.BASE t q (bitsOf v.toNat 30 16)).setFld F.QC_SIZE.LEN t q
        (bitsOf v.toNat 15 0)).putQ t q { waiting := (s.q t q).waiting, cmdBusy := (s.q t q).cmdBusy }).drain t q := by
  have hkept : ¬((s.q t q).count ≠ 0 ∨ (s.q t q).marks ≠ []) := not_or.2 ⟨not_not.2 hcount, not_not.2 hmarks⟩
  simp only [writeQcSize, isReserved_queueLen hlen, Bool.false_eq_true, if_false, if_neg hkept, hres]

theorem writeQcSize_taken (h : RangeFits s t q (bitsOf v.toNat 30 16) (bitsOf v.toNat 15 0)) :
    writeQcSize s t q v = (rangeTaken s t q (bitsOf v.toNat 30 16) (bitsOf v.toNat 15 0)).drain t q := by
  rw [writeQcSize_empty hcount hmarks hlen (rangeCheck_fits h), if_neg (not_not.2 rfl), rangeTaken]

theorem writeQcSize_past (h : 32768 < bitsOf v.toNat 30 16 + bitsOf v.toNat 15 0) :
    writeQcSize s t q v = s.setFld F.QC_STAT.RES t q 2 := by
  rw [writeQcSize_empty hcount hmarks hlen (rangeCheck_past h t q), if_pos (by decide)]

end

end

theorem rangeTaken_flds (s : State) (t q : Nat) {base len : Nat} (hbase : base < 2 ^ 15) (hlen : len < 2 ^ 16) :
    (rangeTaken s t q base len).fld F.QC_SIZE.BASE t q = base ∧ (rangeTaken s t q base len).fld F.QC_SIZE.LEN t q = len ∧
    (rangeTaken s t q base len).fld F.QC_STAT.RES t q = 0 ∧ (rangeTaken s t q base len).fld F.QC_STAT.COUNT t q = 0 := by
  refine ⟨?_, ?_, ?_, count_putQ ..⟩
  · rw [rangeTaken, fld_putQ, State.fld_setFld_apart _ F.QC_SIZE.LEN F.QC_SIZE.BASE _ _ _ rfl (by decide) (by decide) (by decide)
      (by decide), fld_setFld_of_lt _ F.QC_SIZE.BASE t q hbase]
  · rw [rangeTaken, fld_putQ, fld_setFld_of_lt _ F.QC_SIZE.LEN t q hlen]
  · rw [rangeTaken, res_putQ, fld_setFld_queueReg _ F.QC_SIZE.LEN F.QC_STAT.RES, fld_setFld_queueReg _ F.QC_SIZE.BASE F.QC_STAT.RES,
      fld_setFld_of_lt _ F.QC_STAT.RES t q (by decide)]

theorem rangeTaken_only (s : State) (t q base len : Nat) : QueuesOnly s (rangeTaken s t q base len) :=
  ((((QueuesOnly.refl s).setFld ..).setFld ..).setFld ..).putQ ..

theorem rangeTaken_q (s : State) (t q base len : Nat) :
    (rangeTaken s t q base len).q t q = { waiting := (s.q t q).waiting, cmdBusy := (s.q t q).cmdBusy } := q_putQ_same ..

/-! ### FLUSH (R134) -/

/-- A queue command runs: the tile executes no strides, its zone is isolated, or the queue is disabled. -/
def CmdOpen (s : State) (t q : Nat) : Prop :=
  s.time.running = false ∨ s.regionRuns (t / 16) = false ∨ s.tileIsolated t = true ∨ s.fld F.QC_SIZE.LEN t q = 0

theorem cmdAllowed_iff (s : State) (t q : Nat) : cmdAllowed s t q = true ↔ CmdOpen s t q := by
  simp only [cmdAllowed, CmdOpen, Bool.or_eq_true, Bool.not_eq_true', beq_iff_eq, or_assoc]

theorem exec_flush (s : State) (t : Tile) (q : QueueIx) : exec (.flush t q) s = .next (flushQueue s t q) := rfl

/-- The state after a FLUSH that runs. -/
def flushed (s : State) (t q : Nat) : State :=
  ((s.setFld F.QC_STAT.RES t q 0).setFld F.QC_CMD.DISCARD t q (s.q t q).count).putQ t q
    { s.q t q with rel := [], marks := [], cmdBusy := true }

theorem flushQueue_open {s : State} {t q : Nat} (h : CmdOpen s t q) : flushQueue s t q = flushed s t q := by
  rw [flushQueue, (cmdAllowed_iff s t q).2 h, if_neg (by decide)]
  rfl

theorem flushQueue_running {s : State} {t q : Nat} (h : ¬CmdOpen s t q) : flushQueue s t q = s.setFld F.QC_STAT.RES t q 4 := by
  rw [flushQueue, Bool.eq_false_iff.2 (mt (cmdAllowed_iff s t q).1 h), if_pos (by decide)]

theorem flushed_flds (s : State) (t q : Nat) : (flushed s t q).fld F.QC_CMD.DISCARD t q = (s.q t q).count % 2 ^ 19 ∧
    (flushed s t q).fld F.QC_STAT.RES t q = 0 ∧ (flushed s t q).fld F.QC_STAT.COUNT t q = 0 := by
  refine ⟨?_, ?_, count_putQ ..⟩
  · rw [flushed, fld_putQ, fld_queueDiscard_set]
  · rw [flushed, res_putQ, fld_setFld_queueReg _ F.QC_CMD.DISCARD F.QC_STAT.RES, fld_setFld_of_lt _ F.QC_STAT.RES t q (by decide)]

theorem flushed_only (s : State) (t q : Nat) : QueuesOnly s (flushed s t q) :=
  (((QueuesOnly.refl s).setFld ..).setFld ..).putQ ..

theorem flushed_q (s : State) (t q : Nat) : (flushed s t q).q t q = { s.q t q with rel := [], marks := [], cmdBusy := true } :=
  q_putQ_same ..

/-! ### TRUNCATE (R134, log entry 16) -/

theorem runList_length (t q cap n p : Nat) (s : State) : (runList t q cap p n s).1.length = n := by
  induction n generalizing p s with
  | zero => rfl
  | succ n ih => rw [runList, List.length_cons, ih]

theorem runsList_length (t q cap k : Nat) (rs : List (Nat × Nat)) (s : State) :
    (runsList t q cap k rs s).1.length = Nat.min k (runWords rs) := by
  induction rs generalizing k s with
  | nil => exact (Nat.min_zero k).symm
  | cons r rs ih =>
    rw [runsList, List.length_append, runList_length, ih, runWords]
    simp only [Nat.min_def]
    split_ifs <;> omega

theorem runWords_append (rs rs' : List (Nat × Nat)) : runWords (rs ++ rs') = runWords rs + runWords rs' := by
  induction rs with
  | nil => exact (Nat.zero_add _).symm
  | cons r rs ih => rw [List.cons_append, runWords, ih, runWords, Nat.add_assoc]

theorem runWords_marks (ms : List Mark) : runWords (ms.map fun m => (m.off, m.n)) = markWords ms := by
  induction ms with
  | nil => rfl
  | cons m ms ih => rw [List.map_cons, runWords, ih, markWords]

theorem runWords_relayRuns (p k : Nat) (rs : List (Nat × Nat)) : runWords (relayRuns p k rs).2 = Nat.min k (runWords rs) := by
  induction rs generalizing p k with
  | nil => cases k <;> rfl
  | cons r rs ih =>
    cases k with
    | zero => exact (Nat.zero_min _).symm
    | succ k =>
      simp only [relayRuns, runWords, ih, Nat.min_def]
      split_ifs <;> omega

theorem markWords_relayMarks (p k : Nat) (ms : List Mark) : markWords (relayMarks p k ms) = Nat.min k (markWords ms) := by
  induction ms generalizing p k with
  | nil => cases k <;> rfl
  | cons m ms ih =>
    cases k with
    | zero => exact (Nat.zero_min _).symm
    | succ k =>
      simp only [relayMarks, markWords, ih, Nat.min_def]
      split_ifs <;> omega

theorem exec_truncate (s : State) (t : Tile) (q : QueueIx) (len : BitVec 16) :
    exec (.truncate t q len) s = .next (truncateQueue s t q len.toNat) := rfl

/-- The words that a TRUNCATE keeps, oldest first, and the state after their reads. -/
def keptWords (s : State) (t q len : Nat) : List Word × State :=
  runsList t q (s.qCap t q) (12 * len) ((s.q t q).rel ++ (s.q t q).marks.map fun m => (m.off, m.n)) s

theorem keptWords_length (s : State) (t q len : Nat) : (keptWords s t q len).1.length = Nat.min (12 * len) (s.q t q).count := by
  rw [keptWords, runsList_length, runWords_append, runWords_marks, QueueSt.count]

/-- The state after a TRUNCATE that runs: the words kept are laid out again from the start of the range. -/
def truncated (s : State) (t q len : Nat) : State :=
  let kept := keptWords s t q len
  let relKeep := Nat.min (12 * len) (s.q t q).released
  (storeWords t q (12 * len) 0 kept.1 (((kept.2.setFld F.QC_STAT.RES t q 0).setFld F.QC_CMD.DISCARD t q
    ((s.q t q).count - kept.1.length)).setFld F.QC_SIZE.LEN t q len)).putQ t q
    { s.q t q with
      rel := (relayRuns 0 relKeep (s.q t q).rel).2
      marks := relayMarks relKeep (kept.1.length - relKeep) (s.q t q).marks
      wr := kept.1.length % Nat.max (12 * len) 1
      cmdBusy := true }

theorem truncateQueue_open {s : State} {t : Nat} {q : QueueIx} {len : Nat} (h : CmdOpen s t q)
    (hfits : RangeFits s t q (s.fld F.QC_SIZE.BASE t q) len) : truncateQueue s t q len = truncated s t q len := by
  have hlen : ¬32768 < len := by obtain ⟨hlies, -⟩ := hfits; omega
  rw [truncateQueue, (cmdAllowed_iff s t q).2 h, if_neg (by decide)]
  simp only [if_neg hlen, rangeCheck_fits hfits]
  rfl

theorem truncateQueue_running {s : State} {t q : Nat} (len : Nat) (h : ¬CmdOpen s t q) :
    truncateQueue s t q len = s.setFld F.QC_STAT.RES t q 4 := by
  rw [truncateQueue, Bool.eq_false_iff.2 (mt (cmdAllowed_iff s t q).1 h), if_pos (by decide)]

theorem fld_storeWords (t q cap p : Nat) (ws : List Word) (s : State) (f : Fld) (u i : Nat) :
    (storeWords t q cap p ws s).fld f u i = s.fld f u i := fld_of_regs (storeWords_regs_queues t q cap ws p s).1 ..

theorem truncated_flds (s : State) (t q : Nat) {len : Nat} (hlen : len < 2 ^ 16) :
    (truncated s t q len).fld F.QC_CMD.DISCARD t q = ((s.q t q).count - 12 * len) % 2 ^ 19 ∧
    (truncated s t q len).fld F.QC_SIZE.LEN t q = len ∧ (truncated s t q len).fld F.QC_STAT.RES t q = 0 := by
  have hdiscard : (s.q t q).count - (keptWords s t q len).1.length = (s.q t q).count - 12 * len := by
    rw [keptWords_length]
    simp only [Nat.min_def]
    split_ifs <;> omega
  refine ⟨?_, ?_, ?_⟩
  · rw [truncated, fld_putQ, fld_storeWords, fld_setFld_queueReg _ F.QC_SIZE.LEN F.QC_CMD.DISCARD, fld_queueDiscard_set, hdiscard]
  · rw [truncated, fld_putQ, fld_storeWords, fld_setFld_of_lt _ F.QC_SIZE.LEN t q hlen]
  · rw [truncated, res_putQ, fld_storeWords, fld_setFld_queueReg _ F.QC_SIZE.LEN F.QC_STAT.RES,
      fld_setFld_queueReg _ F.QC_CMD.DISCARD F.QC_STAT.RES, fld_setFld_of_lt _ F.QC_STAT.RES t q (by decide)]

theorem truncated_count (s : State) (t q len : Nat) :
    ((truncated s t q len).q t q).count = Nat.min (s.q t q).count (12 * len) := by
  rw [truncated, q_putQ_same, QueueSt.count, runWords_relayRuns, markWords_relayMarks, keptWords_length, QueueSt.released,
    QueueSt.count]
  simp only [Nat.min_def]
  split_ifs <;> omega

theorem truncated_cmdBusy (s : State) (t q len : Nat) : ((truncated s t q len).q t q).cmdBusy = true := by
  rw [truncated, q_putQ_same]

/-! ### The end of a command (R134) -/

/-- The state in which no command runs on the queue, before the pushes that wait go in. -/
def commandEnded (s : State) (t q : Nat) : State := s.setQ t q { s.q t q with cmdBusy := false }

theorem exec_queueCommandDone (s : State) (t : Tile) (q : QueueIx) :
    exec (.queueCommandDone t q) s = .next ((commandEnded s t q).drain t q) := rfl

theorem commandEnded_q (s : State) (t q : Nat) : (commandEnded s t q).q t q = { s.q t q with cmdBusy := false } := q_setQ_same ..

/-! ### The polling reader (R132) -/

theorem popRun_pos {cap : Nat} {rs : List (Nat × Nat)} (h : ∀ r ∈ rs, 0 < r.2) : ∀ r ∈ popRun cap rs, 0 < r.2 := by
  cases rs with
  | nil => exact h
  | cons r rs =>
    obtain ⟨hr, hrs⟩ := List.forall_mem_cons.1 h
    rw [popRun]
    split
    · exact hrs
    · exact List.forall_mem_cons.2 ⟨by dsimp only; omega, hrs⟩

theorem runWords_popRun {cap : Nat} {rs : List (Nat × Nat)} (h : ∀ r ∈ rs, 0 < r.2) (hne : 0 < runWords rs) :
    runWords (popRun cap rs) + 1 = runWords rs := by
  cases rs with
  | nil => exact absurd hne (Nat.lt_irrefl 0)
  | cons r rs =>
    obtain ⟨hr, -⟩ := List.forall_mem_cons.1 h
    rw [popRun]
    split <;> simp only [runWords] <;> omega

theorem dropOldest_released {v : QueueSt} (cap : Nat) (h : 0 < v.released) :
    v.dropOldest cap = { v with rel := popRun cap v.rel } := by
  unfold QueueSt.dropOldest
  split
  · rfl
  · next hrel => simp [QueueSt.released, hrel, runWords] at h

/-- The oldest released words leave one by one. -/
theorem count_dropN {v : QueueSt} (cap : Nat) {n : Nat} (hpos : ∀ r ∈ v.rel, 0 < r.2) (hn : n ≤ v.released) :
    (v.dropN cap n).count + n = v.count := by
  induction n generalizing v with
  | zero => rfl
  | succ n ih =>
    have hsome : 0 < v.released := by omega
    have hpop : runWords (popRun cap v.rel) + 1 = v.released := runWords_popRun hpos hsome
    have hrest := ih (v := { v with rel := popRun cap v.rel }) (popRun_pos hpos) (by rw [QueueSt.released]; dsimp only; omega)
    rw [QueueSt.dropN, dropOldest_released cap hsome]
    simp only [QueueSt.count] at hrest ⊢
    rw [QueueSt.released] at hpop
    omega

section
variable {s : State} {t : Tile} {q : QueueIx} {v : Word} {n : Nat}

theorem exec_qcRdWrite : exec (.qcRdWrite t q v) s = .next (writeQcRd s t q v) := rfl

theorem writeQcRd_out (hcap : s.qCap t q ≠ 0) (hdir : s.fld F.QC_CFG.DIR t q = 1) (hport : s.fld F.QC_CFG.PORT t q = 0)
    (hn : n = (bitsOf v.toNat 18 0 + s.qCap t q - (s.q t q).rd % s.qCap t q) % s.qCap t q) :
    writeQcRd s t q v = if (s.q t q).released < n then s.setFld F.QC_STAT.RES t q 5
      else (s.setFld F.QC_STAT.RES t q 0).putQ t q ((s.q t q).dropN (s.qCap t q) n) := by
  have htaken : ¬(s.qCap t q = 0 ∨ s.on F.QC_CFG.DIR t q = false ∨ s.fld F.QC_CFG.PORT t q ≠ 0) := by
    simp [hcap, State.on, hdir, hport]
  rw [writeQcRd, if_neg htaken, ← hn]

end

end Sys2Proof.Laws
end
section
/-! SUPPORT. The lane groups of a tile (R133): the group rules, and the write of QC_LANE. -/

namespace Sys2Proof.Laws

open Sys2Proof Sys2Proof.Machine Sys2Proof.Safety

/-! ### Fields of one bit -/

theorem fld_single_lt (s : State) {f : Fld} (h : f.hi = f.lo) (u i : Nat) : s.fld f u i < 2 := by
  have hlt : s.fld f u i < 2 ^ (f.hi + 1 - f.lo) := bitsOf_lt _ _ _
  rw [h, Nat.add_sub_cancel_left] at hlt
  exact hlt

theorem on_eq_iff (s : State) {f : Fld} (h : f.hi = f.lo) (u i : Nat) (b : Bool) : s.on f u i = b ↔ s.fld f u i = flag b := by
  have hlt := fld_single_lt s h u i
  rw [State.on]
  cases b
  · rw [beq_eq_false_iff_ne, flag, if_neg Bool.false_ne_true]; omega
  · rw [beq_iff_eq]; rfl

theorem on_eq_on_iff (s : State) {f : Fld} (h : f.hi = f.lo) (u i j : Nat) :
    s.on f u i = s.on f u j ↔ s.fld f u i = s.fld f u j := by
  have hlt := fld_single_lt s h u i
  have hlt' := fld_single_lt s h u j
  rw [on_eq_iff s h, State.on]
  simp only [flag, beq_iff_eq]
  split_ifs <;> omega

theorem on_iff (s : State) (f : Fld) (u i : Nat) : s.on f u i = true ↔ s.fld f u i = 1 := beq_iff_eq

theorem bitsOf_toNat_single (v : Word) (i : Nat) : bitsOf v.toNat i i = 1 ↔ v.getLsbD i = true := by
  rw [bitsOf_single_eq_one, bitOf_eq_testBit, BitVec.testBit_toNat]

/-! ### The rules of a group -/

/-- The 2^k queues from `q0` on may form a lane group; `out` is 1 for a group the lane sends from. -/
def GroupRules (s : State) (t q0 k out : Nat) : Prop :=
  q0 % 2 ^ k = 0 ∧ q0 + 2 ^ k ≤ 16 ∧ ∀ j, j < 2 ^ k →
    s.fld F.QC_SIZE.LEN t (j + q0) ≠ 0 ∧ s.fld F.QC_CFG.PORT t (j + q0) = 1 ∧ s.fld F.QC_CFG.DIR t (j + q0) = out ∧
    (out = 0 → s.fld F.QC_CFG.MODE t (j + q0) = s.fld F.QC_CFG.MODE t q0 ∧
      s.fld F.QC_CFG.D t (j + q0) = s.fld F.QC_CFG.D t q0 ∧ s.fld F.QC_CFG.HDR t (j + q0) = s.fld F.QC_CFG.HDR t q0)

theorem groupOk_iff (s : State) (t q0 k : Nat) (outbound : Bool) :
    groupOk s t q0 k outbound = true ↔ GroupRules s t q0 k (flag outbound) := by
  simp only [groupOk, GroupRules, Bool.and_eq_true, Bool.or_eq_true, beq_iff_eq, bne_iff_ne, decide_eq_true_eq, List.all_eq_true,
    List.mem_map, List.mem_range, forall_exists_index, and_imp, forall_apply_eq_imp_iff₂, on_eq_iff s (f := F.QC_CFG.DIR) rfl,
    on_eq_on_iff s (f := F.QC_CFG.HDR) rfl, and_assoc]
  refine and_congr_right fun _ => and_congr_right fun _ => ?_
  cases outbound
  · simp only [flag, Bool.false_eq_true, if_false, false_or, forall_const]
    constructor
    · rintro ⟨hrules, hsame⟩ j hj
      obtain ⟨hlen, hport, hdir⟩ := hrules j hj
      exact ⟨hlen, hport, hdir, hsame j hj⟩
    · intro h
      refine ⟨fun j hj => ?_, fun j hj => ?_⟩ <;> obtain ⟨hlen, hport, hdir, hsame⟩ := h j hj
      · exact ⟨hlen, hport, hdir⟩
      · exact hsame
  · simp only [flag, if_true, true_or, and_true, Nat.one_ne_zero, false_implies]

/-- The group rules read the sizes and configurations of the tile's queues only. -/
theorem groupRules_congr {s u : State} {t : Nat}
    (h : ∀ f : Fld, f.reg = .QC_SIZE ∨ f.reg = .QC_CFG → ∀ q < 16, u.fld f t q = s.fld f t q) (q0 k out : Nat) :
    GroupRules u t q0 k out ↔ GroupRules s t q0 k out := by
  unfold GroupRules
  refine and_congr_right fun _ => and_congr_right fun hend => forall_congr' fun j => imp_congr_right fun hj => ?_
  have hq : j + q0 < 16 := by omega
  have hq0 : q0 < 16 := by omega
  rw [h F.QC_SIZE.LEN (.inl rfl) _ hq, h F.QC_CFG.PORT (.inr rfl) _ hq, h F.QC_CFG.DIR (.inr rfl) _ hq,
    h F.QC_CFG.MODE (.inr rfl) _ hq, h F.QC_CFG.MODE (.inr rfl) _ hq0, h F.QC_CFG.D (.inr rfl) _ hq,
    h F.QC_CFG.D (.inr rfl) _ hq0, h F.QC_CFG.HDR (.inr rfl) _ hq, h F.QC_CFG.HDR (.inr rfl) _ hq0]

/-! ### The fields of QC_LANE as written -/

theorem writeField_rwq {f : Fld} (h : f.acc ≠ .RWQ) (u i w : Nat) (lock : Bool) (s : State) :
    (writeField u i w lock s f).rwq = s.rwq := by
  unfold writeField
  cases hacc : f.acc
  case RWQ => exact absurd hacc h
  case RW => dsimp only; split <;> rfl
  case RWL => dsimp only; split <;> rfl
  all_goals rfl

theorem writeFields_rwq {fs : List Fld} (h : ∀ f ∈ fs, f.acc ≠ .RWQ) (u i w : Nat) (lock : Bool) (s : State) :
    (writeFields u i w lock fs s).rwq = s.rwq := by
  induction fs generalizing s with
  | nil => rfl
  | cons f fs ih =>
    obtain ⟨hf, hfs⟩ := List.forall_mem_cons.1 h
    rw [writeFields, ih hfs, writeField_rwq hf]

/-- The state in which the fields of QC_LANE hold what was written. -/
def laneWritten (s : State) (t : Nat) (v : Word) : State := s.writeDefault .QC_LANE t 0 v

theorem laneWritten_only (s : State) (t : Nat) (v : Word) :
    laneWritten s t v = { s with regs := (laneWritten s t v).regs } := by
  have hrwq : (laneWritten s t v).rwq = s.rwq := writeFields_rwq (by decide) ..
  have h := writeDefault_only s .QC_LANE t 0 v
  change laneWritten s t v = { s with regs := (laneWritten s t v).regs, rwq := (laneWritten s t v).rwq } at h
  rwa [hrwq] at h

theorem laneWritten_keeps (s : State) (t : Nat) (v : Word) : RegsKept s.regs (laneWritten s t v).regs [regAddr .QC_LANE t 0] :=
  writeDefault_keepsRegs s .QC_LANE (by decide) t 0 v

/-- A group field takes a value that is not reserved. -/
theorem fld_laneWritten (s : State) (t : Nat) (v : Word) {f : Fld} (hf : f ∈ Reg.fields .QC_LANE) (hacc : f.acc = .RW)
    (hres : f.isReserved (bitsOf v.toNat f.hi f.lo) = false) : (laneWritten s t v).fld f t = bitsOf v.toNat f.hi f.lo := by
  have h := writeDefault_effect s .QC_LANE (by decide) t 0 v.toNat f hf
  rw [BitVec.ofNat_toNat, BitVec.setWidth_eq] at h
  simpa only [laneWritten, FieldEffect, hacc, hres, Bool.false_eq_true, if_false] using h

theorem isReserved_groupSize {n : Nat} (h : n ≤ 4) : F.QC_LANE.RX_K.isReserved n = false ∧ F.QC_LANE.TX_K.isReserved n = false := by
  simp [Fld.isReserved, F.QC_LANE.RX_K, F.QC_LANE.TX_K]; omega

theorem laneWritten_flds (s : State) (t : Nat) {v : Word} (hrx : bitsOf v.toNat 34 32 ≤ 4) (htx : bitsOf v.toNat 26 24 ≤ 4) :
    (laneWritten s t v).fld F.QC_LANE.RX_Q t = bitsOf v.toNat 38 35 ∧ (laneWritten s t v).fld F.QC_LANE.RX_K t = bitsOf v.toNat 34 32 ∧
    (laneWritten s t v).fld F.QC_LANE.TX_Q t = bitsOf v.toNat 30 27 ∧ (laneWritten s t v).fld F.QC_LANE.TX_K t = bitsOf v.toNat 26 24 ∧
    (laneWritten s t v).fld F.QC_LANE.RX_EN t = bitsOf v.toNat 39 39 ∧ (laneWritten s t v).fld F.QC_LANE.TX_EN t = bitsOf v.toNat 31 31 :=
  ⟨fld_laneWritten s t v (by decide) rfl rfl, fld_laneWritten s t v (by decide) rfl (isReserved_groupSize hrx).1,
    fld_laneWritten s t v (by decide) rfl rfl, fld_laneWritten s t v (by decide) rfl (isReserved_groupSize htx).2,
    fld_laneWritten s t v (by decide) rfl rfl, fld_laneWritten s t v (by decide) rfl rfl⟩

theorem groupRules_laneWritten (s : State) (t : Nat) (v : Word) (q0 k out : Nat) :
    GroupRules (laneWritten s t v) t q0 k out ↔ GroupRules s t q0 k out := by
  refine groupRules_congr (fun f hf q hq => fld_of_regsKept (laneWritten_keeps s t v) f t q ?_) q0 k out
  rw [List.mem_singleton]
  rcases hf with hf | hf <;> rw [hf] <;> exact queueReg_ne_past hq t

/-! ### The judgement of the groups -/

/-- A field of QC_LANE set where a condition holds. -/
def laneSetIf (t : Nat) (c : Bool) (f : Fld) (v : Nat) (s : State) : State := if c then s.setFld f t 0 v else s

theorem laneSetIf_only (t : Nat) (c : Bool) (f : Fld) (v : Nat) {s u : State} (h : ∃ m, u = { s with regs := m }) :
    ∃ m, laneSetIf t c f v u = { s with regs := m } := by
  obtain ⟨m, rfl⟩ := h
  unfold laneSetIf
  split
  · exact ⟨_, rfl⟩
  · exact ⟨m, rfl⟩

theorem laneSetIf_keeps {m : List (Nat × Word)} {t : Nat} {u : State} (h : RegsKept m u.regs [regAddr .QC_LANE t 0]) (c : Bool)
    {f : Fld} (hf : f.reg = .QC_LANE) (v : Nat) : RegsKept m (laneSetIf t c f v u).regs [regAddr .QC_LANE t 0] := by
  unfold laneSetIf
  split
  · exact h.setFld f t 0 v (by rw [hf]; exact List.mem_singleton_self _)
  · exact h

theorem fld_laneSetIf_apart (t : Nat) (c : Bool) (v : Nat) (s : State) {f g : Fld} (hr : g.reg = f.reg := by rfl)
    (hd : FldsApart f g := by decide) (hf : f.lo ≤ f.hi := by decide) (hf40 : f.hi < 40 := by decide)
    (hg : g.lo ≤ g.hi := by decide) : (laneSetIf t c f v s).fld g t = s.fld g t := by
  unfold laneSetIf
  split
  · exact State.fld_setFld_apart s f g t 0 v hr hf hf40 hg hd
  · rfl

theorem fld_laneSetIf_same (t : Nat) (c : Bool) {v : Nat} (s : State) {f : Fld} (h : f.hi = f.lo) (h40 : f.hi < 40) (hv : v < 2) :
    (laneSetIf t c f v s).fld f t = if c then v else s.fld f t := by
  unfold laneSetIf
  split
  · rw [State.fld_setFld_same s f t 0 v (Nat.le_of_eq h.symm) h40, h, Nat.add_sub_cancel_left]
    exact Nat.mod_eq_of_lt hv
  · rfl

/-- The state in which a refused enable is 0 again, with CFG_ERR. -/
def laneJudged (s : State) (t : Nat) (badRx badTx : Bool) : State :=
  laneSetIf t (badRx || badTx) F.QC_LANE.CFG_ERR 1 (laneSetIf t badTx F.QC_LANE.TX_EN 0 (laneSetIf t badRx F.QC_LANE.RX_EN 0 s))

theorem laneJudged_only (s : State) (t : Nat) (badRx badTx : Bool) :
    ∃ m, laneJudged s t badRx badTx = { s with regs := m } :=
  laneSetIf_only _ _ _ _ (laneSetIf_only _ _ _ _ (laneSetIf_only _ _ _ _ ⟨s.regs, rfl⟩))

theorem laneJudged_keeps {m : List (Nat × Word)} {t : Nat} {u : State} (h : RegsKept m u.regs [regAddr .QC_LANE t 0])
    (badRx badTx : Bool) : RegsKept m (laneJudged u t badRx badTx).regs [regAddr .QC_LANE t 0] :=
  laneSetIf_keeps (laneSetIf_keeps (laneSetIf_keeps h _ rfl _) _ rfl _) _ rfl _

theorem laneJudged_groups (s : State) (t : Nat) (badRx badTx : Bool) :
    ∀ f ∈ [F.QC_LANE.RX_Q, F.QC_LANE.RX_K, F.QC_LANE.TX_Q, F.QC_LANE.TX_K], (laneJudged s t badRx badTx).fld f t = s.fld f t := by
  intro f hf
  simp only [List.mem_cons, List.not_mem_nil, or_false] at hf
  rcases hf with rfl | rfl | rfl | rfl <;>
    rw [laneJudged, fld_laneSetIf_apart, fld_laneSetIf_apart, fld_laneSetIf_apart]

theorem laneJudged_enables (s : State) (t : Nat) (badRx badTx : Bool) :
    (laneJudged s t badRx badTx).fld F.QC_LANE.RX_EN t = (if badRx then 0 else s.fld F.QC_LANE.RX_EN t) ∧
    (laneJudged s t badRx badTx).fld F.QC_LANE.TX_EN t = (if badTx then 0 else s.fld F.QC_LANE.TX_EN t) := by
  constructor
  · rw [laneJudged, fld_laneSetIf_apart, fld_laneSetIf_apart, fld_laneSetIf_same _ _ _ rfl (by decide) (by decide)]
  · rw [laneJudged, fld_laneSetIf_apart, fld_laneSetIf_same _ _ _ rfl (by decide) (by decide), fld_laneSetIf_apart]

theorem laneJudged_cfgErr (s : State) (t : Nat) {badRx badTx : Bool} (h : badRx = true ∨ badTx = true) :
    (laneJudged s t badRx badTx).fld F.QC_LANE.CFG_ERR t = 1 := by
  rw [laneJudged, fld_laneSetIf_same _ _ _ rfl (by decide) (by decide), if_pos (Bool.or_eq_true .. ▸ h)]

/-! ### The write of QC_LANE -/

/-- An enable that was written is refused where its group breaks a rule. -/
def laneBad (s : State) (t : Nat) (en q k : Fld) (outbound : Bool) : Bool :=
  s.on en t && !groupOk s t (s.fld q t) (s.fld k t) outbound

theorem laneBad_iff {s : State} {t i : Nat} {v : Word} {en q k : Fld} {outbound : Bool}
    (hen : (laneWritten s t v).fld en t = bitsOf v.toNat i i) : laneBad (laneWritten s t v) t en q k outbound = true ↔
      v.getLsbD i = true ∧ ¬GroupRules s t ((laneWritten s t v).fld q t) ((laneWritten s t v).fld k t) (flag outbound) := by
  rw [laneBad, Bool.and_eq_true, on_iff, hen, bitsOf_toNat_single, Bool.not_eq_true', ← Bool.not_eq_true, groupOk_iff,
    groupRules_laneWritten]

/-- An enable that is cleared where its group is refused stands where it was written and the group keeps the rules. -/
theorem enable_kept_iff {v : Word} {i : Nat} {bad : Bool} {rules : Prop} (hbad : bad = true ↔ v.getLsbD i = true ∧ ¬rules) :
    (if bad then 0 else bitsOf v.toNat i i) = 1 ↔ v.getLsbD i = true ∧ rules := by
  split
  · next h => exact ⟨fun he => absurd he Nat.zero_ne_one, fun hok => absurd hok.2 (hbad.1 h).2⟩
  · next h =>
    rw [bitsOf_toNat_single]
    exact ⟨fun hen => ⟨hen, not_not.1 fun hn => h (hbad.2 ⟨hen, hn⟩)⟩, And.left⟩

/-- The lane's word counts restart at a rise of their enable. -/
def laneCounts (s u : State) (t : Nat) : TileSt :=
  let v := mget {} u.tiles t
  let v1 := if u.on F.QC_LANE.RX_EN t && !s.on F.QC_LANE.RX_EN t then { v with laneRx := 0 } else v
  if u.on F.QC_LANE.TX_EN t && !s.on F.QC_LANE.TX_EN t then { v1 with laneTx := 0 } else v1

theorem laneCounts_rx {s u : State} {t : Nat} (h0 : s.fld F.QC_LANE.RX_EN t = 0) (h1 : u.fld F.QC_LANE.RX_EN t = 1) :
    (laneCounts s u t).laneRx = 0 := by
  have hrise : (u.on F.QC_LANE.RX_EN t && !s.on F.QC_LANE.RX_EN t) = true := by simp [State.on, h0, h1]
  unfold laneCounts
  dsimp only
  rw [if_pos hrise]
  split <;> rfl

theorem laneCounts_tx {s u : State} {t : Nat} (h0 : s.fld F.QC_LANE.TX_EN t = 0) (h1 : u.fld F.QC_LANE.TX_EN t = 1) :
    (laneCounts s u t).laneTx = 0 := by
  have hrise : (u.on F.QC_LANE.TX_EN t && !s.on F.QC_LANE.TX_EN t) = true := by simp [State.on, h0, h1]
  unfold laneCounts
  dsimp only
  rw [if_pos hrise]

/-- The state after a write of QC_LANE, before the word counts. -/
def laneTaken (s : State) (t : Nat) (v : Word) : State :=
  laneJudged (laneWritten s t v) t
    (laneBad (laneWritten s t v) t F.QC_LANE.RX_EN F.QC_LANE.RX_Q F.QC_LANE.RX_K false)
    (laneBad (laneWritten s t v) t F.QC_LANE.TX_EN F.QC_LANE.TX_Q F.QC_LANE.TX_K true)

theorem exec_qcLaneWrite (s : State) (t : Tile) (v : Word) : exec (.qcLaneWrite t v) s = .next (writeQcLane s t v) := rfl

theorem writeQcLane_ignored {s : State} {t : Nat} (h : 12 ≤ t % 16) (v : Word) : writeQcLane s t v = s := if_pos h

/-- The state with the tiles replaced. -/
def withTiles (s : State) (x : List (Nat × TileSt)) : State := { s with tiles := x }

theorem withTiles_regs (s : State) (x : List (Nat × TileSt)) : (withTiles s x).regs = s.regs := (rfl)

theorem withTiles_tiles (s : State) (x : List (Nat × TileSt)) : (withTiles s x).tiles = x := (rfl)

theorem withTiles_only {s u : State} (h : ∃ m, u = { s with regs := m }) (x : List (Nat × TileSt)) :
    withTiles u x = { s with regs := (withTiles u x).regs, tiles := (withTiles u x).tiles } := by
  obtain ⟨m, rfl⟩ := h
  rfl

/-- The state after a write of QC_LANE. -/
def laneCounted (s : State) (t : Nat) (v : Word) : State :=
  withTiles (laneTaken s t v) (mset {} (laneTaken s t v).tiles t (laneCounts s (laneTaken s t v) t))

theorem fld_laneCounted (s : State) (t : Nat) (v : Word) (f : Fld) (u i : Nat) :
    (laneCounted s t v).fld f u i = (laneTaken s t v).fld f u i := fld_of_regs (withTiles_regs ..) f u i

theorem laneCounted_tile (s : State) (t : Nat) (v : Word) :
    mget {} (laneCounted s t v).tiles t = laneCounts s (laneTaken s t v) t := by
  rw [laneCounted, withTiles_tiles, mget_mset_same]

theorem writeQcLane_taken {s : State} {t : Nat} (h : t % 16 < 12) (v : Word) : writeQcLane s t v = laneCounted s t v :=
  if_neg (Nat.not_le.2 h)

theorem laneTaken_only (s : State) (t : Nat) (v : Word) : ∃ m, laneTaken s t v = { s with regs := m } := by
  obtain ⟨m, hm⟩ := laneJudged_only (laneWritten s t v) t
    (laneBad (laneWritten s t v) t F.QC_LANE.RX_EN F.QC_LANE.RX_Q F.QC_LANE.RX_K false)
    (laneBad (laneWritten s t v) t F.QC_LANE.TX_EN F.QC_LANE.TX_Q F.QC_LANE.TX_K true)
  exact ⟨m, by rw [laneTaken, hm, laneWritten_only]⟩

theorem laneCounted_only (s : State) (t : Nat) (v : Word) :
    laneCounted s t v = { s with regs := (laneCounted s t v).regs, tiles := (laneCounted s t v).tiles } :=
  withTiles_only (laneTaken_only s t v) _

theorem laneCounted_keeps (s : State) (t : Nat) (v : Word) : KeepsRegs s (laneCounted s t v) [regAddr .QC_LANE t 0] := by
  rw [keepsRegs_iff, laneCounted, withTiles_regs]
  exact laneJudged_keeps (laneWritten_keeps s t v) _ _

section
variable {s : State} {t : Nat} {v : Word} (hrx : bitsOf v.toNat 34 32 ≤ 4) (htx : bitsOf v.toNat 26 24 ≤ 4)
include hrx htx

theorem laneTaken_groups :
    (laneTaken s t v).fld F.QC_LANE.RX_Q t = bitsOf v.toNat 38 35 ∧ (laneTaken s t v).fld F.QC_LANE.RX_K t = bitsOf v.toNat 34 32 ∧
    (laneTaken s t v).fld F.QC_LANE.TX_Q t = bitsOf v.toNat 30 27 ∧ (laneTaken s t v).fld F.QC_LANE.TX_K t = bitsOf v.toNat 26 24 := by
  obtain ⟨hrxq, hrxk, htxq, htxk, -, -⟩ := laneWritten_flds s t hrx htx
  refine ⟨?_, ?_, ?_, ?_⟩ <;> rw [laneTaken, laneJudged_groups _ _ _ _ _ (by decide)] <;> assumption

theorem laneBad_rx : laneBad (laneWritten s t v) t F.QC_LANE.RX_EN F.QC_LANE.RX_Q F.QC_LANE.RX_K false = true ↔
    v.getLsbD 39 = true ∧ ¬GroupRules s t (bitsOf v.toNat 38 35) (bitsOf v.toNat 34 32) 0 := by
  obtain ⟨hrxq, hrxk, -, -, hrxen, -⟩ := laneWritten_flds s t hrx htx
  rw [laneBad_iff hrxen, hrxq, hrxk]
  rfl

theorem laneBad_tx : laneBad (laneWritten s t v) t F.QC_LANE.TX_EN F.QC_LANE.TX_Q F.QC_LANE.TX_K true = true ↔
    v.getLsbD 31 = true ∧ ¬GroupRules s t (bitsOf v.toNat 30 27) (bitsOf v.toNat 26 24) 1 := by
  obtain ⟨-, -, htxq, htxk, -, htxen⟩ := laneWritten_flds s t hrx htx
  rw [laneBad_iff htxen, htxq, htxk]
  rfl

theorem laneTaken_rxEn : (laneTaken s t v).fld F.QC_LANE.RX_EN t = 1 ↔
    v.getLsbD 39 = true ∧ GroupRules s t (bitsOf v.toNat 38 35) (bitsOf v.toNat 34 32) 0 := by
  obtain ⟨-, -, -, -, hrxen, -⟩ := laneWritten_flds s t hrx htx
  rw [laneTaken, (laneJudged_enables ..).1, hrxen]
  exact enable_kept_iff (laneBad_rx hrx htx)

theorem laneTaken_txEn : (laneTaken s t v).fld F.QC_LANE.TX_EN t = 1 ↔
    v.getLsbD 31 = true ∧ GroupRules s t (bitsOf v.toNat 30 27) (bitsOf v.toNat 26 24) 1 := by
  obtain ⟨-, -, -, -, -, htxen⟩ := laneWritten_flds s t hrx htx
  rw [laneTaken, (laneJudged_enables ..).2, htxen]
  exact enable_kept_iff (laneBad_tx hrx htx)

theorem laneTaken_cfgErr (h : (v.getLsbD 39 = true ∧ ¬GroupRules s t (bitsOf v.toNat 38 35) (bitsOf v.toNat 34 32) 0) ∨
    (v.getLsbD 31 = true ∧ ¬GroupRules s t (bitsOf v.toNat 30 27) (bitsOf v.toNat 26 24) 1)) :
    (laneTaken s t v).fld F.QC_LANE.CFG_ERR t = 1 :=
  laneJudged_cfgErr _ _ (h.imp (laneBad_rx hrx htx).2 (laneBad_tx hrx htx).2)

end

end Sys2Proof.Laws
end
section

open Sys2Proof Sys2Proof.Machine Sys2Proof.Safety Sys2Proof.Laws

/-- Settles O12: each command by its cases; the pushes that go in after a range is taken or a command ends leave the range, the
answer and the command flag alone. -/
theorem queueRangesAndCommands : Obligations.QueueRangesAndCommands := by
  unfold Obligations.QueueRangesAndCommands
  intro s t q fits open_
  have hfits : ∀ {base len : Nat}, fits base len → RangeFits s t q base len := id
  have hopen : open_ ↔ CmdOpen s t q := Iff.rfl
  refine ⟨fun v hcount hmarks hlen h => ?sizeTaken, fun v h => ?sizeNotEmpty, fun v hcount hmarks hlen h => ?sizePast,
    fun h => ?flush, fun len h hrange => ?truncate, fun h => ?running, ?done, fun v n hcap hdir hport hn => ?read,
    fun v h => ?laneIgnored, fun v ht hrx htx => ?lane⟩
  case sizeTaken =>
    have hbase15 : bitsOf v.toNat 30 16 < 2 ^ 15 := bitsOf_lt _ _ _
    have hlen16 : bitsOf v.toNat 15 0 < 2 ^ 16 := bitsOf_lt _ _ _
    obtain ⟨hbase', hlen', hres', hcount'⟩ := rangeTaken_flds s t q hbase15 hlen16
    have hkept := drain_rangeKept q.isLt (rangeTaken s t q (bitsOf v.toNat 30 16) (bitsOf v.toNat 15 0)) (t := t.val)
    rw [exec_qcSizeWrite, writeQcSize_taken hcount hmarks hlen (hfits h)]
    refine ⟨_, rfl, hkept.base.trans hbase', hkept.len.trans hlen', hkept.res.trans hres', fun hwaiting => ?_⟩
    rw [drain_nil (by rw [rangeTaken_q]; exact hwaiting)]
    exact ⟨by rw [rangeTaken_q]; rfl, hcount', (rangeTaken_only ..).eq⟩
  case sizeNotEmpty => rw [exec_qcSizeWrite, writeQcSize_notEmpty h]
  case sizePast => rw [exec_qcSizeWrite, writeQcSize_past hcount hmarks hlen h]
  case flush =>
    obtain ⟨hdiscard, hres, hcount⟩ := flushed_flds s t q
    rw [exec_flush, flushQueue_open (hopen.1 h)]
    refine ⟨_, rfl, ?_, ?_, hdiscard, hres, hcount, (flushed_only s t q).eq⟩
    · rw [flushed_q]; rfl
    · rw [flushed_q]
  case truncate =>
    obtain ⟨hdiscard, hlen, hres⟩ := truncated_flds s t q len.isLt
    rw [exec_truncate, truncateQueue_open (hopen.1 h) (hfits hrange)]
    exact ⟨_, rfl, truncated_count .., truncated_cmdBusy .., hdiscard, hlen, hres⟩
  case running =>
    have hrun := mt hopen.2 h
    rw [exec_flush, flushQueue_running hrun]
    exact ⟨fun len => by rw [exec_truncate, truncateQueue_running _ hrun], rfl⟩
  case done =>
    have hkept := drain_rangeKept q.isLt (commandEnded s t q) (t := t.val)
    refine ⟨_, exec_queueCommandDone s t q, ?_, fun hwaiting => ?_⟩
    · rw [hkept.busy, commandEnded_q]
    · rw [drain_nil (by rw [commandEnded_q]; exact hwaiting), commandEnded]
  case read =>
    rw [exec_qcRdWrite, writeQcRd_out hcap hdir hport hn]
    refine ⟨fun hpast => by rw [if_pos hpast], fun hin => ?_⟩
    rw [if_neg (Nat.not_lt.2 hin)]
    refine ⟨_, rfl, ?_, q_putQ_same .., fun hpos => ?_, (((QueuesOnly.refl s).setFld ..).putQ ..).eq⟩
    · rw [res_putQ, fld_setFld_of_lt _ F.QC_STAT.RES _ _ (by decide)]
    · rw [q_putQ_same, count_dropN _ hpos hin]
  case laneIgnored => rw [exec_qcLaneWrite, writeQcLane_ignored h]
  case lane =>
    intro good rx tx
    obtain ⟨hrxq, hrxk, htxq, htxk⟩ := laneTaken_groups (s := s) (t := t) hrx htx
    rw [exec_qcLaneWrite, writeQcLane_taken ht v]
    refine ⟨_, rfl, ?_⟩
    simp only [fld_laneCounted, laneCounted_tile]
    exact ⟨hrxq, hrxk, htxq, htxk, laneTaken_rxEn hrx htx, laneTaken_txEn hrx htx, laneTaken_cfgErr hrx htx,
      laneCounts_rx, laneCounts_tx, laneCounted_keeps s t v, laneCounted_only s t v⟩

end

section
/-! SUPPORT. The states in which three statements on engines and resets fail: an engine reset whose DMA is still awaited (R177), a
processor map with an entry at its default under MTS (R193), and a watchdog whose processors an entry has stopped (R174, R388). -/

namespace Sys2Proof.Laws

open Sys2Proof Sys2Proof.Machine Sys2Proof.Safety

/-- Engine 0 is in its reset and one acknowledge of a DMA request is still outstanding. -/
def awaitedReset : State := { procs := [(0, { eRst := true, dmaRun := [(0, 0, 0, 1)] })] }

theorem exec_engineResetEnd_awaited : exec (.engineResetEnd 0) awaitedReset = .next awaitedReset := rfl

/-- Engine 0 runs, and the processor map holds an entry equal to its default. -/
def listedDefault : State := State.setPstate { procs := [(0, {})] } 0 1

theorem quiet_listedDefault : Quiet listedDefault 0 := by
  simp only [Quiet, Issuing]; decide

/-- The end of the issue cycle writes the processor back, which takes an entry at its default out of the map. -/
theorem mts_listedDefault_procs {t : State} (h : exec (.mts 0 1 0) listedDefault = .next t) : t.procs = [] := by
  injection h with h
  rw [← h]
  decide

/-- Region 1 is in RUN, its watchdog counts, and an entry into a low-power state has stopped its processors. -/
def stoppedWatched : State :=
  (State.setFld { pwr := [(1, { procOff := true })] } F.SUP_WDOG.EN 1 0 1).setFld F.SUP_WDOG.TIMEOUT 1 0 5

/-- WDOG of a watchdog that counts (R174). -/
theorem exec_wdog {s : State} {r : Region} (hcounts : wdogCounts s r = true) :
    exec (.wdog r) s = .next (wdogExpiry s r) := by
  show execWdog r s = _
  rw [execWdog, if_pos hcounts]

theorem gStage_wdogExpiry_stoppedWatched : (wdogExpiry stoppedWatched 1).gStage 1 = 2 := by
  decide +kernel

end Sys2Proof.Laws
end

section
open Sys2Proof Sys2Proof.Machine Sys2Proof.Safety Sys2Proof.Laws

/-- Refutes O20: while an acknowledge of a DMA request is outstanding, the end of an engine reset does not come, and the
processor keeps its state. -/
theorem not_processorsStartStopAndFault : ¬ Obligations.ProcessorsStartStopAndFault := by
  unfold Obligations.ProcessorsStartStopAndFault
  intro h
  obtain ⟨-, -, -, -, -, -, -, hend⟩ := h.1 awaitedReset 0 (by decide)
  obtain ⟨t, ht, hproc, -⟩ := hend rfl (by decide)
  rw [exec_engineResetEnd_awaited] at ht
  injection ht with ht
  subst ht
  exact absurd hproc (by decide)

/-- Refutes O21: the clause on MTS asks for the state of the register write itself, and the issue cycle also writes the processor
back into a map that lists its default. -/
theorem not_systemInstructionsWaitAndPost : ¬ Obligations.SystemInstructionsWaitAndPost := by
  unfold Obligations.SystemInstructionsWaitAndPost
  intro h
  obtain ⟨-, -, hmts, -⟩ := h listedDefault 0 quiet_listedDefault
  have hwritten := mts_listedDefault_procs (hmts 0 1 ⟨.SE_STATUS, 0, 0⟩ (by decide) (by decide))
  exact absurd hwritten (by decide)

/-- Refutes O47: a watchdog expires in a region in RUN whose processors an entry has stopped, which the statement leaves as it
is. -/
theorem not_resetsOfUnitsRunTheirSequence : ¬ Obligations.ResetsOfUnitsRunTheirSequence := by
  unfold Obligations.ResetsOfUnitsRunTheirSequence
  intro h
  obtain ⟨-, -, -, -, -, -, hwdog⟩ := h stoppedWatched rfl rfl
  have hkept := (hwdog 1).1 (by decide)
  rw [exec_wdog (by decide)] at hkept
  injection hkept with hkept
  have hstage : stoppedWatched.gStage 1 = 2 := hkept ▸ gStage_wdogExpiry_stoppedWatched
  exact absurd hstage (by decide)

end

section
/-! SUPPORT. The state and the registers of a processor (Tables 6.2, 6.12, 6.15): what is read after a write, and the issue of an
instruction by a processor that nothing else holds (R151, R168). -/

namespace Sys2Proof.Laws

open Sys2Proof Sys2Proof.Machine Sys2Proof.Safety

/-! ### The state beside the registers -/

@[simp] theorem proc_setProc_same (s : State) (p : Nat) (v : ProcSt) : (s.setProc p v).proc p = v := mget_mset_same ..

theorem proc_setProc_other (s : State) {p q : Nat} (v : ProcSt) (h : q ≠ p) : (s.setProc p v).proc q = s.proc q :=
  mget_mset_other _ _ _ _ _ _ h

@[simp] theorem proc_setPf (s : State) (p q : Nat) (se sup : Fld) (v i : Nat) : (s.setPf p se sup v i).proc q = s.proc q := (rfl)
@[simp] theorem proc_setPpc (s : State) (p q v : Nat) : (s.setPpc p v).proc q = s.proc q := (rfl)
@[simp] theorem proc_setPstate (s : State) (p q v : Nat) : (s.setPstate p v).proc q = s.proc q := (rfl)
@[simp] theorem proc_raiseEdge (s : State) (p q bit : Nat) : (raiseEdge s p bit).proc q = s.proc q := (rfl)

@[simp] theorem pf_setProc (s : State) (p q : Nat) (v : ProcSt) (se sup : Fld) (i : Nat) :
    (s.setProc p v).pf q se sup i = s.pf q se sup i := (rfl)
@[simp] theorem ppc_setProc (s : State) (p q : Nat) (v : ProcSt) : (s.setProc p v).ppc q = s.ppc q := (rfl)
@[simp] theorem pstate_setProc (s : State) (p q : Nat) (v : ProcSt) : (s.setProc p v).pstate q = s.pstate q := (rfl)
@[simp] theorem inFast_setProc (s : State) (p q : Nat) (v : ProcSt) : (s.setProc p v).inFast q = s.inFast q := (rfl)

@[simp] theorem bank_setBank_same (v : ProcSt) (b : Bool) (k : Bank) : (v.setBank b k).bank b = k := by cases b <;> rfl

theorem bank_setBank_other (v : ProcSt) {b b' : Bool} (h : b' ≠ b) (k : Bank) : (v.setBank b k).bank b' = v.bank b' := by
  cases b <;> cases b' <;> simp_all [ProcSt.bank, ProcSt.setBank]

@[simp] theorem setBank_setBank (v : ProcSt) (b : Bool) (k l : Bank) : (v.setBank b k).setBank b l = v.setBank b l := by
  cases b <;> rfl

@[simp] theorem setBank_bank (v : ProcSt) (b : Bool) : v.setBank b (v.bank b) = v := by cases b <;> rfl

/-! ### Fields of a processor's block -/

/-- Two fields at index 0 of one block that lie in different slots, or apart in one slot. -/
def fldsApart (f g : Fld) : Bool :=
  decide (f.reg.place.blk = g.reg.place.blk ∧ f.reg.place.offset ≠ g.reg.place.offset) ||
  decide (g.reg = f.reg ∧ f.lo ≤ f.hi ∧ f.hi < 40 ∧ g.lo ≤ g.hi ∧ (f.hi < g.lo ∨ g.hi < f.lo))

theorem fld_setFld_fldsApart {f g : Fld} (h : fldsApart f g = true) (s : State) (u v : Nat) :
    (s.setFld f u 0 v).fld g u 0 = s.fld g u 0 := by
  rcases Bool.or_eq_true _ _ ▸ h with h | h
  · obtain ⟨hblk, hoff⟩ := of_decide_eq_true h
    refine State.fld_setFld_other _ _ _ _ _ _ _ _ fun he => hoff ?_
    simpa [regAddr, hblk] using he.symm
  · obtain ⟨hr, hf, hf40, hg, hd⟩ := of_decide_eq_true h
    exact State.fld_setFld_apart _ _ _ _ _ _ hr hf hf40 hg hd

theorem pf_setPf_apart {se sup se' sup' : Fld} (s : State) (p v : Nat)
    (h : fldsApart se se' = true ∧ fldsApart sup sup' = true := by decide) :
    (s.setPf p se sup v).pf p se' sup' = s.pf p se' sup' := by
  unfold State.setPf State.pf
  cases isSup p
  · exact fld_setFld_fldsApart h.1 ..
  · exact fld_setFld_fldsApart h.2 ..

theorem pf_setPf_same {se sup : Fld} (s : State) (p v : Nat)
    (h : se.lo ≤ se.hi ∧ se.hi < 40 ∧ sup.lo ≤ sup.hi ∧ sup.hi < 40 := by decide) :
    (s.setPf p se sup v).pf p se sup = v % 2 ^ (if isSup p then sup.hi + 1 - sup.lo else se.hi + 1 - se.lo) := by
  obtain ⟨hse, hse', hsup, hsup'⟩ := h
  unfold State.setPf State.pf
  cases isSup p
  · exact State.fld_setFld_same _ _ _ _ _ hse hse'
  · exact State.fld_setFld_same _ _ _ _ _ hsup hsup'

@[simp] theorem inFast_setPpc (s : State) (p v : Nat) : (s.setPpc p v).inFast p = s.inFast p := by
  unfold State.setPpc State.inFast
  rw [pf_setPf_apart]

@[simp] theorem inFast_setPstate (s : State) (p v : Nat) : (s.setPstate p v).inFast p = s.inFast p := by
  unfold State.setPstate State.inFast
  rw [pf_setPf_apart]

@[simp] theorem pstate_setPpc (s : State) (p v : Nat) : (s.setPpc p v).pstate p = s.pstate p := by
  unfold State.setPpc State.pstate
  rw [pf_setPf_apart]

@[simp] theorem ppc_setPstate (s : State) (p v : Nat) : (s.setPstate p v).ppc p = s.ppc p := by
  unfold State.setPstate State.ppc
  rw [pf_setPf_apart]

theorem ppc_setPpc_same (s : State) (p v : Nat) : (s.setPpc p v).ppc p = v % imemWords p := by
  unfold State.setPpc State.ppc imemWords
  rw [pf_setPf_same]
  cases isSup p <;> rfl

@[simp] theorem ppc_setPpc_nextPc (s : State) (p pc n : Nat) : (s.setPpc p (nextPc p pc n)).ppc p = nextPc p pc n := by
  rw [ppc_setPpc_same, nextPc, Nat.mod_mod]

theorem pstate_setPstate_same (s : State) (p v : Nat) : (s.setPstate p v).pstate p = v % 8 := by
  unfold State.setPstate State.pstate
  rw [pf_setPf_same]
  cases isSup p <;> rfl

/-! ### The frame of one processor -/

theorem procOnly_refl (s : State) (p : Nat) (fs : List (Fld × Nat × Nat)) : ProcOnly s s p fs :=
  ⟨fun _ _ => rfl, (keepsFlds_iff ..).2 (FldsKept.refl _ _), rfl⟩

theorem procOnly_setProc {s t : State} {p : Nat} {fs : List (Fld × Nat × Nat)} (h : ProcOnly s t p fs) (v : ProcSt) :
    ProcOnly s (t.setProc p v) p fs := by
  obtain ⟨hproc, hflds, heq⟩ := h
  refine ⟨fun q hq => (proc_setProc_other t v hq).trans (hproc q hq), hflds, ?_⟩
  rw [heq]
  rfl

theorem procOnly_setPf {s t : State} {p : Nat} {fs : List (Fld × Nat × Nat)} (h : ProcOnly s t p fs) (se sup : Fld) (v : Nat)
    (hm : (if isSup p then sup else se, procUnit p, 0) ∈ fs)
    (hw : se.lo ≤ se.hi ∧ se.hi < 40 ∧ sup.lo ≤ sup.hi ∧ sup.hi < 40 := by decide) : ProcOnly s (t.setPf p se sup v) p fs := by
  obtain ⟨hproc, hflds, heq⟩ := h
  obtain ⟨hse, hse', hsup, hsup'⟩ := hw
  refine ⟨hproc, (keepsFlds_iff ..).2 (FldsKept.setFld _ _ _ _ hm ?_ ?_ ((keepsFlds_iff ..).1 hflds)), ?_⟩
  · split <;> assumption
  · split <;> assumption
  · rw [heq]
    rfl

theorem procOnly_setPpc {s t : State} {p : Nat} {fs : List (Fld × Nat × Nat)} (h : ProcOnly s t p fs) (v : Nat)
    (hm : pcField p ∈ fs) : ProcOnly s (t.setPpc p v) p fs :=
  procOnly_setPf h F.SE_PC.PC F.SUP_PC.PC v hm

/-! ### A source that does not trace -/

section Untraced

variable {s : State} {p : Nat} (h : s.traced p = false)
include h

theorem trcIssue_untraced : trcIssue s p = s := by rw [trcIssue, h]; rfl
theorem trcCycles_untraced (n : Nat) : trcCycles s p n = s := by rw [trcCycles, h]; rfl
theorem trcNoIssue_untraced (n : Nat) : trcNoIssue s p n = s := by rw [trcNoIssue, h]; rfl
theorem trcWait_untraced : trcWait s p = s := by rw [trcWait, h]; rfl
theorem trcCaught_untraced : trcCaught s p = s := by rw [trcCaught, trcWait_untraced h, ite_self]
theorem trcStop_untraced (reason cause pc : Nat) : trcStop s p reason cause pc = s := by rw [trcStop, h]; rfl
theorem trcDue_untraced (reason : Nat) : trcDue s p reason = s := by rw [trcDue, h]; rfl
theorem trcExc_untraced (bit : Nat) (fast : Bool) (ret handler : Nat) : trcExc s p bit fast ret handler = s := by
  rw [trcExc, h]; rfl
theorem trcStalled_untraced : trcStalled s p = false := by rw [trcStalled, h]; rfl

end Untraced

/-! ### The issue of an instruction -/

theorem settle_idle {t : State} {p : Nat} (hhalt : (t.proc p).haltReq = false) (hstep : (t.proc p).stepping = false) :
    settle t p = t := by
  simp [settle, hhalt, hstep]

/-- A processor that nothing else holds issues a legal instruction: the results due land and its effect is made. -/
theorem runInsn_issuing {s : State} {p : Proc} (h : Issuing s p) (i : Insn) (hlegal : i.legal (isSup p) = true)
    (hrti : i ≠ .rti := by nofun) (hrtf : i ≠ .rtf := by nofun) :
    runInsn p i s = .next (settle (issueOk io p i s) p) := by
  obtain ⟨hissues, htraced, hbad, hbad', hslots, -, hhalt, -⟩ := h
  simp [runInsn, issue, hissues, trcStalled_untraced htraced, hhalt, trcIssue_untraced htraced, hbad, hbad', hlegal, hslots, hrti,
    hrtf, trcCycles_untraced htraced]

theorem movePc_noSlots {t : State} {p : Nat} (hslots : (t.proc p).slots = 0) (pc n : Nat) :
    movePc t p pc n = t.setPpc p (nextPc p pc n) := by
  rw [movePc, hslots]

theorem endRtf_noRtf {t : State} {p : Nat} (hrtf : (t.proc p).rtf = false) : endRtf t p = t := by
  rw [endRtf, hrtf]; rfl

theorem stepPc_plain {t : State} {p : Nat} (hslots : (t.proc p).slots = 0) (hrtf : (t.proc p).rtf = false) (pc n : Nat) :
    stepPc t p pc n = t.setPpc p (nextPc p pc n) := by
  rw [stepPc, movePc_noSlots hslots]
  exact endRtf_noRtf hrtf

/-! ### Results that land -/

/-- A processor without what a landing result can write: its banks and the results in flight. -/
def unlanded (v : ProcSt) : ProcSt := { v with main := {}, shadow := {}, fly := [] }

theorem unlanded_setBank (v : ProcSt) (shadow : Bool) (b : Bank) : unlanded (v.setBank shadow b) = unlanded v := by
  cases shadow <;> rfl

/-- Of processor `p` only the banks and the results in flight changed, and the same bank is in force. -/
structure Landed (s t : State) (p : Nat) : Prop where
  rest   : unlanded (t.proc p) = unlanded (s.proc p)
  inFast : t.inFast p = s.inFast p

theorem Landed.refl (s : State) (p : Nat) : Landed s s p := ⟨rfl, rfl⟩

theorem Landed.setProc {s t : State} {p : Nat} (h : Landed s t p) {v : ProcSt} (hv : unlanded v = unlanded (t.proc p)) :
    Landed s (t.setProc p v) p :=
  ⟨by rw [proc_setProc_same, hv, h.rest], h.inFast⟩

theorem Landed.setBank {s t : State} {p : Nat} (h : Landed s t p) (shadow : Bool) (b : Bank) :
    Landed s (t.setProc p ((t.proc p).setBank shadow b)) p :=
  h.setProc (unlanded_setBank ..)

theorem Landed.of_fld {s t u : State} {p : Nat} (h : Landed s t p) (hproc : u.proc p = t.proc p)
    (hfast : u.inFast p = t.inFast p) : Landed s u p :=
  ⟨by rw [hproc, h.rest], hfast.trans h.inFast⟩

theorem Landed.setPf {s t : State} {p : Nat} (h : Landed s t p) {se sup : Fld} (v : Nat)
    (ha : fldsApart se F.SE_STATUS.FBANK = true ∧ fldsApart sup F.SUP_STATUS.FBANK = true := by decide) :
    Landed s (t.setPf p se sup v) p := by
  refine h.of_fld rfl ?_
  unfold State.inFast
  rw [pf_setPf_apart (h := ha)]

theorem Landed.of_pf {s t u : State} {p : Nat} (h : Landed s t p) (hproc : u.proc p = t.proc p)
    (hfast : u.pf p F.SE_STATUS.FBANK F.SUP_STATUS.FBANK = t.pf p F.SE_STATUS.FBANK F.SUP_STATUS.FBANK) : Landed s u p :=
  h.of_fld hproc (by rw [State.inFast, State.inFast, hfast])

/-- A write of another register of an engine's tile. -/
theorem Landed.setTileReg {s t : State} {p : Nat} (hp : isSup p = false) (h : Landed s t p) (r : Reg) (w : Word)
    (hr : r.place.blk = .tile ∧ r.place.offset ≠ 0x8 := by decide) : Landed s (t.setReg r p 0 w) p := by
  refine h.of_pf rfl ?_
  rw [State.pf, State.pf, procUnit, hp]
  refine State.fld_setReg_other _ _ _ _ _ _ _ _ (regAddr_tile_ne_of_offset rfl hr.1 ?_ p)
  rw [Nat.zero_mul, Nat.zero_mul]
  exact fun he => hr.2 he.symm

theorem Landed.orTileFld {s t : State} {p : Nat} (hp : isSup p = false) (h : Landed s t p) (f : Fld) (b : Nat)
    (hf : f.reg.place.blk = .tile ∧ f.reg.place.offset ≠ 0x8 := by decide) : Landed s (t.orFld f p 0 b) p :=
  h.setTileReg hp f.reg _ hf

theorem Landed.of_regs {s t u : State} {p : Nat} (h : Landed s t p) (hprocs : u.procs = t.procs) (hregs : u.regs = t.regs) :
    Landed s u p :=
  h.of_pf (by rw [State.proc, hprocs, State.proc]) (fld_of_regs hregs ..)

theorem emitTile_landed {s t : State} {p : Nat} (h : Landed s t p) (code k : Nat) (inj : Bool) :
    Landed s (t.emitTile code k inj) p :=
  h.of_regs rfl rfl

theorem spdEvent_landed {s t : State} {p : Nat} (hp : isSup p = false) (h : Landed s t p) (kind word : Nat) (inj : Bool) :
    Landed s (spdEvent t p kind word inj) p := by
  unfold spdEvent
  dsimp only
  split
  · exact h
  · refine emitTile_landed (Landed.orTileFld hp ?_ F.SPD_STATUS.EVT (kind - 1)) _ _ _
    split
    · exact (h.setTileReg hp .SPD_FIRST _).setTileReg hp .SPD_FIRST_STRIDE _
    · exact h

theorem readSpd_landed {s t : State} {p : Nat} (hp : isSup p = false) (h : Landed s t p) (w : Nat) :
    Landed s (readSpd t p w).2 p := by
  unfold readSpd
  dsimp only
  split
  · exact h
  · exact (h.setTileReg hp .SPD_SBE_CNT _).of_regs rfl rfl
  · exact spdEvent_landed hp h 1 w true

theorem dmemRead_landed {s t : State} {p : Nat} (h : Landed s t p) (a : Nat) : Landed s (t.dmemRead p a).2 p := by
  unfold State.dmemRead
  split
  next => exact h
  next hp => exact readSpd_landed (Bool.eq_false_of_not_eq_true hp) h _

theorem place_supDmem : Reg.SUP_DMEM.place = ⟨.region, 0x80000, 65536, 8⟩ := rfl

/-- The slots of a region below its supervisor's data memory are none of its words. -/
theorem ne_supDmem {r : Reg} (hr : r.place.blk = .region ∧ r.place.offset < 0x80000) (u a : Nat) :
    regAddr r u 0 ≠ regAddr .SUP_DMEM u (a % 65536) := by
  obtain ⟨hblk, hoff⟩ := hr
  have hlt : a % 65536 < 65536 := Nat.mod_lt _ (by decide)
  refine regAddr_ne_of_offset hblk rfl (by omega) ?_ ?_ _ _
  · rw [place_supDmem]
    show 0x80000 + a % 65536 * 8 < 0x800000
    omega
  · rw [place_supDmem]
    show r.place.offset + 0 * r.place.stride ≠ 0x80000 + a % 65536 * 8
    omega

theorem dmemWrite_landed {s t : State} {p : Nat} (h : Landed s t p) (a : Nat) (w : Word) : Landed s (t.dmemWrite p a w) p := by
  unfold State.dmemWrite
  split
  next hp =>
    refine h.of_pf rfl ?_
    rw [State.pf, State.pf, procUnit, hp]
    exact State.fld_setReg_other _ _ _ _ _ _ _ _ (ne_supDmem (by decide) _ _)
  next => exact h.of_regs rfl rfl

theorem loadRegs_landed {s : State} {p : Nat} (shadow : Bool) (as : List Nat) (x : Nat) {t : State} (h : Landed s t p) :
    Landed s (loadRegs p shadow x as t) p := by
  induction as generalizing x t with
  | nil => exact h
  | cons a as ih => exact ih _ ((dmemRead_landed h a).setBank _ _)

/-- The request of an accumulator overflow and its address (R155). -/
theorem overflow_landed {s t : State} {p : Nat} (h : Landed s t p) (pc : Nat) (shadow : Bool) :
    Landed s (((raiseEdge t p 20).setPf p F.SE_OVF_PC.PC F.SUP_OVF_PC.PC pc).setPf p F.SE_OVF_PC.BANK F.SUP_OVF_PC.BANK
      (flag shadow)) p := by
  have hedge : Landed s (raiseEdge t p 20) p :=
    h.setPf (se := F.SE_IRQ_PEND.EDGE) (sup := F.SUP_IRQ_PEND.EDGE) _
  exact (hedge.setPf _).setPf _

theorem landAcc_landed {s t : State} {p : Nat} (h : Landed s t p) (f : Fly) (n : Nat) (judged sat : Bool) (i : Int) :
    Landed s (landAcc t p f n judged sat i) p := by
  unfold landAcc
  dsimp only
  split
  · split
    · exact overflow_landed (h.setBank _ _) _ _
    · exact h.setBank _ _
  · exact h.setBank _ _

theorem landOne_landed {s t : State} {p : Nat} (h : Landed s t p) (f : Fly) : Landed s (landOne p t f) p := by
  unfold landOne
  dsimp only
  split
  case h_1 => exact loadRegs_landed _ _ _ h
  case h_2 => exact List.foldlRecOn (motive := fun u => Landed s u p) _ _ h fun u hu e _ => dmemWrite_landed hu _ _
  case h_4 => exact landAcc_landed (landAcc_landed h f _ _ _ _) f _ _ _ _
  case h_5 | h_11 => exact h.setBank _ _
  case h_10 =>
    split
    · split
      · exact overflow_landed (h.setBank _ _) _ _
      · exact h.setBank _ _
    · exact h.setBank _ _
  all_goals exact landAcc_landed h f _ _ _ _

theorem endCycle_landed (s : State) (p : Nat) : Landed s (endCycle s p) p := by
  unfold endCycle
  exact List.foldlRecOn (motive := fun t => Landed s t p) _ _ ((Landed.refl s p).setProc rfl) fun t ht f _ => landOne_landed ht f

/-- Nothing but the instruction it issues acts on a processor: no delay slot, no return from a FAST handler, no HALT or STEP. -/
structure Unheld (v : ProcSt) : Prop where
  slots    : v.slots = 0
  rtf      : v.rtf = false
  haltReq  : v.haltReq = false
  stepping : v.stepping = false

theorem unheld_of_issuing {s : State} {p : Nat} (h : Issuing s p) : Unheld (s.proc p) := by
  obtain ⟨-, -, -, -, hslots, hrtf, hhalt, hstep⟩ := h
  exact ⟨hslots, hrtf, hhalt, hstep⟩

theorem Unheld.of_unlanded {v w : ProcSt} (h : Unheld v) (he : unlanded w = unlanded v) : Unheld w := by
  have hslots := congrArg ProcSt.slots he
  have hrtf := congrArg ProcSt.rtf he
  have hhalt := congrArg ProcSt.haltReq he
  have hstep := congrArg ProcSt.stepping he
  simp only [unlanded] at hslots hrtf hhalt hstep
  exact ⟨hslots.trans h.slots, hrtf.trans h.rtf, hhalt.trans h.haltReq, hstep.trans h.stepping⟩

theorem Unheld.setBank {v : ProcSt} (h : Unheld v) (shadow : Bool) (b : Bank) : Unheld (v.setBank shadow b) :=
  h.of_unlanded (unlanded_setBank ..)

theorem unheld_endCycle {s : State} {p : Nat} (h : Issuing s p) : Unheld ((endCycle s p).proc p) :=
  (unheld_of_issuing h).of_unlanded (endCycle_landed s p).rest

theorem inFast_endCycle (s : State) (p : Nat) : (endCycle s p).inFast p = s.inFast p := (endCycle_landed s p).inFast

/-- An instruction of `n` words that leaves the processor unheld in `u` ends at the next address, and nothing halts. -/
theorem settle_stepPc {u : State} {p : Nat} (h : Unheld (u.proc p)) (pc n : Nat) :
    settle (stepPc u p pc n) p = u.setPpc p (nextPc p pc n) := by
  rw [stepPc_plain h.slots h.rtf]
  exact settle_idle h.haltReq h.stepping

/-! ### X registers -/

@[simp] theorem bankNow_setProc (s : State) (p : Nat) (v : ProcSt) : bankNow (s.setProc p v) p = v.bank (s.inFast p) := by
  rw [bankNow, proc_setProc_same, inFast_setProc]

@[simp] theorem bankNow_setPpc (s : State) (p v : Nat) : bankNow (s.setPpc p v) p = bankNow s p := by
  rw [bankNow, inFast_setPpc, proc_setPpc, bankNow]

theorem getX_eq_bankNow (s : State) (p n : Nat) : s.getX p n = (bankNow s p).getX n := rfl

theorem sr_eq_bankNow (s : State) (p : Nat) : s.sr p = (bankNow s p).sr := rfl

@[simp] theorem getX_setPpc (s : State) (p v n : Nat) : (s.setPpc p v).getX p n = s.getX p n := by
  rw [getX_eq_bankNow, bankNow_setPpc, getX_eq_bankNow]

@[simp] theorem sr_setPpc (s : State) (p v : Nat) : (s.setPpc p v).sr p = s.sr p := by
  rw [sr_eq_bankNow, bankNow_setPpc, sr_eq_bankNow]

theorem bankNow_setX (s : State) (p n : Nat) (w : Word) : bankNow (s.setX p n w) p = (bankNow s p).setX n w := by
  rw [State.setX, bankNow_setProc, bank_setBank_same, bankNow]

theorem getX_setX_same (s : State) (p n : Nat) (w : Word) : (s.setX p n w).getX p n = w := by
  rw [getX_eq_bankNow, bankNow_setX]
  exact mget_mset_same ..

theorem getX_setX_other (s : State) (p : Nat) {n k : Nat} (w : Word) (h : k ≠ n) : (s.setX p n w).getX p k = s.getX p k := by
  rw [getX_eq_bankNow, bankNow_setX]
  exact mget_mset_other _ _ _ _ _ _ h

@[simp] theorem sr_setX (s : State) (p n : Nat) (w : Word) : (s.setX p n w).sr p = s.sr p := by
  rw [sr_eq_bankNow, bankNow_setX]
  rfl

/-- An instruction of `n` words that writes one X register changes nothing else. -/
theorem endsInCycle_setX (e : State) (p pc n rd : Nat) (w : Word) :
    EndsInCycle e ((e.setX p rd w).setPpc p (nextPc p pc n)) p pc n [rd] := by
  refine ⟨procOnly_setPpc (procOnly_setProc (procOnly_refl e p _) _) _ (List.mem_singleton_self _), ?_, fun k hk => ?_, ?_⟩
  · rw [ppc_setPpc_nextPc, nextPc]
  · rw [getX_setPpc, getX_setX_other e p w (by simpa using hk)]
  · rw [proc_setPpc, bankNow_setPpc, bankNow_setX, sr_setPpc, sr_setX, State.setX, proc_setProc_same]
    rfl

theorem unheld_setX {e : State} {p : Nat} (h : Unheld (e.proc p)) (rd : Nat) (w : Word) : Unheld ((e.setX p rd w).proc p) := by
  rw [State.setX, proc_setProc_same]
  exact h.setBank _ _

end Sys2Proof.Laws
end

section
/-! SUPPORT. The registers of a bank under the moves (R145, R187). -/

namespace Sys2Proof.Laws

open Sys2Proof Sys2Proof.Machine Sys2Proof.Safety

/-! ### Signed numbers -/

theorem signed_succ (k n : Nat) :
    signed (k + 1) n = if 2 ^ k ≤ n % (2 * 2 ^ k) then ((n % (2 * 2 ^ k) : Nat) : Int) - 2 * (2 ^ k : Nat)
      else ((n % (2 * 2 ^ k) : Nat) : Int) := by
  have hpow : 2 ^ (k + 1) = 2 * 2 ^ k := Nat.pow_succ'
  rw [signed, Nat.add_sub_cancel, hpow, Int.natCast_mul]
  rfl

theorem signed_eq_bmod {w : Nat} (hw : 0 < w) (n : Nat) : signed w n = Int.bmod n (2 ^ w) := by
  obtain ⟨k, rfl⟩ : ∃ k, w = k + 1 := ⟨w - 1, by omega⟩
  have hpow : 2 ^ (k + 1) = 2 * 2 ^ k := Nat.pow_succ'
  rw [signed_succ, Int.bmod, hpow]
  simp only [← Int.natCast_emod]
  generalize n % (2 * 2 ^ k) = r
  generalize 2 ^ k = m
  split <;> split <;> omega

theorem signed_mod (w n : Nat) : signed w (n % 2 ^ w) = signed w n := by
  rw [signed, signed, Nat.mod_mod]

theorem signed_bounds {w : Nat} (hw : 0 < w) (n : Nat) : -(2 ^ (w - 1)) ≤ signed w n ∧ signed w n < 2 ^ (w - 1) := by
  obtain ⟨k, rfl⟩ : ∃ k, w = k + 1 := ⟨w - 1, by omega⟩
  have hcast : (2 : Int) ^ k = ((2 ^ k : Nat) : Int) := by push_cast; rfl
  rw [signed_succ, Nat.add_sub_cancel, hcast]
  have hlt : n % (2 * 2 ^ k) < 2 * 2 ^ k := Nat.mod_lt _ (Nat.mul_pos (by decide) (Nat.two_pow_pos k))
  generalize n % (2 * 2 ^ k) = r at hlt ⊢
  generalize 2 ^ k = m at hlt ⊢
  split <;> constructor <;> omega

/-! ### What a move reads -/

section Read

variable (s : State) (p : Nat) (f : Bool) {c : Nat}

theorem readCode_x (h : c < 16) : readCode s p f c = ((s.proc p).bank f).getX c := by
  rw [readCode, if_pos h]

theorem readCode_accSup (hsup : isSup p = true) (h : 16 ≤ c) (h' : c < 24) :
    readCode s p f c = BitVec.ofNat 40 (mget 0 ((s.proc p).bank f).a 0) := by
  rw [readCode, if_neg (by omega), if_pos h', if_pos hsup]

theorem readCode_acc (hsup : isSup p = false) (h : 16 ≤ c) (h' : c < 24) (heven : c % 2 = 0) :
    readCode s p f c = BitVec.ofNat 40 (mget 0 ((s.proc p).bank f).a ((c - 16) / 2)) := by
  rw [readCode, if_neg (by omega), if_pos h', if_neg (by simp [hsup]), if_pos heven]

theorem readCode_guard (hsup : isSup p = false) (h : 16 ≤ c) (h' : c < 24) (hodd : c % 2 = 1) :
    readCode s p f c = BitVec.ofNat 40 (unsigned 40 (signed 8 (mget 0 ((s.proc p).bank f).a ((c - 16) / 2) / 2 ^ 40))) := by
  rw [readCode, if_neg (by omega), if_pos h', if_neg (by simp [hsup]), if_neg (by omega)]

theorem readCode_p (h : 24 ≤ c) (h' : c < 32) : readCode s p f c = BitVec.ofNat 40 (mget 0 ((s.proc p).bank f).p (c % 8)) := by
  rw [readCode, if_neg (by omega), if_neg (by omega), if_pos h']

theorem readCode_m (h : 32 ≤ c) (h' : c < 40) :
    readCode s p f c = BitVec.ofNat 40 (unsigned 40 (signed (ptrBits p + 1) (mget 0 ((s.proc p).bank f).m (c % 8)))) := by
  rw [readCode, if_neg (by omega), if_neg (by omega), if_neg (by omega), if_pos h']

theorem readCode_b (h : 40 ≤ c) (h' : c < 48) : readCode s p f c = BitVec.ofNat 40 (mget 0 ((s.proc p).bank f).b (c % 8)) := by
  rw [readCode, if_neg (by omega), if_neg (by omega), if_neg (by omega), if_neg (by omega), if_pos h']

theorem readCode_l (h : 48 ≤ c) (h' : c < 56) : readCode s p f c = BitVec.ofNat 40 (mget 0 ((s.proc p).bank f).l (c % 8)) := by
  rw [readCode, if_neg (by omega), if_neg (by omega), if_neg (by omega), if_neg (by omega), if_neg (by omega), if_pos h']

theorem readCode_sr : readCode s p f 56 = ((s.proc p).bank f).sr := rfl
theorem readCode_cr : readCode s p f 57 = (s.proc p).cr := rfl
theorem readCode_ira : readCode s p f 58 = BitVec.ofNat 40 (s.proc p).ira := rfl
theorem readCode_isr : readCode s p f 59 = (s.proc p).isr := rfl
theorem readCode_fra : readCode s p f 60 = BitVec.ofNat 40 (s.proc p).fra := rfl

end Read

/-- A move reads the same from two states whose processors agree in the cell of its code. -/
theorem readCode_congr {s t : State} {p : Nat} {f : Bool} {b b' : Bank} {c : Nat} (hs : (s.proc p).bank f = b)
    (ht : (t.proc p).bank f = b')
    (hx : c < 16 → b'.getX c = b.getX c := by intros; rfl)
    (ha : 16 ≤ c → c < 24 → b'.a = b.a := by intros; rfl)
    (hp : 24 ≤ c → c < 32 → mget 0 b'.p (c % 8) = mget 0 b.p (c % 8) := by intros; rfl)
    (hm : 32 ≤ c → c < 40 → mget 0 b'.m (c % 8) = mget 0 b.m (c % 8) := by intros; rfl)
    (hb : 40 ≤ c → c < 48 → mget 0 b'.b (c % 8) = mget 0 b.b (c % 8) := by intros; rfl)
    (hl : 48 ≤ c → c < 56 → mget 0 b'.l (c % 8) = mget 0 b.l (c % 8) := by intros; rfl)
    (hsr : c = 56 → b'.sr = b.sr := by intros; rfl)
    (hrest : c = 57 ∨ c = 58 ∨ c = 59 ∨ c = 60 → readCode t p f c = readCode s p f c) : readCode t p f c = readCode s p f c := by
  rcases Nat.lt_or_ge c 16 with h16 | h16
  · rw [readCode_x _ _ _ h16, readCode_x _ _ _ h16, hs, ht, hx h16]
  rcases Nat.lt_or_ge c 24 with h24 | h24
  · have hacc := ha h16 h24
    unfold readCode
    simp only [hs, ht, hacc, if_neg (Nat.not_lt.2 h16), if_pos h24]
  rcases Nat.lt_or_ge c 32 with h32 | h32
  · rw [readCode_p _ _ _ h24 h32, readCode_p _ _ _ h24 h32, hs, ht, hp h24 h32]
  rcases Nat.lt_or_ge c 40 with h40 | h40
  · rw [readCode_m _ _ _ h32 h40, readCode_m _ _ _ h32 h40, hs, ht, hm h32 h40]
  rcases Nat.lt_or_ge c 48 with h48 | h48
  · rw [readCode_b _ _ _ h40 h48, readCode_b _ _ _ h40 h48, hs, ht, hb h40 h48]
  rcases Nat.lt_or_ge c 56 with h56 | h56
  · rw [readCode_l _ _ _ h48 h56, readCode_l _ _ _ h48 h56, hs, ht, hl h48 h56]
  by_cases hc : c = 56
  · subst hc
    rw [readCode_sr, readCode_sr, hs, ht, hsr rfl]
  by_cases hlt : c < 61
  · exact hrest (by omega)
  · unfold readCode
    simp only [if_neg (show ¬ c < 16 by omega), if_neg (show ¬ c < 24 by omega), if_neg (show ¬ c < 32 by omega),
      if_neg (show ¬ c < 40 by omega), if_neg (show ¬ c < 48 by omega), if_neg (show ¬ c < 56 by omega), if_neg hc,
      if_neg (show ¬ c = 57 by omega), if_neg (show ¬ c = 58 by omega), if_neg (show ¬ c = 59 by omega),
      if_neg (show ¬ c = 60 by omega)]

/-! ### What a move writes -/

section Write

variable (s : State) (p : Nat) (f : Bool) {c : Nat} (w : Word)

theorem writeCode_x (h : c < 16) :
    writeCode s p f c w = s.setProc p ((s.proc p).setBank f (((s.proc p).bank f).setX c w)) := by
  rw [writeCode, if_pos h]

theorem writeCode_accSup (hsup : isSup p = true) (h : 16 ≤ c) (h' : c < 24) :
    writeCode s p f c w = s.setProc p ((s.proc p).setBank f (setAcc p ((s.proc p).bank f) 0 w.toNat)) := by
  rw [writeCode, if_neg (by omega), if_pos h', if_pos hsup]

theorem writeCode_acc (hsup : isSup p = false) (h : 16 ≤ c) (h' : c < 24) (heven : c % 2 = 0) :
    writeCode s p f c w = s.setProc p ((s.proc p).setBank f
      (setAcc p ((s.proc p).bank f) ((c - 16) / 2) (unsigned 48 (signed 40 w.toNat)))) := by
  rw [writeCode, if_neg (by omega), if_pos h', if_neg (by simp [hsup]), if_pos heven]

theorem writeCode_guard (hsup : isSup p = false) (h : 16 ≤ c) (h' : c < 24) (hodd : c % 2 = 1) :
    writeCode s p f c w = s.setProc p ((s.proc p).setBank f (setAcc p ((s.proc p).bank f) ((c - 16) / 2)
      (putBits (mget 0 ((s.proc p).bank f).a ((c - 16) / 2)) 47 40 (w.toNat % 256)))) := by
  rw [writeCode, if_neg (by omega), if_pos h', if_neg (by simp [hsup]), if_neg (by omega)]

theorem writeCode_p (h : 24 ≤ c) (h' : c < 32) : writeCode s p f c w = s.setProc p ((s.proc p).setBank f
    { (s.proc p).bank f with p := mset 0 ((s.proc p).bank f).p (c % 8) (w.toNat % 2 ^ ptrBits p) }) := by
  rw [writeCode, if_neg (by omega), if_neg (by omega), if_pos h']

theorem writeCode_m (h : 32 ≤ c) (h' : c < 40) : writeCode s p f c w = s.setProc p ((s.proc p).setBank f
    { (s.proc p).bank f with m := mset 0 ((s.proc p).bank f).m (c % 8) (w.toNat % 2 ^ (ptrBits p + 1)) }) := by
  rw [writeCode, if_neg (by omega), if_neg (by omega), if_neg (by omega), if_pos h']

theorem writeCode_b (h : 40 ≤ c) (h' : c < 48) : writeCode s p f c w = s.setProc p ((s.proc p).setBank f
    { (s.proc p).bank f with b := mset 0 ((s.proc p).bank f).b (c % 8) (w.toNat % 2 ^ ptrBits p) }) := by
  rw [writeCode, if_neg (by omega), if_neg (by omega), if_neg (by omega), if_neg (by omega), if_pos h']

theorem writeCode_l (h : 48 ≤ c) (h' : c < 56) : writeCode s p f c w = s.setProc p ((s.proc p).setBank f
    { (s.proc p).bank f with
      l := mset 0 ((s.proc p).bank f).l (c % 8) (Nat.min (w.toNat % 2 ^ (ptrBits p + 1)) (2 ^ ptrBits p)) }) := by
  rw [writeCode, if_neg (by omega), if_neg (by omega), if_neg (by omega), if_neg (by omega), if_neg (by omega), if_pos h']

theorem writeCode_sr : writeCode s p f 56 w = s.setProc p ((s.proc p).setBank f
    { (s.proc p).bank f with sr := srWrite p ((s.proc p).bank f).sr w }) := rfl
theorem writeCode_cr : writeCode s p f 57 w = s.setProc p { s.proc p with cr := crWrite (s.proc p).cr w } := rfl
theorem writeCode_ira : writeCode s p f 58 w = s.setProc p { s.proc p with ira := w.toNat % 2 ^ pcBits p } := rfl
theorem writeCode_isr : writeCode s p f 59 w = s.setProc p { s.proc p with isr := w } := rfl
theorem writeCode_fra : writeCode s p f 60 w = s.setProc p { s.proc p with fra := w.toNat % 2 ^ pcBits p } := rfl

/-- A move changes its processor alone, and holds nothing. -/
theorem writeCode_only (h : c < 61) :
    ∃ v, writeCode s p f c w = s.setProc p v ∧ (Unheld (s.proc p) → Unheld v) := by
  have hbank : ∀ {t : State} {b : Bank}, t = s.setProc p ((s.proc p).setBank f b) →
      ∃ v, t = s.setProc p v ∧ (Unheld (s.proc p) → Unheld v) := fun ht => ⟨_, ht, fun hu => hu.setBank f _⟩
  rcases Nat.lt_or_ge c 16 with h16 | h16
  · exact hbank (writeCode_x _ _ _ _ h16)
  rcases Nat.lt_or_ge c 24 with h24 | h24
  · cases hsup : isSup p
    · rcases Nat.mod_two_eq_zero_or_one c with hpar | hpar
      · exact hbank (writeCode_acc _ _ _ _ hsup h16 h24 hpar)
      · exact hbank (writeCode_guard _ _ _ _ hsup h16 h24 hpar)
    · exact hbank (writeCode_accSup _ _ _ _ hsup h16 h24)
  rcases Nat.lt_or_ge c 32 with h32 | h32
  · exact hbank (writeCode_p _ _ _ _ h24 h32)
  rcases Nat.lt_or_ge c 40 with h40 | h40
  · exact hbank (writeCode_m _ _ _ _ h32 h40)
  rcases Nat.lt_or_ge c 48 with h48 | h48
  · exact hbank (writeCode_b _ _ _ _ h40 h48)
  rcases Nat.lt_or_ge c 56 with h56 | h56
  · exact hbank (writeCode_l _ _ _ _ h48 h56)
  obtain rfl | rfl | rfl | rfl | rfl : c = 56 ∨ c = 57 ∨ c = 58 ∨ c = 59 ∨ c = 60 := by omega
  · exact hbank (writeCode_sr ..)
  · exact ⟨_, writeCode_cr .., fun hu => ⟨hu.slots, hu.rtf, hu.haltReq, hu.stepping⟩⟩
  · exact ⟨_, writeCode_ira .., fun hu => ⟨hu.slots, hu.rtf, hu.haltReq, hu.stepping⟩⟩
  · exact ⟨_, writeCode_isr .., fun hu => ⟨hu.slots, hu.rtf, hu.haltReq, hu.stepping⟩⟩
  · exact ⟨_, writeCode_fra .., fun hu => ⟨hu.slots, hu.rtf, hu.haltReq, hu.stepping⟩⟩

end Write

/-! ### The cell a move wrote -/

section Written

variable (s : State) (p : Nat) (f : Bool) {c : Nat} (w : Word)

theorem read_written_x (h : c < 16) : readCode (writeCode s p f c w) p f c = w := by
  rw [writeCode_x _ _ _ _ h, readCode_x _ _ _ h, proc_setProc_same, bank_setBank_same]
  exact mget_mset_same ..

theorem ptrBits_lt : ptrBits p + 1 < 40 := by
  unfold ptrBits
  split <;> decide

theorem toNat_ofNat_mod (k n : Nat) (hk : k ≤ 40) : (BitVec.ofNat 40 (n % 2 ^ k)).toNat = n % 2 ^ k := by
  rw [BitVec.toNat_ofNat, Nat.mod_eq_of_lt]
  exact Nat.lt_of_lt_of_le (Nat.mod_lt _ (Nat.two_pow_pos k)) (Nat.pow_le_pow_right (by decide) hk)

/-- A supervisor's accumulator, and the low part of an engine's, read back as written. -/
theorem read_written_acc (h : 16 ≤ c) (h' : c < 24) (hw : isSup p = true ∨ c % 2 = 0) :
    readCode (writeCode s p f c w) p f c = w := by
  have hlt := w.isLt
  cases hsup : isSup p
  · have heven : c % 2 = 0 := by simpa [hsup] using hw
    rw [writeCode_acc _ _ _ _ hsup h h' heven, readCode_acc _ _ _ hsup h h' heven, proc_setProc_same, bank_setBank_same, setAcc,
      mget_mset_same, accBits, hsup]
    refine BitVec.eq_of_toNat_eq ?_
    rw [BitVec.toNat_ofNat, signed_toNat, unsigned, BitVec.toInt_eq_toNat_cond]
    simp only [Bool.false_eq_true, if_false]
    split <;> omega
  · rw [writeCode_accSup _ _ _ _ hsup h h', readCode_accSup _ _ _ hsup h h', proc_setProc_same, bank_setBank_same, setAcc,
      mget_mset_same, accBits, hsup]
    refine BitVec.eq_of_toNat_eq ?_
    rw [BitVec.toNat_ofNat]
    simp only [if_true]
    omega

/-- The write of an engine's accumulator extends the sign into the guard. -/
theorem read_written_guardOf (hsup : isSup p = false) (h : 16 ≤ c) (h' : c < 24) (heven : c % 2 = 0) :
    readCode (writeCode s p f c w) p f (c + 1) = if w.toInt < 0 then -1 else 0 := by
  have hlt := w.isLt
  have hindex : (c + 1 - 16) / 2 = (c - 16) / 2 := by omega
  rw [writeCode_acc _ _ _ _ hsup h h' heven, readCode_guard _ _ _ hsup (by omega) (by omega) (by omega), proc_setProc_same,
    bank_setBank_same, setAcc, hindex, mget_mset_same, accBits, hsup, signed_toNat]
  have hint := BitVec.toInt_eq_toNat_cond w
  by_cases hneg : w.toInt < 0
  · have hguard : unsigned 48 w.toInt % 2 ^ 48 / 2 ^ 40 = 255 := by
      rw [unsigned]
      split at hint <;> omega
    simp only [Bool.false_eq_true, if_false, hguard, if_pos hneg]
    rfl
  · have hguard : unsigned 48 w.toInt % 2 ^ 48 / 2 ^ 40 = 0 := by
      rw [unsigned]
      split at hint <;> omega
    simp only [Bool.false_eq_true, if_false, hguard, if_neg hneg]
    rfl

theorem read_written_guard (hsup : isSup p = false) (h : 16 ≤ c) (h' : c < 24) (hodd : c % 2 = 1) :
    (readCode (writeCode s p f c w) p f c).toInt = signed 8 w.toNat := by
  rw [writeCode_guard _ _ _ _ hsup h h' hodd, readCode_guard _ _ _ hsup h h' hodd, proc_setProc_same, bank_setBank_same, setAcc,
    mget_mset_same, accBits, hsup]
  generalize mget 0 ((s.proc p).bank f).a ((c - 16) / 2) = n
  have hguard : putBits n 47 40 (w.toNat % 256) % 2 ^ 48 / 2 ^ 40 = w.toNat % 2 ^ 8 := by
    rw [putBits, bitsOf]
    omega
  simp only [Bool.false_eq_true, if_false, hguard, signed_mod]
  obtain ⟨hlo, hhi⟩ := signed_bounds (w := 8) (by decide) w.toNat
  exact toInt_unsigned (by omega) (by omega)

theorem read_written_pb (h : 24 ≤ c ∧ c < 32 ∨ 40 ≤ c ∧ c < 48) :
    (readCode (writeCode s p f c w) p f c).toNat = w.toNat % 2 ^ ptrBits p := by
  have hbits := ptrBits_lt p
  rcases h with ⟨h, h'⟩ | ⟨h, h'⟩
  · rw [writeCode_p _ _ _ _ h h', readCode_p _ _ _ h h', proc_setProc_same, bank_setBank_same, mget_mset_same,
      toNat_ofNat_mod _ _ (by omega)]
  · rw [writeCode_b _ _ _ _ h h', readCode_b _ _ _ h h', proc_setProc_same, bank_setBank_same, mget_mset_same,
      toNat_ofNat_mod _ _ (by omega)]

theorem read_written_m (h : 32 ≤ c) (h' : c < 40) :
    (readCode (writeCode s p f c w) p f c).toInt = signed (ptrBits p + 1) w.toNat := by
  rw [writeCode_m _ _ _ _ h h', readCode_m _ _ _ h h', proc_setProc_same, bank_setBank_same, mget_mset_same, signed_mod]
  have hbits : ptrBits p ≤ 17 := by unfold ptrBits; split <;> decide
  have hpow : (2 : Int) ^ ptrBits p ≤ 2 ^ 17 := by
    exact_mod_cast Nat.pow_le_pow_right (by decide : 0 < 2) hbits
  obtain ⟨hlo, hhi⟩ := signed_bounds (w := ptrBits p + 1) (by omega) w.toNat
  rw [Nat.add_sub_cancel] at hlo hhi
  exact toInt_unsigned (by omega) (by omega)

theorem read_written_l (h : 48 ≤ c) (h' : c < 56) :
    (readCode (writeCode s p f c w) p f c).toNat = Nat.min (w.toNat % 2 ^ (ptrBits p + 1)) (2 ^ ptrBits p) := by
  rw [writeCode_l _ _ _ _ h h', readCode_l _ _ _ h h', proc_setProc_same, bank_setBank_same, mget_mset_same, BitVec.toNat_ofNat,
    Nat.mod_eq_of_lt]
  have hbits := ptrBits_lt p
  exact Nat.lt_of_le_of_lt (Nat.min_le_right _ _) (Nat.pow_lt_pow_right (by decide) (by omega))

theorem read_written_sr {i : Nat} (hi : i < 40) : (readCode (writeCode s p f 56 w) p f 56).getLsbD i =
    if (srMask p).getLsbD i then w.getLsbD i else (readCode s p f 56).getLsbD i := by
  rw [writeCode_sr, readCode_sr, readCode_sr, proc_setProc_same, bank_setBank_same]
  simp only [srWrite, BitVec.getLsbD_or, BitVec.getLsbD_and, BitVec.getLsbD_not, decide_eq_true hi, Bool.true_and]
  cases (srMask p).getLsbD i <;> simp

theorem read_written_cr :
    bitsOf (readCode (writeCode s p f 57 w) p f 57).toNat 39 38 = bitsOf w.toNat 39 38 ∧ (bitsOf w.toNat 37 32 ≤ 40 →
      bitsOf (readCode (writeCode s p f 57 w) p f 57).toNat 37 32 = bitsOf w.toNat 37 32) := by
  rw [writeCode_cr, readCode_cr, proc_setProc_same]
  simp only [crWrite, BitVec.toNat_ofNat]
  have hfrac : bitsOf w.toNat 39 38 < 2 ^ 2 := bitsOf_lt ..
  have hrpos : ∀ n, bitsOf n 37 32 < 2 ^ 6 := fun n => bitsOf_lt ..
  have hnew := hrpos w.toNat
  have hold := hrpos (s.proc p).cr.toNat
  generalize bitsOf w.toNat 39 38 = frac at hfrac ⊢
  generalize bitsOf w.toNat 37 32 = new at hnew ⊢
  generalize bitsOf (s.proc p).cr.toNat 37 32 = old at hold ⊢
  simp only [bitsOf]
  constructor
  · split <;> omega
  · intro hle
    rw [if_pos hle]
    omega

theorem pcBits_le : pcBits p ≤ 40 := by
  unfold pcBits
  split <;> decide

theorem read_written_return (h : c = 58 ∨ c = 60) :
    (readCode (writeCode s p f c w) p f c).toNat = w.toNat % 2 ^ pcBits p := by
  rcases h with rfl | rfl
  · rw [writeCode_ira, readCode_ira, proc_setProc_same, toNat_ofNat_mod _ _ (pcBits_le p)]
  · rw [writeCode_fra, readCode_fra, proc_setProc_same, toNat_ofNat_mod _ _ (pcBits_le p)]

theorem read_written_isr : readCode (writeCode s p f 59 w) p f 59 = w := by
  rw [writeCode_isr, readCode_isr, proc_setProc_same]

end Written

/-! ### The other cells -/

/-- After a write of a bank's cell every register outside the bank reads as before. -/
theorem readCode_setBank_rest (s : State) (p : Nat) (f : Bool) (b : Bank) {c : Nat} (h : c = 57 ∨ c = 58 ∨ c = 59 ∨ c = 60) :
    readCode (s.setProc p ((s.proc p).setBank f b)) p f c = readCode s p f c := by
  rcases h with rfl | rfl | rfl | rfl
  · rw [readCode_cr, readCode_cr, proc_setProc_same]
    cases f <;> rfl
  · rw [readCode_ira, readCode_ira, proc_setProc_same]
    cases f <;> rfl
  · rw [readCode_isr, readCode_isr, proc_setProc_same]
    cases f <;> rfl
  · rw [readCode_fra, readCode_fra, proc_setProc_same]
    cases f <;> rfl

section Other

variable {s : State} {p : Nat} {f : Bool} {k c : Nat}

/-- A write of the bank leaves the registers whose cells it keeps. -/
theorem read_setBank_congr {b : Bank}
    (hx : c < 16 → b.getX c = ((s.proc p).bank f).getX c := by intros; rfl)
    (ha : 16 ≤ c → c < 24 → b.a = ((s.proc p).bank f).a := by intros; rfl)
    (hp : 24 ≤ c → c < 32 → mget 0 b.p (c % 8) = mget 0 ((s.proc p).bank f).p (c % 8) := by intros; rfl)
    (hm : 32 ≤ c → c < 40 → mget 0 b.m (c % 8) = mget 0 ((s.proc p).bank f).m (c % 8) := by intros; rfl)
    (hb : 40 ≤ c → c < 48 → mget 0 b.b (c % 8) = mget 0 ((s.proc p).bank f).b (c % 8) := by intros; rfl)
    (hl : 48 ≤ c → c < 56 → mget 0 b.l (c % 8) = mget 0 ((s.proc p).bank f).l (c % 8) := by intros; rfl)
    (hsr : c = 56 → b.sr = ((s.proc p).bank f).sr := by intros; rfl) :
    readCode (s.setProc p ((s.proc p).setBank f b)) p f c = readCode s p f c :=
  readCode_congr rfl (by rw [proc_setProc_same, bank_setBank_same]) hx ha hp hm hb hl hsr (readCode_setBank_rest s p f b)

theorem read_other_x (w : Word) (h : k < 16) (hne : c ≠ k) : readCode (writeCode s p f k w) p f c = readCode s p f c := by
  rw [writeCode_x _ _ _ _ h]
  exact read_setBank_congr (hx := fun _ => mget_mset_other _ _ _ _ _ _ hne)

/-- An accumulator that is written recomputes its AG, and is read in two parts. -/
theorem read_other_acc (w : Word) (h : 16 ≤ k) (h' : k < 24) (hc : c < 16 ∨ 24 ≤ c) (hsr : c ≠ 56) :
    readCode (writeCode s p f k w) p f c = readCode s p f c := by
  obtain ⟨n, v, hv⟩ : ∃ n v, writeCode s p f k w = s.setProc p ((s.proc p).setBank f (setAcc p ((s.proc p).bank f) n v)) := by
    cases hsup : isSup p
    · rcases Nat.mod_two_eq_zero_or_one k with hpar | hpar
      · exact ⟨_, _, writeCode_acc _ _ _ _ hsup h h' hpar⟩
      · exact ⟨_, _, writeCode_guard _ _ _ _ hsup h h' hpar⟩
    · exact ⟨_, _, writeCode_accSup _ _ _ _ hsup h h'⟩
  rw [hv]
  exact read_setBank_congr (ha := fun h h' => by omega) (hsr := fun h => absurd h hsr)

theorem read_other_p (w : Word) (h : 24 ≤ k) (h' : k < 32) (hne : c ≠ k) :
    readCode (writeCode s p f k w) p f c = readCode s p f c := by
  rw [writeCode_p _ _ _ _ h h']
  exact read_setBank_congr (hp := fun _ _ => mget_mset_other _ _ _ _ _ _ (by omega))

theorem read_other_m (w : Word) (h : 32 ≤ k) (h' : k < 40) (hne : c ≠ k) :
    readCode (writeCode s p f k w) p f c = readCode s p f c := by
  rw [writeCode_m _ _ _ _ h h']
  exact read_setBank_congr (hm := fun _ _ => mget_mset_other _ _ _ _ _ _ (by omega))

theorem read_other_b (w : Word) (h : 40 ≤ k) (h' : k < 48) (hne : c ≠ k) :
    readCode (writeCode s p f k w) p f c = readCode s p f c := by
  rw [writeCode_b _ _ _ _ h h']
  exact read_setBank_congr (hb := fun _ _ => mget_mset_other _ _ _ _ _ _ (by omega))

theorem read_other_l (w : Word) (h : 48 ≤ k) (h' : k < 56) (hne : c ≠ k) :
    readCode (writeCode s p f k w) p f c = readCode s p f c := by
  rw [writeCode_l _ _ _ _ h h']
  exact read_setBank_congr (hl := fun _ _ => mget_mset_other _ _ _ _ _ _ (by omega))

theorem bank_congr {v v' : ProcSt} (hmain : v'.main = v.main) (hshadow : v'.shadow = v.shadow) (f : Bool) : v'.bank f = v.bank f := by
  rw [ProcSt.bank, ProcSt.bank, hmain, hshadow]

/-- A write beside the banks leaves the registers of the banks, and those whose cells it keeps. -/
theorem read_setProc_congr {v v' : ProcSt} (hv : s.proc p = v) (hmain : v'.main = v.main) (hshadow : v'.shadow = v.shadow)
    (hcr : c = 57 → v'.cr = v.cr) (hira : c = 58 → v'.ira = v.ira) (hisr : c = 59 → v'.isr = v.isr)
    (hfra : c = 60 → v'.fra = v.fra) : readCode (s.setProc p v') p f c = readCode s p f c := by
  subst hv
  refine readCode_congr rfl ((congrArg (ProcSt.bank · f) (proc_setProc_same s p v')).trans (bank_congr hmain hshadow f))
    (hrest := fun h => ?_)
  rcases h with rfl | rfl | rfl | rfl
  · rw [readCode_cr, readCode_cr, proc_setProc_same, hcr rfl]
  · rw [readCode_ira, readCode_ira, proc_setProc_same, hira rfl]
  · rw [readCode_isr, readCode_isr, proc_setProc_same, hisr rfl]
  · rw [readCode_fra, readCode_fra, proc_setProc_same, hfra rfl]

theorem read_other_sr (w : Word) (hne : c ≠ 56) : readCode (writeCode s p f 56 w) p f c = readCode s p f c := by
  rw [writeCode_sr]
  exact read_setBank_congr (hsr := fun h => absurd h hne)

theorem read_other_cr (w : Word) (hne : c ≠ 57) : readCode (writeCode s p f 57 w) p f c = readCode s p f c := by
  obtain ⟨v, hv⟩ : ∃ v, s.proc p = v := ⟨_, rfl⟩
  rw [writeCode_cr, hv]
  exact read_setProc_congr hv rfl rfl (fun h => absurd h hne) (fun _ => rfl) (fun _ => rfl) (fun _ => rfl)

theorem read_other_ira (w : Word) (hne : c ≠ 58) : readCode (writeCode s p f 58 w) p f c = readCode s p f c := by
  obtain ⟨v, hv⟩ : ∃ v, s.proc p = v := ⟨_, rfl⟩
  rw [writeCode_ira, hv]
  exact read_setProc_congr hv rfl rfl (fun _ => rfl) (fun h => absurd h hne) (fun _ => rfl) (fun _ => rfl)

theorem read_other_isr (w : Word) (hne : c ≠ 59) : readCode (writeCode s p f 59 w) p f c = readCode s p f c := by
  obtain ⟨v, hv⟩ : ∃ v, s.proc p = v := ⟨_, rfl⟩
  rw [writeCode_isr, hv]
  exact read_setProc_congr hv rfl rfl (fun _ => rfl) (fun _ => rfl) (fun h => absurd h hne) (fun _ => rfl)

theorem read_other_fra (w : Word) (hne : c ≠ 60) : readCode (writeCode s p f 60 w) p f c = readCode s p f c := by
  obtain ⟨v, hv⟩ : ∃ v, s.proc p = v := ⟨_, rfl⟩
  rw [writeCode_fra, hv]
  exact read_setProc_congr hv rfl rfl (fun _ => rfl) (fun _ => rfl) (fun _ => rfl) (fun h => absurd h hne)

/-- A move leaves every other register alone. -/
theorem read_written_other (w : Word) (hk : k < 61) (hacc : 16 ≤ c ∧ c < 24 ∨ c = 56 → k < 16 ∨ 24 ≤ k) (hne : c ≠ k) :
    readCode (writeCode s p f k w) p f c = readCode s p f c := by
  rcases Nat.lt_or_ge k 16 with h16 | h16
  · exact read_other_x w h16 hne
  rcases Nat.lt_or_ge k 24 with h24 | h24
  · have hout : ¬ (16 ≤ c ∧ c < 24 ∨ c = 56) := fun h => by
      have hk := hacc h
      omega
    exact read_other_acc w h16 h24 (by omega) (by omega)
  rcases Nat.lt_or_ge k 32 with h32 | h32
  · exact read_other_p w h24 h32 hne
  rcases Nat.lt_or_ge k 40 with h40 | h40
  · exact read_other_m w h32 h40 hne
  rcases Nat.lt_or_ge k 48 with h48 | h48
  · exact read_other_b w h40 h48 hne
  rcases Nat.lt_or_ge k 56 with h56 | h56
  · exact read_other_l w h48 h56 hne
  obtain rfl | rfl | rfl | rfl | rfl : k = 56 ∨ k = 57 ∨ k = 58 ∨ k = 59 ∨ k = 60 := by omega
  · exact read_other_sr w hne
  · exact read_other_cr w hne
  · exact read_other_ira w hne
  · exact read_other_isr w hne
  · exact read_other_fra w hne

end Other

/-! ### The instructions -/

section Moves

variable {s : State} {p : Proc} (h : Issuing s p)
include h

/-- A legal instruction of `n` words that writes a word to Xd. -/
theorem runInsn_setX (i : Insn) (n rd : Nat) (w : Word) (hlegal : i.legal (isSup p) = true)
    (hi : issueOk io p i s = stepPc ((endCycle s p).setX p rd w) p (s.ppc p) n) (hrti : i ≠ .rti := by nofun)
    (hrtf : i ≠ .rtf := by nofun) :
    ∃ t, runInsn p i s = .next t ∧ EndsInCycle (endCycle s p) t p (s.ppc p) n [rd] ∧ t.getX p rd = w ∧
      t.sr p = (endCycle s p).sr p := by
  refine ⟨_, runInsn_issuing h i hlegal hrti hrtf, ?_⟩
  rw [hi, settle_stepPc (unheld_setX (unheld_endCycle h) rd w)]
  exact ⟨endsInCycle_setX .., by rw [getX_setPpc, getX_setX_same], by rw [sr_setPpc, sr_setX]⟩

/-- A legal instruction of `n` words that writes a register by its code. -/
theorem runInsn_writeCode (i : Insn) (n : Nat) {code : Nat} (hcode : code < 61) (w : Word) (hlegal : i.legal (isSup p) = true)
    (hi : issueOk io p i s = stepPc (writeCode (endCycle s p) p (s.inFast p) code w) p (s.ppc p) n)
    (hrti : i ≠ .rti := by nofun) (hrtf : i ≠ .rtf := by nofun) :
    runInsn p i s =
      .next ((writeCode (endCycle s p) p (s.inFast p) code w).setPpc p (nextPc p (s.ppc p) n)) := by
  obtain ⟨v, hv, hunheld⟩ := writeCode_only (endCycle s p) p (s.inFast p) w hcode
  rw [runInsn_issuing h i hlegal hrti hrtf, hi, settle_stepPc]
  rw [hv, proc_setProc_same]
  exact hunheld (unheld_endCycle h)

end Moves

theorem procOnly_writeCode (e : State) (p : Nat) (f : Bool) {code : Nat} (hcode : code < 61) (w : Word) (n : Nat) :
    ProcOnly e ((writeCode e p f code w).setPpc p n) p [pcField p] := by
  obtain ⟨v, hv, -⟩ := writeCode_only e p f w hcode
  rw [hv]
  exact procOnly_setPpc (procOnly_setProc (procOnly_refl e p _) v) n (List.mem_singleton_self _)

theorem readCode_setPpc (s : State) (p n : Nat) (f : Bool) (c : Nat) : readCode (s.setPpc p n) p f c = readCode s p f c := rfl

theorem codeOk_iff (sup : Bool) (code : Nat) : codeOk sup code = true ↔ code < 61 ∧ (sup = true → code < 17 ∨ 23 < code) := by
  cases sup <;> simp [codeOk]

end Sys2Proof.Laws
end

section
open Sys2Proof Sys2Proof.Machine Sys2Proof.Safety Sys2Proof.Laws

/-- Settles O15: each move ends in its issue cycle, and a register read back is the cell its code names. -/
theorem movesConvertToTheRegisterWidth : Obligations.MovesConvertToTheRegisterWidth := by
  unfold Obligations.MovesConvertToTheRegisterWidth
  intro s p rd ra code h e
  refine ⟨runInsn_setX h (.mv rd ra) 1 rd (s.getX p ra) rfl rfl, fun i => ?_, fun w => ?_, fun hok => ⟨?_, fun w => ?_⟩⟩
  · obtain ⟨t, ht, hends, hx, hsr⟩ := runInsn_setX h (.mvi rd (.imm i)) 1 rd (i.signExtend 40) rfl rfl
    exact ⟨t, ht, hends, by rw [hx, BitVec.toInt_signExtend_of_le (by decide)], hsr⟩
  · exact runInsn_setX h (.mvi rd (.imm40 w)) 2 rd w rfl rfl
  · exact runInsn_setX h (.mvfr rd code) 1 rd _ hok rfl
  · obtain ⟨hcode, hsupCode⟩ := (codeOk_iff ..).1 hok
    have hengine : isSup p = false ∨ code.val = 16 ∨ ¬ (16 ≤ code.val ∧ code.val < 24) := by
      cases hsup : isSup p
      · exact .inl rfl
      · have := hsupCode hsup
        exact .inr (by omega)
    refine ⟨_, (writeCode e p (s.inFast p) code w).setPpc p (nextPc p (s.ppc p) 1),
      runInsn_writeCode h (.mvti code w) 2 hcode w hok rfl, ppc_setPpc_nextPc .., fun hx => ⟨?_, ppc_setPpc_nextPc .., rfl⟩,
      procOnly_writeCode e p _ hcode w _, ?_⟩
    · rw [← hx]
      exact runInsn_writeCode h (.mvtr code ra) 1 hcode _ hok rfl
    · simp only [readCode_setPpc]
      refine ⟨fun hx => read_written_x e p _ w hx, fun hlo hhi hw => read_written_acc e p _ w hlo hhi hw,
        fun hlo hhi hsup heven => read_written_guardOf e p _ w hsup hlo hhi heven, fun hlo hhi hodd => ?_,
        fun hpb => read_written_pb e p _ w hpb, fun hlo hhi => read_written_m e p _ w hlo hhi,
        fun hlo hhi => read_written_l e p _ w hlo hhi, fun hsr i hi => ?_, fun hcr => ?_,
        fun hret => read_written_return e p _ w hret, fun hisr => ?_, fun c _ hacc hne => read_written_other w hcode hacc hne⟩
      · have hsup : isSup p = false := by
          rcases hengine with hsup | h16 | hout
          · exact hsup
          · omega
          · exact absurd ⟨hlo, hhi⟩ hout
        exact read_written_guard e p _ w hsup hlo hhi hodd
      · rw [hsr]
        exact read_written_sr e p _ w hi
      · rw [hcr]
        exact read_written_cr e p _ w
      · rw [hisr]
        exact read_written_isr e p _ w

end

section
/-! SUPPORT. Results in flight and the accumulators they land in (R152, R154-R157). -/

namespace Sys2Proof.Laws

open Sys2Proof Sys2Proof.Machine Sys2Proof.Safety

/-! ### A result of the pipeline -/

/-- With nothing in flight the end of a cycle writes the processor back. -/
theorem endCycle_nil {s : State} {p : Nat} (hfly : (s.proc p).fly = []) : endCycle s p = s.setProc p (s.proc p) := by
  obtain ⟨v, hv⟩ : ∃ v, s.proc p = v := ⟨_, rfl⟩
  rw [hv] at hfly
  cases v
  subst hfly
  rw [endCycle, hv]
  rfl

/-- The state of a quiet processor after the issue of an instruction that puts one result in flight. -/
def inFlight (s : State) (p : Nat) (op : FlyOp) : State :=
  (putFly (s.setProc p (s.proc p)) p 2 op (s.ppc p)).setPpc p (nextPc p (s.ppc p) 1)

/-- The result that lands two cycles later. -/
def landing (s : State) (p : Nat) (op : FlyOp) : Fly := { left := 1, pc := s.ppc p, shadow := s.inFast p, op := op }

@[simp] theorem op_landing (s : State) (p : Nat) (op : FlyOp) : (landing s p op).op = op := rfl

@[simp] theorem shadow_landing (s : State) (p : Nat) (op : FlyOp) : (landing s p op).shadow = s.inFast p := rfl

/-- The state in which the result lands. -/
def beforeLanding (s : State) (p : Nat) (op : FlyOp) : State :=
  ((inFlight s p op).setProc p { s.proc p with fly := [landing s p op] }).setProc p (s.proc p)

theorem proc_inFlight {s : State} {p : Nat} (hfly : (s.proc p).fly = []) (op : FlyOp) :
    (inFlight s p op).proc p = { s.proc p with fly := [{ landing s p op with left := 2 }] } := by
  rw [inFlight, proc_setPpc, putFly, proc_setProc_same, proc_setProc_same, hfly]
  rfl

theorem putsInFlight {s : State} {p : Nat} (hfly : (s.proc p).fly = []) (op : FlyOp) : PutsInFlight s (inFlight s p op) p := by
  refine ⟨procOnly_setPpc (procOnly_setProc (procOnly_setProc (procOnly_refl s p _) _) _) _ (List.mem_singleton_self _), ?_, ?_⟩
  · rw [inFlight, ppc_setPpc_nextPc, nextPc]
  · rw [proc_inFlight hfly]

theorem advance_inFlight {s : State} {p : Nat} (hfly : (s.proc p).fly = []) (op : FlyOp) :
    advance p 2 (inFlight s p op) = landOne p (beforeLanding s p op) (landing s p op) := by
  have hfirst : endCycle (inFlight s p op) p = (inFlight s p op).setProc p { s.proc p with fly := [landing s p op] } := by
    rw [endCycle, proc_inFlight hfly]
    rfl
  obtain ⟨v, hv⟩ : ∃ v, s.proc p = v := ⟨_, rfl⟩
  show endCycle (endCycle (inFlight s p op) p) p = _
  rw [hfirst, beforeLanding, endCycle, proc_setProc_same]
  rw [hv] at hfly ⊢
  cases v
  subst hfly
  rfl

theorem proc_beforeLanding (s : State) (p : Nat) (op : FlyOp) : (beforeLanding s p op).proc p = s.proc p :=
  proc_setProc_same ..

theorem inFast_beforeLanding (s : State) (p : Nat) (op : FlyOp) : (beforeLanding s p op).inFast p = s.inFast p := by
  rw [beforeLanding, inFast_setProc, inFast_setProc, inFlight, inFast_setPpc, putFly, inFast_setProc, inFast_setProc]

theorem bankNow_beforeLanding (s : State) (p : Nat) (op : FlyOp) : bankNow (beforeLanding s p op) p = bankNow s p := by
  rw [bankNow, proc_beforeLanding, inFast_beforeLanding, bankNow]

/-- A quiet processor that issues a legal instruction with a result in flight changes nothing else. -/
theorem runInsn_inFlight {s : State} {p : Proc} (h : Quiet s p) (i : Insn) (op : FlyOp) (hlegal : i.legal (isSup p) = true)
    (hi : issueOk io p i s = stepPc (putFly (endCycle s p) p 2 op (s.ppc p)) p (s.ppc p) 1)
    (hrti : i ≠ .rti := by nofun) (hrtf : i ≠ .rtf := by nofun) : runInsn p i s = .next (inFlight s p op) := by
  obtain ⟨hissuing, hfly⟩ := h
  rw [runInsn_issuing hissuing i hlegal hrti hrtf, hi, endCycle_nil hfly, settle_stepPc, inFlight]
  rw [putFly, proc_setProc_same, proc_setProc_same]
  exact (unheld_of_issuing hissuing).of_unlanded rfl

/-! ### Bits of SR -/

theorem bitOf_toNat (w : Word) (i : Nat) : bitOf w.toNat i = w.getLsbD i := by
  rw [bitOf_eq_testBit, BitVec.testBit_toNat]

theorem bitOf_of_single {m i : Nat} {b : Bool} (h : bitsOf m i i = flag b) : bitOf m i = b := by
  rw [bitsOf_single] at h
  revert h
  cases bitOf m i <;> cases b <;> decide

theorem getLsbD_putBit (w : Word) {k : Nat} (hk : k < 40) (b : Bool) (i : Nat) :
    (BitVec.ofNat 40 (putBits w.toNat k k (flag b))).getLsbD i = if i = k then b else w.getLsbD i := by
  rw [← bitOf_toNat, toNat_putBits _ _ _ _ (Nat.le_refl k) hk]
  split
  next hi =>
    subst hi
    refine bitOf_of_single ?_
    rw [bitsOf_putBits_same _ _ _ _ (Nat.le_refl _), show i + 1 - i = 1 by omega]
    cases b <;> rfl
  next hi =>
    rw [← bitOf_toNat]
    refine bitOf_of_single ?_
    rw [← bitsOf_single]
    rcases Nat.lt_or_gt_of_ne hi with hlt | hgt
    · exact bitsOf_putBits_below _ _ _ _ _ _ (Nat.le_refl k) hlt (Nat.le_refl i)
    · exact bitsOf_putBits_above _ _ _ _ _ _ (Nat.le_refl k) hgt

theorem getLsbD_orBit (w : Word) {k i : Nat} (hi : i < 40) :
    (w ||| BitVec.ofNat 40 (2 ^ k)).getLsbD i = (w.getLsbD i || decide (i = k)) := by
  rw [BitVec.getLsbD_or, BitVec.getLsbD_ofNat, decide_eq_true hi, Bool.true_and, Nat.testBit_two_pow]
  simp only [eq_comm]

/-! ### An accumulator that is set -/

section SetAcc

variable (p : Nat) (b : Bank) (n v : Nat)

theorem accBits_pos : 0 < accBits p := by unfold accBits; split <;> decide

@[simp] theorem x_setAcc : (setAcc p b n v).x = b.x := rfl

theorem a_setAcc_same : mget 0 (setAcc p b n v).a n = v % 2 ^ accBits p := mget_mset_same ..

theorem a_setAcc_other {k : Nat} (h : k ≠ n) : mget 0 (setAcc p b n v).a k = mget 0 b.a k := mget_mset_other _ _ _ _ _ _ h

theorem accValue_setAcc_same : accValue p (setAcc p b n v) n = signed (accBits p) v := by
  rw [accValue, a_setAcc_same, signed_mod]

theorem accValue_setAcc_other {k : Nat} (h : k ≠ n) : accValue p (setAcc p b n v) k = accValue p b k := by
  rw [accValue, a_setAcc_other _ _ _ _ h, accValue]

/-- AG tells whether the accumulator uses its guard (R155). -/
def usesGuard (p : Nat) (i : Int) : Bool := decide (i < -(2 ^ (rangeBits p - 1))) || decide (2 ^ (rangeBits p - 1) ≤ i)

theorem sr_setAcc {n : Nat} (hn : n < 4) (i : Nat) : (setAcc p b n v).sr.getLsbD i =
    if i = 32 + n then usesGuard p (signed (accBits p) v) else b.sr.getLsbD i := by
  have hcast : ((2 ^ (rangeBits p - 1) : Nat) : Int) = 2 ^ (rangeBits p - 1) := by push_cast; rfl
  simp only [setAcc, getLsbD_putBit b.sr (show 32 + n < 40 by omega), usesGuard, hcast]

end SetAcc

/-! ### The banks that accumulator results leave -/

/-- Of a bank only the listed accumulators changed, with their bits of SR. -/
def AccBank (b b' : Bank) (ns : List Nat) : Prop :=
  b' = { b with a := b'.a, sr := b'.sr } ∧ (∀ k, k ∉ ns → mget 0 b'.a k = mget 0 b.a k) ∧
  (∀ k, k < 4 → k ∉ ns → b'.sr.getLsbD (32 + k) = b.sr.getLsbD (32 + k) ∧ b'.sr.getLsbD (36 + k) = b.sr.getLsbD (36 + k)) ∧
  ∀ i, i < 32 → b'.sr.getLsbD i = b.sr.getLsbD i

theorem accOnly_iff (s t : State) (p : Nat) (ns : List Nat) : AccOnly s t p ns ↔ AccBank (bankNow s p) (bankNow t p) ns := Iff.rfl

theorem AccBank.trans {b c d : Bank} {ns : List Nat} (h : AccBank b c ns) (h' : AccBank c d ns) : AccBank b d ns := by
  obtain ⟨hrest, hacc, hbits, hlow⟩ := h
  obtain ⟨hrest', hacc', hbits', hlow'⟩ := h'
  refine ⟨?_, fun k hk => (hacc' k hk).trans (hacc k hk), fun k hk hns => ?_, fun i hi => (hlow' i hi).trans (hlow i hi)⟩
  · rw [hrest', hrest]
  · exact ⟨(hbits' k hk hns).1.trans (hbits k hk hns).1, (hbits' k hk hns).2.trans (hbits k hk hns).2⟩

theorem setAcc_accBank (p : Nat) (b : Bank) {n : Nat} (hn : n < 4) (v : Nat) {ns : List Nat} (hns : n ∈ ns) :
    AccBank b (setAcc p b n v) ns := by
  refine ⟨rfl, fun k hk => a_setAcc_other p b n v fun he => hk (he ▸ hns), fun k hk hkn => ?_, fun i hi => ?_⟩
  · have hne : k ≠ n := fun he => hkn (he ▸ hns)
    rw [sr_setAcc p b v hn, sr_setAcc p b v hn, if_neg (by omega), if_neg (by omega)]
    exact ⟨rfl, rfl⟩
  · rw [sr_setAcc p b v hn, if_neg (by omega)]

/-- A bank with an accumulator that an exact result has reached (R155). -/
def landedBank (p : Nat) (b : Bank) (n : Nat) (judged sat : Bool) (i : Int) : Bank :=
  let r := accResult (accBits p) sat i
  let b1 := setAcc p b n r.1
  if judged && r.2 then { b1 with sr := b1.sr ||| BitVec.ofNat 40 (2 ^ (36 + n)) } else b1

section Landed

variable (p : Nat) (b : Bank) {n : Nat} (judged sat : Bool) (i : Int)

theorem a_landedBank (n : Nat) : (landedBank p b n judged sat i).a = (setAcc p b n (accResult (accBits p) sat i).1).a := by
  simp only [landedBank]
  split <;> rfl

theorem accValue_landedBank_other {k : Nat} (h : k ≠ n) : accValue p (landedBank p b n judged sat i) k = accValue p b k := by
  rw [accValue, a_landedBank, ← accValue, accValue_setAcc_other p b n _ h]

theorem sr_landedBank (n : Nat) {k : Nat} (hk : k < 40) : (landedBank p b n judged sat i).sr.getLsbD k =
    ((setAcc p b n (accResult (accBits p) sat i).1).sr.getLsbD k || (judged && (accResult (accBits p) sat i).2 && decide (k = 36 + n))) := by
  simp only [landedBank]
  cases judged && (accResult (accBits p) sat i).2
  · simp
  · rw [if_pos rfl, getLsbD_orBit _ hk, Bool.true_and]

theorem landedBank_accBank (hn : n < 4) {ns : List Nat} (hns : n ∈ ns) : AccBank b (landedBank p b n judged sat i) ns := by
  obtain ⟨hrest, hacc, hbits, hlow⟩ := setAcc_accBank p b hn (accResult (accBits p) sat i).1 hns
  refine ⟨?_, fun k hk => by rw [a_landedBank, hacc k hk], fun k hk hkn => ?_, fun j hj => ?_⟩
  · simp only [landedBank]
    split <;> rfl
  · have hne : k ≠ n := fun he => hkn (he ▸ hns)
    rw [sr_landedBank p b judged sat i n (by omega), sr_landedBank p b judged sat i n (by omega),
      decide_eq_false (show ¬ 32 + k = 36 + n by omega), decide_eq_false (show ¬ 36 + k = 36 + n by omega), Bool.and_false,
      Bool.or_false, Bool.or_false]
    exact hbits k hk hkn
  · rw [sr_landedBank p b judged sat i n (by omega), decide_eq_false (by omega), Bool.and_false, Bool.or_false, hlow j hj]

end Landed

/-! ### What lands -/

section Lands

variable {u : State} {p : Nat} {f : Fly} (hshadow : f.shadow = u.inFast p)
include hshadow

theorem bankNow_landAcc (n : Nat) (judged sat : Bool) (i : Int) :
    bankNow (landAcc u p f n judged sat i) p = landedBank p (bankNow u p) n judged sat i := by
  have hfast : (landAcc u p f n judged sat i).inFast p = u.inFast p := (landAcc_landed (Landed.refl u p) f n judged sat i).inFast
  rw [bankNow, hfast, bankNow, ← hshadow]
  unfold landAcc landedBank
  dsimp only
  split
  · split
    · rw [proc_setPf, proc_setPf, proc_raiseEdge, proc_setProc_same, bank_setBank_same]
    · rw [proc_setProc_same, bank_setBank_same]
  · rw [proc_setProc_same, bank_setBank_same]

end Lands

/-! ### Exact results (R155) -/

theorem signed_unsigned {w : Nat} (hw : 0 < w) {i : Int} (hlo : -2 ^ (w - 1) ≤ i) (hhi : i < 2 ^ (w - 1)) :
    signed w (unsigned w i) = i := by
  obtain ⟨k, rfl⟩ : ∃ k, w = k + 1 := ⟨w - 1, by omega⟩
  have hpow : 2 ^ (k + 1) = 2 * 2 ^ k := Nat.pow_succ'
  have hcast : ((2 ^ k : Nat) : Int) = 2 ^ k := by push_cast; rfl
  rw [signed_eq_bmod (Nat.succ_pos k), unsigned, Int.toNat_of_nonneg (Int.emod_nonneg _ (by positivity)), Int.emod_bmod]
  rw [Nat.add_sub_cancel, ← hcast] at hlo hhi
  rw [hpow]
  exact Int.bmod_eq_of_le_mul_two (by push_cast at hlo ⊢; omega) (by push_cast at hhi ⊢; omega)

/-- The value an exact result of `w` bits leaves: the result, clamped, or modulo the width (R155). -/
def kept (w : Nat) (sat : Bool) (i : Int) : Int :=
  if -2 ^ (w - 1) ≤ i ∧ i < 2 ^ (w - 1) then i
  else if sat then (if i < 0 then -2 ^ (w - 1) else 2 ^ (w - 1) - 1)
  else signed w (unsigned w i)

theorem signed_accResult {w : Nat} (hw : 0 < w) (sat : Bool) (i : Int) : signed w (accResult w sat i).1 = kept w sat i := by
  have hcast : ((2 ^ (w - 1) : Nat) : Int) = 2 ^ (w - 1) := by push_cast; rfl
  have hpos : (0 : Int) < 2 ^ (w - 1) := by positivity
  rw [accResult, kept]
  simp only [hcast]
  by_cases hin : -2 ^ (w - 1) ≤ i ∧ i < 2 ^ (w - 1)
  · rw [if_pos hin, if_pos hin, signed_unsigned hw hin.1 hin.2]
  · rw [if_neg hin, if_neg hin]
    cases sat
    · rfl
    · simp only [if_true]
      by_cases hneg : i < 0
      · rw [if_pos hneg, signed_unsigned hw (Int.le_refl _) (by omega)]
      · rw [if_neg hneg, signed_unsigned hw (by omega) (by omega)]

theorem accResult_overflow (w : Nat) (sat : Bool) (i : Int) :
    (accResult w sat i).2 = (decide (i < -2 ^ (w - 1)) || decide (2 ^ (w - 1) ≤ i)) := by
  have hcast : ((2 ^ (w - 1) : Nat) : Int) = 2 ^ (w - 1) := by push_cast; rfl
  rw [accResult]
  simp only [hcast]
  by_cases hin : -2 ^ (w - 1) ≤ i ∧ i < 2 ^ (w - 1)
  · rw [if_pos hin, decide_eq_false (by omega), decide_eq_false (by omega)]
    rfl
  · rw [if_neg hin]
    have hover : (decide (i < -2 ^ (w - 1)) || decide (2 ^ (w - 1) ≤ i)) = true := by
      rw [Bool.or_eq_true, decide_eq_true_eq, decide_eq_true_eq]
      omega
    rw [hover]
    cases sat <;> rfl

/-- What `AccTakes` says of an accumulator, over the banks. -/
def TakesBank (p : Nat) (b b' : Bank) (n : Nat) (judged sat : Bool) (i : Int) : Prop :=
  accValue p b' n = kept (accBits p) sat i ∧
  b'.sr.getLsbD (36 + n) =
    (b.sr.getLsbD (36 + n) || (judged && (decide (i < -2 ^ (accBits p - 1)) || decide (2 ^ (accBits p - 1) ≤ i)))) ∧
  b'.sr.getLsbD (32 + n) = usesGuard p (accValue p b' n)

theorem accTakes_iff (s t : State) (p n : Nat) (judged sat : Bool) (i : Int) :
    AccTakes s t p n judged sat i ↔ TakesBank p (bankNow s p) (bankNow t p) n judged sat i := Iff.rfl

theorem landedBank_takes (p : Nat) (b : Bank) {n : Nat} (hn : n < 4) (judged sat : Bool) (i : Int) :
    TakesBank p b (landedBank p b n judged sat i) n judged sat i := by
  have hvalue : accValue p (landedBank p b n judged sat i) n = signed (accBits p) (accResult (accBits p) sat i).1 := by
    rw [accValue, a_landedBank, ← accValue, accValue_setAcc_same]
  refine ⟨by rw [hvalue, signed_accResult (accBits_pos p)], ?_, ?_⟩
  · rw [sr_landedBank p b judged sat i n (by omega), sr_setAcc p b _ hn, if_neg (by omega), accResult_overflow,
      decide_eq_true rfl, Bool.and_true]
  · rw [sr_landedBank p b judged sat i n (by omega), sr_setAcc p b _ hn, if_pos rfl, decide_eq_false (by omega), Bool.and_false,
      Bool.or_false, hvalue]

/-- A result of another accumulator leaves what one took. -/
theorem TakesBank.trans {p : Nat} {b c d : Bank} {n : Nat} {judged sat : Bool} {i : Int} {ns : List Nat}
    (h : TakesBank p b c n judged sat i) (hcd : AccBank c d ns) (hn : n < 4) (hns : n ∉ ns) : TakesBank p b d n judged sat i := by
  obtain ⟨hvalue, hav, hag⟩ := h
  obtain ⟨-, hacc, hbits, -⟩ := hcd
  have hsame : accValue p d n = accValue p c n := by rw [accValue, hacc n hns, accValue]
  obtain ⟨hag', hav'⟩ := hbits n hn hns
  exact ⟨hsame.trans hvalue, hav'.trans hav, by rw [hag', hag, hsame]⟩

theorem AccBank.takes {p : Nat} {b c d : Bank} {n : Nat} {judged sat : Bool} {i : Int} {ns : List Nat}
    (hbc : AccBank b c ns) (hn : n < 4) (hns : n ∉ ns) (h : TakesBank p c d n judged sat i) : TakesBank p b d n judged sat i := by
  obtain ⟨hvalue, hav, hag⟩ := h
  obtain ⟨-, -, hbits, -⟩ := hbc
  exact ⟨hvalue, by rw [hav, (hbits n hn hns).2], hag⟩

/-! ### Instructions on one accumulator -/

/-- A quiet processor issues an instruction whose exact result reaches an accumulator two cycles later. -/
theorem runInsn_landAcc {s : State} {p : Proc} (h : Quiet s p) (i : Insn) (op : FlyOp) {n : Nat} (hn : n < 4)
    (judged sat : Bool) (v : Int) (hlegal : i.legal (isSup p) = true)
    (hi : issueOk io p i s = stepPc (putFly (endCycle s p) p 2 op (s.ppc p)) p (s.ppc p) 1)
    (hop : ∀ u : State, bankNow u p = bankNow s p → u.inFast p = s.inFast p →
      landOne p u (landing s p op) = landAcc u p (landing s p op) n judged sat v)
    (hrti : i ≠ .rti := by nofun) (hrtf : i ≠ .rtf := by nofun) :
    ∃ t, runInsn p i s = .next t ∧ PutsInFlight s t p ∧ AccOnly s (advance p 2 t) p [n] ∧
      AccTakes s (advance p 2 t) p n judged sat v := by
  have hfast := inFast_beforeLanding s p op
  have hbank := bankNow_beforeLanding s p op
  refine ⟨_, runInsn_inFlight h i op hlegal hi hrti hrtf, putsInFlight h.2 op, ?_⟩
  rw [accOnly_iff, accTakes_iff, advance_inFlight h.2, hop _ hbank hfast, bankNow_landAcc (hfast.symm), hbank]
  exact ⟨landedBank_accBank p _ judged sat v hn (List.mem_singleton_self n), landedBank_takes p _ hn judged sat v⟩

end Sys2Proof.Laws
end

section
/-! SUPPORT. The results of MUL, ACC and EXT as they land (R154-R157, R192). -/

namespace Sys2Proof.Laws

open Sys2Proof Sys2Proof.Machine Sys2Proof.Safety

/-! ### Rounding to nearest even (R156, R157) -/

/-- The multiple of `2 ^ k` nearest to a number, over `2 ^ k`; of two as near the even one. -/
def halfEven (k : Nat) (i : Int) : Int :=
  if k ≠ 0 ∧ (((2 ^ (k - 1) : Nat) : Int) < i % (2 ^ k : Nat) ∨ (i % (2 ^ k : Nat) = (2 ^ (k - 1) : Nat) ∧ i / (2 ^ k : Nat) % 2 = 1))
  then i / (2 ^ k : Nat) + 1 else i / (2 ^ k : Nat)

/-- The rounded number is nearest, and even when two are as near. -/
def Nearest (k : Nat) (i q : Int) : Prop :=
  2 * (i - q * 2 ^ k) ≤ 2 ^ k ∧ -2 ^ k ≤ 2 * (i - q * 2 ^ k) ∧
  ((2 * (i - q * 2 ^ k) = 2 ^ k ∨ 2 * (i - q * 2 ^ k) = -2 ^ k) → k = 0 ∨ q % 2 = 0)

theorem halfEven_nearest (k : Nat) (i : Int) : Nearest k i (halfEven k i) := by
  have hcast : ((2 ^ k : Nat) : Int) = 2 ^ k := by push_cast; rfl
  have hsplit : 2 ^ k * (i / 2 ^ k) + i % 2 ^ k = i := Int.mul_ediv_add_emod i (2 ^ k)
  have hpos : (0 : Int) < 2 ^ k := by positivity
  have hlow := Int.emod_nonneg i (Int.ne_of_gt hpos)
  have hhigh := Int.emod_lt_of_pos i hpos
  have hhalf : k ≠ 0 → (2 : Int) ^ k = 2 * (2 ^ (k - 1) : Nat) := fun hk => by
    obtain ⟨j, rfl⟩ : ∃ j, k = j + 1 := ⟨k - 1, by omega⟩
    push_cast
    exact pow_succ' 2 j
  have hone : k = 0 → (2 : Int) ^ k = 1 := fun hk => by rw [hk]; rfl
  unfold Nearest halfEven
  rw [hcast]
  generalize (2 : Int) ^ k = m at *
  generalize ((2 ^ (k - 1) : Nat) : Int) = half at *
  generalize i % m = d at *
  have hup : (i / m + 1) * m = m * (i / m) + m := by rw [Int.add_mul, Int.one_mul, Int.mul_comm]
  rw [apply_ite (· * m), hup, Int.mul_comm (i / m) m]
  generalize m * (i / m) = base at *
  generalize i / m = q at *
  by_cases hk : k = 0
  · have hm := hone hk
    rw [if_neg (fun hc => hc.1 hk), if_neg (fun hc => hc.1 hk)]
    exact ⟨by omega, by omega, fun _ => .inl hk⟩
  · have hm := hhalf hk
    split <;> exact ⟨by omega, by omega, fun htie => .inr (by omega)⟩

theorem roundAt_eq (k : Nat) (i : Int) : roundAt k i = halfEven k i * 2 ^ k := by
  have hcast : ((2 ^ k : Nat) : Int) = 2 ^ k := by push_cast; rfl
  have hpos : (0 : Int) < 2 ^ k := by positivity
  have hsplit : i - i % 2 ^ k = 2 ^ k * (i / 2 ^ k) := by have := Int.mul_ediv_add_emod i (2 ^ k); omega
  have hquot : 2 ^ k * (i / 2 ^ k) / 2 ^ k = i / 2 ^ k := Int.mul_ediv_cancel_left _ (Int.ne_of_gt hpos)
  by_cases hk : k = 0
  · subst hk
    simp [roundAt, halfEven]
  · have hcond : ∀ c : Prop, (k ≠ 0 ∧ c) = c := fun c => by simp [hk]
    rw [roundAt, if_neg hk, halfEven]
    simp only [hcast, hsplit, hquot, hcond]
    split
    · rw [Int.add_mul, Int.one_mul, Int.mul_comm]
    · rw [Int.mul_comm]

/-! ### Extraction (R156) -/

section Extract

variable {w : Nat} (hw : 0 < w) (hw' : w ≤ 40) (k : Nat) (i : Int)

theorem extract_eq (sat : Bool) : extract w sat k i =
    if -2 ^ (w - 1) ≤ halfEven k i ∧ halfEven k i < 2 ^ (w - 1) then (BitVec.ofNat 40 (unsigned 40 (halfEven k i)), false)
    else if sat then (BitVec.ofNat 40 (unsigned 40 (if halfEven k i < 0 then -2 ^ (w - 1) else 2 ^ (w - 1) - 1)), false)
    else (BitVec.ofNat 40 (unsigned 40 (signed w (unsigned w (halfEven k i)))), true) := by
  have hcast : ((2 ^ (w - 1) : Nat) : Int) = 2 ^ (w - 1) := by push_cast; rfl
  simp only [extract, hcast]
  rfl

include hw hw'

/-- A number of the result range is kept by its word. -/
theorem toInt_of_range {v : Int} (hlo : -2 ^ (w - 1) ≤ v) (hhi : v < 2 ^ (w - 1)) : (BitVec.ofNat 40 (unsigned 40 v)).toInt = v := by
  have hle : (2 : Int) ^ (w - 1) ≤ 2 ^ 39 := by exact_mod_cast Nat.pow_le_pow_right (by decide : 0 < 2) (show w - 1 ≤ 39 by omega)
  exact toInt_unsigned (by omega) (by omega)

variable {k i}

theorem extract_inside (sat : Bool) (h : -2 ^ (w - 1) ≤ halfEven k i ∧ halfEven k i < 2 ^ (w - 1)) :
    (extract w sat k i).1.toInt = halfEven k i := by
  rw [extract_eq, if_pos h]
  exact toInt_of_range hw hw' h.1 h.2

theorem extract_clamped (h : ¬(-2 ^ (w - 1) ≤ halfEven k i ∧ halfEven k i < 2 ^ (w - 1))) :
    (extract w true k i).1.toInt = if halfEven k i < 0 then -2 ^ (w - 1) else 2 ^ (w - 1) - 1 := by
  have hpos : (0 : Int) < 2 ^ (w - 1) := by positivity
  rw [extract_eq, if_neg h, if_pos rfl]
  apply toInt_of_range hw hw' <;> split <;> omega

theorem extract_wrapped (h : ¬(-2 ^ (w - 1) ≤ halfEven k i ∧ halfEven k i < 2 ^ (w - 1))) :
    (extract w false k i).1.toInt = signed w (unsigned w (halfEven k i)) ∧ (extract w false k i).2 = true := by
  obtain ⟨hlo, hhi⟩ := signed_bounds hw (unsigned w (halfEven k i))
  rw [extract_eq, if_neg h, if_neg Bool.false_ne_true]
  exact ⟨toInt_of_range hw hw' hlo hhi, rfl⟩

end Extract

/-! ### What lands, from the state at issue -/

theorem landOne_sum (s u : State) (p n : Nat) (v : Int) (judged sat : Bool) :
    landOne p u (landing s p (.sum n false v judged sat 0)) =
      landAcc u p (landing s p (.sum n false v judged sat 0)) n judged sat v := rfl

section AtIssue

variable {s u : State} {p : Nat} (hbank : bankNow u p = bankNow s p) (hfast : u.inFast p = s.inFast p)
include hbank hfast

theorem bank_atIssue (op : FlyOp) : (u.proc p).bank (landing s p op).shadow = bankNow s p := by
  rw [← hbank, bankNow, hfast]
  rfl

theorem landOne_sum_kept (n : Nat) (v : Int) (judged sat : Bool) (r : Nat) :
    landOne p u (landing s p (.sum n true v judged sat r)) =
      landAcc u p (landing s p (.sum n true v judged sat r)) n judged sat (roundAt r (accNow s p n + v)) := by
  rw [accNow, ← bank_atIssue hbank hfast (.sum n true v judged sat r)]
  rfl

theorem landOne_addAcc (n m : Nat) (sat : Bool) :
    landOne p u (landing s p (.addAcc n m sat)) =
      landAcc u p (landing s p (.addAcc n m sat)) n true sat (accNow s p n + accNow s p m) := by
  rw [accNow, accNow, ← bank_atIssue hbank hfast (.addAcc n m sat)]
  rfl

theorem landOne_asl (n k : Nat) (sat : Bool) :
    landOne p u (landing s p (.asl n k sat)) = landAcc u p (landing s p (.asl n k sat)) n true sat (accNow s p n * 2 ^ k) := by
  rw [accNow, ← bank_atIssue hbank hfast (.asl n k sat), landOne]
  push_cast
  rfl

theorem landOne_asr (n k : Nat) :
    landOne p u (landing s p (.asr n k)) = landAcc u p (landing s p (.asr n k)) n false false (accNow s p n / 2 ^ k) := by
  rw [accNow, ← bank_atIssue hbank hfast (.asr n k), landOne]
  push_cast
  rfl

theorem landOne_neg (n : Nat) (sat : Bool) :
    landOne p u (landing s p (.neg n sat)) = landAcc u p (landing s p (.neg n sat)) n true sat (-accNow s p n) := by
  rw [accNow, ← bank_atIssue hbank hfast (.neg n sat)]
  rfl

/-- The bank that an extraction leaves: Xd, and AV where the result left the range unclamped. -/
theorem bankNow_landExt (rd n k : Nat) (sat : Bool) :
    let r := extract (rangeBits p) sat k (accNow s p n)
    let b := (bankNow s p).setX rd r.1
    bankNow (landOne p u (landing s p (.ext rd n k sat))) p =
      if r.2 then { b with sr := b.sr ||| BitVec.ofNat 40 (2 ^ (36 + n)) } else b := by
  intro r b
  have hkept : (landOne p u (landing s p (.ext rd n k sat))).inFast p = s.inFast p :=
    (landOne_landed (Landed.refl u p) _).inFast.trans hfast
  rw [bankNow, hkept]
  have hvalue : accValue p (bankNow s p) n = accNow s p n := rfl
  simp only [landOne, op_landing, bank_atIssue hbank hfast, hvalue]
  split
  · split
    · rw [proc_setPf, proc_setPf, proc_raiseEdge, proc_setProc_same]
      exact bank_setBank_same ..
    · rw [proc_setProc_same]
      exact bank_setBank_same ..
  · rw [proc_setProc_same]
    exact bank_setBank_same ..

end AtIssue

/-! ### The extraction of a quiet processor -/

section Ext

variable {s : State} {p : Proc} (h : Quiet s p) (sat : Bool) (rd : Fin 16) (n : Fin 4) (k : Fin 64)

theorem getX_orSr (b : Bank) (w : Word) (c : Prop) [Decidable c] (j : Nat) :
    (if c then { b with sr := b.sr ||| w } else b).getX j = b.getX j := by
  split <;> rfl

include h

theorem advance_ext : bankNow (advance p 2 (inFlight s p (.ext rd n k sat))) p =
    let r := extract (rangeBits p) sat k (accNow s p n)
    let b := (bankNow s p).setX rd r.1
    if r.2 then { b with sr := b.sr ||| BitVec.ofNat 40 (2 ^ (36 + n.val)) } else b := by
  rw [advance_inFlight h.2]
  exact bankNow_landExt (bankNow_beforeLanding ..) (inFast_beforeLanding ..) rd n k sat

theorem getX_advance_ext_same :
    (advance p 2 (inFlight s p (.ext rd n k sat))).getX p rd = (extract (rangeBits p) sat k (accNow s p n)).1 := by
  rw [getX_eq_bankNow, advance_ext h, getX_orSr]
  exact mget_mset_same ..

theorem getX_advance_ext_other {j : Nat} (hj : j ≠ rd.val) :
    (advance p 2 (inFlight s p (.ext rd n k sat))).getX p j = s.getX p j := by
  rw [getX_eq_bankNow, advance_ext h, getX_orSr]
  exact mget_mset_other _ _ _ _ _ _ hj

theorem av_advance_ext (hover : (extract (rangeBits p) sat k (accNow s p n)).2 = true) :
    ((advance p 2 (inFlight s p (.ext rd n k sat))).sr p).getLsbD (36 + n) = true := by
  have hn := n.isLt
  rw [sr_eq_bankNow, advance_ext h]
  simp only [hover, if_true]
  rw [getLsbD_orBit _ (by omega), decide_eq_true rfl, Bool.or_true]

end Ext

theorem legal_acc {sup sat : Bool} {fn : AccFn} {rd ra n m k : Nat} (hacc : sup = true → n = 0 ∧ m = 0)
    (hext : fn = .ext → k ≤ 40 := by nofun) (hshift : fn = .asl ∨ fn = .asr → k ≤ if sup then 39 else 47 := by nofun) :
    (Insn.acc fn sat rd ra n m k).legal sup = true := by
  have hone : (!(sup && (decide (n ≠ 0) || decide (m ≠ 0)))) = true := by
    cases sup
    · rfl
    · simp [hacc rfl]
  cases fn
  case ext => exact Bool.and_eq_true_iff.2 ⟨hone, decide_eq_true (hext rfl)⟩
  case asl => exact Bool.and_eq_true_iff.2 ⟨hone, decide_eq_true (hshift (.inl rfl))⟩
  case asr => exact Bool.and_eq_true_iff.2 ⟨hone, decide_eq_true (hshift (.inr rfl))⟩
  all_goals exact Bool.and_eq_true_iff.2 ⟨hone, rfl⟩

theorem rangeBits_le (p : Nat) : 0 < rangeBits p ∧ rangeBits p ≤ 40 := by
  unfold rangeBits
  split <;> decide

end Sys2Proof.Laws
end

section
open Sys2Proof Sys2Proof.Machine Sys2Proof.Safety Sys2Proof.Laws

/-- Settles O19: each result that lands on an accumulator is the exact one that R155 keeps, and EXT is the half-even rounding of
the accumulator. -/
theorem accumulatorOperationsAndExtraction : Obligations.AccumulatorOperationsAndExtraction := by
  unfold Obligations.AccumulatorOperationsAndExtraction
  intro s p sat n m ra rd k h hsup does old
  have hn : n.val < 4 := n.isLt
  have hone : isSup p = true → n.val = 0 ∧ 0 = 0 := fun hp => ⟨congrArg Fin.val (hsup hp).1, rfl⟩
  have htwo : isSup p = true → n.val = 0 ∧ m.val = 0 := fun hp => ⟨congrArg Fin.val (hsup hp).1, congrArg Fin.val (hsup hp).2⟩
  have hwidth : accBits p = if isSup p then 40 else 48 := rfl
  refine ⟨?aclr, ?aadd, ?asub, ?aadda, fun hk => ⟨?asl, ?asr⟩, ?aneg, fun hk => ?ext⟩
  case aclr =>
    exact runInsn_landAcc h (.acc .aclr false 0 0 n 0 0) _ hn _ _ _ (legal_acc hone) rfl fun u _ _ => landOne_sum s u ..
  case aadd =>
    rw [← signed_toNat]
    exact runInsn_landAcc h (.acc .aadd sat 0 ra n 0 0) _ hn _ _ _ (legal_acc hone) rfl fun u hb hf => landOne_sum_kept hb hf ..
  case asub =>
    rw [← signed_toNat, sub_eq_add_neg]
    exact runInsn_landAcc h (.acc .asub sat 0 ra n 0 0) _ hn _ _ _ (legal_acc hone) rfl fun u hb hf => landOne_sum_kept hb hf ..
  case aadda =>
    exact runInsn_landAcc h (.acc .aadda sat 0 0 n m 0) _ hn _ _ _ (legal_acc htwo) rfl fun u hb hf => landOne_addAcc hb hf ..
  case asl =>
    have hshift : k.val ≤ if isSup p then 39 else 47 := by
      rw [hwidth] at hk
      split at hk <;> simp_all <;> omega
    exact runInsn_landAcc h (.acc .asl sat 0 0 n 0 k) _ hn _ _ _ (legal_acc hone (hshift := fun _ => hshift)) rfl
      fun u hb hf => landOne_asl hb hf ..
  case asr =>
    have hshift : k.val ≤ if isSup p then 39 else 47 := by
      rw [hwidth] at hk
      split at hk <;> simp_all <;> omega
    exact runInsn_landAcc h (.acc .asr false 0 0 n 0 k) _ hn _ _ _ (legal_acc hone (hshift := fun _ => hshift)) rfl
      fun u hb hf => landOne_asr hb hf ..
  case aneg =>
    exact runInsn_landAcc h (.acc .aneg sat 0 0 n 0 0) _ hn _ _ _ (legal_acc hone) rfl fun u hb hf => landOne_neg hb hf ..
  case ext =>
    obtain ⟨hpos, hle⟩ := rangeBits_le p
    obtain ⟨hup, hdown, htie⟩ := halfEven_nearest k old
    refine ⟨_, runInsn_inFlight h (.acc .ext sat rd 0 n 0 k) (.ext rd n k sat) (legal_acc hone (hext := fun _ => hk)) rfl,
      putsInFlight h.2 _, halfEven k old, hup, hdown, htie, fun hin => ?_, fun hout hsat => ?_, fun hout hsat => ⟨?_, ?_⟩,
      fun j hj => getX_advance_ext_other h sat rd n k hj⟩
    · rw [getX_advance_ext_same h]
      exact extract_inside hpos hle sat hin
    · subst hsat
      rw [getX_advance_ext_same h]
      exact extract_clamped hpos hle hout
    · subst hsat
      rw [getX_advance_ext_same h]
      exact (extract_wrapped hpos hle hout).1
    · subst hsat
      exact av_advance_ext h false rd n k (extract_wrapped hpos hle hout).2

end

section
/-! SUPPORT. The results of QUAD as they land on a pair of accumulators (R154, R192, Table 6.4). -/

namespace Sys2Proof.Laws

open Sys2Proof Sys2Proof.Machine Sys2Proof.Safety

/-! ### A pair -/

section Pair

variable {s : State} {p : Proc} (h : Quiet s p) (k : Fin 2)
include h

/-- A quiet processor issues an instruction whose exact results reach a pair of accumulators two cycles later. -/
theorem runInsn_landPair (i : Insn) (keep judged sat : Bool) (x y : Int) (hlegal : i.legal (isSup p) = true)
    (hi : issueOk io p i s = stepPc (putFly (endCycle s p) p 2 (.pair k keep x y judged sat) (s.ppc p)) p (s.ppc p) 1)
    (hrti : i ≠ .rti := by nofun) (hrtf : i ≠ .rtf := by nofun) :
    ∃ t, runInsn p i s = .next t ∧ PutsInFlight s t p ∧ AccOnly s (advance p 2 t) p [2 * k.val, 2 * k.val + 1] ∧
      AccTakes s (advance p 2 t) p (2 * k.val) judged sat ((if keep then accNow s p (2 * k.val) else 0) + x) ∧
      AccTakes s (advance p 2 t) p (2 * k.val + 1) judged sat ((if keep then accNow s p (2 * k.val + 1) else 0) + y) := by
  have hk := k.isLt
  have hsum : ∀ a v : Int, (if keep then a + v else v) = (if keep then a else 0) + v := fun a v => by cases keep <;> simp
  have hfast := inFast_beforeLanding s p (.pair k keep x y judged sat)
  have hbank := bankNow_beforeLanding s p (.pair k keep x y judged sat)
  have hlands : bankNow (landOne p (beforeLanding s p (.pair k keep x y judged sat)) (landing s p (.pair k keep x y judged sat))) p =
      landedBank p (landedBank p (bankNow s p) (2 * k.val) judged sat ((if keep then accNow s p (2 * k.val) else 0) + x))
        (2 * k.val + 1) judged sat ((if keep then accNow s p (2 * k.val + 1) else 0) + y) := by
    simp only [landOne, op_landing, bank_atIssue hbank hfast, hsum]
    rw [bankNow_landAcc, bankNow_landAcc hfast.symm, hbank]
    · rfl
    · exact hfast.symm.trans (landAcc_landed (Landed.refl _ p) _ _ _ _ _).inFast.symm
  have hfirst := landedBank_accBank p (bankNow s p) judged sat ((if keep then accNow s p (2 * k.val) else 0) + x)
    (n := 2 * k.val) (by omega) (List.mem_singleton_self _)
  have hsecond := landedBank_accBank p
    (landedBank p (bankNow s p) (2 * k.val) judged sat ((if keep then accNow s p (2 * k.val) else 0) + x)) judged sat
    ((if keep then accNow s p (2 * k.val + 1) else 0) + y) (n := 2 * k.val + 1) (by omega) (List.mem_singleton_self _)
  refine ⟨_, runInsn_inFlight h i _ hlegal hi hrti hrtf, putsInFlight h.2 _, ?_⟩
  simp only [accOnly_iff, accTakes_iff, advance_inFlight h.2, hlands]
  refine ⟨(landedBank_accBank p _ judged sat _ (by omega) (by simp)).trans (landedBank_accBank p _ judged sat _ (by omega) (by simp)),
    (landedBank_takes p _ (by omega) judged sat _).trans hsecond (by omega) (by simp),
    hfirst.takes (by omega) (by simp) (landedBank_takes p _ (by omega) judged sat _)⟩

end Pair

/-! ### A product of 80 bits -/

section Wide

variable {s : State} {p : Proc} (h : Quiet s p) (k : Fin 2)
include h

/-- A quiet processor issues an instruction whose wide product fills a pair of accumulators two cycles later. -/
theorem runInsn_landWide (i : Insn) (lo hi : Nat) (hlegal : i.legal (isSup p) = true)
    (hissue : issueOk io p i s = stepPc (putFly (endCycle s p) p 2 (.wide k lo hi) (s.ppc p)) p (s.ppc p) 1)
    (hrti : i ≠ .rti := by nofun) (hrtf : i ≠ .rtf := by nofun) :
    ∃ t, runInsn p i s = .next t ∧ PutsInFlight s t p ∧ AccOnly s (advance p 2 t) p [2 * k.val, 2 * k.val + 1] ∧
      mget 0 (bankNow (advance p 2 t) p).a (2 * k.val) = lo % 2 ^ accBits p ∧
      mget 0 (bankNow (advance p 2 t) p).a (2 * k.val + 1) = hi % 2 ^ accBits p := by
  have hk := k.isLt
  have hfast := inFast_beforeLanding s p (.wide k lo hi)
  have hbank := bankNow_beforeLanding s p (.wide k lo hi)
  have hlands : bankNow (landOne p (beforeLanding s p (.wide k lo hi)) (landing s p (.wide k lo hi))) p =
      setAcc p (setAcc p (bankNow s p) (2 * k.val) lo) (2 * k.val + 1) hi := by
    simp only [landOne, op_landing, bank_atIssue hbank hfast]
    rw [bankNow_setProc, hfast]
    exact bank_setBank_same ..
  refine ⟨_, runInsn_inFlight h i _ hlegal hissue hrti hrtf, putsInFlight h.2 _, ?_⟩
  rw [accOnly_iff, advance_inFlight h.2, hlands]
  refine ⟨(setAcc_accBank p _ (by omega) lo (by simp)).trans (setAcc_accBank p _ (by omega) hi (by simp)), ?_, a_setAcc_same ..⟩
  rw [a_setAcc_other _ _ _ _ (by omega), a_setAcc_same]

end Wide

/-- The two accumulators of a signed product of 80 bits, the high one sign-extended. -/
theorem wide_signed {x : Int} (hlo : -2 ^ 78 ≤ x) (hhi : x ≤ 2 ^ 78) :
    unsigned 80 x % 2 ^ 40 % 2 ^ 48 +
        2 ^ 40 * ((unsigned 80 x / 2 ^ 40 + if x < 0 then 0xFF * 2 ^ 40 else 0) % 2 ^ 48 % 2 ^ 40) = unsigned 80 x ∧
      (signed 48 ((unsigned 80 x / 2 ^ 40 + if x < 0 then 0xFF * 2 ^ 40 else 0) % 2 ^ 48) < 0 ↔ x < 0) := by
  rw [signed_mod, signed, unsigned]
  by_cases hneg : x < 0
  · simp only [if_pos hneg]
    constructor
    · omega
    · split <;> omega
  · simp only [if_neg hneg]
    constructor
    · omega
    · split <;> omega

theorem abs_toInt_le (a : Word) : |a.toInt| ≤ 2 ^ 39 := by
  have hlo := BitVec.le_toInt a
  have hhi := BitVec.toInt_lt (x := a)
  exact abs_le.2 ⟨hlo, Int.le_of_lt hhi⟩

theorem toInt_mul_bounds (a b : Word) : -2 ^ 78 ≤ a.toInt * b.toInt ∧ a.toInt * b.toInt ≤ 2 ^ 78 := by
  refine abs_le.1 ?_
  calc |a.toInt * b.toInt| = |a.toInt| * |b.toInt| := abs_mul ..
    _ ≤ 2 ^ 39 * 2 ^ 39 := mul_le_mul (abs_toInt_le a) (abs_toInt_le b) (abs_nonneg _) (by decide)
    _ = 2 ^ 78 := by decide

theorem legal_mul {sup sat : Bool} {fn : MulFn} {n ra rb : Nat} (hacc : sup = true → n = 0) :
    (Insn.mul fn sat n ra rb).legal sup = true := by
  cases sup
  · rfl
  · simp [Insn.legal, hacc rfl]

end Sys2Proof.Laws
end

section
open Sys2Proof Sys2Proof.Machine Sys2Proof.Safety Sys2Proof.Laws

/-- Settles O18: each product lands as the exact result that R155 keeps, a pair one accumulator after the other. -/
theorem productsAccumulateAndFillPairs : Obligations.ProductsAccumulateAndFillPairs := by
  unfold Obligations.ProductsAccumulateAndFillPairs
  refine ⟨fun s p sat n ra rb h hsup => ?mul, fun s p sat k ra rb rc h hsup => ?quad⟩
  case mul =>
    have hlegal : ∀ fn, (Insn.mul fn sat n ra rb).legal (isSup p) = true := fun fn => legal_mul fun hp => congrArg Fin.val (hsup hp)
    rw [← bitOf_toNat]
    intro prod old
    refine ⟨?mpy, ?mac, ?msu, ?macr⟩
    case mpy =>
      exact runInsn_landAcc h (.mul .mpy sat n ra rb) _ n.isLt _ _ _ (hlegal _) rfl fun u _ _ => landOne_sum s u ..
    case mac =>
      exact runInsn_landAcc h (.mul .mac sat n ra rb) _ n.isLt _ _ _ (hlegal _) rfl fun u hb hf => landOne_sum_kept hb hf ..
    case msu =>
      rw [sub_eq_add_neg]
      exact runInsn_landAcc h (.mul .msu sat n ra rb) _ n.isLt _ _ _ (hlegal _) rfl fun u hb hf => landOne_sum_kept hb hf ..
    case macr =>
      obtain ⟨t, ht, hfly, honly, htakes⟩ := runInsn_landAcc h (.mul .macr sat n ra rb) _ n.isLt true sat
        (roundAt (bitsOf (s.proc p).cr.toNat 37 32) (old + prod)) (hlegal _) rfl fun u hb hf => landOne_sum_kept hb hf ..
      obtain ⟨hup, hdown, htie⟩ := halfEven_nearest (bitsOf (s.proc p).cr.toNat 37 32) (old + prod)
      rw [roundAt_eq] at htakes
      refine ⟨t, ht, hfly, honly, _, htakes, hup, hdown, fun hm => (htie hm).imp_left fun hk => ?_⟩
      rw [hk, pow_zero]
  case quad =>
    have hlegal : ∀ fn rc', (Insn.quad fn sat k ra rb rc').legal (isSup p) = true := fun _ _ => by rw [Insn.legal, hsup]; rfl
    have hwidth : accBits p = 48 := by rw [accBits, hsup]; rfl
    rw [← bitOf_toNat]
    intro f lo hi n0 n1 pair re im rej imj d0 d1
    refine ⟨runInsn_landPair h k (.quad .cmul sat k ra rb 0) false false sat re im (hlegal _ _) rfl,
      runInsn_landPair h k (.quad .cmac sat k ra rb 0) true true sat re im (hlegal _ _) rfl,
      runInsn_landPair h k (.quad .cmulj sat k ra rb 0) false false sat rej imj (hlegal _ _) rfl,
      runInsn_landPair h k (.quad .cmacj sat k ra rb 0) true true sat rej imj (hlegal _ _) rfl,
      runInsn_landPair h k (.quad .dmpy sat k ra rb rc) false false sat d0 d1 (hlegal _ _) rfl,
      runInsn_landPair h k (.quad .dmac sat k ra rb rc) true true sat d0 d1 (hlegal _ _) rfl, ?mul40, ?mul40u⟩
    case mul40 =>
      obtain ⟨t, ht, hfly, honly, hlow, hhigh⟩ := runInsn_landWide h k (.quad .mul40 sat k ra rb 0) _ _ (hlegal _ _) rfl
      obtain ⟨hmin, hmax⟩ := toInt_mul_bounds (s.getX p ra) (s.getX p rb)
      obtain ⟨hword, hsign⟩ := wide_signed hmin hmax
      simp only [signed_toNat, hwidth, Bool.true_and, decide_eq_true_eq] at hlow hhigh
      refine ⟨t, ht, hfly, honly, ?_, ?_⟩
      · rw [hlow, hhigh, hword]
      · rw [accNow, accValue, hhigh, hwidth, hsign]
    case mul40u =>
      obtain ⟨t, ht, hfly, honly, hlow, hhigh⟩ := runInsn_landWide h k (.quad .mul40u sat k ra rb 0) _ _ (hlegal _ _) rfl
      refine ⟨t, ht, hfly, honly, ?_⟩
      rw [hlow, hhigh, hwidth]
      have hprod : (s.getX p ra).toNat * (s.getX p rb).toNat < 2 ^ 40 * 2 ^ 40 :=
        Nat.mul_lt_mul'' (s.getX p ra).isLt (s.getX p rb).isLt
      simp only [unsigned, Bool.false_and, Bool.false_eq_true, if_false]
      generalize (s.getX p ra).toNat * (s.getX p rb).toNat = x at hprod ⊢
      omega

end

section
/-! SUPPORT. Interrupt acceptance, edge sources, debug access and the watchdog's count (R158-R161, R174, R178). -/

namespace Sys2Proof.Laws

open Sys2Proof Sys2Proof.Machine Sys2Proof.Safety

/-! ### Edge sources -/

theorem edge_lt (s : State) (p : Nat) : s.pf p F.SE_IRQ_PEND.EDGE F.SUP_IRQ_PEND.EDGE < 2 ^ 16 := by
  unfold State.pf
  cases isSup p <;> exact bitsOf_lt _ 31 16

theorem edge_setPf {v : Nat} (s : State) (p : Nat) (hv : v < 2 ^ 16) :
    (s.setPf p F.SE_IRQ_PEND.EDGE F.SUP_IRQ_PEND.EDGE v).pf p F.SE_IRQ_PEND.EDGE F.SUP_IRQ_PEND.EDGE = v := by
  rw [pf_setPf_same]
  cases isSup p <;> exact Nat.mod_eq_of_lt hv

theorem edge_raiseEdge (s : State) (p : Nat) {bit : Nat} (h : bit - 16 < 16) :
    (raiseEdge s p bit).pf p F.SE_IRQ_PEND.EDGE F.SUP_IRQ_PEND.EDGE =
      s.pf p F.SE_IRQ_PEND.EDGE F.SUP_IRQ_PEND.EDGE ||| 2 ^ (bit - 16) := by
  rw [raiseEdge, edge_setPf]
  exact Nat.or_lt_two_pow (edge_lt s p) (Nat.pow_lt_pow_right (by decide) h)

/-- An acceptance clears the pending bit of an edge source (R160). -/
theorem edge_clearEdge (s : State) (p : Nat) {bit k : Nat} (hk : k < 16) :
    bitOf ((clearEdge s p bit).pf p F.SE_IRQ_PEND.EDGE F.SUP_IRQ_PEND.EDGE) k =
      (bitOf (s.pf p F.SE_IRQ_PEND.EDGE F.SUP_IRQ_PEND.EDGE) k && decide (16 + k ≠ bit)) := by
  unfold clearEdge
  dsimp only
  split
  next h =>
    rw [edge_setPf, bitOf_sub_and, bitOf_eq_testBit (2 ^ (bit - 16)), Nat.testBit_two_pow]
    · congr 1
      rw [← decide_not]
      exact decide_eq_decide.2 (by omega)
    · exact Nat.lt_of_le_of_lt (Nat.sub_le ..) (edge_lt s p)
  next h => rw [decide_eq_true (by omega), Bool.and_true]

theorem clearEdge_keeps (s : State) (p bit : Nat) : (clearEdge s p bit).procs = s.procs ∧
    (∀ {se sup : Fld}, fldsApart F.SE_IRQ_PEND.EDGE se = true ∧ fldsApart F.SUP_IRQ_PEND.EDGE sup = true →
      (clearEdge s p bit).pf p se sup = s.pf p se sup) := by
  unfold clearEdge
  dsimp only
  split
  · exact ⟨rfl, fun h => pf_setPf_apart s p _ h⟩
  · exact ⟨rfl, fun _ => rfl⟩

/-! ### Cycles with nothing in flight -/

theorem advance_nil {p : Nat} (n : Nat) : ∀ {s : State}, (s.proc p).fly = [] →
    ∃ m, advance p n s = { s with procs := m } ∧ (advance p n s).proc p = s.proc p := by
  induction n with
  | zero => exact fun {s} _ => ⟨s.procs, rfl, rfl⟩
  | succ n ih =>
    intro s hfly
    have hsame : (s.setProc p (s.proc p)).proc p = s.proc p := proc_setProc_same ..
    obtain ⟨m, hm, hproc⟩ := ih (s := s.setProc p (s.proc p)) (by rw [hsame, hfly])
    rw [advance, endCycle_nil hfly]
    exact ⟨m, hm, hproc.trans hsame⟩

/-! ### Acceptance (R159-R161) -/

/-- What both acceptances do to an untraced processor with nothing in flight. -/
structure Accepted (s t : State) (p b : Nat) : Prop where
  proc   : t.proc p = { s.proc p with waitLeft := 0 }
  inFast : t.inFast p = s.inFast p
  ppc    : t.ppc p = handlerOf s p b
  pstate : t.pstate p = 1
  edge   : ∀ k, k < 16 → bitOf (t.pf p F.SE_IRQ_PEND.EDGE F.SUP_IRQ_PEND.EDGE) k =
    (bitOf (s.pf p F.SE_IRQ_PEND.EDGE F.SUP_IRQ_PEND.EDGE) k && decide (16 + k ≠ b))

theorem takeHandler_accepted {s : State} {p : Nat} (htraced : s.traced p = false) (hfly : (s.proc p).fly = []) (b : Nat)
    (fast : Bool) : Accepted s (takeHandler s p b fast) p b := by
  obtain ⟨m, hm, hproc⟩ := advance_nil 3 hfly
  unfold takeHandler
  dsimp only
  rw [trcCaught_untraced htraced, trcExc_untraced htraced, trcNoIssue_untraced htraced]
  have hpf : ∀ se sup, (advance p 3 s).pf p se sup = s.pf p se sup := fun se sup => by rw [hm]; rfl
  obtain ⟨hprocs, hkeeps⟩ := clearEdge_keeps (advance p 3 s) p b
  refine ⟨?_, ?_, ?_, ?_, fun k hk => ?_⟩
  · rw [proc_setPstate, proc_setPpc, proc_setProc_same, hproc]
  · rw [inFast_setPstate, inFast_setPpc, inFast_setProc, State.inFast, hkeeps (by decide), hpf, State.inFast]
  · rw [ppc_setPstate, ppc_setPpc_same, handlerOf, Nat.mod_mod]
  · rw [pstate_setPstate_same]
  · rw [State.setPstate, pf_setPf_apart, State.setPpc, pf_setPf_apart, pf_setProc, edge_clearEdge _ _ hk, hpf]

/-- The request that both classes take: the lowest bit of the class. -/
theorem acceptable_lowest {s : State} {p b : Nat} {fast : Bool} (hb : b < 32) (hfast : s.inFast p = false)
    (henabled : bitOf (s.proc p).main.sr.toNat (if fast then 28 else 30) = true) (hasks : bitOf (enabledBits s p) b = true)
    (hclass : fastClass s p b = fast)
    (hlower : ∀ k, k < b → bitOf (enabledBits s p) k = true → fastClass s p k = !fast) : acceptable s p fast = some b := by
  have hfind : (List.range 32).find? (fun k => bitOf (enabledBits s p) k && fastClass s p k == fast) = some b := by
    rw [List.find?_range_eq_some]
    refine ⟨by simp [hasks, hclass], List.mem_range.2 hb, fun k hk => ?_⟩
    cases hk' : bitOf (enabledBits s p) k
    · rfl
    · rw [hlower k hk hk']
      cases fast <;> rfl
  unfold acceptable
  dsimp only
  rw [hfast, hfind]
  cases fast <;> simp_all

theorem acceptable_fast_none {s : State} {p : Nat}
    (h : bitOf (s.proc p).main.sr.toNat 28 = true → ∀ k, k < 32 → bitOf (enabledBits s p) k = true → fastClass s p k = false) :
    acceptable s p true = none := by
  unfold acceptable
  dsimp only
  split
  · rfl
  · cases hfe : bitOf (s.proc p).main.sr.toNat 28
    · rfl
    · simpa using h hfe

/-- The mask of an acceptance clears IE, bit 30 (R160). -/
theorem getLsbD_clearIe (w : Word) {i : Nat} (hi : i < 40) : (w &&& 0xFFBFFFFFFF#40).getLsbD i = (w.getLsbD i && i != 30) := by
  have hmask : ∀ j : Fin 40, (0xFFBFFFFFFF#40).getLsbD j = (j.val != 30) := by decide
  rw [BitVec.getLsbD_and, hmask ⟨i, hi⟩]

/-! ### A wake event -/

/-- A wake event is pending at once, whether its source wakes the region or not (R396). -/
theorem wakeEvent_pend (s : State) (r : Nat) {src : Nat} (hsrc : src < 8) :
    bitOf ((wakeEvent s r src).fld F.PWR_WAKE_PEND.PEND r) src = true := by
  have hset : bitOf ((s.orFld F.PWR_WAKE_PEND.PEND r 0 src).fld F.PWR_WAKE_PEND.PEND r) src = true := by
    rw [State.orFld, State.fld_setFld_same _ _ _ _ _ (by decide) (by decide), bitOf_eq_testBit, Nat.testBit_mod_two_pow,
      Nat.testBit_or, Nat.testBit_two_pow_self, Bool.or_true, Bool.and_true]
    exact decide_eq_true hsrc
  have hwoken := (wakeRegion_powerOnly (s.orFld F.PWR_WAKE_PEND.PEND r 0 src) r src 4).2 F.PWR_WAKE_PEND.PEND r 0 (by decide)
    fun f hf he => by
      rcases wakeFlds_cases hf with hstat | rfl
      · exact absurd (he.trans hstat) (wakePend_ne_stat r)
      · exact ⟨rfl, rfl, rfl, .inr (show 7 < 8 by decide)⟩
  unfold wakeEvent
  dsimp only
  split
  · rw [State.fld_eq, hwoken, ← State.fld_eq, hset]
  · exact hset

/-! ### A doorbell (R158, R396) -/

theorem ringDoorbell_reg (s : State) (p : Nat) (v : Word) :
    (ringDoorbell s p v).reg (if isSup p then .SUP_DOORBELL else .SE_DOORBELL) (procUnit p) = v := by
  unfold ringDoorbell raiseEdge State.setPf
  cases isSup p
  · exact (State.reg_setFld_other _ _ _ _ _ _ _ _ (regAddr_tile_ne_of_offset rfl rfl (by decide) _)).trans
      (State.reg_setReg_same ..)
  · exact (State.reg_setFld_other _ _ _ _ _ _ _ _ (regAddr_ne_of_offset rfl rfl (by decide) (by decide) (by decide) _ _)).trans
      (State.reg_setReg_same ..)

theorem ringDoorbell_edge (s : State) (p : Nat) (v : Word) :
    (ringDoorbell s p v).pf p F.SE_IRQ_PEND.EDGE F.SUP_IRQ_PEND.EDGE = s.pf p F.SE_IRQ_PEND.EDGE F.SUP_IRQ_PEND.EDGE ||| 8 := by
  rw [ringDoorbell, edge_raiseEdge _ _ (by decide)]
  unfold State.pf
  cases isSup p
  · exact congrArg (· ||| 8) (State.fld_setReg_other s .SE_DOORBELL F.SE_IRQ_PEND.EDGE _ _ 0 0 v
      (regAddr_tile_ne_of_offset rfl rfl (by decide) _))
  · exact congrArg (· ||| 8)
      (State.fld_setReg_other s .SUP_DOORBELL F.SUP_IRQ_PEND.EDGE _ _ 0 0 v
      (regAddr_ne_of_offset rfl rfl (by decide) (by decide) (by decide) _ _))

/-- A slot of a region beside its power registers keeps its contents in a wake event. -/
theorem wakeEvent_reg (s : State) (k src : Nat) {r : Reg} (hblk : r.place.blk = .region) (hoff : r.place.offset < 0x800000)
    (hne : r.place.offset ≠ Reg.PWR_STAT.place.offset ∧ r.place.offset ≠ Reg.PWR_WAKE_PEND.place.offset) :
    (wakeEvent s k src).reg r k = s.reg r k := by
  refine wakeEvent_regsKept s k src r k 0 ?_
  have hout : ∀ r', r'.place.blk = .region → r'.place.offset + 0 * r'.place.stride < 0x800000 → r.place.offset ≠ r'.place.offset →
      regAddr r k 0 ≠ regAddr r' k 0 := fun r' hblk' hlt hoff' =>
    regAddr_ne_of_offset hblk hblk' (by omega) hlt (by omega) _ _
  simp only [List.mem_cons, List.not_mem_nil, or_false, not_or]
  exact ⟨hout .PWR_STAT rfl (by decide) hne.1, hout .PWR_WAKE_PEND rfl (by decide) hne.2⟩

/-! ### Registers of a processor's block -/

theorem procUnit_sup (r : Nat) : isSup (64 + r) = true ∧ procUnit (64 + r) = r := by
  have hsup : isSup (64 + r) = true := decide_eq_true (Nat.le_add_right ..)
  exact ⟨hsup, by rw [procUnit, if_pos hsup, Nat.add_sub_cancel_left]⟩

theorem dbgOpen_iff (s : State) (p : Nat) : dbgOpen s p = true ↔ s.pstate p = 0 ∨ s.pstate p = 5 := by
  simp [dbgOpen]

end Sys2Proof.Laws
end

section
open Sys2Proof Sys2Proof.Machine Sys2Proof.Safety Sys2Proof.Laws

/-- Settles O22: an acceptance by what both classes share, and each access by its condition. -/
theorem interruptsAndDebugAccess : Obligations.InterruptsAndDebugAccess := by
  unfold Obligations.InterruptsAndDebugAccess
  refine ⟨fun s p htraced hfly => ?_, fun s p w => ?_⟩
  · intro asks fast sr handler edge
    refine ⟨fun b hb hpoint hbank hie hasks hclass hlower hnofast => ?normal, fun b hb hpoint hbank hfe hasks hclass hlower => ?fast,
      fun v => ?doorbell, fun fastNow => ?gun⟩
    case normal =>
      have hnone : acceptable s p true = none := acceptable_fast_none fun hfe => hnofast (by rwa [← bitOf_toNat])
      have hsome : acceptable s p false = some b :=
        acceptable_lowest hb hbank (by rw [bitOf_toNat]; exact hie) hasks hclass hlower
      have hexec : exec (.normalInterrupt p) s = .next (acceptNormal s p b) := by
        show execNormalInterrupt p s = _
        rw [execNormalInterrupt, hpoint, hnone, hsome]
      obtain ⟨hproc, hfast, hppc, hpstate, hedge⟩ := takeHandler_accepted (b := b) (fast := false)
        (s := s.setProc p { s.proc p with
          ira := s.ppc p, isr := (s.proc p).main.sr, main := { (s.proc p).main with sr := (s.proc p).main.sr &&& 0xFFBFFFFFFF#40 } })
        htraced (by rw [proc_setProc_same]; exact hfly)
      rw [proc_setProc_same] at hproc
      refine ⟨_, hexec, ?_⟩
      rw [acceptNormal, hproc]
      exact ⟨rfl, rfl, fun i hi => getLsbD_clearIe _ hi, rfl, rfl, hfast.trans hbank, hppc, hpstate, hedge⟩
    case fast =>
      have hsome : acceptable s p true = some b :=
        acceptable_lowest hb hbank (by rw [bitOf_toNat]; exact hfe) hasks hclass hlower
      have hexec : exec (.fastInterrupt p) s = .next (acceptFast s p b) := by
        show execFastInterrupt p s = _
        rw [execFastInterrupt, hpoint, hsome]
      obtain ⟨hproc, -, hppc, hpstate, hedge⟩ := takeHandler_accepted (b := b) (fast := true)
        (s := s.setProc p { s.proc p with fra := s.ppc p }) htraced (by rw [proc_setProc_same]; exact hfly)
      rw [proc_setProc_same] at hproc
      refine ⟨_, hexec, ?_⟩
      rw [acceptFast, proc_setPf, hproc]
      refine ⟨rfl, rfl, rfl, ?_, ?_, ?_, fun k hk => ?_⟩
      · rw [State.inFast, pf_setPf_same]
        cases isSup p <;> rfl
      · rw [State.ppc, pf_setPf_apart]
        exact hppc
      · rw [State.pstate, pf_setPf_apart]
        exact hpstate
      · simp only [edge]
        rw [pf_setPf_apart]
        exact hedge k hk
    case doorbell =>
      refine ⟨writeDoorbell s p v, rfl, ?_⟩
      unfold writeDoorbell
      dsimp only
      have hreg := ringDoorbell_reg s p v
      have hedge := ringDoorbell_edge s p v
      cases hsup : isSup p
      · rw [hsup] at hreg
        exact ⟨hreg, hedge, rfl, rfl, fun h => absurd h Bool.false_ne_true⟩
      · obtain ⟨m, q, hwake⟩ := wakeEvent_only (ringDoorbell s p v) (p - 64) 7
        have hunit : procUnit p = p - 64 := by rw [procUnit, hsup, if_pos rfl]
        have hkept := fun r => @wakeEvent_reg (ringDoorbell s p v) (p - 64) 7 r
        rw [hsup, hunit] at hreg
        refine ⟨?_, ?_, by rw [if_pos rfl, hwake]; rfl, by rw [if_pos rfl, hwake]; rfl, fun _ => wakeEvent_pend _ _ (by decide)⟩
        · rw [hunit]
          exact (hkept .SUP_DOORBELL rfl (by decide) (by decide)).trans hreg
        · rw [← hedge]
          simp only [edge, State.pf, hsup, hunit, if_true]
          unfold State.fld
          rw [hkept F.SUP_IRQ_PEND.EDGE.reg rfl (by decide) (by decide)]
    case gun =>
      refine ⟨gunIrq s p fastNow, rfl, ?_, gunIrq_fast .., ?_⟩
      · simp only [edge]
        rw [gunIrq, edge_raiseEdge _ _ (by decide)]
        rfl
      · exact procOnly_setPf (procOnly_setProc (procOnly_refl s p _) _) F.SE_IRQ_PEND.EDGE F.SUP_IRQ_PEND.EDGE _
          (List.mem_singleton_self _)
  · intro idle
    have hclosed : ¬idle → dbgOpen s p = false := fun h => Bool.eq_false_iff.2 (mt (dbgOpen_iff s p).1 h)
    refine ⟨fun a h => ?imem, fun a h => ?imemRefused, fun h => ⟨?dbgWriteRefused, ?dbgReadRefused⟩, fun h hcode => ⟨?dbgWrite, ?dbgRead⟩,
      fun r => ⟨?kick, fun hcounts hwarned => ?warning⟩⟩
    case imem =>
      refine ⟨writeImem s p a w, rfl, ?_⟩
      rw [writeImem, if_pos h]
      refine ⟨State.reg_setReg_same s .., mget_merase_same .., ?_, rfl⟩
      exact (keepsRegs_iff ..).2 (RegsKept.setReg _ _ _ _ (List.mem_singleton_self _) (RegsKept.refl _ _))
    case imemRefused =>
      show Host.Outcome.next (writeImem s p a w) = _
      rw [writeImem, if_neg h]
    case dbgWriteRefused =>
      show Host.Outcome.next (dbgWrite s p w) = _
      rw [dbgWrite, hclosed h, if_neg Bool.false_ne_true]
    case dbgReadRefused =>
      show Host.Outcome.next { s with lastRead := dbgRead s p } = _
      rw [dbgRead, hclosed h, if_neg Bool.false_ne_true]
    case dbgWrite =>
      have hwrite : dbgWrite s p w = s.setProc p ((s.proc p).setBank (dbgBank s p)
          (((s.proc p).bank (dbgBank s p)).setX (dbgCode s p) w)) := by
        rw [dbgWrite, (dbgOpen_iff s p).2 h, if_pos rfl, if_neg (by omega), writeCode_x _ _ _ _ hcode]
      refine ⟨dbgWrite s p w, rfl, ?_⟩
      rw [hwrite, proc_setProc_same, bank_setBank_same]
      exact ⟨mget_mset_same .., fun k hk => mget_mset_other _ _ _ _ _ _ hk, procOnly_setProc (procOnly_refl s p _) _⟩
    case dbgRead =>
      show Host.Outcome.next { s with lastRead := dbgRead s p } = _
      rw [dbgRead, (dbgOpen_iff s p).2 h, if_pos rfl, if_neg (by omega), if_neg (by omega), readCode_x _ _ _ hcode]
    case kick =>
      refine ⟨wdogKick s r, rfl, ?_, procOnly_setProc (procOnly_refl s _ _) _⟩
      rw [wdogKick, proc_setProc_same]
    case warning =>
      obtain ⟨hsup, hunit⟩ := procUnit_sup r
      have hexec : exec (.wdogWarning r) s =
          .next (raiseEdge (s.setProc (64 + r) { s.proc (64 + r) with warned := true }) (64 + r) 28) := by
        show execWdogWarning r s = _
        rw [execWdogWarning]
        dsimp only
        rw [hcounts, hwarned]
        rfl
      refine ⟨_, hexec, by rw [proc_raiseEdge, proc_setProc_same], ?_, ?_⟩
      · have hedge := edge_raiseEdge (s.setProc (64 + r) { s.proc (64 + r) with warned := true }) (64 + r) (bit := 28) (by decide)
        simp only [State.pf, hsup, hunit, if_true] at hedge
        rw [hedge, bitOf_eq_testBit, Nat.testBit_or, Nat.testBit_two_pow_self, Bool.or_true]
      · refine procOnly_setPf (procOnly_setProc (procOnly_refl s _ _) _) F.SE_IRQ_PEND.EDGE F.SUP_IRQ_PEND.EDGE _ ?_
        rw [hsup, hunit]
        exact List.mem_singleton_self _

end

section
/-! SUPPORT. The data memory of a processor, and the loads and stores in flight (R148-R150, R188). -/

namespace Sys2Proof.Laws

open Sys2Proof Sys2Proof.Machine Sys2Proof.Safety

/-! ### Words of data memory -/

/-- Bytes that a write does not reach read as before. -/
theorem readBytes_writeBytes_apart (m : List Host.Cell) (a n v : Nat) (k : Nat) :
    ∀ b, b + k ≤ a ∨ a + n ≤ b → readBytes (writeBytes m a n v) b k = readBytes m b k := by
  induction k with
  | zero => exact fun _ _ => rfl
  | succ k ih =>
    intro b h
    rw [readBytes, readBytes, ih (b + 1) (by omega), readByte_writeBytes, if_neg (by omega)]

/-- What a processor reads at an address of its data memory. -/
def dmemWord (s : State) (p a : Nat) : Word := (s.dmemRead p a).1.1

theorem dmemWord_sup {p : Nat} (hp : isSup p = true) (s : State) (a : Nat) : dmemWord s p a = s.reg .SUP_DMEM (p - 64) (a % 65536) := by
  rw [dmemWord, State.dmemRead, hp, if_pos rfl]

theorem readSpd_word (s : State) (t w : Nat) :
    (readSpd s t w).1.1 = (eccRead (mget 0 s.memErr (spdAddr t w)) (s.readBlk (spdAddr t w))).1 := by
  unfold readSpd
  dsimp only
  generalize eccRead (mget 0 s.memErr (spdAddr t w)) (s.readBlk (spdAddr t w)) = r
  split <;> rfl

theorem dmemWord_engine {p : Nat} (hp : isSup p = false) (s : State) (a : Nat) : dmemWord s p a =
    (eccRead (mget 0 s.memErr (spdAddr p (a % 131072))) (s.readBlk (spdAddr p (a % 131072)))).1 := by
  rw [dmemWord, State.dmemRead, hp, if_neg Bool.false_ne_true, readSpd_word]

/-- The data memory of a processor and its check bits are the same. -/
structure DmemKept (s t : State) (p : Nat) : Prop where
  mem    : t.mem = s.mem
  memErr : t.memErr = s.memErr
  sup    : isSup p = true → ∀ a, t.reg .SUP_DMEM (p - 64) (a % 65536) = s.reg .SUP_DMEM (p - 64) (a % 65536)

theorem DmemKept.refl (s : State) (p : Nat) : DmemKept s s p := ⟨rfl, rfl, fun _ _ => rfl⟩

theorem DmemKept.setProc {s t : State} {p : Nat} (h : DmemKept s t p) (v : ProcSt) : DmemKept s (t.setProc p v) p :=
  ⟨h.mem, h.memErr, h.sup⟩

/-- A write of a register of the processor's block leaves its data memory. -/
theorem DmemKept.setPf {s t : State} {p : Nat} (h : DmemKept s t p) (se sup : Fld) (v : Nat)
    (hsup : sup.reg.place.blk = .region ∧ sup.reg.place.offset < 0x80000 := by decide) :
    DmemKept s (t.setPf p se sup v) p := by
  refine ⟨h.mem, h.memErr, fun hp a => ?_⟩
  rw [← h.sup hp a, State.setPf, procUnit, hp]
  exact State.reg_setFld_other _ _ _ _ _ _ _ _ (ne_supDmem hsup _ _).symm

theorem DmemKept.dmemWord {s t : State} {p : Nat} (h : DmemKept s t p) (a : Nat) :
    Laws.dmemWord t p a = Laws.dmemWord s p a := by
  cases hp : isSup p
  · rw [dmemWord_engine hp, dmemWord_engine hp, State.readBlk, State.readBlk, h.mem, h.memErr]
  · rw [dmemWord_sup hp, dmemWord_sup hp, h.sup hp]

/-- With clean check bits a read changes nothing. -/
theorem dmemRead_clean {s : State} (hclean : ∀ a, mget 0 s.memErr a = 0) (p a : Nat) : (s.dmemRead p a).2 = s := by
  unfold State.dmemRead
  split
  · rfl
  · simp only [readSpd, hclean, eccRead_clean]

/-- The words of a scratchpad lie apart. -/
theorem spdAddr_apart {t a b : Nat} (h : a % 131072 ≠ b % 131072) :
    spdAddr t a + 5 ≤ spdAddr t b ∨ spdAddr t b + 5 ≤ spdAddr t a := by
  unfold spdAddr
  omega

theorem dmemWords_sup {p : Nat} (hp : isSup p = true) : dmemWords p = 65536 := by rw [dmemWords, hp]; rfl

theorem dmemWords_engine {p : Nat} (hp : isSup p = false) : dmemWords p = 131072 := by rw [dmemWords, hp]; rfl

theorem dmemWord_write_same (s : State) (p a : Nat) (w : Word) : dmemWord (s.dmemWrite p a w) p a = w := by
  cases hp : isSup p
  · rw [dmemWord_engine hp, State.dmemWrite, hp, if_neg Bool.false_ne_true, writeSpd, writeProt]
    simp only [mget_merase_same, eccRead_clean, State.readBlk, State.writeBlk]
    rw [readBytes_writeBytes]
    exact BitVec.eq_of_toNat_eq (by rw [BitVec.toNat_ofNat]; have := w.isLt; omega)
  · rw [dmemWord_sup hp, State.dmemWrite, hp, if_pos rfl, State.reg_setReg_same]

theorem dmemWord_write_other (s : State) {p a b : Nat} (w : Word) (ha : a < dmemWords p) (hb : b < dmemWords p) (h : b ≠ a) :
    dmemWord (s.dmemWrite p a w) p b = dmemWord s p b := by
  cases hp : isSup p
  · rw [dmemWords_engine hp] at ha hb
    have hapart := spdAddr_apart (t := p) (a := b % 131072) (b := a % 131072) (by omega)
    rw [dmemWord_engine hp, dmemWord_engine hp, State.dmemWrite, hp, if_neg Bool.false_ne_true, writeSpd, writeProt]
    simp only [State.readBlk, State.writeBlk]
    rw [mget_merase_other _ _ _ _ (by omega), readBytes_writeBytes_apart _ _ _ _ _ _ hapart]
  · rw [dmemWords_sup hp] at ha hb
    rw [dmemWord_sup hp, dmemWord_sup hp, State.dmemWrite, hp, if_pos rfl]
    refine State.reg_setReg_other _ _ _ _ _ _ _ _ (regAddr_ne_of_idx (by decide) _ ?_)
    omega

/-! ### The words of a load -/

theorem loadRegs_clean {p : Nat} (shadow : Bool) (as : List Nat) : ∀ (x : Nat) {u : State}, (∀ a, mget 0 u.memErr a = 0) →
    u.inFast p = shadow → (∀ k, k < x → (loadRegs p shadow x as u).getX p k = u.getX p k) ∧
      ∀ i a, as[i]? = some a → (loadRegs p shadow x as u).getX p (x + i) = dmemWord u p a := by
  induction as with
  | nil => exact fun x u _ _ => ⟨fun _ _ => rfl, fun i a h => by simp at h⟩
  | cons a as ih =>
    intro x u hclean hfast
    have hstep : loadRegs p shadow x (a :: as) u = loadRegs p shadow (x + 1) as (u.setX p x (dmemWord u p a)) := by
      rw [loadRegs, State.setX, hfast]
      simp only [dmemRead_clean hclean]
      rfl
    have hkept : DmemKept u (u.setX p x (dmemWord u p a)) p := (DmemKept.refl u p).setProc _
    obtain ⟨hlow, hwords⟩ := ih (x + 1) (u := u.setX p x (dmemWord u p a)) hclean hfast
    rw [hstep]
    refine ⟨fun k hk => ?_, fun i c hc => ?_⟩
    · rw [hlow k (by omega), getX_setX_other _ _ _ (by omega)]
    · cases i with
      | zero =>
        obtain rfl : a = c := by simpa using hc
        exact (hlow x (by omega)).trans (getX_setX_same ..)
      | succ i =>
        rw [show x + (i + 1) = x + 1 + i by omega, hwords i c (by simpa using hc), hkept.dmemWord]

/-! ### The words of a store -/

/-- The state after the words of a store are written in order. -/
def stored (p : Nat) (ws : List (Nat × Word)) (u : State) : State := ws.foldl (fun s e => s.dmemWrite p e.1 e.2) u

theorem stored_cons (p : Nat) (e : Nat × Word) (ws : List (Nat × Word)) (u : State) :
    stored p (e :: ws) u = stored p ws (u.dmemWrite p e.1 e.2) := rfl

theorem dmemWrite_procs (s : State) (p a : Nat) (w : Word) : (s.dmemWrite p a w).procs = s.procs := by
  unfold State.dmemWrite
  split <;> rfl

theorem stored_procs (p : Nat) (ws : List (Nat × Word)) (u : State) : (stored p ws u).procs = u.procs :=
  List.foldlRecOn (motive := fun s => s.procs = u.procs) _ _ rfl fun s hs e _ => (dmemWrite_procs s p e.1 e.2).trans hs

theorem stored_other {p b : Nat} (hb : b < dmemWords p) (ws : List (Nat × Word)) : ∀ u, (∀ e ∈ ws, e.1 < dmemWords p) →
    b ∉ ws.map Prod.fst → dmemWord (stored p ws u) p b = dmemWord u p b := by
  induction ws with
  | nil => exact fun _ _ _ => rfl
  | cons e ws ih =>
    intro u hlt hout
    simp only [List.map_cons, List.mem_cons, not_or] at hout
    rw [stored_cons, ih _ (fun e' he' => hlt e' (List.mem_cons_of_mem _ he')) hout.2,
      dmemWord_write_other u e.2 (hlt e (List.mem_cons_self ..)) hb hout.1]

theorem stored_word {p : Nat} (ws : List (Nat × Word)) : ∀ u, (∀ e ∈ ws, e.1 < dmemWords p) → (ws.map Prod.fst).Nodup →
    ∀ e ∈ ws, dmemWord (stored p ws u) p e.1 = e.2 := by
  induction ws with
  | nil => exact fun _ _ _ e he => absurd he (List.not_mem_nil)
  | cons e ws ih =>
    intro u hlt hnodup c hc
    have hlt' : ∀ e' ∈ ws, e'.1 < dmemWords p := fun e' he' => hlt e' (List.mem_cons_of_mem _ he')
    obtain ⟨hout, hnodup'⟩ := List.nodup_cons.1 (by simpa using hnodup : (e.1 :: ws.map Prod.fst).Nodup)
    rw [stored_cons]
    rcases List.mem_cons.1 hc with rfl | hc
    · rw [stored_other (hlt c (List.mem_cons_self ..)) ws _ hlt' hout, dmemWord_write_same]
    · exact ih _ hlt' hnodup' c hc

/-! ### Landing of one result -/

theorem endCycle_lands {t : State} {p : Nat} {f : Fly} (hfly : (t.proc p).fly = [f]) (hleft : f.left ≤ 1) :
    endCycle t p = landOne p (t.setProc p { t.proc p with fly := [] }) f := by
  rw [endCycle, hfly]
  simp [hleft, Nat.not_lt.2 hleft]

theorem endCycle_waits {t : State} {p : Nat} {f : Fly} (hfly : (t.proc p).fly = [f]) (hleft : 1 < f.left) :
    endCycle t p = t.setProc p { t.proc p with fly := [{ f with left := f.left - 1 }] } := by
  rw [endCycle, hfly]
  simp [hleft, Nat.not_le.2 hleft]

/-- An access issued from `s` has one result in flight, a bank after its post-modify, and the data memory as before. -/
structure MemIssued (s t : State) (p : Nat) (b : Bank) (f : Fly) : Prop where
  proc   : t.proc p = { (s.proc p).setBank (s.inFast p) b with fly := [f] }
  inFast : t.inFast p = s.inFast p
  dmem   : DmemKept s t p

theorem MemIssued.setPpc {s t : State} {p : Nat} {b : Bank} {f : Fly} (h : MemIssued s t p b f) (v : Nat) :
    MemIssued s (t.setPpc p v) p b f :=
  ⟨h.proc, (inFast_setPpc ..).trans h.inFast, h.dmem.setPf F.SE_PC.PC F.SUP_PC.PC v⟩

theorem MemIssued.bankNow {s t : State} {p : Nat} {b : Bank} {f : Fly} (h : MemIssued s t p b f) : Safety.bankNow t p = b := by
  rw [Safety.bankNow, h.proc, h.inFast]
  cases s.inFast p <;> rfl

theorem MemIssued.wait {s t : State} {p : Nat} {b : Bank} {f : Fly} (h : MemIssued s t p b f) (hleft : 1 < f.left) :
    MemIssued s (endCycle t p) p b { f with left := f.left - 1 } := by
  rw [endCycle_waits (f := f) (by rw [h.proc]) hleft]
  exact ⟨by rw [proc_setProc_same, h.proc], h.inFast, h.dmem.setProc _⟩

/-- The state in which the result lands. -/
theorem MemIssued.lands {s t : State} {p : Nat} {b : Bank} {f : Fly} (h : MemIssued s t p b f) (hleft : f.left ≤ 1) :
    ∃ u, endCycle t p = landOne p u f ∧ u.proc p = { (s.proc p).setBank (s.inFast p) b with fly := [] } ∧
      u.inFast p = s.inFast p ∧ DmemKept s u p :=
  ⟨_, endCycle_lands (by rw [h.proc]) hleft, by rw [proc_setProc_same, h.proc], h.inFast, h.dmem.setProc _⟩

/-- A load lands its words in the second cycle. -/
theorem MemIssued.load {s t : State} {p : Nat} {b : Bank} {f : Fly} (h : MemIssued s t p b f) (hclean : ∀ a, mget 0 s.memErr a = 0)
    (hleft : f.left = 2) (hshadow : f.shadow = s.inFast p) {xt : Nat} {addrs : List Nat} (hop : f.op = .load xt addrs) :
    ∀ i a, addrs[i]? = some a → (advance p 2 t).getX p (xt + i) = dmemWord s p a := by
  intro i a hi
  obtain ⟨u, hu, -, hfast, hkept⟩ := (h.wait (by omega)).lands (by show f.left - 1 ≤ 1; omega)
  have hland : advance p 2 t = loadRegs p f.shadow xt addrs u := by
    show endCycle (endCycle t p) p = _
    rw [hu]
    simp only [landOne, hop]
  rw [hland, (loadRegs_clean f.shadow addrs xt (fun a => by rw [hkept.memErr, hclean]) (hfast.trans hshadow.symm)).2 i a hi,
    hkept.dmemWord]

/-- A store puts its words by the second cycle. -/
theorem MemIssued.store {s t : State} {p : Nat} {b : Bank} {f : Fly} (h : MemIssued s t p b f) (hleft : f.left = 1 ∨ f.left = 2)
    {ws : List (Nat × Word)} (hop : f.op = .store ws) :
    ∃ u, DmemKept s u p ∧ DmemKept (stored p ws u) (advance p 2 t) p := by
  have hland : ∀ u l, landOne p u { f with left := l } = stored p ws u := fun u l => by simp only [landOne, hop, stored]
  rcases hleft with hone | htwo
  · obtain ⟨u, hu, hproc, -, hkept⟩ := h.lands (by omega)
    refine ⟨u, hkept, ?_⟩
    have hfly : ((stored p ws u).proc p).fly = [] := by rw [State.proc, stored_procs, ← State.proc, hproc]
    show DmemKept _ (endCycle (endCycle t p) p) p
    rw [hu, show landOne p u f = stored p ws u from hland u f.left, endCycle_nil hfly]
    exact (DmemKept.refl _ p).setProc _
  · obtain ⟨u, hu, -, -, hkept⟩ := (h.wait (by omega)).lands (by show f.left - 1 ≤ 1; omega)
    refine ⟨u, hkept, ?_⟩
    show DmemKept _ (endCycle (endCycle t p) p) p
    rw [hu, hland]
    exact DmemKept.refl _ p

/-! ### The issue of an access -/

/-- The bank after the post-modify of an access (R149, R150). -/
def modified (p : Nat) (b : Bank) (pn : Nat) (am : AddrMode) : Bank :=
  let pm := postModifyOf p { b with sr := 0 } pn am
  match am with
  | .plain | .indexed => b
  | _ => { b with p := mset 0 b.p pn (mget 0 pm.p pn), sr := b.sr ||| (pm.sr &&& 0x80000000#40) }

/-- What an access puts in flight: the words of a load, or of a store with the registers read at issue. -/
def accessOp (b : Bank) (isLoad : Bool) (xt : Nat) (addrs : List Nat) : FlyOp :=
  if isLoad then .load xt addrs else .store (addrs.zipIdx.map (fun e => (e.1, b.getX (xt + e.2))))

/-- The words an access reaches. -/
def accessAddrs (p : Nat) (b : Bank) (pn : Nat) (am : AddrMode) (w : Nat) : List Nat :=
  accessWords p b pn (accessStart p b pn am) (widthWords w)

/-- A register of a processor's block is none of the trace unit's. -/
theorem traced_setPf (s : State) (p q : Nat) (se sup : Fld) (v : Nat)
    (hse : se.reg.place.blk = .tile ∧ se.reg.place.offset < 0x80000 := by decide)
    (hsup : sup.reg.place.blk = .region ∧ sup.reg.place.offset < 0x800000 ∧
      sup.reg.place.offset ≠ Reg.TRC_SRC.place.offset ∧ sup.reg.place.offset ≠ Reg.TRC_CTRL.place.offset := by decide) :
    (s.setPf p se sup v).traced q = s.traced q := by
  obtain ⟨hblk, hoff⟩ := hse
  obtain ⟨hblk', hoff', hsrc, hctrl⟩ := hsup
  have hkept : ∀ g : Fld, g.reg.place.blk = .region → g.reg.place.offset + 0 * g.reg.place.stride < 0x800000 →
      sup.reg.place.offset ≠ g.reg.place.offset → (s.setPf p se sup v).fld g (procRegion q) = s.fld g (procRegion q) := by
    intro g hg hlt hne
    unfold State.setPf
    cases isSup p
    · exact State.fld_setFld_other _ _ _ _ _ _ _ _ (regAddr_tile_ne_region hblk hg (by omega) hlt _ _).symm
    · exact State.fld_setFld_other _ _ _ _ _ _ _ _ (regAddr_ne_of_offset hg hblk' hlt (by simpa using hoff') (by simpa using hne.symm) _ _)
  unfold State.traced
  rw [hkept F.TRC_SRC.EN rfl (by decide) hsrc, hkept F.TRC_CTRL.SINK rfl (by decide) hctrl]

theorem stall_setPf (s : State) (p : Nat) : ∃ v, (if isSup p then s.addSat F.SUP_STALL.CYCLES (p - 64) 0 else s.addSat F.SE_STALL.CYCLES p 0) =
    s.setPf p F.SE_STALL.CYCLES F.SUP_STALL.CYCLES v := by
  unfold State.setPf procUnit
  cases isSup p <;> exact ⟨_, rfl⟩

theorem crossCycle_memIssued {s t : State} {p : Nat} {b : Bank} {f : Fly} (htraced : t.traced p = false) (h : MemIssued s t p b f)
    (hleft : 1 < f.left) : MemIssued s (crossCycle t p) p b { f with left := f.left - 1 } := by
  obtain ⟨v, hv⟩ := stall_setPf t p
  have huntraced : (t.setPf p F.SE_STALL.CYCLES F.SUP_STALL.CYCLES v).traced p = false := (traced_setPf ..).trans htraced
  unfold crossCycle
  dsimp only
  rw [hv, trcNoIssue_untraced huntraced]
  refine MemIssued.wait (t := t.setPf p F.SE_STALL.CYCLES F.SUP_STALL.CYCLES v) ⟨h.proc, ?_, h.dmem.setPf _ _ v⟩ hleft
  rw [← h.inFast, State.inFast, pf_setPf_apart, State.inFast]

theorem MemIssued.unheld {s t : State} {p : Nat} {b : Bank} {f : Fly} (h : MemIssued s t p b f) (hu : Unheld (s.proc p)) :
    Unheld (t.proc p) := by
  refine hu.of_unlanded ?_
  rw [h.proc]
  cases s.inFast p <;> rfl

/-- The result of an access in flight; a load across two rows takes a cycle more (R148). -/
def accessFly (s : State) (p : Nat) (isLoad : Bool) (w xt pn : Nat) (am : AddrMode) : Fly :=
  { left := if crossesRow (accessAddrs p (bankNow s p) pn am w) && isLoad then 3 else 2, pc := s.ppc p, shadow := s.inFast p,
    op := accessOp (bankNow s p) isLoad xt (accessAddrs p (bankNow s p) pn am w) }

/-- The state of a quiet processor whose access is in flight. -/
def accessIssued (s : State) (p : Nat) (isLoad : Bool) (w xt pn : Nat) (am : AddrMode) : State :=
  let t := (s.setProc p (s.proc p)).setProc p ((s.proc p).setBank (s.inFast p) (modified p (bankNow s p) pn am))
  t.setProc p { t.proc p with fly := [accessFly s p isLoad w xt pn am] }

theorem accessIssued_memIssued (s : State) (p : Nat) (isLoad : Bool) (w xt pn : Nat) (am : AddrMode) :
    MemIssued s (accessIssued s p isLoad w xt pn am) p (modified p (bankNow s p) pn am) (accessFly s p isLoad w xt pn am) :=
  ⟨by rw [accessIssued, proc_setProc_same, proc_setProc_same], rfl, (((DmemKept.refl s p).setProc _).setProc _).setProc _⟩

theorem fly_setBank (v : ProcSt) (f : Bool) (b : Bank) : (v.setBank f b).fly = v.fly := by cases f <;> rfl

theorem issueMem_quiet {s : State} {p : Nat} (hfly : (s.proc p).fly = []) (isLoad : Bool) (w xt pn : Nat) (am : AddrMode) :
    issueMem s (endCycle s p) p isLoad w xt pn am =
      stepPc (if crossesRow (accessAddrs p (bankNow s p) pn am w) then crossCycle (accessIssued s p isLoad w xt pn am) p
        else accessIssued s p isLoad w xt pn am) p (s.ppc p) 1 := by
  rw [endCycle_nil hfly]
  unfold issueMem
  have hproc : (s.setProc p (s.proc p)).proc p = s.proc p := proc_setProc_same ..
  have hput : ∀ (u : State) (v : ProcSt) (f : Fly), v.fly = [] → u.inFast p = f.shadow →
      putFly (u.setProc p v) p f.left f.op f.pc = (u.setProc p v).setProc p { (u.setProc p v).proc p with fly := [f] } := by
    intro u v f hv hfast
    rw [putFly, proc_setProc_same, inFast_setProc, hv, hfast]
    rfl
  rw [accessIssued, ← hput _ _ _ (by rw [fly_setBank, hfly]) rfl, hproc]
  rfl

/-- A quiet processor issues an access: its result is in flight, one cycle further where a store crosses a row, and the
post-modify is made. -/
theorem settle_issueMem {s : State} {p : Proc} (h : Quiet s p) (isLoad : Bool) (w xt pn : Nat) (am : AddrMode) :
    ∃ t f, settle (issueMem s (endCycle s p) p isLoad w xt pn am) p = t.setPpc p (nextPc p (s.ppc p) 1) ∧
      MemIssued s t p (modified p (bankNow s p) pn am) f ∧ (f.left = 2 ∨ isLoad = false ∧ f.left = 1) ∧ f.shadow = s.inFast p ∧
      f.op = accessOp (bankNow s p) isLoad xt (accessAddrs p (bankNow s p) pn am w) := by
  obtain ⟨hissuing, hfly⟩ := h
  have hunheld := unheld_of_issuing hissuing
  have hissued := accessIssued_memIssued s p isLoad w xt pn am
  rw [issueMem_quiet hfly]
  cases hcross : crossesRow (accessAddrs p (bankNow s p) pn am w)
  · refine ⟨_, _, ?_, hissued, .inl ?_, rfl, rfl⟩
    · rw [if_neg Bool.false_ne_true, settle_stepPc (hissued.unheld hunheld)]
    · simp [accessFly, hcross]
  · have hleft : 1 < (accessFly s p isLoad w xt pn am).left := by
      simp only [accessFly]
      split <;> decide
    have hcrossed := crossCycle_memIssued (t := accessIssued s p isLoad w xt pn am) hissuing.2.1 hissued hleft
    refine ⟨_, _, ?_, hcrossed, ?_, rfl, rfl⟩
    · rw [if_pos rfl, settle_stepPc (hcrossed.unheld hunheld)]
    · cases isLoad <;> simp [accessFly, hcross]

/-! ### The pointer after an access (R149, R150) -/

/-- How far an addressing mode moves its pointer. -/
def moveOf (p : Nat) (b : Bank) (pn : Nat) : AddrMode → Int
  | .postM => signed (ptrBits p + 1) (mget 0 b.m pn)
  | .postImm i => i.toInt
  | _ => 0

theorem dmemWords_pos (p : Nat) : 0 < dmemWords p := by
  unfold dmemWords
  split <;> decide

theorem postModify_linear (p : Nat) (b : Bank) (pn : Nat) (m : Int) (hlen : mget 0 b.l pn = 0) :
    ((mget 0 (postModify p b pn m).p pn : Nat) : Int) = ((mget 0 b.p pn : Nat) + m) % dmemWords p := by
  have hpos := dmemWords_pos p
  unfold postModify
  simp only [if_pos hlen]
  rw [mget_mset_same, Int.toNat_of_nonneg (Int.emod_nonneg _ (by omega))]

theorem offset_of_wrap {w base d : Nat} (hbase : base < w) (hd : d < w) : ((base + d) % w + w - base) % w = d := by
  rcases Nat.lt_or_ge (base + d) w with hlt | hge
  · rw [Nat.mod_eq_of_lt hlt, show base + d + w - base = d + w by omega, Nat.add_mod_right, Nat.mod_eq_of_lt hd]
  · have hwrap : (base + d) % w = base + d - w := by rw [Nat.mod_eq_sub_mod hge, Nat.mod_eq_of_lt (by omega)]
    rw [hwrap, show base + d - w + w - base = d by omega, Nat.mod_eq_of_lt hd]

theorem postModify_circular (p : Nat) (b : Bank) (pn : Nat) (m : Int) {d : Nat} (hbase : mget 0 b.b pn < dmemWords p)
    (hd : d < mget 0 b.l pn) (hlen : mget 0 b.l pn ≤ dmemWords p) (hptr : mget 0 b.p pn = (mget 0 b.b pn + d) % dmemWords p) :
    ((mget 0 (postModify p b pn m).p pn : Nat) : Int) =
      ((mget 0 b.b pn : Nat) + ((d : Int) + m) % (mget 0 b.l pn : Nat)) % dmemWords p := by
  have hoffset : (mget 0 b.p pn + dmemWords p - mget 0 b.b pn) % dmemWords p = d := by
    rw [hptr, offset_of_wrap hbase (by omega)]
  unfold postModify
  simp only [if_neg (show mget 0 b.l pn ≠ 0 by omega), hoffset]
  rw [mget_mset_same]
  push_cast
  rw [Int.toNat_of_nonneg (Int.emod_nonneg _ (by omega))]

theorem modified_linear (p : Nat) (b : Bank) (pn : Nat) (am : AddrMode) (hptr : mget 0 b.p pn < dmemWords p)
    (hlen : mget 0 b.l pn = 0) :
    ((mget 0 (modified p b pn am).p pn : Nat) : Int) = ((mget 0 b.p pn : Nat) + moveOf p b pn am) % dmemWords p := by
  have hstill : ((mget 0 b.p pn : Nat) : Int) = ((mget 0 b.p pn : Nat) + 0) % dmemWords p := by
    rw [Int.add_zero, Int.emod_eq_of_lt (by omega) (by omega)]
  cases am with
  | plain => exact hstill
  | indexed => exact hstill
  | postM =>
    simp only [modified, mget_mset_same]
    exact postModify_linear p { b with sr := 0 } pn _ hlen
  | postImm i =>
    simp only [modified, mget_mset_same]
    exact postModify_linear p { b with sr := 0 } pn _ hlen

theorem modified_circular (p : Nat) (b : Bank) (pn : Nat) (am : AddrMode) {d : Nat} (hbase : mget 0 b.b pn < dmemWords p)
    (hd : d < mget 0 b.l pn) (hlen : mget 0 b.l pn ≤ dmemWords p) (hptr : mget 0 b.p pn = (mget 0 b.b pn + d) % dmemWords p)
    (hmoves : moveOf p b pn am ≠ 0) :
    ((mget 0 (modified p b pn am).p pn : Nat) : Int) =
      ((mget 0 b.b pn : Nat) + ((d : Int) + moveOf p b pn am) % (mget 0 b.l pn : Nat)) % dmemWords p := by
  cases am with
  | plain => exact absurd rfl hmoves
  | indexed => exact absurd rfl hmoves
  | postM =>
    simp only [modified, mget_mset_same]
    exact postModify_circular p { b with sr := 0 } pn _ hbase hd hlen hptr
  | postImm i =>
    simp only [modified, mget_mset_same]
    exact postModify_circular p { b with sr := 0 } pn _ hbase hd hlen hptr

theorem accessAddrs_lt (p : Nat) (b : Bank) (pn : Nat) (am : AddrMode) (w : Nat) :
    ∀ a ∈ accessAddrs p b pn am w, a < dmemWords p := by
  intro a ha
  obtain ⟨i, -, rfl⟩ := List.mem_map.1 ha
  unfold accessWord
  dsimp only
  split <;> exact Nat.mod_lt _ (dmemWords_pos p)

end Sys2Proof.Laws
end

section
open Sys2Proof Sys2Proof.Machine Sys2Proof.Safety Sys2Proof.Laws

/-- Settles O16: the access in flight, the pointer its post-modify leaves, and the words it lands on. -/
theorem loadsAndStoresPostModify : Obligations.LoadsAndStoresPostModify := by
  unfold Obligations.LoadsAndStoresPostModify
  intro s p w xt pn am h hclean hlegal b first addrs m post
  have haddrs : addrs = accessAddrs p b pn am w := by cases am <;> rfl
  have hmove : m = moveOf p b pn am := by cases am <;> rfl
  have hpost : ∀ t, bankNow t p = modified p b pn am → post t := fun t ht hptr hbase => by
    rw [ht, hmove]
    exact ⟨fun hlen => modified_linear p b pn am hptr hlen,
      fun d hd hlen hp hm => modified_circular p b pn am hbase hd hlen hp hm⟩
  refine ⟨?load, ?store⟩
  case load =>
    obtain ⟨t, f, hsettle, hissued, hleft, hshadow, hop⟩ := settle_issueMem h true w xt pn am
    have hexec : exec (.ld p w xt pn am) s = .next (t.setPpc p (nextPc p (s.ppc p) 1)) := by
      rw [← hsettle]
      exact runInsn_issuing h.1 (.ld w xt pn am) hlegal
    have htwo : f.left = 2 := hleft.resolve_right fun hf => absurd hf.1 (by decide)
    refine ⟨_, hexec, ppc_setPpc_nextPc .., hpost _ ?_,
      hissued.dmem.mem, ?_⟩
    · rw [bankNow_setPpc, hissued.bankNow]
    · rw [haddrs]
      exact (hissued.setPpc _).load hclean htwo hshadow hop
  case store =>
    obtain ⟨t, f, hsettle, hissued, hleft, -, hop⟩ := settle_issueMem h false w xt pn am
    obtain ⟨u, hkept, hstored⟩ := (hissued.setPpc (nextPc p (s.ppc p) 1)).store (hleft.imp_right And.right |>.symm) hop
    have hexec : exec (.st p w xt pn am) s = .next (t.setPpc p (nextPc p (s.ppc p) 1)) := by
      rw [← hsettle]
      exact runInsn_issuing h.1 (.st w xt pn am) hlegal
    have hfst : ((addrs.zipIdx.map (fun e => (e.1, b.getX (xt + e.2)))).map Prod.fst) = addrs := by
      rw [List.map_map]
      exact List.zipIdx_map_fst 0 addrs
    rw [← haddrs] at hstored
    have hlt : ∀ e ∈ addrs.zipIdx.map (fun e => (e.1, b.getX (xt + e.2))), e.1 < dmemWords p := fun e he => by
      have hmem : e.1 ∈ (addrs.zipIdx.map (fun e => (e.1, b.getX (xt + e.2)))).map Prod.fst := List.mem_map_of_mem he
      rw [hfst, haddrs] at hmem
      exact accessAddrs_lt p b pn am w e.1 hmem
    refine ⟨_, hexec, ppc_setPpc_nextPc .., hpost _ ?_,
      fun hnodup i a hi => ?_, fun a ha hout => ?_⟩
    · rw [bankNow_setPpc, hissued.bankNow]
    · have hmem : (a, b.getX (xt + i)) ∈ addrs.zipIdx.map (fun e => (e.1, b.getX (xt + e.2))) :=
        List.mem_map.2 ⟨(a, i), List.mem_zipIdx_iff_getElem?.2 hi, rfl⟩
      have hword := stored_word _ u hlt (by rw [hfst]; exact hnodup) _ hmem
      exact (hstored.dmemWord a).trans hword
    · have hother := stored_other ha _ u hlt (by rw [hfst]; exact hout)
      exact (hstored.dmemWord a).trans (hother.trans (hkept.dmemWord a))

end

section
/-! SUPPORT. DMA channels: the fields of a channel, a descriptor written back, and its end (R169-R171). -/

namespace Sys2Proof.Laws

open Sys2Proof Sys2Proof.Machine Sys2Proof.Safety

/-! ### The status slot of a channel -/

/-- A field of SE_DMA_STAT and the same field of SUP_DMA_STAT. -/
def chanFlds (se sup : Fld) : Bool := decide (se.reg = .SE_DMA_STAT ∧ sup.reg = .SUP_DMA_STAT)

/-- A register whose slot at index `i` of a processor's block is not that of the status of channel `ch`. -/
def offChan (r : Reg) (i ch : Nat) : Prop :=
  r.place.offset + i * r.place.stride < 0x800000 ∧ r.place.offset + i * r.place.stride ≠ 0x88 + ch * 0x10

theorem offChan_zero {r : Reg} (h : r.place.offset < 0x88 := by decide) (ch : Nat) : offChan r 0 ch := by
  unfold offChan
  omega

theorem chan_ne_tile {r : Reg} {i ch : Nat} (hblk : r.place.blk = .tile) (h : offChan r i ch) (u : Nat) :
    regAddr .SE_DMA_STAT u ch ≠ regAddr r u i :=
  regAddr_tile_ne_of_offset rfl hblk h.2.symm u

theorem chan_ne_region {r : Reg} {i : Nat} {ch : Fin 4} (hblk : r.place.blk = .region) (h : offChan r i ch) (u : Nat) :
    regAddr .SUP_DMA_STAT u ch ≠ regAddr r u i := by
  refine regAddr_ne_of_offset rfl hblk ?_ h.1 h.2.symm u u
  show 0x88 + ch.val * 0x10 < 0x800000
  omega

section ChannelFields

variable {se sup : Fld} (hchan : chanFlds se sup = true)
include hchan

/-- A write of another slot of the processor's block leaves the status of a channel. -/
theorem chan_setPf_off {f g : Fld} {i : Nat} {ch : Fin 4} (s : State) (p v : Nat) (hf : f.reg.place.blk = .tile ∧ offChan f.reg i ch)
    (hg : g.reg.place.blk = .region ∧ offChan g.reg i ch) : (s.setPf p f g v i).pf p se sup ch = s.pf p se sup ch := by
  obtain ⟨hse, hsup⟩ := of_decide_eq_true hchan
  unfold State.setPf State.pf
  cases isSup p
  · exact State.fld_setFld_other _ _ _ _ _ _ _ _ (by rw [if_neg Bool.false_ne_true, hse]; exact chan_ne_tile hf.1 hf.2 _)
  · exact State.fld_setFld_other _ _ _ _ _ _ _ _ (by rw [if_pos rfl, hsup]; exact chan_ne_region hg.1 hg.2 _)

theorem chan_setPf_apart {f g : Fld} (s : State) (p v ch : Nat)
    (h : (f.reg = .SE_DMA_STAT ∧ f.lo ≤ f.hi ∧ f.hi < 40 ∧ se.lo ≤ se.hi ∧ (f.hi < se.lo ∨ se.hi < f.lo)) ∧
      g.reg = .SUP_DMA_STAT ∧ g.lo ≤ g.hi ∧ g.hi < 40 ∧ sup.lo ≤ sup.hi ∧ (g.hi < sup.lo ∨ sup.hi < g.lo) := by decide) :
    (s.setPf p f g v ch).pf p se sup ch = s.pf p se sup ch := by
  obtain ⟨⟨hf, hf1, hf2, hse1, hf3⟩, hg, hg1, hg2, hsup1, hg3⟩ := h
  obtain ⟨hse, hsup⟩ := of_decide_eq_true hchan
  unfold State.setPf State.pf
  cases isSup p
  · exact State.fld_setFld_apart _ _ _ _ _ _ (hse.trans hf.symm) hf1 hf2 hse1 hf3
  · exact State.fld_setFld_apart _ _ _ _ _ _ (hsup.trans hg.symm) hg1 hg2 hsup1 hg3

theorem chan_raiseEdge (s : State) (p bit : Nat) (ch : Fin 4) : (raiseEdge s p bit).pf p se sup ch = s.pf p se sup ch :=
  chan_setPf_off hchan s p _ ⟨rfl, offChan_zero (by decide) ch⟩ ⟨rfl, offChan_zero (by decide) ch⟩

end ChannelFields

theorem pf_setPf_idx {se sup : Fld} (s : State) (p v i : Nat)
    (h : se.lo ≤ se.hi ∧ se.hi < 40 ∧ sup.lo ≤ sup.hi ∧ sup.hi < 40 := by decide) :
    (s.setPf p se sup v i).pf p se sup i = v % 2 ^ (if isSup p then sup.hi + 1 - sup.lo else se.hi + 1 - se.lo) := by
  obtain ⟨hse, hse', hsup, hsup'⟩ := h
  unfold State.setPf State.pf
  cases isSup p
  · exact State.fld_setFld_same _ _ _ _ _ hse hse'
  · exact State.fld_setFld_same _ _ _ _ _ hsup hsup'

/-- A write of a DMA slot leaves the slots of the processor's block below them. -/
theorem pf_setPf_below {se sup f g : Fld} (s : State) (p v i : Nat) (hf : f.reg.place.blk = .tile ∧ 0x80 ≤ f.reg.place.offset)
    (hg : g.reg.place.blk = .region ∧ 0x80 ≤ g.reg.place.offset ∧ g.reg.place.offset + i * g.reg.place.stride < 0x800000)
    (h : (se.reg.place.blk = .tile ∧ se.reg.place.offset < 0x80) ∧ sup.reg.place.blk = .region ∧ sup.reg.place.offset < 0x80 := by
      decide) : (s.setPf p f g v i).pf p se sup = s.pf p se sup := by
  obtain ⟨⟨hse, hse'⟩, hsup, hsup'⟩ := h
  unfold State.setPf State.pf
  cases isSup p
  · exact State.fld_setFld_other _ _ _ _ _ _ _ _
      (regAddr_tile_ne_of_offset hse hf.1 (by have := hf.2; rw [Nat.zero_mul]; omega) _)
  · exact State.fld_setFld_other _ _ _ _ _ _ _ _
      (regAddr_ne_of_offset hsup hg.1 (by rw [Nat.zero_mul]; omega) hg.2.2 (by have := hg.2.1; rw [Nat.zero_mul]; omega) _ _)

theorem pf_setChan {se sup f g : Fld} (hchan : chanFlds f g = true) (s : State) (p v : Nat) (ch : Fin 4)
    (h : (se.reg.place.blk = .tile ∧ se.reg.place.offset < 0x80) ∧ sup.reg.place.blk = .region ∧ sup.reg.place.offset < 0x80 := by
      decide) : (s.setPf p f g v ch).pf p se sup = s.pf p se sup := by
  obtain ⟨hf, hg⟩ := of_decide_eq_true hchan
  refine pf_setPf_below s p v ch ⟨by rw [hf]; rfl, by rw [hf]; decide⟩ ⟨by rw [hg]; rfl, by rw [hg]; decide, ?_⟩ h
  rw [hg]
  show 0x88 + ch.val * 0x10 < 0x800000
  omega

/-! ### Events and data memory beside it -/

/-- A processor event writes no slot but SE_STATUS or SUP_STATUS. -/
theorem procEvent_eq (s : State) (p bit : Nat) (inj : Bool) : ∃ v d, procEvent s p bit inj =
    { s.setPf p F.SE_STATUS.EVT F.SUP_STATUS.EVT v with detected := d } ∨ procEvent s p bit inj = s := by
  unfold procEvent State.setPf procUnit
  cases isSup p
  · rw [if_neg Bool.false_ne_true]
    split
    · exact ⟨0, [], .inr rfl⟩
    · exact ⟨_, _, .inl rfl⟩
  · rw [if_pos rfl]
    dsimp only
    split
    · exact ⟨0, [], .inr rfl⟩
    · exact ⟨_, _, .inl rfl⟩

/-- The status of a channel, the edge sources and the data memory of a processor are the same. -/
structure DmaKept (s t : State) (p : Nat) (ch : Fin 4) : Prop where
  chan : ∀ {se sup : Fld}, chanFlds se sup = true → t.pf p se sup ch = s.pf p se sup ch
  edge : t.pf p F.SE_IRQ_PEND.EDGE F.SUP_IRQ_PEND.EDGE = s.pf p F.SE_IRQ_PEND.EDGE F.SUP_IRQ_PEND.EDGE
  dmem : DmemKept s t p

theorem dmaKept_setProc (s : State) (p : Nat) (ch : Fin 4) (v : ProcSt) : DmaKept s (s.setProc p v) p ch :=
  ⟨fun _ => rfl, rfl, (DmemKept.refl s p).setProc v⟩

theorem dmaKept_procEvent (s : State) (p bit : Nat) (inj : Bool) (ch : Fin 4) : DmaKept s (procEvent s p bit inj) p ch := by
  obtain ⟨v, d, h | h⟩ := procEvent_eq s p bit inj <;> rw [h]
  · have hdmem := (DmemKept.refl s p).setPf F.SE_STATUS.EVT F.SUP_STATUS.EVT v
    exact ⟨fun hchan => chan_setPf_off hchan s p v ⟨rfl, offChan_zero (by decide) ch⟩ ⟨rfl, offChan_zero (by decide) ch⟩,
      pf_setPf_apart (se := F.SE_STATUS.EVT) (sup := F.SUP_STATUS.EVT) (se' := F.SE_IRQ_PEND.EDGE) (sup' := F.SUP_IRQ_PEND.EDGE)
        s p v, ⟨hdmem.mem, hdmem.memErr, hdmem.sup⟩⟩
  · exact ⟨fun _ => rfl, rfl, DmemKept.refl s p⟩

theorem ne_supDmem_idx {r : Reg} {i : Nat} (h : r.place.blk = .region ∧ r.place.offset + i * r.place.stride < 0x80000) (u a : Nat) :
    regAddr r u i ≠ regAddr .SUP_DMEM u (a % 65536) := by
  obtain ⟨hblk, hoff⟩ := h
  have hlt : a % 65536 < 65536 := Nat.mod_lt _ (by decide)
  refine regAddr_ne_of_offset hblk rfl (by omega) ?_ ?_ _ _
  · show 0x80000 + a % 65536 * 8 < 0x800000
    omega
  · show r.place.offset + i * r.place.stride ≠ 0x80000 + a % 65536 * 8
    omega

/-- A write of the status of a channel leaves the data memory. -/
theorem DmemKept.setChan {s t : State} {p : Nat} (h : DmemKept s t p) {se sup : Fld} (hchan : chanFlds se sup = true) (v : Nat)
    (ch : Fin 4) : DmemKept s (t.setPf p se sup v ch) p := by
  obtain ⟨-, hsup⟩ := of_decide_eq_true hchan
  refine ⟨h.mem, h.memErr, fun hp a => ?_⟩
  rw [← h.sup hp a, State.setPf, procUnit, hp]
  refine State.reg_setFld_other _ _ _ _ _ _ _ _ (ne_supDmem_idx ?_ _ _).symm
  rw [if_pos rfl, hsup]
  refine ⟨rfl, ?_⟩
  show 0x88 + ch.val * 0x10 < 0x80000
  omega

theorem DmemKept.raiseEdge {s t : State} {p : Nat} (h : DmemKept s t p) (bit : Nat) : DmemKept s (Machine.raiseEdge t p bit) p :=
  h.setPf F.SE_IRQ_PEND.EDGE F.SUP_IRQ_PEND.EDGE _

theorem DmemKept.trans {s t u : State} {p : Nat} (h : DmemKept s t p) (h' : DmemKept t u p) : DmemKept s u p :=
  ⟨h'.mem.trans h.mem, h'.memErr.trans h.memErr, fun hp a => (h'.sup hp a).trans (h.sup hp a)⟩

theorem pf_dmemWrite {se sup : Fld} (s : State) (p a : Nat) (w : Word) (i : Nat)
    (h : sup.reg.place.blk = .region ∧ sup.reg.place.offset + i * sup.reg.place.stride < 0x80000) :
    (s.dmemWrite p a w).pf p se sup i = s.pf p se sup i := by
  unfold State.dmemWrite State.pf procUnit
  cases hp : isSup p
  · rfl
  · exact State.fld_setReg_other _ _ _ _ _ _ _ _ (ne_supDmem_idx h _ _)

theorem chan_dmemWrite {se sup : Fld} (hchan : chanFlds se sup = true) (s : State) (p a : Nat) (w : Word) (ch : Fin 4) :
    (s.dmemWrite p a w).pf p se sup ch = s.pf p se sup ch := by
  obtain ⟨-, hsup⟩ := of_decide_eq_true hchan
  refine pf_dmemWrite s p a w ch ?_
  rw [hsup]
  refine ⟨rfl, ?_⟩
  show 0x88 + ch.val * 0x10 < 0x80000
  omega

theorem localBusy_of {s : State} {p : Nat} (h : isSup p = true ∨ spdMarching s p = false) : localBusy s p = false := by
  unfold localBusy
  rcases h with hsup | hmarch
  · rw [hsup]; rfl
  · rw [hmarch, Bool.and_false]

theorem localBusy_dmemWrite (s : State) (p a : Nat) (w : Word) : localBusy (s.dmemWrite p a w) p = localBusy s p := by
  unfold State.dmemWrite
  split <;> rfl

/-! ### A descriptor written back -/

/-- The status and the count of a descriptor stand in its words, whose other bits are as they were (R171). -/
structure WrittenBack (t : State) (p a : Nat) (d : Desc) (st n : Nat) : Prop where
  done   : (dmemWord t p a).getLsbD 39 = true
  status : bitsOf (dmemWord t p a).toNat 34 31 = st
  other  : bitsOf (dmemWord t p a).toNat 38 35 = bitsOf d.w0.toNat 38 35
  count  : bitsOf (dmemWord t p (a + 2)).toNat 39 22 = n
  addr   : bitsOf (dmemWord t p (a + 2)).toNat 21 0 = bitsOf d.w2.toNat 21 0

theorem WrittenBack.kept {t u : State} {p a st n : Nat} {d : Desc} (h : WrittenBack t p a d st n) (hk : DmemKept t u p) :
    WrittenBack u p a d st n :=
  ⟨by rw [hk.dmemWord]; exact h.done, by rw [hk.dmemWord]; exact h.status, by rw [hk.dmemWord]; exact h.other,
    by rw [hk.dmemWord]; exact h.count, by rw [hk.dmemWord]; exact h.addr⟩

theorem descBack_written {s : State} {p : Nat} (hopen : localBusy s p = false) {a st n : Nat} (d : Desc) (ha : a + 4 ≤ dmemWords p)
    (hst : st < 16) (hn : n < 2 ^ 18) : WrittenBack (descBack s p a d st n) p a d st n := by
  have hw0 : dmemWord (descBack s p a d st n) p a = BitVec.ofNat 40 (putBits (putBits d.w0.toNat 39 39 1) 34 31 st) := by
    rw [descBack, hopen, if_neg Bool.false_ne_true, dmemWord_write_other _ _ (by omega) (by omega) (by omega), dmemWord_write_same]
  have hw2 : dmemWord (descBack s p a d st n) p (a + 2) = BitVec.ofNat 40 (putBits d.w2.toNat 39 22 n) := by
    rw [descBack, hopen, if_neg Bool.false_ne_true, dmemWord_write_same]
  have hlt : putBits d.w0.toNat 39 39 1 < 2 ^ 40 := putBits_lt _ _ _ _ (by decide) (by decide) d.w0.isLt
  have hn0 : (dmemWord (descBack s p a d st n) p a).toNat = putBits (putBits d.w0.toNat 39 39 1) 34 31 st := by
    rw [hw0, BitVec.toNat_ofNat, Nat.mod_eq_of_lt (putBits_lt _ _ _ _ (by decide) (by decide) hlt)]
  have hn2 : (dmemWord (descBack s p a d st n) p (a + 2)).toNat = putBits d.w2.toNat 39 22 n := by
    rw [hw2, toNat_putBits _ _ _ _ (by decide) (by decide)]
  refine ⟨?_, ?_, ?_, ?_, ?_⟩
  · rw [← bitsOf_toNat_single, hn0, bitsOf_putBits_above _ _ _ _ _ _ (by decide) (by decide),
      bitsOf_putBits_same _ _ _ _ (by decide)]
    rfl
  · rw [hn0, bitsOf_putBits_same _ _ _ _ (by decide)]
    exact Nat.mod_eq_of_lt hst
  · rw [hn0, bitsOf_putBits_above _ _ _ _ _ _ (by decide) (by decide),
      bitsOf_putBits_below _ _ _ _ _ _ (by decide) (by decide) (by decide)]
  · rw [hn2, bitsOf_putBits_same _ _ _ _ (by decide)]
    exact Nat.mod_eq_of_lt hn
  · rw [hn2, bitsOf_putBits_below _ _ _ _ _ _ (by decide) (by decide) (by decide)]

theorem descBack_regs (s : State) (p a : Nat) (d : Desc) (st n : Nat) (ch : Fin 4) :
    (∀ {se sup : Fld}, chanFlds se sup = true → (descBack s p a d st n).pf p se sup ch = s.pf p se sup ch) ∧
    (descBack s p a d st n).pf p F.SE_IRQ_PEND.EDGE F.SUP_IRQ_PEND.EDGE = s.pf p F.SE_IRQ_PEND.EDGE F.SUP_IRQ_PEND.EDGE := by
  unfold descBack
  split
  · exact ⟨fun _ => rfl, rfl⟩
  · refine ⟨fun h => ?_, ?_⟩
    · rw [chan_dmemWrite h, chan_dmemWrite h]
    · rw [pf_dmemWrite _ _ _ _ _ (by decide), pf_dmemWrite _ _ _ _ _ (by decide)]

/-- The words of the data memory beside the two that a descriptor's end writes. -/
theorem descBack_other (s : State) {p a b : Nat} (d : Desc) (st n : Nat) (ha : a + 4 ≤ dmemWords p) (hb : b < dmemWords p)
    (hout : b < a ∨ a + 4 ≤ b) : dmemWord (descBack s p a d st n) p b = dmemWord s p b := by
  unfold descBack
  split
  · rfl
  · rw [dmemWord_write_other _ _ (by omega) hb (by omega), dmemWord_write_other _ _ (by omega) hb (by omega)]

/-! ### The end of a descriptor -/

/-- How a descriptor ends: it is written back, and the channel has its status. -/
structure Ended (s t : State) (p : Nat) (ch : Fin 4) (a : Nat) (d : Desc) (st n : Nat) : Prop where
  dmem   : DmemKept (descBack s p a d st n) t p
  status : t.pf p F.SE_DMA_STAT.STATUS F.SUP_DMA_STAT.STATUS ch = st

/-- A status other than OK stops the channel (R171). -/
theorem endDesc_stops (s : State) (p : Nat) (ch : Fin 4) (a : Nat) (d : Desc) {st : Nat} (n : Nat) (inj : Bool) (hbad : st ≠ stOk)
    (hst : st < 16) :
    Ended s (endDesc s p ch a d st n inj) p ch a d st n ∧
    (endDesc s p ch a d st n inj).pf p F.SE_DMA_STAT.BUSY F.SUP_DMA_STAT.BUSY ch = 0 ∧
    (endDesc s p ch a d st n inj).pf p F.SE_DMA_STAT.ERR F.SUP_DMA_STAT.ERR ch = 1 ∧
    bitOf ((endDesc s p ch a d st n inj).pf p F.SE_IRQ_PEND.EDGE F.SUP_IRQ_PEND.EDGE) 1 = true := by
  unfold endDesc
  dsimp only
  rw [if_pos hbad]
  unfold stopChan
  dsimp only
  generalize hu : (descBack s p a d st n).setProc p _ = u
  have hkept : DmemKept (descBack s p a d st n) u p := hu ▸ (DmemKept.refl _ p).setProc _
  obtain ⟨hchan, hedge, hdmem⟩ := dmaKept_procEvent (raiseEdge (((u.setPf p F.SE_DMA_STAT.BUSY F.SUP_DMA_STAT.BUSY 0 ch).setPf p
    F.SE_DMA_STAT.STATUS F.SUP_DMA_STAT.STATUS st ch).setPf p F.SE_DMA_STAT.ERR F.SUP_DMA_STAT.ERR 1 ch) p 17) p 2 inj ch
  refine ⟨⟨?_, ?_⟩, ?_, ?_, ?_⟩
  · have h3 := ((hkept.setChan (se := F.SE_DMA_STAT.BUSY) (sup := F.SUP_DMA_STAT.BUSY) (by decide) 0 ch).setChan
      (se := F.SE_DMA_STAT.STATUS) (sup := F.SUP_DMA_STAT.STATUS) (by decide) st ch).setChan
      (se := F.SE_DMA_STAT.ERR) (sup := F.SUP_DMA_STAT.ERR) (by decide) 1 ch
    exact (h3.raiseEdge 17).trans hdmem
  · rw [hchan (by decide), chan_raiseEdge (by decide), chan_setPf_apart (by decide), pf_setPf_idx]
    split <;> exact Nat.mod_eq_of_lt hst
  · rw [hchan (by decide), chan_raiseEdge (by decide), chan_setPf_apart (by decide), chan_setPf_apart (by decide),
      pf_setPf_idx, Nat.zero_mod]
  · rw [hchan (by decide), chan_raiseEdge (by decide), pf_setPf_idx]
    split <;> rfl
  · rw [hedge, edge_raiseEdge _ _ (by decide), bitOf_eq_testBit, Nat.testBit_or]
    exact Bool.or_eq_true_iff.2 (.inr rfl)

/-- With the status OK the chain goes on, or the channel is idle (R171). -/
theorem endDesc_ok (s : State) (p : Nat) (ch : Fin 4) (a : Nat) (d : Desc) (n : Nat) (inj : Bool) :
    Ended s (endDesc s p ch a d stOk n inj) p ch a d stOk n ∧
    (endDesc s p ch a d stOk n inj).pf p F.SE_DMA_STAT.BUSY F.SUP_DMA_STAT.BUSY ch =
      (if d.chain then s.pf p F.SE_DMA_STAT.BUSY F.SUP_DMA_STAT.BUSY ch else 0) ∧
    (d.chain = true → d.next < dmemWords p →
      (endDesc s p ch a d stOk n inj).pf p F.SE_DMA_STAT.CUR F.SUP_DMA_STAT.CUR ch = d.next) ∧
    bitOf ((endDesc s p ch a d stOk n inj).pf p F.SE_IRQ_PEND.EDGE F.SUP_IRQ_PEND.EDGE) 0 =
      (d.irq || bitOf (s.pf p F.SE_IRQ_PEND.EDGE F.SUP_IRQ_PEND.EDGE) 0) := by
  obtain ⟨hbackChan, hbackEdge⟩ := descBack_regs s p a d stOk n ch
  unfold endDesc
  dsimp only
  rw [if_neg (by decide)]
  generalize hu : (descBack s p a d stOk n).setProc p _ = u
  have hkept : DmemKept (descBack s p a d stOk n) u p := hu ▸ (DmemKept.refl _ p).setProc _
  have hchan : ∀ {se sup : Fld}, chanFlds se sup = true → u.pf p se sup ch = s.pf p se sup ch := fun h => hu ▸ hbackChan h
  have hedge : u.pf p F.SE_IRQ_PEND.EDGE F.SUP_IRQ_PEND.EDGE = s.pf p F.SE_IRQ_PEND.EDGE F.SUP_IRQ_PEND.EDGE := hu ▸ hbackEdge
  generalize hv : (if d.irq = true then raiseEdge (u.setPf p F.SE_DMA_STAT.STATUS F.SUP_DMA_STAT.STATUS stOk ch) p 16
    else u.setPf p F.SE_DMA_STAT.STATUS F.SUP_DMA_STAT.STATUS stOk ch) = v
  have hkept' : DmemKept (descBack s p a d stOk n) v p := by
    rw [← hv]
    split
    · exact (hkept.setChan (by decide) stOk ch).raiseEdge 16
    · exact hkept.setChan (by decide) stOk ch
  have hchan' : ∀ {se sup : Fld}, chanFlds se sup = true →
      v.pf p se sup ch = (u.setPf p F.SE_DMA_STAT.STATUS F.SUP_DMA_STAT.STATUS stOk ch).pf p se sup ch := by
    intro se sup h
    rw [← hv]
    split
    · rw [chan_raiseEdge h]
    · rfl
  have hedge' : bitOf (v.pf p F.SE_IRQ_PEND.EDGE F.SUP_IRQ_PEND.EDGE) 0 =
      (d.irq || bitOf (s.pf p F.SE_IRQ_PEND.EDGE F.SUP_IRQ_PEND.EDGE) 0) := by
    rw [← hv, ← hedge]
    cases d.irq
    · rw [if_neg Bool.false_ne_true, pf_setChan (by decide), Bool.false_or]
    · rw [if_pos rfl, edge_raiseEdge _ _ (by decide), bitOf_eq_testBit, Nat.testBit_or, Bool.true_or]
      exact Bool.or_eq_true_iff.2 (.inr rfl)
  have hstatus : v.pf p F.SE_DMA_STAT.STATUS F.SUP_DMA_STAT.STATUS ch = stOk := by
    rw [hchan' (by decide), pf_setPf_idx]
    split <;> rfl
  cases hchain : d.chain
  · rw [if_neg Bool.false_ne_true]
    refine ⟨⟨hkept'.setChan (by decide) 0 ch, ?_⟩, ?_, nofun, ?_⟩
    · rw [chan_setPf_apart (by decide), hstatus]
    · rw [pf_setPf_idx, Nat.zero_mod]
      rfl
    · rw [pf_setChan (by decide), hedge']
  · rw [if_pos rfl]
    refine ⟨⟨hkept'.setChan (by decide) d.next ch, ?_⟩, ?_, fun _ hnext => ?_, ?_⟩
    · rw [chan_setPf_apart (by decide), hstatus]
    · rw [chan_setPf_apart (by decide), hchan' (by decide), chan_setPf_apart (by decide), hchan (by decide)]
      rfl
    · rw [pf_setPf_idx]
      unfold dmemWords at hnext
      split at hnext
      next h => rw [if_pos h]; exact Nat.mod_eq_of_lt hnext
      next h => rw [if_neg h]; exact Nat.mod_eq_of_lt hnext
    · rw [pf_setChan (by decide), hedge']

/-! ### The current descriptor of a channel with nothing else under way -/

theorem readDesc_clean {s : State} (hclean : ∀ x, mget 0 s.memErr x = 0) (p a : Nat) : (readDesc s p a).2 = s := by
  unfold readDesc localRead
  simp only [dmemRead_clean hclean]

theorem endInjected_none {s : State} {p : Nat} (h : (s.proc p).dmaInj = []) (ch a : Nat) (d : Desc) (st n : Nat) :
    endInjected s p ch a d st n = endDesc s p ch a d st n false := by
  rw [endInjected, h]
  rfl

/-- A channel of which nothing waits and nothing is armed. -/
structure ChanFree (s : State) (p : Nat) : Prop where
  clean  : ∀ x, mget 0 s.memErr x = 0
  isOpen : localBusy s p = false
  noInj  : (s.proc p).dmaInj = []
  noRun  : (s.proc p).dmaRun = []

/-- A descriptor whose transfer is not held completes. -/
theorem runDesc_completes {s t : State} {p ch a : Nat} {d : Desc} {m : Moved} (h : ChanFree s p) {stamps : List Nat}
    (ha : s.pf p F.SE_DMA_STAT.CUR F.SUP_DMA_STAT.CUR ch = a) (hd : (readDesc s p a).1 = d)
    (hheld : movesWait s (procSrcId p) d.w1.toNat d.len (!d.bad && (oneWord d.w1.toNat).isSome) = false)
    (hcarry : carryDesc s p ch d d.len stamps = (m, t)) (hdue : m.due = 0) (hinj : (t.proc p).dmaInj = []) :
    runDesc s p ch none stamps = endDesc t p ch a d m.status m.count false := by
  unfold runDesc
  dsimp only
  rw [ha, h.isOpen, if_neg Bool.false_ne_true, h.noRun, hd, readDesc_clean h.clean, List.find?_nil]
  dsimp only
  rw [hheld, if_neg (by simp), hcarry, if_pos hdue, endInjected_none hinj]
  rfl

theorem carryDesc_none (s : State) (p ch : Nat) (d : Desc) (stamps : List Nat) :
    ∃ st, carryDesc s p ch d 0 stamps = ({ status := st }, s) := by
  unfold carryDesc
  dsimp only
  split
  · exact ⟨_, rfl⟩
  · split
    · exact ⟨_, rfl⟩
    · split <;> exact ⟨_, rfl⟩

/-- A descriptor of which no word was issued is aborted (R171). -/
theorem runDesc_aborts {s : State} {p ch a : Nat} {d : Desc} (h : ChanFree s p) (stamps : List Nat)
    (ha : s.pf p F.SE_DMA_STAT.CUR F.SUP_DMA_STAT.CUR ch = a) (hd : (readDesc s p a).1 = d) :
    runDesc s p ch (some 0) stamps = endDesc s p ch a d 12 0 false := by
  obtain ⟨st, hcarry⟩ := carryDesc_none s p ch d stamps
  unfold runDesc
  dsimp only
  rw [ha, h.isOpen, if_neg Bool.false_ne_true, h.noRun, hd, readDesc_clean h.clean, List.find?_nil]
  simp only [show Nat.min 0 d.len = 0 from Nat.zero_min _, ite_self, hcarry]
  rw [if_neg (by simp), if_pos trivial, endInjected_none h.noInj]
  rfl

/-! ### One word read from the network -/

theorem bitOf_two_pow (j i : Nat) : bitOf (2 ^ j) i = decide (j = i) := by rw [bitOf_eq_testBit, Nat.testBit_two_pow]

theorem readLineWords_one (a j n : Nat) : ∀ k s, (readLineWords a (2 ^ j) n k s).1.length = if k ≤ j ∧ j < k + n then 1 else 0 := by
  induction n with
  | zero => exact fun k s => (if_neg (by omega)).symm
  | succ n ih =>
    intro k s
    rw [readLineWords, bitOf_two_pow]
    by_cases hjk : j = k
    · rw [decide_eq_true hjk, if_pos rfl]
      simp only [List.length_cons]
      rw [ih, if_neg (by omega), if_pos (by omega)]
    · rw [decide_eq_false hjk, if_neg Bool.false_ne_true, ih]
      congr 1
      exact propext (by omega)

theorem readSlots_one (b j n : Nat) : ∀ k s, (readSlots b (2 ^ j) n k s).1.1.length = if k ≤ j ∧ j < k + n then 1 else 0 := by
  induction n with
  | zero => exact fun k s => (if_neg (by omega)).symm
  | succ n ih =>
    intro k s
    rw [readSlots, bitOf_two_pow]
    by_cases hjk : j = k
    · rw [decide_eq_true hjk, if_pos rfl]
      simp only [List.length_cons]
      rw [ih, if_neg (by omega), if_pos (by omega)]
    · rw [decide_eq_false hjk, if_neg Bool.false_ne_true, ih]
      congr 1
      exact propext (by omega)

theorem wordAt_length (ws : List Word) (j n : Nat) :
    ((ws.zipIdx n).filterMap (fun e => if bitOf (2 ^ j) e.2 then some e.1 else none)).length =
      if n ≤ j ∧ j < n + ws.length then 1 else 0 := by
  induction ws generalizing n with
  | nil => exact (if_neg (by simp)).symm
  | cons w ws ih =>
    rw [List.zipIdx_cons, List.filterMap_cons]
    by_cases hjn : j = n
    · rw [bitOf_two_pow, decide_eq_true hjn]
      simp only [if_true, List.length_cons]
      rw [ih, if_neg (by omega), if_pos (by omega)]
    · rw [bitOf_two_pow, decide_eq_false hjn]
      simp only [Bool.false_eq_true, if_false, List.length_cons]
      rw [ih]
      congr 1
      exact propext (by omega)

/-- The word or slot that an address names is one of its range. -/
theorem oneWord_eq {a sel : Nat} (h : oneWord a = some sel) : ∃ j, sel = 2 ^ j ∧
    (isBlockForm a = true → j = a % 64 / 5 ∧ j < 12) ∧ (isBlockForm a = false → j < 8 ∧ (targetOf a ≠ .none → j = a % 64 / 8)) := by
  unfold oneWord at h
  unfold isBlockForm
  generalize targetOf a = x at h ⊢
  cases x
  case none => exact ⟨0, (Option.some.inj h).symm, nofun, fun _ => ⟨by decide, fun hne => absurd rfl hne⟩⟩
  case main | queueMem | window =>
    dsimp only at h
    split at h
    · exact ⟨_, (Option.some.inj h).symm, fun _ => ⟨rfl, by omega⟩, nofun⟩
    · exact absurd h nofun
  case spd | readout | regs =>
    dsimp only at h
    split at h
    · exact ⟨_, (Option.some.inj h).symm, nofun, fun _ => ⟨by omega, fun _ => rfl⟩⟩
    · exact absurd h nofun

theorem readRange_one (s : State) (src : Nat) {a sel : Nat} (h : oneWord a = some sel) : (readRange s src a sel).1.1.length = 1 := by
  obtain ⟨j, rfl, hblock, hslot⟩ := oneWord_eq h
  unfold isBlockForm at hblock hslot
  unfold readRange
  generalize targetOf a = x at hblock hslot ⊢
  cases x
  case main =>
    refine (wordAt_length _ j 0).trans (if_pos ⟨Nat.zero_le _, ?_⟩)
    rw [bytesWords, List.length_map, List.length_range]
    exact (Nat.zero_add 12).symm ▸ (hblock rfl).2
  case queueMem | window => exact (readLineWords_one a j 12 0 s).trans (if_pos ⟨Nat.zero_le _, by have := (hblock rfl).2; omega⟩)
  case none | spd | readout | regs =>
    exact (readSlots_one _ j 8 0 s).trans (if_pos ⟨Nat.zero_le _, by have := (hslot rfl).1; omega⟩)

theorem chunkAt_one {a sel : Nat} (h : oneWord a = some sel) (htarget : targetOf a ≠ .none) :
    ∃ next, chunkAt a 1 = (1, sel, false, next) := by
  obtain ⟨j, rfl, hblock, hslot⟩ := oneWord_eq h
  unfold chunkAt
  cases hform : isBlockForm a
  · obtain ⟨hj, hj'⟩ := hslot hform
    have hmin : Nat.min 1 (8 - a % 64 / 8) = 1 := Nat.min_eq_left (by have := hj' htarget; omega)
    exact ⟨a + 8, by simp [hmin, hj' htarget]⟩
  · obtain ⟨hj, hj'⟩ := hblock hform
    have hmin : Nat.min 1 (12 - a % 64 / 5) = 1 := Nat.min_eq_left (by omega)
    exact ⟨_, by simp [hmin, hj]; rfl⟩

/-- A request answered with OK names a node, which carried it out. -/
theorem serveNow_ok {s : State} {q : NetReq} (hok : (serveNow s q).1 = some stOk) :
    nodeOf q.addr ≠ none ∧ ∃ u, (serveNow s q).2.1 = (carryOut u q).2.1 := by
  unfold serveNow at hok ⊢
  generalize nodeOf q.addr = node at hok ⊢
  cases node with
  | none => exact absurd (Option.some.inj hok) (by decide)
  | some node =>
    refine ⟨nofun, ?_⟩
    dsimp only at hok ⊢
    split at hok
    next haway => exact absurd (Option.some.inj hok) haway
    next hstay =>
      rw [if_neg hstay]
      refine ⟨travel (useEntry s q.src node) ⟨0, q.op, q.src, srcPort q.src, node, q.load, q.addr, q.tag⟩, ?_⟩
      split <;> rfl

theorem carryOut_one (s : State) {q : NetReq} (hop : q.op = 0) (hone : oneWord q.addr = some q.sel) :
    (carryOut s q).2.1.length = 1 := by
  obtain ⟨j, hj, -, -⟩ := oneWord_eq hone
  have hsel : q.sel ≠ 0 := by rw [hj]; exact (Nat.two_pow_pos j).ne'
  unfold carryOut
  rw [hop]
  dsimp only
  rw [if_neg hsel]
  exact readRange_one s q.src hone

/-- A read of one word that is answered with OK was not held, and its answer is one word. -/
theorem access_one {s : State} {q : NetReq} (hop : q.op = 0) (hone : oneWord q.addr = some q.sel) (hok : (access s q).1 = some stOk) :
    heldBack s q = false ∧ heldThere s q = false ∧ targetOf q.addr ≠ .none ∧ ∃ w, (access s q).2.1 = [w] := by
  unfold access at hok ⊢
  cases hback : heldBack s q
  case true => rw [hback] at hok; exact absurd hok nofun
  cases hthere : heldThere s q
  case true => rw [hback, hthere] at hok; exact absurd hok nofun
  rw [hback, hthere, if_neg Bool.false_ne_true, if_neg Bool.false_ne_true] at hok
  rw [if_neg Bool.false_ne_true, if_neg Bool.false_ne_true]
  obtain ⟨hnode, u, hwords⟩ := serveNow_ok hok
  refine ⟨rfl, rfl, fun htarget => hnode (by rw [nodeOf, htarget]), List.length_eq_one_iff.1 ?_⟩
  rw [hwords, carryOut_one u hop hone]

/-- The read of a descriptor's one word. -/
def wordRead (s : State) (p ch addr sel : Nat) (stamps : List Nat) : NetReq :=
  { op := 0, src := procSrcId p, tag := 0x8000 + ch, addr := addr, sel := sel, stride := stamps.headD s.time.strideNum }

/-- A descriptor that brings one word in writes what its read was answered with. -/
theorem carryDesc_one {s : State} {p ch : Nat} {d : Desc} {sel : Nat} {stamps : List Nat} (hgood : d.bad = false) (hdir : d.dir = 0)
    (hlen : d.len = 1) (hone : oneWord d.w1.toNat = some sel)
    (hok : (access s (wordRead s p ch d.w1.toNat sel stamps)).1 = some stOk) :
    movesWait s (procSrcId p) d.w1.toNat d.len (!d.bad && (oneWord d.w1.toNat).isSome) = false ∧
    ∃ w, (access s (wordRead s p ch d.w1.toNat sel stamps)).2.1 = [w] ∧
      carryDesc s p ch d d.len stamps =
        ({ count := 1 }, (access s (wordRead s p ch d.w1.toNat sel stamps)).2.2.dmemWrite p d.saddr w) := by
  obtain ⟨hback, hthere, htarget, w, hw⟩ := access_one (q := wordRead s p ch d.w1.toNat sel stamps) rfl hone hok
  obtain ⟨next, hchunk⟩ := chunkAt_one hone htarget
  refine ⟨?_, w, hw, ?_⟩
  · have hwaits : (chunkReq (procSrcId p) 0 0 d.w1.toNat sel true false []).waits s = false := by
      rw [NetReq.waits, show heldBack s (chunkReq (procSrcId p) 0 0 d.w1.toNat sel true false []) = false from hback,
        show heldThere s (chunkReq (procSrcId p) 0 0 d.w1.toNat sel true false []) = false from hthere]
      rfl
    rw [movesWait, hlen, chunksWait, if_neg one_ne_zero, hchunk]
    dsimp only
    rw [hwaits, chunksWait, Bool.or_false, Bool.and_false]
  · rw [carryDesc, hgood, hlen, hdir, hone, if_neg Bool.false_ne_true, if_neg one_ne_zero, if_neg nofun, moveWords,
      if_neg one_ne_zero, hchunk, show decide (0 = 1) = false from rfl]
    simp only [Bool.false_eq_true, if_false]
    rw [show access s (chunkReq (procSrcId p) (32768 + ch) (stamps.headD s.time.strideNum) d.w1.toNat sel false false []) =
      access s (wordRead s p ch d.w1.toNat sel stamps) from rfl, hok, hw]
    rfl

/-! ### The start of a chain -/

theorem dmaDesc_offChan (ch : Fin 4) : offChan .SE_DMA_DESC ch ch ∧ offChan .SUP_DMA_DESC ch ch := by
  refine ⟨⟨?_, ?_⟩, ?_, ?_⟩
  · show 0x80 + ch.val * 0x10 < 0x800000
    omega
  · show 0x80 + ch.val * 0x10 ≠ 0x88 + ch.val * 0x10
    omega
  · show 0x80 + ch.val * 0x10 < 0x800000
    omega
  · show 0x80 + ch.val * 0x10 ≠ 0x88 + ch.val * 0x10
    omega

theorem chan_setDesc {se sup : Fld} (hchan : chanFlds se sup = true) (s : State) (p v : Nat) (ch : Fin 4) :
    (s.setPf p F.SE_DMA_DESC.ADDR F.SUP_DMA_DESC.ADDR v ch).pf p se sup ch = s.pf p se sup ch :=
  chan_setPf_off hchan s p v ⟨rfl, (dmaDesc_offChan ch).1⟩ ⟨rfl, (dmaDesc_offChan ch).2⟩

/-- What a write of SE_DMA_DESC leaves: the processor beside its registers, and the slots below those of its DMA. -/
structure DescWritten (s t : State) (p : Nat) : Prop where
  eq    : t = { s with regs := t.regs }
  below : ∀ {se sup : Fld}, (se.reg.place.blk = .tile ∧ se.reg.place.offset < 0x80) ∧ sup.reg.place.blk = .region ∧
    sup.reg.place.offset < 0x80 → t.pf p se sup = s.pf p se sup

theorem DescWritten.setChan {s t : State} {p : Nat} (h : DescWritten s t p) {f g : Fld} (hchan : chanFlds f g = true) (v : Nat)
    (ch : Fin 4) : DescWritten s (t.setPf p f g v ch) p := by
  refine ⟨?_, fun hbelow => (pf_setChan hchan t p v ch hbelow).trans (h.below hbelow)⟩
  rw [h.eq]
  rfl

theorem descWritten_addr (s : State) (p v : Nat) (ch : Fin 4) :
    DescWritten s (s.setPf p F.SE_DMA_DESC.ADDR F.SUP_DMA_DESC.ADDR v ch) p := by
  refine ⟨rfl, fun hbelow => pf_setPf_below s p v ch ⟨rfl, by decide⟩ ⟨rfl, by decide, ?_⟩ hbelow⟩
  show 0x80 + ch.val * 0x10 < 0x800000
  omega

section Go

variable {s : State} {p : Nat} {ch : Fin 4} {w : Word} (hgo : bitOf w.toNat 39 = true) (hkeep : bitOf w.toNat 38 = false)
include hgo hkeep

/-- GO starts a chain on an idle channel (R169). -/
theorem writeDmaDesc_idle (hidle : s.pf p F.SE_DMA_STAT.BUSY F.SUP_DMA_STAT.BUSY ch = 0) :
    DescWritten s (writeDmaDesc s p ch w) p ∧ (writeDmaDesc s p ch w).pf p F.SE_DMA_STAT.BUSY F.SUP_DMA_STAT.BUSY ch = 1 ∧
    (writeDmaDesc s p ch w).pf p F.SE_DMA_STAT.CUR F.SUP_DMA_STAT.CUR ch = w.toNat % 2 ^ ptrBits p / 4 * 4 := by
  unfold writeDmaDesc dmaStart chanBusy
  dsimp only
  rw [hgo, hkeep, chan_setDesc (by decide), hidle, if_neg Bool.false_ne_true, if_pos rfl, if_neg (by decide)]
  refine ⟨((descWritten_addr s p _ ch).setChan (by decide) 1 ch).setChan (by decide) _ ch, ?_, ?_⟩
  · rw [chan_setPf_apart (by decide), pf_setPf_idx]
    split <;> rfl
  · rw [pf_setPf_idx]
    refine Nat.mod_eq_of_lt (Nat.lt_of_le_of_lt (Nat.div_mul_le_self _ 4) ?_)
    unfold ptrBits
    split <;> exact Nat.mod_lt _ (Nat.two_pow_pos _)

/-- GO on a busy channel is refused (R169). -/
theorem writeDmaDesc_busy (hbusy : s.pf p F.SE_DMA_STAT.BUSY F.SUP_DMA_STAT.BUSY ch = 1) :
    DescWritten s (writeDmaDesc s p ch w) p ∧ (writeDmaDesc s p ch w).pf p F.SE_DMA_STAT.BUSY F.SUP_DMA_STAT.BUSY ch = 1 ∧
    (writeDmaDesc s p ch w).pf p F.SE_DMA_STAT.CUR F.SUP_DMA_STAT.CUR ch = s.pf p F.SE_DMA_STAT.CUR F.SUP_DMA_STAT.CUR ch ∧
    (writeDmaDesc s p ch w).pf p F.SE_DMA_STAT.REFUSED F.SUP_DMA_STAT.REFUSED ch = 1 := by
  unfold writeDmaDesc dmaStart chanBusy
  dsimp only
  rw [hgo, hkeep, chan_setDesc (by decide), hbusy, if_neg Bool.false_ne_true, if_pos rfl, if_pos (by decide)]
  refine ⟨(descWritten_addr s p _ ch).setChan (by decide) 1 ch, ?_, ?_, ?_⟩
  · rw [chan_setPf_apart (by decide), chan_setDesc (by decide), hbusy]
  · rw [chan_setPf_apart (by decide), chan_setDesc (by decide)]
  · rw [pf_setPf_idx]
    split <;> rfl

end Go

/-- The word of SE_DMA_DESC that DMA_GO writes. -/
theorem goWord (addr : BitVec 17) : (BitVec.ofNat 40 (2 ^ 39 + addr.toNat)).toNat = 2 ^ 39 + addr.toNat := by
  rw [BitVec.toNat_ofNat, Nat.mod_eq_of_lt (by have := addr.isLt; omega)]

theorem goWord_bits (addr : BitVec 17) : bitOf (BitVec.ofNat 40 (2 ^ 39 + addr.toNat)).toNat 39 = true ∧
    bitOf (BitVec.ofNat 40 (2 ^ 39 + addr.toNat)).toNat 38 = false := by
  have := addr.isLt
  rw [goWord]
  unfold bitOf
  constructor
  · exact decide_eq_true (by omega)
  · exact decide_eq_false (by omega)

theorem exec_dmaGo {s : State} {p : Proc} {ch : Fin 4} (hch : isSup p = true → ch.val < 2) (addr : BitVec 17) :
    exec (.dmaGo p ch addr) s = .next (writeDmaDesc s p ch (BitVec.ofNat 40 (2 ^ 39 + addr.toNat))) := by
  show execDmaGo p ch addr s = _
  unfold execDmaGo
  rw [if_neg]
  intro h
  obtain ⟨hsup, hge⟩ := Bool.and_eq_true_iff.1 h
  exact Nat.not_le.2 (hch hsup) (of_decide_eq_true hge)

/-! ### DMAGO -/

theorem decodeReg_dmaDesc : ∀ (p : Proc) (ch : Fin 4), (isSup p = true → ch.val < 2) →
    decodeReg (ownSlot p (16 + 2 * ch)) = some ⟨if isSup p then .SUP_DMA_DESC else .SE_DMA_DESC, procUnit p, ch⟩ := by decide +kernel

theorem mtsWrite_dmaDesc {p : Proc} {ch : Fin 4} (hch : isSup p = true → ch.val < 2) (w : Word) (s : State) :
    mtsWrite p (16 + 2 * ch) w s = writeDmaDesc s p ch w := by
  rw [mtsWrite, decodeReg_dmaDesc p ch hch]
  unfold procUnit
  cases hsup : isSup p
  · rfl
  · have hp : 64 + (p.val - 64) = p.val := by
      have : 64 ≤ p.val := of_decide_eq_true hsup
      omega
    show writeDmaDesc s (64 + (p.val - 64)) ch w = _
    rw [hp]

theorem goWord_addr (p : Nat) (addr : BitVec 17) :
    (BitVec.ofNat 40 (2 ^ 39 + addr.toNat)).toNat % 2 ^ ptrBits p = addr.toNat % 2 ^ ptrBits p := by
  rw [goWord]
  unfold ptrBits
  split <;> omega

/-- The address that DMAGO takes from Xa. -/
def dmagoAddr (p : Nat) (x : Word) : BitVec 17 := BitVec.ofNat 17 (x.toNat % 2 ^ ptrBits p)

theorem dmagoAddr_toNat (p : Nat) (x : Word) : (dmagoAddr p x).toNat = x.toNat % 2 ^ ptrBits p := by
  rw [dmagoAddr, BitVec.toNat_ofNat, Nat.mod_eq_of_lt]
  unfold ptrBits
  split <;> omega

theorem dmagoWord_eq (p : Nat) (x : Word) : 0x8000000000#40 ||| (x &&& (if isSup p then 0xFFFF#40 else 0x1FFFF#40)) =
    BitVec.ofNat 40 (2 ^ 39 + (dmagoAddr p x).toNat) := by
  have hmask : (x &&& (if isSup p then 0xFFFF#40 else 0x1FFFF#40)).toNat = (dmagoAddr p x).toNat := by
    rw [dmagoAddr_toNat, BitVec.toNat_and]
    unfold ptrBits
    split
    · exact Nat.and_two_pow_sub_one_eq_mod _ 16
    · exact Nat.and_two_pow_sub_one_eq_mod _ 17
  refine BitVec.eq_of_toNat_eq ?_
  rw [goWord, BitVec.toNat_or, hmask]
  exact (Nat.two_pow_add_eq_or_of_lt (Nat.lt_of_lt_of_le (dmagoAddr p x).isLt (by decide : 2 ^ 17 ≤ 2 ^ 39)) 1).symm

theorem DescWritten.proc {s t : State} {p : Nat} (h : DescWritten s t p) : t.proc p = s.proc p := by rw [h.eq]; rfl

theorem DescWritten.inFast {s t : State} {p : Nat} (h : DescWritten s t p) : t.inFast p = s.inFast p := by
  rw [State.inFast, h.below (by decide), State.inFast]

/-- A quiet processor issues DMAGO: SE_DMA_DESC is written with GO and the address in Xa (R169, R193). -/
theorem runInsn_dmago {s : State} {p : Proc} (h : Quiet s p) (ra : Fin 16) {ch : Fin 4} (hch : isSup p = true → ch.val < 2) :
    ∃ u, u.proc p = s.proc p ∧ u.inFast p = s.inFast p ∧ u.ppc p = nextPc p (s.ppc p) 1 ∧
      (∀ {se sup : Fld}, chanFlds se sup = true → u.pf p se sup ch = s.pf p se sup ch) ∧
      (DescWritten u (writeDmaDesc u p ch (BitVec.ofNat 40 (2 ^ 39 + (dmagoAddr p (s.getX p ra)).toNat))) p →
        runInsn p (.dmago ra ch) s =
          .next (writeDmaDesc u p ch (BitVec.ofNat 40 (2 ^ 39 + (dmagoAddr p (s.getX p ra)).toNat)))) := by
  obtain ⟨hissuing, hfly⟩ := h
  have hunheld := unheld_of_issuing hissuing
  have hproc : (s.setProc p (s.proc p)).proc p = s.proc p := proc_setProc_same ..
  have hlegal : (Insn.dmago ra ch).legal (isSup p) = true := by
    cases hsup : isSup p
    · rfl
    · show (!(true && decide (2 ≤ ch.val))) = true
      rw [decide_eq_false (Nat.not_le.2 (hch hsup))]
      rfl
  refine ⟨(s.setProc p (s.proc p)).setPpc p (nextPc p (s.ppc p) 1), hproc, ?_, ppc_setPpc_nextPc .., fun hchan => ?_,
    fun hwritten => ?_⟩
  · rw [inFast_setPpc, inFast_setProc]
  · exact chan_setPf_off (f := F.SE_PC.PC) (g := F.SUP_PC.PC) hchan _ p _ ⟨rfl, offChan_zero (by decide) ch⟩
      ⟨rfl, offChan_zero (by decide) ch⟩
  · have hu : (writeDmaDesc ((s.setProc p (s.proc p)).setPpc p (nextPc p (s.ppc p) 1)) p ch
        (BitVec.ofNat 40 (2 ^ 39 + (dmagoAddr p (s.getX p ra)).toNat))).proc p = s.proc p := hwritten.proc.trans hproc
    rw [runInsn_issuing hissuing _ hlegal]
    congr 1
    unfold issueOk
    dsimp only
    rw [endCycle_nil hfly, movePc_noSlots (by rw [hproc]; exact hunheld.slots), dmagoWord_eq]
    show settle (endRtf (mtsWrite p (16 + 2 * ch) _ _) p) p = _
    rw [mtsWrite_dmaDesc hch, endRtf_noRtf (by rw [hu]; exact hunheld.rtf)]
    exact settle_idle (by rw [hu]; exact hunheld.haltReq) (by rw [hu]; exact hunheld.stepping)

/-! ### The commands of a channel -/

theorem hasChan_of {p : Proc} {ch : Fin 4} (hch : isSup p = true → ch.val < 2) : hasChan p ch = true := by
  unfold hasChan
  cases hsup : isSup p
  · rfl
  · rw [Bool.true_and, decide_eq_false (Nat.not_le.2 (hch hsup))]
    rfl

section Commands

variable {s : State} {p : Proc} {ch : Fin 4} (hch : isSup p = true → ch.val < 2)
  (hbusy : s.pf p F.SE_DMA_STAT.BUSY F.SUP_DMA_STAT.BUSY ch = 1) (hnone : (s.proc p).aborts = [])
include hch hbusy hnone

theorem exec_dmaDescriptorComplete (stamps : List Nat) :
    exec (.dmaDescriptorComplete p ch stamps) s = .next (runDesc s p ch none stamps) := by
  show execDmaDescriptorComplete p ch stamps s = _
  unfold execDmaDescriptorComplete chanBusy
  rw [hasChan_of hch, hbusy, hnone]
  rfl

theorem exec_dmaAbort (count : Nat) : exec (.dmaAbort p ch count) s =
    .next (runDesc (s.setProc p { s.proc p with aborts := [ch.val] }) p ch (some count) []) := by
  show execDmaAbort p ch count s = _
  unfold execDmaAbort dmaAbortAsk chanBusy
  dsimp only
  rw [hasChan_of hch, hbusy, hnone]
  rfl

end Commands

theorem readDesc_words {s : State} (hclean : ∀ x, mget 0 s.memErr x = 0) (p a : Nat) :
    (readDesc s p a).1 = ⟨dmemWord s p a, dmemWord s p (a + 1), dmemWord s p (a + 2), dmemWord s p (a + 3)⟩ := by
  unfold readDesc localRead
  simp only [dmemRead_clean hclean]
  rfl

theorem ChanFree.setProc {s : State} {p : Nat} (h : ChanFree s p) (v : ProcSt) (hinj : v.dmaInj = (s.proc p).dmaInj)
    (hrun : v.dmaRun = (s.proc p).dmaRun) : ChanFree (s.setProc p v) p :=
  ⟨h.clean, h.isOpen, by rw [proc_setProc_same, hinj, h.noInj], by rw [proc_setProc_same, hrun, h.noRun]⟩

theorem readDesc_setProc {s : State} (hclean : ∀ x, mget 0 s.memErr x = 0) (p a : Nat) (v : ProcSt) :
    (readDesc (s.setProc p v) p a).1 = (readDesc s p a).1 := by
  have hkept : DmemKept s (s.setProc p v) p := (DmemKept.refl s p).setProc v
  rw [readDesc_words hclean, readDesc_words (s := s.setProc p v) hclean]
  simp only [hkept.dmemWord]

/-- The words of a descriptor that ended. -/
theorem Ended.written {s t : State} {p : Nat} {ch : Fin 4} {a st n : Nat} {d : Desc} (h : Ended s t p ch a d st n)
    (hopen : localBusy s p = false) (ha : a + 4 ≤ dmemWords p) (hst : st < 16) (hn : n < 2 ^ 18) : WrittenBack t p a d st n :=
  (descBack_written hopen d ha hst hn).kept h.dmem

theorem carryDesc_empty (s : State) (p ch : Nat) {d : Desc} (stamps : List Nat) (hgood : d.bad = false) (hlen : d.len = 0) (n : Nat) :
    carryDesc s p ch d n stamps = ({}, s) := by
  rw [carryDesc, hgood, hlen]
  rfl

theorem carryDesc_bad (s : State) (p ch : Nat) {d : Desc} (stamps : List Nat) (hbad : d.bad = true) (n : Nat) :
    carryDesc s p ch d n stamps = ({ status := stBadDesc }, s) := by
  rw [carryDesc, hbad]
  rfl

theorem movesWait_empty (s : State) (src addr : Nat) (moves : Bool) : movesWait s src addr 0 moves = false := by
  rw [movesWait, chunksWait, Bool.and_false]

end Sys2Proof.Laws
end

section

open Sys2Proof Sys2Proof.Machine Sys2Proof.Safety Sys2Proof.Laws

/-- Settles O23: GO, DMAGO, the completion of a descriptor and ABORT are each a short chain of writes of the channel's slot after
the two words of the descriptor, and none of them reaches another slot or word that the statement reads. -/
theorem dmaChannelsRunDescriptorChains : Obligations.DmaChannelsRunDescriptorChains := by
  unfold Obligations.DmaChannelsRunDescriptorChains
  intro s p ch hch busy cur status a d back
  refine ⟨fun addr hidle haddr => ?_, fun addr hbusy => ?_, fun ra hquiet hidle => ?_, fun hclean hmarch hbusy hinj hrun habort => ?_⟩
  · obtain ⟨hgo, hkeep⟩ := goWord_bits addr
    obtain ⟨hwritten, hbusy, hcur⟩ := writeDmaDesc_idle hgo hkeep hidle
    refine ⟨_, exec_dmaGo hch addr, hbusy, hcur.trans ?_, hwritten.eq⟩
    rw [goWord_addr, Nat.mod_eq_of_lt]
    unfold ptrBits
    split
    next hsup => exact haddr hsup
    next => exact addr.isLt
  · obtain ⟨hgo, hkeep⟩ := goWord_bits addr
    obtain ⟨hwritten, hbusy', hcur, hrefused⟩ := writeDmaDesc_busy hgo hkeep hbusy
    exact ⟨_, exec_dmaGo hch addr, hbusy', hcur, hrefused, hwritten.eq⟩
  · obtain ⟨u, hproc, hfast, hppc, hchan, hrun⟩ := runInsn_dmago hquiet ra hch
    obtain ⟨hgo, hkeep⟩ := goWord_bits (dmagoAddr p (s.getX p ra))
    obtain ⟨hwritten, hbusy, hcur⟩ := writeDmaDesc_idle hgo hkeep ((hchan (by decide)).trans hidle)
    refine ⟨_, hrun hwritten, hbusy, hcur.trans ?_, ?_, ?_⟩
    · rw [goWord_addr, dmagoAddr_toNat, Nat.mod_mod]
    · exact (hwritten.below (by decide)).trans hppc
    · rw [bankNow, hwritten.proc, hwritten.inFast, hproc, hfast, bankNow]
  · have hopen : localBusy s p = false := localBusy_of hmarch
    have hfree : ChanFree s p := ⟨hclean, hopen, hinj, hrun⟩
    have hback : ∀ {u t : State} {st n : Nat}, localBusy u p = false → Ended u t p ch a d st n → st < 16 → n < 2 ^ 18 → back t st n := by
      intro u t st n hopen hended hst hn _ ha
      obtain ⟨hdone, hstatus, hother, hcount, haddr⟩ := hended.written hopen ha hst hn
      exact ⟨hdone, hstatus, hother, hcount, haddr⟩
    refine ⟨fun stamps hgood hlen => ?_, fun stamps hbad => ?_, ?_, ?_⟩
    · have hruns := runDesc_completes (stamps := stamps) hfree rfl rfl (by rw [hlen]; exact movesWait_empty ..)
        (carryDesc_empty s p ch stamps hgood hlen _) rfl hinj
      obtain ⟨hended, hbusy', hcur, hedge⟩ := endDesc_ok s p ch a d 0 false
      refine ⟨_, (exec_dmaDescriptorComplete hch hbusy habort stamps).trans (congrArg _ hruns), hback hopen hended (by decide) (by decide),
        hended.status, hbusy'.trans ?_, hcur, hedge⟩
      rw [show s.pf p F.SE_DMA_STAT.BUSY F.SUP_DMA_STAT.BUSY ch = 1 from hbusy]
    · have hruns := runDesc_completes (stamps := stamps) hfree rfl rfl (by rw [hbad]; rfl) (carryDesc_bad s p ch stamps hbad _) rfl hinj
      obtain ⟨hended, hbusy', herr, hedge⟩ := endDesc_stops s p ch a d (st := stBadDesc) 0 false (by decide) (by decide)
      exact ⟨_, (exec_dmaDescriptorComplete hch hbusy habort stamps).trans (congrArg _ hruns), hback hopen hended (by decide) (by decide),
        hended.status, hbusy', herr, hedge⟩
    · intro stamps word hgood hdir hlen hone hsaddr hout _ ha go hok _ hmarch' hinj'
      obtain ⟨hheld, w, hw, hcarry⟩ := carryDesc_one (p := p) (ch := ch) hgood hdir hlen hone hok
      have hopen' : localBusy (go.2.2.dmemWrite p d.saddr w) p = false  :=
        (localBusy_dmemWrite ..).trans (localBusy_of hmarch')
      have hruns := runDesc_completes hfree rfl rfl hheld hcarry rfl (by rw [State.proc, dmemWrite_procs]; exact hinj')
      obtain ⟨hended, -⟩ := endDesc_ok (go.2.2.dmemWrite p d.saddr w) p ch a d 1 false
      refine ⟨_, (exec_dmaDescriptorComplete hch hbusy habort stamps).trans (congrArg _ hruns), hback hopen' hended (by decide) (by decide),
        hended.status, ?_⟩
      refine (hended.dmem.dmemWord d.saddr).trans ?_
      rw [descBack_other _ d stOk 1 ha hsaddr hout, dmemWord_write_same]
      exact (congrArg (fun ws => List.headD ws 0) hw).symm
    · have hfree' := hfree.setProc { s.proc p with aborts := [ch.val] } rfl rfl
      have hruns := runDesc_aborts (ch := ch) (a := a) (d := d) hfree' [] rfl (readDesc_setProc hclean p a _)
      obtain ⟨hended, hbusy', herr, -⟩ := endDesc_stops (s.setProc p { s.proc p with aborts := [ch.val] }) p ch a d (st := 12) 0 false
        (by decide) (by decide)
      exact ⟨_, (exec_dmaAbort hch hbusy habort 0).trans (congrArg _ hruns), fun _ => hback hfree'.isOpen hended (by decide) (by decide),
        hended.status, hbusy', herr⟩

end

section
/-! SUPPORT. Leases of the nodes, and responses at their requesters (R173, R205, R283, R297, R302, R307, R401). -/

namespace Sys2Proof.Laws

open Sys2Proof Sys2Proof.Machine Sys2Proof.Safety

/-! ### A network that holds no request -/

/-- Nothing waits at a source or at a node. -/
structure NoneHeld (s : State) : Prop where
  atSource : s.net.waitReq = []
  atNode   : s.net.accepted = []

theorem releaseHeld_noneHeld {s : State} (h : NoneHeld s) : releaseHeld s = s := by
  have hnode : { s with net := { s.net with accepted := [] } } = s := by rw [← h.atNode]
  have hsource : { s with net := { s.net with waitReq := [] } } = s := by rw [← h.atSource]
  unfold releaseHeld
  rw [h.atNode, hnode]
  dsimp only [List.foldl_nil]
  rw [h.atSource, hsource]
  rfl

theorem travelCtl_unprobed {s : State} (h : probing s = false) (op from_ dest : Nat) : travelCtl s op from_ dest = s := by
  rw [travelCtl, h]
  rfl

/-! ### Leases -/

/-- An ask of a port at a node is one that the node already has. -/
theorem asked_iff (s : State) (node port : Nat) :
    s.net.asks.any (fun a => a.1 == node && a.2.1 == port) = true ↔ ∃ e ∈ s.net.asks, e.1 = node ∧ e.2.1 = port := by
  simp

theorem exec_lease_queued {s : State} {port node : Fin 128} (hquiet : probing s = false) (hopen : nodeState s node = 0)
    (hnew : ∀ e ∈ s.net.asks, ¬(e.1 = node.val ∧ e.2.1 = port.val)) (n : Fin 8) : exec (.lease port node n) s =
      .next { s with net := { s.net with asks := s.net.asks ++ [(node.val, port.val, n.val + 1)] } } := by
  have hfirst : ¬ s.net.asks.any (fun a => a.1 == node.val && a.2.1 == port.val) = true := by
    rw [asked_iff]
    exact fun ⟨e, he, hsame⟩ => hnew e he hsame
  show execLease port node n s = _
  unfold execLease
  rw [travelCtl_unprobed hquiet, hopen, if_neg (by decide), if_neg (not_or.2 ⟨fun h => h rfl, hfirst⟩)]

theorem exec_lease_ignored {s : State} {port node : Fin 128} (hquiet : probing s = false)
    (hno : nodeState s node ≠ 0 ∨ ∃ e ∈ s.net.asks, e.1 = node.val ∧ e.2.1 = port.val) (n : Fin 8) :
    exec (.lease port node n) s = .next s := by
  show execLease port node n s = _
  unfold execLease
  dsimp only
  rw [travelCtl_unprobed hquiet, travelCtl_unprobed hquiet, if_pos (hno.imp_right (asked_iff s node port).2), ite_self]

theorem exec_grant_idle {s : State} {node : Fin 128} (h : NoneHeld s) (hnone : ∀ e ∈ s.net.asks, e.1 ≠ node.val) :
    exec (.grant node) s = .next s := by
  show execGrant node s = _
  unfold execGrant
  rw [List.find?_eq_none.2 fun e he => by simpa using hnone e he]
  exact congrArg _ (releaseHeld_noneHeld h)

/-- What a grant of `g` entries of the oldest lease leaves (R302). -/
theorem exec_grant {s : State} {port node : Fin 128} (hquiet : probing s = false) (h : NoneHeld s) {asked : Nat}
    {rest : List (Nat × Nat × Nat)} (hasks : s.net.asks = (node.val, port.val, asked) :: rest)
    (honce : ∀ e ∈ rest, ¬(e.1 = node.val ∧ e.2.1 = port.val)) {g : Nat}
    (hg : g = Nat.min (Nat.min asked (nodeCap node - (mget 0 s.net.granted node.val + entriesWaiting s node)))
      (8 - mget 0 s.net.held (128 * port.val + node.val))) :
    exec (.grant node) s = .next { s with net := { s.net with
      asks := if g = asked ∨ mget 0 s.net.held (128 * port.val + node.val) + g = 8 then rest
        else (node.val, port.val, asked - g) :: rest
      held := mset 0 s.net.held (128 * port.val + node.val) (mget 0 s.net.held (128 * port.val + node.val) + g)
      granted := mset 0 s.net.granted node (mget 0 s.net.granted node + g) } } := by
  have hle : g ≤ asked := hg ▸ (Nat.min_le_left ..).trans (Nat.min_le_left ..)
  have hfind : s.net.asks.find? (fun a => a.1 == node.val) = some (node.val, port.val, asked) := by
    rw [hasks, List.find?_cons_of_pos (by simp)]
  have hlen : (s.net.accepted.filter (fun q => nodeOf q.addr == some node.val)).length = 0 := by rw [h.atNode]; rfl
  have hkeep : rest.map (fun b => if b = (node.val, port.val, asked) then (node.val, port.val, asked - g) else b) = rest := by
    refine (List.map_congr_left fun b hb => if_neg fun he => honce b hb ?_).trans (List.map_id rest)
    rw [he]
    exact ⟨rfl, rfl⟩
  have hleft : (if asked - g = 0 ∨ mget 0 s.net.held (128 * port.val + node.val) + g = 8 then
        s.net.asks.erase (node.val, port.val, asked)
      else s.net.asks.map (fun b => if b = (node.val, port.val, asked) then (node.val, port.val, asked - g) else b)) =
      if g = asked ∨ mget 0 s.net.held (128 * port.val + node.val) + g = 8 then rest else (node.val, port.val, asked - g) :: rest := by
    rw [hasks, List.erase_cons_head, List.map_cons, hkeep, if_pos rfl]
    simp only [show (asked - g = 0) = (g = asked) from propext (by omega)]
  show execGrant node s = _
  unfold execGrant
  rw [hfind]
  dsimp only
  rw [travelCtl_unprobed hquiet, hlen, Nat.add_zero, ← hg, hleft]
  exact congrArg _ (releaseHeld_noneHeld ⟨h.atSource, h.atNode⟩)

/-- What a return of up to `m` entries leaves (R302). -/
structure GaveBack (s t : State) (port node m : Nat) : Prop where
  held    : mget 0 t.net.held (128 * port + node) = mget 0 s.net.held (128 * port + node) - m
  granted : mget 0 t.net.granted node = mget 0 s.net.granted node - Nat.min m (mget 0 s.net.held (128 * port + node))
  others  : ∀ j, j ≠ 128 * port + node → mget 0 t.net.held j = mget 0 s.net.held j
  asks    : t.net.asks = s.net.asks
  eq      : t = { s with net := t.net }

theorem giveBack_gaveBack {s : State} (hquiet : probing s = false) (port node m : Nat) :
    GaveBack s (giveBack s port node m) port node m := by
  unfold giveBack
  dsimp only
  split
  next hnone =>
    have hzero : m = 0 ∨ mget 0 s.net.held (128 * port + node) = 0 := Nat.min_eq_zero_iff.1 hnone
    exact ⟨by omega, by rw [hnone, Nat.sub_zero], fun _ _ => rfl, rfl, rfl⟩
  next =>
    rw [travelCtl_unprobed hquiet]
    refine ⟨?_, mget_mset_same .., fun j hj => mget_mset_other _ _ _ _ _ _ hj, rfl, rfl⟩
    refine (mget_mset_same ..).trans ?_
    show _ - min m _ = _
    omega

theorem GaveBack.of_net {s u t : State} {port node m : Nat} (h : GaveBack u t port node m)
    (hu : ∃ rs, u = { s with net := { s.net with recalls := rs } }) : GaveBack s t port node m := by
  obtain ⟨rs, rfl⟩ := hu
  exact ⟨h.held, h.granted, h.others, h.asks, h.eq⟩

theorem exec_recall {s : State} (hquiet : probing s = false) (port node : Fin 128) :
    ∃ t, exec (.recall port node) s = .next t ∧ GaveBack s t port node 8 := by
  refine ⟨_, rfl, ?_⟩
  rw [travelCtl_unprobed hquiet]
  exact (giveBack_gaveBack (s := { s with net := { s.net with recalls := s.net.recalls.erase (node.val, port.val) } }) hquiet ..).of_net
    ⟨_, rfl⟩

/-! ### The state of a node -/

theorem nodeState_setNode_same (s : State) (n v : Nat) : nodeState (setNode s n v) n = v % 4 := by
  unfold nodeState setNode
  split
  · exact State.fld_setFld_same _ _ _ _ _ (by decide) (by decide)
  · exact State.fld_setFld_same _ _ _ _ _ (by decide) (by decide)

theorem setNode_eq (s : State) (n v : Nat) : setNode s n v = { s with regs := (setNode s n v).regs } := by
  unfold setNode
  split <;> rfl

theorem rstat_ne {t t' : Nat} (ht : t < 64) (ht' : t' < 64) (h : t' ≠ t) : regAddr .NOC_RSTAT t' 0 ≠ regAddr .NOC_RSTAT t 0 := by
  have hbase : ∀ u : Nat, regAddr .NOC_RSTAT u 0 = 0x7FF4804000 + u / 16 * 0x1000000 + u % 16 * 0x80000 := fun u => by
    show 0x7FF4000000 + u / 16 * 0x1000000 + 0x800000 + u % 16 * 0x80000 + 0x4000 + 0 * 0x8 = _
    omega
  rw [hbase, hbase]
  omega

theorem nodeState_setNode_other (s : State) {n m : Nat} (hn : n < 128) (hm : m < 128) (h : m ≠ n) (v : Nat) :
    nodeState (setNode s n v) m = nodeState s m := by
  have hcases : m / 2 = n / 2 ∧ m % 2 ≠ n % 2 ∨ m / 2 ≠ n / 2 := by omega
  unfold nodeState setNode
  rcases hcases with ⟨htile, hport⟩ | htile
  · rw [htile]
    split <;> split
    · omega
    · exact State.fld_setFld_apart _ _ _ _ _ _ rfl (by decide) (by decide) (by decide) (by decide)
    · exact State.fld_setFld_apart _ _ _ _ _ _ rfl (by decide) (by decide) (by decide) (by decide)
    · omega
  · have hne := rstat_ne (t := n / 2) (t' := m / 2) (by omega) (by omega) htile
    split <;> split <;> exact State.fld_setFld_other _ _ _ _ _ _ _ _ hne

theorem exec_nodeOffline_closed {s : State} {tile : Tile} {svc : Bool} {node : Nat} (hnode : node = 2 * tile.val + flag svc)
    (hclosing : nodeState s node = 1) (hfree : mget 0 s.net.granted node = 0) (hempty : entriesWaiting s node = 0)
    (hown : ∀ x ∈ s.resps, srcPort x.dst ≠ node) : exec (.nodeOffline tile svc) s = .next (setNode s node 2) := by
  show Host.Outcome.next (nodeOffline s (2 * tile.val + flag svc)) = _
  rw [← hnode, nodeOffline, if_pos ⟨hclosing, hfree, hempty, List.all_eq_true.2 fun x hx => by simpa using hown x hx⟩]

theorem exec_nodeOffline_kept {s : State} {tile : Tile} {svc : Bool} {node : Nat} (hnode : node = 2 * tile.val + flag svc)
    (hno : nodeState s node ≠ 1 ∨ mget 0 s.net.granted node ≠ 0 ∨ entriesWaiting s node ≠ 0 ∨ ∃ x ∈ s.resps, srcPort x.dst = node) :
    exec (.nodeOffline tile svc) s = .next s := by
  show Host.Outcome.next (nodeOffline s (2 * tile.val + flag svc)) = _
  rw [← hnode, nodeOffline, if_neg]
  rintro ⟨hclosing, hfree, hempty, hown⟩
  rcases hno with h | h | h | ⟨x, hx, h⟩
  · exact h hclosing
  · exact h hfree
  · exact h hempty
  · exact absurd h (by simpa using List.all_eq_true.1 hown x hx)

/-! ### Responses -/

/-- No swap of the routing tables is under way that a response could complete. -/
structure SwapIdle (s : State) : Prop where
  noneHeld  : NoneHeld s
  notTaking : s.swapState ≠ 2
  notReady  : s.swapState ≠ 3

theorem afterReply_idle {s : State} (h : SwapIdle s) : afterReply s = s := by
  have hswap : swapIfStopped s = s := by
    unfold swapIfStopped
    rw [if_neg (not_or.2 ⟨h.notReady, fun hq => h.notTaking hq.1⟩), ite_self]
  rw [afterReply, hswap, releaseHeld_noneHeld h.noneHeld]

theorem SwapIdle.of_eq {s t : State} (h : SwapIdle s) (hnet : t.net = s.net) (hswap : t.swapState = s.swapState) : SwapIdle t :=
  ⟨⟨by rw [hnet, h.noneHeld.atSource], by rw [hnet, h.noneHeld.atNode]⟩, by rw [hswap]; exact h.notTaking, by rw [hswap]; exact h.notReady⟩

section Responses

variable {s : State} {dst : BitVec 8} {tag : BitVec 16} {x : Resp}

theorem exec_rdata_none (hnone : s.resps.find? (fun r => r.isFor s true dst.toNat tag.toNat) = none) :
    exec (.rdata dst tag) s = .next s := by
  show execRdata dst tag s = _
  rw [execRdata, hnone]

theorem exec_wack_none (hnone : s.resps.find? (fun r => r.isFor s false dst.toNat tag.toNat) = none) :
    exec (.wack dst tag) s = .next s := by
  show execWack dst tag s = _
  rw [execWack, hnone]

/-- A response that is taken is one of its tag for its requester. -/
theorem isFor_of_find {rd : Bool} (hx : s.resps.find? (fun r => r.isFor s rd dst.toNat tag.toNat) = some x) :
    x.dst = dst.toNat ∧ x.tag = tag.toNat := by
  have hfor := List.find?_some hx
  unfold Resp.isFor at hfor
  simp only [Bool.and_eq_true, beq_iff_eq] at hfor
  exact ⟨hfor.1.1.2, hfor.1.2⟩

/-- A read response that is taken leaves the network and reaches its requester. -/
theorem exec_rdata (hx : s.resps.find? (fun r => r.isFor s true dst.toNat tag.toNat) = some x) {t : State}
    (ht : readReply { s with resps := s.resps.erase x, lastRead := x.words.headD 0 } x = t) (hidle : SwapIdle t) :
    exec (.rdata dst tag) s = .next t := by
  show execRdata dst tag s = _
  rw [execRdata, hx]
  dsimp only
  rw [ht, afterReply_idle hidle]

/-- An acknowledgement that is taken leaves the network and reaches its requester. -/
theorem exec_wack (hx : s.resps.find? (fun r => r.isFor s false dst.toNat tag.toNat) = some x) {t : State}
    (ht : writeReply { s with resps := s.resps.erase x } x = t) (hidle : SwapIdle t) : exec (.wack dst tag) s = .next t := by
  show execWack dst tag s = _
  rw [execWack, hx]
  dsimp only
  rw [ht, afterReply_idle hidle]

end Responses

/-! ### Who takes a response -/

theorem readReply_late (s : State) {x : Resp} (h : x.late = true) : readReply s x = s := by rw [readReply, h]; rfl

theorem writeReply_late (s : State) {x : Resp} (h : x.late = true) : writeReply s x = s := by rw [writeReply, h]; rfl

/-- No requester takes a read response for one of these identifiers. -/
theorem readReply_nobody (s : State) {x : Resp} (h : x.dst < 0x40 ∨ (0x44 ≤ x.dst ∧ x.dst < 0x4C) ∨ 0x5C ≤ x.dst) :
    readReply s x = s := by
  unfold readReply
  dsimp only
  rw [if_neg (by omega : ¬ (0x40 ≤ x.dst ∧ x.dst < 0x44)), if_neg (by omega : ¬ (0x4C ≤ x.dst ∧ x.dst < 0x50)),
    if_neg (by omega : ¬ x.dst = 0x58), if_neg (by omega : ¬ x.dst = 0x5B), ite_self]

theorem readReply_jtag (s : State) {x : Resp} (hlate : x.late = false) (h : x.dst = 0x5B) : readReply s x =
    { s with jtag := { s.jtag with status := x.status, data := if x.status = 0 then x.words.headD 0 else s.jtag.data } } := by
  rw [readReply, hlate, h]
  rfl

theorem readReply_sup (s : State) {x : Resp} {r : Region} (hlate : x.late = false) (h : x.dst = 0x40 + r.val) :
    readReply s x = nldReply s (64 + r) x.status x.words := by
  unfold readReply
  dsimp only
  rw [hlate, if_neg Bool.false_ne_true, if_pos (by omega), h]

/-- No requester waits for an acknowledgement for one of these identifiers. -/
theorem writeReply_nobody (s : State) {x : Resp} (h : (0x4C ≤ x.dst ∧ x.dst < 0x58) ∨ 0x5C ≤ x.dst) : writeReply s x = s := by
  unfold writeReply
  rw [if_neg (by omega : ¬ x.dst < 0x40), if_neg (by omega : ¬ x.dst < 0x44), if_neg (by omega : ¬ (x.dst < 0x48 ∧ x.tag % 4096 ≠ 0)),
    if_neg (by omega : ¬ x.dst < 0x48), if_neg (by omega : ¬ x.dst < 0x4C), if_neg (by omega : ¬ x.dst = 0x58),
    if_neg (by omega : ¬ x.dst = 0x5B), ite_self]

theorem writeReply_jtag (s : State) {x : Resp} (hlate : x.late = false) (h : x.dst = 0x5B) :
    writeReply s x = { s with jtag := { s.jtag with status := x.status } } := by
  rw [writeReply, hlate, h]
  rfl

theorem writeReply_host (s : State) {x : Resp} {e : Nat × Nat} (hlate : x.late = false) (h : x.dst = 0x58) (htag : x.tag < 0xC000)
    (hok : x.status = 0) (he : s.host.writes.find? (fun e => e.1 == x.tag) = some e) :
    writeReply s x = { s with host := { s.host with writes := s.host.writes.erase e } } := by
  have hack : hostWack s x.tag x.status = { s with host := { s.host with writes := s.host.writes.erase e } } := by
    rw [hostWack, he, hok]
    rfl
  rw [writeReply, hlate, h, ← hack]
  exact if_neg (Nat.not_le.2 htag)

theorem writeReply_sink (s : State) {x : Resp} {r : Region} (hlate : x.late = false) (h : x.dst = 0x48 + r.val) (hok : x.status = 0) :
    writeReply s x = s.setTrcUnit r { s.trcUnit r with ringWait := (s.trcUnit r).ringWait - 1 } := by
  unfold writeReply
  rw [hlate, if_neg Bool.false_ne_true, if_neg (by omega), if_neg (by omega), if_neg (by omega), if_neg (by omega), if_pos (by omega), h,
    Nat.add_sub_cancel_left, hok]
  rfl

theorem writeReply_sup (s : State) {x : Resp} {r : Region} (hlate : x.late = false) (h : x.dst = 0x40 + r.val) (htag : x.tag < 0x8000) :
    writeReply s x = nstAck s (64 + r) x.status := by
  unfold writeReply
  rw [hlate, if_neg Bool.false_ne_true, if_neg (by omega), if_pos (by omega), if_neg (Nat.not_le.2 htag), h]

/-! ### The registers of a supervisor -/

theorem isSup_region (r : Region) : isSup (64 + r.val) = true := decide_eq_true (Nat.le_add_right ..)

theorem procUnit_region (r : Region) : procUnit (64 + r.val) = r.val := by
  rw [procUnit, isSup_region, if_pos rfl, Nat.add_sub_cancel_left]

theorem pf_region (s : State) (r : Region) (se sup : Fld) : s.pf (64 + r.val) se sup = s.fld sup r := by
  rw [State.pf, isSup_region, if_pos rfl, procUnit_region]

theorem setPf_region (s : State) (r : Region) (se sup : Fld) (v : Nat) : s.setPf (64 + r.val) se sup v = s.setFld sup r 0 v := by
  rw [State.setPf, isSup_region, if_pos rfl, procUnit_region]

/-- A slot of a region is none of the swap status. -/
theorem swapState_setFld {f : Fld} (hf : f.reg.place.blk = .region) (s : State) (r i v : Nat) :
    (s.setFld f r i v).swapState = s.swapState := by
  refine State.fld_setFld_other _ _ _ _ _ _ _ _ fun he => ?_
  have hbase : regAddr f.reg r i = 0x7FF4000000 + r * 0x1000000 + f.reg.place.offset + i * f.reg.place.stride := by
    rw [regAddr, hf]
    rfl
  rw [hbase] at he
  have hswap : regAddr F.NOC_SWAP_STAT.STATE.reg 0 0 = 0x7FF0040010 := rfl
  omega

/-- Slots of a supervisor's block other than SUP_STATUS were written. -/
structure SupWritten (s t : State) (r : Region) : Prop where
  eq     : t = { s with regs := t.regs }
  swap   : t.swapState = s.swapState
  fast   : t.inFast (64 + r.val) = s.inFast (64 + r.val)
  traced : t.traced (64 + r.val) = s.traced (64 + r.val)

theorem SupWritten.refl (s : State) (r : Region) : SupWritten s s r := ⟨rfl, rfl, rfl, rfl⟩

theorem SupWritten.setFld {s t : State} {r : Region} (h : SupWritten s t r) (f : Fld) (v : Nat)
    (hf : f.reg.place.blk = .region ∧ f.reg.place.offset < 0x80 ∧ f.reg.place.offset ≠ 0x8 := by decide) :
    SupWritten s (t.setFld f r 0 v) r := by
  obtain ⟨hblk, hlow, hoff⟩ := hf
  obtain ⟨heq, hswap, hfast, htraced⟩ := h
  have hkept : ∀ g : Fld, g.reg.place.blk = .region → g.reg.place.offset < 0x800000 → f.reg.place.offset ≠ g.reg.place.offset →
      (t.setFld f r 0 v).fld g r = t.fld g r := fun g hg hlt hne =>
    State.fld_setFld_other _ _ _ _ _ _ _ _ (regAddr_ne_of_offset hg hblk (by rw [Nat.zero_mul]; omega) (by rw [Nat.zero_mul]; omega)
      (by rw [Nat.zero_mul, Nat.zero_mul]; exact hne.symm) _ _)
  have hregion : procRegion (64 + r.val) = r.val := by rw [procRegion, isSup_region, if_pos rfl, Nat.add_sub_cancel_left]
  have hsrc : f.reg.place.offset ≠ F.TRC_SRC.EN.reg.place.offset := fun he => by
    have : F.TRC_SRC.EN.reg.place.offset = 0x100008 := rfl
    omega
  have hctrl : f.reg.place.offset ≠ F.TRC_CTRL.SINK.reg.place.offset := fun he => by
    have : F.TRC_CTRL.SINK.reg.place.offset = 0x100000 := rfl
    omega
  refine ⟨by rw [heq]; rfl, (swapState_setFld hblk ..).trans hswap, ?_, ?_⟩
  · rw [← hfast, State.inFast, State.inFast, pf_region, pf_region, hkept F.SUP_STATUS.FBANK rfl (by decide) hoff]
  · rw [← htraced, State.traced, State.traced, hregion, hkept F.TRC_SRC.EN rfl (by decide) hsrc,
      hkept F.TRC_CTRL.SINK rfl (by decide) hctrl]

theorem SupWritten.proc {s t : State} {r : Region} (h : SupWritten s t r) (p : Nat) : t.proc p = s.proc p := by rw [h.eq]; rfl

/-- An error of the network sets NERR, whose first one is held in STATUS (R173). -/
theorem supNerr_written (s : State) (r : Region) (st : Nat) : SupWritten s (supNerr s (64 + r) st) r ∧
    (supNerr s (64 + r) st).fld F.SUP_NSTAT.NERR r = 1 ∧
    (∀ g, fldsApart F.SUP_NSTAT.STATUS g = true → fldsApart F.SUP_NSTAT.NERR g = true → fldsApart F.SUP_IRQ_PEND.EDGE g = true →
      (supNerr s (64 + r) st).fld g r = s.fld g r) ∧
    (st < 16 → s.fld F.SUP_NSTAT.NERR r = 0 → (supNerr s (64 + r) st).fld F.SUP_NSTAT.STATUS r = st) := by
  unfold supNerr raiseEdge
  dsimp only
  rw [Nat.add_sub_cancel_left, setPf_region]
  generalize hu : (if s.on F.SUP_NSTAT.NERR r = true then s else s.setFld F.SUP_NSTAT.STATUS r 0 st) = u
  have hwritten : SupWritten s u r := by
    rw [← hu]
    split
    · exact SupWritten.refl s r
    · exact (SupWritten.refl s r).setFld F.SUP_NSTAT.STATUS st
  refine ⟨(hwritten.setFld F.SUP_NSTAT.NERR 1).setFld F.SUP_IRQ_PEND.EDGE _, ?_, fun g hstatus hnerr hedge => ?_,
    fun hst hfirst => ?_⟩
  · rw [fld_setFld_fldsApart (by decide), State.fld_setFld_same _ _ _ _ _ (by decide) (by decide)]
    rfl
  · rw [fld_setFld_fldsApart hedge, fld_setFld_fldsApart hnerr, ← hu]
    split
    · rfl
    · exact fld_setFld_fldsApart hstatus ..
  · have hon : s.on F.SUP_NSTAT.NERR r = false := by
      rw [State.on, hfirst]
      rfl
    rw [fld_setFld_fldsApart (by decide), fld_setFld_fldsApart (by decide), ← hu, hon, if_neg Bool.false_ne_true,
      State.fld_setFld_same _ _ _ _ _ (by decide) (by decide)]
    exact Nat.mod_eq_of_lt hst

/-! ### The response of a load -/

theorem endNet_plain {s : State} {p : Nat} (htraced : s.traced p = false) (hrtf : (s.proc p).rtf = false)
    (hhalt : (s.proc p).haltReq = false) (hstep : (s.proc p).stepping = false) :
    endNet s p = s.setProc p { s.proc p with net := .none } := by
  unfold endNet
  rw [trcWait_untraced (show (s.setProc p { s.proc p with net := .none }).traced p = false from htraced),
    endRtf_noRtf (by rw [proc_setProc_same]; exact hrtf)]
  exact settle_idle (by rw [proc_setProc_same]; exact hhalt) (by rw [proc_setProc_same]; exact hstep)

/-- What the response of a load leaves: the word in its register, or 0 and the error (R173). -/
structure Loaded (s t : State) (r : Region) (rd st : Nat) (w : Word) : Prop where
  net    : (t.proc (64 + r.val)).net = .none
  word   : t.getX (64 + r.val) rd = if st = 0 then w else 0
  others : ∀ k, k ≠ rd → t.getX (64 + r.val) k = s.getX (64 + r.val) k
  sr     : t.sr (64 + r.val) = s.sr (64 + r.val)
  nerr   : t.fld F.SUP_NSTAT.NERR r = if st = 0 then s.fld F.SUP_NSTAT.NERR r else 1
  status : st ≠ 0 → st < 16 → s.fld F.SUP_NSTAT.NERR r = 0 → t.fld F.SUP_NSTAT.STATUS r = st
  swap   : t.swapState = s.swapState
  eq     : t = { s with regs := t.regs, procs := t.procs, free := t.free }

/-- The state of a supervisor whose wait ends with a word in its register, after writes of its slots. -/
theorem loaded_of_written {s v u : State} {r : Region} {rd : Nat} {w : Word} (hv : SupWritten s v r)
    (hu : SupWritten (v.used.setX (64 + r.val) rd w) u r) {t : State}
    (ht : t = u.setProc (64 + r.val) { u.proc (64 + r.val) with net := .none }) :
    (t.proc (64 + r.val)).net = .none ∧ t.getX (64 + r.val) rd = w ∧
      (∀ k, k ≠ rd → t.getX (64 + r.val) k = s.getX (64 + r.val) k) ∧ t.sr (64 + r.val) = s.sr (64 + r.val) ∧
      t.swapState = s.swapState ∧ t = { s with regs := t.regs, procs := t.procs, free := t.free } := by
  have hbank : bankNow t (64 + r.val) = bankNow (v.used.setX (64 + r.val) rd w) (64 + r.val) := by
    rw [ht, bankNow_setProc, hu.fast, hu.proc]
    rfl
  have hbank' : bankNow v.used (64 + r.val) = bankNow s (64 + r.val) := by
    rw [bankNow, bankNow, ← hv.fast, ← hv.proc]
    rfl
  refine ⟨by rw [ht, proc_setProc_same], ?_, fun k hk => ?_, ?_, ?_, ?_⟩
  · rw [getX_eq_bankNow, hbank, ← getX_eq_bankNow, getX_setX_same]
  · rw [getX_eq_bankNow, hbank, ← getX_eq_bankNow, getX_setX_other _ _ _ hk, getX_eq_bankNow, hbank', ← getX_eq_bankNow]
  · rw [sr_eq_bankNow, hbank, ← sr_eq_bankNow, sr_setX, sr_eq_bankNow, hbank', ← sr_eq_bankNow]
  · rw [ht]
    exact hu.swap.trans hv.swap
  · rw [ht, hu.eq, hv.eq]
    rfl

theorem nldReply_loaded {s : State} {r : Region} {rd at_ : Nat} (hnet : (s.proc (64 + r.val)).net = .load rd at_)
    (htraced : s.traced (64 + r.val) = false) (hrtf : (s.proc (64 + r.val)).rtf = false) (hhalt : (s.proc (64 + r.val)).haltReq = false)
    (hstep : (s.proc (64 + r.val)).stepping = false) (st : Nat) (ws : List Word) :
    Loaded s (nldReply s (64 + r) st ws) r rd st (ws.headD 0) := by
  have hstall : SupWritten s (s.addSat F.SUP_STALL.CYCLES r 0 s.fresh.toNat) r := (SupWritten.refl s r).setFld F.SUP_STALL.CYCLES _
  generalize hv : s.addSat F.SUP_STALL.CYCLES r 0 s.fresh.toNat = v at hstall
  have hfld : ∀ f : Fld, fldsApart F.SUP_STALL.CYCLES f = true → v.fld f r = s.fld f r := fun f hf => hv ▸ fld_setFld_fldsApart hf ..
  have hplain : ∀ {u : State} {w : Word}, SupWritten (v.used.setX (64 + r.val) rd w) u r →
      endNet u (64 + r) = u.setProc (64 + r.val) { u.proc (64 + r.val) with net := .none } := by
    intro u w hu
    have hproc : unlanded (u.proc (64 + r.val)) = unlanded (s.proc (64 + r.val)) := by
      rw [hu.proc, State.setX, proc_setProc_same, unlanded_setBank, ← hstall.proc]
      rfl
    have hrtf' := congrArg ProcSt.rtf hproc
    have hhalt' := congrArg ProcSt.haltReq hproc
    have hstep' := congrArg ProcSt.stepping hproc
    exact endNet_plain (hu.traced.trans (hstall.traced.trans htraced)) (hrtf'.trans hrtf) (hhalt'.trans hhalt) (hstep'.trans hstep)
  have hreply : nldReply s (64 + r) st ws = endNet (if st = stOk then v.used.setX (64 + r.val) rd (ws.headD 0)
      else supNerr (v.used.setX (64 + r.val) rd 0) (64 + r) st) (64 + r) := by
    unfold nldReply
    rw [hnet]
    dsimp only
    rw [Nat.add_sub_cancel_left, hv]
  by_cases hok : st = 0
  · rw [if_pos (show st = stOk from hok), hplain (SupWritten.refl _ r)] at hreply
    obtain ⟨hnone, hword, hothers, hsr, hswap, heq⟩ := loaded_of_written hstall (SupWritten.refl _ r) hreply
    refine ⟨hnone, by rw [if_pos hok, hword], hothers, hsr, ?_, fun hne => absurd hok hne, hswap, heq⟩
    rw [if_pos hok, ← hfld _ (by decide)]
    exact fld_of_regs (by rw [hreply]; rfl) ..
  · obtain ⟨hwritten, hnerr, -, hstatus⟩ := supNerr_written (v.used.setX (64 + r.val) rd 0) r st
    generalize supNerr (v.used.setX (64 + r.val) rd 0) (64 + r) st = u at hwritten hnerr hstatus hreply
    rw [if_neg (show ¬ st = stOk from hok), hplain hwritten] at hreply
    obtain ⟨hnone, hword, hothers, hsr, hswap, heq⟩ := loaded_of_written hstall hwritten hreply
    refine ⟨hnone, by rw [if_neg hok, hword], hothers, hsr, ?_, fun _ hst hfirst => ?_, hswap, heq⟩
    · rw [if_neg hok, ← hnerr]
      exact fld_of_regs (by rw [hreply]; rfl) ..
    · refine (fld_of_regs (by rw [hreply]; rfl) ..).trans (hstatus hst ?_)
      exact (fld_of_regs rfl ..).trans ((hfld F.SUP_NSTAT.NERR (by decide)).trans hfirst)

/-! ### The acknowledgement of a store -/

/-- What the acknowledgement of a store leaves while the supervisor waits for none (R173). -/
structure Acked (s t : State) (r : Region) (st : Nat) : Prop where
  outstanding : t.fld F.SUP_NSTAT.OUTSTANDING r = s.fld F.SUP_NSTAT.OUTSTANDING r - 1
  nerr        : t.fld F.SUP_NSTAT.NERR r = if st = 0 then s.fld F.SUP_NSTAT.NERR r else 1
  reports     : st ≠ 0 → bitOf (s.fld F.SUP_STATUS.EVT r) 3 = false → Reports s t 0x4204
  swap        : t.swapState = s.swapState
  eq          : t = { s with regs := t.regs, detected := t.detected }

/-- What the first event of a kind leaves: its bit and its record. -/
structure Noted (s t : State) (f : Fld) (r : Region) (code : Nat) : Prop where
  fld     : ∀ g, fldsApart f g = true → t.fld g r = s.fld g r
  swap    : t.swapState = s.swapState
  reports : Reports s t code
  eq      : t = { s with regs := t.regs, detected := t.detected }

theorem orFld_emitRegion_noted {f : Fld} (hf : f.reg.place.blk = .region) (s : State) (r : Region) (b : Nat) {code : Nat}
    (hcode : code < 2 ^ 16) : Noted s ((s.orFld f r 0 b).emitRegion code r) f r code := by
  have hregs : ((s.orFld f r 0 b).emitRegion code r).regs = (s.orFld f r 0 b).regs := rfl
  exact ⟨fun g hg => (fld_of_regs hregs ..).trans (fld_setFld_fldsApart hg ..),
    (fld_of_regs hregs F.NOC_SWAP_STAT.STATE 0 0).trans (swapState_setFld hf ..),
    reports_of_emit (u := s.orFld f r 0 b) rfl rfl hcode r.isLt (by decide), rfl⟩

/-- The event of a failed store is recorded once (R173). -/
theorem procEvent_nerr (s : State) (r : Region) : procEvent s (64 + r) 3 =
    if bitOf (s.fld F.SUP_STATUS.EVT r) 3 then s else (s.orFld F.SUP_STATUS.EVT r 0 3).emitRegion 0x4204 r := by
  unfold procEvent
  rw [isSup_region, if_pos rfl, Nat.add_sub_cancel_left]
  rfl

theorem nstAck_acked {s : State} {r : Region} (hnet : (s.proc (64 + r.val)).net = .none) (st : Nat) :
    Acked s (nstAck s (64 + r) st) r st := by
  have hless : SupWritten s (s.setFld F.SUP_NSTAT.OUTSTANDING r 0 (s.fld F.SUP_NSTAT.OUTSTANDING r - 1)) r :=
    (SupWritten.refl s r).setFld F.SUP_NSTAT.OUTSTANDING _
  have hcount : (s.setFld F.SUP_NSTAT.OUTSTANDING r 0 (s.fld F.SUP_NSTAT.OUTSTANDING r - 1)).fld F.SUP_NSTAT.OUTSTANDING r =
      s.fld F.SUP_NSTAT.OUTSTANDING r - 1 := by
    rw [State.fld_setFld_same _ _ _ _ _ (by decide) (by decide)]
    exact Nat.mod_eq_of_lt ((Nat.sub_le ..).trans_lt (bitsOf_lt _ 5 0))
  have hother : ∀ f : Fld, fldsApart F.SUP_NSTAT.OUTSTANDING f = true →
      (s.setFld F.SUP_NSTAT.OUTSTANDING r 0 (s.fld F.SUP_NSTAT.OUTSTANDING r - 1)).fld f r = s.fld f r := fun f hf =>
    fld_setFld_fldsApart hf ..
  generalize hv : s.setFld F.SUP_NSTAT.OUTSTANDING r 0 (s.fld F.SUP_NSTAT.OUTSTANDING r - 1) = v at hless hcount hother
  have hack : ∀ {u : State}, (if st = stOk then v else procEvent (supNerr v (64 + r) st) (64 + r) 3) = u →
      u.procs = s.procs → nstAck s (64 + r) st = u := by
    intro u hu hprocs
    unfold nstAck
    dsimp only
    rw [Nat.add_sub_cancel_left, hv, hu, State.proc, hprocs, ← State.proc, hnet]
  have hprocs : v.procs = s.procs := by rw [hless.eq]
  by_cases hok : st = 0
  · rw [hack (if_pos hok) hprocs]
    refine ⟨hcount, by rw [if_pos hok, hother _ (by decide)], fun hne => absurd hok hne, hless.swap, ?_⟩
    rw [hless.eq]
  · obtain ⟨hwritten, hnerr, hkept, -⟩ := supNerr_written v r st
    have hack' := hack (if_neg hok)
    generalize supNerr v (64 + r) st = u at hwritten hnerr hkept hack'
    have hevt : u.fld F.SUP_STATUS.EVT r = s.fld F.SUP_STATUS.EVT r :=
      (hkept _ (by decide) (by decide) (by decide)).trans (hother _ (by decide))
    have hout : u.fld F.SUP_NSTAT.OUTSTANDING r = s.fld F.SUP_NSTAT.OUTSTANDING r - 1 :=
      (hkept _ (by decide) (by decide) (by decide)).trans hcount
    have hswap : u.swapState = s.swapState := hwritten.swap.trans hless.swap
    have heq : u = { s with regs := u.regs } := by
      rw [hwritten.eq, hless.eq]
    have hdetected : u.detected = s.detected := by rw [heq]
    have hprocs' : u.procs = s.procs := by rw [heq]
    rw [procEvent_nerr, hevt] at hack'
    cases hseen : bitOf (s.fld F.SUP_STATUS.EVT r) 3
    · rw [hseen, if_neg Bool.false_ne_true] at hack'
      have hnoted := orFld_emitRegion_noted (f := F.SUP_STATUS.EVT) rfl u r 3 (code := 0x4204) (by decide)
      generalize (u.orFld F.SUP_STATUS.EVT r 0 3).emitRegion 0x4204 r = e at hack' hnoted
      have heq' : e = { s with regs := e.regs, detected := e.detected } := by
        rw [hnoted.eq, heq]
      obtain ⟨rec, hrec, hcode⟩ := hnoted.reports
      rw [hack' (by rw [heq'])]
      refine ⟨(hnoted.fld _ (by decide)).trans hout, ?_, fun _ _ => ⟨rec, by rw [hrec, hdetected], hcode⟩, hnoted.swap.trans hswap, heq'⟩
      rw [if_neg hok, hnoted.fld _ (by decide), hnerr]
    · rw [hseen, if_pos rfl] at hack'
      rw [hack' hprocs']
      refine ⟨hout, by rw [if_neg hok, hnerr], fun _ h => absurd h (by rw [hseen]; nofun), hswap, ?_⟩
      rw [heq]

end Sys2Proof.Laws
end

section

open Sys2Proof Sys2Proof.Machine Sys2Proof.Safety Sys2Proof.Laws

/-- Settles O36: with nothing held and no swap under way a command of the leases is its one write of the network's state, and a
response is its own effect at its requester. -/
theorem leasesAndResponsesReachTheirOwners : Obligations.LeasesAndResponsesReachTheirOwners := by
  unfold Obligations.LeasesAndResponsesReachTheirOwners
  constructor
  · intro s port node n hquiet hwait hacc k held used cap gives
    have hnone : NoneHeld s := ⟨hwait, hacc⟩
    have hgives : ∀ {o : Host.Outcome State Fault Refusal} {m : Nat}, (∃ t, o = .next t ∧ GaveBack s t port node m) → gives o m :=
      fun ⟨t, ht, hback⟩ => ⟨t, ht, hback.held, hback.granted, hback.others, hback.asks, hback.eq⟩
    refine ⟨fun hopen hnew => exec_lease_queued hquiet hopen hnew n, fun hno => exec_lease_ignored hquiet hno n,
      fun hidle => exec_grant_idle hnone hidle, fun asked rest hasks honce _ _ => ?_, hgives ⟨_, rfl, giveBack_gaveBack hquiet ..⟩,
      fun _ => ⟨hgives (exec_recall hquiet port node), hgives ⟨_, rfl, giveBack_gaveBack hquiet ..⟩⟩,
      congrArg _ (travelCtl_unprobed hquiet ..), fun tile svc hnode => ⟨fun hclosing hfree hempty hown => ?_, exec_nodeOffline_kept hnode⟩⟩
    · exact ⟨_, exec_grant hquiet hnone hasks honce rfl, mget_mset_same .., mget_mset_same ..,
        fun j hj => mget_mset_other _ _ _ _ _ _ hj, rfl, rfl⟩
    · refine ⟨_, exec_nodeOffline_closed hnode hclosing hfree hempty hown, nodeState_setNode_same .., fun m hm hne =>
        nodeState_setNode_other s node.isLt hm hne 2, setNode_eq ..⟩
  · intro s dst tag hwait hacc htaking hready mine
    have hidle : SwapIdle s := ⟨⟨hwait, hacc⟩, htaking, hready⟩
    refine ⟨exec_rdata_none, exec_wack_none, fun x hx => ?_, fun x hx => ?_⟩
    · obtain ⟨hdst, -⟩ := isFor_of_find hx
      refine ⟨fun hlate => exec_rdata hx (readReply_late _ hlate) (hidle.of_eq rfl rfl),
        fun hlate hjtag => exec_rdata hx (readReply_jtag _ hlate (hdst.trans hjtag)) (hidle.of_eq rfl rfl),
        fun hnobody => exec_rdata hx (readReply_nobody _ (by rwa [hdst])) (hidle.of_eq rfl rfl),
        fun r rd at_ hlate hsup hnet htraced hrtf hhalt hstep => ?_⟩
      have hloaded := nldReply_loaded (s := { s with resps := s.resps.erase x, lastRead := x.words.headD 0 }) hnet htraced hrtf hhalt
        hstep x.status x.words
      generalize ht : nldReply { s with resps := s.resps.erase x, lastRead := x.words.headD 0 } (64 + r) x.status x.words = t at hloaded
      obtain ⟨hnone, hword, hothers, hsr, hnerr, hstatus, hswap, heq⟩ := hloaded
      refine ⟨t, exec_rdata hx ((readReply_sup _ hlate (hdst.trans hsup)).trans ht) (hidle.of_eq (by rw [heq]) hswap),
        by rw [heq], hnone, hword, hothers, hsr, hnerr, hstatus, ?_⟩
      rw [heq]
    · obtain ⟨hdst, htag⟩ := isFor_of_find hx
      refine ⟨fun hlate => exec_wack hx (writeReply_late _ hlate) (hidle.of_eq rfl rfl),
        fun hlate hjtag => exec_wack hx (writeReply_jtag _ hlate (hdst.trans hjtag)) (hidle.of_eq rfl rfl),
        fun hnobody => exec_wack hx (writeReply_nobody _ (by rwa [hdst])) (hidle.of_eq rfl rfl),
        fun e hlate hhost hlow hok he => exec_wack hx (writeReply_host _ hlate (hdst.trans hhost) (by rwa [htag]) hok (by rwa [htag]))
          (hidle.of_eq rfl rfl), fun r hlate hsup hlow hnet _ => ?_,
        fun r hlate hsink hok => exec_wack hx (writeReply_sink _ hlate (hdst.trans hsink) hok) (hidle.of_eq rfl rfl)⟩
      have hacked := nstAck_acked (s := { s with resps := s.resps.erase x }) hnet x.status
      generalize ht : nstAck { s with resps := s.resps.erase x } (64 + r) x.status = t at hacked
      obtain ⟨hout, hnerr, hreports, hswap, heq⟩ := hacked
      refine ⟨t, exec_wack hx ((writeReply_sup _ hlate (hdst.trans hsup) (by rwa [htag])).trans ht) (hidle.of_eq (by rw [heq]) hswap),
        by rw [heq], hout, hnerr, hreports, ?_⟩
      rw [heq]

end
